-- ==== Sys2Proof/Word.lean ====
section
/-! DEFINITION. The word types of the machine (R31, R84, R113): plain names for core bit vectors. -/

namespace Sys2Proof

/-- One byte of memory. -/
abbrev Byte := BitVec 8

/-- A 32-bit word: an instruction word, or one lane of a v register. -/
abbrev Word := BitVec 32

/-- A 64-bit word: a k register or an address. -/
abbrev DWord := BitVec 64

end Sys2Proof
end

