-- ==== Sys2Proof/Config.lean ====
section
/-! DEFINITION. What one implementation fixes: the values the manual leaves open (free values, log 9), as constants without a body. -/

namespace Sys2Proof

/-- A bit pattern the manual leaves open, applied to the running counter `State.freeCount` (log 9). -/
opaque Config.freeBits : Nat → Nat

/-- The bytes of an SPDM answer to a request, by kind and occurrence, around the content given: its layout is in the SPDM documents (R422, log 9). -/
opaque Config.spdmAnswer : Nat → Nat → List Byte → List Byte

/-- The device identity certificate chain (R422, log 9). -/
opaque Config.certChain : List Byte

/-- SHAKE256 of some bytes: the function is in no file of the spec (R421, R422, log 9). -/
opaque Config.shake256 : List Byte → List Byte

/-- A Falcon-1024 signature of some bytes under the device's key (R422, log 9). -/
opaque Config.falcon1024 : List Byte → List Byte

/-- Whether a sector (frame × 64 + sector) of an HBM row or bank that is fenced can no longer be read (R425, log 9). -/
opaque Config.hbmUnreadable : Nat → Bool

/-- The addresses (base, length) whose home is memory die `k`: the map from addresses to dies is not in the manual (log 9). -/
opaque Config.homeRange : Nat → Nat × Nat

end Sys2Proof
end

