-- ==== Sys2Proof/Machine/Bits.lean ====
section
/-! DEFINITION. Bit fields, sign extension and byte order (R5, R6, R9), on natural numbers and words. -/

namespace Sys2Proof

/-- Bits `lo + n - 1` down to `lo` of `w` (R6). -/
def fld (w lo n : Nat) : Nat := w / 2 ^ lo % 2 ^ n

/-- Bit `i` of `w`. -/
def bitAt (w i : Nat) : Bool := w / 2 ^ i % 2 == 1

/-- `sext(x, n)` of R9: the low `n` bits of `x` read as two's complement. -/
def sextInt (x n : Nat) : Int :=
  if bitAt x (n - 1) then (x % 2 ^ n : Int) - 2 ^ n else (x % 2 ^ n : Int)

/-- An exact integer narrowed to `n` bits (R9, `trunc32` at 32). -/
def truncInt (x : Int) (n : Nat) : Nat := (x % (2 ^ n : Int)).toNat

/-- The natural number whose little-endian bytes are `bs` (R5). -/
def ofBytes : List Byte → Nat
  | [] => 0
  | b :: bs => b.toNat + 256 * ofBytes bs

/-- The `n` little-endian bytes of `x` (R5). -/
def toBytes : Nat → Nat → List Byte
  | 0, _ => []
  | n + 1, x => BitVec.ofNat 8 x :: toBytes n (x / 256)

/-- The number of 1 bits among bits `n - 1 .. 0`. -/
def popCount : Nat → Nat → Nat
  | 0, _ => 0
  | n + 1, x => (if bitAt x n then 1 else 0) + popCount n x

/-- The number of 0 bits above the highest 1 bit, of bits `n - 1 .. 0`. -/
def leadZeros : Nat → Nat → Nat
  | 0, _ => 0
  | n + 1, x => if bitAt x n then 0 else 1 + leadZeros n x

/-- Bits `n - 1 .. 0` in reversed order (R88, brev). -/
def bitRev : Nat → Nat → Nat
  | 0, _ => 0
  | n + 1, x => (x % 2) * 2 ^ n + bitRev n (x / 2)

/-- The lanes, 0 to 31. -/
def lanes : List Nat := List.range 32

/-- The lanes whose bit is set in `mask`, ascending. -/
def lanesOf (mask : Word) : List Nat := lanes.filter fun l => mask.getLsbD l

/-- A mask with the bits of the given lanes. -/
def maskOf (ls : List Nat) : Word := ls.foldl (fun m l => m ||| (1#32 <<< l)) 0#32

/-- The lowest lane of a mask, if there is one. -/
def lowLane? (mask : Word) : Option Nat := lanes.find? fun l => mask.getLsbD l

/-- The lowest lane of a mask, 0 for the empty mask. -/
def lowLane (mask : Word) : Nat := (lowLane? mask).getD 0

end Sys2Proof
end

