-- ==== Sys2Proof/Machine/SMap.lean ====
section
/-! DEFINITION. Sparse maps: lists of (key, value) pairs with rising keys, and the byte memories built on them.
An absent key reads as a stated default. -/

namespace Sys2Proof

/-- A sparse map from natural keys. -/
abbrev SMap (α : Type) := List (Nat × α)

/-- The value at `k`, `d` if the key is absent. -/
def SMap.get {α : Type} (d : α) : SMap α → Nat → α
  | [], _ => d
  | (k', v) :: t, k => if k = k' then v else SMap.get d t k

/-- The value at `k`, if the key is present. -/
def SMap.find {α : Type} : SMap α → Nat → Option α
  | [], _ => none
  | (k', v) :: t, k => if k = k' then some v else SMap.find t k

/-- Put `v` at `k`, keeping keys rising. -/
def SMap.put {α : Type} : SMap α → Nat → α → SMap α
  | [], k, v => [(k, v)]
  | (k', v') :: t, k, v =>
    if k = k' then (k, v) :: t
    else if k < k' then (k, v) :: (k', v') :: t
    else (k', v') :: SMap.put t k v

/-- Remove key `k`. -/
def SMap.erase {α : Type} (m : SMap α) (k : Nat) : SMap α := m.filter fun e => e.1 != k

/-- Change the value at `k` (from the default `d` if absent). -/
def SMap.upd {α : Type} (d : α) (m : SMap α) (k : Nat) (f : α → α) : SMap α := m.put k (f (m.get d k))

/-- The keys, rising. -/
def SMap.keys {α : Type} (m : SMap α) : List Nat := m.map Prod.fst

/-- The values in key order. -/
def SMap.vals {α : Type} (m : SMap α) : List α := m.map Prod.snd

/-- A key below which every key of the map lies. -/
def SMap.fresh {α : Type} (m : SMap α) : Nat := m.foldl (fun n e => max n (e.1 + 1)) 0

/-- Insert into a list sorted by `le`, after equal elements. -/
def insertBy {α : Type} (lt : α → α → Bool) (x : α) : List α → List α
  | [] => [x]
  | y :: t => if lt x y then x :: y :: t else y :: insertBy lt x t

/-- Sort a list, keeping equal elements in order. -/
def sortBy {α : Type} (lt : α → α → Bool) (l : List α) : List α := l.foldl (fun acc x => insertBy lt x acc) []

/-- A byte memory: addresses strictly rising, and no entry equal to what an unlisted address reads as. -/
abbrev Memory := List (Nat × Byte)

/-- What an address that is not listed reads as: 0 (DESIGN CHOICE, log 2: the spec gives memory no contents before a write). -/
def Memory.blank : Byte := 0#8

/-- The byte at `a`. -/
def Memory.read (m : Memory) (a : Nat) : Byte := SMap.get Memory.blank m a

/-- Write one byte, keeping the canonical form: writing the blank value removes the entry. -/
def Memory.write (m : Memory) (a : Nat) (b : Byte) : Memory :=
  if b = Memory.blank then SMap.erase m a else SMap.put m a b

/-- The `n` bytes from `a` up. -/
def Memory.readN (m : Memory) (a : Nat) : Nat → List Byte
  | 0 => []
  | n + 1 => m.read a :: Memory.readN m (a + 1) n

/-- Write the bytes from `a` up. -/
def Memory.writeN (m : Memory) (a : Nat) : List Byte → Memory
  | [] => m
  | b :: bs => Memory.writeN (m.write a b) (a + 1) bs

/-- Strictly rising keys. -/
def SMap.rising {α : Type} : SMap α → Bool
  | [] => true
  | [_] => true
  | (a, _) :: (b, w) :: t => decide (a < b) && SMap.rising ((b, w) :: t)

/-- The canonical form of a byte memory. -/
def Memory.wf (m : Memory) : Bool := SMap.rising m && m.all fun e => e.2 != Memory.blank

end Sys2Proof
end

