-- ==== Sys2Proof/Syntax.lean ====
section
/-! DEFINITION. The syntax of Zelyoram-3 and of the device's operations: one constructor per row of spec/opcode_table.json.
Instruction forms carry the word header first (R31); operations and events carry the data that names them. -/

namespace Sys2Proof

/-- The header of an instruction word: chain, end of run, stall count (Table 2.1). -/
structure Hdr where
  c : Bool
  e : Bool
  s : BitVec 3
deriving DecidableEq, Repr

/-- A v register field (Table 2.3). -/
abbrev Vr := BitVec 6
/-- A k register field; k0 reads 0 (Table 2.3). -/
abbrev Kr := BitVec 6
/-- A predicate field: 0 to 47, 62 pF, 63 pT; 48 to 61 reserved (Table 2.3). -/
abbrev Pr := BitVec 6
/-- A dependency counter field; 7 names none (Table 2.3). -/
abbrev Dc := BitVec 3
/-- A block-extent selector (Table 2.3). -/
abbrev Bx := BitVec 2
/-- An accumulator tile field (Table 2.3). -/
abbrev Tile := BitVec 4

/-- Check modes (R63, Table 3.1). -/
inductive CheckMode where
  | off | trap | stall
deriving DecidableEq, Repr

/-- The encoding of CheckMode. -/
def CheckMode.code : CheckMode → Nat
  | .off => 0
  | .trap => 1
  | .stall => 2

/-- CheckMode from its encoding; none for a reserved value. -/
def CheckMode.ofNat? : Nat → Option CheckMode
  | 0 => some .off
  | 1 => some .trap
  | 2 => some .stall
  | _ => none

/-- Integer compare conditions (Table 4.7). -/
inductive ICond where
  | eq | ne | ltS | leS | gtS | geS | ltN | leN | gtN | geN
deriving DecidableEq, Repr

/-- The encoding of ICond. -/
def ICond.code : ICond → Nat
  | .eq => 0
  | .ne => 1
  | .ltS => 2
  | .leS => 3
  | .gtS => 4
  | .geS => 5
  | .ltN => 6
  | .leN => 7
  | .gtN => 8
  | .geN => 9

/-- ICond from its encoding; none for a reserved value. -/
def ICond.ofNat? : Nat → Option ICond
  | 0 => some .eq
  | 1 => some .ne
  | 2 => some .ltS
  | 3 => some .leS
  | 4 => some .gtS
  | 5 => some .geS
  | 6 => some .ltN
  | 7 => some .leN
  | 8 => some .gtN
  | 9 => some .geN
  | _ => none

/-- How a comparison is combined with a predicate (R93). -/
inductive Comb where
  | only | and | or | xor
deriving DecidableEq, Repr

/-- The encoding of Comb. -/
def Comb.code : Comb → Nat
  | .only => 0
  | .and => 1
  | .or => 2
  | .xor => 3

/-- Comb from its encoding; none for a reserved value. -/
def Comb.ofNat? : Nat → Option Comb
  | 0 => some .only
  | 1 => some .and
  | 2 => some .or
  | 3 => some .xor
  | _ => none

/-- Signs of the two operands of idot4 (R90). -/
inductive DotMode where
  | ss | nn | sn
deriving DecidableEq, Repr

/-- The encoding of DotMode. -/
def DotMode.code : DotMode → Nat
  | .ss => 0
  | .nn => 1
  | .sn => 2

/-- DotMode from its encoding; none for a reserved value. -/
def DotMode.ofNat? : Nat → Option DotMode
  | 0 => some .ss
  | 1 => some .nn
  | 2 => some .sn
  | _ => none

/-- Forms of kset (R99). -/
inductive KsetMode where
  | sext | zext | hi
deriving DecidableEq, Repr

/-- The encoding of KsetMode. -/
def KsetMode.code : KsetMode → Nat
  | .sext => 0
  | .zext => 1
  | .hi => 2

/-- KsetMode from its encoding; none for a reserved value. -/
def KsetMode.ofNat? : Nat → Option KsetMode
  | 0 => some .sext
  | 1 => some .zext
  | 2 => some .hi
  | _ => none

/-- Modes of kfromv (R100). -/
inductive KfvMode where
  | zext | sext | hi
deriving DecidableEq, Repr

/-- The encoding of KfvMode. -/
def KfvMode.code : KfvMode → Nat
  | .zext => 0
  | .sext => 1
  | .hi => 2

/-- KfvMode from its encoding; none for a reserved value. -/
def KfvMode.ofNat? : Nat → Option KfvMode
  | 0 => some .zext
  | 1 => some .sext
  | 2 => some .hi
  | _ => none

/-- Conditions of kcmp (R98). -/
inductive KCond where
  | eq | ne | ltS | ltN
deriving DecidableEq, Repr

/-- The encoding of KCond. -/
def KCond.code : KCond → Nat
  | .eq => 0
  | .ne => 1
  | .ltS => 2
  | .ltN => 3

/-- KCond from its encoding; none for a reserved value. -/
def KCond.ofNat? : Nat → Option KCond
  | 0 => some .eq
  | 1 => some .ne
  | 2 => some .ltS
  | 3 => some .ltN
  | _ => none

/-- Quad exchange directions (R105). -/
inductive QDir where
  | h | v | dg
deriving DecidableEq, Repr

/-- The encoding of QDir. -/
def QDir.code : QDir → Nat
  | .h => 0
  | .v => 1
  | .dg => 2

/-- QDir from its encoding; none for a reserved value. -/
def QDir.ofNat? : Nat → Option QDir
  | 0 => some .h
  | 1 => some .v
  | 2 => some .dg
  | _ => none

/-- Helper modes (Table 4.10). -/
inductive HelperMode where
  | copy | zero | nan
deriving DecidableEq, Repr

/-- The encoding of HelperMode. -/
def HelperMode.code : HelperMode → Nat
  | .copy => 0
  | .zero => 1
  | .nan => 2

/-- HelperMode from its encoding; none for a reserved value. -/
def HelperMode.ofNat? : Nat → Option HelperMode
  | 0 => some .copy
  | 1 => some .zero
  | 2 => some .nan
  | _ => none

/-- Modes of wshx (R107). -/
inductive ShuffleMode where
  | xor | up | down
deriving DecidableEq, Repr

/-- The encoding of ShuffleMode. -/
def ShuffleMode.code : ShuffleMode → Nat
  | .xor => 0
  | .up => 1
  | .down => 2

/-- ShuffleMode from its encoding; none for a reserved value. -/
def ShuffleMode.ofNat? : Nat → Option ShuffleMode
  | 0 => some .xor
  | 1 => some .up
  | 2 => some .down
  | _ => none

/-- Modes of wvote (R108). -/
inductive VoteMode where
  | ballot | all | any | count
deriving DecidableEq, Repr

/-- The encoding of VoteMode. -/
def VoteMode.code : VoteMode → Nat
  | .ballot => 0
  | .all => 1
  | .any => 2
  | .count => 3

/-- VoteMode from its encoding; none for a reserved value. -/
def VoteMode.ofNat? : Nat → Option VoteMode
  | 0 => some .ballot
  | 1 => some .all
  | 2 => some .any
  | 3 => some .count
  | _ => none

/-- Operations of wred (R109). -/
inductive RedOp where
  | add | minS | minN | maxS | maxN | and | or | xor
deriving DecidableEq, Repr

/-- The encoding of RedOp. -/
def RedOp.code : RedOp → Nat
  | .add => 0
  | .minS => 1
  | .minN => 2
  | .maxS => 3
  | .maxN => 4
  | .and => 5
  | .or => 6
  | .xor => 7

/-- RedOp from its encoding; none for a reserved value. -/
def RedOp.ofNat? : Nat → Option RedOp
  | 0 => some .add
  | 1 => some .minS
  | 2 => some .minN
  | 3 => some .maxS
  | 4 => some .maxN
  | 5 => some .and
  | 6 => some .or
  | 7 => some .xor
  | _ => none

/-- Float compare conditions (Table 6.7). -/
inductive FCond where
  | eq | ne | lt | le | gt | ge | ord | uno
deriving DecidableEq, Repr

/-- The encoding of FCond. -/
def FCond.code : FCond → Nat
  | .eq => 0
  | .ne => 1
  | .lt => 2
  | .le => 3
  | .gt => 4
  | .ge => 5
  | .ord => 6
  | .uno => 7

/-- FCond from its encoding; none for a reserved value. -/
def FCond.ofNat? : Nat → Option FCond
  | 0 => some .eq
  | 1 => some .ne
  | 2 => some .lt
  | 3 => some .le
  | 4 => some .gt
  | 5 => some .ge
  | 6 => some .ord
  | 7 => some .uno
  | _ => none

/-- Rounding modes (Table 6.2). -/
inductive Rm where
  | rne | rtz | rdn | rup
deriving DecidableEq, Repr

/-- The encoding of Rm. -/
def Rm.code : Rm → Nat
  | .rne => 0
  | .rtz => 1
  | .rdn => 2
  | .rup => 3

/-- Rm from its encoding; none for a reserved value. -/
def Rm.ofNat? : Nat → Option Rm
  | 0 => some .rne
  | 1 => some .rtz
  | 2 => some .rdn
  | 3 => some .rup
  | _ => none

/-- Rounding modes of fcvt (R127). -/
inductive Rm5 where
  | rne | rtz | rdn | rup | rna
deriving DecidableEq, Repr

/-- The encoding of Rm5. -/
def Rm5.code : Rm5 → Nat
  | .rne => 0
  | .rtz => 1
  | .rdn => 2
  | .rup => 3
  | .rna => 4

/-- Rm5 from its encoding; none for a reserved value. -/
def Rm5.ofNat? : Nat → Option Rm5
  | 0 => some .rne
  | 1 => some .rtz
  | 2 => some .rdn
  | 3 => some .rup
  | 4 => some .rna
  | _ => none

/-- Standard float formats (Table 5.1). -/
inductive FType where
  | f32 | f16 | bf16
deriving DecidableEq, Repr

/-- The encoding of FType. -/
def FType.code : FType → Nat
  | .f32 => 0
  | .f16 => 1
  | .bf16 => 2

/-- FType from its encoding; none for a reserved value. -/
def FType.ofNat? : Nat → Option FType
  | 0 => some .f32
  | 1 => some .f16
  | 2 => some .bf16
  | _ => none

/-- Integer types (Table 5.2). -/
inductive IType where
  | s8 | n8 | s16 | n16 | s32 | n32
deriving DecidableEq, Repr

/-- The encoding of IType. -/
def IType.code : IType → Nat
  | .s8 => 0
  | .n8 => 1
  | .s16 => 2
  | .n16 => 3
  | .s32 => 4
  | .n32 => 5

/-- IType from its encoding; none for a reserved value. -/
def IType.ofNat? : Nat → Option IType
  | 0 => some .s8
  | 1 => some .n8
  | 2 => some .s16
  | 3 => some .n16
  | 4 => some .s32
  | 5 => some .n32
  | _ => none

/-- Scale formats (R131, Table 5.3). -/
inductive ScaleFmt where
  | e8m0 | e4m3 | f16
deriving DecidableEq, Repr

/-- The encoding of ScaleFmt. -/
def ScaleFmt.code : ScaleFmt → Nat
  | .e8m0 => 0
  | .e4m3 => 1
  | .f16 => 2

/-- ScaleFmt from its encoding; none for a reserved value. -/
def ScaleFmt.ofNat? : Nat → Option ScaleFmt
  | 0 => some .e8m0
  | 1 => some .e4m3
  | 2 => some .f16
  | _ => none

/-- Matrix modes (Table 7.4). -/
inductive Semiring where
  | plusTimes | minPlus | maxTimes | orAnd
deriving DecidableEq, Repr

/-- The encoding of Semiring. -/
def Semiring.code : Semiring → Nat
  | .plusTimes => 0
  | .minPlus => 1
  | .maxTimes => 2
  | .orAnd => 3

/-- Semiring from its encoding; none for a reserved value. -/
def Semiring.ofNat? : Nat → Option Semiring
  | 0 => some .plusTimes
  | 1 => some .minPlus
  | 2 => some .maxTimes
  | 3 => some .orAnd
  | _ => none

/-- Matrix operand types (Table 7.1). -/
inductive MatType where
  | f32 | f16 | bf16 | fmt | s32
deriving DecidableEq, Repr

/-- The encoding of MatType. -/
def MatType.code : MatType → Nat
  | .f32 => 0
  | .f16 => 1
  | .bf16 => 2
  | .fmt => 3
  | .s32 => 4

/-- MatType from its encoding; none for a reserved value. -/
def MatType.ofNat? : Nat → Option MatType
  | 0 => some .f32
  | 1 => some .f16
  | 2 => some .bf16
  | 3 => some .fmt
  | 4 => some .s32
  | _ => none

/-- Types of mlbld (R176). -/
inductive BldType where
  | f16 | bf16 | fmt
deriving DecidableEq, Repr

/-- The encoding of BldType. -/
def BldType.code : BldType → Nat
  | .f16 => 0
  | .bf16 => 1
  | .fmt => 2

/-- BldType from its encoding; none for a reserved value. -/
def BldType.ofNat? : Nat → Option BldType
  | 0 => some .f16
  | 1 => some .bf16
  | 2 => some .fmt
  | _ => none

/-- Fill values of macz (R171). -/
inductive MaczVal where
  | zero | pinf | ninf | smax
deriving DecidableEq, Repr

/-- The encoding of MaczVal. -/
def MaczVal.code : MaczVal → Nat
  | .zero => 0
  | .pinf => 1
  | .ninf => 2
  | .smax => 3

/-- MaczVal from its encoding; none for a reserved value. -/
def MaczVal.ofNat? : Nat → Option MaczVal
  | 0 => some .zero
  | 1 => some .pinf
  | 2 => some .ninf
  | 3 => some .smax
  | _ => none

/-- Element sizes (R32). -/
inductive ESize where
  | b1 | b2 | b4 | b8
deriving DecidableEq, Repr

/-- The encoding of ESize. -/
def ESize.code : ESize → Nat
  | .b1 => 0
  | .b2 => 1
  | .b4 => 2
  | .b8 => 3

/-- ESize from its encoding; none for a reserved value. -/
def ESize.ofNat? : Nat → Option ESize
  | 0 => some .b1
  | 1 => some .b2
  | 2 => some .b4
  | 3 => some .b8
  | _ => none

/-- Offset scales (Table 8.2). -/
inductive Scale where
  | sz | x1 | x2 | x4 | x8 | x16 | x0
deriving DecidableEq, Repr

/-- The encoding of Scale. -/
def Scale.code : Scale → Nat
  | .sz => 0
  | .x1 => 1
  | .x2 => 2
  | .x4 => 3
  | .x8 => 4
  | .x16 => 5
  | .x0 => 6

/-- Scale from its encoding; none for a reserved value. -/
def Scale.ofNat? : Nat → Option Scale
  | 0 => some .sz
  | 1 => some .x1
  | 2 => some .x2
  | 3 => some .x4
  | 4 => some .x8
  | 5 => some .x16
  | 6 => some .x0
  | _ => none

/-- Scopes (Table 11.1). -/
inductive Scope where
  | warp | group | gang | die | device | fabric | system
deriving DecidableEq, Repr

/-- The encoding of Scope. -/
def Scope.code : Scope → Nat
  | .warp => 0
  | .group => 1
  | .gang => 2
  | .die => 3
  | .device => 4
  | .fabric => 5
  | .system => 6

/-- Scope from its encoding; none for a reserved value. -/
def Scope.ofNat? : Nat → Option Scope
  | 0 => some .warp
  | 1 => some .group
  | 2 => some .gang
  | 3 => some .die
  | 4 => some .device
  | 5 => some .fabric
  | 6 => some .system
  | _ => none

/-- Atomic operations (Table 11.2). -/
inductive AtomOp where
  | add | minS | minN | maxS | maxN | and | or | xor | exch | cas | fadd | fmin | fmax
deriving DecidableEq, Repr

/-- The encoding of AtomOp. -/
def AtomOp.code : AtomOp → Nat
  | .add => 0
  | .minS => 1
  | .minN => 2
  | .maxS => 3
  | .maxN => 4
  | .and => 5
  | .or => 6
  | .xor => 7
  | .exch => 8
  | .cas => 9
  | .fadd => 10
  | .fmin => 11
  | .fmax => 12

/-- AtomOp from its encoding; none for a reserved value. -/
def AtomOp.ofNat? : Nat → Option AtomOp
  | 0 => some .add
  | 1 => some .minS
  | 2 => some .minN
  | 3 => some .maxS
  | 4 => some .maxN
  | 5 => some .and
  | 6 => some .or
  | 7 => some .xor
  | 8 => some .exch
  | 9 => some .cas
  | 10 => some .fadd
  | 11 => some .fmin
  | 12 => some .fmax
  | _ => none

/-- Orderings (Table 11.1). -/
inductive Ord where
  | rlx | acq | rel | ar | sc
deriving DecidableEq, Repr

/-- The encoding of Ord. -/
def Ord.code : Ord → Nat
  | .rlx => 0
  | .acq => 1
  | .rel => 2
  | .ar => 3
  | .sc => 4

/-- Ord from its encoding; none for a reserved value. -/
def Ord.ofNat? : Nat → Option Ord
  | 0 => some .rlx
  | 1 => some .acq
  | 2 => some .rel
  | 3 => some .ar
  | 4 => some .sc
  | _ => none

/-- Outcomes of tsurr (R332). -/
inductive TOutcome where
  | finish | summary | refuse
deriving DecidableEq, Repr

/-- The encoding of TOutcome. -/
def TOutcome.code : TOutcome → Nat
  | .finish => 0
  | .summary => 1
  | .refuse => 2

/-- TOutcome from its encoding; none for a reserved value. -/
def TOutcome.ofNat? : Nat → Option TOutcome
  | 0 => some .finish
  | 1 => some .summary
  | 2 => some .refuse
  | _ => none

/-- Selections of lmap (R374). -/
inductive MapSel where
  | emapLo | emapHi | hmapLo | hmapHi | l2p | p2l | count | resid | clus
deriving DecidableEq, Repr

/-- The encoding of MapSel. -/
def MapSel.code : MapSel → Nat
  | .emapLo => 0
  | .emapHi => 1
  | .hmapLo => 2
  | .hmapHi => 3
  | .l2p => 4
  | .p2l => 5
  | .count => 6
  | .resid => 7
  | .clus => 8

/-- MapSel from its encoding; none for a reserved value. -/
def MapSel.ofNat? : Nat → Option MapSel
  | 0 => some .emapLo
  | 1 => some .emapHi
  | 2 => some .hmapLo
  | 3 => some .hmapHi
  | 4 => some .l2p
  | 5 => some .p2l
  | 6 => some .count
  | 7 => some .resid
  | 8 => some .clus
  | _ => none

/-- Modes of rft (R392). -/
inductive RftMode where
  | resume | skip | exit | abort
deriving DecidableEq, Repr

/-- The encoding of RftMode. -/
def RftMode.code : RftMode → Nat
  | .resume => 0
  | .skip => 1
  | .exit => 2
  | .abort => 3

/-- RftMode from its encoding; none for a reserved value. -/
def RftMode.ofNat? : Nat → Option RftMode
  | 0 => some .resume
  | 1 => some .skip
  | 2 => some .exit
  | 3 => some .abort
  | _ => none

/-- What tmask does to HOLD (R390). -/
inductive HoldOp where
  | keep | hold | unhold
deriving DecidableEq, Repr

/-- The encoding of HoldOp. -/
def HoldOp.code : HoldOp → Nat
  | .keep => 0
  | .hold => 1
  | .unhold => 2

/-- HoldOp from its encoding; none for a reserved value. -/
def HoldOp.ofNat? : Nat → Option HoldOp
  | 0 => some .keep
  | 1 => some .hold
  | 2 => some .unhold
  | _ => none

/-- Special registers, numbered as Table 19.6. -/
inductive SReg where
  | lclk | tidx | lane | quad | widx | gidx | ngrp | core | clus | domn | glen | fpc | axf | tmask | bx1 | bx2 | bx3 | hmap | toff | trate
deriving DecidableEq, Repr

/-- The encoding of SReg. -/
def SReg.code : SReg → Nat
  | .lclk => 0
  | .tidx => 1
  | .lane => 2
  | .quad => 3
  | .widx => 4
  | .gidx => 5
  | .ngrp => 6
  | .core => 7
  | .clus => 8
  | .domn => 9
  | .glen => 10
  | .fpc => 11
  | .axf => 12
  | .tmask => 13
  | .bx1 => 14
  | .bx2 => 15
  | .bx3 => 16
  | .hmap => 17
  | .toff => 18
  | .trate => 19

/-- SReg from its encoding; none for a reserved value. -/
def SReg.ofNat? : Nat → Option SReg
  | 0 => some .lclk
  | 1 => some .tidx
  | 2 => some .lane
  | 3 => some .quad
  | 4 => some .widx
  | 5 => some .gidx
  | 6 => some .ngrp
  | 7 => some .core
  | 8 => some .clus
  | 9 => some .domn
  | 10 => some .glen
  | 11 => some .fpc
  | 12 => some .axf
  | 13 => some .tmask
  | 14 => some .bx1
  | 15 => some .bx2
  | 16 => some .bx3
  | 17 => some .hmap
  | 18 => some .toff
  | 19 => some .trate
  | _ => none

/-- Classes of orgr and orgw (R398). -/
inductive OrgClass where
  | v | k | kh | p | axf | fpc
deriving DecidableEq, Repr

/-- The encoding of OrgClass. -/
def OrgClass.code : OrgClass → Nat
  | .v => 0
  | .k => 1
  | .kh => 2
  | .p => 3
  | .axf => 4
  | .fpc => 5

/-- OrgClass from its encoding; none for a reserved value. -/
def OrgClass.ofNat? : Nat → Option OrgClass
  | 0 => some .v
  | 1 => some .k
  | 2 => some .kh
  | 3 => some .p
  | 4 => some .axf
  | 5 => some .fpc
  | _ => none

/-- Sizes of atomics: 4 or 8 bytes (R263). -/
inductive ASize where
  | w4 | w8
deriving DecidableEq, Repr

/-- The encoding of ASize. -/
def ASize.code : ASize → Nat
  | .w4 => 2
  | .w8 => 3

/-- ASize from its encoding; 0 and 1 are reserved (R263). -/
def ASize.ofNat? : Nat → Option ASize
  | 2 => some .w4
  | 3 => some .w8
  | _ => none

/-- Bytes of an element. -/
def ESize.bytes : ESize → Nat
  | .b1 => 1
  | .b2 => 2
  | .b4 => 4
  | .b8 => 8

/-- Bytes of an atomic word. -/
def ASize.bytes : ASize → Nat
  | .w4 => 4
  | .w8 => 8

/-- The float operations of Table 11.2. -/
def AtomOp.isFloat : AtomOp → Bool
  | .fadd => true
  | .fmin => true
  | .fmax => true
  | _ => false

/-- The scopes a barrier or a lock may name (R270, R308). -/
def Scope.isBar : Scope → Bool
  | .group => true
  | .gang => true
  | .die => true
  | .device => true
  | _ => false

/-- The types each matrix mode takes (Table 7.4). -/
def Semiring.takes : Semiring → MatType → Bool
  | .plusTimes, .s32 => false
  | .plusTimes, _ => true
  | .minPlus, .f32 => true
  | .minPlus, .f16 => true
  | .minPlus, .s32 => true
  | .minPlus, _ => false
  | .maxTimes, .f32 => true
  | .maxTimes, .f16 => true
  | .maxTimes, _ => false
  | .orAnd, .fmt => true
  | .orAnd, _ => false

/-- Coherence states of a quire (R220). -/
inductive QState where
  | i | s | e | o | m | wbp
deriving DecidableEq, Repr

/-- Units that fail or are fenced (R229, R425). -/
inductive FUnit where
  | core (n : Nat)
  | cluster (n : Nat)
  | die (n : Nat)
  | hbm (die row : Nat) (lostFrames : List Nat)
  | lane (port lane : Nat)
deriving DecidableEq, Repr

/-- The virtual channels of a Balral link (Table 22.3). -/
inductive VChan where
  | request | response | write | release | collective | management
deriving DecidableEq, Repr

/-- A flit on a Balral link: its sequence number and its virtual channel (R419). -/
structure Flit where
  seq : Nat
  vc : VChan
deriving DecidableEq, Repr

/-- An error record before it is numbered (Table 22.8). -/
structure ErrRec where
  type : Nat
  plane : Nat
  ctx : Nat
  launch : Nat
  unit : Nat
  code : Nat
  addr : Nat
  data : Nat
deriving DecidableEq, Repr

/-- The instructions of Zelyoram-3 and the operations and events of the device, one per row of the opcode table. -/
inductive Instr where
  | nop (h : Hdr)
  | bra (h : Hdr) (off : BitVec 14)
  | brp (h : Hdr) (p : Pr) (off : BitVec 14)
  | brn (h : Hdr) (p : Pr) (off : BitVec 14)
  | bru (h : Hdr) (k : Kr) (off : BitVec 14)
  | bruz (h : Hdr) (k : Kr) (off : BitVec 14)
  | jmpx (h : Hdr) (ka : Kr)
  | call (h : Hdr) (k : Kr) (off : BitVec 14)
  | callx (h : Hdr) (kd : Kr) (ka : Kr)
  | ret (h : Hdr) (ka : Kr)
  | exit (h : Hdr)
  | dwait (h : Hdr) (mask : BitVec 7) (n : BitVec 6)
  | chkm (h : Hdr) (mode : CheckMode)
  | brk (h : Hdr) (code : BitVec 16)
  | iadd (h : Hdr) (d : Vr) (a : Vr) (b : Vr) (x : Bx)
  | isub (h : Hdr) (d : Vr) (a : Vr) (b : Vr) (x : Bx)
  | imul (h : Hdr) (d : Vr) (a : Vr) (b : Vr) (x : Bx)
  | imulhS (h : Hdr) (d : Vr) (a : Vr) (b : Vr) (x : Bx)
  | imulhN (h : Hdr) (d : Vr) (a : Vr) (b : Vr) (x : Bx)
  | imad (h : Hdr) (d : Vr) (a : Vr) (b : Vr) (x : Bx)
  | iaddi (h : Hdr) (d : Vr) (a : Vr) (imm : BitVec 8)
  | iminS (h : Hdr) (d : Vr) (a : Vr) (b : Vr) (x : Bx)
  | iminN (h : Hdr) (d : Vr) (a : Vr) (b : Vr) (x : Bx)
  | imaxS (h : Hdr) (d : Vr) (a : Vr) (b : Vr) (x : Bx)
  | imaxN (h : Hdr) (d : Vr) (a : Vr) (b : Vr) (x : Bx)
  | shl (h : Hdr) (d : Vr) (a : Vr) (b : Vr) (x : Bx)
  | shr (h : Hdr) (d : Vr) (a : Vr) (b : Vr) (x : Bx)
  | sar (h : Hdr) (d : Vr) (a : Vr) (b : Vr) (x : Bx)
  | shli (h : Hdr) (d : Vr) (a : Vr) (n : BitVec 5)
  | shri (h : Hdr) (d : Vr) (a : Vr) (n : BitVec 5)
  | sari (h : Hdr) (d : Vr) (a : Vr) (n : BitVec 5)
  | roti (h : Hdr) (d : Vr) (a : Vr) (n : BitVec 5)
  | and (h : Hdr) (d : Vr) (a : Vr) (b : Vr) (x : Bx)
  | or (h : Hdr) (d : Vr) (a : Vr) (b : Vr) (x : Bx)
  | xor (h : Hdr) (d : Vr) (a : Vr) (b : Vr) (x : Bx)
  | andn (h : Hdr) (d : Vr) (a : Vr) (b : Vr) (x : Bx)
  | andi (h : Hdr) (d : Vr) (a : Vr) (imm : BitVec 6)
  | ori (h : Hdr) (d : Vr) (a : Vr) (imm : BitVec 6)
  | xori (h : Hdr) (d : Vr) (a : Vr) (imm : BitVec 6)
  | not (h : Hdr) (d : Vr) (a : Vr) (x : Bx)
  | popc (h : Hdr) (d : Vr) (a : Vr) (x : Bx)
  | clz (h : Hdr) (d : Vr) (a : Vr) (x : Bx)
  | brev (h : Hdr) (d : Vr) (a : Vr) (x : Bx)
  | iabs (h : Hdr) (d : Vr) (a : Vr) (x : Bx)
  | ineg (h : Hdr) (d : Vr) (a : Vr) (x : Bx)
  | bfx (h : Hdr) (d : Vr) (a : Vr) (x : Bx) (pos : BitVec 5) (len : BitVec 6) (sx : Bool)
  | bfi (h : Hdr) (d : Vr) (a : Vr) (x : Bx) (pos : BitVec 5) (len : BitVec 6)
  | lea (h : Hdr) (d : Vr) (a : Vr) (b : Vr) (x : Bx) (sh : BitVec 5) (disp : BitVec 16)
  | icmp (h : Hdr) (p : Pr) (a : Vr) (b : Vr) (cond : ICond) (comb : Comb) (q : Pr)
  | sel (h : Hdr) (d : Vr) (a : Vr) (b : Vr) (x : Bx) (p : Pr)
  | movi (h : Hdr) (d : Vr) (x : Bx) (imm : BitVec 32)
  | movk (h : Hdr) (d : Vr) (ka : Kr) (hi : Bool) (x : Bx)
  | idot4 (h : Hdr) (d : Vr) (a : Vr) (b : Vr) (mode : DotMode)
  | kadd (h : Hdr) (kd : Kr) (ka : Kr) (kb : Kr)
  | ksub (h : Hdr) (kd : Kr) (ka : Kr) (kb : Kr)
  | kmul (h : Hdr) (kd : Kr) (ka : Kr) (kb : Kr)
  | kand (h : Hdr) (kd : Kr) (ka : Kr) (kb : Kr)
  | kor (h : Hdr) (kd : Kr) (ka : Kr) (kb : Kr)
  | kxor (h : Hdr) (kd : Kr) (ka : Kr) (kb : Kr)
  | kshl (h : Hdr) (kd : Kr) (ka : Kr) (kb : Kr)
  | kshr (h : Hdr) (kd : Kr) (ka : Kr) (kb : Kr)
  | kaddi (h : Hdr) (kd : Kr) (ka : Kr) (imm : BitVec 8)
  | kset (h : Hdr) (kd : Kr) (f : KsetMode) (imm : BitVec 32)
  | kcmp (h : Hdr) (kd : Kr) (ka : Kr) (kb : Kr) (cond : KCond)
  | kmov (h : Hdr) (kd : Kr) (ka : Kr)
  | kfromv (h : Hdr) (kd : Kr) (va : Vr) (lane : BitVec 6) (f : KfvMode)
  | pand (h : Hdr) (p : Pr) (a : Pr) (b : Pr)
  | por (h : Hdr) (p : Pr) (a : Pr) (b : Pr)
  | pxor (h : Hdr) (p : Pr) (a : Pr) (b : Pr)
  | pandn (h : Hdr) (p : Pr) (a : Pr) (b : Pr)
  | pclr (h : Hdr) (p : Pr)
  | pset (h : Hdr) (p : Pr)
  | pnot (h : Hdr) (p : Pr) (a : Pr)
  | pmov (h : Hdr) (p : Pr) (a : Pr)
  | ptov (h : Hdr) (vd : Vr) (a : Pr)
  | vtop (h : Hdr) (p : Pr) (va : Vr)
  | qswp (h : Hdr) (d : Vr) (a : Vr) (dir : QDir)
  | qbc (h : Hdr) (d : Vr) (a : Vr) (n : BitVec 2)
  | qhlp (h : Hdr) (mode : HelperMode)
  | wshf (h : Hdr) (d : Vr) (a : Vr) (b : Vr)
  | wshx (h : Hdr) (d : Vr) (a : Vr) (n : BitVec 5) (mode : ShuffleMode)
  | wvote (h : Hdr) (d : Vr) (a : Vr) (mode : VoteMode)
  | wred (h : Hdr) (d : Vr) (a : Vr) (op : RedOp)
  | fadd (h : Hdr) (d : Vr) (a : Vr) (b : Vr) (x : Bx)
  | fsub (h : Hdr) (d : Vr) (a : Vr) (b : Vr) (x : Bx)
  | fmul (h : Hdr) (d : Vr) (a : Vr) (b : Vr) (x : Bx)
  | ffma (h : Hdr) (d : Vr) (a : Vr) (b : Vr) (x : Bx)
  | fmin (h : Hdr) (d : Vr) (a : Vr) (b : Vr) (x : Bx)
  | fmax (h : Hdr) (d : Vr) (a : Vr) (b : Vr) (x : Bx)
  | fabs (h : Hdr) (d : Vr) (a : Vr) (x : Bx)
  | fneg (h : Hdr) (d : Vr) (a : Vr) (x : Bx)
  | frcp (h : Hdr) (d : Vr) (a : Vr) (x : Bx)
  | frsq (h : Hdr) (d : Vr) (a : Vr) (x : Bx)
  | fsqrt (h : Hdr) (d : Vr) (a : Vr) (x : Bx)
  | fex2 (h : Hdr) (d : Vr) (a : Vr) (x : Bx)
  | flg2 (h : Hdr) (d : Vr) (a : Vr) (x : Bx)
  | fsin (h : Hdr) (d : Vr) (a : Vr) (x : Bx)
  | fcos (h : Hdr) (d : Vr) (a : Vr) (x : Bx)
  | fcmp (h : Hdr) (p : Pr) (a : Vr) (b : Vr) (cond : FCond) (comb : Comb) (q : Pr)
  | fdot2 (h : Hdr) (d : Vr) (a : Vr) (b : Vr) (bf : Bool)
  | hadd2 (h : Hdr) (d : Vr) (a : Vr) (b : Vr) (bf : Bool)
  | hmul2 (h : Hdr) (d : Vr) (a : Vr) (b : Vr) (bf : Bool)
  | hfma2 (h : Hdr) (d : Vr) (a : Vr) (b : Vr) (bf : Bool)
  | frnd (h : Hdr) (d : Vr) (a : Vr) (mode : Rm)
  | fsetm (h : Hdr) (d : Vr) (mask : BitVec 4) (value : BitVec 4)
  | fcvt (h : Hdr) (d : Vr) (a : Vr) (dty : FType) (sty : FType) (shalf : Bool) (dhalf : Bool) (rnd : Rm5)
  | fcvti (h : Hdr) (d : Vr) (a : Vr) (it : IType) (ft : FType) (rnd : Rm)
  | icvtf (h : Hdr) (d : Vr) (a : Vr) (it : IType) (ft : FType) (rnd : Rm)
  | fpack (h : Hdr) (d : Vr) (a : Vr) (b : Vr) (pos : BitVec 2) (kseed : Kr)
  | funpk (h : Hdr) (d : Vr) (a : Vr) (b : Vr) (pos : BitVec 2) (c : Vr) (sc : Bool)
  | fscl (h : Hdr) (d : Vr) (a : Vr) (b : Vr) (sf : ScaleFmt)
  | fsca (h : Hdr) (d : Vr) (a : Vr) (b : Vr) (c : Vr)
  | fzct (h : Hdr) (d : Vr) (peek : Bool)
  | mma (h : Hdr) (a : Vr) (b : Vr) (t : Tile) (sr : Semiring) (qa : Bool) (qb : Bool) (fw : Vr) (sc : Vr) (ty : MatType) (z : Bool) (n : BitVec 4) (dc : Dc)
  | mlut (h : Hdr) (b : Vr) (kt : Kr) (t : Tile) (fw : Vr) (qb : Bool) (z : Bool) (dc : Dc) (e : BitVec 2) (neg : Bool)
  | mlbld (h : Hdr) (a : Vr) (kt : Kr) (g0 : BitVec 5) (fw : Vr) (ty : BldType) (pm : Bool) (dc : Dc) (qa : Bool)
  | macz (h : Hdr) (t : Tile) (val : MaczVal)
  | macr (h : Hdr) (d : Vr) (t : Tile) (row0 : BitVec 6) (hi : Bool) (cnt : BitVec 4) (dc : Dc)
  | macw (h : Hdr) (d : Vr) (t : Tile) (row0 : BitVec 6) (hi : Bool) (cnt : BitVec 4) (dc : Dc)
  | mdrn (h : Hdr) (t : Tile) (spad : Bool) (kbase : Kr) (kpitch : Kr) (add : Bool) (ety : FType) (dc : Dc) (row0 : BitVec 6) (nrows : BitVec 6)
  | mpairBind (h : Hdr)
  | mpairRel (h : Hdr)
  | ld (h : Hdr) (d : Vr) (kbase : Kr) (voff : Vr) (size : ESize)
  | st (h : Hdr) (d : Vr) (kbase : Kr) (voff : Vr) (size : ESize)
  | ldl (h : Hdr) (d : Vr) (kbase : Kr) (voff : Vr) (size : ESize) (imm : BitVec 16) (dc : Dc) (probe : Pr) (hint : BitVec 3) (scale : Scale) (sx : Bool)
  | stl (h : Hdr) (d : Vr) (kbase : Kr) (voff : Vr) (size : ESize) (imm : BitVec 16) (dc : Dc) (hint : BitVec 3) (scale : Scale)
  | lds (h : Hdr) (d : Vr) (kbase : Kr) (voff : Vr) (size : ESize)
  | sts (h : Hdr) (d : Vr) (kbase : Kr) (voff : Vr) (size : ESize)
  | ldk (h : Hdr) (kd : Kr) (kbase : Kr) (sx : Bool) (size : ESize) (imm : BitVec 16) (dc : Dc)
  | stk (h : Hdr) (kd : Kr) (kbase : Kr) (size : ESize) (imm : BitVec 16) (dc : Dc)
  | pref (h : Hdr) (l2 : Bool) (kbase : Kr) (voff : Vr) (size : ESize) (imm : BitVec 16) (hint : BitVec 3) (scale : Scale)
  | cwb (h : Hdr) (klen : Kr) (kbase : Kr) (scope : Scope) (imm : BitVec 16) (dc : Dc)
  | cflu (h : Hdr) (klen : Kr) (kbase : Kr) (scope : Scope) (imm : BitVec 16) (dc : Dc)
  | cinv (h : Hdr) (klen : Kr) (kbase : Kr) (scope : Scope) (imm : BitVec 16) (dc : Dc) (zf : Bool)
  | preq (h : Hdr) (klen : Kr) (kbase : Kr) (sem : BitVec 6) (useSem : Bool) (imm : BitVec 16) (dc : Dc)
  | atom (h : Hdr) (d : Vr) (kbase : Kr) (voff : Vr) (size : ASize) (vs : Vr) (op : AtomOp) (ord : Ord) (scope : Scope) (dc : Dc) (imm : BitVec 13)
  | red (h : Hdr) (kbase : Kr) (voff : Vr) (size : ASize) (vs : Vr) (op : AtomOp) (ord : Ord) (scope : Scope) (dc : Dc) (imm : BitVec 13)
  | atoms (h : Hdr) (d : Vr) (kbase : Kr) (voff : Vr) (size : ASize) (vs : Vr) (op : AtomOp) (ord : Ord) (scope : Scope) (dc : Dc) (imm : BitVec 13)
  | fence (h : Hdr) (scope : Scope) (ord : Ord)
  | barSync (h : Hdr) (id : BitVec 4) (kcnt : Kr) (scope : Scope)
  | barArrive (h : Hdr) (id : BitVec 4) (kcnt : Kr) (scope : Scope)
  | barWait (h : Hdr) (id : BitVec 4) (scope : Scope)
  | bart (h : Hdr) (id : BitVec 4) (ktime : Kr) (scope : Scope) (p : Pr) (dc : Dc)
  | gbar (h : Hdr)
  | clkjAdd (h : Hdr) (imm : BitVec 12)
  | clkjAddk (h : Hdr) (ka : Kr)
  | clkjSetk (h : Hdr) (ka : Kr)
  | clkjNb (h : Hdr)
  | lock (h : Hdr) (kbase : Kr) (kval : Kr) (imm : BitVec 16) (dc : Dc) (scope : Scope)
  | lockTry (h : Hdr) (p : Pr) (kbase : Kr) (kval : Kr) (imm : BitVec 16) (dc : Dc) (scope : Scope)
  | unlock (h : Hdr) (p : Pr) (kbase : Kr) (kval : Kr) (imm : BitVec 16) (dc : Dc) (scope : Scope)
  | aecfg (h : Hdr) (mask : BitVec 8)
  | aego (h : Hdr) (off : BitVec 14)
  | aestop (h : Hdr)
  | qbind (h : Hdr) (mask : BitVec 8)
  | sliceLdl (h : Hdr) (d : Vr) (kbase : Kr) (kstride : Kr) (size : ESize) (imm : BitVec 16) (hint : BitVec 3) (sx : Bool)
  | cpy (h : Hdr) (kdst : Kr) (kfrom : Kr) (klen : Kr) (ch : BitVec 4) (s2g : Bool) (dc : Dc)
  | cpym (h : Hdr) (kdst : Kr) (kfrom : Kr) (klen : Kr) (ch : BitVec 4) (dc : Dc) (gmask : BitVec 8)
  | cpyw (h : Hdr) (kval : Kr) (ch : BitVec 4)
  | cpyq (h : Hdr) (kd : Kr) (ch : BitVec 4) (ip : Bool) (dc : Dc)
  | semset (h : Hdr) (sm : BitVec 6) (ka : Kr) (imm : BitVec 6)
  | semadd (h : Hdr) (sm : BitVec 6) (ka : Kr) (imm : BitVec 6)
  | semwait (h : Hdr) (sm : BitVec 6) (ka : Kr) (imm : BitVec 6)
  | coll (h : Hdr) (kdesc : Kr) (kd : Kr) (dc : Dc)
  | collw (h : Hdr) (kcomm : Kr) (kseq : Kr)
  | tclaim (h : Hdr) (kd : Kr) (kbase : Kr) (kgeo : Kr) (karg : Kr) (routine : BitVec 3) (keep : Bool) (dc : Dc) (try_ : Bool)
  | trel (h : Hdr) (kbase : Kr) (dc : Dc)
  | tsurr (h : Hdr) (kdelay : Kr) (outcome : TOutcome)
  | tquery (h : Hdr) (kd : Kr) (kbase : Kr) (dc : Dc)
  | lnch (h : Hdr) (kd : Kr) (ka : Kr) (dc : Dc)
  | lnwait (h : Hdr) (kd : Kr) (ka : Kr) (dc : Dc)
  | qpost (h : Hdr) (kd : Kr) (ka : Kr) (q : BitVec 6) (prio : BitVec 2) (dc : Dc)
  | lmap (h : Hdr) (kd : Kr) (ka : Kr) (which : MapSel) (dc : Dc)
  | trap (h : Hdr) (code : BitVec 16)
  | tfence (h : Hdr)
  | rft (h : Hdr) (mode : RftMode)
  | tmask (h : Hdr) (en : BitVec 6) (m : BitVec 6) (ho : HoldOp)
  | gets (h : Hdr) (r : BitVec 6) (sr : SReg) (rk : Bool)
  | sets (h : Hdr) (r : BitVec 6) (sr : SReg) (rk : Bool)
  | tmr (h : Hdr) (kd : Kr) (master : Bool) (dc : Dc)
  | orgr (h : Hdr) (vd : Vr) (n : BitVec 6) (cls : OrgClass) (dc : Dc)
  | orgw (h : Hdr) (va : Vr) (n : BitVec 6) (cls : OrgClass) (dc : Dc)
  | slotFill (core : Nat)
  | counterRelease (wp : Nat) (dc : Dc)
  | trapDispatch (wp : Nat)
  | handlerWaveStart (die : Nat)
  | warpEnd (wp : Nat)
  | pairedOperationStart (core : Nat)
  | mpairRendezvous (wp : Nat)
  | mmaChunk (core : Nat)
  | addOnStoreApply (idx : Nat)
  | getm (agent : Nat) (frame : Nat) (first : Nat) (last : Nat)
  | putm (agent : Nat) (frame : Nat) (first : Nat) (last : Nat)
  | coherenceGrant (agent : Nat) (frame : Nat) (first : Nat) (last : Nat)
  | absorbedAck (agent : Nat) (frame : Nat) (first : Nat) (last : Nat)
  | invalidationCompletion (idx : Nat)
  | preqComplete (core : Nat) (idx : Nat)
  | sliceEntryPush (wp : Nat)
  | copyDelivery (grp : Nat) (side : Nat) (ch : Nat)
  | bartTimeout (wp : Nat) (seq : Nat)
  | minimumDelivery (dom : Nat)
  | orderedRequestPerform (dom : Nat)
  | publication (dom : Nat)
  | tileGrant (tile : Nat)
  | recallStart (tile : Nat)
  | recallDelayExpiry (tile : Nat)
  | surrenderComplete (tile : Nat)
  | packetService (q : Nat) (p : Nat)
  | gridRelease (grid : Nat)
  | gangStart (cluster : Nat)
  | gangSteal (cluster : Nat)
  | endEdgeStep (grid : Nat)
  | gridComplete (grid : Nat)
  | watchdogPreempt (q : Nat)
  | watchdogKill (q : Nat)
  | watchdogFence (q : Nat)
  | preemptDeadline (c : Nat)
  | segmentCut (c : Nat)
  | saveComplete (c : Nat)
  | saveDeadline (c : Nat)
  | restoreComplete (c : Nat)
  | fenceUnit (sec : Bool) (u : FUnit)
  | bubbleCancel
  | bubbleStart (die : Nat)
  | bubbleEnd (die : Nat)
  | getsRequest (agent : Nat) (frame : Nat) (first : Nat) (last : Nat)
  | writeBackAcknowledgement (agent : Nat) (frame : Nat) (first : Nat) (last : Nat)
  | illegalInstructionWord (detail : Nat)
  | quireFill (agent : Nat) (frame : Nat) (first : Nat) (last : Nat) (qs : QState)
  | upg (agent : Nat) (frame : Nat) (first : Nat) (last : Nat)
  | puts (agent : Nat) (frame : Nat) (first : Nat) (last : Nat)
  | snpShare (agent : Nat) (frame : Nat) (first : Nat) (last : Nat)
  | snpInv (agent : Nat) (frame : Nat) (first : Nat) (last : Nat)
  | inFlightReply (agent : Nat) (frame : Nat) (first : Nat) (last : Nat)
  | peerForwardProbe (core : Nat) (cluster : Nat) (frame : Nat) (first : Nat) (last : Nat)
  | backInvalidation (frame : Nat) (first : Nat) (last : Nat)
  | biasFlip (page : Nat) (toHost : Bool)
  | atsInvalidation (va : Nat) (len : Nat) (pasid : Option Nat)
  | agentFailure (u : FUnit)
  | homeFailure (home : Nat) (base : Nat) (len : Nat)
  | pageResident (ctx : Nat) (va : Nat)
  | collectiveComplete (comm : Nat) (peers : List (List Byte)) (fault : Nat)
  | streamWriteAccept (src : Nat) (cls : Nat) (num : Nat) (rel : Bool) (pa : Nat) (bytes : List Byte)
  | tailWrite (q : Nat) (p : Nat) (v : Nat)
  | qctlEnWrite (q : Nat) (v : Nat)
  | qerrErrClear (q : Nat)
  | ctxctlPrq (c : Nat)
  | ctxctlRsq (c : Nat)
  | trresWrite (c : Nat) (idx : Nat)
  | ctxpasidWrite (c : Nat) (v : Nat)
  | packageReset
  | startUpStep (unit : Nat) (sub : Nat) (passed : Bool)
  | pwrlimWrite (v : Nat)
  | errackWrite (v : Nat)
  | errbaseWrite (v : Nat)
  | errlostRead
  | errorRecord (r : ErrRec)
  | registerWrite (off : Nat) (v : Nat) (size : Nat)
  | assignDomain (sec : Bool) (dom : Nat) (c : Nat)
  | setCommunicator (sec : Bool) (comm : Nat) (ranks : Nat) (rank : Nat)
  | returnLostPage (sec : Bool) (page : Nat)
  | assignPartition (sec : Bool) (c : Nat) (mask : Nat)
  | setPowerLimit (sec : Bool) (v : Nat)
  | getVersion
  | getCapabilities
  | negotiateAlgorithms
  | getDigests
  | getCertificate
  | challenge (nonce : Nat)
  | getMeasurements
  | bubbleSchedule (len : Nat) (t : Nat)
  | bubbleAck (die : Nat)
  | timeMasterUpdate (die : Nat) (off : Int) (rate : Int)
  | flitReceive (port : Nat) (flit : Flit) (crcOk : Bool)
  | flitAck (port : Nat) (seq : Nat)
  | laneFailure (port : Nat) (lane : Nat)
  | snoopReply (agent : Nat) (frame : Nat) (first : Nat) (last : Nat)
  | hostCxlMemAccess (pa : Nat) (store : Bool) (bytes : List Byte)
deriving DecidableEq, Repr

end Sys2Proof
end

