-- ==== Sys2Proof/Machine/State.lean ====
section
/-! DEFINITION. The state of the machine as plain data, and the machine right after package reset. -/

namespace Sys2Proof.Machine

/-! ### A warp -/

/-- A register an instruction can name. -/
inductive RegId where
  | v (n : Nat)
  | k (n : Nat)
  | p (n : Nat)
deriving DecidableEq, Repr

/-- A result for one register: a value for each written lane (a k register has the one key 0). -/
structure RegWrite where
  reg : RegId
  vals : List (Nat × DWord)
deriving DecidableEq, Repr

/-- A fixed-latency result on its way (R60): issued at count `at_`, visible at count `vis`. -/
structure PendWrite where
  res : RegWrite
  at_ : Nat
  vis : Nat
deriving DecidableEq, Repr

/-- A variable-latency instruction that its counter still counts (R61): the schedule count it issued at, its results so far,
and the registers and lanes that later words of its group write, which it leaves alone (R38). -/
structure Inflight where
  seq : Nat
  dc : Nat
  done : Bool
  writes : List RegWrite
  at_ : Nat
  ceded : List (RegId × Word)
deriving DecidableEq, Repr

/-- A pending mark (R62): the register, its producer's counter, and the producer's place among that counter's instructions. -/
structure Mark where
  reg : RegId
  dc : Nat
  idx : Nat
deriving DecidableEq, Repr

/-- A special-register write that applies from the warp's next group (R80, R103, R135, R152, R244, R393, R78). -/
inductive SpecialWrite where
  | fpc (mask value : BitVec 4)
  | bx (i : Nat) (value : BitVec 6)
  | helper (mode : HelperMode)
  | tmask (en m : BitVec 6) (hold : Option Bool)
  | bind (mask : BitVec 8)
  | check (mode : CheckMode)
deriving DecidableEq, Repr

/-- A collation key (R293): wave, clock, and identity (grid serial, group index, warp index with twins after leaders). -/
structure Key where
  wave : Nat
  clk : Nat
  serial : Nat
  gidx : Nat
  widx : Nat
deriving DecidableEq, Repr

/-- One access of a request: its lane, virtual address or scratchpad offset, physical address, operand values, and whether a probe found its page not resident. -/
structure ReqOp where
  lane : Nat
  va : Nat
  pa : Nat
  vals : List DWord
  miss : Bool
deriving DecidableEq, Repr

/-- A request: an access on its way to memory, an ordered one waiting at its slice or core tree (R298), or one in a recall queue (R329).
It carries its key, warp, group, incomplete instruction, the instruction with its address, active lanes and destinations, and its accesses. -/
structure OrdReq where
  key : Key
  warp : Nat
  grp : Nat
  seq : Nat
  instr : Instr
  pc : DWord
  act : Word
  regs : List RegId
  ops : List ReqOp
deriving DecidableEq, Repr

/-- Slice states (R239). -/
inductive SliceSt where
  | idle | running | held | ended | failed
deriving DecidableEq, Repr

/-- What a trap at an operand queue says beside the fields of Table 19.3 (R245, R246; log 33): the slice state and failure record,
and for a faulted entry the address of the slice ldl and the detail and address of each faulted lane. -/
structure SliceNote where
  st : SliceSt
  failPc : DWord
  failDetail : Nat
  failFetch : Nat
  ldl : DWord
  causes : List (Nat × Nat × Nat)
deriving DecidableEq, Repr

/-- A stopped thread (R379 to R381): `seq` places its word among those its warp has issued (R409), `copy` names the copy channel at whose fault it stopped, by group, side and number (R253),
`late` holds the part of a waiting request that an invalidation has turned into a fault (R206, log 7). -/
structure Stop where
  lane : Nat
  cause : Nat
  detail : Nat
  pc : DWord
  resume : DWord
  skip : DWord
  ea : Nat
  aux : Nat
  mask : Word
  axf : BitVec 6
  dispatched : Bool
  recIdx : Nat
  copy : Option (Nat × Bool × Nat)
  seq : Nat
  note : Option SliceNote
  late : Option OrdReq
deriving DecidableEq, Repr

/-- One sector of a fold buffer (R302): scratchpad or global, its sector address, the bytes written, and whether one store wrote all 32 of them (R230). -/
structure FoldEntry where
  spad : Bool
  addr : Nat
  bytes : List (Nat × Byte)
  whole : Bool
deriving DecidableEq, Repr

/-- What a parked warp waits for (R273, R181). -/
inductive ParkOn where
  | bar (id phase : Nat)
  | arrive (id : Nat)
  | grid
  | pair (release : Bool)
deriving DecidableEq, Repr

/-- A parked warp: why, its arrival clock, whether its point P1 was published meanwhile (R306, R427). -/
structure Park where
  on : ParkOn
  clk : Nat
  published : Bool
deriving DecidableEq, Repr

/-- A bart that still watches (R274). -/
structure BartWatch where
  seq : Nat
  dc : Nat
  id : Nat
  phase : Nat
  pred : Nat
  mask : Word
  limit : Nat
  since : Nat
deriving DecidableEq, Repr

/-- One operand-queue entry (R241, R243), with what a replay from it needs: the address and file of its ldl, the effects before it (R246), the gathering that filled it (R261),
and its place among the loads of its slice. -/
structure QEntry where
  q : Nat
  vals : List Word
  causes : List (Nat × Nat × Nat)
  pc : DWord
  kfile : SMap DWord
  effs : Nat
  gather : Nat
  ord : Nat
deriving DecidableEq, Repr

/-- The slice context of a warp (R239, Table 10.3). For replays it counts its loads and, in `first`, those before its present run: entries of an earlier run,
or of one that aestop has ended, are not replayed (log 33). -/
structure Slice where
  k : SMap DWord
  pc : DWord
  st : SliceSt
  stopping : Bool
  failPc : DWord
  failDetail : Nat
  failFetch : Nat
  issued : List QEntry
  effs : Nat
  skip : Nat
  loads : Nat
  first : Nat
deriving DecidableEq, Repr

/-- The slice context at warp start. -/
def Slice.start : Slice :=
  { k := [], pc := 0, st := .idle, stopping := false, failPc := 0, failDetail := 0, failFetch := 0, issued := [], effs := 0, skip := 0, loads := 0, first := 0 }

/-- The three kinds of warp: of a group, a handler wave (R386), a surrender routine (R330). -/
inductive WarpKind where
  | normal | handler | surrender
deriving DecidableEq, Repr

/-- The origin thread a handler lane serves (R386). -/
structure Origin where
  warp : Nat
  lane : Nat
  recIdx : Nat
deriving DecidableEq, Repr

/-- A warp context. -/
structure Warp where
  /-- Kind, group (of its origin, for a handler wave), warp index, twin, core, and physical warp context number. -/
  kind : WarpKind
  grp : Nat
  widx : Nat
  twin : Bool
  core : Nat
  slotNo : Nat
  /-- Threads and strands (R53 to R55): program counters, exited threads, the clock of the last thread's exit, whether it counts at barriers yet (R271), whether the warp has ended (R76), the strand that ran last. -/
  pcs : SMap DWord
  exited : Word
  exitClk : Nat
  gone : Bool
  ended : Bool
  lastLow : Option Nat
  /-- The open run (R39): its strand, the word it stands at, the words it has held. -/
  inRun : Bool
  active : Word
  runPc : DWord
  runWords : Nat
  /-- The chain group being issued: its instructions still to issue, its largest stall count, LCLK before it, the weights of its words so far (R297), the address of its first word. -/
  todo : List Instr
  grpS : Nat
  grpLclk : Nat
  grpW : Nat
  grpPc : DWord
  /-- The run ends with this group though no E = 1 says so (R300, R299, R275); the group ends in a boundary jump (R428). -/
  endRun : Bool
  jump : Bool
  /-- Issue state (Table 3.3): schedule count, earliest clk, held this clk, ready since. -/
  sched : Nat
  earliest : Nat
  waiting : Bool
  readySince : Option Nat
  seqNo : Nat
  dcIssued : SMap Nat
  inflight : List Inflight
  marks : List Mark
  chk : CheckMode
  pend : List PendWrite
  deferred : List SpecialWrite
  /-- Registers (R84): v and p by register × 32 + lane, k by register. -/
  v : SMap Word
  k : SMap DWord
  p : SMap Bool
  bx1 : BitVec 6
  bx2 : BitVec 6
  bx3 : BitVec 6
  helper : HelperMode
  fpc : BitVec 4
  axf : SMap (BitVec 6)
  ucount : SMap (BitVec 16)
  tmaskHold : Bool
  tmaskEn : BitVec 6
  /-- Collation (Tables 13.1 to 13.4), and the bytes its handler threads wrote that wait for its next boundary (R312), with the sectors one store of theirs wrote whole (R230). -/
  lclk : Nat
  wave : Nat
  fold : List FoldEntry
  spill : List FoldEntry
  spillCursor : Nat
  handW : SMap Byte
  handClr : List Nat
  owed : Option Nat
  leaving : Bool
  park : Option Park
  /-- Barriers (Table 11.4): arrival counts, pending masks with their counts, the phase of each thread's latest arrival + 1 (id × 32 + lane); threads that have arrived and that wait at gbar, and where, in the order of their arrivals. -/
  barA : SMap Nat
  barMask : SMap Word
  barCnt : SMap Nat
  barLast : SMap Nat
  gbarArr : Word
  gbarWait : Word
  gbarPc : SMap DWord
  barts : List BartWatch
  /-- A lock word at another group's tile has been taken for the lock that waits for it (R310, R329); incomplete instructions that set flags (R139); records whose LIVE a handler clears at the next boundary (R312, R413). -/
  gotLock : Bool
  flagSeqs : List Nat
  handEnd : List Nat
  /-- Engines (Table 10.3). -/
  slice : Slice
  queues : SMap (List QEntry)
  qbind : BitVec 8
  /-- Pairs (Table 7.5): bound, paired operations issued, resume chunk. -/
  bound : Bool
  pairSeq : Nat
  resumeChunk : Nat
  /-- Traps (R380 to R386): stopped threads, and the origins a handler wave serves by lane. -/
  stops : List Stop
  origins : SMap Origin
  /-- A surrender routine's tile and the groups it has left (R331). -/
  tile : Nat
  budget : Nat
  /-- Launches its lnwaits watch: incomplete instruction, launch number, destination (R372). -/
  lnwaits : List (Nat × Nat × Nat)
  /-- Pre-emption has stopped the warp at a run end, or in a group that waits (R401). -/
  halted : Bool
deriving DecidableEq, Repr

/-- A warp record with nothing in it: what an absent warp reads as. -/
def Warp.idle : Warp :=
  { kind := .normal, grp := 0, widx := 0, twin := false, core := 0, slotNo := 0
    pcs := [], exited := 0, exitClk := 0, gone := false, ended := false, lastLow := none
    inRun := false, active := 0, runPc := 0, runWords := 0
    todo := [], grpS := 0, grpLclk := 0, grpW := 0, grpPc := 0, endRun := false, jump := false
    sched := 0, earliest := 0, waiting := false, readySince := none, seqNo := 0, dcIssued := [], inflight := [], marks := []
    chk := .off, pend := [], deferred := []
    v := [], k := [], p := [], bx1 := 0, bx2 := 0, bx3 := 0, helper := .copy, fpc := 0, axf := [], ucount := []
    tmaskHold := false, tmaskEn := 0
    lclk := 0, wave := 0, fold := [], spill := [], spillCursor := 0, handW := [], handClr := [], owed := none, leaving := false, park := none
    barA := [], barMask := [], barCnt := [], barLast := [], gbarArr := 0, gbarWait := 0, gbarPc := [], barts := [], gotLock := false, flagSeqs := [], handEnd := []
    slice := Slice.start, queues := [], qbind := 0
    bound := false, pairSeq := 0, resumeChunk := 0, stops := [], origins := []
    tile := 0, budget := 0, lnwaits := [], halted := false }

/-! ### Keys and ordered requests -/

/-- A release record (R311): lock word, releasing warp, boundary that ends the releaser's gathering. -/
structure RelRec where
  addr : Nat
  key : Key
  wave : Nat
  bound : Nat
deriving DecidableEq, Repr

/-- A collation domain (R293 to R311, R354). -/
structure Domain where
  owner : Option Nat
  base : Nat
  delivered : Option Key
  turn : SMap Byte
  marksCleared : List Nat
  rels : List RelRec
  reqs : List OrdReq
  grids : List Nat
  point : Option (Nat × Nat)
deriving DecidableEq, Repr

/-- A domain before any launch: no wave yet (R293). -/
def Domain.empty : Domain :=
  { owner := none, base := 0, delivered := none, turn := [], marksCleared := [], rels := [], reqs := [], grids := [], point := none }

/-! ### Groups, grids and launch -/

/-- One phase of a barrier that is open (Table 11.4): arrivals and the recorded count, and the largest arrival clock (R306). -/
structure Phase where
  arrivals : Nat
  count : Nat
  maxClk : Nat
deriving DecidableEq, Repr

/-- A barrier of a group (R269). -/
structure Barrier where
  done : Nat
  opened : SMap Phase
deriving DecidableEq, Repr

/-- A copy on a channel (R249, R251): what is left of it starts at byte `at_`. In a domain `got` holds, by offset, the pieces whose bytes were read when the copy issued (R261). -/
structure Copy where
  src : Nat
  dst : Nat
  len : Nat
  s2g : Bool
  at_ : Nat
  got : List (Nat × List Byte)
  warp : Nat
  seq : Nat
deriving DecidableEq, Repr

/-- A copy channel (Table 10.5). -/
structure Chan where
  ip : Nat
  wp : Nat
  copies : List Copy
  fault : Option (Nat × Nat)
  fillInc : Bool
deriving DecidableEq, Repr

/-- A channel at group start. -/
def Chan.empty : Chan := { ip := 0, wp := 0, copies := [], fault := none, fillInc := false }

/-- A group (R189, R248, R269): one side a core, the leader's first and the follower's second;
`refusals` counts by warp what its retried tclaim met, and whether it has still to jump (R340). -/
structure Group where
  grid : Nat
  gidx : Nat
  core : Nat
  follower : Option Nat
  gang : Nat
  gangSize : Nat
  member : Nat
  spad : Memory
  spadF : Memory
  spTurn : SMap Byte
  spTurnF : SMap Byte
  sems : SMap Word
  semsF : SMap Word
  chans : SMap Chan
  chansF : SMap Chan
  bars : SMap Barrier
  refusals : SMap (Nat × Bool)
  warpsLeft : Nat
deriving DecidableEq, Repr

/-- An absent group. -/
def Group.none_ : Group :=
  { grid := 0, gidx := 0, core := 0, follower := none, gang := 0, gangSize := 1, member := 0, spad := [], spadF := []
    spTurn := [], spTurnF := [], sems := [], semsF := [], chans := [], chansF := [], bars := [], refusals := [], warpsLeft := 0 }

/-- One surrender-table entry of a descriptor (Table 17.5). -/
structure SurrEntry where
  entry : Nat
  budget : Nat
  refuse : Nat
deriving DecidableEq, Repr

/-- The fields of a launch packet (Table 17.4). -/
structure Packet where
  type : Nat
  flags : Nat
  domain : Nat
  gang : Nat
  ngroups : Nat
  desc : Nat
  priv : Nat
  privsz : Nat
  spillsz : Nat
  spill : Nat
  after : Nat
  sedge : Nat
  eedge : Nat
  done : Nat
  resv : Nat
  args : List Nat
deriving DecidableEq, Repr

/-- The fields of a kernel descriptor (Table 17.5, R353). -/
structure Desc where
  code : Nat
  codelen : Nat
  entry : Nat
  part : Nat
  shape : Nat
  spl : Nat
  log2g : Nat
  wave : Nat
  trapv : Nat
  zero : Nat
  surr : List SurrEntry
  surrPad : Nat
deriving DecidableEq, Repr

/-- An edge descriptor (R363): its scope and its ranges as (base, length). -/
structure Edge where
  scope : Nat
  ranges : List (Nat × Nat)
deriving DecidableEq, Repr

/-- Where a grid stands: accepted and held (R351, R355), running, in its end edge step (R364). -/
inductive GridSt where
  | held | running | ending
deriving DecidableEq, Repr

/-- An accepted, incomplete grid. -/
structure Grid where
  ctx : Nat
  queue : Nat
  prio : Nat
  inRing : Bool
  launch : Nat
  pk : Packet
  ds : Desc
  sedge : Edge
  eedge : Edge
  st : GridSt
  killed : Bool
  saved : Bool
  waveBase : Nat
  resid : Nat
  ranges : SMap (List Nat)
  nextWave : Nat
  ended : Nat
  gphase : Nat
  gclk : Nat
  residFault : Bool
  marks : List Nat
deriving DecidableEq, Repr

/-- The zero packet. -/
def Packet.none_ : Packet :=
  { type := 0, flags := 0, domain := 0, gang := 1, ngroups := 0, desc := 0, priv := 0, privsz := 0, spillsz := 0, spill := 0
    after := 0, sedge := 0, eedge := 0, done := 0, resv := 0, args := [] }

/-- The zero descriptor. -/
def Desc.none_ : Desc :=
  { code := 0, codelen := 0, entry := 0, part := 0, shape := 0, spl := 0, log2g := 0, wave := 0, trapv := 0xFFFFFFFF, zero := 0, surr := [], surrPad := 0 }

/-- An absent grid. -/
def Grid.none_ : Grid :=
  { ctx := 0, queue := 0, prio := 0, inRing := false, launch := 0, pk := Packet.none_, ds := Desc.none_, sedge := ⟨4, []⟩, eedge := ⟨4, []⟩, st := .held, killed := false, saved := false
    waveBase := 0, resid := 0, ranges := [], nextWave := 0, ended := 0, gphase := 0, gclk := 0, residFault := false, marks := [] }

/-- A hardware queue (Tables 17.1 to 17.3, 17.7, R347, R348): rings by priority. `stopped` names the rings that an error keeps from being served until software writes 1 to ERR,
`posted` the packets, by ring and index, that a qpost of a grid without MAINT has placed (R354). -/
structure Queue where
  ctx : Nat
  maint : Bool
  en : Bool
  err : Bool
  idx : Nat
  prio : Nat
  code : Nat
  stopped : List Nat
  posted : List (Nat × Nat)
  qwd : Nat
  base : SMap Nat
  logn : SMap Nat
  head : SMap Nat
  tail : SMap Nat
  wdSince : Option Nat
  wdStep : Nat
deriving DecidableEq, Repr

/-- A queue at package reset. -/
def Queue.reset : Queue :=
  { ctx := 0, maint := false, en := false, err := false, idx := 0, prio := 0, code := 0, stopped := [], posted := [], qwd := 0x01414064
    base := [], logn := [], head := [], tail := [], wdSince := none, wdStep := 0 }

/-! ### Matrix state -/

/-- A matrix operation of a core (R156, R167), or one half of a paired one: the operands it latched, the format words of its vote, its next chunk.
`pc` is where its word stands, `num` its place among the paired ones of its warp since the bind. `started` says that the array works on it,
`stopped` that a fault stopped it and its warp must issue the instruction again (R169), `held` that its word stays at issue until it is done. -/
structure MatOp where
  warp : Nat
  seq : Nat
  instr : Instr
  pc : DWord
  num : Nat
  partner : Option Nat
  started : Bool
  stopped : Bool
  held : Bool
  done : Bool
  chunk : Nat
  act : Word
  fwA : Nat
  fwB : Nat
  table : Nat
  a : List (List Word)
  b : List (List Word)
  sa : List Word
  sb : List Word
  axf : BitVec 6
deriving DecidableEq, Repr

/-! ### Contexts, traps and saving -/

/-- A live trap record (R384): its slot index, the origin thread, and whether a handler serves it rather than the host (R385). -/
structure LiveRec where
  idx : Nat
  warp : Nat
  lane : Nat
  served : Bool
deriving DecidableEq, Repr

/-- What a save keeps of one core (R402, Table 19.9): where it was, its logical number, the grid it held, its partition word, tiles and latched matrix operations.
Warps, groups and tile slots keep their records in the state, marked as saved (log 13). -/
structure CoreImage where
  core : Nat
  logical : Nat
  grid : Nat
  part : Nat
  acc : SMap (List Word)
  matq : List MatOp
  handler : Option Nat
deriving DecidableEq, Repr

/-- A saved image of a context (R402). -/
structure Image where
  cores : List CoreImage
deriving DecidableEq, Repr

/-- What the shadow store of a core holds (R403): the segments of a context's image, of a logical core, by slot; whether the image is one staged from memory for a restore;
and the staged image, of a context and a logical core, that an exchange has read out of the slots for its restore. -/
structure Shadow where
  ctx : Nat
  logical : Nat
  slots : List (List Byte)
  staged : Bool
  out : Option (Nat × Nat × List (List Byte))
deriving DecidableEq, Repr

/-- A context (Table 19.2). -/
structure Ctx where
  trbase : Nat
  trlogn : Nat
  trhead : Nat
  dbg : Bool
  pdl : Nat
  sdl : Nat
  draining : Bool
  saving : Bool
  saved : Bool
  incomplete : Bool
  restoring : Bool
  savebase : Nat
  troot : Nat
  bound : Bool
  pasid : Nat
  nextLaunch : Nat
  statuses : SMap Nat
  live : List LiveRec
  partition : Nat
  image : Option Image
  heldPrq : Bool
  /-- The model's own: when step 1 and step 2 began, and whether a fence asked for the save and will restore it (R368, R400). -/
  prqAt : Nat
  saveAt : Nat
  forFence : Bool
deriving DecidableEq, Repr

/-- A context at package reset. -/
def Ctx.reset : Ctx :=
  { trbase := 0, trlogn := 6, trhead := 0, dbg := false, pdl := 2000, sdl := 1000, draining := false, saving := false, saved := false
    incomplete := false, restoring := false, savebase := 0, troot := 0, bound := false, pasid := 0, nextLaunch := 1, statuses := []
    live := [], partition := 0, image := none, heldPrq := false, prqAt := 0, saveAt := 0, forFence := false }

/-! ### Caches and translation -/

/-- A quire tag (Table 9.1), with the lowest and highest sector accessed while resident (none where the first is above the second), the index that allocated it (R213),
and, of a peer-forwarded copy, the context whose page it is a copy of (R226). -/
structure Quire where
  frame : Nat
  first : Nat
  last : Nat
  st : QState
  dirty : List Nat
  age : Nat
  lowAcc : Nat
  highAcc : Nat
  predIdx : Nat
  fwd : Option Nat
deriving DecidableEq, Repr

/-- A coherence request outstanding (R222, R224, R225): `pred` is the predictor index of its access and `acc` the sectors that accesses want of it (R213),
`probe` says that a peer cluster is asked first (R226), `supplied` names the sectors whose dirty data a snoop has supplied to it. -/
structure CohReq where
  agent : Nat
  frame : Nat
  first : Nat
  last : Nat
  own : Bool
  upg : Bool
  granted : Bool
  pred : Nat
  probe : Bool
  supplied : List Nat
  acc : List Nat
deriving DecidableEq, Repr

/-- An entry of a home slice's directory (R221): a range of sectors of a frame, the cores of the die that hold it, its owner and its state. -/
structure DirEntry where
  frame : Nat
  first : Nat
  last : Nat
  cores : List Nat
  owner : Option Nat
  st : QState
deriving DecidableEq, Repr

/-- An entry of the spine's directory (R221): a frame, the dies that hold it, the owner die and the sectors it holds in M or O. -/
structure SpineEntry where
  frame : Nat
  dies : BitVec 24
  owner : Option Nat
  mask : BitVec 64
deriving DecidableEq, Repr

/-- The caches and what stands behind them: the bytes at the home memory, the bytes the home L2 slices of each die hold for it, quires by agent (R209),
requests outstanding, write-backs in flight that a snoop has met (R225), spatial predictors by core (R213), and the directories of the home slices by die and of the spine,
the entry least recently used first (R221). The entries a directory has room for are the model's own (log 76). -/
structure Caches where
  home : Memory
  l2 : SMap (SMap Byte)
  quires : SMap (List Quire)
  coh : List CohReq
  absorbed : List CohReq
  preds : SMap (SMap (Nat × Nat))
  homeDirs : SMap (List DirEntry)
  spineDir : List SpineEntry
  homeCap : Nat
  spineCap : Nat
deriving DecidableEq, Repr

/-- The caches at package reset: empty. -/
def Caches.reset : Caches :=
  { home := [], l2 := [], quires := [], coh := [], absorbed := [], preds := [], homeDirs := [], spineDir := [], homeCap := 65536, spineCap := 65536 }

/-- A leaf found by a walk, or held by a translation cache (R205): virtual page base, size, and the leaf entry. -/
structure Leaf where
  va : Nat
  size : Nat
  pte : Nat
deriving DecidableEq, Repr

/-- A preq that is not complete (R198): the virtual bases of the pages it asked for. -/
structure Preq where
  warp : Nat
  grp : Nat
  seq : Nat
  ctx : Nat
  pages : List Nat
  sem : Option Nat
deriving DecidableEq, Repr

/-! ### Cores, dies, tiles -/

/-- A tclaim that a spine has taken in: who asks, the core and slot it reserves, the instruction it completes, the refusals it met,
what its slot will hold (Table 15.2), and the physical frames of its region (R324). -/
structure Claim where
  warp : Nat
  grp : Nat
  core : Nat
  slot : Nat
  seq : Nat
  kd : Nat
  refused : Nat
  base : Nat
  geo : Nat
  entry : Nat
  arg : DWord
  budget : Nat
  limit : Nat
  keep : Bool
  frames : List Nat
deriving DecidableEq, Repr

/-- A request in a recall queue (R329): a claim, or an access by a warp of another agent. -/
inductive TileReq where
  | claim (c : Claim)
  | access (r : OrdReq)
deriving DecidableEq, Repr

/-- A held tile in the spine's directory, under the physical address of its base frame (R324, R326, Table 15.2): the holding, the refusals in it, the recall queue,
the routine that runs, the clk before which no recall starts, a surrender under way with its status and cause, the trel that waits for it,
a handover under way to the head of the queue (the holding then names no group), the status a claim of a domain has still to read,
the place of the recall that its head asks for among those that arrived (R330; 0 while it asks for none), and what a surrender under way waits for:
requests by warp and instruction, and channels by group, side and number with the pointer they must reach (R334). -/
structure TileEntry where
  frames : List Nat
  hold : Claim
  refusals : Nat
  queue : List TileReq
  running : Option Nat
  delay : Option Nat
  surrendered : Option (Nat × Nat)
  rel : Option (Nat × Nat)
  handing : Option (Nat × Nat)
  result : Option Nat
  due : Nat
  waitR : List (Nat × Nat)
  waitC : List (Nat × Bool × Nat × Nat)
deriving DecidableEq, Repr

/-- A core (Table 1.2, R56, R361, R386): its tile slots name the tile they hold or are reserved for; an accumulator tile holds 64 × 64 words row by row, and one that is absent holds zeros. -/
structure Core where
  slots : List Nat
  grid : Option Nat
  part : Nat
  acc : SMap (List Word)
  matq : List MatOp
  handler : Option Nat
  surrender : Option Nat
  tslots : SMap Nat
  preqs : List Preq
  lanes : SMap Leaf
  lanesCtx : Nat
  tlb : List (Nat × Leaf)
deriving DecidableEq, Repr

/-- A core after package reset. -/
def Core.reset : Core :=
  { slots := [], grid := none, part := 0, acc := [], matq := [], handler := none, surrender := none, tslots := []
    preqs := [], lanes := [], lanesCtx := 0, tlb := [] }

/-- Dispatched threads gathered for a handler wave: their grid, the clk the first joined at, and each thread's warp, lane and record (R386). -/
structure Gather where
  grid : Nat
  since : Nat
  members : List (Nat × Nat × Nat)
deriving DecidableEq, Repr

/-- A compute die: `gathers` are the waves still filling, `waves` those ready to start, in that order (R366, R386, R396, R424). -/
structure Die where
  harvested : Nat
  fenced : Nat
  toff : Int
  trate : Int
  released : Option Nat
  gathers : List Gather
  waves : List Gather
  tlb : List (Nat × Leaf)
  acked : Bool
  halted : Bool
deriving DecidableEq, Repr

/-- A die after package reset. -/
def Die.reset : Die :=
  { harvested := 0, fenced := 0, toff := 0, trate := 0, released := none, gathers := [], waves := [], tlb := [], acked := false, halted := false }

/-! ### Fabric, management, host -/

/-- A communicator (R257, R258). -/
structure Comm where
  ranks : Nat
  rank : Nat
  issued : Nat
  completed : Nat
deriving DecidableEq, Repr

/-- A collective in the engine (R258); of a collated grid it keeps the received bytes until the boundary point a collw names (R261). -/
structure Coll where
  comm : Nat
  warp : Nat
  seq : Nat
  num : Nat
  desc : Nat
  ctx : Nat
  collated : Option Nat
  bytes : List (Nat × Byte)
  done : Bool
  due : Option (Nat × Nat)
deriving DecidableEq, Repr

/-- A Balral port (0 to 15) or a host port (16, 17): lanes in use, the spare, flits received and not yet acknowledged with their virtual channels, the next flit expected,
the flit from which the sender replays, and steps below the highest speed (R417, R419, R420). -/
structure Port where
  lanes : Nat
  spare : Bool
  unacked : List Flit
  rxSeq : Nat
  resend : Option Nat
  speed : Nat
deriving DecidableEq, Repr

/-- A Balral port after package reset (R419, log 3). -/
def Port.reset : Port := { lanes := 8, spare := true, unacked := [], rxSeq := 0, resend := none, speed := 0 }

/-- A port after package reset: a host port has 16 lanes and no spare (Table 22.2). -/
def Port.start (n : Nat) : Port := if n < 16 then Port.reset else { Port.reset with lanes := 16, spare := false }

/-- One stream of writes from another device (R286): every write below `low` is accepted, and those of `early`, with address and length; release-ordered writes held, with address and bytes. -/
structure Stream where
  low : Nat
  early : List (Nat × Nat × Nat)
  held : List (Nat × Nat × List Byte)
deriving DecidableEq, Repr

/-- An entry of the boot-step log (R420). -/
structure BootEntry where
  step : Nat
  unit : Nat
  result : Nat
  time : Nat
deriving DecidableEq, Repr

/-- Where start-up stands (R420, R421): before or between steps, done, or in recovery state. -/
inductive Boot where
  | starting (step : Nat)
  | done
  | recovery
deriving DecidableEq, Repr

/-- A throttle bubble that is scheduled (R424): its length in clk and its start stamp. -/
structure Bubble where
  len : Nat
  start : Nat
deriving DecidableEq, Repr

/-- The management plane and the package (R416, R420 to R426): among the rest the firmware image with its security version, the fused counter (R421), whether the algorithms of R422 are negotiated. -/
structure Mgmt where
  secure : Bool
  pwrlim : Nat
  boot : Boot
  log : List BootEntry
  prevLog : List BootEntry
  version : Nat
  errBase : Nat
  errLogn : Nat
  errEn : Bool
  errHead : Nat
  errAck : Nat
  errLost : Nat
  errSeq : Nat
  errBuf : List (Nat × Nat × ErrRec)
  bubble : Option Bubble
  session : Bool
  image : List Byte
  imageVer : Nat
  fuseVer : Nat
  algs : Bool
  spdm : Nat
  spdmOut : List (List Byte)
  hostReads : List Nat
  fences : List FUnit
deriving DecidableEq, Repr

/-- The management plane at package reset. -/
def Mgmt.reset : Mgmt :=
  { secure := false, pwrlim := 4000, boot := .starting 1, log := [], prevLog := [], version := 0
    errBase := 0, errLogn := 6, errEn := false, errHead := 0, errAck := 0, errLost := 0, errSeq := 0, errBuf := []
    bubble := none, session := false, image := [], imageVer := 0, fuseVer := 0, algs := false, spdm := 0, spdmOut := [], hostReads := [], fences := [] }

/-- An invalidation whose completion has not been sent (R206). -/
structure Inval where
  va : Nat
  len : Nat
  pasid : Option Nat
deriving DecidableEq, Repr

/-! ### The machine -/

/-- The whole machine. -/
structure State where
  /-- Warps, groups, grids, and the warp that instructions act on now (the model's own). -/
  warps : SMap Warp
  cur : Nat
  groups : SMap Group
  grids : SMap Grid
  /-- Cores by physical number, dies, contexts, queues, domains. -/
  cores : SMap Core
  dies : SMap Die
  ctxs : SMap Ctx
  queues : SMap Queue
  domains : SMap Domain
  /-- Memory as every agent reads it through the device, and the caches in front of the home memory (R221). -/
  mem : Memory
  cache : Caches
  /-- Failures (R229 to R232): lost sectors (frame × 64 + sector), lost pages, the salvage area with the bytes it holds, failed homes as (base, length). -/
  lost : List Nat
  lostPages : List Nat
  salvBase : Nat
  salvOff : Nat
  salvSeq : Nat
  failedHomes : List (Nat × Nat)
  /-- Pages, by base address and size, whose bias stands on the host side (R204), invalidations, residency requests (R198, R206). -/
  bias : List (Nat × Nat)
  invals : List Inval
  resReqs : List (Nat × Nat)
  /-- Tiles, communicators, collectives, ports, streams, add-on stores (R174, R257, R286, R324, R419). -/
  tiles : SMap TileEntry
  comms : SMap Comm
  colls : List Coll
  ports : SMap Port
  streams : SMap Stream
  adds : List OrdReq
  mgmt : Mgmt
  /-- The model's own: outside events still to come, the count of ticks, the core whose turn to issue it is, the counter of free values. -/
  inputs : List Instr
  clk : Nat
  turnCore : Nat
  freeCount : Nat
  /-- Shadow stores by core (R403). -/
  shadow : SMap Shadow
  /-- The queue served last (R348), and completion words whose page is not resident yet: context, address, word (R365). -/
  lastQueue : Nat
  dones : List (Nat × Nat × Nat)
  /-- Host memory by bus address, as far as the error ring reaches it (R426); records whose LIVE byte is still to be cleared, by context and index, since its page is not resident (R413). -/
  hostMem : Memory
  unlives : List (Nat × Nat)
deriving DecidableEq, Repr

/-- The machine right after package reset. -/
def State.reset : State :=
  { warps := [], cur := 0, groups := [], grids := [], cores := [], dies := [], ctxs := [], queues := [], domains := []
    mem := [], cache := Caches.reset
    lost := [], lostPages := [], salvBase := 0, salvOff := 0, salvSeq := 0, failedHomes := [], bias := [], invals := [], resReqs := []
    tiles := [], comms := [], colls := [], ports := [], streams := [], adds := [], mgmt := Mgmt.reset
    inputs := [], clk := 0, turnCore := 0, freeCount := 0, shadow := [], lastQueue := 63, dones := [], hostMem := [], unlives := [] }

/-- Why the machine stops. One event can: a host access to an address that does not exist. Every instruction, and every other event, has a next state. -/
inductive Fault where
  /-- Raised by a host access to a physical address at or above 2^52, which does not exist (R199); safe: no state is claimed after it. -/
  | noSuchAddress
deriving DecidableEq, Repr

/-- Why an instruction has no meaning here. -/
inductive Refusal where
  /-- Raised by an arm of Dispatch whose instruction has no meaning yet; safe: no state is claimed after it. -/
  | notModelled (mnemonic : String)
deriving DecidableEq, Repr

end Sys2Proof.Machine
end

