-- ==== Sys2Proof/WellFormed.lean ====
section
/-! DEFINITION. Which terms of Instr are instructions the hardware has: the conditions that join fields (detail 0x03 of the class
chapters), the predicate fields (detail 0x0C), and the header conditions of R37 and R41. -/

namespace Sys2Proof

/-- A predicate field that holds no reserved value (R33). -/
def predOk (p : Pr) : Bool := decide (p.toNat < 48) || p == 62 || p == 63

/-- The header of an instruction form; operations and events of the device have none. -/
def Instr.hdr? : Instr → Option Hdr
  | .nop h => some h
  | .bra h _ => some h
  | .brp h _ _ => some h
  | .brn h _ _ => some h
  | .bru h _ _ => some h
  | .bruz h _ _ => some h
  | .jmpx h _ => some h
  | .call h _ _ => some h
  | .callx h _ _ => some h
  | .ret h _ => some h
  | .exit h => some h
  | .dwait h _ _ => some h
  | .chkm h _ => some h
  | .brk h _ => some h
  | .iadd h _ _ _ _ => some h
  | .isub h _ _ _ _ => some h
  | .imul h _ _ _ _ => some h
  | .imulhS h _ _ _ _ => some h
  | .imulhN h _ _ _ _ => some h
  | .imad h _ _ _ _ => some h
  | .iaddi h _ _ _ => some h
  | .iminS h _ _ _ _ => some h
  | .iminN h _ _ _ _ => some h
  | .imaxS h _ _ _ _ => some h
  | .imaxN h _ _ _ _ => some h
  | .shl h _ _ _ _ => some h
  | .shr h _ _ _ _ => some h
  | .sar h _ _ _ _ => some h
  | .shli h _ _ _ => some h
  | .shri h _ _ _ => some h
  | .sari h _ _ _ => some h
  | .roti h _ _ _ => some h
  | .and h _ _ _ _ => some h
  | .or h _ _ _ _ => some h
  | .xor h _ _ _ _ => some h
  | .andn h _ _ _ _ => some h
  | .andi h _ _ _ => some h
  | .ori h _ _ _ => some h
  | .xori h _ _ _ => some h
  | .not h _ _ _ => some h
  | .popc h _ _ _ => some h
  | .clz h _ _ _ => some h
  | .brev h _ _ _ => some h
  | .iabs h _ _ _ => some h
  | .ineg h _ _ _ => some h
  | .bfx h _ _ _ _ _ _ => some h
  | .bfi h _ _ _ _ _ => some h
  | .lea h _ _ _ _ _ _ => some h
  | .icmp h _ _ _ _ _ _ => some h
  | .sel h _ _ _ _ _ => some h
  | .movi h _ _ _ => some h
  | .movk h _ _ _ _ => some h
  | .idot4 h _ _ _ _ => some h
  | .kadd h _ _ _ => some h
  | .ksub h _ _ _ => some h
  | .kmul h _ _ _ => some h
  | .kand h _ _ _ => some h
  | .kor h _ _ _ => some h
  | .kxor h _ _ _ => some h
  | .kshl h _ _ _ => some h
  | .kshr h _ _ _ => some h
  | .kaddi h _ _ _ => some h
  | .kset h _ _ _ => some h
  | .kcmp h _ _ _ _ => some h
  | .kmov h _ _ => some h
  | .kfromv h _ _ _ _ => some h
  | .pand h _ _ _ => some h
  | .por h _ _ _ => some h
  | .pxor h _ _ _ => some h
  | .pandn h _ _ _ => some h
  | .pclr h _ => some h
  | .pset h _ => some h
  | .pnot h _ _ => some h
  | .pmov h _ _ => some h
  | .ptov h _ _ => some h
  | .vtop h _ _ => some h
  | .qswp h _ _ _ => some h
  | .qbc h _ _ _ => some h
  | .qhlp h _ => some h
  | .wshf h _ _ _ => some h
  | .wshx h _ _ _ _ => some h
  | .wvote h _ _ _ => some h
  | .wred h _ _ _ => some h
  | .fadd h _ _ _ _ => some h
  | .fsub h _ _ _ _ => some h
  | .fmul h _ _ _ _ => some h
  | .ffma h _ _ _ _ => some h
  | .fmin h _ _ _ _ => some h
  | .fmax h _ _ _ _ => some h
  | .fabs h _ _ _ => some h
  | .fneg h _ _ _ => some h
  | .frcp h _ _ _ => some h
  | .frsq h _ _ _ => some h
  | .fsqrt h _ _ _ => some h
  | .fex2 h _ _ _ => some h
  | .flg2 h _ _ _ => some h
  | .fsin h _ _ _ => some h
  | .fcos h _ _ _ => some h
  | .fcmp h _ _ _ _ _ _ => some h
  | .fdot2 h _ _ _ _ => some h
  | .hadd2 h _ _ _ _ => some h
  | .hmul2 h _ _ _ _ => some h
  | .hfma2 h _ _ _ _ => some h
  | .frnd h _ _ _ => some h
  | .fsetm h _ _ _ => some h
  | .fcvt h _ _ _ _ _ _ _ => some h
  | .fcvti h _ _ _ _ _ => some h
  | .icvtf h _ _ _ _ _ => some h
  | .fpack h _ _ _ _ _ => some h
  | .funpk h _ _ _ _ _ _ => some h
  | .fscl h _ _ _ _ => some h
  | .fsca h _ _ _ _ => some h
  | .fzct h _ _ => some h
  | .mma h _ _ _ _ _ _ _ _ _ _ _ _ => some h
  | .mlut h _ _ _ _ _ _ _ _ _ => some h
  | .mlbld h _ _ _ _ _ _ _ _ => some h
  | .macz h _ _ => some h
  | .macr h _ _ _ _ _ _ => some h
  | .macw h _ _ _ _ _ _ => some h
  | .mdrn h _ _ _ _ _ _ _ _ _ => some h
  | .mpairBind h => some h
  | .mpairRel h => some h
  | .ld h _ _ _ _ => some h
  | .st h _ _ _ _ => some h
  | .ldl h _ _ _ _ _ _ _ _ _ _ => some h
  | .stl h _ _ _ _ _ _ _ _ => some h
  | .lds h _ _ _ _ => some h
  | .sts h _ _ _ _ => some h
  | .ldk h _ _ _ _ _ _ => some h
  | .stk h _ _ _ _ _ => some h
  | .pref h _ _ _ _ _ _ _ => some h
  | .cwb h _ _ _ _ _ => some h
  | .cflu h _ _ _ _ _ => some h
  | .cinv h _ _ _ _ _ _ => some h
  | .preq h _ _ _ _ _ _ => some h
  | .atom h _ _ _ _ _ _ _ _ _ _ => some h
  | .red h _ _ _ _ _ _ _ _ _ => some h
  | .atoms h _ _ _ _ _ _ _ _ _ _ => some h
  | .fence h _ _ => some h
  | .barSync h _ _ _ => some h
  | .barArrive h _ _ _ => some h
  | .barWait h _ _ => some h
  | .bart h _ _ _ _ _ => some h
  | .gbar h => some h
  | .clkjAdd h _ => some h
  | .clkjAddk h _ => some h
  | .clkjSetk h _ => some h
  | .clkjNb h => some h
  | .lock h _ _ _ _ _ => some h
  | .lockTry h _ _ _ _ _ _ => some h
  | .unlock h _ _ _ _ _ _ => some h
  | .aecfg h _ => some h
  | .aego h _ => some h
  | .aestop h => some h
  | .qbind h _ => some h
  | .sliceLdl h _ _ _ _ _ _ _ => some h
  | .cpy h _ _ _ _ _ _ => some h
  | .cpym h _ _ _ _ _ _ => some h
  | .cpyw h _ _ => some h
  | .cpyq h _ _ _ _ => some h
  | .semset h _ _ _ => some h
  | .semadd h _ _ _ => some h
  | .semwait h _ _ _ => some h
  | .coll h _ _ _ => some h
  | .collw h _ _ => some h
  | .tclaim h _ _ _ _ _ _ _ _ => some h
  | .trel h _ _ => some h
  | .tsurr h _ _ => some h
  | .tquery h _ _ _ => some h
  | .lnch h _ _ _ => some h
  | .lnwait h _ _ _ => some h
  | .qpost h _ _ _ _ _ => some h
  | .lmap h _ _ _ _ => some h
  | .trap h _ => some h
  | .tfence h => some h
  | .rft h _ => some h
  | .tmask h _ _ _ => some h
  | .gets h _ _ _ => some h
  | .sets h _ _ _ => some h
  | .tmr h _ _ _ => some h
  | .orgr h _ _ _ _ => some h
  | .orgw h _ _ _ _ => some h
  | _ => none

/-- The field conditions of the class chapters beyond reserved bits (illegal-instruction detail 0x03). -/
def Instr.fieldsOk : Instr → Bool
  | .dwait _ mask _ => mask != 0
  | .bfx _ _ _ _ pos len _ => len != 0 && decide (pos.toNat + len.toNat ≤ 32)
  | .bfi _ _ _ _ pos len => len != 0 && decide (pos.toNat + len.toNat ≤ 32)
  | .icmp _ _ _ _ _ comb q => (comb != .only || q == 0)
  | .kfromv _ _ _ lane _ => decide (lane.toNat ≤ 32)
  | .fcmp _ _ _ _ _ comb q => (comb != .only || q == 0)
  | .fcvt _ _ _ dty sty shalf dhalf _ => (sty != .f32 || !shalf) && (dty != .f32 || !dhalf)
  | .mma _ a b _ sr qa qb fw _ ty _ n _ => (!qa || decide (56 ≤ a.toNat)) && (!qb || decide (56 ≤ b.toNat)) && !(qa && qb && a == b) && (n == 0 || (qa && qb)) && sr.takes ty && (ty == .fmt || fw == 0)
  | .mlut _ b _ _ _ qb _ _ _ _ => (!qb || decide (56 ≤ b.toNat))
  | .mlbld _ a _ _ fw ty _ _ qa => (!qa || decide (56 ≤ a.toNat)) && (ty == .fmt || fw == 0)
  | .macr _ _ _ _ _ _ dc => dc != 7
  | .mdrn _ _ _ _ _ add ety _ _ _ => (!add || ety == .f32)
  | .ldl _ _ _ _ size _ dc probe _ _ sx => probe != 63 && (!sx || size == .b1 || size == .b2) && dc != 7
  | .ldk _ _ _ sx size _ dc => !(sx && size == .b8) && dc != 7
  | .preq _ _ _ sem useSem _ _ => (useSem || sem == 0)
  | .atom _ _ _ _ size _ op _ _ dc _ => dc != 7 && (size != .w8 || !op.isFloat)
  | .red _ _ _ size _ op ord _ _ _ => op != .exch && op != .cas && (ord == .rlx || ord == .rel) && (size != .w8 || !op.isFloat)
  | .atoms _ _ _ _ size _ op _ scope dc _ => dc != 7 && (scope == .warp || scope == .group) && (size != .w8 || !op.isFloat)
  | .fence _ _ ord => ord != .rlx
  | .barSync _ _ _ scope => scope.isBar
  | .barArrive _ _ _ scope => scope.isBar
  | .barWait _ _ scope => scope.isBar
  | .bart _ _ _ scope _ dc => scope.isBar && dc != 7
  | .lock _ _ _ _ _ scope => scope.isBar
  | .lockTry _ p _ _ _ dc scope => scope.isBar && p != 62 && dc != 7
  | .unlock _ p _ _ _ dc scope => scope.isBar && (p == 62 || dc != 7)
  | .sliceLdl _ d _ _ size _ _ sx => decide (56 ≤ d.toNat) && size != .b8 && (!sx || size == .b1 || size == .b2)
  | .cpym _ _ _ _ _ _ gmask => gmask != 0
  | .cpyq _ _ _ _ dc => dc != 7
  | .coll _ _ _ dc => dc != 7
  | .tclaim _ _ _ _ _ _ _ dc _ => dc != 7
  | .tsurr _ kdelay outcome => (outcome == .refuse || kdelay == 0)
  | .tquery _ _ _ dc => dc != 7
  | .lnch _ _ _ dc => dc != 7
  | .lnwait _ _ _ dc => dc != 7
  | .qpost _ _ _ _ _ dc => dc != 7
  | .lmap _ _ _ _ dc => dc != 7
  | .tmr _ _ _ dc => dc != 7
  | .orgr _ _ n cls dc => dc != 7 && ((cls != .axf && cls != .fpc) || n == 0)
  | .orgw _ _ n cls _ => ((cls != .axf && cls != .fpc) || n == 0)
  | _ => true

/-- No predicate field holds 48 to 61 (detail 0x0C). -/
def Instr.predsOk : Instr → Bool
  | .brp _ p _ => predOk p
  | .brn _ p _ => predOk p
  | .icmp _ p _ _ _ _ q => predOk p && predOk q
  | .sel _ _ _ _ _ p => predOk p
  | .pand _ p a b => predOk p && predOk a && predOk b
  | .por _ p a b => predOk p && predOk a && predOk b
  | .pxor _ p a b => predOk p && predOk a && predOk b
  | .pandn _ p a b => predOk p && predOk a && predOk b
  | .pclr _ p => predOk p
  | .pset _ p => predOk p
  | .pnot _ p a => predOk p && predOk a
  | .pmov _ p a => predOk p && predOk a
  | .ptov _ _ a => predOk a
  | .vtop _ p _ => predOk p
  | .fcmp _ p _ _ _ _ q => predOk p && predOk q
  | .ldl _ _ _ _ _ _ _ probe _ _ _ => predOk probe
  | .bart _ _ _ _ p _ => predOk p
  | .lockTry _ p _ _ _ _ _ => predOk p
  | .unlock _ p _ _ _ _ _ => predOk p
  | .orgr _ _ n cls _ => cls != .p || predOk n
  | .orgw _ _ n cls _ => cls != .p || predOk n
  | _ => true

/-- The control transfers of R41. -/
def Instr.isTransfer : Instr → Bool
  | .bra _ _ => true
  | .brp _ _ _ => true
  | .brn _ _ _ => true
  | .bru _ _ _ => true
  | .bruz _ _ _ => true
  | .jmpx _ _ => true
  | .call _ _ _ => true
  | .callx _ _ _ => true
  | .ret _ _ => true
  | .exit _ => true
  | .brk _ _ => true
  | _ => false

/-- The header conditions a single word decides: E = 1 on a control transfer (R41), no E = 1 with C = 1 (R37). -/
def Instr.headerOk (i : Instr) : Bool :=
  match i.hdr? with
  | none => true
  | some h => (!i.isTransfer || h.e) && !(h.c && h.e)

/-- A well-formed instruction. -/
def Instr.wf (i : Instr) : Bool := i.fieldsOk && i.predsOk && i.headerOk

end Sys2Proof
end

