-- ==== Sys2Proof/Machine/Tables.lean ====
section
/-! DEFINITION. Table 2.5 by instruction: pipe, weight and latency, and the dependency counter of R61. -/

namespace Sys2Proof

/-- The issue pipes (Table 2.5). -/
inductive Pipe where
  | a | f | x | m
deriving DecidableEq, Repr

/-- The latency column of Table 2.5. -/
inductive Lat where
  | fixed (n : Nat) | dc | none
deriving DecidableEq, Repr

/-- The pipe of an instruction form (Table 2.5). -/
def Instr.pipe : Instr → Pipe
  | .nop _ => .a
  | .bra _ _ => .a
  | .brp _ _ _ => .a
  | .brn _ _ _ => .a
  | .bru _ _ _ => .a
  | .bruz _ _ _ => .a
  | .jmpx _ _ => .a
  | .call _ _ _ => .a
  | .callx _ _ _ => .a
  | .ret _ _ => .a
  | .exit _ => .a
  | .dwait _ _ _ => .a
  | .chkm _ _ => .a
  | .brk _ _ => .a
  | .iadd _ _ _ _ _ => .a
  | .isub _ _ _ _ _ => .a
  | .imul _ _ _ _ _ => .a
  | .imulhS _ _ _ _ _ => .a
  | .imulhN _ _ _ _ _ => .a
  | .imad _ _ _ _ _ => .a
  | .iaddi _ _ _ _ => .a
  | .iminS _ _ _ _ _ => .a
  | .iminN _ _ _ _ _ => .a
  | .imaxS _ _ _ _ _ => .a
  | .imaxN _ _ _ _ _ => .a
  | .shl _ _ _ _ _ => .a
  | .shr _ _ _ _ _ => .a
  | .sar _ _ _ _ _ => .a
  | .shli _ _ _ _ => .a
  | .shri _ _ _ _ => .a
  | .sari _ _ _ _ => .a
  | .roti _ _ _ _ => .a
  | .and _ _ _ _ _ => .a
  | .or _ _ _ _ _ => .a
  | .xor _ _ _ _ _ => .a
  | .andn _ _ _ _ _ => .a
  | .andi _ _ _ _ => .a
  | .ori _ _ _ _ => .a
  | .xori _ _ _ _ => .a
  | .not _ _ _ _ => .a
  | .popc _ _ _ _ => .a
  | .clz _ _ _ _ => .a
  | .brev _ _ _ _ => .a
  | .iabs _ _ _ _ => .a
  | .ineg _ _ _ _ => .a
  | .bfx _ _ _ _ _ _ _ => .a
  | .bfi _ _ _ _ _ _ => .a
  | .lea _ _ _ _ _ _ _ => .a
  | .icmp _ _ _ _ _ _ _ => .a
  | .sel _ _ _ _ _ _ => .a
  | .movi _ _ _ _ => .a
  | .movk _ _ _ _ _ => .a
  | .idot4 _ _ _ _ _ => .a
  | .kadd _ _ _ _ => .a
  | .ksub _ _ _ _ => .a
  | .kmul _ _ _ _ => .a
  | .kand _ _ _ _ => .a
  | .kor _ _ _ _ => .a
  | .kxor _ _ _ _ => .a
  | .kshl _ _ _ _ => .a
  | .kshr _ _ _ _ => .a
  | .kaddi _ _ _ _ => .a
  | .kset _ _ _ _ => .a
  | .kcmp _ _ _ _ _ => .a
  | .kmov _ _ _ => .a
  | .kfromv _ _ _ _ _ => .a
  | .pand _ _ _ _ => .a
  | .por _ _ _ _ => .a
  | .pxor _ _ _ _ => .a
  | .pandn _ _ _ _ => .a
  | .pclr _ _ => .a
  | .pset _ _ => .a
  | .pnot _ _ _ => .a
  | .pmov _ _ _ => .a
  | .ptov _ _ _ => .a
  | .vtop _ _ _ => .a
  | .qswp _ _ _ _ => .a
  | .qbc _ _ _ _ => .a
  | .qhlp _ _ => .a
  | .wshf _ _ _ _ => .a
  | .wshx _ _ _ _ _ => .a
  | .wvote _ _ _ _ => .a
  | .wred _ _ _ _ => .a
  | .fadd _ _ _ _ _ => .f
  | .fsub _ _ _ _ _ => .f
  | .fmul _ _ _ _ _ => .f
  | .ffma _ _ _ _ _ => .f
  | .fmin _ _ _ _ _ => .f
  | .fmax _ _ _ _ _ => .f
  | .fabs _ _ _ _ => .f
  | .fneg _ _ _ _ => .f
  | .frcp _ _ _ _ => .f
  | .frsq _ _ _ _ => .f
  | .fsqrt _ _ _ _ => .f
  | .fex2 _ _ _ _ => .f
  | .flg2 _ _ _ _ => .f
  | .fsin _ _ _ _ => .f
  | .fcos _ _ _ _ => .f
  | .fcmp _ _ _ _ _ _ _ => .f
  | .fdot2 _ _ _ _ _ => .f
  | .hadd2 _ _ _ _ _ => .f
  | .hmul2 _ _ _ _ _ => .f
  | .hfma2 _ _ _ _ _ => .f
  | .frnd _ _ _ _ => .f
  | .fsetm _ _ _ _ => .f
  | .fcvt _ _ _ _ _ _ _ _ => .f
  | .fcvti _ _ _ _ _ _ => .f
  | .icvtf _ _ _ _ _ _ => .f
  | .fpack _ _ _ _ _ _ => .f
  | .funpk _ _ _ _ _ _ _ => .f
  | .fscl _ _ _ _ _ => .f
  | .fsca _ _ _ _ _ => .f
  | .fzct _ _ _ => .f
  | .mma _ _ _ _ _ _ _ _ _ _ _ _ _ => .x
  | .mlut _ _ _ _ _ _ _ _ _ _ => .x
  | .mlbld _ _ _ _ _ _ _ _ _ => .x
  | .macz _ _ _ => .x
  | .macr _ _ _ _ _ _ _ => .x
  | .macw _ _ _ _ _ _ _ => .x
  | .mdrn _ _ _ _ _ _ _ _ _ _ => .x
  | .mpairBind _ => .x
  | .mpairRel _ => .x
  | .ld _ _ _ _ _ => .m
  | .st _ _ _ _ _ => .m
  | .ldl _ _ _ _ _ _ _ _ _ _ _ => .m
  | .stl _ _ _ _ _ _ _ _ _ => .m
  | .lds _ _ _ _ _ => .m
  | .sts _ _ _ _ _ => .m
  | .ldk _ _ _ _ _ _ _ => .m
  | .stk _ _ _ _ _ _ => .m
  | .pref _ _ _ _ _ _ _ _ => .m
  | .cwb _ _ _ _ _ _ => .m
  | .cflu _ _ _ _ _ _ => .m
  | .cinv _ _ _ _ _ _ _ => .m
  | .preq _ _ _ _ _ _ _ => .m
  | .atom _ _ _ _ _ _ _ _ _ _ _ => .m
  | .red _ _ _ _ _ _ _ _ _ _ => .m
  | .atoms _ _ _ _ _ _ _ _ _ _ _ => .m
  | .fence _ _ _ => .m
  | .barSync _ _ _ _ => .m
  | .barArrive _ _ _ _ => .m
  | .barWait _ _ _ => .m
  | .bart _ _ _ _ _ _ => .m
  | .gbar _ => .m
  | .clkjAdd _ _ => .a
  | .clkjAddk _ _ => .a
  | .clkjSetk _ _ => .a
  | .clkjNb _ => .a
  | .lock _ _ _ _ _ _ => .m
  | .lockTry _ _ _ _ _ _ _ => .m
  | .unlock _ _ _ _ _ _ _ => .m
  | .aecfg _ _ => .m
  | .aego _ _ => .m
  | .aestop _ => .m
  | .qbind _ _ => .m
  | .sliceLdl _ _ _ _ _ _ _ _ => .m
  | .cpy _ _ _ _ _ _ _ => .m
  | .cpym _ _ _ _ _ _ _ => .m
  | .cpyw _ _ _ => .m
  | .cpyq _ _ _ _ _ => .m
  | .semset _ _ _ _ => .m
  | .semadd _ _ _ _ => .m
  | .semwait _ _ _ _ => .m
  | .coll _ _ _ _ => .m
  | .collw _ _ _ => .m
  | .tclaim _ _ _ _ _ _ _ _ _ => .x
  | .trel _ _ _ => .x
  | .tsurr _ _ _ => .x
  | .tquery _ _ _ _ => .x
  | .lnch _ _ _ _ => .x
  | .lnwait _ _ _ _ => .x
  | .qpost _ _ _ _ _ _ => .x
  | .lmap _ _ _ _ _ => .x
  | .trap _ _ => .x
  | .tfence _ => .x
  | .rft _ _ => .x
  | .tmask _ _ _ _ => .x
  | .gets _ _ _ _ => .x
  | .sets _ _ _ _ => .x
  | .tmr _ _ _ _ => .x
  | .orgr _ _ _ _ _ => .x
  | .orgw _ _ _ _ _ => .x
  | _ => .a

/-- The weight an instruction form adds to LCLK each time a strand retires it (R23, Table 2.5); events have none. -/
def Instr.weight : Instr → Nat
  | .nop _ => 1
  | .bra _ _ => 1
  | .brp _ _ _ => 1
  | .brn _ _ _ => 1
  | .bru _ _ _ => 1
  | .bruz _ _ _ => 1
  | .jmpx _ _ => 1
  | .call _ _ _ => 1
  | .callx _ _ _ => 1
  | .ret _ _ => 1
  | .exit _ => 1
  | .dwait _ _ _ => 1
  | .chkm _ _ => 1
  | .brk _ _ => 1
  | .iadd _ _ _ _ _ => 1
  | .isub _ _ _ _ _ => 1
  | .imul _ _ _ _ _ => 1
  | .imulhS _ _ _ _ _ => 1
  | .imulhN _ _ _ _ _ => 1
  | .imad _ _ _ _ _ => 1
  | .iaddi _ _ _ _ => 1
  | .iminS _ _ _ _ _ => 1
  | .iminN _ _ _ _ _ => 1
  | .imaxS _ _ _ _ _ => 1
  | .imaxN _ _ _ _ _ => 1
  | .shl _ _ _ _ _ => 1
  | .shr _ _ _ _ _ => 1
  | .sar _ _ _ _ _ => 1
  | .shli _ _ _ _ => 1
  | .shri _ _ _ _ => 1
  | .sari _ _ _ _ => 1
  | .roti _ _ _ _ => 1
  | .and _ _ _ _ _ => 1
  | .or _ _ _ _ _ => 1
  | .xor _ _ _ _ _ => 1
  | .andn _ _ _ _ _ => 1
  | .andi _ _ _ _ => 1
  | .ori _ _ _ _ => 1
  | .xori _ _ _ _ => 1
  | .not _ _ _ _ => 1
  | .popc _ _ _ _ => 1
  | .clz _ _ _ _ => 1
  | .brev _ _ _ _ => 1
  | .iabs _ _ _ _ => 1
  | .ineg _ _ _ _ => 1
  | .bfx _ _ _ _ _ _ _ => 1
  | .bfi _ _ _ _ _ _ => 1
  | .lea _ _ _ _ _ _ _ => 1
  | .icmp _ _ _ _ _ _ _ => 1
  | .sel _ _ _ _ _ _ => 1
  | .movi _ _ _ _ => 1
  | .movk _ _ _ _ _ => 1
  | .idot4 _ _ _ _ _ => 1
  | .kadd _ _ _ _ => 1
  | .ksub _ _ _ _ => 1
  | .kmul _ _ _ _ => 1
  | .kand _ _ _ _ => 1
  | .kor _ _ _ _ => 1
  | .kxor _ _ _ _ => 1
  | .kshl _ _ _ _ => 1
  | .kshr _ _ _ _ => 1
  | .kaddi _ _ _ _ => 1
  | .kset _ _ _ _ => 1
  | .kcmp _ _ _ _ _ => 1
  | .kmov _ _ _ => 1
  | .kfromv _ _ _ _ _ => 1
  | .pand _ _ _ _ => 1
  | .por _ _ _ _ => 1
  | .pxor _ _ _ _ => 1
  | .pandn _ _ _ _ => 1
  | .pclr _ _ => 1
  | .pset _ _ => 1
  | .pnot _ _ _ => 1
  | .pmov _ _ _ => 1
  | .ptov _ _ _ => 1
  | .vtop _ _ _ => 1
  | .qswp _ _ _ _ => 1
  | .qbc _ _ _ _ => 1
  | .qhlp _ _ => 1
  | .wshf _ _ _ _ => 1
  | .wshx _ _ _ _ _ => 1
  | .wvote _ _ _ _ => 1
  | .wred _ _ _ _ => 1
  | .fadd _ _ _ _ _ => 1
  | .fsub _ _ _ _ _ => 1
  | .fmul _ _ _ _ _ => 1
  | .ffma _ _ _ _ _ => 1
  | .fmin _ _ _ _ _ => 1
  | .fmax _ _ _ _ _ => 1
  | .fabs _ _ _ _ => 1
  | .fneg _ _ _ _ => 1
  | .frcp _ _ _ _ => 1
  | .frsq _ _ _ _ => 1
  | .fsqrt _ _ _ _ => 1
  | .fex2 _ _ _ _ => 1
  | .flg2 _ _ _ _ => 1
  | .fsin _ _ _ _ => 1
  | .fcos _ _ _ _ => 1
  | .fcmp _ _ _ _ _ _ _ => 1
  | .fdot2 _ _ _ _ _ => 1
  | .hadd2 _ _ _ _ _ => 1
  | .hmul2 _ _ _ _ _ => 1
  | .hfma2 _ _ _ _ _ => 1
  | .frnd _ _ _ _ => 1
  | .fsetm _ _ _ _ => 1
  | .fcvt _ _ _ _ _ _ _ _ => 1
  | .fcvti _ _ _ _ _ _ => 1
  | .icvtf _ _ _ _ _ _ => 1
  | .fpack _ _ _ _ _ _ => 1
  | .funpk _ _ _ _ _ _ _ => 1
  | .fscl _ _ _ _ _ => 1
  | .fsca _ _ _ _ _ => 1
  | .fzct _ _ _ => 1
  | .mma _ _ _ _ _ _ _ _ _ _ _ _ _ => 8
  | .mlut _ _ _ _ _ _ _ _ _ _ => 8
  | .mlbld _ _ _ _ _ _ _ _ _ => 1
  | .macz _ _ _ => 1
  | .macr _ _ _ _ _ _ _ => 4
  | .macw _ _ _ _ _ _ _ => 4
  | .mdrn _ _ _ _ _ _ _ _ _ _ => 4
  | .mpairBind _ => 1
  | .mpairRel _ => 1
  | .ld _ _ _ _ _ => 2
  | .st _ _ _ _ _ => 2
  | .ldl _ _ _ _ _ _ _ _ _ _ _ => 2
  | .stl _ _ _ _ _ _ _ _ _ => 2
  | .lds _ _ _ _ _ => 2
  | .sts _ _ _ _ _ => 2
  | .ldk _ _ _ _ _ _ _ => 2
  | .stk _ _ _ _ _ _ => 2
  | .pref _ _ _ _ _ _ _ _ => 2
  | .cwb _ _ _ _ _ _ => 2
  | .cflu _ _ _ _ _ _ => 2
  | .cinv _ _ _ _ _ _ _ => 2
  | .preq _ _ _ _ _ _ _ => 2
  | .atom _ _ _ _ _ _ _ _ _ _ _ => 4
  | .red _ _ _ _ _ _ _ _ _ _ => 4
  | .atoms _ _ _ _ _ _ _ _ _ _ _ => 4
  | .fence _ _ _ => 1
  | .barSync _ _ _ _ => 1
  | .barArrive _ _ _ _ => 1
  | .barWait _ _ _ => 1
  | .bart _ _ _ _ _ _ => 1
  | .gbar _ => 1
  | .clkjAdd _ _ => 0
  | .clkjAddk _ _ => 0
  | .clkjSetk _ _ => 0
  | .clkjNb _ => 0
  | .lock _ _ _ _ _ _ => 4
  | .lockTry _ _ _ _ _ _ _ => 4
  | .unlock _ _ _ _ _ _ _ => 4
  | .aecfg _ _ => 4
  | .aego _ _ => 4
  | .aestop _ => 4
  | .qbind _ _ => 4
  | .sliceLdl _ _ _ _ _ _ _ _ => 2
  | .cpy _ _ _ _ _ _ _ => 4
  | .cpym _ _ _ _ _ _ _ => 4
  | .cpyw _ _ _ => 4
  | .cpyq _ _ _ _ _ => 4
  | .semset _ _ _ _ => 4
  | .semadd _ _ _ _ => 4
  | .semwait _ _ _ _ => 4
  | .coll _ _ _ _ => 4
  | .collw _ _ _ => 4
  | .tclaim _ _ _ _ _ _ _ _ _ => 4
  | .trel _ _ _ => 4
  | .tsurr _ _ _ => 4
  | .tquery _ _ _ _ => 4
  | .lnch _ _ _ _ => 4
  | .lnwait _ _ _ _ => 4
  | .qpost _ _ _ _ _ _ => 4
  | .lmap _ _ _ _ _ => 4
  | .trap _ _ => 1
  | .tfence _ => 1
  | .rft _ _ => 1
  | .tmask _ _ _ _ => 1
  | .gets _ _ _ _ => 1
  | .sets _ _ _ _ => 1
  | .tmr _ _ _ _ => 1
  | .orgr _ _ _ _ _ => 1
  | .orgw _ _ _ _ _ => 1
  | _ => 0

/-- The latency of an instruction form (Table 2.5). -/
def Instr.latency : Instr → Lat
  | .iadd _ _ _ _ _ => .fixed 2
  | .isub _ _ _ _ _ => .fixed 2
  | .imul _ _ _ _ _ => .fixed 2
  | .imulhS _ _ _ _ _ => .fixed 2
  | .imulhN _ _ _ _ _ => .fixed 2
  | .imad _ _ _ _ _ => .fixed 2
  | .iaddi _ _ _ _ => .fixed 2
  | .iminS _ _ _ _ _ => .fixed 2
  | .iminN _ _ _ _ _ => .fixed 2
  | .imaxS _ _ _ _ _ => .fixed 2
  | .imaxN _ _ _ _ _ => .fixed 2
  | .shl _ _ _ _ _ => .fixed 2
  | .shr _ _ _ _ _ => .fixed 2
  | .sar _ _ _ _ _ => .fixed 2
  | .shli _ _ _ _ => .fixed 2
  | .shri _ _ _ _ => .fixed 2
  | .sari _ _ _ _ => .fixed 2
  | .roti _ _ _ _ => .fixed 2
  | .and _ _ _ _ _ => .fixed 2
  | .or _ _ _ _ _ => .fixed 2
  | .xor _ _ _ _ _ => .fixed 2
  | .andn _ _ _ _ _ => .fixed 2
  | .andi _ _ _ _ => .fixed 2
  | .ori _ _ _ _ => .fixed 2
  | .xori _ _ _ _ => .fixed 2
  | .not _ _ _ _ => .fixed 2
  | .popc _ _ _ _ => .fixed 2
  | .clz _ _ _ _ => .fixed 2
  | .brev _ _ _ _ => .fixed 2
  | .iabs _ _ _ _ => .fixed 2
  | .ineg _ _ _ _ => .fixed 2
  | .bfx _ _ _ _ _ _ _ => .fixed 2
  | .bfi _ _ _ _ _ _ => .fixed 2
  | .lea _ _ _ _ _ _ _ => .fixed 2
  | .icmp _ _ _ _ _ _ _ => .fixed 2
  | .sel _ _ _ _ _ _ => .fixed 2
  | .movi _ _ _ _ => .fixed 2
  | .movk _ _ _ _ _ => .fixed 2
  | .idot4 _ _ _ _ _ => .fixed 2
  | .kadd _ _ _ _ => .fixed 2
  | .ksub _ _ _ _ => .fixed 2
  | .kmul _ _ _ _ => .fixed 2
  | .kand _ _ _ _ => .fixed 2
  | .kor _ _ _ _ => .fixed 2
  | .kxor _ _ _ _ => .fixed 2
  | .kshl _ _ _ _ => .fixed 2
  | .kshr _ _ _ _ => .fixed 2
  | .kaddi _ _ _ _ => .fixed 2
  | .kset _ _ _ _ => .fixed 2
  | .kcmp _ _ _ _ _ => .fixed 2
  | .kmov _ _ _ => .fixed 2
  | .kfromv _ _ _ _ _ => .fixed 2
  | .pand _ _ _ _ => .fixed 2
  | .por _ _ _ _ => .fixed 2
  | .pxor _ _ _ _ => .fixed 2
  | .pandn _ _ _ _ => .fixed 2
  | .pclr _ _ => .fixed 2
  | .pset _ _ => .fixed 2
  | .pnot _ _ _ => .fixed 2
  | .pmov _ _ _ => .fixed 2
  | .ptov _ _ _ => .fixed 2
  | .vtop _ _ _ => .fixed 2
  | .qswp _ _ _ _ => .fixed 3
  | .qbc _ _ _ _ => .fixed 3
  | .qhlp _ _ => .fixed 3
  | .wshf _ _ _ _ => .fixed 3
  | .wshx _ _ _ _ _ => .fixed 3
  | .wvote _ _ _ _ => .fixed 3
  | .wred _ _ _ _ => .fixed 3
  | .fadd _ _ _ _ _ => .fixed 4
  | .fsub _ _ _ _ _ => .fixed 4
  | .fmul _ _ _ _ _ => .fixed 4
  | .ffma _ _ _ _ _ => .fixed 4
  | .fmin _ _ _ _ _ => .fixed 4
  | .fmax _ _ _ _ _ => .fixed 4
  | .fabs _ _ _ _ => .fixed 4
  | .fneg _ _ _ _ => .fixed 4
  | .frcp _ _ _ _ => .dc
  | .frsq _ _ _ _ => .dc
  | .fsqrt _ _ _ _ => .dc
  | .fex2 _ _ _ _ => .dc
  | .flg2 _ _ _ _ => .dc
  | .fsin _ _ _ _ => .dc
  | .fcos _ _ _ _ => .dc
  | .fcmp _ _ _ _ _ _ _ => .fixed 4
  | .fdot2 _ _ _ _ _ => .fixed 4
  | .hadd2 _ _ _ _ _ => .fixed 4
  | .hmul2 _ _ _ _ _ => .fixed 4
  | .hfma2 _ _ _ _ _ => .fixed 4
  | .frnd _ _ _ _ => .fixed 4
  | .fsetm _ _ _ _ => .fixed 4
  | .fcvt _ _ _ _ _ _ _ _ => .fixed 4
  | .fcvti _ _ _ _ _ _ => .fixed 4
  | .icvtf _ _ _ _ _ _ => .fixed 4
  | .fpack _ _ _ _ _ _ => .fixed 4
  | .funpk _ _ _ _ _ _ _ => .fixed 4
  | .fscl _ _ _ _ _ => .fixed 4
  | .fsca _ _ _ _ _ => .fixed 4
  | .fzct _ _ _ => .fixed 4
  | .mma _ _ _ _ _ _ _ _ _ _ _ _ _ => .dc
  | .mlut _ _ _ _ _ _ _ _ _ _ => .dc
  | .mlbld _ _ _ _ _ _ _ _ _ => .dc
  | .macz _ _ _ => .dc
  | .macr _ _ _ _ _ _ _ => .dc
  | .macw _ _ _ _ _ _ _ => .dc
  | .mdrn _ _ _ _ _ _ _ _ _ _ => .dc
  | .ld _ _ _ _ _ => .dc
  | .st _ _ _ _ _ => .dc
  | .ldl _ _ _ _ _ _ _ _ _ _ _ => .dc
  | .stl _ _ _ _ _ _ _ _ _ => .dc
  | .lds _ _ _ _ _ => .dc
  | .sts _ _ _ _ _ => .dc
  | .ldk _ _ _ _ _ _ _ => .dc
  | .stk _ _ _ _ _ _ => .dc
  | .cwb _ _ _ _ _ _ => .dc
  | .cflu _ _ _ _ _ _ => .dc
  | .cinv _ _ _ _ _ _ _ => .dc
  | .preq _ _ _ _ _ _ _ => .dc
  | .atom _ _ _ _ _ _ _ _ _ _ _ => .dc
  | .red _ _ _ _ _ _ _ _ _ _ => .dc
  | .atoms _ _ _ _ _ _ _ _ _ _ _ => .dc
  | .bart _ _ _ _ _ _ => .dc
  | .lock _ _ _ _ _ _ => .dc
  | .lockTry _ _ _ _ _ _ _ => .dc
  | .unlock _ _ _ _ _ _ _ => .dc
  | .sliceLdl _ _ _ _ _ _ _ _ => .dc
  | .cpy _ _ _ _ _ _ _ => .dc
  | .cpym _ _ _ _ _ _ _ => .dc
  | .cpyw _ _ _ => .dc
  | .cpyq _ _ _ _ _ => .dc
  | .coll _ _ _ _ => .dc
  | .collw _ _ _ => .dc
  | .tclaim _ _ _ _ _ _ _ _ _ => .dc
  | .trel _ _ _ => .dc
  | .tsurr _ _ _ => .dc
  | .tquery _ _ _ _ => .dc
  | .lnch _ _ _ _ => .dc
  | .lnwait _ _ _ _ => .dc
  | .qpost _ _ _ _ _ _ => .dc
  | .lmap _ _ _ _ _ => .dc
  | .gets _ _ _ _ => .fixed 2
  | .tmr _ _ _ _ => .dc
  | .orgr _ _ _ _ _ => .dc
  | .orgw _ _ _ _ _ => .dc
  | _ => .none

/-- The words an instruction form occupies (R35). -/
def Instr.words : Instr → Nat
  | .bfx _ _ _ _ _ _ _ => 2
  | .bfi _ _ _ _ _ _ => 2
  | .lea _ _ _ _ _ _ _ => 2
  | .icmp _ _ _ _ _ _ _ => 2
  | .sel _ _ _ _ _ _ => 2
  | .movi _ _ _ _ => 2
  | .kset _ _ _ _ => 2
  | .fcmp _ _ _ _ _ _ _ => 2
  | .fcvt _ _ _ _ _ _ _ _ => 2
  | .fpack _ _ _ _ _ _ => 2
  | .funpk _ _ _ _ _ _ _ => 2
  | .fsca _ _ _ _ _ => 2
  | .mma _ _ _ _ _ _ _ _ _ _ _ _ _ => 2
  | .mlut _ _ _ _ _ _ _ _ _ _ => 2
  | .mlbld _ _ _ _ _ _ _ _ _ => 2
  | .macr _ _ _ _ _ _ _ => 2
  | .macw _ _ _ _ _ _ _ => 2
  | .mdrn _ _ _ _ _ _ _ _ _ _ => 2
  | .ldl _ _ _ _ _ _ _ _ _ _ _ => 2
  | .stl _ _ _ _ _ _ _ _ _ => 2
  | .ldk _ _ _ _ _ _ _ => 2
  | .stk _ _ _ _ _ _ => 2
  | .pref _ _ _ _ _ _ _ _ => 2
  | .cwb _ _ _ _ _ _ => 2
  | .cflu _ _ _ _ _ _ => 2
  | .cinv _ _ _ _ _ _ _ => 2
  | .preq _ _ _ _ _ _ _ => 2
  | .atom _ _ _ _ _ _ _ _ _ _ _ => 2
  | .red _ _ _ _ _ _ _ _ _ _ => 2
  | .atoms _ _ _ _ _ _ _ _ _ _ _ => 2
  | .bart _ _ _ _ _ _ => 2
  | .lock _ _ _ _ _ _ => 2
  | .lockTry _ _ _ _ _ _ _ => 2
  | .unlock _ _ _ _ _ _ _ => 2
  | .aecfg _ _ => 2
  | .aego _ _ => 2
  | .aestop _ => 2
  | .qbind _ _ => 2
  | .sliceLdl _ _ _ _ _ _ _ _ => 2
  | .cpy _ _ _ _ _ _ _ => 2
  | .cpym _ _ _ _ _ _ _ => 2
  | .cpyw _ _ _ => 2
  | .cpyq _ _ _ _ _ => 2
  | .coll _ _ _ _ => 2
  | .collw _ _ _ => 2
  | .tclaim _ _ _ _ _ _ _ _ _ => 2
  | .trel _ _ _ => 2
  | .tsurr _ _ _ => 2
  | .tquery _ _ _ _ => 2
  | .lnch _ _ _ _ => 2
  | .lnwait _ _ _ _ => 2
  | .qpost _ _ _ _ _ _ => 2
  | .lmap _ _ _ _ _ => 2
  | _ => 1

/-- The counter a variable-latency instruction counts on (R61): its dc field, dc0 where it has none, nothing for 7. -/
def Instr.counter : Instr → Option Nat
  | .frcp _ _ _ _ => some 0
  | .frsq _ _ _ _ => some 0
  | .fsqrt _ _ _ _ => some 0
  | .fex2 _ _ _ _ => some 0
  | .flg2 _ _ _ _ => some 0
  | .fsin _ _ _ _ => some 0
  | .fcos _ _ _ _ => some 0
  | .mma _ _ _ _ _ _ _ _ _ _ _ _ dc => if dc = 7 then none else some dc.toNat
  | .mlut _ _ _ _ _ _ _ dc _ _ => if dc = 7 then none else some dc.toNat
  | .mlbld _ _ _ _ _ _ _ dc _ => if dc = 7 then none else some dc.toNat
  | .macz _ _ _ => some 0
  | .macr _ _ _ _ _ _ dc => if dc = 7 then none else some dc.toNat
  | .macw _ _ _ _ _ _ dc => if dc = 7 then none else some dc.toNat
  | .mdrn _ _ _ _ _ _ _ dc _ _ => if dc = 7 then none else some dc.toNat
  | .ld _ _ _ _ _ => some 0
  | .st _ _ _ _ _ => some 0
  | .ldl _ _ _ _ _ _ dc _ _ _ _ => if dc = 7 then none else some dc.toNat
  | .stl _ _ _ _ _ _ dc _ _ => if dc = 7 then none else some dc.toNat
  | .lds _ _ _ _ _ => some 0
  | .sts _ _ _ _ _ => some 0
  | .ldk _ _ _ _ _ _ dc => if dc = 7 then none else some dc.toNat
  | .stk _ _ _ _ _ dc => if dc = 7 then none else some dc.toNat
  | .cwb _ _ _ _ _ dc => if dc = 7 then none else some dc.toNat
  | .cflu _ _ _ _ _ dc => if dc = 7 then none else some dc.toNat
  | .cinv _ _ _ _ _ dc _ => if dc = 7 then none else some dc.toNat
  | .preq _ _ _ _ _ _ dc => if dc = 7 then none else some dc.toNat
  | .atom _ _ _ _ _ _ _ _ _ dc _ => if dc = 7 then none else some dc.toNat
  | .red _ _ _ _ _ _ _ _ dc _ => if dc = 7 then none else some dc.toNat
  | .atoms _ _ _ _ _ _ _ _ _ dc _ => if dc = 7 then none else some dc.toNat
  | .bart _ _ _ _ _ dc => if dc = 7 then none else some dc.toNat
  | .lock _ _ _ _ dc _ => if dc = 7 then none else some dc.toNat
  | .lockTry _ _ _ _ _ dc _ => if dc = 7 then none else some dc.toNat
  | .unlock _ _ _ _ _ dc _ => if dc = 7 then none else some dc.toNat
  | .sliceLdl _ _ _ _ _ _ _ _ => some 0
  | .cpy _ _ _ _ _ _ dc => if dc = 7 then none else some dc.toNat
  | .cpym _ _ _ _ _ dc _ => if dc = 7 then none else some dc.toNat
  | .cpyq _ _ _ _ dc => if dc = 7 then none else some dc.toNat
  | .coll _ _ _ dc => if dc = 7 then none else some dc.toNat
  | .tclaim _ _ _ _ _ _ _ dc _ => if dc = 7 then none else some dc.toNat
  | .trel _ _ dc => if dc = 7 then none else some dc.toNat
  | .tsurr _ _ _ => some 0
  | .tquery _ _ _ dc => if dc = 7 then none else some dc.toNat
  | .lnch _ _ _ dc => if dc = 7 then none else some dc.toNat
  | .lnwait _ _ _ dc => if dc = 7 then none else some dc.toNat
  | .qpost _ _ _ _ _ dc => if dc = 7 then none else some dc.toNat
  | .lmap _ _ _ _ dc => if dc = 7 then none else some dc.toNat
  | .tmr _ _ _ dc => if dc = 7 then none else some dc.toNat
  | .orgr _ _ _ _ dc => if dc = 7 then none else some dc.toNat
  | .orgw _ _ _ _ dc => if dc = 7 then none else some dc.toNat
  | _ => none

/-- The header of a word: chain, end and stall; an operation or event has the empty header. -/
def Instr.hdr (i : Instr) : Hdr := (i.hdr?).getD ⟨false, false, 0⟩

/-- The waiting-kind operations of Table 13.6. -/
def Instr.waiting : Instr → Bool
  | .lock _ _ _ _ _ _ => true
  | .lockTry _ _ _ _ _ _ _ => true
  | .barSync _ _ _ _ => true
  | .barArrive _ _ _ _ => true
  | .barWait _ _ _ => true
  | .bart _ _ _ _ _ _ => true
  | .gbar _ => true
  | .cpyw _ _ _ => true
  | .coll _ _ _ _ => true
  | .collw _ _ _ => true
  | .tclaim _ _ _ _ _ _ _ _ _ => true
  | .trel _ _ _ => true
  | .tquery _ _ _ _ => true
  | .lnch _ _ _ _ => true
  | .qpost _ _ _ _ _ _ => true
  | .lnwait _ _ _ _ => true
  | _ => false

/-- The words that order a warp's earlier accesses before what they do: fences, barriers, atomics that are not relaxed, locks, range maintenance, engines that read what was written before,
semaphores, and the tile and launch words that hand something over (R237, R242, R256, R268, R273, R280, R288, R336, R373). -/
def Instr.orders : Instr → Bool
  | .fence _ _ _ => true
  | .barSync _ _ _ _ => true
  | .barArrive _ _ _ _ => true
  | .gbar _ => true
  | .atom _ _ _ _ _ _ _ ord _ _ _ => ord != .rlx
  | .red _ _ _ _ _ _ ord _ _ _ => ord != .rlx
  | .atoms _ _ _ _ _ _ _ ord _ _ _ => ord != .rlx
  | .lock _ _ _ _ _ _ => true
  | .lockTry _ _ _ _ _ _ _ => true
  | .unlock _ _ _ _ _ _ _ => true
  | .cwb _ _ _ _ _ _ => true
  | .cflu _ _ _ _ _ _ => true
  | .cinv _ _ _ _ _ _ _ => true
  | .aego _ _ => true
  | .cpy _ _ _ _ _ _ _ => true
  | .cpym _ _ _ _ _ _ _ => true
  | .semset _ _ _ _ => true
  | .semadd _ _ _ _ => true
  | .coll _ _ _ _ => true
  | .trel _ _ _ => true
  | .lnch _ _ _ _ => true
  | .qpost _ _ _ _ _ _ => true
  | .rft _ _ => true
  | _ => false

/-- Whether a word is an acquire side (R280, R282): it reads with acq, ar or sc, or takes a lock. -/
def Instr.acquires : Instr → Bool
  | .atom _ _ _ _ _ _ _ ord _ _ _ => ord == .acq || ord == .ar || ord == .sc
  | .red _ _ _ _ _ _ ord _ _ _ => ord == .acq || ord == .ar || ord == .sc
  | .atoms _ _ _ _ _ _ _ ord _ _ _ => ord == .acq || ord == .ar || ord == .sc
  | .lockTry _ _ _ _ _ _ _ => true
  | _ => false

/-- Whether a word makes accesses, or lets an engine make them. -/
def Instr.accesses (i : Instr) : Bool :=
  match i with
  | .ld _ _ _ _ _ => true
  | .st _ _ _ _ _ => true
  | .ldl _ _ _ _ _ _ _ _ _ _ _ => true
  | .stl _ _ _ _ _ _ _ _ _ => true
  | .lds _ _ _ _ _ => true
  | .sts _ _ _ _ _ => true
  | .ldk _ _ _ _ _ _ _ => true
  | .stk _ _ _ _ _ _ => true
  | .atom _ _ _ _ _ _ _ _ _ _ _ => true
  | .red _ _ _ _ _ _ _ _ _ _ => true
  | .atoms _ _ _ _ _ _ _ _ _ _ _ => true
  | .mdrn _ _ _ _ _ _ _ _ _ _ => true
  | .mlbld _ _ _ _ _ _ _ _ _ => true
  | i => i.orders

end Sys2Proof
end

