-- ==== Sys2Proof/Machine/Access.lean ====
section
/-! DEFINITION. One home for every piece of state: reading and writing registers, and the records around the current warp. -/

namespace Sys2Proof.Machine

/-- An answer of a step. -/
abbrev Out := Host.Outcome State Fault Refusal

/-! ### Warp registers (R33, R84) -/

/-- v register `r` of lane `l`, as it stands. -/
def Warp.rdV (w : Warp) (r l : Nat) : Word := SMap.get 0 w.v (r * 32 + l)

/-- k register `r`; k0 reads 0 (R33). -/
def Warp.rdK (w : Warp) (r : Nat) : DWord := if r = 0 then 0 else SMap.get 0 w.k r

/-- Predicate `r` of lane `l`; 63 is pT and 62 is pF (R33). -/
def Warp.rdP (w : Warp) (r l : Nat) : Bool := if r = 63 then true else if r = 62 then false else SMap.get false w.p (r * 32 + l)

/-- Write lane `l` of v register `r`. -/
def Warp.wrV (w : Warp) (r l : Nat) (x : Word) : Warp := { w with v := SMap.put w.v (r * 32 + l) x }

/-- Write k register `r`; a write to k0 is discarded (R33). -/
def Warp.wrK (w : Warp) (r : Nat) (x : DWord) : Warp := if r = 0 then w else { w with k := SMap.put w.k r x }

/-- Write lane `l` of predicate `r`; a write to pF or pT is discarded (R33). -/
def Warp.wrP (w : Warp) (r l : Nat) (x : Bool) : Warp := if r = 62 ∨ r = 63 then w else { w with p := SMap.put w.p (r * 32 + l) x }

/-- Apply one lane's value of a result; a result bound for an exited thread is discarded (R75). -/
def Warp.wrLane (w : Warp) (r : RegId) (l : Nat) (x : DWord) : Warp :=
  match r with
  | .v n => if w.exited.getLsbD l then w else w.wrV n l (x.truncate 32)
  | .k n => w.wrK n x
  | .p n => if w.exited.getLsbD l then w else w.wrP n l (x.getLsbD 0)

/-- Apply a result to the registers. -/
def Warp.wrRes (w : Warp) (r : RegWrite) : Warp := r.vals.foldl (fun w e => w.wrLane r.reg e.1 e.2) w

/-- Apply several results, in order. -/
def Warp.wrAll (w : Warp) (rs : List RegWrite) : Warp := rs.foldl Warp.wrRes w

/-- A result that writes one k register. -/
def RegWrite.ofK (r : Nat) (x : DWord) : RegWrite := ⟨.k r, [(0, x)]⟩

/-- A result that writes a v register in the lanes of `mask`. -/
def RegWrite.ofV (r : Nat) (mask : Word) (f : Nat → Word) : RegWrite := ⟨.v r, (lanesOf mask).map fun l => (l, (f l).zeroExtend 64)⟩

/-- A result that writes a predicate in the lanes of `mask`. -/
def RegWrite.ofP (r : Nat) (mask : Word) (f : Nat → Bool) : RegWrite := ⟨.p r, (lanesOf mask).map fun l => (l, if f l then 1 else 0)⟩

/-- Whether v register `r` is a bound queue window (R244). -/
def Warp.isWindow (w : Warp) (r : Nat) : Bool := decide (56 ≤ r) && w.qbind.getLsbD (r - 56)

/-- AXF of a lane (Table 6.3). -/
def Warp.rdAxf (w : Warp) (l : Nat) : BitVec 6 := SMap.get 0 w.axf l

/-- Set AXF of a lane. -/
def Warp.wrAxf (w : Warp) (l : Nat) (x : BitVec 6) : Warp := { w with axf := SMap.put w.axf l x }

/-- The rows and columns a block-extent selector names (R80, Table 4.1). -/
def Warp.extent (w : Warp) (x : Bx) : Nat × Nat :=
  let b := match x.toNat with
    | 0 => 0#6
    | 1 => w.bx1
    | 2 => w.bx2
    | _ => w.bx3
  (fld b.toNat 3 3 + 1, fld b.toNat 0 3 + 1)

/-- The threads that have neither exited nor stopped. -/
def Warp.live (w : Warp) : Word := ~~~ (w.exited ||| maskOf (w.stops.map (·.lane)))

/-- The count of dependency counter `c` (R61). -/
def Warp.dcCount (w : Warp) (c : Nat) : Nat := (w.inflight.filter fun f => f.dc == c).length

/-- Whether every dependency counter is zero (R76, R381). -/
def Warp.dcZero (w : Warp) : Bool := w.inflight.all fun f => f.dc == 7

/-- The value of TMASK (Table 19.7). -/
def Warp.tmaskVal (w : Warp) : Nat := (if w.tmaskHold then 2 ^ 16 else 0) + w.tmaskEn.toNat

/-! ### The records around the current warp -/

/-- The current warp. -/
def State.w (s : State) : Warp := SMap.get Warp.idle s.warps s.cur

/-- Replace the current warp. -/
def State.setW (s : State) (w : Warp) : State := { s with warps := SMap.put s.warps s.cur w }

/-- Change the current warp, if it exists: a warp that a kill has dropped stays absent. -/
def State.modW (s : State) (f : Warp → Warp) : State :=
  match SMap.find s.warps s.cur with
  | some w => s.setW (f w)
  | none => s

/-- A number no incomplete instruction has: what a request that completes nothing names. -/
def noSeq : Nat := 2 ^ 64

/-- Warp `h`. -/
def State.warpAt (s : State) (h : Nat) : Warp := SMap.get Warp.idle s.warps h

/-- Replace warp `h`. -/
def State.setWarp (s : State) (h : Nat) (w : Warp) : State := { s with warps := SMap.put s.warps h w }

/-- Change warp `h`, if it exists. -/
def State.modWarp (s : State) (h : Nat) (f : Warp → Warp) : State :=
  match SMap.find s.warps h with
  | some w => s.setWarp h (f w)
  | none => s

/-- Act on warp `h` as the current warp, and come back. -/
def State.withWarp (s : State) (h : Nat) (f : State → State) : State := { f { s with cur := h } with cur := s.cur }

/-- Group `g`. -/
def State.groupAt (s : State) (g : Nat) : Group := SMap.get Group.none_ s.groups g

/-- Replace group `g`. -/
def State.setGroup (s : State) (g : Nat) (x : Group) : State := { s with groups := SMap.put s.groups g x }

/-- The group of the current warp. -/
def State.grp (s : State) : Group := s.groupAt s.w.grp

/-- Change the group of the current warp. -/
def State.modGrp (s : State) (f : Group → Group) : State := s.setGroup s.w.grp (f s.grp)

/-- Grid `g`. -/
def State.gridAt (s : State) (g : Nat) : Grid := SMap.get Grid.none_ s.grids g

/-- Replace grid `g`. -/
def State.setGrid (s : State) (g : Nat) (x : Grid) : State := { s with grids := SMap.put s.grids g x }

/-- Change grid `g`, if it exists. -/
def State.modGrid (s : State) (g : Nat) (f : Grid → Grid) : State :=
  match SMap.find s.grids g with
  | some x => s.setGrid g (f x)
  | none => s

/-- The grid of the current warp. -/
def State.grid (s : State) : Grid := s.gridAt s.grp.grid

/-- Context `c`. -/
def State.ctxAt (s : State) (c : Nat) : Ctx := SMap.get Ctx.reset s.ctxs c

/-- Replace context `c`. -/
def State.setCtx (s : State) (c : Nat) (x : Ctx) : State := { s with ctxs := SMap.put s.ctxs c x }

/-- The context of the current warp. -/
def State.ctxNo (s : State) : Nat := s.grid.ctx

/-- Core `c`. -/
def State.coreAt (s : State) (c : Nat) : Core := SMap.get Core.reset s.cores c

/-- Replace core `c`. -/
def State.setCore (s : State) (c : Nat) (x : Core) : State := { s with cores := SMap.put s.cores c x }

/-- Change core `c`. -/
def State.modCore (s : State) (c : Nat) (f : Core → Core) : State := s.setCore c (f (s.coreAt c))

/-- Die `d`. -/
def State.dieAt (s : State) (d : Nat) : Die := SMap.get Die.reset s.dies d

/-- Replace die `d`. -/
def State.setDie (s : State) (d : Nat) (x : Die) : State := { s with dies := SMap.put s.dies d x }

/-- Queue `q`. -/
def State.queueAt (s : State) (q : Nat) : Queue := SMap.get Queue.reset s.queues q

/-- Replace queue `q`. -/
def State.setQueue (s : State) (q : Nat) (x : Queue) : State := { s with queues := SMap.put s.queues q x }

/-- Domain `d`. -/
def State.domAt (s : State) (d : Nat) : Domain := SMap.get Domain.empty s.domains d

/-- Replace domain `d`. -/
def State.setDom (s : State) (d : Nat) (x : Domain) : State := { s with domains := SMap.put s.domains d x }

/-- Change domain `d`. -/
def State.modDom (s : State) (d : Nat) (f : Domain → Domain) : State := s.setDom d (f (s.domAt d))

/-- Change the management plane. -/
def State.modMgmt (s : State) (f : Mgmt → Mgmt) : State := { s with mgmt := f s.mgmt }

/-- The die, cluster of the die and slot of a physical core (R14). -/
def coreDie (c : Nat) : Nat := c / 96
/-- The cluster of a core within its die (R14). -/
def coreCluster (c : Nat) : Nat := c / 8 % 12
/-- The slot of a core within its cluster (R14). -/
def coreSlot (c : Nat) : Nat := c % 8

/-! ### Descriptor fields (R353) -/

/-- WARPS of a shape word. -/
def Desc.warps (d : Desc) : Nat := fld d.shape 0 6
/-- PAIRED of a shape word. -/
def Desc.paired (d : Desc) : Bool := bitAt d.shape 6
/-- COLL of a shape word. -/
def Desc.coll (d : Desc) : Bool := bitAt d.shape 7
/-- PERSIST of a shape word. -/
def Desc.persist (d : Desc) : Bool := bitAt d.shape 8
/-- MAINT of a shape word. -/
def Desc.maint (d : Desc) : Bool := bitAt d.shape 9
/-- NCHAN of a shape word. -/
def Desc.nchan (d : Desc) : Nat := fld d.shape 10 5
/-- NSEM of a shape word. -/
def Desc.nsem (d : Desc) : Nat := fld d.shape 15 7
/-- NSURR of a shape word. -/
def Desc.nsurr (d : Desc) : Nat := fld d.shape 22 4
/-- Accumulator storage units of a partition word (R353). -/
def Desc.acc (d : Desc) : Nat := fld d.part 13 5
/-- Scratchpad units of a partition word (R353). -/
def Desc.sp (d : Desc) : Nat := fld d.part 5 8
/-- Register-file units of a partition word (R353). -/
def Desc.rf (d : Desc) : Nat := fld d.part 0 5

/-- log2 of the gathering length: the descriptor's for a collated kernel, 12 for an open grid (Table 13.3). -/
def Desc.glen (d : Desc) : Nat := if d.coll then d.log2g else 12

/-- The gathering length G of a grid. -/
def Grid.g (x : Grid) : Nat := 2 ^ x.ds.glen

/-- The grid serial: launch number modulo 2^16 (R356). -/
def Grid.serial (x : Grid) : Nat := x.launch % 65536

/-- Whether the current warp belongs to a collated grid and takes turns: handler waves and surrender routines have no key of their own (R312, R340). -/
def State.collated (s : State) : Bool := s.grid.ds.coll && s.w.kind == .normal

/-- The clock the current warp's grid cuts time by. -/
def State.g (s : State) : Nat := s.grid.g

/-- The identity index of a warp in its group: twins follow every leader warp (R20, R293). -/
def State.idx (s : State) (h : Nat) : Nat :=
  let w := s.warpAt h
  w.widx + (if w.twin then (s.gridAt (s.groupAt w.grp).grid).ds.warps else 0)

/-- The key of warp `h` at clock `c` (R293). -/
def State.keyAt (s : State) (h c : Nat) : Key :=
  let w := s.warpAt h
  let g := s.groupAt w.grp
  { wave := w.wave, clk := c, serial := (s.gridAt g.grid).serial, gidx := g.gidx, widx := s.idx h }

/-- LCLK before the chain group plus the weights of the words of the group that stand before the present one (R297). -/
def Warp.opClk (w : Warp) : Nat := (w.grpLclk + w.grpW) % 2 ^ 64

/-- The key of an ordered operation of the present word (R297). -/
def State.opKey (s : State) : Key := s.keyAt s.cur s.w.opClk

/-- The order of keys (R22): wave, clock, identity. -/
def Key.lt (a b : Key) : Bool :=
  decide (a.wave < b.wave) || (a.wave == b.wave &&
    (decide (a.clk < b.clk) || (a.clk == b.clk &&
      (decide (a.serial < b.serial) || (a.serial == b.serial &&
        (decide (a.gidx < b.gidx) || (a.gidx == b.gidx && decide (a.widx < b.widx))))))))

/-- Nanoseconds in a number of clk at 1.8 GHz (R4). -/
def nsOf (clk : Nat) : Nat := clk * 5 / 9

/-- The raw reading of a die's 1 GHz counter: ns since start-up released the die, 0 before (R396). -/
def State.rawTime (s : State) (d : Nat) : Nat :=
  match (s.dieAt d).released with
  | none => 0
  | some t => nsOf (s.clk - t) % 2 ^ 64

/-- The die number under which the spine's own counter is kept. -/
def spineDie : Nat := 24

/-- The dies of the package (R424): 24 compute dies, the spine, and the 8 memory dies from number 25 on. -/
def allDies : Nat := 33

/-- The master reading on a die (R396): t + TOFF + floor(t × RATE ÷ 2^32), modulo 2^64. -/
def State.masterTime (s : State) (d : Nat) : Nat :=
  let t := s.rawTime d
  let x := s.dieAt d
  truncInt ((t : Int) + x.toff + (t * x.trate).fdiv (2 ^ 32)) 64

end Sys2Proof.Machine
end

