-- ==== Sys2Proof/Machine/Translate.lean ====
section
/-! DEFINITION. Translation: page table entries, the walk, the translation caches, and the checks of Table 8.3 (R187, R199 to R206). -/

namespace Sys2Proof.Machine

/-! ### Entries (Table 8.5) -/

/-- V of an entry. -/
def pteV (p : Nat) : Bool := bitAt p 0
/-- P of a leaf: resident. -/
def pteP (p : Nat) : Bool := bitAt p 1
/-- W of a leaf: writes allowed. -/
def pteW (p : Nat) : Bool := bitAt p 2
/-- X of a leaf: fetch allowed. -/
def pteX (p : Nat) : Bool := bitAt p 3
/-- L: the entry is a leaf. -/
def pteL (p : Nat) : Bool := bitAt p 4
/-- TIER of a leaf: 0 host, 1 LPDDR-6, 2 CXL memory, 3 HBM, 4 peer. -/
def pteTier (p : Nat) : Nat := fld p 5 3
/-- CC of a leaf. -/
def pteCc (p : Nat) : Nat := fld p 8 2
/-- AC of a leaf. -/
def pteAc (p : Nat) : Nat := fld p 10 2
/-- PFN of a leaf. -/
def ptePfn (p : Nat) : Nat := fld p 12 40

/-- The highest AC a tier allows (Table 8.6). -/
def acLimit (tier cc : Nat) : Nat :=
  match tier with
  | 0 => 3
  | 1 => if cc = 0 then 3 else 2
  | 2 => 1
  | 3 => if cc = 0 then 3 else 2
  | _ => 2

/-- Whether an entry with V = 1 at a level is malformed (R201). -/
def malformed (level p : Nat) : Bool :=
  fld p 52 12 != 0 ||
  (if pteL p then
    decide (3 ≤ level) || decide (5 ≤ pteTier p) || (pteW p && pteCc p == 3) || decide (acLimit (pteTier p) (pteCc p) < pteAc p)
   else level == 1 || fld p 1 11 != 0)

/-- Whether the 16 entries of a 64 KiB group have the shape of R202. -/
def groupOk (es : List Nat) : Bool :=
  match es with
  | [] => false
  | e :: _ =>
    ptePfn e % 16 == 0 &&
    (List.range es.length).all fun j =>
      let x := es.getD j 0
      ptePfn x == ptePfn e + j && fld x 0 12 == fld e 0 12 && fld x 52 12 == fld e 52 12

/-- The 8-byte entry at a physical address. -/
def State.entryAt (s : State) (pa : Nat) : Nat := ofBytes (s.mem.readN pa 8)

/-- The index field of a level (R199). -/
def vaIndex (va level : Nat) : Nat := fld va (12 + 9 * (level - 1)) 9

/-- The walk from a table at `level` (R199 to R202): a leaf, or the detail of the first entry at which it stops. -/
def State.walkFrom (s : State) (va : Nat) : Nat → Nat → Except Nat Leaf
  | 0, _ => .error 0x05
  | level + 1, table =>
    let e := s.entryAt (table + 8 * vaIndex va (level + 1))
    if !pteV e then .error 0x04
    else if malformed (level + 1) e then .error 0x05
    else if pteL e then
      if level + 1 = 2 then
        if (pteTier e == 3 || pteTier e == 4) && fld e 12 9 == 0 then .ok ⟨va / 2 ^ 21 * 2 ^ 21, 2 ^ 21, e⟩ else .error 0x06
      else if pteTier e = 0 then .ok ⟨va / 4096 * 4096, 4096, e⟩
      else if pteTier e = 1 ∨ pteTier e = 2 then
        let first := table + 8 * (vaIndex va 1 / 16 * 16)
        if groupOk ((List.range 16).map fun j => s.entryAt (first + 8 * j)) then .ok ⟨va / 4096 * 4096, 4096, e⟩ else .error 0x06
      else .error 0x06
    else s.walkFrom va level (fld e 12 40 * 4096)

/-- The walk of a context (R199). -/
def State.walk (s : State) (ctx va : Nat) : Except Nat Leaf := s.walkFrom va 5 (s.ctxAt ctx).troot

/-- The physical address of `va` under a leaf. -/
def Leaf.pa (x : Leaf) (va : Nat) : Nat := ptePfn x.pte * 4096 + va % x.size

/-- Whether a leaf covers `va`. -/
def Leaf.covers (x : Leaf) (va : Nat) : Bool := decide (x.va ≤ va) && decide (va < x.va + x.size)

/-! ### Translation caches (R205) -/

/-- A leaf for (ctx, va) held by the lane's last-page register, the core TLB or the die TLB, in that order. -/
def State.cachedLeaf (s : State) (core lane ctx va : Nat) : Option Leaf :=
  let c := s.coreAt core
  let inLane := if c.lanesCtx = ctx then (SMap.find c.lanes lane).filter (·.covers va) else none
  inLane <|> ((c.tlb.find? fun e => e.1 == ctx && e.2.covers va).map (·.2)) <|>
    (((s.dieAt (coreDie core)).tlb.find? fun e => e.1 == ctx && e.2.covers va).map (·.2))

/-- The leaf an access of a lane uses: a cached one, else the walk's. -/
def State.leafFor (s : State) (core lane ctx va : Nat) : Except Nat Leaf :=
  match s.cachedLeaf core lane ctx va with
  | some x => .ok x
  | none => s.walk ctx va

/-- Hold a leaf in the three levels; one found with V = 0 or P = 0 is never held (R205). Sizes are VL-5248 values. -/
def State.holdLeaf (s : State) (core lane ctx : Nat) (x : Leaf) : State :=
  if !(pteV x.pte && pteP x.pte) then s
  else
    let c := s.coreAt core
    let d := s.dieAt (coreDie core)
    let lanes := if c.lanesCtx = ctx then c.lanes else []
    let has (l : List (Nat × Leaf)) := l.any fun e => e.1 == ctx && e.2.va == x.va && e.2.size == x.size
    let c' := { c with lanesCtx := ctx, lanes := SMap.put lanes lane x, tlb := if has c.tlb then c.tlb else ((ctx, x) :: c.tlb).take 2048 }
    let d' := { d with tlb := if has d.tlb then d.tlb else ((ctx, x) :: d.tlb).take 65536 }
    (s.setCore core c').setDie (coreDie core) d'

/-! ### Checks (Table 8.3) -/

/-- What an access does, as far as its checks depend on it. -/
inductive Acc where
  | load
  | store
  | atomic (scope : Scope)
deriving DecidableEq, Repr

/-- Whether an access writes. -/
def Acc.writes : Acc → Bool
  | .store => true
  | .atomic _ => true
  | _ => false

/-- The least AC that admits an atomic of a scope (R203). -/
def scopeAc : Scope → Nat
  | .fabric => 2
  | .system => 3
  | _ => 1

/-- The frame-relative sector number of a physical address over the whole space: frame × 64 + sector (R208). -/
def sectorOf (pa : Nat) : Nat := pa / 32

/-- Whether a physical address lies in a failed home's range (R232). -/
def State.homeFailed (s : State) (pa : Nat) : Bool := s.failedHomes.any fun h => decide (h.1 ≤ pa) && decide (pa < h.1 + h.2)

/-- The page size of a tier (Table 8.6). -/
def tierSize (tier : Nat) : Nat :=
  match tier with
  | 0 => 4096
  | 1 => 65536
  | 2 => 65536
  | _ => 2 ^ 21

/-- The physical base of the page of a leaf: a 64 KiB group is one page (Table 8.6). -/
def Leaf.pageBase (x : Leaf) : Nat :=
  if pteTier x.pte = 1 ∨ pteTier x.pte = 2 then ptePfn x.pte / 16 * 16 * 4096 else ptePfn x.pte * 4096

/-- Whether the page of a leaf is in a lost-page list (R231). -/
def State.pageLost (s : State) (x : Leaf) : Bool := s.lostPages.any fun p => p == x.pageBase

/-- Conditions 0x03 to 0x0B for an access at virtual address `va`; `lost` says which physical addresses meet lost data (R187, R230, R231). -/
def State.checkVa (s : State) (core lane ctx va : Nat) (k : Acc) (lost : Nat → Bool) : Except Nat Leaf :=
  if va / 2 ^ 57 ≠ 0 then .error 0x03
  else match s.leafFor core lane ctx va with
    | .error d => .error d
    | .ok x =>
      if s.pageLost x then .error 0x0A
      else if !pteP x.pte then .error 0x07
      else if k.writes && !pteW x.pte then .error 0x08
      else
        let acBad := match k with
          | .atomic sc => decide (pteAc x.pte < scopeAc sc)
          | _ => false
        if acBad then .error 0x09
        else if lost (x.pa va) then .error 0x0A
        else if s.homeFailed (x.pa va) then .error 0x0B
        else .ok x

/-- Whether an access of `n` bytes at a physical address meets a lost sector (R230). -/
def State.meetsLost (s : State) (pa n : Nat) : Bool := s.lost.any fun x => decide (pa / 32 ≤ x) && decide (x ≤ (pa + n - 1) / 32)

/-- The virtual bases of the pages of a context that overlap [va, va + len), found by walking in ascending address (R198, R235). -/
def State.pagesFrom (s : State) (ctx : Nat) : Nat → Nat → Nat → List (Nat × Except Nat Leaf)
  | 0, _, _ => []
  | fuel + 1, va, stop =>
    if stop ≤ va then []
    else match s.walk ctx va with
      | .ok x => (va, .ok x) :: s.pagesFrom ctx fuel (x.va + x.size) stop
      | .error d => (va, .error d) :: s.pagesFrom ctx fuel (va / 4096 * 4096 + 4096) stop

/-- The pages of [va, va + len), as many as a range can have at 4 KiB each. -/
def State.pagesOf (s : State) (ctx va len : Nat) : List (Nat × Except Nat Leaf) := s.pagesFrom ctx (len / 4096 + 2) va (va + len)

/-- Ask for a page to be made resident, as preq does (R198). -/
def State.requestPage (s : State) (ctx va : Nat) : State :=
  if s.resReqs.any (· == (ctx, va / 4096 * 4096)) then s else { s with resReqs := s.resReqs ++ [(ctx, va / 4096 * 4096)] }

end Sys2Proof.Machine
end

