-- ==== Sys2Proof/Machine/Cache.lean ====
section
/-! DEFINITION. Quires, directories and coherence (R208 to R228): the tags of an agent, what a load, a store, an atomic, a snoop and a write-back do to them.
Agents are L1s (the physical core number) and the L2 slices of a die (4,096 + die). Every function here acts on `Caches` alone and reads memory as every agent sees it:
caches never change a value read (R221). -/

namespace Sys2Proof.Machine

/-- The agent number of a die's L2 slices. -/
def l2Agent (die : Nat) : Nat := 4096 + die

/-- The agent number of the host, which can take a sector of a page it shares by back-invalidation (R227, R418); it is no cache of the device. -/
def hostAgent : Nat := 8192

/-- Whether an agent is an L1. -/
def isL1 (agent : Nat) : Bool := decide (agent < 4096)

/-- The die an agent lies on. -/
def agentDie (agent : Nat) : Nat := if isL1 agent then coreDie agent else agent - 4096

/-- The quires of an agent. -/
def Caches.at_ (c : Caches) (agent : Nat) : List Quire := SMap.get [] c.quires agent

/-- Replace the quires of an agent. -/
def Caches.put (c : Caches) (agent : Nat) (qs : List Quire) : Caches := { c with quires := SMap.put c.quires agent qs }

/-- The agents that hold a quire. -/
def Caches.agents (c : Caches) : List Nat := c.quires.map Prod.fst

/-- The set a frame falls in (Table 9.2, VL-5248 values); the L2 set includes the slice (R211). -/
def setOf (agent frame : Nat) : Nat :=
  if isL1 agent then (fld frame 0 7) ^^^ (fld frame 7 7) else (frame % 96) * 512 + (frame / 96) % 512

/-- Tags of a set (Table 9.2). -/
def tagsOf (agent : Nat) : Nat := if isL1 agent then 8 else 16

/-- The quire of a list that holds a sector of a frame. -/
def holding (qs : List Quire) (frame sec : Nat) : Option Quire :=
  qs.find? fun q => q.frame == frame && decide (q.first ≤ sec) && decide (sec ≤ q.last)

/-- The state in which an agent holds a sector; I when it does not (R220). -/
def Caches.sectorSt (c : Caches) (agent frame sec : Nat) : QState :=
  match holding (c.at_ agent) frame sec with
  | some q => q.st
  | none => .i

/-- Whether an agent holds a sector dirty. -/
def Caches.sectorDirty (c : Caches) (agent frame sec : Nat) : Bool :=
  match holding (c.at_ agent) frame sec with
  | some q => q.dirty.contains sec
  | none => false

/-- Whether a quire counts in the protocol: a peer-forwarded copy is untracked (R226). -/
def Quire.tracked (q : Quire) : Bool := q.fwd.isNone

/-- Whether a quire overlaps a range of a frame. -/
def Quire.overlaps (q : Quire) (frame first last : Nat) : Bool := q.frame == frame && decide (q.first ≤ last) && decide (first ≤ q.last)

/-- The parts of a quire outside [first, last], its DIRTY bits kept (R223). -/
def Quire.outside (q : Quire) (first last : Nat) : List Quire :=
  (if q.first < first then [{ q with last := min q.last (first - 1), dirty := q.dirty.filter fun d => decide (d < first) }] else []) ++
  (if last < q.last then [{ q with first := max q.first (last + 1), dirty := q.dirty.filter fun d => decide (last < d) }] else [])

/-- The part of a quire inside [first, last], in a new state, if it overlaps. -/
def Quire.inside (q : Quire) (first last : Nat) (st : QState) (dirty : List Nat) : List Quire :=
  if q.first ≤ last ∧ first ≤ q.last then
    [{ q with first := max q.first first, last := min q.last last, st := st, dirty := dirty }] else []

/-- Contiguous runs of a rising list. -/
def runsOf : List Nat → List (Nat × Nat)
  | [] => []
  | x :: xs => match runsOf xs with
    | (a, b) :: t => if a = x + 1 then (x, b) :: t else (x, x) :: (a, b) :: t
    | [] => [(x, x)]

/-- The sectors of a range. -/
def secsOf (first last : Nat) : List Nat := (List.range (last + 1 - first)).map (· + first)

/-- Whether two requests or ranges meet. -/
def CohReq.meets (r : CohReq) (frame first last : Nat) : Bool := r.frame == frame && decide (r.first ≤ last) && decide (first ≤ r.last)

/-! ### Bytes behind the L1s -/

/-- The addresses of a sector (frame × 64 + sector). -/
def secAddrs (sec : Nat) : List Nat := (List.range 32).map fun i => sec * 32 + i

/-- No home slice holds bytes for a sector. -/
def Caches.eraseL2 (c : Caches) (sec : Nat) : Caches :=
  { c with l2 := c.l2.map fun e => (e.1, (secAddrs sec).foldl SMap.erase e.2) }

/-- The current bytes of a sector go into the home L2 slice of a die (the point of die scope and narrower, Table 9.6); the slices of other dies hold it no more. -/
def Caches.toL2 (c : Caches) (m : Memory) (die sec : Nat) : Caches :=
  let c := c.eraseL2 sec
  { c with l2 := SMap.put c.l2 die ((secAddrs sec).foldl (fun l a => SMap.put l a (m.read a)) (SMap.get [] c.l2 die)) }

/-- The current bytes of a sector go into home memory, past every cache (the point of device scope, Table 9.6). -/
def Caches.toHome (c : Caches) (m : Memory) (sec : Nat) : Caches :=
  { c.eraseL2 sec with home := c.home.writeN (sec * 32) (m.readN (sec * 32) 32) }

/-- The byte a die's home slice holds for an address. -/
def Caches.l2Byte (c : Caches) (die a : Nat) : Option Byte := SMap.find (SMap.get [] c.l2 die) a

/-- The byte the point holds: the home slice's of the die at die scope, the memory's at device scope (R235). -/
def Caches.pointByte (c : Caches) (device : Bool) (die a : Nat) : Byte :=
  if device then c.home.read a else (c.l2Byte die a).getD (c.home.read a)

/-- Whether a die's home slice holds bytes of a sector. -/
def Caches.inL2 (c : Caches) (die sec : Nat) : Bool := (secAddrs sec).any fun a => (c.l2Byte die a).isSome

/-! ### Room (R210, R216) -/

/-- Train the predictor entry of the PC that allocated a quire (R213); a quire of which no sector was accessed trains nothing. -/
def Caches.train (c : Caches) (agent : Nat) (q : Quire) : Caches :=
  if isL1 agent && decide (q.lowAcc ≤ q.highAcc) then
    { c with preds := SMap.put c.preds agent (SMap.put (SMap.get [] c.preds agent) q.predIdx (q.lowAcc, q.highAcc)) }
  else c

/-- The oldest quire of a list. -/
def oldest (qs : List Quire) : Option Quire :=
  qs.foldl (fun b q => match b with
    | none => some q
    | some x => if x.age < q.age then some q else some x) none

/-- Evict a quire (R216): one in O or M enters WBP until its write-back is acknowledged, any other is dropped. -/
def Caches.evict (c : Caches) (agent : Nat) (q : Quire) : Caches :=
  let rest := (c.at_ agent).filter (· != q)
  (c.put agent (if q.st = .o ∨ q.st = .m then { q with st := .wbp } :: rest else rest)).train agent q

/-- Whether a request pins a quire: it awaits the grant of its own agent, or the reply to a snoop of its sectors (R216). -/
def CohReq.pins (r : CohReq) (agent : Nat) (q : Quire) : Bool := r.meets q.frame q.first q.last && (r.agent == agent || !r.granted)

/-- Whether a quire awaits a grant of its agent or the reply to a snoop of its sectors (R216). -/
def Caches.pinned (c : Caches) (agent : Nat) (q : Quire) : Bool := c.coh.any fun r => r.pins agent q

/-- Sectors held by quires. -/
def sectorsHeld (qs : List Quire) : Nat := (qs.map fun q => q.last + 1 - q.first).sum

/-- Set DIRTY bits of the sectors given that an agent holds in O, M or WBP. -/
def Caches.soil (c : Caches) (agent frame : Nat) (secs : List Nat) : Caches :=
  c.put agent ((c.at_ agent).map fun q =>
    if q.frame == frame && (q.st == .o || q.st == .m || q.st == .wbp) then
      { q with dirty := q.dirty ++ (secs.filter fun d => decide (q.first ≤ d) && decide (d ≤ q.last) && !q.dirty.contains d) } else q)

/-- An L2 slice's write-back: its dirty sectors go to home memory. -/
def Caches.l2Back (m : Memory) (c : Caches) (q : Quire) : Caches := (q.dirty.map fun d => q.frame * 64 + d).foldl (fun c x => c.toHome m x) c

/-- The dirty sectors of a quire in a range. -/
def Quire.dirtyIn (q : Quire) (first last : Nat) : List Nat := q.dirty.filter fun d => decide (first ≤ d) && decide (d ≤ last)

/-- A request that pins a quire completes so that it may leave (R216): other agents answer its snoop, and no tag can be had, so that each change applies to a whole quire (R223);
uncovered dirty sectors go home. What it asks for and its agent does not hold stays asked for. -/
def Caches.finish (m : Memory) (c : Caches) (r : CohReq) : Caches :=
  let hit (q : Quire) : Bool := q.tracked && q.st != .wbp && q.overlaps r.frame r.first r.last
  let back (c : Caches) (q : Quire) : Caches := (q.outside r.first r.last).foldl (Caches.l2Back m) c
  let supplied := r.supplied ++ if r.own then (c.agents.filter (· != r.agent)).flatMap fun a => ((c.at_ a).filter hit).flatMap fun q => q.dirtyIn r.first r.last else []
  let after (a : Nat) (q : Quire) : List Quire :=
    if a = r.agent then q.inside r.first r.last (if r.own then .m else q.st) (q.dirtyIn r.first r.last)
    else if r.own then []
    else q.inside r.first r.last (if q.st = .m then .o else if q.st = .e then .s else q.st) (q.dirtyIn r.first r.last)
  let c := c.agents.foldl (fun c a =>
    let c := ((c.at_ a).filter hit).foldl back c
    c.put a ((c.at_ a).flatMap fun q => if hit q then after a q else [q])) c
  let c := c.soil r.agent r.frame supplied
  let rest := runsOf ((secsOf r.first r.last).filter fun x => (holding (c.at_ r.agent) r.frame x).isNone)
  { c with coh := c.coh.flatMap fun x => if x != r then [x] else rest.map fun p =>
      { r with first := p.1, last := p.2, granted := true, supplied := supplied.filter fun d => decide (p.1 ≤ d) && decide (d ≤ p.2) } }

/-- Room in a set of an agent for `tags` tags and `n` sectors (R210, R216): whole quires leave in order of AGE, those that `but` names apart, and the answer is whether there is room.
With `force` the access performs in this step, so that the write-backs and requests it has to wait for complete first (log 86); `wb` writes a quire back.
Without it a fill waits where a quire in WBP must leave first, or none can be chosen. -/
def Caches.room (m : Memory) (wb : Caches → Quire → Caches) (agent frame tags n : Nat) (but : Quire → Bool) (force : Bool) : Nat → Caches → Caches × Bool
  | 0, c => (c, false)
  | fuel + 1, c =>
    let inSet := (c.at_ agent).filter fun q => setOf agent q.frame == setOf agent frame
    let live := inSet.filter fun q => q.st != .wbp
    let fits (qs : List Quire) : Bool := decide (qs.length + tags ≤ tagsOf agent) && decide (sectorsHeld qs + n ≤ 64)
    if fits inSet then (c, true)
    else if fits live then
      match inSet.find? fun q => q.st == .wbp with
      | some q => if force then Caches.room m wb agent frame tags n but force fuel (wb (c.put agent ((c.at_ agent).filter (· != q))) q) else (c, false)
      | none => (c, false)
    else
      let may := live.filter fun q => !but q
      match oldest (may.filter fun q => !c.pinned agent q) with
      | some q => Caches.room m wb agent frame tags n but force fuel (c.evict agent q)
      | none => match may with
        | [] => (c, false)
        | q :: _ =>
          if force then Caches.room m wb agent frame tags n but force fuel ((c.coh.filter fun r => r.pins agent q).foldl (Caches.finish m) c)
          else (c, false)

/-- As many quires as a set can ask to leave, each at most twice, with the requests in the way. -/
def roomFuel : Nat := 64

/-! ### Splits and fill runs (R214, R223) -/

/-- Change the covered sectors of one quire: `r` is their new state and whether DIRTY bits stay, or none where they are dropped (R223). Where the state stays, the quire does not split.
The split takes free tags; where there are none, the uncovered sectors leave, the dirty ones written back first. -/
def Caches.recutOne (m : Memory) (wb : Caches → Quire → Caches) (agent first last : Nat) (r : Option (QState × Bool)) (c : Caches) (q : Quire) : Caches :=
  let mid := match r with
    | none => []
    | some (st, keep) => q.inside first last st (if keep then q.dirtyIn first last else [])
  let parts := q.outside first last ++ mid
  let put (c : Caches) (ps : List Quire) : Caches := c.put agent ((c.at_ agent).flatMap fun x => if x == q then ps else [x])
  if r = some (q.st, true) then c
  else if r = some (q.st, false) then put c [{ q with dirty := q.dirty.filter fun d => !(decide (first ≤ d) && decide (d ≤ last)) }]
  else
    let (c, ok) := if parts.length ≤ 1 then (c, true) else c.room m wb agent q.frame (parts.length - 1) 0 (fun x => x.overlaps q.frame first last) true roomFuel
    if ok then put c parts else (q.outside first last).foldl wb (put c mid)

/-- Change the covered sectors of the quires of an agent that `which` picks and that overlap a range (R223). -/
def Caches.recutBy (m : Memory) (wb : Caches → Quire → Caches) (c : Caches) (agent frame first last : Nat) (which : Quire → Bool) (f : Quire → Option (QState × Bool)) : Caches :=
  if last < first then c
  else ((c.at_ agent).filter fun q => which q && q.overlaps frame first last).foldl (fun c q => c.recutOne m wb agent first last (f q) q) c

/-- Place one fill run in an agent in state `st` (R214): a neighbour of equal state is extended, else the run becomes a quire of its own, none of its sectors accessed yet. -/
def Caches.placeRun (m : Memory) (wb : Caches → Quire → Caches) (agent frame : Nat) (st : QState) (pred : Nat) (fwd : Option Nat) (c : Caches) (r : Nat × Nat) : Caches :=
  let kin (q : Quire) : Bool := q.frame == frame && q.st == st && q.fwd == fwd
  let qs := c.at_ agent
  match (qs.find? fun q => kin q && q.last + 1 == r.1) <|> (qs.find? fun q => kin q && q.first == r.2 + 1) with
  | some q =>
    let (c, ok) := c.room m wb agent frame 0 (r.2 + 1 - r.1) (· == q) true roomFuel
    if ok then c.put agent ((c.at_ agent).map fun x => if x == q then { x with first := min x.first r.1, last := max x.last r.2 } else x) else c
  | none =>
    let (c, ok) := c.room m wb agent frame 1 (r.2 + 1 - r.1) (fun _ => false) true roomFuel
    if ok then c.put agent ({ frame := frame, first := r.1, last := r.2, st := st, dirty := [], age := 0, lowAcc := 64, highAcc := 0, predIdx := pred, fwd := fwd } :: c.at_ agent) else c

/-- Age every quire of a set by one step, up to 15 (Table 9.1). -/
def Caches.ageSet (c : Caches) (agent frame : Nat) : Caches :=
  c.put agent ((c.at_ agent).map fun q => if setOf agent q.frame == setOf agent frame then { q with age := min 15 (q.age + 1) } else q)

/-- Place sectors first to last of a frame: those present keep their data (R214). -/
def Caches.placeBy (m : Memory) (wb : Caches → Quire → Caches) (c : Caches) (agent frame first last : Nat) (st : QState) (pred : Nat) (fwd : Option Nat) : Caches :=
  let c := c.ageSet agent frame
  (runsOf ((secsOf first last).filter fun x => (holding (c.at_ agent) frame x).isNone)).foldl (Caches.placeRun m wb agent frame st pred fwd) c

/-! ### Write-backs (R216) -/

/-- A home slice takes sectors first to last written to it: it owes them to memory, in M, or in O while another agent holds a copy; `bytes` says that the current bytes come with them. -/
def Caches.l2Take (c : Caches) (m : Memory) (die frame : Nat) (bytes : Bool) (r : Nat × Nat) : Caches :=
  let a := l2Agent die
  let secs := secsOf r.1 r.2
  let c := if bytes then secs.foldl (fun c x => c.toL2 m die (frame * 64 + x)) c else c
  secs.foldl (fun c x =>
    let shared := c.agents.any fun b => b != a && (c.at_ b).any fun q => q.tracked && q.st != .wbp && q.overlaps frame x x
    let st : QState := if shared then .o else .m
    ((c.recutBy m (Caches.l2Back m) a frame x x Quire.tracked fun q => some (if q.st = .wbp then (.wbp, true) else (st, true))).placeBy m (Caches.l2Back m) a frame x x st 0 none).soil a frame [x]) c

/-- Write back the dirty sectors of a quire that leaves an agent: an L1's go to the home slice of its die, an L2's to memory (R216). -/
def Caches.writeBack (m : Memory) (agent : Nat) (c : Caches) (q : Quire) : Caches :=
  if isL1 agent then (runsOf (sortBy (fun a b => decide (a < b)) q.dirty)).foldl (fun c r => c.l2Take m (agentDie agent) q.frame true r) c
  else c.l2Back m q

/-- Change the covered sectors of an agent's quires (R223). -/
def Caches.recut (c : Caches) (m : Memory) (agent frame first last : Nat) (f : Quire → Option (QState × Bool)) : Caches :=
  c.recutBy m (Caches.writeBack m agent) agent frame first last Quire.tracked f

/-- Place a fill in an agent (R214). -/
def Caches.place (c : Caches) (m : Memory) (agent frame first last : Nat) (st : QState) (pred : Nat) (fwd : Option Nat) : Caches :=
  c.placeBy m (Caches.writeBack m agent) agent frame first last st pred fwd

/-- A write-back of a quire in WBP that no snoop has met reaches its home and is acknowledged (R216, R225). -/
def Caches.settle (c : Caches) (m : Memory) (agent : Nat) (q : Quire) : Caches := (c.put agent ((c.at_ agent).filter (· != q))).writeBack m agent q

/-- The quires of an agent in WBP that overlap a range. -/
def Caches.wbpIn (c : Caches) (agent frame first last : Nat) : List Quire := (c.at_ agent).filter fun q => q.st == .wbp && q.overlaps frame first last

/-- An agent's own write-backs of a range complete: data in WBP may not be used (R220). -/
def Caches.settleOwn (c : Caches) (m : Memory) (agent frame first last : Nat) : Caches :=
  (c.wbpIn agent frame first last).foldl (fun c q => c.settle m agent q) c

/-- A sector accessed: the quire's accessed extent grows and its age returns to 0. -/
def Caches.touchAcc (agent frame : Nat) (c : Caches) (sec : Nat) : Caches :=
  c.put agent ((c.at_ agent).map fun q =>
    if q.frame == frame && decide (q.first ≤ sec) && decide (sec ≤ q.last) then
      { q with lowAcc := min q.lowAcc sec, highAcc := max q.highAcc sec, age := 0 } else q)

/-! ### Grants (R221, R222, R224) -/

/-- Untracked copies of a range leave an agent (R226, R235); a quire that they are part of splits as any other does (R223). -/
def Caches.dropFwd (c : Caches) (m : Memory) (agent frame first last : Nat) : Caches :=
  c.recutBy m (Caches.writeBack m agent) agent frame first last (fun q => !q.tracked) fun _ => none

/-- Take every tracked copy of a range away from every agent but one: the state, and the sectors some of them held dirty, whose data the snoops supply (R222).
Data that another die supplies passes through the requester's home slice, which holds it (log 75). -/
def Caches.snoopAway (c : Caches) (m : Memory) (agent frame first last : Nat) : Caches × List Nat :=
  let others := c.agents.filter (· != agent)
  let dirtyAt (as : List Nat) : List Nat := (secsOf first last).filter fun x => as.any fun a => c.sectorDirty a frame x
  let dirty := dirtyAt others
  let far := dirtyAt (others.filter fun a => agentDie a != agentDie agent)
  let c := others.foldl (fun c a => c.recut m a frame first last fun _ => none) c
  (far.foldl (fun c x => c.toL2 m (agentDie agent) (frame * 64 + x)) c, dirty)

/-- Grant a range to an agent in M: copies elsewhere go, their dirty sectors move with the grant (GetM, Upg of R222, R224). -/
def Caches.grantM (c : Caches) (m : Memory) (agent frame first last pred : Nat) : Caches :=
  let c := c.settleOwn m agent frame first last
  let (c, moved) := (c.dropFwd m agent frame first last).snoopAway m agent frame first last
  let c := c.recut m agent frame first last fun _ => some (.m, true)
  (c.place m agent frame first last .m pred none).soil agent frame moved

/-- Grant a read copy: E if no other copy exists, else S, and the holder's M or E becomes O or S (GetS, SnpShare of R222). -/
def Caches.grantS (c : Caches) (m : Memory) (agent frame first last pred : Nat) : Caches :=
  let c := c.settleOwn m agent frame first last
  let others := c.agents.filter (· != agent)
  let shared := others.any fun a => (c.at_ a).any fun q => q.tracked && q.overlaps frame first last
  let c := others.foldl (fun c a => c.recut m a frame first last fun q =>
    match q.st with
    | .m => some (.o, true)
    | .e => some (.s, true)
    | x => some (x, true)) c
  c.place m agent frame first last (if shared then .s else .e) pred none

/-! ### Directories (R221) -/

/-- The places at which the extents of quires of a frame begin or have ended. -/
def cutsOf (frame : Nat) (qs : List Quire) : List Nat := sortBy (fun a b => decide (a < b)) ((qs.filter fun q => q.frame == frame).flatMap fun q => [q.first, q.last + 1]).eraseDups

/-- What the home slice of a die records for a frame: for each range of sectors the die's L1s hold, the cores, the owner and its state. -/
def Caches.homeOf (c : Caches) (die frame : Nat) : List DirEntry :=
  let l1s := c.agents.filter fun a => isL1 a && agentDie a == die
  let tracked (a : Nat) : List Quire := (c.at_ a).filter Quire.tracked
  let cuts := cutsOf frame (l1s.flatMap tracked)
  (cuts.zip (cuts.drop 1)).filterMap fun r =>
    let st (a : Nat) : QState := match holding (tracked a) frame r.1 with
      | some q => q.st
      | none => .i
    let cores := l1s.filter fun a => st a != .i
    let owner := cores.find? fun a => st a != .s
    if cores.isEmpty then none else some ⟨frame, r.1, r.2 - 1, cores, owner, (owner.map st).getD .s⟩

/-- What the spine records for a frame: the dies that hold it, the owner die, and the sectors the owner die holds in M or O (log 76). -/
def Caches.spineOf (c : Caches) (frame : Nat) : List SpineEntry :=
  let holders := c.agents.filter fun a => a != hostAgent && (c.at_ a).any fun q => q.tracked && q.frame == frame
  let owned (a : Nat) : List Nat := ((c.at_ a).filter fun q => q.tracked && q.frame == frame && (q.st == .m || q.st == .o)).flatMap fun q => secsOf q.first q.last
  let owner := (holders.find? fun a => !(owned a).isEmpty).map agentDie
  let mask := (holders.filter fun a => some (agentDie a) == owner).flatMap owned
  if holders.isEmpty then []
  else [⟨frame, holders.foldl (fun v a => v ||| (1#24 <<< agentDie a)) 0, owner, mask.foldl (fun v x => v ||| (1#64 <<< x)) 0⟩]

/-- The directories follow the caches for a frame: an entry that changed becomes the most recently used. -/
def Caches.record (c : Caches) (frame : Nat) : Caches :=
  let dies := ((c.homeDirs.map Prod.fst) ++ (c.agents.filter isL1).map agentDie).eraseDups
  let c' := dies.foldl (fun (x : Caches) d =>
    let old := SMap.get [] x.homeDirs d
    let new := x.homeOf d frame
    if (old.filter fun e => e.frame == frame) == new then x
    else { x with homeDirs := SMap.put x.homeDirs d ((old.filter fun e => e.frame != frame) ++ new) }) c
  let sp := c'.spineOf frame
  if (c'.spineDir.filter fun e => e.frame == frame) == sp then c'
  else { c' with spineDir := (c'.spineDir.filter fun e => e.frame != frame) ++ sp }

/-- A home slice's directory with no free entry recalls the one least recently used: the copies it tracks leave the die's L1s, dirty sectors written back (R221). -/
def Caches.recallHome (m : Memory) (die slice : Nat) : Nat → Caches → Caches
  | 0, c => c
  | fuel + 1, c =>
    let es := (SMap.get [] c.homeDirs die).filter fun e => e.frame % 96 == slice
    match es with
    | [] => c
    | e :: _ =>
      if es.length ≤ c.homeCap then c
      else
        let c' := e.cores.foldl (fun c a =>
          let gone := ((c.at_ a).filter fun q => q.tracked && q.overlaps e.frame e.first e.last).flatMap fun q =>
            q.inside e.first e.last q.st (q.dirty.filter fun d => decide (e.first ≤ d) && decide (d ≤ e.last))
          gone.foldl (Caches.writeBack m a) (c.recut m a e.frame e.first e.last fun _ => none)) c
        Caches.recallHome m die slice fuel (c'.record e.frame)

/-- The spine's directory with no free entry recalls the one least recently used: every copy of the frame leaves, dirty sectors go home (R221). -/
def Caches.recallSpine (m : Memory) : Nat → Caches → Caches
  | 0, c => c
  | fuel + 1, c =>
    match c.spineDir with
    | [] => c
    | e :: _ =>
      if c.spineDir.length ≤ c.spineCap then c
      else
        let qs := c.agents.flatMap fun a => (c.at_ a).filter fun q => q.tracked && q.frame == e.frame
        let c' := c.agents.foldl (fun c a => c.put a ((c.at_ a).filter fun q => !(q.tracked && q.frame == e.frame))) (qs.foldl (Caches.l2Back m) c)
        Caches.recallSpine m fuel (c'.record e.frame)

/-- The frames whose holders differ between two states of the caches. -/
def Caches.changed (c d : Caches) : List Nat :=
  let key (q : Quire) : Nat × Nat × Nat × QState := (q.frame, q.first, q.last, q.st)
  let diff (x y : Caches) : List Nat := x.agents.flatMap fun a =>
    let ks := ((y.at_ a).filter Quire.tracked).map key
    ((x.at_ a).filter fun q => q.tracked && !ks.contains (key q)).map (·.frame)
  (diff c d ++ diff d c).eraseDups

/-- The directories record what has changed from `old`. -/
def Caches.recordFrom (c old : Caches) : Caches := (old.changed c).foldl Caches.record c

/-- The directories after caches have changed from `old`: they record it, and recall what they have no room for (R221). -/
def Caches.follow (c old : Caches) (m : Memory) : Caches :=
  let fs := old.changed c
  let c := c.recordFrom old
  let d := c.homeDirs.foldl (fun c (e : Nat × List DirEntry) => (fs.map (· % 96)).eraseDups.foldl (fun c sl => Caches.recallHome m e.1 sl e.2.length c) c) c
  (Caches.recallSpine m fs.length d).recordFrom c

/-! ### Accesses -/

/-- Change the caches of the machine; the directories follow (R221). -/
def State.onCaches (s : State) (f : Memory → Caches → Caches) : State := { s with cache := (f s.mem s.cache).follow s.cache s.mem }

/-- The predictor index of an access (R213). -/
def predIdxOf (pc frame : Nat) : Nat := (fld pc 2 8) ^^^ (fld frame 0 8)

/-- The wanted extent of an access to sectors `secs` of a frame (R212): hinted blocks, or the predictor's extent joined in. -/
def Caches.wanted (c : Caches) (core frame pc hint : Nat) (secs : List Nat) : List Nat :=
  let base :=
    if hint = 0 then
      match SMap.find (SMap.get [] c.preds core) (predIdxOf pc frame) with
      | some (lo, hi) => (List.range 64).filter fun x => decide (lo ≤ x) && decide (x ≤ hi)
      | none => []
    else
      let n := 2 ^ (hint - 1)
      (List.range 64).filter fun x => secs.any fun y => y / n == x / n
  (List.range 64).filter fun x => base.contains x || secs.contains x

/-- The sectors (frame × 64 + sector) that accesses (address, bytes) touch. -/
def sectorsOf (accs : List (Nat × Nat)) : List Nat :=
  ((accs.filter fun a => a.2 != 0).flatMap fun a => (List.range ((a.1 + a.2 - 1) / 32 + 1 - a.1 / 32)).map (a.1 / 32 + ·)).eraseDups

/-- What one instruction's accesses do in each frame they touch: `f` takes the frame and its sectors. -/
def Caches.byFrame (f : Caches → Nat → List Nat → Caches) (c : Caches) (accs : List (Nat × Nat)) : Caches :=
  let secs := sectorsOf accs
  (secs.map (· / 64)).eraseDups.foldl (fun c fr => f c fr ((secs.filter fun x => x / 64 == fr).map (· % 64))) c

/-- Ask for the fill runs of a wanted extent, one request each (R212, R222); `probe` says that a peer cluster is asked first (R226), `acc` are the sectors that the access wants (R213).
A sector that the agent has already asked for is not asked for again (log 86). -/
def Caches.ask (c : Caches) (agent frame pred : Nat) (probe : Bool) (want acc : List Nat) : Caches :=
  let asked (x : Nat) : Bool := c.coh.any fun r => r.agent == agent && r.meets frame x x
  let runs := runsOf (want.filter fun x => (holding (c.at_ agent) frame x).isNone && !asked x)
  let reqs : List CohReq := runs.map fun r =>
    { agent := agent, frame := frame, first := r.1, last := r.2, own := false, upg := false, granted := false, pred := pred, probe := probe, supplied := [], acc := [] }
  { c with coh := (c.coh ++ reqs).map fun r =>
      if r.agent == agent && r.frame == frame then { r with acc := r.acc ++ acc.filter fun x => r.meets frame x x && !r.acc.contains x } else r }

/-- A load's effect (R212, R215): the sectors present are served, the fill runs of the wanted extent are asked for. -/
def Caches.read (c : Caches) (m : Memory) (core pc hint : Nat) (probe : Nat → Bool) (accs : List (Nat × Nat)) : Caches :=
  c.byFrame (fun c frame secs =>
    let c := secs.foldl (fun c x => c.settleOwn m core frame x x) c
    let c := secs.foldl (Caches.touchAcc core frame) c
    if secs.all fun x => (holding (c.at_ core) frame x).isSome then c
    else c.ask core frame (predIdxOf pc frame) (probe frame) (c.wanted core frame pc hint secs) secs) accs

/-- A store's effect (R212, R217, R224): its sectors are in M first, with the rest of a wanted extent that was missed, and are dirty after it; E turns to M without a request. -/
def Caches.write (c : Caches) (m : Memory) (core pc hint : Nat) (accs : List (Nat × Nat)) : Caches :=
  c.byFrame (fun c frame secs =>
    let own (c : Caches) (x : Nat) : Bool := c.sectorSt core frame x == .m || c.sectorSt core frame x == .e
    let asked := if secs.all (own c) then [] else (c.wanted core frame pc hint secs).filter fun x => !own c x
    let c := (runsOf asked).foldl (fun c r => c.grantM m core frame r.1 r.2 (predIdxOf pc frame)) c
    let c := secs.foldl (fun c x => if c.sectorSt core frame x == .e then c.recut m core frame x x fun _ => some (.m, true) else c) c
    secs.foldl (Caches.touchAcc core frame) (c.soil core frame secs)) accs

/-- An atomic's effect (R228): its sectors are owned by the home slice of the issuing die, which is where it performs; `m` is memory after it. -/
def Caches.atHome (c : Caches) (m : Memory) (die : Nat) (accs : List (Nat × Nat)) : Caches :=
  let a := l2Agent die
  c.byFrame (fun c frame secs => secs.foldl (fun c x =>
    let c := if c.sectorSt a frame x == .m then c else c.grantM m a frame x x 0
    (c.soil a frame [x]).toL2 m die (frame * 64 + x)) c) accs

/-- No tracked copy of some sectors stays in any cache: the dirty ones are written to home memory (R222, R227). A peer-forwarded copy stays: a write does not remove it (R226). -/
def Caches.expel (c : Caches) (m : Memory) (secs : List Nat) : Caches :=
  if c.quires.isEmpty && c.l2.isEmpty then c
  else secs.foldl (fun c x =>
    let (f, k) := (x / 64, x % 64)
    let c := if c.agents.any fun a => c.sectorDirty a f k then c.toHome m x else c.eraseL2 x
    c.agents.foldl (fun c a => c.recut m a f k k fun _ => none) c) c

/-- The pages given stand on the device's side: an access by the side without the bias flips a page (R204, R287). -/
def State.takeBias (s : State) (accs : List (Nat × Nat)) : State :=
  if s.bias.isEmpty then s else { s with bias := s.bias.filter fun p => !accs.any fun a => decide (p.1 < a.1 + a.2) && decide (a.1 < p.1 + p.2) }

/-- The translation by which a core has reached a physical address, with its context. -/
def State.leafHere (s : State) (core pa : Nat) : Option (Nat × Leaf) :=
  (s.coreAt core).tlb.find? fun e => decide (ptePfn e.2.pte * 4096 ≤ pa) && decide (pa < ptePfn e.2.pte * 4096 + e.2.size)

/-- The context through which a core has reached a frame of a read-only-global page (R204, R226). -/
def State.readOnlyGlobal (s : State) (core frame : Nat) : Option Nat :=
  ((s.leafHere core (frame * 2048)).filter fun e => pteCc e.2.pte == 3).map Prod.fst

/-- Loads of one instruction. -/
def State.touchRead (s : State) (core pc hint : Nat) (accs : List (Nat × Nat)) : State :=
  (s.takeBias accs).onCaches fun m c => c.read m core pc hint (fun f => (s.readOnlyGlobal core f).isSome) accs

/-- Stores of one instruction, before their bytes. -/
def State.touchWrite (s : State) (core pc hint : Nat) (accs : List (Nat × Nat)) : State :=
  (s.takeBias accs).onCaches fun m c => c.write m core pc hint accs

/-- An atomic or reduction at the home slice of a die, after its bytes (R228). -/
def State.touchHome (s : State) (die : Nat) (accs : List (Nat × Nat)) : State :=
  (s.takeBias accs).onCaches fun m c => c.atHome m die accs

/-- A pref's effect (R218): the fill runs of its extent are asked for, in the L1 or the home L2 slice. -/
def State.touchPref (s : State) (agent core pc hint : Nat) (accs : List (Nat × Nat)) : State :=
  (s.takeBias accs).onCaches fun _ c =>
    c.byFrame (fun c frame secs => c.ask agent frame (predIdxOf pc frame) (agent == core && (s.readOnlyGlobal core frame).isSome) (c.wanted core frame pc hint secs) []) accs

/-- A write by a unit of the device that does not cache (the control plane, the management plane, a peer's home): no copy stays behind it, and the bytes reach memory; a host-biased page flips first (R287). -/
def State.writeThrough (s : State) (pa : Nat) (bs : List Byte) : State :=
  let s := (s.takeBias [(pa, bs.length)]).onCaches fun m c => c.expel m (sectorsOf [(pa, bs.length)])
  { s with mem := s.mem.writeN pa bs, cache := { s.cache with home := s.cache.home.writeN pa bs } }

/-- A write of single bytes at memory, past every copy, which leaves no copy behind. -/
def State.pokeHome (s : State) (l : List (Nat × Byte)) : State :=
  let s := s.onCaches fun m c => c.expel m (sectorsOf (l.map fun e => (e.1, 1)))
  let put (m : Memory) : Memory := l.foldl (fun m e => m.write e.1 e.2) m
  { s with mem := put s.mem, cache := { s.cache with home := put s.cache.home } }

/-- Such a write by the device, which flips a host-biased page first (R287). -/
def State.pokePa (s : State) (l : List (Nat × Byte)) : State := (s.takeBias (l.map fun e => (e.1, 1))).pokeHome l

/-- The quires of an agent. -/
def State.quires (s : State) (agent : Nat) : List Quire := s.cache.at_ agent

/-- The agents that hold a quire. -/
def State.agents (s : State) : List Nat := s.cache.agents

/-- The state in which an agent holds a sector. -/
def State.sectorSt (s : State) (agent frame sec : Nat) : QState := s.cache.sectorSt agent frame sec

/-- Whether an agent holds a sector dirty. -/
def State.sectorDirty (s : State) (agent frame sec : Nat) : Bool := s.cache.sectorDirty agent frame sec

end Sys2Proof.Machine
end

