-- ==== Sys2Proof/Machine/Ops.lean ====
section
/-! DEFINITION. The operations every instruction shares: results, retiring, holding, error records, ending a grid, and taking a trap (R38 to R40, R60 to R62, R292, R379 to R388, R426). -/

namespace Sys2Proof.Machine

/-! ### Results (R60 to R62) -/

/-- Keep fixed-latency results in the order in which they become visible; equal counts stay in issue order. -/
def insertPend (p : PendWrite) : List PendWrite → List PendWrite
  | [] => [p]
  | q :: t => if p.vis < q.vis then p :: q :: t else q :: insertPend p t

/-- A result without the lanes that `f` picks. -/
def RegWrite.without (r : RegWrite) (f : Nat → Bool) : RegWrite := { r with vals := r.vals.filter fun e => !f e.1 }

/-- A result under way of the group being issued that would become visible no sooner than `vis` leaves the lanes of `r` to it (R38); in other lanes, and before, it is read as R60 says. -/
def PendWrite.yield (p : PendWrite) (sched vis : Nat) (r : RegWrite) : PendWrite :=
  if p.at_ = sched ∧ p.res.reg = r.reg ∧ vis ≤ p.vis then { p with res := p.res.without fun l => r.vals.any fun e => e.1 == l } else p

/-- The counted instructions of the group being issued leave a register and its lanes to the present word (R38). -/
def Warp.overrule (w : Warp) (r : RegId) (mask : Word) : Warp :=
  { w with inflight := w.inflight.map fun f => if f.at_ = w.sched then { f with ceded := f.ceded ++ [(r, mask)] } else f }

/-- A fixed-latency result of the group being issued. Of two words of one group that write a register, the register ends with the value of the higher position (R38, log 5). -/
def Warp.push (w : Warp) (lat : Nat) (r : RegWrite) : Warp :=
  let w := w.overrule r.reg (maskOf (r.vals.map Prod.fst))
  { w with pend := insertPend ⟨r, w.sched, w.sched + lat⟩ (w.pend.map fun p => p.yield w.sched (w.sched + lat) r) }

/-- Several fixed-latency results. -/
def Warp.pushAll (w : Warp) (lat : Nat) (rs : List RegWrite) : Warp := rs.foldl (fun w r => w.push lat r) w

/-- Make visible every result due at the present schedule count (R60). -/
def Warp.commit (w : Warp) : Warp :=
  let due := w.pend.filter fun p => decide (p.vis ≤ w.sched)
  { w.wrAll (due.map (·.res)) with pend := w.pend.filter fun p => decide (w.sched < p.vis) }

/-- Make every result visible (R65, R381). -/
def Warp.commitAll (w : Warp) : Warp := { w.wrAll (w.pend.map (·.res)) with pend := [] }

/-- The lanes of a register that a word writes: a k register has the one lane 0. -/
def laneMask (active : Word) : RegId → Word
  | .k _ => 1
  | _ => active

/-- A variable-latency instruction counts on counter `dc` and marks the registers it will write (R61, R62). -/
def Warp.count (w : Warp) (dc : Option Nat) (regs : List RegId) (done : Bool) (writes : List RegWrite) : Warp :=
  match dc with
  | none => { w with seqNo := w.seqNo + 1 }
  | some c =>
    let n := SMap.get 0 w.dcIssued c + 1
    let w := regs.foldl (fun w r => w.overrule r (laneMask w.active r)) w
    { w with
      seqNo := w.seqNo + 1
      dcIssued := SMap.put w.dcIssued c n
      inflight := w.inflight ++ [⟨w.seqNo, c, done, writes, w.sched, []⟩]
      marks := w.marks ++ regs.map fun r => ⟨r, c, n⟩ }

/-- The results that a counted instruction writes: not those of lanes that a later word of its group wrote (R38). -/
def Inflight.results (f : Inflight) : List RegWrite :=
  f.writes.map fun r => r.without fun l => f.ceded.any fun o => o.1 == r.reg && o.2.getLsbD l

/-- Write the results of a counted instruction: they replace what earlier words of its group have still under way for the same lanes (R38). -/
def Warp.deliver (w : Warp) (f : Inflight) : Warp :=
  let w := w.wrAll f.results
  { w with pend := w.pend.map fun p =>
      if p.at_ = f.at_ then { p with res := p.res.without fun l => f.results.any fun r => r.reg == p.res.reg && r.vals.any fun e => e.1 == l } else p }

/-- Complete the incomplete instruction `seq` with its results (R61). -/
def Warp.complete (w : Warp) (seq : Nat) (writes : List RegWrite) : Warp :=
  { w with inflight := w.inflight.map fun f => if f.seq == seq then { f with done := true, writes := f.writes ++ writes } else f }

/-- The incomplete instructions of a warp that set flags, the one numbered `seq` among them (R139). -/
def Warp.flagging (w : Warp) (seq : Nat) : Warp :=
  { w with flagSeqs := (w.flagSeqs.filter fun n => w.inflight.any fun f => f.seq == n) ++ [seq] }

/-- The instruction `seq`, the last that was counted, has stopped and must be issued again: its count is taken back. -/
def Warp.uncount (w : Warp) (seq : Nat) : Warp :=
  match w.inflight.find? fun f => f.seq == seq with
  | some f => { w with inflight := w.inflight.filter fun f => f.seq != seq, dcIssued := SMap.put w.dcIssued f.dc (SMap.get 0 w.dcIssued f.dc - 1) }
  | none => w

/-- Results of a part of the incomplete instruction `seq`. -/
def Warp.addResults (w : Warp) (seq : Nat) (writes : List RegWrite) : Warp :=
  { w with inflight := w.inflight.map fun f => if f.seq == seq then { f with writes := f.writes ++ writes } else f }

/-- The instruction that a mark names, while its counter still counts it: the incomplete ones of a counter stand in issue order. -/
def Warp.producer (w : Warp) (m : Mark) : Option Inflight :=
  let fs := w.inflight.filter fun f => f.dc == m.dc
  fs[m.idx + fs.length - SMap.get 0 w.dcIssued m.dc - 1]?

/-- Whether a mark's producer is still counted. -/
def Warp.counted (w : Warp) (m : Mark) : Bool :=
  decide (SMap.get 0 w.dcIssued m.dc < m.idx + (w.inflight.filter fun f => f.dc == m.dc).length)

/-- Write the results of the completed producers of these marks, and remove every mark of theirs (R429). -/
def Warp.redeem (w : Warp) (ms : List Mark) : Warp :=
  let seqs := (ms.filter w.counted).filterMap fun m => (w.producer m).map (·.seq)
  let w := (w.inflight.filter fun f => seqs.contains f.seq).foldl Warp.deliver w
  { w with
    inflight := w.inflight.map fun f => if seqs.contains f.seq then { f with writes := [] } else f
    marks := w.marks.filter fun m => !(ms.any fun x => x.dc == m.dc && x.idx == m.idx) }

/-- The marks whose producers have completed. -/
def Warp.settledMarks (w : Warp) : List Mark :=
  w.marks.filter fun m => !w.counted m || (match w.producer m with
    | some f => f.done
    | none => true)

/-- Apply the special-register writes that wait for the next group (R80, R103, R135, R152, R244, R393). -/
def Warp.applySpecial (w : Warp) : SpecialWrite → Warp
  | .fpc m v => { w with fpc := (w.fpc &&& ~~~m) ||| (v &&& m) }
  | .bx 1 v => { w with bx1 := v }
  | .bx 2 v => { w with bx2 := v }
  | .bx _ v => { w with bx3 := v }
  | .helper m => { w with helper := m }
  | .tmask en m hold => { w with tmaskEn := (w.tmaskEn &&& ~~~m) ||| (en &&& m), tmaskHold := hold.getD w.tmaskHold }
  | .bind m => { w with qbind := m }
  | .check m => { w with chk := m }

/-! ### Retiring (R38 to R40, R54, R292, R300) -/

/-- The run of the current strand ends; its threads stand where `tgt` says (R54). -/
def Warp.endRunAt (w : Warp) (tgt : Nat → DWord) : Warp :=
  { w with
    pcs := (lanesOf w.active).foldl (fun m l => SMap.put m l (tgt l)) w.pcs
    inRun := false, active := 0, todo := [], endRun := false }

/-- Whether the group's clock rise passes a boundary point (R300). -/
def Warp.crosses (w : Warp) (g : Nat) : Bool := decide (w.grpLclk / g < w.lclk / g)

/-- A collated warp whose clock passed a boundary point in this group owes its turn there, and its run ends with the group (R300). -/
def Warp.crossed (w : Warp) (coll : Bool) (g : Nat) : Warp :=
  if coll && w.crosses g then { w with owed := w.owed <|> some (w.lclk / g * g), endRun := true } else w

/-- A warp that parks within its group: what the group's clock has passed so far is owed, and the rest of the group counts from the clock with which the warp leaves (R300, R427). -/
def Warp.parkMid (w : Warp) (coll : Bool) (g : Nat) : Warp :=
  if w.park.isSome then { w.crossed coll g with grpLclk := w.lclk, grpW := 0 } else w

/-- Close the chain group: the schedule count and the earliest clk rise, waiting special writes apply (a block's pipe time stands in `earliest` until then, R82), and a collated warp that
crossed a boundary point owes its turn there and ends its run (R300), also where it has parked at the group's barrier; what the barrier's exit adds follows R427. A boundary jump takes the place of the group's weights (R428). -/
def Warp.closeGroup (w : Warp) (coll : Bool) (g clk : Nat) : Warp :=
  let w := if w.jump then { w with lclk := (w.grpLclk / g + 1) * g, jump := false } else w
  let w := (w.crossed coll g).deferred.foldl Warp.applySpecial (w.crossed coll g)
  { w with
    deferred := [], todo := [], sched := w.sched + 1 + w.grpS, earliest := max clk w.earliest + 1 + w.grpS, grpS := 0, grpW := 0 }

/-- A word retires: its weight counts (modulo 2^64, DESIGN CHOICE, log 87: R307 alone names a limit), the pc passes it, and at the group's end the group closes and the run may end.
`tgt` gives each thread's next address when the run ends. -/
def Warp.retireTo (w : Warp) (coll : Bool) (g clk : Nat) (h : Hdr) (words weight : Nat) (tgt : Nat → DWord) : Warp :=
  let w := { w with
    runPc := w.runPc + BitVec.ofNat 64 (4 * words)
    runWords := w.runWords + words
    lclk := (w.lclk + weight) % 2 ^ 64
    grpW := w.grpW + weight
    grpS := max w.grpS h.s.toNat
    todo := w.todo.drop 1 }
  if h.c then w.parkMid coll g
  else
    let w := w.closeGroup coll g clk
    if h.e || w.endRun then w.endRunAt tgt else w

/-- The weight an instruction adds to the current warp's clock; a handler's clock stays 0 (R292, R387). -/
def State.weightOf (s : State) (i : Instr) : Nat := if s.w.kind = .handler then 0 else i.weight

/-- Retire an instruction of the current warp; every thread that ends its run stands at the next word. -/
def State.retire (s : State) (i : Instr) : State :=
  s.modW fun w => w.retireTo s.collated s.g s.clk i.hdr i.words (s.weightOf i) fun _ => w.runPc + BitVec.ofNat 64 (4 * i.words)

/-- Retire a control transfer: each thread stands where `tgt` says (R69 to R73). -/
def State.retireTo (s : State) (i : Instr) (tgt : Nat → DWord) : State :=
  s.modW fun w => w.retireTo s.collated s.g s.clk i.hdr i.words (s.weightOf i) tgt

/-- The group waits: nothing of it takes effect in this clk. -/
def State.hold (s : State) : State := s.modW fun w => { w with waiting := true }

/-- The group waits without holding its issue slot (R310). -/
def State.holdFree (s : State) : State :=
  (s.modCore s.w.core fun c => { c with slots := c.slots.filter (· != s.cur) }).hold

/-- The group's attempt is withdrawn whole and its clock jumps to the next boundary, where the warp owes its turn and the group issues again (R428). -/
def State.jumpRetry (s : State) : State :=
  s.modW fun w =>
    let b := (w.grpLclk / s.g + 1) * s.g
    let w := { w with
      lclk := b, owed := some b, deferred := [], grpS := 0, grpW := 0, jump := false
      pend := w.pend.filter fun p => p.at_ != w.sched }
    w.endRunAt fun _ => w.grpPc

/-- The group completes with a boundary jump (R428): outside a domain it is an ordinary completion. -/
def State.jumpDone (s : State) : State := if s.collated then s.modW fun w => { w with jump := true } else s

/-! ### Where start-up stands (R420, R421) -/

/-- Host traffic beyond Table 22.1 and the logs: in recovery state it does not exist (R421). -/
def State.bar (s : State) (f : State) : State := if s.mgmt.boot = .recovery then s else f

/-- Whether start-up is over: every unit is released (R420, R421). -/
def State.up (s : State) : Bool := s.mgmt.boot == .done

/-! ### Error records (R426) -/

/-- The 64 bytes of an error record (Table 22.8). -/
def errBytes (r : ErrRec) (seq time : Nat) : List Byte :=
  toBytes 2 r.type ++ toBytes 1 r.plane ++ toBytes 1 r.ctx ++ toBytes 4 0 ++ toBytes 8 seq ++ toBytes 8 time ++ toBytes 8 r.launch ++
  toBytes 4 r.unit ++ toBytes 4 r.code ++ toBytes 8 r.addr ++ toBytes 16 r.data

/-- Write buffered error records to the ring in host memory while it is enabled and has room (R426). -/
def State.flushErrs (s : State) : Nat → State
  | 0 => s
  | fuel + 1 =>
    let m := s.mgmt
    match m.errBuf with
    | [] => s
    | (seq, time, r) :: rest =>
      if m.errEn && decide ((m.errHead + 2 ^ 32 - m.errAck) % 2 ^ 32 < 2 ^ m.errLogn) then
        let a := (m.errBase * 4096 + 64 * (m.errHead % 2 ^ m.errLogn)) % 2 ^ 64
        let s := { s with hostMem := s.hostMem.writeN a (errBytes r seq time) }
        (s.modMgmt fun m => { m with errBuf := rest, errHead := (m.errHead + 1) % 2 ^ 32 }).flushErrs fuel
      else s

/-- Raise an error record: it is numbered and buffered, or dropped and counted when the buffer of 256 is full (R426). -/
def State.raiseErr (s : State) (r : ErrRec) : State :=
  if 256 ≤ s.mgmt.errBuf.length then s.modMgmt fun m => { m with errLost := min (m.errLost + 1) 0xFFFFFFFF }
  else
    let t := s.masterTime spineDie
    let s := s.modMgmt fun m => { m with errBuf := m.errBuf ++ [(m.errSeq, t, r)], errSeq := m.errSeq + 1 }
    s.flushErrs (s.mgmt.errBuf.length)

/-! ### The tile directory (R325, R330, R334) -/

/-- Whether the head of a tile's recall queue asks for a recall that has not started (R330). -/
def TileEntry.asks (e : TileEntry) : Bool := !e.queue.isEmpty && e.running.isNone && e.surrendered.isNone && e.handing.isNone && e.delay.isNone

/-- Replace a tile's entry; a recall that it comes to ask for stands behind those that have arrived before it (R330). -/
def State.setTile (s : State) (t : Nat) (e : TileEntry) : State :=
  let last := (s.tiles.map fun x => x.2.due).foldl max 0
  { s with tiles := SMap.put s.tiles t { e with due := if !e.asks then 0 else if e.due = 0 then last + 1 else e.due } }

/-- Change a tile's entry, if it exists. -/
def State.modTile (s : State) (t : Nat) (f : TileEntry → TileEntry) : State :=
  match SMap.find s.tiles t with
  | some e => s.setTile t (f e)
  | none => s

/-- The accesses that warps of a group have issued and that wait: add-on-stores still to be applied (R174), what waits in recall queues (R329) but for copies and blocking locks,
and, with `dom`, the ordered requests at the slices of a domain (R298). -/
def State.issuedBy (s : State) (dom : Bool) (grp : Nat) : List (Nat × Nat) :=
  ((s.adds ++ (s.tiles.flatMap fun e => e.2.queue.filterMap fun q => match q with
    | .access r => some r
    | .claim _ => none) ++ (if dom then s.domains.flatMap fun e => e.2.reqs else [])).filter fun r => r.grp == grp && r.seq != noSeq).map fun r => (r.warp, r.seq)

/-- The channels on which copies of warps of a group are still to be delivered, with the pointer that ends those issued so far (R249, R334). -/
def State.copiesBy (s : State) (grp : Nat) : List (Nat × Bool × Nat × Nat) :=
  let mine (c : Chan) : Bool := c.copies.any fun x => (s.warpAt x.warp).grp == grp
  s.groups.flatMap fun g =>
    (g.2.chans.filter fun c => mine c.2).map (fun c => (g.1, false, c.1, c.2.ip)) ++ (g.2.chansF.filter fun c => mine c.2).map (fun c => (g.1, true, c.1, c.2.ip))

/-- Whether the head of a tile's recall queue comes from no collation domain. -/
def State.openHead (s : State) (e : TileEntry) : Bool :=
  match e.queue with
  | [] => false
  | .claim c :: _ => !(s.gridAt (s.groupAt c.grp).grid).ds.coll
  | .access _ :: _ => true

/-- A surrender of a tile begins, with its status and cause: it waits for what its holder has issued until now (R334).
DEDUCED (log 37): one that a claim of a domain or a trel asks for does not wait for ordered requests at their slices, of which those with lesser keys have performed (R340). -/
def State.surrender (s : State) (t : Nat) (x : Nat × Nat) : State :=
  s.modTile t fun e => { e with running := none, surrendered := some x, waitR := s.issuedBy (s.openHead e) e.hold.grp, waitC := s.copiesBy e.hold.grp }

/-! ### Killing a grid (R365, R369) -/

/-- The warps that belong to a grid, handler waves and surrender routines that serve it included. -/
def State.warpsOf (s : State) (grid : Nat) : List Nat := (s.warps.filter fun e => (s.groupAt e.2.grp).grid == grid).map Prod.fst

/-- Take a warp out of its core's slots and contexts, and forget it. -/
def State.dropWarp (s : State) (h : Nat) : State :=
  let c := (s.warpAt h).core
  let s := s.modCore c fun x => { x with
    slots := x.slots.filter (· != h)
    handler := if x.handler = some h then none else x.handler
    surrender := if x.surrender = some h then none else x.surrender
    matq := x.matq.filter fun m => m.warp != h
    preqs := x.preqs.filter fun q => q.warp != h }
  let keep (q : TileReq) : Bool := match q with
    | .claim c => c.warp != h
    | .access r => r.warp != h
  let s := { s with warps := SMap.erase s.warps h, adds := s.adds.filter fun a => a.warp != h }
  let freed := s.tiles.flatMap fun e => e.2.queue.filterMap fun q => match q with
    | .claim c => if c.warp = h then some (c.core, c.slot) else none
    | .access _ => none
  let s := freed.foldl (fun s f => s.modCore f.1 fun c => { c with tslots := SMap.erase c.tslots f.2 }) s
  s.tiles.foldl (fun s e =>
    if e.2.queue.all keep && e.2.running != some h then s
    else s.modTile e.1 fun e => { e with queue := e.queue.filter keep, running := if e.running = some h then none else e.running }) s

/-- The FLAGS byte of a record is written with LIVE = 0 (R411, R413); while its page is not resident it is asked for, and the write waits. -/
def State.unlive (s : State) (ctx idx : Nat) : State :=
  let va := (s.ctxAt ctx).trbase * 64 + 64 * idx + 26
  match s.walk ctx va with
  | .ok x =>
    if pteP x.pte then s.writeThrough (x.pa va) [s.mem.read (x.pa va) &&& 0xFD]
    else if s.pageLost x then s
    else ({ s with unlives := s.unlives.filter (· != (ctx, idx)) ++ [(ctx, idx)] }).requestPage ctx va
  | .error _ => s

/-- The LIVE bytes that waited for their pages are written where these are resident now (R413). -/
def State.flushUnlives (s : State) : State := s.unlives.foldl (fun s e => s.unlive e.1 e.2) { s with unlives := [] }

/-- Kill a grid with status 0x01: its warps stop and their state is discarded; its records stop being live; GRID_COMPLETE writes its status. -/
def State.killGrid (s : State) (grid code addr data : Nat) : State :=
  match SMap.find s.grids grid with
  | none => s
  | some g =>
    if g.killed then s
    else
      let hs := s.warpsOf grid
      let s := s.raiseErr ⟨0x0006, 1, g.ctx, g.launch, 0xFFFFFFFF, code, addr, data⟩
      let c := s.ctxAt g.ctx
      let s := (((c.live.filter fun r => hs.contains r.warp).map fun r => r.idx) ++ hs.flatMap fun h => (s.warpAt h).handEnd).foldl (fun s i => s.unlive g.ctx i) s
      let s := s.setCtx g.ctx { s.ctxAt g.ctx with live := c.live.filter fun r => !hs.contains r.warp }
      let s := hs.foldl State.dropWarp s
      let s := { s with dies := s.dies.map fun (e : Nat × Die) => (e.1, { e.2 with
        gathers := e.2.gathers.filter fun (t : Gather) => t.grid != grid, waves := e.2.waves.filter fun (t : Gather) => t.grid != grid }) }
      let s := { s with domains := s.domains.map fun (e : Nat × Domain) => (e.1, { e.2 with reqs := e.2.reqs.filter fun r => !hs.contains r.warp }) }
      s.setGrid grid { g with killed := true, st := .running, ranges := [] }

/-! ### Trap records (R383, R384) -/

/-- The origin tag of a thread with a cause (Table 19.3). -/
def State.tagOf (s : State) (h lane cause : Nat) : Nat :=
  let w := s.warpAt h
  let g := s.groupAt w.grp
  let x := s.gridAt g.grid
  let dom := if x.ds.coll then x.pk.domain else 0
  dom * 2 ^ 58 + x.serial * 2 ^ 42 + (g.gidx % 2 ^ 24) * 2 ^ 18 + (w.widx % 32) * 2 ^ 13 + lane * 2 ^ 8 + cause

/-- The 64 bytes of a trap record (Table 19.3). -/
def State.recordBytes (s : State) (h lane cause pc ea detail aux : Nat) (live : Bool) (mask axf seq : Nat) : List Byte :=
  let w := s.warpAt h
  let x := s.gridAt (s.groupAt w.grp).grid
  toBytes 8 (s.tagOf h lane cause) ++ toBytes 8 pc ++ toBytes 8 ea ++ toBytes 1 detail ++ toBytes 1 aux ++
  toBytes 1 ((if w.twin then 1 else 0) + (if live then 2 else 0)) ++ toBytes 1 0 ++ toBytes 4 mask ++ toBytes 4 axf ++
  toBytes 4 w.tmaskVal ++ toBytes 8 x.launch ++ toBytes 8 seq ++ toBytes 8 0

/-- What writing a trap record comes to (R384). -/
inductive RecOut where
  | written (s : State) (idx : Nat)
  | wait (s : State)
  | bad (addr : Nat)

/-- Write a record at index HEAD of the context's ring: a live slot or a non-resident page is waited for, any other condition of Table 8.3 is reported (R384). -/
def State.writeRecord (s : State) (ctx : Nat) (bytes : List Byte) : RecOut :=
  let c := s.ctxAt ctx
  let idx := c.trhead % 2 ^ c.trlogn
  let va := c.trbase * 64 + 64 * idx
  if c.live.any fun r => r.idx == idx then .wait s
  else if va / 2 ^ 57 ≠ 0 then .bad va
  else match s.walk ctx va with
    | .error _ => .bad va
    | .ok x =>
      if s.pageLost x then .bad va
      else if !pteP x.pte then .wait (s.requestPage ctx va)
      else if !pteW x.pte then .bad va
      else if s.homeFailed (x.pa va) then .bad va
      else .written (({ s with unlives := s.unlives.filter (· != (ctx, idx)) }.writeThrough (x.pa va) bytes).setCtx ctx { c with trhead := (c.trhead + 1) % 2 ^ 32 }) idx

/-! ### Taking a trap (R38, R188, R379, R380) -/

/-- Stop threads of a warp at the present word: they leave the strand with their resume points; if none is left, the run ends there. -/
def Warp.stopLanes (w : Warp) (coll : Bool) (g clk cause : Nat) (mask recMask : Word) (detail ea : Nat → Nat) (aux : Nat) (resume skip : DWord) : Warp :=
  let ls := lanesOf (mask &&& w.active)
  let stops := ls.map fun l =>
    { lane := l, cause := cause, detail := detail l, pc := w.runPc, resume := resume, skip := skip, ea := ea l, aux := aux,
      mask := recMask, axf := w.rdAxf l, dispatched := false, recIdx := 0, copy := none, seq := w.seqNo, note := none, late := none : Stop }
  let w := { w with
    stops := w.stops ++ stops
    pcs := ls.foldl (fun m l => SMap.put m l resume) w.pcs
    active := w.active &&& ~~~mask }
  if w.active = 0 then
    let w := if w.runPc = w.grpPc ∧ w.lclk = w.grpLclk then { w with deferred := [], grpS := 0, grpW := 0 } else w.closeGroup coll g clk
    { w with inRun := false, todo := [], endRun := false }
  else w

/-- A surrender routine ends with a surrender of `status` and `cause` (R331 to R333); SURRENDER_COMPLETE hands the tile over. -/
def State.endRoutine (s : State) (status cause : Nat) : State :=
  let w := s.w
  match SMap.find s.tiles w.tile with
  | none => s.dropWarp s.cur
  | some t =>
    let g := s.groupAt t.hold.grp
    let x := s.gridAt g.grid
    let s := if status = 3 then
        s.raiseErr ⟨0x0004, 1, x.ctx, x.launch, t.hold.core, cause, t.hold.base, g.gidx % 2 ^ 32 + x.serial * 2 ^ 32⟩
      else s
    (s.surrender w.tile (status, cause)).dropWarp s.cur

/-- The AXF of a thread when it stopped. -/
def Warp.axfStopped (w : Warp) (lane : Nat) : BitVec 6 :=
  match w.stops.find? fun t => t.lane == lane with
  | some t => t.axf
  | none => w.rdAxf lane

/-- Write the records of cause 0x0E of the lanes given (R388): the state, what kills the grid (its code, address and data), and whether all is done.
The fault waits while the next slot is live or its page is not resident; where a record cannot be written, the kill has code 7 (R384). -/
def State.faultRecords (s : State) (cause : Nat → Nat) (detail ea : Nat → Nat) : List Nat → Option Nat → State × (Nat × Nat × Nat) × Bool
  | [], first => (s, (3, 0, first.getD 0), true)
  | l :: ls, first =>
    match SMap.find s.w.origins l with
    | none => s.faultRecords cause detail ea ls first
    | some o =>
      let ctx := s.ctxNo
      let c := s.ctxAt ctx
      match s.writeRecord ctx (s.recordBytes o.warp o.lane 0x0E s.w.runPc.toNat (ea l) (detail l) (cause l) false (2 ^ o.lane)
          ((s.warpAt o.warp).axfStopped o.lane).toNat c.trhead) with
      | .written s' n => s'.faultRecords cause detail ea ls (first <|> some n)
      | .wait s' => (s', (0, 0, 0), false)
      | .bad va => (s, (7, va, c.trhead % 2 ^ c.trlogn), true)

/-- A handler wave's own trap (R388): a record of cause 0x0E for each lane stopped, then its grid is killed; its error record names the first of these records (log 28).
While the ring has no free slot or its page is absent, the faulting word waits (R384, log 14). -/
def State.handlerFault (s : State) (mask : Word) (cause : Nat → Nat) (detail ea : Nat → Nat) : State :=
  match s.faultRecords cause detail ea (lanesOf (mask &&& s.w.active)) none with
  | (t, (code, addr, data), true) => t.killGrid t.grp.grid code addr data
  | (t, _, false) => { s with resReqs := t.resReqs }.hold

/-- Take a trap: the threads of `mask` stop with a cause, and resume at `resume` or, skipped, at `skip` (Table 19.1).
A handler wave's trap is a handler fault, a surrender routine's a forced surrender (R331, R388). -/
def State.takeTrap (s : State) (cause : Nat) (mask recMask : Word) (detail ea : Nat → Nat) (aux : Nat) (resume skip : DWord) : State :=
  match s.w.kind with
  | .normal => s.modW fun w => w.stopLanes s.collated s.g s.clk cause mask recMask detail ea aux resume skip
  | .handler => s.handlerFault mask (fun _ => cause) detail ea
  | .surrender => s.endRoutine 3 3

/-- The word's weight counts before a trap that it takes itself stops every active lane (R381). -/
def State.weigh (s : State) (i : Instr) : State :=
  s.modW fun w => { w with lclk := (w.lclk + s.weightOf i) % 2 ^ 64, grpW := w.grpW + s.weightOf i, grpS := max w.grpS i.hdr.s.toNat }

/-- The address after the present instruction. -/
def State.nextPc (s : State) (i : Instr) : DWord := s.w.runPc + BitVec.ofNat 64 (4 * i.words)

/-- A trap that stops every active lane at the present word, which rft executes again (causes 0x01, 0x03, 0x05 to 0x09). -/
def State.trapAll (s : State) (i : Instr) (cause detail aux : Nat) : State :=
  s.takeTrap cause s.w.active s.w.active (fun _ => detail) (fun _ => 0) aux s.w.runPc (s.nextPc i)

/-- A trap the instruction itself asks for (brk, trap, tfence): its weight counts, lanes of `mask` stop and resume at the next word, the others pass and the run ends with the group (R79, R380, R381, R391, R408). -/
def State.trapSelf (s : State) (i : Instr) (cause : Nat) (mask : Word) (detail ea : Nat → Nat) : State :=
  let m := mask &&& s.w.active
  if m = 0 then s.retire i
  else if m = s.w.active then (s.weigh i).takeTrap cause m m detail ea 0 (s.nextPc i) (s.nextPc i)
  else
    let s' := s.takeTrap cause m m detail ea 0 (s.nextPc i) (s.nextPc i)
    if s'.w.active = 0 then s' else (s'.modW fun w => { w with endRun := true }).retire i

/-- An illegal-operand trap (cause 0x03). -/
def State.illegalOperand (s : State) (i : Instr) (detail : Nat) : State := s.trapAll i 0x03 detail 0

/-- A memory fault whose cause is uniform: the whole strand stops (R188). -/
def State.memFaultAll (s : State) (i : Instr) (detail ea aux : Nat) : State :=
  s.takeTrap 0x04 s.w.active s.w.active (fun _ => detail) (fun _ => ea) aux s.w.runPc (s.nextPc i)

/-- What a record says of the slice of a warp, at a faulted entry or, with none, at an empty queue (R245, R246). -/
def Warp.sliceNote (w : Warp) (e : Option QEntry) : SliceNote :=
  { st := w.slice.st, failPc := w.slice.failPc, failDetail := w.slice.failDetail, failFetch := w.slice.failFetch
    ldl := (e.map (·.pc)).getD 0, causes := (e.map (·.causes)).getD [] }

/-- Change the stops that follow the first `n`: those the present word has added. -/
def Warp.newStops (w : Warp) (n : Nat) (f : Stop → Stop) : Warp := { w with stops := w.stops.take n ++ (w.stops.drop n).map f }

/-- The threads that the present word stops, after the `n` that stood stopped before it, carry what their record says of the slice (R245, R246). -/
def State.noteSlice (s : State) (n : Nat) (x : SliceNote) : State := s.modW fun w => w.newStops n fun t => { t with note := some x }

/-- The memory fault of a copy channel of a group's side, met at a dwait or cpyw (R253): the whole strand stops, and its return tries that channel again. -/
def State.copyTrap (s : State) (i : Instr) (detail ea : Nat) (at_ : Nat × Bool × Nat) : State :=
  (s.memFaultAll i detail ea at_.2.2).modW fun w => w.newStops s.w.stops.length fun t => { t with copy := some at_ }

/-- A memory fault in the lanes of `mask` only; the others go on with the instruction (R188). -/
def State.memFault (s : State) (i : Instr) (mask : Word) (detail ea : Nat → Nat) : State :=
  if mask &&& s.w.active = 0 then s else s.takeTrap 0x04 mask (mask &&& s.w.active) detail ea 0 s.w.runPc (s.nextPc i)

/-! ### Returning from a trap (R392) -/

/-- Roll the slice back to the ldl that pushed an entry of its present run: it runs again from there, and does not perform again what it has performed since (R246). -/
def Slice.replay (x : Slice) (e : QEntry) : Slice :=
  if x.first ≤ e.ord then
    { x with
      st := .running, stopping := false, pc := e.pc, k := e.kfile, skip := x.effs - e.effs, loads := e.ord
      issued := x.issued.filter fun y => decide (y.ord < e.ord), failPc := 0, failDetail := 0, failFetch := 0 }
  else x

/-- The gathering a warp's slice entries are filled in (R261): that of its clock, the one that its owed turn ends, or, for a parked warp whose point is published, the one that begins there (R427). -/
def Warp.gathering (w : Warp) (g : Nat) : Nat :=
  match w.owed, w.park with
  | some p, _ => p / g - 1
  | none, some k => if k.published then k.clk / g + 1 else w.lclk / g
  | none, none => w.lclk / g

/-- Unpopped entries of a gathering before `now` are discarded, and the slice replays from the earliest of its run (R261). -/
def Warp.refill (w : Warp) (now : Nat) : Warp :=
  let old (e : QEntry) : Bool := decide (e.gather < now)
  let olds := ((w.queues.flatMap (·.2)) ++ w.slice.issued).filter fun e => old e && decide (w.slice.first ≤ e.ord)
  let first := olds.foldl (fun (b : Option QEntry) e => match b with
    | some x => if e.ord < x.ord then some e else b
    | none => some e) none
  let gone (e : QEntry) : Bool := old e || first.any fun x => decide (x.ord ≤ e.ord)
  let w := { w with queues := w.queues.map fun q => (q.1, q.2.filter fun e => !gone e), slice := { w.slice with issued := w.slice.issued.filter fun e => !gone e } }
  match first with
  | some e => { w with slice := w.slice.replay e }
  | none => w

/-- The slice replays from the faulted entry a pop met, of which a note names the ldl: it and every later entry of its queue are discarded (R246). -/
def Warp.replayFrom (w : Warp) (q : Nat) (note : Option SliceNote) : Warp :=
  let keep (e : QEntry) : Bool := e.causes.isEmpty || note.any fun n => n.ldl != e.pc
  let es := SMap.get [] w.queues q
  match es.find? fun e => !keep e with
  | none => w
  | some e => { w with queues := SMap.put w.queues q (es.takeWhile keep), slice := w.slice.replay e }

/-- When a warp's last thread has exited: the clock goes to the next boundary point and the warp owes its turn there, after the turn a crossing may still owe (R300). -/
def Warp.lastExit (w : Warp) (coll : Bool) (g : Nat) : Warp :=
  if w.exited = 0xFFFFFFFF ∧ coll ∧ !w.leaving then
    let b := (w.lclk / g + 1) * g
    { w with lclk := b, owed := w.owed <|> some b, leaving := true }
  else w

/-- Dispose of a stopped thread as rft with a mode does (R392); its marks are removed and its results are visible (R62, R65). -/
def Warp.dispose (w : Warp) (lane : Nat) (mode : RftMode) : Warp :=
  match w.stops.find? fun t => t.lane == lane with
  | none => w
  | some t =>
    let w := { w with stops := w.stops.filter (fun x => x.lane != lane), marks := [] }
    let w := w.commitAll
    let w := if t.cause = 0x04 ∧ bitAt t.aux 7 then w.replayFrom (fld t.aux 4 3) t.note else w
    match mode with
    | .resume => { w with pcs := SMap.put w.pcs lane t.resume }
    | .skip => { w with pcs := SMap.put w.pcs lane t.skip }
    | _ => { w with exited := w.exited ||| (1#32 <<< lane) }

end Sys2Proof.Machine
end

