-- ==== Sys2Proof/Machine/Operands.lean ====
section
/-! DEFINITION. Operand forms: queue windows (R244 to R246), block extents (R81, R82), the lane-wise instruction over them, and effective addresses (R185). -/

namespace Sys2Proof.Machine

/-! ### Queue windows -/

/-- Why a pop cannot be served: its queue is empty, or its entry carries the faulted mark. -/
inductive PopStop where
  | empty
  | faulted (q : Nat) (e : QEntry)

/-- The lane values of v source registers in reading order, each read of a bound window popping the next entry of its queue (R244).
`cur` counts the entries each queue has given so far. -/
def Warp.readRegs (w : Warp) : List Nat → SMap Nat → Except PopStop (List (Nat → Word) × SMap Nat)
  | [], cur => .ok ([], cur)
  | r :: rs, cur =>
    if w.isWindow r then
      let q := r - 56
      let n := SMap.get 0 cur q
      match (SMap.get [] w.queues q)[n]? with
      | none => .error .empty
      | some e =>
        if !e.causes.isEmpty then .error (.faulted q e)
        else match w.readRegs rs (SMap.put cur q (n + 1)) with
          | .error x => .error x
          | .ok (fs, cur') => .ok ((fun l => e.vals.getD l 0) :: fs, cur')
    else match w.readRegs rs cur with
      | .error x => .error x
      | .ok (fs, cur') => .ok ((fun l => w.rdV r l) :: fs, cur')

/-- Free the entries a completed step popped (R245). -/
def Warp.freePops (w : Warp) (cur : SMap Nat) : Warp :=
  { w with queues := cur.foldl (fun qs e => SMap.put qs e.1 ((SMap.get [] qs e.1).drop e.2)) w.queues }

/-- The faulted entry at which a held slice stands, the last of its queue, with that queue (R245). -/
def Warp.heldEntry (w : Warp) : Option (Nat × QEntry) :=
  w.queues.findSome? fun p => (p.2.getLast?.filter fun e => !e.causes.isEmpty && e.pc == w.slice.pc).map fun e => (p.1, e)

/-- The memory fault of a popped faulted entry at chunk `t` of a step: the whole strand stops, and the record carries the entry's lanes, its queue and its ldl (R169, R246). -/
def State.popFault (s : State) (i : Instr) (t q : Nat) (e : QEntry) : State :=
  let m := maskOf (e.causes.map (·.1))
  let low := e.causes.foldl (fun d c => min d c.2.1) 255
  let at_ (l : Nat) := e.causes.find? fun c => c.1 == l
  (s.takeTrap 0x04 s.w.active m (fun l => ((at_ l).map (·.2.1)).getD low) (fun l => ((at_ l).map (·.2.2)).getD 0) (128 + 16 * q + t) s.w.runPc (s.nextPc i)).noteSlice
    s.w.stops.length (s.w.sliceNote (some e))

/-- What a pop that cannot be served does at chunk `t` of a step (R169, R245, R246). -/
def State.popStop (s : State) (i : Instr) (t : Nat) : PopStop → State
  | .faulted q e => s.popFault i t q e
  | .empty =>
    match s.w.slice.st with
    | .running => s.hold
    | .held => match s.w.heldEntry with
      | some (q, e) => s.popFault i t q e
      | none => s.hold
    | _ => (s.illegalOperand i 0x09).noteSlice s.w.stops.length (s.w.sliceNote none)

/-- Read v source registers and go on with their lane values; a pop that cannot be served stops or holds the step (R245). -/
def State.withSrcs (s : State) (i : Instr) (regs : List Nat) (k : List (Nat → Word) → State → State) : State :=
  match s.w.readRegs regs [] with
  | .error x => s.popStop i 0 x
  | .ok (fs, cur) => k fs (if cur.isEmpty then s else s.modW fun w => w.freePops cur)

/-! ### Blocks -/

/-- The registers of a block, row by row (R81). -/
def blockRegs (rc : Nat × Nat) (o : Nat) : List Nat :=
  (List.range rc.1).flatMap fun i => (List.range rc.2).map fun j => o + 8 * i + j

/-- Whether a block from register `o` stays in the register plane (R81). -/
def blockOk (rc : Nat × Nat) (o : Nat) : Bool := decide (o / 8 + rc.1 ≤ 8) && decide (o % 8 + rc.2 ≤ 8)

/-- The lane-wise instruction over blocks (R81): `f` maps the source elements of one lane, in field order, to the destination element.
The check of R81 stops it with detail 0x01, a destination in a bound window with detail 0x05 (R244). -/
def State.lanewise (s : State) (i : Instr) (lat : Nat) (x : Bx) (d : Vr) (srcs : List Vr) (f : List Word → Word) : State :=
  let rc := s.w.extent x
  let n := rc.1 * rc.2
  if !(blockOk rc d.toNat && srcs.all fun r => blockOk rc r.toNat) then s.illegalOperand i 0x01
  else if (blockRegs rc d.toNat).any s.w.isWindow then s.illegalOperand i 0x05
  else s.withSrcs i (srcs.flatMap fun r => blockRegs rc r.toNat) fun vals s =>
    let res := (List.range n).map fun e =>
      RegWrite.ofV ((blockRegs rc d.toNat).getD e 0) s.w.active fun l =>
        f ((List.range srcs.length).map fun j => vals.getD (j * n + e) (fun _ => 0) l)
    (s.modW fun w => w.pushAll lat res).retire i

/-- A lane-wise instruction with no block extent whose result may depend on the lane and on every lane's sources. -/
def State.crosslane (s : State) (i : Instr) (lat : Nat) (d : Vr) (srcs : List Vr) (f : List (Nat → Word) → Nat → Word) : State :=
  if s.w.isWindow d.toNat then s.illegalOperand i 0x05
  else s.withSrcs i (srcs.map (·.toNat)) fun vals s =>
    (s.modW fun w => w.push lat (RegWrite.ofV d.toNat w.active (f vals))).retire i

/-- A uniform instruction: one k result for the strand (R96). -/
def State.uniform (s : State) (i : Instr) (lat : Nat) (kd : Kr) (x : DWord) : State :=
  (s.modW fun w => w.push lat (RegWrite.ofK kd.toNat x)).retire i

/-- A predicate result in every active lane (R101). -/
def State.predicate (s : State) (i : Instr) (lat : Nat) (p : Pr) (f : Nat → Bool) : State :=
  (s.modW fun w => w.push lat (RegWrite.ofP p.toNat w.active f)).retire i

/-! ### Addresses (R185) -/

/-- The scale of an offset in bytes (Table 8.2). -/
def scaleTimes (sc : Scale) (sz : Nat) : Nat :=
  match sc with
  | .sz => sz
  | .x1 => 1
  | .x2 => 2
  | .x4 => 4
  | .x8 => 8
  | .x16 => 16
  | .x0 => 0

/-- An effective address: base plus scaled natural offset plus signed displacement, modulo 2^64 (R185). -/
def effAddr (base : DWord) (off : Word) (scale : Nat) (disp : Int) : Nat :=
  truncInt ((base.toNat : Int) + off.toNat * scale + disp) 64

/-- The address of an access without an offset register (R192, R233). -/
def uniAddr (base : DWord) (imm : BitVec 16) : Nat := truncInt ((base.toNat : Int) + imm.toInt) 64

end Sys2Proof.Machine
end

