-- ==== Sys2Proof/Machine/Integer.lean ====
section
/-! DEFINITION. Vector integer instructions (R85 to R95): per-lane functions, and one meaning each over the shared lane-wise operation. -/

namespace Sys2Proof.Machine

/-! ### Per-lane functions -/

/-- Sign extension of a short immediate to a lane word. -/
def immW {n : Nat} (x : BitVec n) : Word := x.signExtend 32

/-- shl (Table 4.3). -/
def aluShl (a b : Word) : Word := if b.toNat < 32 then a <<< b.toNat else 0
/-- shr (Table 4.3). -/
def aluShr (a b : Word) : Word := if b.toNat < 32 then a >>> b.toNat else 0
/-- sar (Table 4.3): floor of the signed value divided by 2^b. -/
def aluSar (a b : Word) : Word := if b.toNat < 32 then a.sshiftRight b.toNat else if a.getLsbD 31 then 0xFFFFFFFF else 0
/-- imulh.s: the high half of the signed product. -/
def aluMulhS (a b : Word) : Word := ((a.signExtend 64 * b.signExtend 64) >>> 32).truncate 32
/-- imulh.n: the high half of the natural product. -/
def aluMulhN (a b : Word) : Word := ((a.zeroExtend 64 * b.zeroExtend 64) >>> 32).truncate 32
/-- The smaller, signed. -/
def aluMinS (a b : Word) : Word := if a.toInt ≤ b.toInt then a else b
/-- The larger, signed. -/
def aluMaxS (a b : Word) : Word := if a.toInt ≤ b.toInt then b else a
/-- The smaller, natural. -/
def aluMinN (a b : Word) : Word := if a.toNat ≤ b.toNat then a else b
/-- The larger, natural. -/
def aluMaxN (a b : Word) : Word := if a.toNat ≤ b.toNat then b else a
/-- roti (Table 4.4): rotation to the left. -/
def aluRot (a : Word) (n : Nat) : Word := a.rotateLeft n
/-- popc (Table 4.5). -/
def aluPopc (a : Word) : Word := BitVec.ofNat 32 (popCount 32 a.toNat)
/-- clz (Table 4.5). -/
def aluClz (a : Word) : Word := BitVec.ofNat 32 (leadZeros 32 a.toNat)
/-- brev (Table 4.5). -/
def aluBrev (a : Word) : Word := BitVec.ofNat 32 (bitRev 32 a.toNat)
/-- iabs (Table 4.5): 0x8000_0000 gives itself. -/
def aluAbs (a : Word) : Word := if a.toInt < 0 then 0 - a else a
/-- bfx (R91). -/
def aluBfx (a : Word) (pos len : Nat) (sx : Bool) : Word :=
  let f := fld a.toNat pos len
  if sx then BitVec.ofInt 32 (sextInt f len) else BitVec.ofNat 32 f
/-- bfi (R91): the low bits of `a` replace the field of `d`. -/
def aluBfi (d a : Word) (pos len : Nat) : Word :=
  let m := BitVec.ofNat 32 ((2 ^ len - 1) * 2 ^ pos)
  (d &&& ~~~m) ||| BitVec.ofNat 32 (a.toNat % 2 ^ len * 2 ^ pos)
/-- lea (R92). -/
def aluLea (a b : Word) (sh : Nat) (disp : BitVec 16) : Word := a + b <<< sh + immW disp
/-- One byte of a word, read signed or natural. -/
def byteInt (x : Word) (i : Nat) (signed : Bool) : Int :=
  let b := fld x.toNat (8 * i) 8
  if signed then sextInt b 8 else b
/-- idot4 (R90). -/
def aluDot4 (d a b : Word) (mode : DotMode) : Word :=
  let sa := mode != .nn
  let sb := mode == .ss
  BitVec.ofInt 32 ((d.toNat : Int) + ((List.range 4).map fun i => byteInt a i sa * byteInt b i sb).sum)
/-- A compare condition (Table 4.7). -/
def icmpHolds (c : ICond) (a b : Word) : Bool :=
  match c with
  | .eq => a == b
  | .ne => a != b
  | .ltS => decide (a.toInt < b.toInt)
  | .leS => decide (a.toInt ≤ b.toInt)
  | .gtS => decide (b.toInt < a.toInt)
  | .geS => decide (b.toInt ≤ a.toInt)
  | .ltN => decide (a.toNat < b.toNat)
  | .leN => decide (a.toNat ≤ b.toNat)
  | .gtN => decide (b.toNat < a.toNat)
  | .geN => decide (b.toNat ≤ a.toNat)
/-- Combining a comparison with a predicate (R93). -/
def combine (c : Comb) (x q : Bool) : Bool :=
  match c with
  | .only => x
  | .and => x && q
  | .or => x || q
  | .xor => x ^^ q

/-! ### The lane-wise forms -/

/-- A function of two sources, lifted to source lists. -/
def op2 (f : Word → Word → Word) (l : List Word) : Word := f (l.getD 0 0) (l.getD 1 0)
/-- A function of one source, lifted to source lists. -/
def op1 (f : Word → Word) (l : List Word) : Word := f (l.getD 0 0)
/-- A function of three sources, lifted to source lists. -/
def op3 (f : Word → Word → Word → Word) (l : List Word) : Word := f (l.getD 0 0) (l.getD 1 0) (l.getD 2 0)

/-- sel over a block (R81, R94). -/
def State.selectBlock (s : State) (i : Instr) (x : Bx) (d a b : Vr) (p : Pr) : State :=
  let rc := s.w.extent x
  let n := rc.1 * rc.2
  if !(blockOk rc d.toNat && blockOk rc a.toNat && blockOk rc b.toNat) then s.illegalOperand i 0x01
  else if (blockRegs rc d.toNat).any s.w.isWindow then s.illegalOperand i 0x05
  else s.withSrcs i (blockRegs rc a.toNat ++ blockRegs rc b.toNat) fun vals s =>
    let res := (List.range n).map fun e =>
      RegWrite.ofV ((blockRegs rc d.toNat).getD e 0) s.w.active fun l =>
        if s.w.rdP p.toNat l then vals.getD e (fun _ => 0) l else vals.getD (n + e) (fun _ => 0) l
    (s.modW fun w => w.pushAll 2 res).retire i

/-- iadd (R86): trunc32(a + b). -/
def execIadd (h : Hdr) (d a b : Vr) (x : Bx) (s : State) : Out :=
  .next (s.lanewise (.iadd h d a b x) 2 x d [a, b] (op2 fun a b => a + b))

/-- isub (R86): trunc32(a − b). -/
def execIsub (h : Hdr) (d a b : Vr) (x : Bx) (s : State) : Out :=
  .next (s.lanewise (.isub h d a b x) 2 x d [a, b] (op2 fun a b => a - b))

/-- imul (R86): trunc32(a × b). -/
def execImul (h : Hdr) (d a b : Vr) (x : Bx) (s : State) : Out :=
  .next (s.lanewise (.imul h d a b x) 2 x d [a, b] (op2 fun a b => a * b))

/-- imulh.s (R86). -/
def execImulhS (h : Hdr) (d a b : Vr) (x : Bx) (s : State) : Out :=
  .next (s.lanewise (.imulhS h d a b x) 2 x d [a, b] (op2 aluMulhS))

/-- imulh.n (R86). -/
def execImulhN (h : Hdr) (d a b : Vr) (x : Bx) (s : State) : Out :=
  .next (s.lanewise (.imulhN h d a b x) 2 x d [a, b] (op2 aluMulhN))

/-- imad (R86): trunc32(a × b + d); d is a source too. -/
def execImad (h : Hdr) (d a b : Vr) (x : Bx) (s : State) : Out :=
  .next (s.lanewise (.imad h d a b x) 2 x d [a, b, d] (op3 fun a b d => a * b + d))

/-- iaddi (R87). -/
def execIaddi (h : Hdr) (d a : Vr) (imm : BitVec 8) (s : State) : Out :=
  .next (s.lanewise (.iaddi h d a imm) 2 0 d [a] (op1 fun a => a + immW imm))

/-- iminS (R86, Table 4.3). -/
def execIminS (h : Hdr) (d a b : Vr) (x : Bx) (s : State) : Out :=
  .next (s.lanewise (.iminS h d a b x) 2 x d [a, b] (op2 aluMinS))

/-- iminN (R86, Table 4.3). -/
def execIminN (h : Hdr) (d a b : Vr) (x : Bx) (s : State) : Out :=
  .next (s.lanewise (.iminN h d a b x) 2 x d [a, b] (op2 aluMinN))

/-- imaxS (R86, Table 4.3). -/
def execImaxS (h : Hdr) (d a b : Vr) (x : Bx) (s : State) : Out :=
  .next (s.lanewise (.imaxS h d a b x) 2 x d [a, b] (op2 aluMaxS))

/-- imaxN (R86, Table 4.3). -/
def execImaxN (h : Hdr) (d a b : Vr) (x : Bx) (s : State) : Out :=
  .next (s.lanewise (.imaxN h d a b x) 2 x d [a, b] (op2 aluMaxN))

/-- shl (R86, Table 4.3). -/
def execShl (h : Hdr) (d a b : Vr) (x : Bx) (s : State) : Out :=
  .next (s.lanewise (.shl h d a b x) 2 x d [a, b] (op2 aluShl))

/-- shr (R86, Table 4.3). -/
def execShr (h : Hdr) (d a b : Vr) (x : Bx) (s : State) : Out :=
  .next (s.lanewise (.shr h d a b x) 2 x d [a, b] (op2 aluShr))

/-- sar (R86, Table 4.3). -/
def execSar (h : Hdr) (d a b : Vr) (x : Bx) (s : State) : Out :=
  .next (s.lanewise (.sar h d a b x) 2 x d [a, b] (op2 aluSar))

/-- shli (R87, Table 4.4). -/
def execShli (h : Hdr) (d a : Vr) (n : BitVec 5) (s : State) : Out :=
  .next (s.lanewise (.shli h d a n) 2 0 d [a] (op1 fun a => a <<< n.toNat))

/-- shri (R87, Table 4.4). -/
def execShri (h : Hdr) (d a : Vr) (n : BitVec 5) (s : State) : Out :=
  .next (s.lanewise (.shri h d a n) 2 0 d [a] (op1 fun a => a >>> n.toNat))

/-- sari (R87, Table 4.4). -/
def execSari (h : Hdr) (d a : Vr) (n : BitVec 5) (s : State) : Out :=
  .next (s.lanewise (.sari h d a n) 2 0 d [a] (op1 fun a => a.sshiftRight n.toNat))

/-- roti (R87, Table 4.4). -/
def execRoti (h : Hdr) (d a : Vr) (n : BitVec 5) (s : State) : Out :=
  .next (s.lanewise (.roti h d a n) 2 0 d [a] (op1 fun a => aluRot a n.toNat))

/-- and (R86, Table 4.3). -/
def execAnd (h : Hdr) (d a b : Vr) (x : Bx) (s : State) : Out :=
  .next (s.lanewise (.and h d a b x) 2 x d [a, b] (op2 fun a b => a &&& b))

/-- or (R86, Table 4.3). -/
def execOr (h : Hdr) (d a b : Vr) (x : Bx) (s : State) : Out :=
  .next (s.lanewise (.or h d a b x) 2 x d [a, b] (op2 fun a b => a ||| b))

/-- xor (R86, Table 4.3). -/
def execXor (h : Hdr) (d a b : Vr) (x : Bx) (s : State) : Out :=
  .next (s.lanewise (.xor h d a b x) 2 x d [a, b] (op2 fun a b => a ^^^ b))

/-- andn (R86, Table 4.3). -/
def execAndn (h : Hdr) (d a b : Vr) (x : Bx) (s : State) : Out :=
  .next (s.lanewise (.andn h d a b x) 2 x d [a, b] (op2 fun a b => a &&& ~~~b))

/-- andi (R87, Table 4.4). -/
def execAndi (h : Hdr) (d a : Vr) (imm : BitVec 6) (s : State) : Out :=
  .next (s.lanewise (.andi h d a imm) 2 0 d [a] (op1 fun a => a &&& immW imm))

/-- ori (R87, Table 4.4). -/
def execOri (h : Hdr) (d a : Vr) (imm : BitVec 6) (s : State) : Out :=
  .next (s.lanewise (.ori h d a imm) 2 0 d [a] (op1 fun a => a ||| immW imm))

/-- xori (R87, Table 4.4). -/
def execXori (h : Hdr) (d a : Vr) (imm : BitVec 6) (s : State) : Out :=
  .next (s.lanewise (.xori h d a imm) 2 0 d [a] (op1 fun a => a ^^^ immW imm))

/-- not (R88, Table 4.5). -/
def execNot (h : Hdr) (d a : Vr) (x : Bx) (s : State) : Out :=
  .next (s.lanewise (.not h d a x) 2 x d [a] (op1 fun a => ~~~a))

/-- popc (R88, Table 4.5). -/
def execPopc (h : Hdr) (d a : Vr) (x : Bx) (s : State) : Out :=
  .next (s.lanewise (.popc h d a x) 2 x d [a] (op1 aluPopc))

/-- clz (R88, Table 4.5). -/
def execClz (h : Hdr) (d a : Vr) (x : Bx) (s : State) : Out :=
  .next (s.lanewise (.clz h d a x) 2 x d [a] (op1 aluClz))

/-- brev (R88, Table 4.5). -/
def execBrev (h : Hdr) (d a : Vr) (x : Bx) (s : State) : Out :=
  .next (s.lanewise (.brev h d a x) 2 x d [a] (op1 aluBrev))

/-- iabs (R88, Table 4.5). -/
def execIabs (h : Hdr) (d a : Vr) (x : Bx) (s : State) : Out :=
  .next (s.lanewise (.iabs h d a x) 2 x d [a] (op1 aluAbs))

/-- ineg (R88, Table 4.5). -/
def execIneg (h : Hdr) (d a : Vr) (x : Bx) (s : State) : Out :=
  .next (s.lanewise (.ineg h d a x) 2 x d [a] (op1 fun a => 0 - a))

/-- bfx (R91). -/
def execBfx (h : Hdr) (d a : Vr) (x : Bx) (pos : BitVec 5) (len : BitVec 6) (sx : Bool) (s : State) : Out :=
  .next (s.lanewise (.bfx h d a x pos len sx) 2 x d [a] (op1 fun a => aluBfx a pos.toNat len.toNat sx))

/-- bfi (R91); d is a source too. -/
def execBfi (h : Hdr) (d a : Vr) (x : Bx) (pos : BitVec 5) (len : BitVec 6) (s : State) : Out :=
  .next (s.lanewise (.bfi h d a x pos len) 2 x d [a, d] (op2 fun a d => aluBfi d a pos.toNat len.toNat))

/-- lea (R92). -/
def execLea (h : Hdr) (d a b : Vr) (x : Bx) (sh : BitVec 5) (disp : BitVec 16) (s : State) : Out :=
  .next (s.lanewise (.lea h d a b x sh disp) 2 x d [a, b] (op2 fun a b => aluLea a b sh.toNat disp))

/-- movi (R95). -/
def execMovi (h : Hdr) (d : Vr) (x : Bx) (imm : BitVec 32) (s : State) : Out :=
  .next (s.lanewise (.movi h d x imm) 2 x d [] (fun _ => imm))

/-- movk (R89): one half of a k register into every lane. -/
def execMovk (h : Hdr) (d : Vr) (ka : Kr) (hi : Bool) (x : Bx) (s : State) : Out :=
  .next (s.lanewise (.movk h d ka hi x) 2 x d [] (fun _ => if hi then (s.w.rdK ka.toNat >>> 32).truncate 32 else (s.w.rdK ka.toNat).truncate 32))

/-- idot4 (R90); no block extent, d is a source too. -/
def execIdot4 (h : Hdr) (d a b : Vr) (mode : DotMode) (s : State) : Out :=
  .next (s.lanewise (.idot4 h d a b mode) 2 0 d [a, b, d] (op3 fun a b d => aluDot4 d a b mode))

/-- icmp (R93): a comparison of two lanes, joined with q, into p. -/
def execIcmp (h : Hdr) (p : Pr) (a b : Vr) (cond : ICond) (comb : Comb) (q : Pr) (s : State) : Out :=
  .next (s.withSrcs (.icmp h p a b cond comb q) [a.toNat, b.toNat] fun vals s =>
    s.predicate (.icmp h p a b cond comb q) 2 p fun l =>
      combine comb (icmpHolds cond (vals.getD 0 (fun _ => 0) l) (vals.getD 1 (fun _ => 0) l)) (s.w.rdP q.toNat l))

/-- sel (R94): one predicate for the whole block chooses between two blocks. -/
def execSel (h : Hdr) (d a b : Vr) (x : Bx) (p : Pr) (s : State) : Out :=
  .next (s.selectBlock (.sel h d a b x p) x d a b p)

end Sys2Proof.Machine
end

