-- ==== Sys2Proof/Machine/Uniform.lean ====
section
/-! DEFINITION. Uniform instructions on the k registers (R96 to R100): each acts once for the strand that executes it. -/

namespace Sys2Proof.Machine

/-- kshl (Table 4.8): an amount of 64 or more gives 0. -/
def kluShl (a b : DWord) : DWord := if b.toNat < 64 then a <<< b.toNat else 0
/-- kshr (Table 4.8). -/
def kluShr (a b : DWord) : DWord := if b.toNat < 64 then a >>> b.toNat else 0
/-- A kcmp condition (R98). -/
def kcmpHolds (c : KCond) (a b : DWord) : Bool :=
  match c with
  | .eq => a == b
  | .ne => a != b
  | .ltS => decide (a.toInt < b.toInt)
  | .ltN => decide (a.toNat < b.toNat)
/-- kset (R99). -/
def kluSet (f : KsetMode) (imm : Word) (old : DWord) : DWord :=
  match f with
  | .sext => imm.signExtend 64
  | .zext => imm.zeroExtend 64
  | .hi => (imm.zeroExtend 64 <<< 32) ||| ((old.truncate 32 : Word).zeroExtend 64)
/-- kfromv (R100). -/
def kluFromV (f : KfvMode) (x : Word) (old : DWord) : DWord :=
  match f with
  | .zext => x.zeroExtend 64
  | .sext => x.signExtend 64
  | .hi => (x.zeroExtend 64 <<< 32) ||| ((old.truncate 32 : Word).zeroExtend 64)

/-- kadd (R97, Table 4.8). -/
def execKadd (h : Hdr) (kd ka kb : Kr) (s : State) : Out :=
  .next (s.uniform (.kadd h kd ka kb) 2 kd (s.w.rdK ka.toNat + s.w.rdK kb.toNat))

/-- ksub (R97, Table 4.8). -/
def execKsub (h : Hdr) (kd ka kb : Kr) (s : State) : Out :=
  .next (s.uniform (.ksub h kd ka kb) 2 kd (s.w.rdK ka.toNat - s.w.rdK kb.toNat))

/-- kmul (R97, Table 4.8). -/
def execKmul (h : Hdr) (kd ka kb : Kr) (s : State) : Out :=
  .next (s.uniform (.kmul h kd ka kb) 2 kd (s.w.rdK ka.toNat * s.w.rdK kb.toNat))

/-- kand (R97, Table 4.8). -/
def execKand (h : Hdr) (kd ka kb : Kr) (s : State) : Out :=
  .next (s.uniform (.kand h kd ka kb) 2 kd (s.w.rdK ka.toNat &&& s.w.rdK kb.toNat))

/-- kor (R97, Table 4.8). -/
def execKor (h : Hdr) (kd ka kb : Kr) (s : State) : Out :=
  .next (s.uniform (.kor h kd ka kb) 2 kd (s.w.rdK ka.toNat ||| s.w.rdK kb.toNat))

/-- kxor (R97, Table 4.8). -/
def execKxor (h : Hdr) (kd ka kb : Kr) (s : State) : Out :=
  .next (s.uniform (.kxor h kd ka kb) 2 kd (s.w.rdK ka.toNat ^^^ s.w.rdK kb.toNat))

/-- kshl (R97, Table 4.8). -/
def execKshl (h : Hdr) (kd ka kb : Kr) (s : State) : Out :=
  .next (s.uniform (.kshl h kd ka kb) 2 kd (kluShl (s.w.rdK ka.toNat) (s.w.rdK kb.toNat)))

/-- kshr (R97, Table 4.8). -/
def execKshr (h : Hdr) (kd ka kb : Kr) (s : State) : Out :=
  .next (s.uniform (.kshr h kd ka kb) 2 kd (kluShr (s.w.rdK ka.toNat) (s.w.rdK kb.toNat)))

/-- kaddi (R98). -/
def execKaddi (h : Hdr) (kd ka : Kr) (imm : BitVec 8) (s : State) : Out :=
  .next (s.uniform (.kaddi h kd ka imm) 2 kd (s.w.rdK ka.toNat + imm.signExtend 64))

/-- kset (R99). -/
def execKset (h : Hdr) (kd : Kr) (f : KsetMode) (imm : BitVec 32) (s : State) : Out :=
  .next (s.uniform (.kset h kd f imm) 2 kd (kluSet f imm (s.w.rdK kd.toNat)))

/-- kcmp (R98): 1 if the condition holds, else 0. -/
def execKcmp (h : Hdr) (kd ka kb : Kr) (cond : KCond) (s : State) : Out :=
  .next (s.uniform (.kcmp h kd ka kb cond) 2 kd (if kcmpHolds cond (s.w.rdK ka.toNat) (s.w.rdK kb.toNat) then 1 else 0))

/-- kmov (R98). -/
def execKmov (h : Hdr) (kd ka : Kr) (s : State) : Out :=
  .next (s.uniform (.kmov h kd ka) 2 kd (s.w.rdK ka.toNat))

/-- kfromv (R100): the named lane, or for 32 the lowest active lane; a named lane that is not active supplies 0. -/
def execKfromv (h : Hdr) (kd : Kr) (va : Vr) (lane : BitVec 6) (f : KfvMode) (s : State) : Out :=
  .next (s.withSrcs (.kfromv h kd va lane f) [va.toNat] fun vals s =>
    let l := if lane = 32 then lowLane s.w.active else lane.toNat
    let x := if s.w.active.getLsbD l then vals.getD 0 (fun _ => 0) l else 0
    s.uniform (.kfromv h kd va lane f) 2 kd (kluFromV f x (s.w.rdK kd.toNat)))

end Sys2Proof.Machine
end

