-- ==== Sys2Proof/Machine/Predicate.lean ====
section
/-! DEFINITION. Predicate instructions (R101). -/

namespace Sys2Proof.Machine

/-- pand (R101, Table 4.9). -/
def execPand (h : Hdr) (p a b : Pr) (s : State) : Out :=
  .next (s.predicate (.pand h p a b) 2 p fun l => s.w.rdP a.toNat l && s.w.rdP b.toNat l)

/-- por (R101, Table 4.9). -/
def execPor (h : Hdr) (p a b : Pr) (s : State) : Out :=
  .next (s.predicate (.por h p a b) 2 p fun l => s.w.rdP a.toNat l || s.w.rdP b.toNat l)

/-- pxor (R101, Table 4.9). -/
def execPxor (h : Hdr) (p a b : Pr) (s : State) : Out :=
  .next (s.predicate (.pxor h p a b) 2 p fun l => s.w.rdP a.toNat l ^^ s.w.rdP b.toNat l)

/-- pandn (R101, Table 4.9). -/
def execPandn (h : Hdr) (p a b : Pr) (s : State) : Out :=
  .next (s.predicate (.pandn h p a b) 2 p fun l => s.w.rdP a.toNat l && !s.w.rdP b.toNat l)

/-- pclr (R101, Table 4.9). -/
def execPclr (h : Hdr) (p : Pr) (s : State) : Out :=
  .next (s.predicate (.pclr h p) 2 p fun _ => false)

/-- pset (R101, Table 4.9). -/
def execPset (h : Hdr) (p : Pr) (s : State) : Out :=
  .next (s.predicate (.pset h p) 2 p fun _ => true)

/-- pnot (R101, Table 4.9). -/
def execPnot (h : Hdr) (p a : Pr) (s : State) : Out :=
  .next (s.predicate (.pnot h p a) 2 p fun l => !s.w.rdP a.toNat l)

/-- pmov (R101, Table 4.9). -/
def execPmov (h : Hdr) (p a : Pr) (s : State) : Out :=
  .next (s.predicate (.pmov h p a) 2 p fun l => s.w.rdP a.toNat l)

/-- ptov (R101): 1 where the predicate holds, else 0. -/
def execPtov (h : Hdr) (vd : Vr) (a : Pr) (s : State) : Out :=
  .next (s.crosslane (.ptov h vd a) 2 vd [] fun _ l => if s.w.rdP a.toNat l then 1 else 0)

/-- vtop (R101): whether the register is not 0. -/
def execVtop (h : Hdr) (p : Pr) (va : Vr) (s : State) : Out :=
  .next (s.withSrcs (.vtop h p va) [va.toNat] fun vals s =>
    s.predicate (.vtop h p va) 2 p fun l => vals.getD 0 (fun _ => 0) l != 0)

end Sys2Proof.Machine
end

