-- ==== Sys2Proof/Machine/Exchange.lean ====
section
/-! DEFINITION. Quads, helper lanes and the exchanges (R102 to R109). -/

namespace Sys2Proof.Machine

/-- The active lanes of a lane's quad, ascending. -/
def quadActive (act : Word) (l : Nat) : List Nat := (List.range 4).map (fun i => l / 4 * 4 + i) |>.filter fun x => act.getLsbD x

/-- What lane `x` supplies to a quad exchange: its own value when active, otherwise its helper value (R102, Table 4.10). -/
def helperVal (act : Word) (mode : HelperMode) (a : Nat → Word) (x : Nat) : Word :=
  if act.getLsbD x then a x
  else match mode with
    | .copy => a ((quadActive act x).headD 0)
    | .zero => 0
    | .nan => 0x7FC00000

/-- qswp (R105). -/
def execQswp (h : Hdr) (d a : Vr) (dir : QDir) (s : State) : Out :=
  .next (s.crosslane (.qswp h d a dir) 3 d [a] fun vals l =>
    helperVal s.w.active s.w.helper (vals.getD 0 fun _ => 0) (l ^^^ (match dir with | .h => 1 | .v => 2 | .dg => 3)))

/-- qbc (R106). -/
def execQbc (h : Hdr) (d a : Vr) (n : BitVec 2) (s : State) : Out :=
  .next (s.crosslane (.qbc h d a n) 3 d [a] fun vals l =>
    helperVal s.w.active s.w.helper (vals.getD 0 fun _ => 0) (4 * (l / 4) + n.toNat))

/-- qhlp (R103): the mode applies from the warp's next group. -/
def execQhlp (h : Hdr) (mode : HelperMode) (s : State) : Out :=
  .next ((s.modW fun w => { w with deferred := w.deferred ++ [.helper mode] }).retire (.qhlp h mode))

/-- What lane `l` receives from source lane `x`: the source's value if it is an active lane, otherwise its own (R107). -/
def shuffled (act : Word) (a : Nat → Word) (l : Nat) (x : Option Nat) : Word :=
  match x with
  | some y => if act.getLsbD y then a y else a l
  | none => a l

/-- wshf (R107). -/
def execWshf (h : Hdr) (d a b : Vr) (s : State) : Out :=
  .next (s.crosslane (.wshf h d a b) 3 d [a, b] fun vals l =>
    shuffled s.w.active (vals.getD 0 fun _ => 0) l (some (((vals.getD 1 fun _ => 0) l).toNat % 32)))

/-- The source lane of wshx (R107). -/
def wshxLane (mode : ShuffleMode) (n l : Nat) : Option Nat :=
  match mode with
  | .xor => some (l ^^^ n)
  | .up => if n ≤ l then some (l - n) else none
  | .down => if l + n < 32 then some (l + n) else none

/-- wshx (R107). -/
def execWshx (h : Hdr) (d a : Vr) (n : BitVec 5) (mode : ShuffleMode) (s : State) : Out :=
  .next (s.crosslane (.wshx h d a n mode) 3 d [a] fun vals l =>
    shuffled s.w.active (vals.getD 0 fun _ => 0) l (wshxLane mode n.toNat l))

/-- The value of a vote over the active lanes (R108). -/
def voteOf (mode : VoteMode) (act : Word) (a : Nat → Word) : Word :=
  let m := maskOf ((lanesOf act).filter fun l => a l != 0)
  match mode with
  | .ballot => m
  | .all => if m = act then 1 else 0
  | .any => if m = 0 then 0 else 1
  | .count => BitVec.ofNat 32 (popCount 32 m.toNat)

/-- wvote (R108). -/
def execWvote (h : Hdr) (d a : Vr) (mode : VoteMode) (s : State) : Out :=
  .next (s.crosslane (.wvote h d a mode) 3 d [a] fun vals _ => voteOf mode s.w.active (vals.getD 0 fun _ => 0))

/-- One step of a reduction (R109). -/
def redStep (op : RedOp) (x y : Word) : Word :=
  match op with
  | .add => x + y
  | .minS => aluMinS x y
  | .minN => aluMinN x y
  | .maxS => aluMaxS x y
  | .maxN => aluMaxN x y
  | .and => x &&& y
  | .or => x ||| y
  | .xor => x ^^^ y

/-- A reduction over the active lanes (R109). -/
def reduceOf (op : RedOp) (act : Word) (a : Nat → Word) : Word :=
  match (lanesOf act).map a with
  | [] => 0
  | x :: xs => xs.foldl (redStep op) x

/-- wred (R109). -/
def execWred (h : Hdr) (d a : Vr) (op : RedOp) (s : State) : Out :=
  .next (s.crosslane (.wred h d a op) 3 d [a] fun vals _ => reduceOf op s.w.active (vals.getD 0 fun _ => 0))

end Sys2Proof.Machine
end

