-- ==== Sys2Proof/Machine/Flags.lean ====
section
/-! DEFINITION. The AXF flags (Table 6.3) and how an instruction raises them (R136, R139): at issue, in every active lane. -/

namespace Sys2Proof.Machine

/-- A set of AXF flags. -/
abbrev FFlags := BitVec 6

/-- NV: invalid operation. -/
def flagNV : FFlags := 1
/-- DZ: division by zero. -/
def flagDZ : FFlags := 2
/-- OF: overflow. -/
def flagOF : FFlags := 4
/-- UF: underflow. -/
def flagUF : FFlags := 8
/-- NX: inexact. -/
def flagNX : FFlags := 16
/-- DN: flushed by DAZ or FTZ. -/
def flagDN : FFlags := 32

/-- A flag raised on a condition. -/
def flagIf (c : Bool) (f : FFlags) : FFlags := if c then f else 0

/-- Raise flags in the active lanes: AXF is sticky (R136). -/
def Warp.raise (w : Warp) (f : Nat → FFlags) : Warp :=
  { w with axf := (lanesOf w.active).foldl (fun m l => SMap.put m l (SMap.get 0 w.axf l ||| f l)) w.axf }

/-- DAZ of FPC (Table 6.2). -/
def fpcDaz (c : BitVec 4) : Bool := c.getLsbD 3
/-- FTZ of FPC. -/
def fpcFtz (c : BitVec 4) : Bool := c.getLsbD 2
/-- RM of FPC as a rounding mode. -/
def fpcRm (c : BitVec 4) : Rm5 :=
  match c.toNat % 4 with
  | 0 => .rne
  | 1 => .rtz
  | 2 => .rdn
  | _ => .rup
/-- A rounding mode of Table 6.2 among those of fcvt. -/
def rmTo5 (r : Rm) : Rm5 :=
  match r with
  | .rne => .rne
  | .rtz => .rtz
  | .rdn => .rdn
  | .rup => .rup

/-- The lane-wise float instruction over blocks (R81, R143): `f` gives the result and the flags of one element; a block raises the flags of all its elements.
`lat` is the latency of a fixed-latency form; a special function counts on dc0 instead (R134). -/
def State.lanewiseF (s : State) (i : Instr) (x : Bx) (d : Vr) (srcs : List Vr) (f : BitVec 4 → List Word → Word × FFlags) : State :=
  let rc := s.w.extent x
  let n := rc.1 * rc.2
  if !(blockOk rc d.toNat && srcs.all fun r => blockOk rc r.toNat) then s.illegalOperand i 0x01
  else if (blockRegs rc d.toNat).any s.w.isWindow then s.illegalOperand i 0x05
  else s.withSrcs i (srcs.flatMap fun r => blockRegs rc r.toNat) fun vals s =>
    let out (e l : Nat) := f s.w.fpc ((List.range srcs.length).map fun j => vals.getD (j * n + e) (fun _ => 0) l)
    let res := (List.range n).map fun e => RegWrite.ofV ((blockRegs rc d.toNat).getD e 0) s.w.active fun l => (out e l).1
    let s := s.modW fun w => w.raise fun l => (List.range n).foldl (fun a e => a ||| (out e l).2) 0
    match i.latency with
    | .fixed lat => (s.modW fun w => w.pushAll lat res).retire i
    | _ => (s.modW fun w => (w.count i.counter (res.map (·.reg)) true res).flagging w.seqNo).retire i

end Sys2Proof.Machine
end

