-- ==== Sys2Proof/Machine/Float.lean ====
section
/-! DEFINITION. Binary floating point (R111, R112, R137 to R142): exact dyadic values, one rounding, flags. -/

namespace Sys2Proof.Machine

/-- A standard format (Table 5.1): exponent bits, mantissa bits, bias. -/
structure Fmt where
  ebits : Nat
  mbits : Nat
  bias : Nat

/-- f32. -/
def f32 : Fmt := ⟨8, 23, 127⟩
/-- f16. -/
def f16 : Fmt := ⟨5, 10, 15⟩
/-- bf16. -/
def bf16 : Fmt := ⟨8, 7, 127⟩

/-- The width of a format. -/
def Fmt.width (f : Fmt) : Nat := 1 + f.ebits + f.mbits
/-- The exponent of the smallest normal value. -/
def Fmt.emin (f : Fmt) : Int := 1 - (f.bias : Int)
/-- The all-ones exponent field. -/
def Fmt.etop (f : Fmt) : Nat := 2 ^ f.ebits - 1
/-- The sign bit of an encoding. -/
def Fmt.signBit (f : Fmt) (neg : Bool) : Nat := if neg then 2 ^ (f.ebits + f.mbits) else 0
/-- The canonical quiet NaN (Table 5.1). -/
def Fmt.nan (f : Fmt) : Nat := f.etop * 2 ^ f.mbits + 2 ^ (f.mbits - 1)
/-- An infinity. -/
def Fmt.inf (f : Fmt) (neg : Bool) : Nat := f.signBit neg + f.etop * 2 ^ f.mbits
/-- The largest finite value. -/
def Fmt.big (f : Fmt) (neg : Bool) : Nat := f.signBit neg + (f.etop * 2 ^ f.mbits - 1)

/-- A value: NaN (signalling or quiet), infinity, or ± m × 2^e (m = 0 is a signed zero). -/
inductive FVal where
  | nan (sig : Bool)
  | inf (neg : Bool)
  | fin (neg : Bool) (m : Nat) (e : Int)
deriving DecidableEq, Repr

/-- The value of an encoding (R111). -/
def Fmt.decode (f : Fmt) (x : Nat) : FVal :=
  let neg := bitAt x (f.ebits + f.mbits)
  let ef := fld x f.mbits f.ebits
  let mf := fld x 0 f.mbits
  if ef = f.etop then (if mf = 0 then .inf neg else .nan (!bitAt mf (f.mbits - 1)))
  else if ef = 0 then .fin neg mf (f.emin - f.mbits)
  else .fin neg (2 ^ f.mbits + mf) ((ef : Int) - f.bias - f.mbits)

/-- The bits of a natural number. -/
def bitLen (n : Nat) : Nat := if n = 0 then 0 else Nat.log2 n + 1

/-- Rounding the magnitude n + r (r a proper fraction: below, at or above one half) to an integer in a mode. -/
def roundUp (rm : Rm5) (neg odd : Bool) (cmpHalf : Ordering) (inexact : Bool) : Bool :=
  match rm with
  | .rne => cmpHalf == .gt || (cmpHalf == .eq && odd)
  | .rtz => false
  | .rdn => inexact && neg
  | .rup => inexact && !neg
  | .rna => cmpHalf != .lt

/-- m × 2^e (plus something smaller than its last place when `sticky`) as a multiple of 2^q: the rounded count, and whether it is inexact. -/
def roundAt (rm : Rm5) (neg : Bool) (m : Nat) (e q : Int) (sticky : Bool) : Nat × Bool :=
  if q ≤ e then
    let n := m * 2 ^ (e - q).toNat
    if sticky then ((if rm == .rup && !neg || rm == .rdn && neg then n + 1 else n), true) else (n, false)
  else
    let k := (q - e).toNat
    let n := m / 2 ^ k
    let r := m % 2 ^ k
    let h := 2 ^ (k - 1)
    let c := if r < h then Ordering.lt else if r = h then (if sticky then .gt else .eq) else .gt
    let inexact := decide (r ≠ 0) || sticky
    (if roundUp rm neg (n % 2 == 1) c inexact then n + 1 else n, inexact)

/-- Whether a mode sends an overflow of a sign to the largest finite value (R137). -/
def overflowFinite (rm : Rm5) (neg : Bool) : Bool :=
  match rm with
  | .rtz => true
  | .rdn => !neg
  | .rup => neg
  | _ => false

/-- Round a nonzero exact magnitude m × 2^e into a format (R137): the encoding and the flags. `ftz` replaces a tiny result by zero. -/
def Fmt.round (f : Fmt) (rm : Rm5) (ftz neg : Bool) (m : Nat) (e : Int) (sticky : Bool) : Nat × FFlags :=
  let top := e + bitLen m - 1
  let free := roundAt rm neg m e (top - f.mbits) sticky
  let tiny := decide (free.1 ≠ 0) && decide (top - f.mbits + bitLen free.1 - 1 < f.emin)
  if tiny && ftz then (f.signBit neg, flagUF ||| flagNX ||| flagDN)
  else
    let q := max (top - f.mbits) (f.emin - f.mbits)
    let (n, inexact) := roundAt rm neg m e q sticky
    let fl := flagIf inexact flagNX ||| flagIf (tiny && inexact) flagUF
    -- n × 2^q, with n ≤ 2^(mbits+1): encode, carrying into the exponent
    let (n, q) := if n = 2 ^ (f.mbits + 1) then (2 ^ f.mbits, q + 1) else (n, q)
    if n < 2 ^ f.mbits then (f.signBit neg + n, fl)
    else
      let ef := q + f.mbits + f.bias
      if (f.etop : Int) ≤ ef then ((if overflowFinite rm neg then f.big neg else f.inf neg), flagOF ||| flagNX)
      else (f.signBit neg + ef.toNat * 2 ^ f.mbits + (n - 2 ^ f.mbits), fl)

/-- Encode a value that needs one rounding. -/
def Fmt.encode (f : Fmt) (rm : Rm5) (ftz : Bool) (v : FVal) : Nat × FFlags :=
  match v with
  | .nan _ => (f.nan, 0)
  | .inf neg => (f.inf neg, 0)
  | .fin neg m e => if m = 0 then (f.signBit neg, 0) else f.round rm ftz neg m e false

/-- Read an input through DAZ (R142): a subnormal is a zero of its sign, with DN. -/
def Fmt.input (f : Fmt) (daz : Bool) (x : Nat) : FVal × FFlags :=
  match f.decode x with
  | .fin neg m e => if daz && decide (m ≠ 0) && decide (m < 2 ^ f.mbits) then (.fin neg 0 e, flagDN) else (.fin neg m e, 0)
  | v => (v, 0)

/-- Whether a value is a signalling NaN. -/
def FVal.isSig : FVal → Bool
  | .nan s => s
  | _ => false
/-- Whether a value is a NaN. -/
def FVal.isNan : FVal → Bool
  | .nan _ => true
  | _ => false
/-- Whether a value is an infinity of a sign. -/
def FVal.isInf (neg : Bool) : FVal → Bool
  | .inf n => n == neg
  | _ => false
/-- A value with its sign inverted. -/
def FVal.negate : FVal → FVal
  | .inf n => .inf !n
  | .fin n m e => .fin (!n) m e
  | v => v

/-- An exact product, and whether it is invalid: infinity × zero (R140). A NaN operand gives a quiet NaN. -/
def FVal.mul (a b : FVal) : FVal × Bool :=
  match a, b with
  | .nan _, _ => (.nan false, false)
  | _, .nan _ => (.nan false, false)
  | .inf x, .inf y => (.inf (x ^^ y), false)
  | .inf x, .fin y m _ => if m = 0 then (.nan false, true) else (.inf (x ^^ y), false)
  | .fin x m _, .inf y => if m = 0 then (.nan false, true) else (.inf (x ^^ y), false)
  | .fin x m e, .fin y n g => (.fin (x ^^ y) (m * n) (e + g), false)

/-- The signed integer ± m × 2^(e − q) of a finite value, for q at or below its exponent. -/
def FVal.scaled (q : Int) : FVal → Int
  | .fin neg m e => (if neg then -1 else 1) * (m * 2 ^ (e - q).toNat : Nat)
  | _ => 0

/-- The exponent of a finite value that is not zero. -/
def FVal.expo? : FVal → Option Int
  | .fin _ m e => if m = 0 then none else some e
  | _ => none

/-- The exact sum of terms, rounded once, with the zero-sign rule of R141 and opposite infinities invalid. -/
def Fmt.sum (f : Fmt) (rm : Rm5) (ftz : Bool) (ts : List FVal) : Nat × FFlags :=
  let opp := ts.any (FVal.isInf false) && ts.any (FVal.isInf true)
  if ts.any FVal.isNan || opp then (f.nan, flagIf opp flagNV)
  else if ts.any (FVal.isInf false) then (f.inf false, 0)
  else if ts.any (FVal.isInf true) then (f.inf true, 0)
  else
    let q := (ts.filterMap FVal.expo?).foldl min 0
    let t := (ts.map (FVal.scaled q)).sum
    if t = 0 then
      let nonzero := ts.any fun v => (v.expo?).isSome
      let neg (v : FVal) : Bool := match v with
        | .fin n _ _ => n
        | _ => false
      if !nonzero && ts.all neg then (f.signBit true, 0)
      else if !nonzero && ts.all (fun v => !neg v) then (0, 0)
      else (f.signBit (rm == .rdn), 0)
    else f.round rm ftz (decide (t < 0)) t.natAbs q false

/-- a + b in a format under FPC (R144). -/
def Fmt.add (f : Fmt) (c : BitVec 4) (a b : Nat) : Nat × FFlags :=
  let (x, fx) := f.input (fpcDaz c) a
  let (y, fy) := f.input (fpcDaz c) b
  let (r, fr) := f.sum (fpcRm c) (fpcFtz c) [x, y]
  (r, fx ||| fy ||| fr ||| flagIf (x.isSig || y.isSig) flagNV)

/-- Invert the sign bit of an encoding. -/
def Fmt.neg (f : Fmt) (a : Nat) : Nat := a ^^^ 2 ^ (f.ebits + f.mbits)

/-- a − b (R141: a + (−b)). -/
def Fmt.sub (f : Fmt) (c : BitVec 4) (a b : Nat) : Nat × FFlags := f.add c a (f.neg b)

/-- A product of two values under FPC. -/
def Fmt.mulV (f : Fmt) (c : BitVec 4) (x y : FVal) : Nat × FFlags :=
  let (p, inv) := x.mul y
  let (r, fr) := f.encode (fpcRm c) (fpcFtz c) p
  (r, fr ||| flagIf (inv || x.isSig || y.isSig) flagNV)

/-- a × b (R144). -/
def Fmt.mul (f : Fmt) (c : BitVec 4) (a b : Nat) : Nat × FFlags :=
  let (x, fx) := f.input (fpcDaz c) a
  let (y, fy) := f.input (fpcDaz c) b
  let (r, fr) := f.mulV c x y
  (r, fx ||| fy ||| fr)

/-- A sum of products and an addend with one rounding (ffma, hfma2, fdot2): pairs of `src`, addend and result of `f`. -/
def Fmt.dot (f src : Fmt) (c : BitVec 4) (ps : List (Nat × Nat)) (d : Nat) : Nat × FFlags :=
  let ins := ps.map fun p => (src.input (fpcDaz c) p.1, src.input (fpcDaz c) p.2)
  let (z, fz) := f.input (fpcDaz c) d
  let prods := ins.map fun p => p.1.1.mul p.2.1
  let sig := z.isSig || ins.any fun p => p.1.1.isSig || p.2.1.isSig
  let inv := prods.any (·.2)
  let (r, fr) := f.sum (fpcRm c) (fpcFtz c) (prods.map (·.1) ++ [z])
  (r, fr ||| fz ||| (ins.foldl (fun a p => a ||| p.1.2 ||| p.2.2) 0) ||| flagIf (sig || inv) flagNV)

/-- a × b + d (R144). -/
def Fmt.fma (f : Fmt) (c : BitVec 4) (a b d : Nat) : Nat × FFlags := f.dot f c [(a, b)] d

/-- The order of two values that are not NaN; zeros are equal. -/
def FVal.cmp (a b : FVal) : Ordering :=
  match a, b with
  | .inf x, .inf y => if x = y then .eq else if x then .lt else .gt
  | .inf x, _ => if x then .lt else .gt
  | _, .inf y => if y then .gt else .lt
  | x, y =>
    let q := ([x, y].filterMap FVal.expo?).foldl min 0
    compare (x.scaled q) (y.scaled q)

/-- The sign of a value. -/
def FVal.isNeg : FVal → Bool
  | .nan _ => false
  | .inf n => n
  | .fin n _ _ => n

/-- minimumNumber and maximumNumber (R145): −0 below +0, one NaN gives the other operand, two give the canonical NaN.
An input that DAZ flushes sets no flag here: fmin and fmax set none but NV. -/
def Fmt.minMax (f : Fmt) (daz max : Bool) (a b : Nat) : Nat × FFlags :=
  let (x, fx) := f.input daz a
  let (y, fy) := f.input daz b
  let a' := if fx = 0 then a else f.signBit x.isNeg
  let b' := if fy = 0 then b else f.signBit y.isNeg
  let fl := flagIf (x.isSig || y.isSig) flagNV
  let r :=
    if x.isNan && y.isNan then f.nan
    else if x.isNan then b'
    else if y.isNan then a'
    else match x.cmp y with
      | .lt => if max then b' else a'
      | .gt => if max then a' else b'
      | .eq => if max then (if x.isNeg then b' else a') else (if x.isNeg then a' else b')
  (r, fl)

/-- A float condition after DAZ, and its NV (R148, Table 6.7). -/
def fcmpHolds (cond : FCond) (daz : Bool) (a b : Nat) : Bool × FFlags :=
  let (x, fx) := f32.input daz a
  let (y, fy) := f32.input daz b
  let un := x.isNan || y.isNan
  let sig := x.isSig || y.isSig
  let o := x.cmp y
  let r := match cond with
    | .eq => !un && o == .eq
    | .ne => un || o != .eq
    | .lt => !un && o == .lt
    | .le => !un && o != .gt
    | .gt => !un && o == .gt
    | .ge => !un && o != .lt
    | .ord => !un
    | .uno => un
  let nv := match cond with
    | .lt => un
    | .le => un
    | .gt => un
    | .ge => un
    | _ => sig
  (r, fx ||| fy ||| flagIf nv flagNV)

/-- A finite value rounded to an integer in a mode: the integer's magnitude and whether it is inexact. -/
def intMag (rm : Rm5) (neg : Bool) (m : Nat) (e : Int) : Nat × Bool := roundAt rm neg m e 0 false

/-- frnd (R151): the integral f32 value a mode gives, keeping the sign. -/
def frndOf (c : BitVec 4) (rm : Rm5) (a : Nat) : Nat × FFlags :=
  let (x, fx) := f32.input (fpcDaz c) a
  match x with
  | .nan sig => (f32.nan, fx ||| flagIf sig flagNV)
  | .inf n => (f32.inf n, fx)
  | .fin n m e =>
    let k := (intMag rm n m e).1
    if k = 0 then (f32.signBit n, fx) else ((f32.round .rne false n k 0 false).1, fx)

end Sys2Proof.Machine
end

