-- ==== Sys2Proof/Machine/Barrier.lean ====
section
/-! DEFINITION. Barriers (R269 to R276, R305, R306, R427) and what an exit counts for at them (R75, R271). -/

namespace Sys2Proof.Machine

/-- The warps of a group, in identity order (R20). -/
def State.groupWarps (s : State) (g : Nat) : List Nat :=
  let hs := (s.warps.filter fun e => e.2.grp == g && e.2.kind == .normal).map Prod.fst
  sortBy (fun a b => decide (s.idx a < s.idx b)) hs

/-- The number of warps of a group, twins included. -/
def Desc.allWarps (d : Desc) : Nat := d.warps * (if d.paired then 2 else 1)

/-- Whether a group belongs to a collated grid. -/
def State.groupColl (s : State) (g : Nat) : Bool := (s.gridAt (s.groupAt g).grid).ds.coll

/-- Warp `w` leaves its park with clock `e`: what it owes follows R427; where its point was published meanwhile, so is every point up to `e`, and its slice reads again what it read before (R261). It may still owe a point that the weights before its barrier crossed (R300). -/
def Warp.unpark (w : Warp) (coll : Bool) (g e : Nat) : Warp :=
  match w.park with
  | none => w
  | some p =>
    let p1 := (p.clk / g + 1) * g
    let w := { w with park := none, lclk := e % 2 ^ 64 }
    let w := if coll && p.published then w.refill (w.lclk / g) else w
    let w := if w.todo.isEmpty then w else { w with grpLclk := w.lclk, grpW := 0 }
    if coll && !p.published && decide (p1 ≤ w.lclk) then
      let w := { w with owed := w.owed <|> some p1 }
      if w.todo.isEmpty then (if w.inRun then w.endRunAt fun _ => w.runPc else w) else { w with endRun := true }
    else w

/-- The current strand gives way at the present word, which has had no effect: its run ends here and the word starts its next run (R271). -/
def State.yieldHere (s : State) : State :=
  s.modW fun w =>
    let w' := if w.runPc = w.grpPc ∧ w.lclk = w.grpLclk then { w with deferred := [], grpS := 0, grpW := 0 } else w.closeGroup s.collated s.g s.clk
    w'.endRunAt fun _ => w.runPc

/-- Lanes of the current strand that stay at the present word; the others go on with it, and the run ends with the group (R271). -/
def State.leaveLanes (s : State) (m : Word) : State :=
  if m = 0 then s
  else s.modW fun w => { w with pcs := (lanesOf m).foldl (fun t l => SMap.put t l w.runPc) w.pcs, active := w.active &&& ~~~m, endRun := true }

/-! ### Phases -/

/-- Arrivals of exited warps at phase `q` (R271), and the largest clock among them. -/
def State.goneAt (s : State) (g id q : Nat) : Nat × Nat :=
  (s.groupWarps g).foldl (fun a h =>
    let w := s.warpAt h
    if w.gone && decide (SMap.get 0 w.barA id ≤ q) then (a.1 + 1, max a.2 w.exitClk) else a) (0, 0)

/-- Scratchpad merge of R305: turn copies, then the scratchpad entries of the fold buffers in ascending identity.
DESIGN CHOICE (log 87): of the turn copies of the core those of the completing group merge, not those of another group on it. -/
def State.mergeSpad (s : State) (g : Nat) : State :=
  let x := s.groupAt g
  let put (m : Memory) (t : SMap Byte) : Memory := t.foldl (fun m e => m.write e.1 e.2) m
  let x := { x with spad := put x.spad x.spTurn, spadF := put x.spadF x.spTurnF, spTurn := [], spTurnF := [] }
  let apply (m : Memory) (w : Warp) : Memory :=
    ((w.fold ++ w.spill).filter (·.spad)).foldl (fun m e => e.bytes.foldl (fun m b => m.write (e.addr * 32 + b.1) b.2) m) m
  let hs := s.groupWarps g
  let x := hs.foldl (fun x h =>
    let w := s.warpAt h
    if w.twin then { x with spadF := apply x.spadF w } else { x with spad := apply x.spad w }) x
  let s := s.setGroup g x
  hs.foldl (fun s h => s.modWarp h fun w => { w with fold := w.fold.filter (!·.spad), spill := w.spill.filter (!·.spad) }) s

/-- Whether every warp of a group that has not exited is parked on phase `q` of a barrier (R305). -/
def State.allWait (s : State) (g id q : Nat) : Bool :=
  (s.groupWarps g).all fun h =>
    let w := s.warpAt h
    w.gone || (match w.park with | some p => p.on == .bar id q | none => false)

/-- Phase `q` completes with largest arrival clock `clk`: the merge, then every wait on it ends in the same step (R273, R274, R305, R306).
DESIGN CHOICE (log 87): in a domain a warp that parked before its arrival, since too many were pending (R271), leaves with the largest arrival clock + 1, as one that waited for the phase. -/
def State.endPhase (s : State) (g id q clk : Nat) : State :=
  let coll := s.groupColl g
  let gl := (s.gridAt (s.groupAt g).grid).g
  let s := if coll && s.allWait g id q then s.mergeSpad g else s
  let x := s.groupAt g
  let b := SMap.get ⟨0, []⟩ x.bars id
  let s := s.setGroup g { x with bars := SMap.put x.bars id { done := q + 1, opened := SMap.erase b.opened q } }
  (s.groupWarps g).foldl (fun s h => s.modWarp h fun w =>
    let w := (w.barts.filter fun t => t.id == id && t.phase == q).foldl
      (fun w t => w.complete t.seq [RegWrite.ofP t.pred t.mask fun _ => false]) w
    let w := { w with barts := w.barts.filter fun t => !(t.id == id && t.phase == q) }
    match w.park with
    | some p =>
      if p.on = .bar id q then w.unpark coll gl (if coll then clk + 1 else w.lclk + 1)
      else if p.on = .arrive id ∧ SMap.get 0 w.barA id < q + 5 then w.unpark coll gl (if coll then clk + 1 else w.lclk)
      else w
    | none => w) s

/-- A warp's arrival at its present phase of a barrier, with a count and a clock (R271, R272). -/
def State.arrive (s : State) (h id cnt clk : Nat) : State :=
  let w := s.warpAt h
  let q := SMap.get 0 w.barA id
  let x := s.groupAt w.grp
  let b := SMap.get ⟨0, []⟩ x.bars id
  let ph := SMap.get ⟨0, cnt, 0⟩ b.opened q
  let ph := { ph with arrivals := ph.arrivals + 1, maxClk := max ph.maxClk clk }
  let s := s.setGroup w.grp { x with bars := SMap.put x.bars id { b with opened := SMap.put b.opened q ph } }
  s.setWarp h { w with barA := SMap.put w.barA id (q + 1), barMask := SMap.put w.barMask id 0 }

/-- The warps of a group whose pending arrival covers all their threads and whose phase is open to them (R271). -/
def State.pendingFull (s : State) (g id : Nat) : List Nat :=
  let b := SMap.get ⟨0, []⟩ (s.groupAt g).bars id
  (s.groupWarps g).filter fun h =>
    let w := s.warpAt h
    let m := SMap.get 0 w.barMask id
    m != 0 && (m ||| w.exited) == 0xFFFFFFFF && decide (SMap.get 0 w.barA id < b.done + 4)

/-- Complete every phase of a barrier that is full, in order (R272). -/
def State.barSettle (s : State) (g id : Nat) : Nat → State
  | 0 => s
  | fuel + 1 =>
    let s := (s.pendingFull g id).foldl (fun s h => s.arrive h id (SMap.get 0 (s.warpAt h).barCnt id) (s.warpAt h).exitClk) s
    let b := SMap.get ⟨0, []⟩ (s.groupAt g).bars id
    match SMap.find b.opened b.done with
    | none => s
    | some ph =>
      let (n, c) := s.goneAt g id b.done
      if ph.count ≤ ph.arrivals + n then (s.endPhase g id b.done (max ph.maxClk c)).barSettle g id fuel else s

/-- More phases than can be open at once. -/
def phaseFuel : Nat := 8

/-! ### gbar (R275) -/

/-- Whether a warp has arrived at the grid's phase: it is parked there, or it has exited. -/
def Warp.atGbar (w : Warp) : Bool := w.gone || w.ended || (match w.park with | some p => p.on == .grid | none => false)

/-- Complete the grid phase if every warp of the grid has arrived (R275, R306). -/
def State.gbarSettle (s : State) (grid : Nat) : State :=
  let x := s.gridAt grid
  let hs := (s.warps.filter fun e => (s.groupAt e.2.grp).grid == grid && e.2.kind == .normal).map Prod.fst
  if x.ranges.all (fun r => r.2.isEmpty) && hs.all (fun h => (s.warpAt h).atGbar) &&
      hs.any (fun h => match (s.warpAt h).park with | some p => p.on == .grid | none => false) then
    let clk := hs.foldl (fun c h => if (s.warpAt h).gone then max c (s.warpAt h).exitClk else c) x.gclk
    let s := s.setGrid grid { x with gphase := x.gphase + 1, gclk := 0 }
    hs.foldl (fun s h => s.modWarp h fun w =>
      let w := { w with gbarArr := 0, gbarWait := 0, gbarPc := [] }
      match w.park with
      | some p => if p.on = .grid then w.unpark x.ds.coll x.g (if x.ds.coll then clk + 1 else w.lclk) else w
      | none => w) s
  else s

/-! ### Exits (R75, R271) -/

/-- A barrier at which a warp has threads left to run, and at which its pending arrival covers all its threads but waits for its phase (R271). -/
def State.lateArrival (s : State) (h : Nat) : Option Nat :=
  let w := s.warpAt h
  if w.gone || w.park.isSome then none
  else (List.range 16).find? fun id =>
    let m := SMap.get 0 w.barMask id
    m != 0 && (m ||| w.exited) == 0xFFFFFFFF && decide ((SMap.get ⟨0, []⟩ (s.groupAt w.grp).bars id).done + 4 ≤ SMap.get 0 w.barA id)

/-- A warp parks outside a barrier instruction, and gives up its slot. -/
def State.parkAt (s : State) (h : Nat) (on : ParkOn) (clk : Nat) : State :=
  (s.modCore (s.warpAt h).core fun c => { c with slots := c.slots.filter (· != h) }).modWarp h fun w => { w with park := some ⟨on, clk, false⟩ }

/-- Exited threads count at the barriers: full pending masks arrive or wait for their phase, and a warp with no thread left has arrived at every phase;
a warp whose other threads all wait at gbar arrives there (R275). -/
def State.exitArrive (s : State) (h clk : Nat) : State :=
  let w := s.warpAt h
  let s := s.modWarp h fun w => { w with exitClk := clk, gone := w.gone || w.exited == 0xFFFFFFFF }
  let s := (List.range 16).foldl (fun s id => s.barSettle w.grp id phaseFuel) s
  let s := match s.lateArrival h with
    | some id => s.parkAt h (.arrive id) (s.warpAt h).lclk
    | none => s
  if !(s.gridAt (s.groupAt w.grp).grid).ds.persist then s
  else
    let grid := (s.groupAt w.grp).grid
    let s := if w.gbarWait ≠ 0 ∧ (w.gbarArr ||| w.exited) = 0xFFFFFFFF ∧ w.exited ≠ 0xFFFFFFFF ∧ (s.warpAt h).park.isNone then
        (s.parkAt h .grid clk).setGrid grid { s.gridAt grid with gclk := max (s.gridAt grid).gclk clk }
      else s
    s.gbarSettle grid

/-- Whether an exit may complete something at a barrier. -/
def Warp.exitMatters (w : Warp) : Bool := w.exited == 0xFFFFFFFF || w.gbarWait != 0 || w.barMask.any fun e => e.2 != 0

/-- After threads of the current warp exited at clock `clk`: in a domain the arrival that the exit makes waits for its key's turn (log 17). -/
def State.exited (s : State) (i : Instr) (clk : Nat) : State :=
  let w := s.w
  if !w.exitMatters then s
  else if s.collated then
    s.modDom s.grid.pk.domain fun d =>
      { d with reqs := d.reqs ++ [{ key := s.keyAt s.cur clk, warp := s.cur, grp := w.grp, seq := noSeq, instr := i, pc := w.runPc, act := w.active, regs := [], ops := [] }] }
  else s.exitArrive s.cur clk

/-! ### The instructions -/

/-- The count of an arrival (R272); none where it is illegal. -/
def State.barCount (s : State) (kcnt : Kr) : Option Nat :=
  let n := (s.w.rdK kcnt.toNat).toNat % 2 ^ 32
  if n = 0 then some (s.gridAt s.grp.grid).ds.allWarps else if n ≤ 64 then some n else none

/-- An arriving instruction (R271, R272): `k` goes on with the state after the strand has been added, and after the arrival if the warp arrives. Threads that are in the mask already
stay at the word; an arrival that must wait for its phase parks the warp before the word has any effect. -/
def State.barArriving (s : State) (i : Instr) (id : BitVec 4) (kcnt : Kr) (k : State → State) : State :=
  let b := SMap.get ⟨0, []⟩ s.grp.bars id.toNat
  let q := SMap.get 0 s.w.barA id.toNat
  let m := SMap.get 0 s.w.barMask id.toNat
  match s.barCount kcnt with
  | none => s.illegalOperand i 0x0B
  | some cnt =>
    let full := (m ||| s.w.active ||| s.w.exited) == 0xFFFFFFFF
    if s.w.active &&& ~~~m = 0 then s.yieldHere
    else if full && decide (b.done + 4 ≤ q) then
      (s.modW fun w => { w with park := some ⟨.arrive id.toNat, w.lclk, false⟩ }).yieldHere
    else
      let s := s.leaveLanes (m &&& s.w.active)
      if (match SMap.find b.opened q with | some ph => ph.count != cnt | none => false) then s.illegalOperand i 0x0B
      else
        let s := s.modW fun w =>
          { w with
            barMask := SMap.put w.barMask id.toNat (m ||| w.active)
            barCnt := SMap.put w.barCnt id.toNat cnt
            barLast := (lanesOf w.active).foldl (fun t l => SMap.put t (id.toNat * 32 + l) (q + 1)) w.barLast }
        k (if full then s.arrive s.cur id.toNat cnt s.w.lclk else s)

/-- The phase of the latest arrival of the executing threads, plus 1; 0 where none has arrived (R273). -/
def Warp.waitPhase (w : Warp) (id : Nat) : Nat := (lanesOf w.active).foldl (fun m l => max m (SMap.get 0 w.barLast (id * 32 + l))) 0

/-- A wait on a barrier by the current strand: at once, or parked with arrival clock LCLK (R273, R306). -/
def State.barWaiting (s : State) (i : Instr) (id : BitVec 4) : State :=
  let ph := s.w.waitPhase id.toNat
  if ph ≤ (SMap.get ⟨0, []⟩ s.grp.bars id.toNat).done then s.retire i
  else s.modW fun w =>
    { w with park := some ⟨.bar id.toNat (ph - 1), w.lclk, false⟩ }.retireTo s.collated s.g s.clk i.hdr i.words 0 fun _ => w.runPc + BitVec.ofNat 64 (4 * i.words)

/-- bar.sync (R271 to R273). -/
def execBarSync (h : Hdr) (id : BitVec 4) (kcnt : Kr) (scope : Scope) (s : State) : Out :=
  let i := Instr.barSync h id kcnt scope
  .next (s.barArriving i id kcnt fun s' => (s'.barWaiting i id).barSettle s.w.grp id.toNat phaseFuel)

/-- bar.arrive (R271, R272). -/
def execBarArrive (h : Hdr) (id : BitVec 4) (kcnt : Kr) (scope : Scope) (s : State) : Out :=
  let i := Instr.barArrive h id kcnt scope
  .next (s.barArriving i id kcnt fun s' => (s'.retire i).barSettle s.w.grp id.toNat phaseFuel)

/-- bar.wait (R273). -/
def execBarWait (h : Hdr) (id : BitVec 4) (scope : Scope) (s : State) : Out :=
  .next (s.barWaiting (.barWait h id scope) id)

/-- bart (R274, R276): it watches the phase bar.wait would wait for; in a domain it waits as bar.wait does and always writes 0. -/
def execBart (h : Hdr) (id : BitVec 4) (ktime : Kr) (scope : Scope) (p : Pr) (dc : Dc) (s : State) : Out :=
  let i := Instr.bart h id ktime scope p dc
  let w := s.w
  let ph := w.waitPhase id.toNat
  let limit := (w.rdK ktime.toNat).toNat
  let done := decide (ph ≤ (SMap.get ⟨0, []⟩ s.grp.bars id.toNat).done)
  let res (b : Bool) := RegWrite.ofP p.toNat w.active fun _ => b
  .next (
    if done then (s.modW fun w => w.count i.counter [.p p.toNat] true [res false]).retire i
    else
      let s := s.modW fun w => w.count i.counter [.p p.toNat] false []
      let watch : BartWatch := { seq := w.seqNo, dc := dc.toNat, id := id.toNat, phase := ph - 1, pred := p.toNat, mask := w.active, limit := limit, since := s.clk }
      if s.collated then (s.modW fun w => { w with barts := w.barts ++ [watch] }).barWaiting i id
      else if limit = 0 then (s.modW fun w => w.complete watch.seq [res true]).retire i
      else (s.modW fun w => { w with barts := w.barts ++ [watch] }).retire i)

/-- BART_TIMEOUT: the watch `seq` of a warp has run its time (R274). It is tried when nothing else is left to do in its clk, so that a completion in that clk wins. -/
def execBartTimeout (wp seq : Nat) (s : State) : Out :=
  .next (match (s.warpAt wp).barts.find? fun t => t.seq == seq with
    | none => s
    | some t =>
      if nsOf (s.clk - t.since) < t.limit ∨ s.groupColl (s.warpAt wp).grp then s
      else s.modWarp wp fun w =>
        { w.complete seq [RegWrite.ofP t.pred t.mask fun _ => true] with barts := w.barts.filter fun x => x.seq != seq })

/-- gbar (R275, R306): the strand waits; the warp parks when its last thread arrives. -/
def execGbar (h : Hdr) (s : State) : Out :=
  let i := Instr.gbar h
  let w := s.w
  .next (
    if !s.grid.ds.persist then s.illegalOperand i 0x0C
    else if s.grid.residFault then s.trapAll i 0x09 0 0
    else
      let s := s.setGrid s.grp.grid { s.grid with gclk := max s.grid.gclk w.lclk }
      let full := (w.gbarArr ||| w.active ||| w.exited) == 0xFFFFFFFF
      let s := s.modW fun w =>
        { w with
          gbarArr := w.gbarArr ||| w.active, gbarWait := w.gbarWait ||| w.active, endRun := true
          gbarPc := w.gbarPc ++ (lanesOf w.active).map fun l => (l, w.runPc)
          park := if full then some ⟨.grid, w.lclk, false⟩ else w.park }
      let s := s.modW fun w => w.retireTo s.collated s.g s.clk i.hdr i.words (if full && s.collated then 0 else i.weight) fun _ => w.runPc + BitVec.ofNat 64 (4 * i.words)
      s.gbarSettle s.grp.grid)

end Sys2Proof.Machine
end

