-- ==== Sys2Proof/Machine/Views.lean ====
section
/-! DEFINITION. What a warp's accesses see and change: memory, scratchpad, fold buffers and turn copies (R189, R194, R302 to R304, R312, R340). -/

namespace Sys2Proof.Machine

/-- The warp for which a lane acts: its origin's for a handler lane (R389), else its own. -/
def State.laneWarp (s : State) (l : Nat) : Nat :=
  match s.w.kind with
  | .handler => ((SMap.find s.w.origins l).map (·.warp)).getD s.cur
  | _ => s.cur

/-- Whether the current warp's grid is collated, whatever the kind of warp. -/
def State.inDomain (s : State) : Bool := s.grid.ds.coll

/-! ### Scratchpad -/

/-- The scratchpad of one side of a group. -/
def Group.side (g : Group) (twin : Bool) : Memory := if twin then g.spadF else g.spad

/-- Replace the scratchpad of one side. -/
def Group.setSide (g : Group) (twin : Bool) (m : Memory) : Group := if twin then { g with spadF := m } else { g with spad := m }

/-- The scratchpad turn copies of one side (R304). -/
def Group.turns (g : Group) (twin : Bool) : SMap Byte := if twin then g.spTurnF else g.spTurn

/-- Put a scratchpad turn copy. -/
def Group.putTurn (g : Group) (twin : Bool) (a : Nat) (b : Byte) : Group :=
  if twin then { g with spTurnF := SMap.put g.spTurnF a b } else { g with spTurn := SMap.put g.spTurn a b }

/-- Bytes of a group's scratchpad allocation (R189). -/
def State.splOf (s : State) (g : Nat) : Nat := (s.gridAt (s.groupAt g).grid).ds.spl

/-! ### Fold buffers (R302, R303) -/

/-- The byte a warp's fold buffer or spill area holds. -/
def Warp.foldByte (w : Warp) (spad : Bool) (va : Nat) : Option Byte :=
  (w.fold ++ w.spill).findSome? fun e => if e.spad == spad && e.addr == va / 32 then SMap.find e.bytes (va % 32) else none

/-- Put one byte into the fold buffer; a new entry beyond 128 moves the entry written least recently to the spill area (R303). -/
def Warp.foldPut (w : Warp) (spad : Bool) (va : Nat) (b : Byte) : Warp :=
  let is (e : FoldEntry) : Bool := e.spad == spad && e.addr == va / 32
  if w.spill.any is then
    { w with spill := w.spill.map fun e => if is e then { e with bytes := SMap.put e.bytes (va % 32) b } else e }
  else match w.fold.find? is with
    | some e => { w with fold := (w.fold.filter fun x => !is x) ++ [{ e with bytes := SMap.put e.bytes (va % 32) b }] }
    | none =>
      let e : FoldEntry := ⟨spad, va / 32, [(va % 32, b)], false⟩
      if w.fold.length < 128 then { w with fold := w.fold ++ [e] }
      else { w with fold := w.fold.drop 1 ++ [e], spill := w.spill ++ w.fold.take 1, spillCursor := w.spillCursor + 1 }

/-- The parts of a copy, each inside one sector of global memory: offset and length. -/
def copyPieces (glob len : Nat) : Nat → Nat → List (Nat × Nat)
  | 0, _ => []
  | fuel + 1, off =>
    if len ≤ off then []
    else
      let n := min (len - off) (32 - (glob + off) % 32)
      (off, n) :: copyPieces glob len fuel (off + n)

/-- Records a warp's fold-spill area holds (R303, Table 17.4). -/
def State.spillCap (s : State) : Nat := s.grid.pk.spillsz / 64

/-- Sectors that copies of the current warp have still to put into its fold buffer: pieces whose pages were not resident when they issued (R261). -/
def State.foldOwed (s : State) : List Nat :=
  s.groups.flatMap fun e => (e.2.chans ++ e.2.chansF).flatMap fun c => c.2.copies.flatMap fun x =>
    if x.warp == s.cur && x.s2g then ((copyPieces x.dst x.len (x.len / 32 + 2) 0).filter fun p => decide (x.at_ ≤ p.1) && !x.got.any fun g => g.1 == p.1).map fun p => (x.dst + p.1) / 32
    else []

/-- Whether a store to these sectors fits the fold buffer and the spill area (R303), beside what copies have still to put there. -/
def State.foldRoom (s : State) (spad : Bool) (secs : List Nat) : Bool :=
  let w := s.w
  let held (sp : Bool) (x : Nat) : Bool := (w.fold ++ w.spill).any fun e => e.spad == sp && e.addr == x
  let fresh := (secs.map (spad, ·) ++ s.foldOwed.map (false, ·)).eraseDups.filter fun x => !held x.1 x.2
  decide (w.fold.length + w.spill.length + fresh.length ≤ 128 + s.spillCap)

/-- Where the record of a slot of the current warp's fold-spill area lies (R303, R357). -/
def State.spillVa (s : State) (i : Nat) : Nat :=
  let pk := s.grid.pk
  let warps := s.grid.ds.warps
  pk.spill + (s.grp.gidx * 2 * warps + (if s.w.twin then warps else 0) + s.w.widx) * pk.spillsz + 64 * i

/-- The records of the current warp's spilled entries that differ from `old` are written, 64 bytes each; their layout is not in the spec, so the bytes are free values,
and a slot whose page cannot be written keeps what it holds (R303; log 19). -/
def State.spillRecords (s : State) (old : List FoldEntry) : State :=
  let pas := (List.range s.w.spill.length).filterMap fun i =>
    if s.w.spill[i]? = old[i]? then none
    else match s.walk s.ctxNo (s.spillVa i) with
      | .error _ => none
      | .ok x => if !pteP x.pte || !pteW x.pte || s.pageLost x || s.homeFailed (x.pa (s.spillVa i)) then none else some (x.pa (s.spillVa i))
  pas.foldl (fun s pa =>
    let bs := (List.range 64).map fun j => BitVec.ofNat 8 (Config.freeBits (s.freeCount + j))
    { s.writeThrough pa bs with freeCount := s.freeCount + 64 }) s

/-! ### Reading -/

/-- The byte a load of lane `l` of the current warp sees: a fold buffer's, a turn copy's for a surrender routine in a domain, else the published one (R302, R312, R340). -/
def State.see (s : State) (spad : Bool) (l va pa : Nat) : Byte :=
  let h := s.laneWarp l
  let w := s.warpAt h
  let g := s.groupAt w.grp
  let base := if spad then (g.side w.twin).read va else s.mem.read pa
  if !s.inDomain then base
  else match s.w.kind with
    | .surrender =>
      let t := if spad then g.turns w.twin else (s.domAt s.grid.pk.domain).turn
      (SMap.find t (if spad then va else pa)).getD base
    | _ => (w.foldByte spad va).getD base

/-- The `n` bytes from an address as a number. -/
def State.seeN (s : State) (spad : Bool) (l va pa n : Nat) : Nat :=
  ofBytes ((List.range n).map fun i => s.see spad l (va + i) (pa + i))

/-! ### Writing -/

/-- The sectors all of whose bytes some accesses (address, bytes) write. -/
def wholeSectors (accs : List (Nat × Nat)) : List Nat :=
  (sectorsOf accs).filter fun x => (secAddrs x).all fun b => accs.any fun a => decide (a.1 ≤ b) && decide (b < a.1 + a.2)

/-- Clear lost marks. -/
def State.clearLost (s : State) (secs : List Nat) : State := { s with lost := s.lost.filter fun x => !secs.contains x }

/-- A store of the current warp has written sectors whole: their lost marks are cleared with its bytes, in a domain when these are published (R230, R301, R304, R312). -/
def State.clearWhole (s : State) (l : Nat) (vas pas : List (Nat × Nat)) : State :=
  match s.w.kind, s.inDomain with
  | _, false => if s.lost.isEmpty then s else s.clearLost (wholeSectors pas)
  | .normal, true =>
    let xs := wholeSectors vas
    let mark (e : FoldEntry) : FoldEntry := if !e.spad && xs.contains e.addr then { e with whole := true } else e
    s.modW fun w => { w with fold := w.fold.map mark, spill := w.spill.map mark }
  | .handler, true => s.modWarp (s.laneWarp l) fun w => { w with handClr := w.handClr ++ wholeSectors pas }
  | .surrender, true => s.modDom s.grid.pk.domain fun d => { d with marksCleared := d.marksCleared ++ wholeSectors pas }

/-- One ordinary store of bytes by lane `l` of the current warp (R302, R312, R340), past the caches. -/
def State.storeAs (s : State) (spad : Bool) (l va pa : Nat) (bs : List Byte) : State :=
  let at_ := (List.range bs.length).zip bs
  match s.w.kind, s.inDomain with
  | .normal, true => s.modW fun w => at_.foldl (fun w b => w.foldPut spad (va + b.1) b.2) w
  | .handler, true => s.modWarp (s.laneWarp l) fun w => { w with handW := at_.foldl (fun m b => SMap.put m (pa + b.1) b.2) w.handW }
  | .surrender, true =>
    if spad then s.modGrp fun g => at_.foldl (fun g b => g.putTurn s.w.twin (va + b.1) b.2) g
    else s.modDom s.grid.pk.domain fun d => { d with turn := at_.foldl (fun m b => SMap.put m (pa + b.1) b.2) d.turn }
  | _, false =>
    if spad then
      let h := s.laneWarp l
      let w := s.warpAt h
      let g := s.groupAt w.grp
      s.setGroup w.grp (g.setSide w.twin ((g.side w.twin).writeN va bs))
    else { s with mem := s.mem.writeN pa bs }

/-- The stores of one instruction or copy piece of the current warp: lane, virtual and physical address, bytes, in the order given (R190, R194, R217). -/
def State.storeList (s : State) (spad : Bool) (core pc hint : Nat) (xs : List (Nat × Nat × Nat × List Byte)) : State :=
  let pas := xs.map fun x => (x.2.2.1, x.2.2.2.length)
  let s := if spad || s.inDomain then s else s.touchWrite core pc hint pas
  let s := (xs.foldl (fun s x => s.storeAs spad x.1 x.2.1 x.2.2.1 x.2.2.2) s).spillRecords s.w.spill
  if spad then s else s.clearWhole ((xs.head?.map Prod.fst).getD 0) (xs.map fun x => (x.2.1, x.2.2.2.length)) pas

/-! ### Ordered words (R304) -/

/-- The byte an atomic reads: the turn copy in a domain, else memory or scratchpad. -/
def State.wordByte (s : State) (spad : Bool) (va pa : Nat) : Byte :=
  let w := s.w
  let base := if spad then (s.grp.side w.twin).read va else s.mem.read pa
  if !s.inDomain then base
  else
    let t := if spad then s.grp.turns w.twin else (s.domAt s.grid.pk.domain).turn
    (SMap.find t (if spad then va else pa)).getD base

/-- The word an atomic reads. -/
def State.readWord (s : State) (spad : Bool) (va pa n : Nat) : Nat :=
  ofBytes ((List.range n).map fun i => s.wordByte spad (va + i) (pa + i))

/-- Whether an atomic of a scope performs at the home memory and not at a home slice: on a peer page, and at system scope on a host-tier or host-shared page (R228, R285, R287). -/
def State.outsideWord (s : State) (sc : Scope) (pa : Nat) : Bool :=
  match s.leafHere s.w.core pa with
  | some (_, x) => pteTier x.pte == 4 || (sc == .system && (pteTier x.pte == 0 || pteCc x.pte == 0))
  | none => false

/-- Write the word an atomic of a scope performs on. -/
def State.writeWord (s : State) (spad : Bool) (sc : Scope) (va pa n x : Nat) : State :=
  let bs := toBytes n x
  if s.inDomain then
    let at_ := (List.range n).zip bs
    if spad then s.modGrp fun g => at_.foldl (fun g b => g.putTurn s.w.twin (va + b.1) b.2) g
    else s.modDom s.grid.pk.domain fun d => { d with turn := at_.foldl (fun m b => SMap.put m (pa + b.1) b.2) d.turn }
  else if spad then s.modGrp fun g => g.setSide s.w.twin ((g.side s.w.twin).writeN va bs)
  else if s.outsideWord sc pa then s.writeThrough pa bs
  else { s with mem := s.mem.writeN pa bs }.touchHome (coreDie s.w.core) [(pa, n)]

end Sys2Proof.Machine
end

