-- ==== Sys2Proof/Machine/Perform.lean ====
section
/-! DEFINITION. How a request performs: loads, stores, atomics, unlocks, drains, zero-fills (R186, R190, R264, R266, R309, R174, R238), and the recall queue an access to another group's tile enters (R329). -/

namespace Sys2Proof.Machine

/-! ### Checking a lane (R187, R189) -/

/-- What the checks of an access come to in one lane: it may perform, its page is valid but not resident, or it has a cause. -/
inductive LaneRes where
  | ok (pa : Nat) (leaf : Option Leaf)
  | absent
  | bad (detail : Nat)
deriving DecidableEq, Repr

/-- Check a virtual access of `n` bytes. -/
def State.tryVa (s : State) (k : Acc) (n : Nat) (lost : Nat → Bool) (l ea : Nat) : LaneRes :=
  if ea % n ≠ 0 then .bad 0x01
  else match s.checkVa s.w.core l s.ctxNo ea k lost with
    | .ok x => .ok (x.pa ea) (some x)
    | .error d => if d = 0x07 then .absent else .bad d

/-- Check a scratchpad access of `n` bytes (R189). -/
def State.trySp (s : State) (n l ea : Nat) : LaneRes :=
  if ea % n ≠ 0 then .bad 0x01
  else if s.splOf (s.warpAt (s.laneWarp l)).grp < ea + n then .bad 0x02
  else .ok ea none

/-! ### Loads and stores -/

/-- An element of `n` bytes widened to `to` bits (R186). -/
def widen (sx : Bool) (n x to_ : Nat) : Nat := if sx then truncInt (sextInt x (8 * n)) to_ else x % 2 ^ to_

/-- The register results of a load for the accesses given (R186, R196): a probe miss gives zeros and a 1 in the probe predicate. -/
def State.loadWrites (s : State) (spad : Bool) (d n : Nat) (sx : Bool) (probe : Option Nat) (ops : List ReqOp) : List RegWrite :=
  let val (o : ReqOp) : Nat := if o.miss then 0 else s.seeN spad o.lane o.va o.pa n
  let reg (r : Nat) (f : Nat → Nat) : RegWrite := ⟨.v r, ops.map fun o => (o.lane, BitVec.ofNat 64 (f (val o)))⟩
  (if n = 8 then [reg d fun x => x % 2 ^ 32, reg (d + 1) fun x => x / 2 ^ 32] else [reg d fun x => widen sx n x 32]) ++
  (match probe with
   | some p => [⟨.p p, ops.map fun o => (o.lane, if o.miss then 1 else 0)⟩]
   | none => [])

/-- The address and size of each access that reaches memory. -/
def accsOf (n : Nat) (ops : List ReqOp) : List (Nat × Nat) := (ops.filter fun o => !o.miss).map fun o => (o.pa, n)

/-- A load's effect on the caches. -/
def State.touchLoads (s : State) (spad : Bool) (pc n hint : Nat) (ops : List ReqOp) : State :=
  if spad then s else s.touchRead s.w.core pc hint (accsOf n ops)

/-- The stores of an instruction, in ascending lane: a higher lane overwrites a lower (R190). -/
def State.storeOps (s : State) (spad : Bool) (pc n hint : Nat) (ops : List ReqOp) : State :=
  s.storeList spad s.w.core pc hint (ops.map fun o => (o.lane, o.va, o.pa, toBytes n ((o.vals.headD 0).toNat)))

/-! ### Atomics (R264) -/

/-- The new value of an atomic on a word of `n` bytes; none where it does not write (R264). -/
def atomNew (op : AtomOp) (n old v sw : Nat) : Option Nat :=
  let bits := 8 * n
  let lt (a b : Nat) : Bool := decide (sextInt a bits < sextInt b bits)
  match op with
  | .add => some ((old + v) % 2 ^ bits)
  | .minS => some (if lt v old then v else old)
  | .minN => some (min old v)
  | .maxS => some (if lt old v then v else old)
  | .maxN => some (max old v)
  | .and => some (old &&& v)
  | .or => some (old ||| v)
  | .xor => some (old ^^^ v)
  | .exch => some v
  | .cas => if old = v then some sw else none
  | .fadd => some (f32.add 0 old v).1
  | .fmin => some (f32.minMax false false old v).1
  | .fmax => some (f32.minMax false true old v).1

/-- A host-biased page that the accesses of the device reach flips first (R287). -/
def State.biasOps (s : State) (spad : Bool) (n : Nat) (ops : List ReqOp) : State := if spad then s else s.takeBias (accsOf n ops)

/-- Perform an atomic's accesses in ascending lane (R266): the state, and each lane's old value. In a domain one that does not write still creates the turn copy of its word (R304). -/
def State.atomOps (s : State) (spad : Bool) (sc : Scope) (op : AtomOp) (n : Nat) (ops : List ReqOp) : State × List (Nat × Nat) :=
  ops.foldl (fun (acc : State × List (Nat × Nat)) o =>
    let s := acc.1
    let old := s.readWord spad o.va o.pa n
    let s := match atomNew op n old ((o.vals.headD 0).toNat) ((o.vals.getD 1 0).toNat) with
      | some x => s.writeWord spad sc o.va o.pa n x
      | none => if s.inDomain then s.writeWord spad sc o.va o.pa n old else s
    (s, acc.2 ++ [(o.lane, old)])) (s.biasOps spad n ops, [])

/-- The register results of atom and atoms (R186, R266). -/
def atomWrites (d n : Nat) (olds : List (Nat × Nat)) : List RegWrite :=
  let reg (r : Nat) (f : Nat → Nat) : RegWrite := ⟨.v r, olds.map fun o => (o.1, BitVec.ofNat 64 (f o.2))⟩
  if n = 8 then [reg d fun x => x % 2 ^ 32, reg (d + 1) fun x => x / 2 ^ 32] else [reg d id]

/-! ### unlock (R309, R311) -/

/-- Perform an unlock: the word is freed if it holds the owner value, with a release record in a domain; `p` in the lanes of the issue. In a domain it leaves a turn copy either way (R304). -/
def State.unlockOp (s : State) (r : OrdReq) (sc : Scope) (p : Nat) (o : ReqOp) : State × List RegWrite :=
  let s := s.biasOps false 8 [o]
  let own := (o.vals.headD 0).toNat
  let mask : Word := (o.vals.getD 1 0).truncate 32
  let old := s.readWord false o.va o.pa 8
  let ok := old == own
  let s' := if ok then s.writeWord false sc o.va o.pa 8 0 else if s.inDomain then s.writeWord false sc o.va o.pa 8 old else s
  let s' := if ok && s.inDomain then
      let g := s.grid.g
      s'.modDom s.grid.pk.domain fun d => { d with rels := d.rels ++ [{ addr := o.pa, key := r.key, wave := r.key.wave, bound := (r.key.clk / g + 1) * g }] }
    else s'
  (s', [RegWrite.ofP p mask fun _ => ok])

/-! ### Taking a lock (R309, R311) -/

/-- Whether a release record of another warp holds a lock word back (R311). -/
def State.heldBack (s : State) (pa : Nat) : Bool :=
  s.collated && (s.domAt s.grid.pk.domain).rels.any fun r =>
    let k := s.keyAt s.cur 0
    r.addr == pa && !(r.key.serial == k.serial && r.key.gidx == k.gidx && r.key.widx == k.widx)

/-- Whether the lock word at `pa` is free for the current warp (R309). -/
def State.lockFree (s : State) (pa : Nat) : Bool := s.readWord false pa pa 8 == 0 && !s.heldBack pa

/-- An attempt on a lock word: the state, and whether the word is taken now. A failing one leaves a turn copy in a domain (R304). -/
def State.lockOp (s : State) (sc : Scope) (o : ReqOp) : State × Bool :=
  let s := s.biasOps false 8 [o]
  if s.lockFree o.pa then (s.writeWord false sc o.va o.pa 8 ((o.vals.headD 0).toNat), true)
  else (if s.inDomain then s.writeWord false sc o.va o.pa 8 (s.readWord false o.va o.pa 8) else s, false)

/-! ### Zero fill (R238) -/

/-- Set the sectors of [pa, pa + len) to zero at home memory, drop every copy, clear their lost marks; in a domain, on turn copies until publication (R304). -/
def State.zeroFill (s : State) (pa len : Nat) : State :=
  let secs := (List.range (len / 32)).map (pa / 32 + ·)
  if s.inDomain then
    (s.takeBias [(pa, len)]).modDom s.grid.pk.domain fun d =>
      { d with
        turn := (List.range len).foldl (fun m i => SMap.put m (pa + i) 0) d.turn
        marksCleared := d.marksCleared ++ secs }
  else
    (s.writeThrough pa (List.replicate len 0)).clearLost secs

/-! ### Drains (R174) -/

/-- One add-on-store over its whole region: every element becomes round_f32(dest + element) in one step. -/
def State.addOps (s : State) (spad : Bool) (ops : List ReqOp) : State :=
  ops.foldl (fun s o => s.writeWord spad .device o.va o.pa 4 (f32.add 0 (s.readWord spad o.va o.pa 4) ((o.vals.headD 0).toNat)).1) (s.biasOps spad 4 ops)

/-! ### Tiles in the way (R329) -/

/-- The tile of another group that holds the frame of an address. -/
def State.tileOver (s : State) (grp pa : Nat) : Option Nat :=
  (s.tiles.find? fun e => e.2.hold.grp != grp && e.2.frames.contains (pa / 2048)).map Prod.fst

/-- A tile of another group that holds a frame of one of the addresses given. -/
def State.tileBlocks (s : State) (grp : Nat) (pas : List Nat) : Option Nat := pas.findSome? (s.tileOver grp)

/-- Whether an access of a surrender routine reaches a frame of a negotiated tile other than its own (R331). -/
def State.strays (s : State) (pas : List Nat) : Bool :=
  s.w.kind == .surrender && s.tiles.any fun e => e.1 != s.w.tile && pas.any fun pa => e.2.frames.contains (pa / 2048)

/-- Put a request at the end of a tile's recall queue. -/
def State.queueAtTile (s : State) (t : Nat) (r : OrdReq) : State := s.modTile t fun e => { e with queue := e.queue ++ [.access r] }

/-- Whether an engine's request for an instruction of a warp waits in a recall queue already. -/
def State.queuedAtTile (s : State) (h : Nat) (i : Instr) : Bool :=
  s.tiles.any fun e => e.2.queue.any fun q => match q with
    | .access r => r.warp == h && r.instr == i
    | .claim _ => false

/-- Whether accesses reach another group's tile whose recall queue is full: the core retries them (R329). -/
def State.tileFull (s : State) (grp : Nat) (pas : List Nat) : Bool :=
  !s.inDomain && pas.any fun pa => match s.tileOver grp pa with
    | some t => match SMap.find s.tiles t with
      | some e => decide (16 ≤ e.queue.length)
      | none => false
    | none => false

/-! ### What a warp has issued and not performed (R194, R242, R268, R273, R280) -/

/-- The accesses of a warp of an open grid that wait: in recall queues (R329), and add-on-stores still to be applied (R174). -/
def State.openReqs (s : State) (h : Nat) : List OrdReq :=
  (s.tiles.flatMap fun e => e.2.queue.filterMap fun q => match q with
    | .access r => if r.warp = h then some r else none
    | .claim _ => none) ++ s.adds.filter fun r => r.warp == h

/-- The bytes of one element of an access. -/
def accBytes : Instr → Nat
  | .ld _ _ _ _ sz => sz.bytes
  | .st _ _ _ _ sz => sz.bytes
  | .ldl _ _ _ _ sz _ _ _ _ _ _ => sz.bytes
  | .stl _ _ _ _ sz _ _ _ _ => sz.bytes
  | .ldk _ _ _ _ sz _ _ => sz.bytes
  | .stk _ _ _ sz _ _ => sz.bytes
  | .atom _ _ _ _ sz _ _ _ _ _ _ => sz.bytes
  | .red _ _ _ sz _ _ _ _ _ _ => sz.bytes
  | .mdrn _ _ _ _ _ _ ety _ _ _ => if ety = .f32 then 4 else 2
  | .copyDelivery _ _ _ => 32
  | _ => 8

/-- Whether a request is a zero fill (R238). -/
def OrdReq.zeroes (r : OrdReq) : Bool :=
  match r.instr with
  | .cinv _ _ _ _ _ _ _ => true
  | _ => false

/-- The bytes one access of a request touches. -/
def OrdReq.bytes (r : OrdReq) (o : ReqOp) : Nat := if r.zeroes then (o.vals.headD 0).toNat else accBytes r.instr

/-- Whether an access is one to the scratchpad. -/
def onPad : Instr → Bool
  | .lds _ _ _ _ _ => true
  | .sts _ _ _ _ _ => true
  | .atoms _ _ _ _ _ _ _ _ _ _ _ => true
  | .mdrn _ _ spad _ _ _ _ _ _ _ => spad
  | _ => false

/-- Whether an access of the current warp, at virtual and physical addresses, meets bytes that an earlier access of it, which has still to perform, touches: they perform in program order (R194). -/
def State.meetsOpen (s : State) (spad : Bool) (n : Nat) (as : List (Nat × Nat)) : Bool :=
  ((s.openReqs s.cur).filter fun r => onPad r.instr == spad && decide (r.seq < noSeq)).any fun r => (r.ops.filter fun o => !o.miss).any fun o =>
    let m := r.bytes o
    as.any fun a => (decide (a.1 < o.va + m) && decide (o.va < a.1 + n)) || (decide (a.2 < o.pa + m) && decide (o.pa < a.2 + n))

/-- Whether a word waits until the warp's earlier accesses have performed: one that orders them, or, while an acquire of the warp has still to perform, any that makes accesses (R280, R282). -/
def State.ordersWait (s : State) (i : Instr) : Bool :=
  let rs := s.openReqs s.cur
  (i.orders && !rs.isEmpty) || (i.accesses && rs.any fun r => r.instr.acquires)

/-! ### Copies (R249 to R254, R261) -/

/-- A channel of a side of a group. -/
def Group.chan (g : Group) (side : Bool) (c : Nat) : Chan := SMap.get Chan.empty (if side then g.chansF else g.chans) c

/-- Replace a channel. -/
def Group.setChan (g : Group) (side : Bool) (c : Nat) (x : Chan) : Group :=
  if side then { g with chansF := SMap.put g.chansF c x } else { g with chans := SMap.put g.chans c x }

/-- Every channel of every group. -/
def State.allChans (s : State) : List Chan := s.groups.flatMap fun e => (e.2.chans ++ e.2.chansF).map (·.2)

/-- The core of a side of a group. -/
def Group.coreOf (g : Group) (side : Bool) : Nat := if side then g.follower.getD g.core else g.core

/-- The warp that issued a copy is told once no receiver still has a part of it to deliver (R251). -/
def State.copyDone (s : State) (cp : Copy) : State :=
  if s.allChans.any fun c => c.copies.any fun x => x.warp == cp.warp && x.seq == cp.seq then s
  else s.modWarp cp.warp fun w => w.complete cp.seq []

/-- Whether a copy may touch `n` bytes of global memory at an address (R251).
DESIGN CHOICE (log 84): a write that covers only part of a lost sector stops the channel with detail 0x0A; R230 does not name one. -/
def State.copyLeaf (s : State) (core ctx glob n : Nat) (s2g : Bool) : Except Nat Leaf :=
  s.checkVa core 0 ctx glob (if s2g then .store else .load) fun pa => s.meetsLost pa n && (!s2g || decide (n < 32))

/-- The parts of a whole copy. -/
def Copy.pieces (cp : Copy) : List (Nat × Nat) := copyPieces (if cp.s2g then cp.dst else cp.src) cp.len (cp.len / 32 + 2) 0

/-- A copy of a domain when it issues (R261): the parts whose page lets it now are read as memory stands, and one to global memory puts them into the warp's fold buffer. -/
def State.copyNow (s : State) (cp : Copy) : State × Copy :=
  if !s.inDomain then (s, cp)
  else
    cp.pieces.foldl (fun (r : State × Copy) p =>
      let s := r.1
      let glob := (if cp.s2g then cp.dst else cp.src) + p.1
      match s.copyLeaf s.w.core s.ctxNo glob p.2 cp.s2g with
      | .error _ => r
      | .ok x =>
        let bytes := if cp.s2g then (s.grp.side s.w.twin).readN (cp.src + p.1) p.2 else s.mem.readN (x.pa glob) p.2
        (if cp.s2g then s.storeList false s.w.core 0 0 [(0, glob, x.pa glob, bytes)] else s, { r.2 with got := r.2.got ++ [(p.1, bytes)] })) (s, cp)

/-- The state after a part of a channel's first copy has been moved: the pointer moves, and the warp is told at the end. -/
def State.copyMoved (s : State) (grp : Nat) (side : Bool) (ch n : Nat) : State :=
  let g := s.groupAt grp
  let c := g.chan side ch
  match c.copies with
  | [] => s
  | cp :: rest =>
    let left := if cp.len ≤ cp.at_ + n then rest else { cp with at_ := cp.at_ + n } :: rest
    let s := s.setGroup grp (g.setChan side ch { c with wp := c.wp + n, copies := left })
    if cp.len ≤ cp.at_ + n then s.copyDone cp else s

/-- The next piece of a channel's first copy, at most a sector of global memory, is delivered, or the channel waits or stops (R249, R251, R253).
`pass` says that the piece has been let through to another group's tile. It acts for the warp that issued the copy. -/
def State.copyPiece (s : State) (grp : Nat) (side : Bool) (ch : Nat) (pass : Bool) : State :=
  let g := s.groupAt grp
  let c := g.chan side ch
  match c.copies with
  | [] => s
  | cp :: _ =>
    if c.fault.isSome then s
    else
      let glob := (if cp.s2g then cp.dst else cp.src) + cp.at_
      let sp := (if cp.s2g then cp.src else cp.dst) + cp.at_
      let n := min (cp.len - cp.at_) (32 - glob % 32)
      let ctx := (s.gridAt g.grid).ctx
      match cp.got.find? fun e => e.1 == cp.at_ with
      | some e => (if cp.s2g then s else s.setGroup grp (g.setSide side ((g.side side).writeN sp e.2))).copyMoved grp side ch n
      | none =>
      match s.copyLeaf (g.coreOf side) ctx glob n cp.s2g with
      | .error 0x07 => s.requestPage ctx glob
      | .error d => s.setGroup grp (g.setChan side ch { c with fault := some (d, glob) })
      | .ok x =>
        let pa := x.pa glob
        let i := Instr.copyDelivery grp (if side then 1 else 0) ch
        match (if pass || (s.gridAt g.grid).ds.coll then none else s.tileBlocks grp [pa]) with
        | some t =>
          if s.tileFull grp [pa] then s
          else if s.queuedAtTile cp.warp i then s
          else s.queueAtTile t { key := s.keyAt cp.warp 0, warp := cp.warp, grp := grp, seq := noSeq, instr := i, pc := 0, act := 0, regs := [], ops := [⟨0, glob, pa, [], false⟩] }
        | none =>
          let s :=
            if cp.s2g then s.storeList false (g.coreOf side) 0 0 [(0, glob, pa, (g.side side).readN sp n)]
            else (s.setGroup grp (g.setSide side ((g.side side).writeN sp (s.mem.readN pa n)))).touchRead (g.coreOf side) 0 0 [(pa, n)]
          s.copyMoved grp side ch n

/-- A piece of a copy, for the warp that issued it. -/
def State.copyAs (s : State) (grp : Nat) (side : Bool) (ch : Nat) (pass : Bool) : State :=
  match ((s.groupAt grp).chan side ch).copies with
  | [] => s
  | cp :: _ => s.withWarp cp.warp fun s => s.copyPiece grp side ch pass

/-- What a copy of a domain has still to read, on pages that let it, is read before the next publication (R261). -/
def State.copyCatch (s : State) (dom : Nat) : State :=
  let gs := (s.domAt dom).grids
  let copy (core ctx : Nat) (cp : Copy) : Copy :=
    if cp.s2g then cp
    else { cp with got := cp.got ++ (cp.pieces.filter fun p => !cp.got.any fun e => e.1 == p.1).filterMap fun p =>
      match s.copyLeaf core ctx (cp.src + p.1) p.2 false with
      | .ok x => some (p.1, s.mem.readN (x.pa (cp.src + p.1)) p.2)
      | .error _ => none }
  { s with groups := s.groups.map fun (e : Nat × Group) =>
      if !gs.contains e.2.grid then e
      else
        let side (b : Bool) (cs : SMap Chan) : SMap Chan :=
          cs.map fun c => (c.1, { c.2 with copies := c.2.copies.map (copy (e.2.coreOf b) (s.gridAt e.2.grid).ctx) })
        (e.1, { e.2 with chans := side false e.2.chans, chansF := side true e.2.chansF }) }

/-! ### Slice loads (R241, R242, R261) -/

/-- Change the slice of the current warp. -/
def State.modSlice (s : State) (f : Slice → Slice) : State := s.modW fun w => { w with slice := f w.slice }

/-- k register `r` of the slice uniform file. -/
def Slice.rdK (x : Slice) (r : Kr) : DWord := if r = 0 then 0 else SMap.get 0 x.k r.toNat

/-- A result of the slice, and the next slice word. -/
def State.sliceNext (s : State) (i : Instr) (res : Option (Kr × DWord)) : State :=
  s.modSlice fun x =>
    { x with
      pc := x.pc + BitVec.ofNat 64 (4 * i.words)
      k := match res with
        | some (r, v) => if r = 0 then x.k else SMap.put x.k r.toNat v
        | none => x.k }

/-- The slice loads issued for a queue and the entries it holds. -/
def Warp.queueLoad (w : Warp) (q : Nat) : Nat := (SMap.get [] w.queues q).length + (w.slice.issued.filter fun e => e.q == q).length

/-- The number under which a load of a slice stands among incomplete instructions: none that is counted has it. -/
def sliceSeq (n : Nat) : Nat := noSeq + 1 + n

/-- Whether a slice load of the current warp waits in a recall queue, or to enter one. -/
def State.sliceWaits (s : State) : Bool :=
  (s.openReqs s.cur).any fun r => match r.instr with
    | .sliceLdl _ _ _ _ _ _ _ _ => true
    | _ => false

/-- Loads of the slice of warp `h` that wait are taken back: the slice runs no more from there (R247). -/
def State.dropSliceLoads (s : State) (h : Nat) : State :=
  let keep (r : OrdReq) : Bool := !(r.warp == h && (match r.instr with
    | .sliceLdl _ _ _ _ _ _ _ _ => true
    | _ => false))
  let s := { s with adds := s.adds.filter keep }
  s.tiles.foldl (fun s e => s.modTile e.1 fun e => { e with queue := e.queue.filter fun q => match q with
    | .access r => keep r
    | .claim _ => true }) s

/-- One lane of a slice load: read (its value stands in `vals`), faulted (`miss`, with its detail), or left as it is while its frame belongs to a tile of another group. -/
def State.sliceLane (s : State) (n : Nat) (sx : Bool) (o : ReqOp) : ReqOp :=
  if o.miss || !o.vals.isEmpty then o
  else match s.tryVa .load n (fun pa => s.meetsLost pa n) o.lane o.va with
    | .ok pa _ =>
      if !s.inDomain && (s.tileOver s.w.grp pa).isSome then { o with pa := pa }
      else { o with pa := pa, vals := [BitVec.ofNat 64 (widen sx n (ofBytes (s.mem.readN pa n)) 32)] }
    | .absent => { o with miss := true, vals := [0x07] }
    | .bad c => { o with miss := true, vals := [BitVec.ofNat 64 c] }

/-- A slice load that stands at `ops` goes on (R241, R329): each lane is read once, those at tiles of other groups as these let it through; then the load has issued. -/
def State.sliceGo (s : State) (i : Instr) (ops : List ReqOp) : State :=
  match i with
  | .sliceLdl _ d _ _ size _ hint sx =>
    let n := size.bytes
    let x := s.w.slice
    let ops' := ops.map (s.sliceLane n sx)
    let fresh := (ops.zip ops').filterMap fun p => if p.1.vals.isEmpty && !p.2.miss && !p.2.vals.isEmpty then some p.2 else none
    let s := fresh.foldl (fun s o => match s.tryVa .load n (fun pa => s.meetsLost pa n) o.lane o.va with
      | .ok _ (some lf) => s.holdLeaf s.w.core o.lane s.ctxNo lf
      | _ => s) s
    let s := s.touchRead s.w.core x.pc.toNat hint.toNat (fresh.map fun o => (o.pa, n))
    match ops'.find? fun o => !o.miss && o.vals.isEmpty with
    | some o =>
      let r : OrdReq := { key := s.keyAt s.cur 0, warp := s.cur, grp := s.w.grp, seq := sliceSeq x.loads, instr := i, pc := x.pc, act := 0, regs := [], ops := ops' }
      match s.tileOver s.w.grp o.pa with
      | some t => if s.tileFull s.w.grp [o.pa] then { s with adds := s.adds ++ [r] } else s.queueAtTile t r
      | none => s
    | none =>
      let val (o : ReqOp) : Nat := (o.vals.headD 0).toNat
      let e : QEntry :=
        { q := d.toNat - 56
          vals := ops'.map fun o => if o.miss then 0 else BitVec.ofNat 32 (val o)
          causes := ops'.filterMap fun o => if o.miss then some (o.lane, val o, o.va) else none
          pc := x.pc, kfile := x.k, effs := x.effs - x.skip, gather := s.w.gathering s.g, ord := x.loads }
      s.modSlice fun x => { x with issued := x.issued ++ [e], loads := x.loads + 1, pc := x.pc + BitVec.ofNat 64 (4 * i.words) }
  | _ => s

/-- A slice ldl issues and reads its 32 elements (R241), or waits for its queue, a page of a domain, or a tile of another group (R329). -/
def State.sliceLoad (s : State) (i : Instr) : State :=
  match i with
  | .sliceLdl _ d kbase kstride size imm _ _ =>
    let x := s.w.slice
    if x.st ≠ .running ∨ x.stopping ∨ 8 ≤ x.issued.length ∨ 32 ≤ s.w.queueLoad (d.toNat - 56) ∨ s.sliceWaits then s
    else
      let n := size.bytes
      let ea (l : Nat) : Nat := truncInt (((x.rdK kbase).toNat : Int) + l * (x.rdK kstride).toNat + imm.toInt) 64
      let absent := if !s.inDomain then [] else lanes.filter fun l => s.tryVa .load n (fun pa => s.meetsLost pa n) l (ea l) == .absent
      if !absent.isEmpty then absent.foldl (fun s l => s.requestPage s.ctxNo (ea l)) s
      else s.sliceGo i (lanes.map fun l => ⟨l, ea l, 0, [], false⟩)
  | _ => s

/-- A slice load that waited is let through, while its slice still stands at it. -/
def State.sliceServe (s : State) (r : OrdReq) : State :=
  let x := s.w.slice
  if x.st = .running ∧ !x.stopping ∧ x.pc = r.pc ∧ r.seq = sliceSeq x.loads then s.sliceGo r.instr r.ops else s

/-! ### Performing a request -/

/-- Perform a request of the current warp: the state, and the results for its registers. -/
def State.performHere (s : State) (r : OrdReq) : State × List RegWrite :=
  let pc := r.pc.toNat
  let load (spad : Bool) (d n : Nat) (sx : Bool) (probe : Option Nat) (hint : Nat) : State × List RegWrite :=
    (s.touchLoads spad pc n hint r.ops, s.loadWrites spad d n sx probe r.ops)
  match r.instr with
  | .ld _ d _ _ sz => load false d.toNat sz.bytes false none 0
  | .lds _ d _ _ sz => load true d.toNat sz.bytes false none 0
  | .ldl _ d _ _ sz _ _ probe hint _ sx => load false d.toNat sz.bytes sx (if probe = 62 then none else some probe.toNat) hint.toNat
  | .ldk _ kd _ sx sz _ _ =>
    match r.ops with
    | o :: _ => (s.touchLoads false pc sz.bytes 0 r.ops, [RegWrite.ofK kd.toNat (BitVec.ofNat 64 (widen sx sz.bytes (s.seeN false o.lane o.va o.pa sz.bytes) 64))])
    | [] => (s, [])
  | .st _ _ _ _ sz => (s.storeOps false pc sz.bytes 0 r.ops, [])
  | .sts _ _ _ _ sz => (s.storeOps true pc sz.bytes 0 r.ops, [])
  | .stl _ _ _ _ sz _ _ hint _ => (s.storeOps false pc sz.bytes hint.toNat r.ops, [])
  | .stk _ _ _ sz _ _ => (s.storeOps false pc sz.bytes 0 r.ops, [])
  | .atom _ d _ _ sz _ op _ sc _ _ =>
    let (s', olds) := s.atomOps false sc op sz.bytes r.ops
    (s', atomWrites d.toNat sz.bytes olds)
  | .red _ _ _ sz _ op _ sc _ _ => ((s.atomOps false sc op sz.bytes r.ops).1, [])
  | .atoms _ d _ _ sz _ op _ sc _ _ =>
    let (s', olds) := s.atomOps true sc op sz.bytes r.ops
    (s', atomWrites d.toNat sz.bytes olds)
  | .unlock _ p _ _ _ _ sc =>
    match r.ops with
    | o :: _ => s.unlockOp r sc p.toNat o
    | [] => (s, [])
  | .mdrn _ _ spad _ _ add ety _ _ _ =>
    if add then (s.addOps spad r.ops, []) else (s.storeOps spad pc (if ety = .f32 then 4 else 2) 0 r.ops, [])
  | .cinv _ _ _ _ _ _ _ => (r.ops.foldl (fun s o => s.zeroFill o.pa ((o.vals.headD 0).toNat)) s, [])
  | .exit _ => (s.exitArrive r.warp r.key.clk, [])
  | .copyDelivery g side c => (s.copyAs g (side != 0) c true, [])
  | .sliceLdl _ _ _ _ _ _ _ _ => (s.sliceServe r, [])
  | .lock _ _ _ _ _ sc =>
    match r.ops with
    | o :: _ =>
      let (s, ok) := s.lockOp sc o
      (if ok then s.modW fun w => { w with gotLock := true } else s, [])
    | [] => (s, [])
  | .lockTry _ p _ _ _ _ sc =>
    match r.ops with
    | o :: _ =>
      let (s, ok) := s.lockOp sc o
      (s, [RegWrite.ofP p.toNat r.act fun _ => ok])
    | [] => (s, [])
  | _ => (s, [])

/-- Results of a part of a request; its instruction completes with the last part (R61). -/
def State.finish (s : State) (r : OrdReq) (ws : List RegWrite) : State :=
  s.modWarp r.warp fun w => if (s.openReqs r.warp).any fun x => x.seq == r.seq then w.addResults r.seq ws else w.complete r.seq ws

/-- Perform a request for the warp that made it. -/
def State.perform (s : State) (r : OrdReq) : State :=
  s.withWarp r.warp fun s =>
    let (s', ws) := s.performHere r
    s'.finish r ws

/-! ### Serving a request (R298, R329) -/

/-- The physical address of one access of a request, where it is one that meets tiles: R329 names no zero fill, which performs at home memory whatever tile holds its frames (log 83). -/
def OrdReq.paOf (r : OrdReq) (o : ReqOp) : Option Nat :=
  match r.instr with
  | .cinv _ _ _ _ _ _ _ => none
  | .lds _ _ _ _ _ => none
  | .sts _ _ _ _ _ => none
  | .atoms _ _ _ _ _ _ _ _ _ _ _ => none
  | .exit _ => none
  | .copyDelivery _ _ _ => none
  | .sliceLdl _ _ _ _ _ _ _ _ => none
  | .mdrn _ _ spad _ _ _ _ _ _ _ => if spad then none else some o.pa
  | _ => if o.miss then none else some o.pa

/-- Whether a request performs in one step over all that it touches (R174). -/
def OrdReq.whole (r : OrdReq) : Bool :=
  match r.instr with
  | .mdrn _ _ _ _ _ add _ _ _ _ => add
  | _ => false

/-- Serve a request: what of it reaches no tile of another group performs, and in an open grid the rest waits in the recall queue of the tile it reaches, tile by tile.
An add-on-store waits whole. -/
def State.serve (s : State) (r : OrdReq) : State :=
  let ownerOf (o : ReqOp) : Option Nat := (r.paOf o).bind (s.tileOver r.grp)
  let ts := (r.ops.filterMap ownerOf).eraseDups
  if s.inDomain then s.perform r
  else match ts with
    | [] => s.perform r
    | t :: _ =>
      if r.whole then s.queueAtTile t r
      else
        let free := r.ops.filter fun o => (ownerOf o).isNone
        let s := ts.foldl (fun s t => s.queueAtTile t { r with ops := r.ops.filter fun o => ownerOf o == some t }) s
        if free.isEmpty then s else s.perform { r with ops := free }

/-! ### A request that has waited (R206) -/

/-- What a request's accesses are checked as (R187). -/
def accOf : Instr → Acc
  | .st _ _ _ _ _ => .store
  | .stl _ _ _ _ _ _ _ _ _ => .store
  | .stk _ _ _ _ _ _ => .store
  | .cinv _ _ _ _ _ _ _ => .store
  | .mdrn _ _ _ _ _ add _ _ _ _ => if add then .atomic .device else .store
  | .atom _ _ _ _ _ _ _ _ sc _ _ => .atomic sc
  | .red _ _ _ _ _ _ _ sc _ _ => .atomic sc
  | .unlock _ _ _ _ _ _ sc => .atomic sc
  | .lock _ _ _ _ _ sc => .atomic sc
  | .lockTry _ _ _ _ _ _ sc => .atomic sc
  | _ => .load

/-- Whether a cause stops every lane that issued the instruction (R188, R236, R309). -/
def causeUniform : Instr → Bool
  | .ldk _ _ _ _ _ _ _ => true
  | .stk _ _ _ _ _ _ => true
  | .mdrn _ _ _ _ _ _ _ _ _ _ => true
  | .cinv _ _ _ _ _ _ _ => true
  | .unlock _ _ _ _ _ _ _ => true
  | .lock _ _ _ _ _ _ => true
  | .lockTry _ _ _ _ _ _ _ => true
  | _ => false

/-- Whether an instruction probes (R196). -/
def probes : Instr → Bool
  | .ldl _ _ _ _ _ _ _ probe _ _ _ => probe != 62
  | _ => false

/-- One access of a waiting request translated and checked again when it is to perform: the access, and the condition of Table 8.3 it meets now (R206, R230). -/
def State.againOp (s : State) (r : OrdReq) (o : ReqOp) : ReqOp × Option Nat :=
  let n := accBytes r.instr
  let whole : Bool := (secAddrs (o.va / 32)).all fun b => r.ops.any fun x => decide (x.va ≤ b) && decide (b < x.va + n)
  let lost (pa : Nat) : Bool := !r.zeroes && s.meetsLost pa n && !(accOf r.instr == .store && whole)
  if (r.paOf o).isNone && !r.zeroes then (o, none)
  else match s.checkVa (s.warpAt r.warp).core o.lane (s.gridAt (s.groupAt r.grp).grid).ctx o.va (accOf r.instr) lost with
    | .ok x => ({ o with pa := x.pa o.va }, none)
    | .error d => if d == 7 && probes r.instr then ({ o with miss := true }, none) else (o, some d)

/-- A stop takes its place among those of a warp: in the issue order of the words, and by lane within one word (R409). -/
def insertStop (t : Stop) : List Stop → List Stop
  | [] => [t]
  | x :: rest => if t.seq < x.seq ∨ (t.seq = x.seq ∧ t.pc = x.pc ∧ t.lane < x.lane) then t :: x :: rest else x :: insertStop t rest

/-- Threads stop at the instruction of a waiting request that has met a condition of Table 8.3 (R206); after its return a thread goes on from where it stands (log 7). -/
def Warp.lateStop (w : Warp) (r : OrdReq) (bad : List (ReqOp × Nat)) : Warp :=
  match bad with
  | [] => w
  | b :: _ =>
    let all := causeUniform r.instr
    let ls := (if all then lanesOf r.act else (bad.map fun x => x.1.lane).eraseDups).filter w.live.getLsbD
    let here (l : Nat) : DWord := if w.inRun && w.active.getLsbD l then w.runPc else SMap.get 0 w.pcs l
    let of (l : Nat) : ReqOp × Nat := if all then b else (bad.find? fun x => x.1.lane == l).getD b
    let late (l : Nat) : Option OrdReq :=
      if all then (if some l == ls.head? then some r else none) else some { r with ops := r.ops.filter fun o => o.lane == l }
    let stops := ls.map fun l => (
      { lane := l, cause := 0x04, detail := (of l).2, pc := r.pc, resume := here l, skip := here l, ea := (of l).1.va, aux := 0, mask := maskOf ls
        axf := w.rdAxf l, dispatched := false, recIdx := 0, copy := none, seq := r.seq, note := none, late := late l } : Stop)
    let w' := { w with stops := stops.foldl (fun l t => insertStop t l) w.stops, pcs := ls.foldl (fun m l => SMap.put m l (here l)) w.pcs, active := w.active &&& ~~~ maskOf ls }
    if w.inRun && w'.active == 0 then { w' with inRun := false, todo := [], endRun := false } else w'

/-- What a waiting request comes to when it is translated again: it waits on, nothing of it is left, or the accesses that may perform. -/
inductive Again where
  | wait (s : State) (r : OrdReq)
  | over_ (s : State)
  | go (s : State) (r : OrdReq)

/-- A waiting request translated and checked again (R206): where a page of a domain is absent, or a thread it would stop is stopped already, it waits on; the lanes that meet a condition of Table 8.3 stop.
A request that no instruction counts is taken back, and its engine or its waiting lock tries again. DESIGN CHOICE (log 7): a condition met for a thread that has exited meanwhile drops its access, with no record. -/
def State.again (s : State) (r : OrdReq) : Again :=
  let res := r.ops.map (s.againOp r)
  let r' := { r with ops := res.map Prod.fst }
  let bad := res.filterMap fun x => x.2.map fun d => (x.1, d)
  let dom := (s.gridAt (s.groupAt r.grp).grid).ds.coll
  let absent := if dom then bad.filter fun x => x.2 == 7 else []
  let w := s.warpAt r.warp
  let gone (x : ReqOp × Nat) : Bool := w.exited.getLsbD x.1.lane
  let stuck := bad.any fun x => !gone x && !w.live.getLsbD x.1.lane
  if !absent.isEmpty then .wait (absent.foldl (fun s x => s.requestPage (s.gridAt (s.groupAt r.grp).grid).ctx x.1.va) s) r'
  else if bad.isEmpty then .go s r'
  else if noSeq ≤ r.seq then .over_ s
  else if w.kind == .normal && stuck then .wait s r'
  else
    let s := match w.kind with
      | .normal => s.modWarp r.warp fun w => w.lateStop r' (bad.filter fun x => !gone x)
      | .handler =>
        let of (l : Nat) : ReqOp × Nat := (bad.find? fun (x : ReqOp × Nat) => x.1.lane == l).getD (⟨0, 0, 0, [], false⟩, 0)
        let mask := maskOf (bad.map fun (x : ReqOp × Nat) => x.1.lane)
        s.withWarp r.warp fun s => s.handlerFault mask (fun _ => 0x04) (fun l => (of l).2) fun l => (of l).1.va
      | .surrender => s.withWarp r.warp fun s => s.endRoutine 3 3
    let good := (res.filter fun x => x.2.isNone).map Prod.fst
    if causeUniform r.instr || good.isEmpty then .over_ (s.finish r []) else .go s { r with ops := good }

/-- Perform a request that has waited: it is translated and checked again (R206). The answer holds what of it waits on, also where a recall queue it reaches is full (R329). -/
def State.performAgain (s : State) (r : OrdReq) : State × Option OrdReq :=
  match s.again r with
  | .wait s r => (s, some r)
  | .over_ s => (s, none)
  | .go s r =>
    if ({ s with cur := r.warp } : State).tileFull r.grp (r.ops.filterMap r.paOf) then (s, some r)
    else (s.withWarp r.warp fun s => s.serve r, none)

/-- A request that has waited performs, or waits outside every queue to be tried again. -/
def State.retry (s : State) (r : OrdReq) : State :=
  match s.performAgain r with
  | (s, none) => s
  | (s, some r) => { s with adds := s.adds ++ [r] }

/-- Whether the domain of a warp holds as many ordered requests of it as it may (Table 13.4). -/
def State.reqsFullOf (s : State) (h : Nat) : Bool :=
  s.groupColl (s.warpAt h).grp && (s.warpAt h).kind == .normal &&
  decide (16 ≤ ((s.domAt (s.gridAt (s.groupAt (s.warpAt h).grp).grid).pk.domain).reqs.filter fun r => r.warp == h && r.seq != noSeq).length)

/-- Whether the current warp has as many ordered requests outstanding as it may have (Table 13.4). -/
def State.reqsFull (s : State) : Bool := s.reqsFullOf s.cur

/-- A request that a fault had stopped is issued again when its thread returns (R188, R206); in a domain it goes to its slice as soon as the warp may have another there (Table 13.4). -/
def State.reissue (s : State) (r : OrdReq) : State :=
  s.withWarp r.warp fun s =>
    let r := { r with seq := s.w.seqNo, key := s.keyAt s.cur s.w.lclk }
    let s := s.modW fun w => w.count r.instr.counter r.regs false []
    if s.inDomain && !s.reqsFull then s.modDom s.grid.pk.domain fun d => { d with reqs := d.reqs ++ [r] }
    else if s.inDomain || r.whole then { s with adds := s.adds ++ [r] }
    else s.retry r

/-! ### Invalidations (R206) -/

/-- Whether an access of a request was translated under a removed entry. -/
def OrdReq.touches (r : OrdReq) (va len : Nat) : Bool := r.ops.any fun o => !o.miss && decide (va < o.va + r.bytes o) && decide (o.va < va + len)

/-- A request that waits outside the recall queues is translated again where it stands; what meets a condition of Table 8.3 leaves it. -/
def State.againHere (s : State) (r : OrdReq) : State × List OrdReq :=
  match s.again r with
  | .wait s r => (s, [r])
  | .over_ s => (s, [])
  | .go s r => (s, [r])

/-- Every request that waits and that `hit` picks is cancelled and translated again (R206): one in a recall queue goes on from there as its new addresses say, or keeps its place where they lie in the same tile. -/
def State.retranslate (s : State) (hit : OrdReq → Bool) : State :=
  let stays (t : Nat) (s : State) (r : OrdReq) : Option OrdReq :=
    match r.instr with
    | .copyDelivery _ _ _ => none
    | .sliceLdl _ _ _ _ _ _ _ _ => none
    | _ =>
      let res := r.ops.map (s.againOp r)
      let here (x : ReqOp × Option Nat) : Bool := (r.paOf x.1).bind (s.tileOver r.grp) == some t
      if (res.all fun x => x.2.isNone) && (if r.whole then res.any here else res.all here) then some { r with ops := res.map Prod.fst } else none
  let s := s.tiles.foldl (fun s e =>
    let new := e.2.queue.map fun q => match q with
      | .access r => if hit r then (match stays e.1 s r with
          | some r => (some (TileReq.access r), none)
          | none => (none, some r)) else (some q, none)
      | .claim _ => (some q, none)
    let s := s.modTile e.1 fun e => { e with queue := new.filterMap Prod.fst }
    (new.filterMap Prod.snd).foldl (fun s r => match r.instr with
      | .copyDelivery _ _ _ => s
      | _ => s.retry r) s) s
  let (s, adds) := (s.adds.filter hit).foldl (fun (x : State × List (OrdReq × List OrdReq)) r => let y := x.1.againHere r; (y.1, x.2 ++ [(r, y.2)])) (s, [])
  let put (rs : List OrdReq) (done : List (OrdReq × List OrdReq)) : List OrdReq := rs.flatMap fun r => match done.find? fun d => d.1 == r with
    | some d => d.2
    | none => [r]
  let s := { s with adds := put s.adds adds }
  s.domains.foldl (fun s e =>
    let (s, reqs) := (e.2.reqs.filter hit).foldl (fun (x : State × List (OrdReq × List OrdReq)) r => let y := x.1.againHere r; (y.1, x.2 ++ [(r, y.2)])) (s, [])
    s.modDom e.1 fun d => { d with reqs := put d.reqs reqs }) s

/-- An ordered request of a domain: it waits at its slice for its key (R298). In a group that issues at its warp's turn it performs at that turn, in word order (R297, R299; log 73). -/
def State.request (s : State) (r : OrdReq) : State :=
  if (s.w.todo.drop 1).any Instr.waiting then s.perform r
  else s.modDom s.grid.pk.domain fun d => { d with reqs := d.reqs ++ [r] }

end Sys2Proof.Machine
end

