-- ==== Sys2Proof/Machine/Memory.lean ====
section
/-! DEFINITION. The ordinary accesses, pref and preq (R182 to R198, R302, R303). -/

namespace Sys2Proof.Machine

/-! ### Checking the lanes (R187, R189) -/

/-- The checks of every lane of an access; a store meets a lost sector only where it writes part of it (R230). -/
def State.tryLanes (s : State) (spad : Bool) (k : Acc) (n : Nat) (ls : List Nat) (ea : Nat → Nat) : List (Nat × LaneRes) :=
  if spad then ls.map fun l => (l, s.trySp n l (ea l))
  else if k ≠ .store then ls.map fun l => (l, s.tryVa k n (fun pa => s.meetsLost pa n) l (ea l))
  else
    let free := ls.map fun l => (l, s.tryVa k n (fun _ => false) l (ea l))
    if s.lost.isEmpty then free
    else
      let written := free.flatMap fun r => match r.2 with
        | .ok pa _ => (List.range n).map (pa + ·)
        | _ => []
      ls.map fun l => (l, s.tryVa k n (fun pa => s.meetsLost pa n && !((List.range 32).all fun i => written.contains (pa / 32 * 32 + i))) l (ea l))

/-- The trap-record ring of a context: its first byte and its length (R383). -/
def State.ringOf (s : State) (ctx : Nat) : Nat × Nat := ((s.ctxAt ctx).trbase * 64, 64 * 2 ^ (s.ctxAt ctx).trlogn)

/-- The lanes whose store leaves the trap-record ring (R388). -/
def State.outsideRing (s : State) (n : Nat) (ls : List Nat) (ea : Nat → Nat) : List Nat :=
  let (a, len) := s.ringOf s.ctxNo
  ls.filter fun l => !(decide (a ≤ ea l) && decide (ea l + n ≤ a + len))

/-! ### The access -/

/-- What an access is, as far as its form decides it; an ordered one waits at its slice for its turn in a domain (R298). -/
structure AccKind where
  spad : Bool
  acc : Acc
  n : Nat
  probe : Bool
  uniform : Bool
  ordered : Bool
  regs : List RegId

/-- An access of the lanes `mask` at `ea` with operand values `vals` (R190). `s0` is the state before any pop, `s` after it:
an access that waits or stops the whole strand leaves every pop in place. -/
def State.access (s0 : State) (i : Instr) (a : AccKind) (mask : Word) (ea : Nat → Nat) (vals : Nat → List DWord) (s : State) : State :=
  let ls := lanesOf mask
  let res := s.tryLanes a.spad a.acc a.n ls ea
  let absent := (res.filter fun r => r.2 == .absent).map (·.1)
  let store := a.acc == .store
  let ops : List ReqOp := res.filterMap fun r => match r.2 with
    | .ok pa _ => some ⟨r.1, ea r.1, pa, vals r.1, false⟩
    | .absent => if a.probe then some ⟨r.1, ea r.1, 0, vals r.1, true⟩ else none
    | .bad _ => none
  let bad := res.filterMap fun r => match r.2 with
    | .ok _ _ => none
    | .absent => if a.probe then none else some (r.1, 0x07)
    | .bad d => some (r.1, d)
  let detail (l : Nat) : Nat := ((bad.find? fun b => b.1 == l).map (·.2)).getD 0
  let outside := if s.w.kind == .handler && store then s.outsideRing a.n ls ea else []
  let stopped := if a.uniform then ls else ls.filter fun l => outside.contains l || bad.any fun b => b.1 == l
  let met := (ops.filter fun o => !o.miss).map (·.pa)
  let pas := if a.spad then [] else met
  if s.inDomain && !absent.isEmpty && !a.spad then
    (absent.foldl (fun s l => s.requestPage s.ctxNo (ea l)) s0).hold
  else if !outside.isEmpty then
    let out (l : Nat) : Bool := a.uniform || outside.contains l
    s0.handlerFault (if a.uniform then s.w.active else maskOf stopped) (fun l => if out l then 0 else 0x04) (fun l => if out l then 0x02 else detail l)
      fun l => if a.uniform then ea (lowLane mask) else ea l
  else if s.strays pas then s.endRoutine 3 4
  else if s.w.kind == .surrender && !bad.isEmpty then s.endRoutine 3 3
  else if s.w.kind == .normal && s.inDomain && store && !(s.foldRoom a.spad (ops.map fun o => o.va / 32)) then s0.trapAll i 0x08 0x01 0
  else if s.tileFull s.w.grp pas || s.meetsOpen a.spad a.n ((ops.filter fun o => !o.miss).map fun o => (o.va, o.pa)) || (a.ordered && s.reqsFull) then s0.hold
  else if a.uniform && !bad.isEmpty then s0.memFaultAll i (detail (lowLane mask)) (ea (lowLane mask)) 0
  else if !bad.isEmpty && ops.isEmpty then s0.memFault i mask detail ea
  else
    let s := res.foldl (fun s r => match r.2 with
      | .ok _ (some x) => s.holdLeaf s.w.core r.1 s.ctxNo x
      | _ => s) s
    let s := s.memFault i (maskOf (bad.map (·.1))) detail ea
    if s.w.active = 0 then s
    else
      let r : OrdReq := { key := s.opKey, warp := s.cur, grp := s.w.grp, seq := s.w.seqNo, instr := i, pc := s.w.runPc, act := s.w.active, regs := a.regs, ops := ops }
      let s := s.modW fun w => w.count i.counter a.regs false []
      let s := if a.ordered && s.collated then s.request r else s.serve r
      s.retire i

/-- A load of v registers: checks of the destination, then the access (R186, R190). -/
def State.loadV (s : State) (i : Instr) (spad : Bool) (d : Vr) (kbase : Kr) (voff : Vr) (n scale : Nat) (disp : Int) (probe : Pr) : State :=
  let ds := if n = 8 then [d.toNat, d.toNat + 1] else [d.toNat]
  if n = 8 ∧ d = 63 then s.illegalOperand i 0x02
  else if ds.any s.w.isWindow then s.illegalOperand i 0x05
  else s.withSrcs i (if scale = 0 then [] else [voff.toNat]) fun fs s' =>
    let ea (l : Nat) := effAddr (s.w.rdK kbase.toNat) ((fs.headD fun _ => 0) l) scale disp
    s.access i
      { spad := spad, acc := .load, n := n, probe := probe != 62, uniform := false, ordered := false
        regs := ds.map RegId.v ++ (if probe = 62 then [] else [.p probe.toNat]) } s.w.active ea (fun _ => []) s'

/-- A store of v registers (R186, R190). -/
def State.storeV (s : State) (i : Instr) (spad : Bool) (d : Vr) (kbase : Kr) (voff : Vr) (n scale : Nat) (disp : Int) : State :=
  let ds := if n = 8 then [d.toNat, d.toNat + 1] else [d.toNat]
  let off := if scale = 0 then [] else [voff.toNat]
  if n = 8 ∧ d = 63 then s.illegalOperand i 0x02
  else s.withSrcs i (off ++ ds) fun fs s' =>
    let ea (l : Nat) := effAddr (s.w.rdK kbase.toNat) (if scale = 0 then 0 else (fs.headD fun _ => 0) l) scale disp
    let data := fs.drop off.length
    let val (l : Nat) : DWord := ((data.getD 1 fun _ => 0) l) ++ ((data.getD 0 fun _ => 0) l)
    s.access i { spad := spad, acc := .store, n := n, probe := false, uniform := false, ordered := false, regs := [] } s.w.active ea (fun l => [val l]) s'

/-- ld (R183, R190). -/
def execLd (h : Hdr) (d : Vr) (kbase : Kr) (voff : Vr) (size : ESize) (s : State) : Out :=
  .next (s.loadV (.ld h d kbase voff size) false d kbase voff size.bytes size.bytes 0 62)

/-- st (R183, R190). -/
def execSt (h : Hdr) (d : Vr) (kbase : Kr) (voff : Vr) (size : ESize) (s : State) : Out :=
  .next (s.storeV (.st h d kbase voff size) false d kbase voff size.bytes size.bytes 0)

/-- ldl (R184, R190, R196, R197). -/
def execLdl (h : Hdr) (d : Vr) (kbase : Kr) (voff : Vr) (size : ESize) (imm : BitVec 16) (dc : Dc) (probe : Pr) (hint : BitVec 3) (scale : Scale) (sx : Bool) (s : State) : Out :=
  .next (s.loadV (.ldl h d kbase voff size imm dc probe hint scale sx) false d kbase voff size.bytes (scaleTimes scale size.bytes) imm.toInt probe)

/-- stl (R184, R190). -/
def execStl (h : Hdr) (d : Vr) (kbase : Kr) (voff : Vr) (size : ESize) (imm : BitVec 16) (dc : Dc) (hint : BitVec 3) (scale : Scale) (s : State) : Out :=
  .next (s.storeV (.stl h d kbase voff size imm dc hint scale) false d kbase voff size.bytes (scaleTimes scale size.bytes) imm.toInt)

/-- lds (R183, R189, R190). -/
def execLds (h : Hdr) (d : Vr) (kbase : Kr) (voff : Vr) (size : ESize) (s : State) : Out :=
  .next (s.loadV (.lds h d kbase voff size) true d kbase voff size.bytes size.bytes 0 62)

/-- sts (R183, R189, R190). -/
def execSts (h : Hdr) (d : Vr) (kbase : Kr) (voff : Vr) (size : ESize) (s : State) : Out :=
  .next (s.storeV (.sts h d kbase voff size) true d kbase voff size.bytes size.bytes 0)

/-- ldk (R192): once per strand, as the access of its lowest active lane. -/
def execLdk (h : Hdr) (kd kbase : Kr) (sx : Bool) (size : ESize) (imm : BitVec 16) (dc : Dc) (s : State) : Out :=
  .next (s.access (.ldk h kd kbase sx size imm dc)
    { spad := false, acc := .load, n := size.bytes, probe := false, uniform := true, ordered := false, regs := [.k kd.toNat] }
    (maskOf [lowLane s.w.active]) (fun _ => uniAddr (s.w.rdK kbase.toNat) imm) (fun _ => []) s)

/-- stk (R192). -/
def execStk (h : Hdr) (kd kbase : Kr) (size : ESize) (imm : BitVec 16) (dc : Dc) (s : State) : Out :=
  .next (s.access (.stk h kd kbase size imm dc)
    { spad := false, acc := .store, n := size.bytes, probe := false, uniform := true, ordered := false, regs := [] }
    (maskOf [lowLane s.w.active]) (fun _ => uniAddr (s.w.rdK kbase.toNat) imm) (fun _ => [s.w.rdK kd.toNat]) s)

/-- pref (R193, R218): lanes that would meet a condition of Table 8.3 are dropped; the others ask for their extent.
A bound queue window as the offset pops, and can wait or trap on the window: DESIGN CHOICE, R193 says that pref never faults and R244 to R246 that every read of a window pops (log 77). -/
def execPref (h : Hdr) (l2 : Bool) (kbase : Kr) (voff : Vr) (size : ESize) (imm : BitVec 16) (hint : BitVec 3) (scale : Scale) (s : State) : Out :=
  let i := Instr.pref h l2 kbase voff size imm hint scale
  let n := size.bytes
  let sc := scaleTimes scale n
  .next (s.withSrcs i (if sc = 0 then [] else [voff.toNat]) fun fs s' =>
    let ea (l : Nat) := effAddr (s.w.rdK kbase.toNat) ((fs.headD fun _ => 0) l) sc imm.toInt
    let agent := if l2 then l2Agent (coreDie s.w.core) else s.w.core
    let accs := (lanesOf s.w.active).filterMap fun l => match s.tryVa .load n (fun pa => s.meetsLost pa n) l (ea l) with
      | .ok pa _ => some (pa, n)
      | _ => none
    (s'.touchPref agent s.w.core s.w.runPc.toNat hint.toNat accs).retire i)

/-! ### preq (R198) -/

/-- Add to a semaphore of a group's side (R255). -/
def State.semAdd (s : State) (grp : Nat) (twin : Bool) (n : Nat) (v : Word) : State :=
  let g := s.groupAt grp
  s.setGroup grp (if twin then { g with semsF := SMap.put g.semsF n (SMap.get 0 g.semsF n + v) } else { g with sems := SMap.put g.sems n (SMap.get 0 g.sems n + v) })

/-- Complete a preq: release its counter, and add 1 to its semaphore. -/
def State.preqDone (s : State) (q : Preq) : State :=
  let s' := s.modWarp q.warp fun w => w.complete q.seq []
  match q.sem with
  | some n => s'.semAdd q.grp (s.warpAt q.warp).twin n 1
  | none => s'

/-- Whether every page that a preq asked for is resident or has become invalid, or is lost (R198, R231). -/
def State.preqReady (s : State) (q : Preq) : Bool :=
  q.pages.all fun va => match s.walk q.ctx va with
    | .ok x => pteP x.pte || s.pageLost x
    | .error _ => true

/-- preq (R198). -/
def execPreq (h : Hdr) (klen kbase : Kr) (sem : BitVec 6) (useSem : Bool) (imm : BitVec 16) (dc : Dc) (s : State) : Out :=
  let i := Instr.preq h klen kbase sem useSem imm dc
  let ea := uniAddr (s.w.rdK kbase.toNat) imm
  let len := (s.w.rdK klen.toNat).toNat
  let pages := (s.pagesOf s.ctxNo ea len).filterMap fun p => match p.2 with
    | .ok x => if pteP x.pte || s.pageLost x then none else some p.1
    | .error _ => none
  let q : Preq := { warp := s.cur, grp := s.w.grp, seq := s.w.seqNo, ctx := s.ctxNo, pages := pages, sem := if useSem then some sem.toNat else none }
  .next (
    if len = 0 then ((s.modW fun w => w.count i.counter [] false []).preqDone q).retire i
    else if 2 ^ 57 < ea + len then s.memFaultAll i 0x03 ea 0
    else if 16 ≤ (s.coreAt s.w.core).preqs.length then s.hold
    else
      let s := pages.foldl (fun s va => s.requestPage q.ctx va) s
      let s := s.modCore s.w.core fun c => { c with preqs := c.preqs ++ [q] }
      (s.modW fun w => w.count i.counter [] false []).retire i)

/-- PREQ_COMPLETE: the preq at a place of a core's list completes once its pages are resident (R198). -/
def execPreqComplete (core idx : Nat) (s : State) : Out :=
  .next (match (s.coreAt core).preqs[idx]? with
    | none => s
    | some q =>
      if s.preqReady q then (s.modCore core fun c => { c with preqs := c.preqs.eraseIdx idx }).preqDone q else s)

/-- PAGE_RESIDENT: the residency service has made the page that holds an address resident: P of its leaf, or of all 16 leaves of its group, becomes 1. -/
def State.setResident (s : State) (ctx va : Nat) : State :=
  let rec table (level : Nat) (t : Nat) : List Nat :=
    match level with
    | 0 => []
    | lv + 1 =>
      let a := t + 8 * vaIndex va (lv + 1)
      let e := s.entryAt a
      if !pteV e || malformed (lv + 1) e then []
      else if pteL e then
        if lv = 0 ∧ (pteTier e = 1 ∨ pteTier e = 2) then (List.range 16).map fun j => t + 8 * (vaIndex va 1 / 16 * 16 + j) else [a]
      else table lv (fld e 12 40 * 4096)
  (table 5 (s.ctxAt ctx).troot).foldl (fun s a =>
    let e := s.entryAt a
    if pteP e then s else s.writeThrough a (toBytes 8 (e + 2))) s

/-- PAGE_RESIDENT (R198): a request is served. -/
def execPageResident (ctx va : Nat) (s : State) : Out :=
  .next (if s.resReqs.contains (ctx, va / 4096 * 4096) then
    ({ s with resReqs := s.resReqs.filter (· != (ctx, va / 4096 * 4096)) }).setResident ctx va else s)

end Sys2Proof.Machine
end

