-- ==== Sys2Proof/Machine/Atomics.lean ====
section
/-! DEFINITION. Atomics and fences (R263 to R268), clkj, lock and unlock (R307 to R311). -/

namespace Sys2Proof.Machine

/-- How many source registers an atomic reads (R264). -/
def atomRegs (op : AtomOp) (n : Nat) : Nat := (if n = 8 then 2 else 1) * (if op = .cas then 2 else 1)

/-- The operand values of a lane: v, or c and s (R264). -/
def atomVals (n : Nat) (fs : List (Nat → Word)) (l : Nat) : List DWord :=
  let x (j : Nat) : Word := (fs.getD j fun _ => 0) l
  if n = 8 then [x 1 ++ x 0, x 3 ++ x 2] else [(x 0).zeroExtend 64, (x 1).zeroExtend 64]

/-- An atomic, a reduction or a scratchpad atomic (R265, R266): `d` is the destination run, none for red. -/
def State.atomic (s : State) (i : Instr) (spad : Bool) (d : Option Nat) (kbase : Kr) (voff : Vr) (n : Nat) (vs : Vr) (op : AtomOp) (scope : Scope) (imm : BitVec 13) : State :=
  let ds := match d with
    | some r => if n = 8 then [r, r + 1] else [r]
    | none => []
  let ss := (List.range (atomRegs op n)).map (vs.toNat + ·)
  if (ds ++ ss).any (fun r => decide (63 < r)) then s.illegalOperand i 0x02
  else if ds.any s.w.isWindow then s.illegalOperand i 0x05
  else s.withSrcs i (voff.toNat :: ss) fun fs s' =>
    let ea (l : Nat) := effAddr (s.w.rdK kbase.toNat) ((fs.headD fun _ => 0) l) n imm.toInt
    s.access i { spad := spad, acc := .atomic scope, n := n, probe := false, uniform := false, ordered := true, regs := ds.map RegId.v }
      s.w.active ea (atomVals n (fs.drop 1)) s'

/-- atom (R263 to R267). -/
def execAtom (h : Hdr) (d : Vr) (kbase : Kr) (voff : Vr) (size : ASize) (vs : Vr) (op : AtomOp) (ord : Ord) (scope : Scope) (dc : Dc) (imm : BitVec 13) (s : State) : Out :=
  .next (s.atomic (.atom h d kbase voff size vs op ord scope dc imm) false (some d.toNat) kbase voff size.bytes vs op scope imm)

/-- red (R263 to R267). -/
def execRed (h : Hdr) (kbase : Kr) (voff : Vr) (size : ASize) (vs : Vr) (op : AtomOp) (ord : Ord) (scope : Scope) (dc : Dc) (imm : BitVec 13) (s : State) : Out :=
  .next (s.atomic (.red h kbase voff size vs op ord scope dc imm) false none kbase voff size.bytes vs op scope imm)

/-- atoms (R263 to R267). -/
def execAtoms (h : Hdr) (d : Vr) (kbase : Kr) (voff : Vr) (size : ASize) (vs : Vr) (op : AtomOp) (ord : Ord) (scope : Scope) (dc : Dc) (imm : BitVec 13) (s : State) : Out :=
  .next (s.atomic (.atoms h d kbase voff size vs op ord scope dc imm) true (some d.toNat) kbase voff size.bytes vs op scope imm)

/-- fence (R268): no access, no result. Accesses perform in the order of issue in this model, so the order it asks for stands (log 1, log 7). -/
def execFence (h : Hdr) (scope : Scope) (ord : Ord) (s : State) : Out := .next (s.retire (.fence h scope ord))

/-! ### clkj (R307) -/

/-- Set LCLK to `n`, or take collation fault 0x02 beyond 2^64 − 1. -/
def State.clkTo (s : State) (i : Instr) (n : Nat) : State :=
  if 2 ^ 64 ≤ n then s.trapAll i 0x08 0x02 0 else (s.modW fun w => { w with lclk := n }).retire i

/-- clkj.add. -/
def execClkjAdd (h : Hdr) (imm : BitVec 12) (s : State) : Out := .next (s.clkTo (.clkjAdd h imm) (s.w.lclk + imm.toNat))

/-- clkj.addk. -/
def execClkjAddk (h : Hdr) (ka : Kr) (s : State) : Out := .next (s.clkTo (.clkjAddk h ka) (s.w.lclk + (s.w.rdK ka.toNat).toNat))

/-- clkj.setk: never backwards. -/
def execClkjSetk (h : Hdr) (ka : Kr) (s : State) : Out := .next (s.clkTo (.clkjSetk h ka) (max s.w.lclk (s.w.rdK ka.toNat).toNat))

/-- clkj.nb: the next boundary. -/
def execClkjNb (h : Hdr) (s : State) : Out := .next (s.clkTo (.clkjNb h) ((s.w.lclk / s.g + 1) * s.g))

/-! ### lock and unlock (R308 to R311) -/

/-- What an attempt on a lock word finds: a cause, a page to wait for, or the word's physical address. -/
def State.tryLock (s : State) (kbase : Kr) (imm : BitVec 16) (scope : Scope) : LaneRes :=
  s.tryVa (.atomic scope) 8 (fun pa => s.meetsLost pa 8) (lowLane s.w.active) (uniAddr (s.w.rdK kbase.toNat) imm)

/-- A blocking lock asks for passage to a tile of another group, once: its attempt waits in the recall queue (R310, R329). -/
def State.askTile (s : State) (i : Instr) (t : Nat) (o : ReqOp) : State :=
  if s.queuedAtTile s.cur i ∨ s.tileFull s.w.grp [o.pa] then s
  else s.queueAtTile t { key := s.keyAt s.cur s.w.lclk, warp := s.cur, grp := s.w.grp, seq := noSeq, instr := i, pc := s.w.runPc, act := s.w.active, regs := [], ops := [o] }

/-- lock and lock.try: `at_` says what an attempt at another group's tile does, `fail` what one that finds the word taken does. -/
def State.locking (s : State) (i : Instr) (p : Pr) (kbase kval : Kr) (imm : BitVec 16) (scope : Scope) (at_ : State → Nat → ReqOp → State) (fail : State → Nat → State) : State :=
  let ea := uniAddr (s.w.rdK kbase.toNat) imm
  let own := s.w.rdK kval.toNat
  let took (s : State) : State := (s.modW fun w => w.count i.counter [.p p.toNat] true [RegWrite.ofP p.toNat w.active fun _ => true]).retire i
  match s.tryLock kbase imm scope with
  | .bad d => s.memFaultAll i d ea 0
  | .absent => if s.inDomain then (s.requestPage s.ctxNo ea).hold else s.memFaultAll i 0x07 ea 0
  | .ok pa x =>
    let o : ReqOp := ⟨lowLane s.w.active, ea, pa, [own], false⟩
    if own = 0 then s.illegalOperand i 0x0D
    else match (if s.inDomain then none else s.tileBlocks s.w.grp [pa]) with
      | some t => at_ s t o
      | none =>
        let s := match x with
          | some x => s.holdLeaf s.w.core (lowLane s.w.active) s.ctxNo x
          | none => s
        match s.lockOp scope o with
        | (s, true) => took s
        | (t, false) => fail t (s.readWord false pa pa 8)

/-- lock (R309 to R311): taken with this value already it traps; otherwise it waits, or jumps to the next boundary in a domain. At another group's tile its attempt waits its turn there (R329). -/
def execLock (h : Hdr) (kbase kval : Kr) (imm : BitVec 16) (dc : Dc) (scope : Scope) (s : State) : Out :=
  let i := Instr.lock h kbase kval imm dc scope
  .next (if s.w.gotLock then ((s.modW fun w => { w with gotLock := false }).modW fun w => w.count i.counter [] true []).retire i
    else s.locking i 62 kbase kval imm scope (fun s t o => (s.askTile i t o).holdFree) fun t old =>
      if old = (s.w.rdK kval.toNat).toNat then s.illegalOperand i 0x0E
      else if s.collated then s.jumpRetry else t.holdFree)

/-- lock.try (R309). -/
def execLockTry (h : Hdr) (p : Pr) (kbase kval : Kr) (imm : BitVec 16) (dc : Dc) (scope : Scope) (s : State) : Out :=
  let i := Instr.lockTry h p kbase kval imm dc scope
  .next (s.locking i p kbase kval imm scope
    (fun s t o =>
      if s.tileFull s.w.grp [o.pa] then s.hold
      else
        let r : OrdReq := { key := s.keyAt s.cur s.w.lclk, warp := s.cur, grp := s.w.grp, seq := s.w.seqNo, instr := i, pc := s.w.runPc, act := s.w.active, regs := [.p p.toNat], ops := [o] }
        ((s.modW fun w => w.count i.counter [.p p.toNat] false []).queueAtTile t r).retire i)
    fun s _ => (s.modW fun w => w.count i.counter [.p p.toNat] true [RegWrite.ofP p.toNat w.active fun _ => false]).retire i)

/-- unlock (R309, R311): a request in a domain. -/
def execUnlock (h : Hdr) (p : Pr) (kbase kval : Kr) (imm : BitVec 16) (dc : Dc) (scope : Scope) (s : State) : Out :=
  let i := Instr.unlock h p kbase kval imm dc scope
  let own := s.w.rdK kval.toNat
  let ok : Bool := match s.tryLock kbase imm scope with
    | .ok _ _ => true
    | _ => false
  .next (if ok && own == 0 then s.illegalOperand i 0x0D
    else s.access i { spad := false, acc := .atomic scope, n := 8, probe := false, uniform := true, ordered := true, regs := [.p p.toNat] }
      (maskOf [lowLane s.w.active]) (fun _ => uniAddr (s.w.rdK kbase.toNat) imm) (fun _ => [own, s.w.active.zeroExtend 64]) s)

end Sys2Proof.Machine
end

