-- ==== Sys2Proof/Machine/Maint.lean ====
section
/-! DEFINITION. Range maintenance: cwb, cflu and cinv (R233 to R238). -/

namespace Sys2Proof.Machine

/-- The three operations of major 0x69 on copies. -/
inductive MaintOp where
  | wb | flush | inv
deriving DecidableEq, Repr

/-- Whether a scope's point is home memory rather than the home slice of the issuing die (Table 9.6). -/
def scopeDevice : Scope → Bool
  | .warp => false
  | .group => false
  | .gang => false
  | .die => false
  | _ => true

/-- The agents a scope acts on (Table 9.6). -/
def Caches.scopeAgents (c : Caches) (die : Nat) (device : Bool) : List Nat :=
  c.agents.filter fun a => device || (isL1 a && agentDie a == die)

/-- The sectors (frame × 64 + sector) of the bytes [pa, pa + n) that some agent of a list holds. -/
def Caches.heldIn (c : Caches) (as : List Nat) (pa n : Nat) : List Nat :=
  (as.flatMap fun a => (c.at_ a).flatMap fun q =>
    ((List.range (q.last + 1 - q.first)).map fun i => q.frame * 64 + q.first + i).filter fun x => decide (pa / 32 ≤ x) && decide (x * 32 < pa + n)).eraseDups

/-- Write one sector to the point, if it is dirty in the agents `as` (R235): home memory at device scope, else the home slice of the die, which then owes it. -/
def Caches.toPoint (c : Caches) (m : Memory) (device dirty : Bool) (die sec : Nat) : Caches :=
  if !dirty then c else if device then c.toHome m sec else c.l2Take m die (sec / 64) true (sec % 64, sec % 64)

/-- Drop the copies of one sector in some agents; untracked ones at device scope only (R226). -/
def Caches.dropIn (c : Caches) (m : Memory) (device : Bool) (as : List Nat) (sec : Nat) : Caches :=
  let (f, x) := (sec / 64, sec % 64)
  as.foldl (fun c a =>
    let c := c.recut m a f x x fun _ => none
    if device then c.dropFwd m a f x x else c) c

/-- Leave a sector with the point's bytes: what a discard does to memory (R235). -/
def State.discardSector (s : State) (device : Bool) (die sec : Nat) : State :=
  { s with mem := s.mem.writeN (sec * 32) ((secAddrs sec).map (s.cache.pointByte device die)) }

/-- Act on one sector held in the agents of the scope (R235): `whole` says that it lies inside the range.
cwb leaves the copy, clean: beside a home slice that owes the data it is one of several, so it becomes S. A discard leaves the point what it holds and owes;
clean copies of data that an O copy owned go with it. -/
def State.maintSector (s : State) (op : MaintOp) (device : Bool) (die : Nat) (whole : Bool) (sec : Nat) : State :=
  let (f, x) := (sec / 64, sec % 64)
  let as := s.cache.scopeAgents die device
  let dirty := as.any fun a => s.sectorDirty a f x
  let owned := as.any fun a => s.sectorSt a f x == .o
  match op with
  | .wb => s.onCaches fun m c =>
    let c := as.foldl (fun c a => c.recut m a f x x fun q => if q.dirty.contains x then some (if device || q.st == .wbp then q.st else .s, false) else some (q.st, true)) c
    c.toPoint m device dirty die sec
  | .flush => s.onCaches fun m c => (c.dropIn m device as sec).toPoint m device dirty die sec
  | .inv =>
    if dirty && whole then
      let s := s.discardSector device die sec
      s.onCaches fun m c =>
        let c := c.dropIn m device as sec
        let c := if owned then c.agents.foldl (fun c a => c.recut m a f x x fun q => if q.st = .s then none else some (q.st, true)) c else c
        if device then c.eraseL2 sec else if c.inL2 die sec then c.l2Take m die f false (x, x) else c
    else s.onCaches fun m c => (c.dropIn m device as sec).toPoint m device dirty die sec

/-- Act on the bytes [pa, pa + n) of physical memory. -/
def State.maintRange (s : State) (op : MaintOp) (device : Bool) (die pa n : Nat) : State :=
  (s.cache.heldIn (s.cache.scopeAgents die device) pa n).foldl (fun s x => s.maintSector op device die (decide (pa ≤ x * 32) && decide (x * 32 + 32 ≤ pa + n)) x) s

/-- The part of [ea, ea + len) in the page of a leaf: its virtual start and length. -/
def Leaf.part (x : Leaf) (ea len : Nat) : Nat × Nat :=
  let a := max ea x.va
  (a, min (ea + len) (x.va + x.size) - a)

/-- Walk the pages of a range in ascending address and act on each resident one; a page with a cause ends the walk with its detail and its first byte in the range (R235, R236). -/
def State.overPages (s : State) (inv : Bool) (ea len : Nat) (act : State → Nat → Nat → Nat → State) : List (Nat × Except Nat Leaf) → State × Option (Nat × Nat)
  | [] => (s, none)
  | (va, r) :: rest =>
    match r with
    | .error d => (s, some (d, va))
    | .ok x =>
      let (a, n) := x.part ea len
      if !pteP x.pte then s.overPages inv ea len act rest
      else if inv && !pteW x.pte then (s, some (0x08, a))
      else (act s a (x.pa a) n).overPages inv ea len act rest

/-- Whether the resident part of a range that a surrender routine maintains reaches a frame of a negotiated tile other than its own (R331, log 83). -/
def State.rangeStrays (s : State) (ea len : Nat) : Bool :=
  s.w.kind == .surrender && (s.pagesOf s.ctxNo ea len).any fun p => match p.2 with
    | .ok x =>
      let (a, n) := x.part ea len
      pteP x.pte && s.tiles.any fun e => e.1 != s.w.tile && e.2.frames.any fun f => decide (x.pa a < (f + 1) * 2048) && decide (f * 2048 < x.pa a + n)
    | .error _ => false

/-- cwb, cflu and cinv without zf (R235 to R237); in a collated grid cinv acts as cflu. -/
def State.maintain (s : State) (i : Instr) (op : MaintOp) (klen kbase : Kr) (scope : Scope) (imm : BitVec 16) : State :=
  let ea := uniAddr (s.w.rdK kbase.toNat) imm
  let len := (s.w.rdK klen.toNat).toNat
  let done (s : State) : State := (s.modW fun w => w.count i.counter [] true []).retire i
  if len = 0 then done s
  else if 2 ^ 57 < ea + len then s.memFaultAll i 0x03 ea 0
  else if s.rangeStrays ea len then s.endRoutine 3 4
  else
    let op' := if op = .inv ∧ s.inDomain then .flush else op
    match s.overPages (op == .inv) ea len (fun s _ pa n => s.maintRange op' (scopeDevice scope) (coreDie s.w.core) pa n) (s.pagesOf s.ctxNo ea len) with
    | (s, none) => done s
    | (s, some (d, a)) => s.memFaultAll i d a 0

/-- cwb (R235). -/
def execCwb (h : Hdr) (klen kbase : Kr) (scope : Scope) (imm : BitVec 16) (dc : Dc) (s : State) : Out :=
  .next (s.maintain (.cwb h klen kbase scope imm dc) .wb klen kbase scope imm)

/-- cflu (R235). -/
def execCflu (h : Hdr) (klen kbase : Kr) (scope : Scope) (imm : BitVec 16) (dc : Dc) (s : State) : Out :=
  .next (s.maintain (.cflu h klen kbase scope imm dc) .flush klen kbase scope imm)

/-- cinv.zf (R238): privilege, empty range, alignment, then the pages; in a domain it waits at its slice for its turn. -/
def State.zeroRange (s : State) (i : Instr) (klen kbase : Kr) (imm : BitVec 16) : State :=
  let ea := uniAddr (s.w.rdK kbase.toNat) imm
  let len := (s.w.rdK klen.toNat).toNat
  if !s.grid.ds.maint then s.illegalOperand i 0x08
  else if len = 0 then (s.modW fun w => w.count i.counter [] true []).retire i
  else if ea % 32 ≠ 0 ∨ len % 32 ≠ 0 then s.memFaultAll i 0x01 ea 0
  else if 2 ^ 57 < ea + len then s.memFaultAll i 0x03 ea 0
  else if s.rangeStrays ea len then s.endRoutine 3 4
  else
    let pages := s.pagesOf s.ctxNo ea len
    let (_, bad) := s.overPages true ea len (fun s _ _ _ => s) pages
    let stop := (bad.map (·.2)).getD (ea + len)
    let ops : List ReqOp := pages.filterMap fun p => match p.2 with
      | .ok x =>
        let (a, n) := x.part ea len
        if pteP x.pte && decide (a < stop) then some ⟨lowLane s.w.active, a, x.pa a, [BitVec.ofNat 64 n], false⟩ else none
      | .error _ => none
    let r : OrdReq := { key := s.opKey, warp := s.cur, grp := s.w.grp, seq := s.w.seqNo, instr := i, pc := s.w.runPc, act := s.w.active, regs := [], ops := ops }
    let go (s : State) (dc : Option Nat) : State :=
      let s := s.modW fun w => w.count dc [] false []
      if s.collated then s.request r else s.serve r
    match bad with
    | none => (go s i.counter).retire i
    | some (d, a) => (go s none).memFaultAll i d a 0

/-- cinv (R235), and cinv.zf (R238). -/
def execCinv (h : Hdr) (klen kbase : Kr) (scope : Scope) (imm : BitVec 16) (dc : Dc) (zf : Bool) (s : State) : Out :=
  let i := Instr.cinv h klen kbase scope imm dc zf
  .next (if zf then s.zeroRange i klen kbase imm else s.maintain i .inv klen kbase scope imm)

end Sys2Proof.Machine
end

