-- ==== Sys2Proof/Machine/Coherence.lean ====
section
/-! DEFINITION. Coherence messages, bias, invalidations and failures as events (R204, R206, R214 to R232, R418). None of them changes a byte any agent reads, lost data apart (R221). -/

namespace Sys2Proof.Machine

/-- Whether another agent holds part of a range in WBP: the directory must resolve that first (R225). -/
def Caches.wbpElsewhere (c : Caches) (agent frame first last : Nat) : Bool :=
  c.agents.any fun a => a != agent && (c.at_ a).any fun q => q.st == .wbp && q.overlaps frame first last

/-- Room for the sectors of a range that an agent does not hold; where there is none the fill waits (R216). -/
def Caches.fits (c : Caches) (m : Memory) (agent frame first last : Nat) : Caches × Bool :=
  let miss := (secsOf first last).filter fun x => (holding (c.at_ agent) frame x).isNone
  if miss.isEmpty then (c, true)
  else c.room m (Caches.writeBack m agent) agent frame (runsOf miss).length miss.length (fun q => q.overlaps frame first last) false roomFuel

/-- The host takes sectors of a frame with the dirty data given: each is a copy of its own (R225, R418). -/
def Caches.hostTake (c : Caches) (frame : Nat) (secs : List Nat) : Caches :=
  c.put hostAgent ((secs.map fun x => ({ frame := frame, first := x, last := x, st := .m, dirty := [x], age := 0, lowAcc := 64, highAcc := 0, predIdx := 0, fwd := none } : Quire)) ++ c.at_ hostAgent)

/-- Grant a request (R222, R224): dirty data that snoops supplied comes with ownership, and the sectors its accesses want count as accessed (R213).
The host is granted the data and no copy in the device's caches. -/
def Caches.grant (c : Caches) (m : Memory) (q : CohReq) : Caches :=
  if q.agent = hostAgent then ((c.snoopAway m hostAgent q.frame q.first q.last).1).hostTake q.frame q.supplied
  else
    let c := if q.own then (c.grantM m q.agent q.frame q.first q.last q.pred).soil q.agent q.frame q.supplied
      else c.grantS m q.agent q.frame q.first q.last q.pred
    q.acc.foldl (Caches.touchAcc q.agent q.frame) c

/-- QUIRE_FILL (R214, R215): a fill run arrives in the state it was granted, and the request it answers is over. -/
def execQuireFill (agent frame first last : Nat) (qs : QState) (s : State) : Out :=
  .next (if qs = .i ∨ qs = .wbp ∨ 63 < last ∨ last < first then s
    else s.onCaches fun m c =>
      let is (r : CohReq) : Bool := r.agent == agent && r.frame == frame && r.first == first && r.last == last
      let r := (c.coh.find? is).getD { agent := agent, frame := frame, first := first, last := last, own := false, upg := false, granted := true, pred := 0, probe := false, supplied := [], acc := [] }
      match c.fits m agent frame first last with
      | (c, false) => c
      | (c, true) => { c with coh := c.coh.filter fun x => !is x }.grant m { r with own := r.own || qs == QState.m || qs == QState.o })

/-- Register a request at the directory (R222). One that still asks a peer cluster is not there yet (R226). -/
def Caches.askCoh (c : Caches) (agent frame first last : Nat) (own upg : Bool) : Caches :=
  if 63 < last ∨ last < first then c
  else
    let r : CohReq := { agent := agent, frame := frame, first := first, last := last, own := own, upg := upg, granted := true, pred := 0, probe := false, supplied := [], acc := [] }
    let same (q : CohReq) : Bool := q.agent == agent && q.frame == frame && q.first == first && q.last == last && q.own == own
    { c with coh := if c.coh.any same then c.coh.map fun q => if same q && !q.probe then { q with granted := true } else q else c.coh ++ [r] }

/-- GETM (R222): the request reaches its serialisation point and will be granted M with data. -/
def execGetm (agent frame first last : Nat) (s : State) : Out := .next (s.onCaches fun _ c => c.askCoh agent frame first last true false)

/-- GETS_REQUEST (R222): the request reaches its serialisation point and will be granted E, or S where another copy exists. -/
def execGetsRequest (agent frame first last : Nat) (s : State) : Out := .next (s.onCaches fun _ c => c.askCoh agent frame first last false false)

/-- UPG (R222, R224): sectors still held in S or O are granted M without data; otherwise the request becomes a GetM. -/
def execUpg (agent frame first last : Nat) (s : State) : Out :=
  let held := (secsOf first last).all fun x => s.sectorSt agent frame x == .s || s.sectorSt agent frame x == .o
  .next (s.onCaches fun _ c => c.askCoh agent frame first last true held)

/-- COHERENCE_GRANT (R216, R222, R224): an accepted request is granted, once no write-back of its sectors is under way elsewhere and there is room for it. -/
def execCoherenceGrant (agent frame first last : Nat) (s : State) : Out :=
  .next (s.onCaches fun m c => match c.coh.find? fun q => q.agent == agent && q.frame == frame && q.first == first && q.last == last && q.granted with
    | none => c
    | some q =>
      if c.wbpElsewhere agent frame first last then c
      else match ({ c with coh := c.coh.filter (· != q) } : Caches).fits m agent frame first last with
        | (d, false) => { d with coh := c.coh }
        | (d, true) => d.grant m q)

/-- PUTM (R216, R225): the write-back of a quire in WBP reaches its home, unless a snoop has met it and the directory holds it. -/
def execPutm (agent frame first last : Nat) (s : State) : Out :=
  .next (s.onCaches fun m c => if c.absorbed.any fun r => r.agent == agent && r.meets frame first last then c
    else (c.wbpIn agent frame first last).foldl (fun c q =>
      let c := c.writeBack m agent q
      c.put agent ((c.at_ agent).map fun x => if x == q then { x with dirty := [] } else x)) c)

/-- WRITE_BACK_ACKNOWLEDGEMENT (R216): a quire whose write-back has reached home leaves WBP. -/
def execWriteBackAcknowledgement (agent frame first last : Nat) (s : State) : Out :=
  .next (s.onCaches fun _ c => c.put agent ((c.at_ agent).filter fun q => !(q.st == .wbp && q.dirty.isEmpty && q.overlaps frame first last)))

/-- PUTS (R222): a clean copy is dropped; the directory follows. -/
def execPuts (agent frame first last : Nat) (s : State) : Out :=
  .next (s.onCaches fun m c => c.recut m agent frame first last fun q => if q.dirty.isEmpty ∧ (q.st = .s ∨ q.st = .e) then none else some (q.st, true))

/-- A snoop that finds its sectors in WBP is answered in flight (R225). -/
def Caches.inFlight (c : Caches) (agent frame first last : Nat) : Caches :=
  if (c.wbpIn agent frame first last).isEmpty ∨ c.absorbed.any (fun r => r.agent == agent && r.meets frame first last) then c
  else { c with absorbed := c.absorbed ++ [{ agent := agent, frame := frame, first := first, last := last, own := false, upg := false, granted := false, pred := 0, probe := false, supplied := [], acc := [] }] }

/-- SNPSHARE (R222): M and E become O and S. -/
def execSnpShare (agent frame first last : Nat) (s : State) : Out :=
  .next (s.onCaches fun m c => (c.recut m agent frame first last fun q => match q.st with
    | .m => some (.o, true)
    | .e => some (.s, true)
    | x => some (x, true)).inFlight agent frame first last)

/-- Dirty sectors of a frame leave an agent for the requester that waits for them (R222): one that asks for ownership takes them with its grant; the data of one that asks to read
lies in the home slice of its die, which owns it (log 18); where none waits they are written back. -/
def Caches.supply (c : Caches) (m : Memory) (agent frame : Nat) (secs : List Nat) : Caches :=
  secs.foldl (fun c x => match c.coh.find? fun q => q.agent != agent && q.meets frame x x with
    | none => c.writeBack m agent { frame := frame, first := x, last := x, st := .m, dirty := [x], age := 0, lowAcc := 64, highAcc := 0, predIdx := 0, fwd := none }
    | some q =>
      if q.own then
        let c := if q.agent == hostAgent || agentDie q.agent == agentDie agent then c else c.toL2 m (agentDie q.agent) (frame * 64 + x)
        { c with coh := c.coh.map fun r => if r == q then { r with supplied := r.supplied ++ [x] } else r }
      else c.l2Take m (agentDie q.agent) frame true (x, x)) c

/-- SNPINV (R222): sectors become I; dirty data is supplied. -/
def execSnpInv (agent frame first last : Nat) (s : State) : Out :=
  .next (s.onCaches fun m c =>
    let gone := (secsOf first (min last 63)).filter fun x => c.sectorDirty agent frame x && c.sectorSt agent frame x != .wbp
    ((c.recut m agent frame first last fun q => if q.st = .wbp then some (q.st, true) else none).supply m agent frame gone).inFlight agent frame first last)

/-- IN_FLIGHT_REPLY (R225): the agent answers that its write-back is under way; the directory holds the PutM. -/
def execInFlightReply (agent frame first last : Nat) (s : State) : Out := .next (s.onCaches fun _ c => c.inFlight agent frame first last)

/-- ABSORBED_ACK (R225): the agent in WBP moves to I, the requester is granted what it asked for with the written-back data, and memory is not written (log 18). -/
def execAbsorbedAck (agent frame first last : Nat) (s : State) : Out :=
  .next (s.onCaches fun m c => match c.absorbed.find? fun r => r.agent == agent && r.meets frame first last with
    | none => c
    | some a =>
      let c := { c with absorbed := c.absorbed.filter (· != a) }
      let qs := c.wbpIn agent frame first last
      match c.coh.find? fun q => q.agent != agent && q.meets frame first last with
      | some q =>
        let c := { c.put agent ((c.at_ agent).filter fun x => !qs.contains x) with coh := c.coh.filter (· != q) }
        let dirty := qs.flatMap (·.dirty)
        let (mine, rest) := (dirty.filter fun d => decide (q.first ≤ d) && decide (d ≤ q.last), dirty.filter fun d => !(decide (q.first ≤ d) && decide (d ≤ q.last)))
        let c := rest.foldl (fun c x => c.l2Take m (agentDie agent) frame true (x, x)) c
        let c := if q.own then c else mine.foldl (fun c x => c.l2Take m (agentDie q.agent) frame true (x, x)) c
        let c := if q.own && q.agent != hostAgent && agentDie q.agent != agentDie agent then mine.foldl (fun c x => c.toL2 m (agentDie q.agent) (frame * 64 + x)) c else c
        c.grant m { q with supplied := q.supplied ++ mine }
      | none => qs.foldl (fun c x => c.settle m agent x) c)

/-- SNOOP_REPLY (R222): the holder's reply reaches the directory, which can then grant the oldest request for the range. -/
def execSnoopReply (agent frame first last : Nat) (s : State) : Out :=
  .next (s.onCaches fun _ c => match c.coh.find? fun q => q.agent != agent && q.meets frame first last with
    | none => c
    | some q => { c with coh := c.coh.map fun x => if x == q then { x with granted := !x.probe } else x })

/-- The cores of a cluster of the die of a core, the core itself apart (R226). -/
def peersOf (core cluster : Nat) : List Nat := ((List.range 8).map fun i => coreDie core * 96 + cluster * 8 + i).filter (· != core)

/-- PEER_FORWARD_PROBE (R226): a miss on a read-only-global page asks one cluster of the die; a core of it that holds the sectors returns an untracked copy,
otherwise the miss proceeds by R222. A line of any other page is not peer-forwarded. -/
def execPeerForwardProbe (core cluster frame first last : Nat) (s : State) : Out :=
  .next (match s.readOnlyGlobal core frame with
    | none => s
    | some ctx =>
      if 63 < last ∨ last < first ∨ 12 ≤ cluster then s
      else s.onCaches fun m c =>
        let holds (p : Nat) : Bool := (secsOf first last).all fun x => c.sectorSt p frame x == .s || c.sectorSt p frame x == .e
        let asked (r : CohReq) : Bool := r.agent == core && r.probe && r.meets frame first last
        if (peersOf core cluster).any holds then
          let acc := (c.coh.filter asked).flatMap (·.acc)
          acc.foldl (Caches.touchAcc core frame) (({ c with coh := c.coh.filter fun r => !asked r } : Caches).place m core frame first last .s 0 (some ctx))
        else if c.coh.any asked then { c with coh := c.coh.map fun r => if asked r then { r with probe := false } else r }
        else c.askCoh core frame first last false false)

/-- Peer-forwarded copies leave when the last grid of their context ends (R226). -/
def State.dropForwarded (s : State) (ctx : Nat) : State :=
  s.onCaches fun _ c => c.agents.foldl (fun c a => c.put a ((c.at_ a).filter fun q => q.fwd != some ctx)) c

/-! ### Pages and the host (R204, R227, R287, R418) -/

/-- The entries of a table that are not all zero: an entry that is has V = 0. -/
def State.tableIdx (s : State) (table : Nat) : List Nat :=
  ((s.mem.filter fun e => decide (table ≤ e.1) && decide (e.1 < table + 4096)).map fun e => (e.1 - table) / 8).eraseDups

/-- The addresses of the leaves under a table that map a physical page; all 16 of a 64 KiB group, which is one page (Table 8.6). -/
def State.leavesFrom (s : State) (page : Nat) : Nat → Nat → List Nat
  | 0, _ => []
  | level + 1, table =>
    (s.tableIdx table).flatMap fun i =>
      let a := table + 8 * i
      let e := s.entryAt a
      if !pteV e || malformed (level + 1) e then []
      else if pteL e then
        let base := ptePfn e * 4096
        let group := level = 0 ∧ (pteTier e = 1 ∨ pteTier e = 2)
        let size := if level = 0 then 4096 else 2 ^ 21
        if decide (base ≤ page) && decide (page < base + size) then
          (if group then (List.range 16).map fun j => table + 8 * (i / 16 * 16 + j) else [a])
        else []
      else s.leavesFrom page level (fld e 12 40 * 4096)

/-- The leaves of every context that map a physical page. -/
def State.leavesOf (s : State) (page : Nat) : List Nat :=
  (s.ctxs.flatMap fun e => if e.2.troot = 0 then [] else s.leavesFrom page 5 e.2.troot).eraseDups

/-- The leaf entry under which a context maps a physical page: its class and tier select how host coherence treats it (R204). -/
def State.pageLeaf (s : State) (page : Nat) : Option Nat := (s.leavesOf page).head?.map s.entryAt

/-- Drain and drop every copy of a range of bytes: dirty sectors are written to home memory. -/
def State.drainRange (s : State) (pa n : Nat) : State := s.maintRange .flush true 0 pa n

/-- Whether a page is kept coherent with the host by back-invalidation: host tier, or host-shared (R204, R227). -/
def hostCoherent (e : Nat) : Bool := pteTier e == 0 || pteCc e == 0

/-- Whether a page is a bulk page with a bias (R204). -/
def biased (e : Nat) : Bool := pteTier e != 0 && (pteCc e == 1 || pteCc e == 2)

/-- BACK_INVALIDATION (R204, R227, R418): the host takes sectors of a host-tier or host-shared page; the device's copies go home first.
One that crosses a write-back is resolved as R225 resolves a snoop: the agent answers that its write-back is under way, and its data goes to the host. -/
def execBackInvalidation (frame first last : Nat) (s : State) : Out :=
  .next (if last < first ∨ 63 < last ∨ !((s.pageLeaf (frame * 2048 / 4096 * 4096)).any hostCoherent) then s
    else
      let crossed (x : Nat) : Bool := s.agents.any fun a => !(s.cache.wbpIn a frame x x).isEmpty
      let (late, free) := ((secsOf first last).filter crossed, (secsOf first last).filter fun x => !crossed x)
      let s := free.foldl (fun s x => s.drainRange (frame * 2048 + x * 32) 32) s
      s.onCaches fun m c => (runsOf late).foldl (fun c r =>
        let c := c.agents.foldl (fun c a => c.recut m a frame r.1 r.2 fun q => if q.st = .wbp then some (.wbp, true) else none) c
        (c.agents.foldl (fun c a => c.inFlight a frame r.1 r.2) c).askCoh hostAgent frame r.1 r.2 true false) c)

/-- The base and size of the page that a physical address lies in; 4 KiB where no leaf maps it. -/
def State.pageSpan (s : State) (pa : Nat) : Nat × Nat :=
  match s.pageLeaf (pa / 4096 * 4096) with
  | some e => ((⟨0, 4096, e⟩ : Leaf).pageBase, tierSize (pteTier e))
  | none => (pa / 4096 * 4096, 4096)

/-- Flip the bias of the page of a physical address (R204): the losing side is drained and invalidated over the whole page before the flip completes. -/
def State.flipBias (s : State) (pa : Nat) (toHost : Bool) : State :=
  let p := s.pageSpan pa
  let rest := s.bias.filter fun x => x.1 != p.1
  if toHost then { s.drainRange p.1 p.2 with bias := p :: rest } else { s with bias := rest }

/-- BIAS_FLIP (R204, R418): of a host-bias or device-bias page. -/
def execBiasFlip (page : Nat) (toHost : Bool) (s : State) : Out :=
  .next (if (s.pageLeaf (page * 4096)).any biased then s.flipBias (page * 4096) toHost else s)

/-- An access of the host to a page, before it performs (R204, R287): a page with a bias is flipped to the host, the device's copies of any other page that they share go home. -/
def State.hostTakes (s : State) (page : Nat) : State :=
  match s.pageLeaf (page * 4096) with
  | none => s
  | some e => if biased e && !s.bias.any (fun p => decide (p.1 ≤ page * 4096) && decide (page * 4096 < p.1 + p.2)) then s.flipBias (page * 4096) true else s

/-! ### Invalidations (R206) -/

/-- The contexts an invalidation acts on: the one bound to its PASID, or all. -/
def State.invalTargets (s : State) (pasid : Option Nat) (c : Nat) : Bool :=
  match pasid with
  | none => true
  | some p => (s.ctxAt c).bound && (s.ctxAt c).pasid == p

/-- Whether a cached leaf overlaps a range. -/
def Leaf.meets (x : Leaf) (va len : Nat) : Bool := decide (x.va < va + len) && decide (va < x.va + x.size)

/-- Remove the cached translations that overlap a range (R206); every lane's last-page register is cleared (Table 8.7). -/
def State.dropLeaves (s : State) (va len : Nat) (pasid : Option Nat) : State :=
  let keep (e : Nat × Leaf) : Bool := !(s.invalTargets pasid e.1 && e.2.meets va len)
  { s with
    cores := s.cores.map fun e => (e.1, { e.2 with tlb := e.2.tlb.filter keep, lanes := [] })
    dies := s.dies.map fun e => (e.1, { e.2 with tlb := e.2.tlb.filter keep }) }

/-- Invalidate a range: the cached translations go, every request that waits and was translated under one of them is cancelled and translated again, and a completion is owed (R206). -/
def State.invalidate (s : State) (va len : Nat) (pasid : Option Nat) : State :=
  let s := (s.dropLeaves va len pasid).retranslate fun r => s.invalTargets pasid (s.gridAt (s.groupAt r.grp).grid).ctx && r.touches va len
  { s with invals := s.invals ++ [⟨va, len, pasid⟩] }

/-- ATS_INVALIDATION (R206). -/
def execAtsInvalidation (va len : Nat) (pasid : Option Nat) (s : State) : Out := .next (s.invalidate va len pasid)

/-- INVALIDATION_COMPLETION (R206): every request has performed, or has been translated again. -/
def execInvalidationCompletion (idx : Nat) (s : State) : Out := .next { s with invals := s.invals.eraseIdx idx }

/-! ### Lost data (R229 to R232) -/

/-- Mark a whole page lost (R231): it joins the lost-page list, P of its leaves is cleared, and the translations are invalidated. -/
def State.losePage (s : State) (pa : Nat) : State :=
  let page := pa / 4096 * 4096
  let leaves := s.leavesOf page
  let (base, size) := s.pageSpan page
  let s := leaves.foldl (fun s a => let e := s.entryAt a; s.writeThrough a (toBytes 8 (if pteP e then e - 2 else e))) s
  let s := { s with lostPages := if s.lostPages.contains base then s.lostPages else s.lostPages ++ [base], lost := s.lost.filter fun x => !(decide (base ≤ x * 32) && decide (x * 32 < base + size)) }
  (s.invalidate 0 (2 ^ 57) none).raiseErr ⟨0x0007, 2, 0xFF, 0, 0xFFFFFFFF, 1, base, 0⟩

/-- Lost-range entries a memory die holds (R229, VL-5248 value). -/
def lostEntries : Nat := 4096

/-- The home memory die of a frame: the die whose addresses hold it (R211); which those are is the implementation's (log 41). -/
def memoryDie (frame : Nat) : Option Nat := (List.range 8).find? fun k => decide ((Config.homeRange k).1 ≤ frame * 2048) && decide (frame * 2048 < (Config.homeRange k).1 + (Config.homeRange k).2)

/-- The entries (frame, first, last) of the lost-range tables (R229): runs within a frame. -/
def State.lostRuns (s : State) : List (Nat × Nat × Nat) :=
  ((s.lost.map (· / 64)).eraseDups).flatMap fun f =>
    (runsOf (sortBy (fun a b => decide (a < b)) ((s.lost.filter fun x => x / 64 == f).map (· % 64)))).map fun r => (f, r.1, r.2)

/-- Whether the lost-range table of a frame's home memory die holds more than it has room for (R229, R231). -/
def State.lostFull (s : State) (frame : Nat) : Bool :=
  if s.lost.length ≤ lostEntries then false
  else decide (lostEntries < (s.lostRuns.filter fun r => memoryDie r.1 == memoryDie frame).length)

/-- Mark sectors of a frame lost (R229): memory keeps its older bytes, those of the home slice of the die while that survives. -/
def State.loseRun (s : State) (die : Option Nat) (frame first last : Nat) : State :=
  let secs := (secsOf first last).map (frame * 64 + ·)
  let s := secs.foldl (fun s x => s.discardSector die.isNone (die.getD 0) x) s
  let s := { s with lost := s.lost ++ secs.filter fun x => !s.lost.contains x }
  let s := s.raiseErr ⟨0x0007, 0, 0xFF, 0, 0xFFFFFFFF, 0, frame * 2048, first + 256 * last⟩
  if s.lostFull frame then s.losePage (frame * 2048) else s

/-- The sectors of a quire that no other agent of the device holds, where the quire owns them: in M, O or WBP (R229). -/
def Caches.heldAlone (c : Caches) (agent : Nat) (q : Quire) : List Nat :=
  if q.tracked && (q.st == .m || q.st == .o || q.st == .wbp) then
    (secsOf q.first q.last).filter fun x => !c.agents.any fun a => a != agent && (c.at_ a).any fun r => r.tracked && r.overlaps q.frame x x
  else []

/-- The runs (frame, first, last) of sectors that an agent owned alone. -/
def State.aloneRuns (s : State) (agent : Nat) : List (Nat × Nat × Nat) :=
  (s.quires agent).flatMap fun q => (runsOf (s.cache.heldAlone agent q)).map fun r => (q.frame, r.1, r.2)

/-- An agent is gone: the sectors of which it alone held a copy, in M, O or WBP, are lost, its quires are no more (R229). -/
def State.agentGone (s : State) (agent : Nat) : State :=
  let runs := s.aloneRuns agent
  let l1 := isL1 agent
  let s := runs.foldl (fun s r => s.loseRun (if l1 then some (agentDie agent) else none) r.1 r.2.1 r.2.2) s
  s.onCaches fun m c =>
    let c := c.put agent []
    if l1 then runs.foldl (fun c r => (secsOf r.2.1 r.2.2).foldl (fun c x => if c.inL2 (agentDie agent) (r.1 * 64 + x) then c.l2Take m (agentDie agent) r.1 false (x, x) else c) c) c
    else { c with l2 := SMap.erase c.l2 (agentDie agent) }

/-- The cores of a unit. -/
def unitCores (u : FUnit) : List Nat :=
  match u with
  | .core n => [n]
  | .cluster n => (List.range 8).map fun i => n * 8 + i
  | .die n => (List.range 96).map fun i => n * 96 + i
  | _ => []

/-- The cache agents of a unit, L1s before the slices behind them. -/
def unitAgents (u : FUnit) : List Nat :=
  unitCores u ++ (match u with
    | .die n => [l2Agent n]
    | _ => [])

/-- One salvage record (R232). -/
def State.salvage (s : State) (home frame first last : Nat) : State :=
  let a := s.salvBase + s.salvOff
  let n := last + 1 - first
  let bytes := toBytes 8 (frame * 2048) ++ toBytes 1 first ++ toBytes 1 last ++ toBytes 2 n ++ toBytes 4 home ++ toBytes 8 s.salvSeq ++ toBytes 8 0 ++
    s.mem.readN (frame * 2048 + first * 32) (32 * n)
  let s := { s.writeThrough a bytes with salvOff := s.salvOff + 32 + 32 * n, salvSeq := s.salvSeq + 1 }
  s.raiseErr ⟨0x0002, 0, 0xFF, 0, 0x20000 + home, home, a, n⟩

/-- HOME_FAILURE (R232): surviving agents write their dirty sectors of the range to the salvage area and invalidate their copies; later accesses take detail 0x0B. -/
def execHomeFailure (home base len : Nat) (s : State) : Out :=
  let inR (f x : Nat) : Bool := decide (base ≤ f * 2048 + x * 32) && decide (f * 2048 + x * 32 < base + len)
  let saved := s.agents.foldl (fun s a =>
    let runs := (s.quires a).flatMap fun q => (runsOf (sortBy (fun a b => decide (a < b)) (q.dirty.filter (inR q.frame)))).map fun r => (q.frame, r.1, r.2)
    runs.foldl (fun s r => s.salvage home r.1 r.2.1 r.2.2) s) s
  let drop (m : Memory) (c : Caches) (a : Nat) : Caches :=
    let runs := (c.at_ a).flatMap fun q => (runsOf ((secsOf q.first q.last).filter (inR q.frame))).map fun r => (q.frame, r.1, r.2)
    runs.foldl (fun c r => (c.recut m a r.1 r.2.1 r.2.2 fun _ => none).dropFwd m a r.1 r.2.1 r.2.2) c
  let s' := saved.onCaches fun m c => (c.agents ++ (List.range 24).map l2Agent).foldl (drop m) c
  .next { s' with failedHomes := s'.failedHomes ++ [(base, len)] }

end Sys2Proof.Machine
end

