-- ==== Sys2Proof/Decode.lean ====
section
/-! DEFINITION. Decoding and encoding of instruction words (R31 to R35, R42, Table 2.2 and the field tables of the class chapters).
Words are natural numbers below 2^32; `w` is the header word and `pl` the word after it, which a long form takes as its payload. -/

namespace Sys2Proof

/-- Why a word is no instruction, named with its Table 2.4 detail code. -/
inductive Reject where
  | reservedMajor    -- detail 0x01
  | alwaysIllegal    -- detail 0x02
  | reservedField    -- detail 0x03
  | reservedPredicate -- detail 0x0C
  | truncated        -- fewer bytes than the instruction has
deriving DecidableEq, Repr

/-- The detail code of a rejection (Table 2.4); a truncated instruction is not a Table 2.4 condition. -/
def Reject.detail : Reject → Nat
  | .reservedMajor => 0x01
  | .alwaysIllegal => 0x02
  | .reservedField => 0x03
  | .reservedPredicate => 0x0C
  | .truncated => 0

/-- The header fields of a word (Table 2.1). -/
def hdrOf (w : Nat) : Hdr := ⟨bitAt w 31, bitAt w 30, BitVec.ofNat 3 (fld w 27 3)⟩

/-- The major opcode of a word (Table 2.1). -/
def opOf (w : Nat) : Nat := fld w 20 7

/-- The reserved majors of Table 2.4, detail 0x01. -/
def isReservedMajor (op : Nat) : Bool :=
  op == 0x0E || op == 0x0F || op == 0x37 || op == 0x3F || op == 0x4E || op == 0x4F || op == 0x6B || op == 0x75

/-- The majors of format L, whose instructions take a payload word (R35, Table 2.5). -/
def isLongMajor (op : Nat) : Bool :=
  (decide (0x25 ≤ op) && decide (op ≤ 0x2A)) || op == 0x30 || op == 0x47 || op == 0x50 || op == 0x53 || op == 0x54 ||
  op == 0x56 || (decide (0x58 ≤ op) && decide (op ≤ 0x5A)) || (decide (0x5C ≤ op) && decide (op ≤ 0x5E)) ||
  op == 0x62 || op == 0x63 || (decide (0x66 ≤ op) && decide (op ≤ 0x6A)) || (decide (0x6C ≤ op) && decide (op ≤ 0x6E)) ||
  op == 0x71 || op == 0x74 || op == 0x76 || op == 0x77 || (decide (0x79 ≤ op) && decide (op ≤ 0x7B))

/-- The fields of NOP (R68); none for a reserved value. -/
def rawNop (w : Nat) : Option Instr :=
  if fld w 0 20 == 0 then
    some (.nop (hdrOf w))
  else none

/-- The fields of BRA (R69); none for a reserved value. -/
def rawBra (w : Nat) : Option Instr :=
  if fld w 14 6 == 0 then
    some (.bra (hdrOf w) (BitVec.ofNat 14 (fld w 0 14)))
  else none

/-- The fields of BRP (R69); none for a reserved value. -/
def rawBrp (w : Nat) : Option Instr :=
  some (.brp (hdrOf w) (BitVec.ofNat 6 (fld w 14 6)) (BitVec.ofNat 14 (fld w 0 14)))

/-- The fields of BRN (R69); none for a reserved value. -/
def rawBrn (w : Nat) : Option Instr :=
  some (.brn (hdrOf w) (BitVec.ofNat 6 (fld w 14 6)) (BitVec.ofNat 14 (fld w 0 14)))

/-- The fields of BRU (R70); none for a reserved value. -/
def rawBru (w : Nat) : Option Instr :=
  some (.bru (hdrOf w) (BitVec.ofNat 6 (fld w 14 6)) (BitVec.ofNat 14 (fld w 0 14)))

/-- The fields of BRUZ (R70); none for a reserved value. -/
def rawBruz (w : Nat) : Option Instr :=
  some (.bruz (hdrOf w) (BitVec.ofNat 6 (fld w 14 6)) (BitVec.ofNat 14 (fld w 0 14)))

/-- The fields of JMPX (R71); none for a reserved value. -/
def rawJmpx (w : Nat) : Option Instr :=
  if fld w 0 8 == 0 && fld w 14 6 == 0 then
    some (.jmpx (hdrOf w) (BitVec.ofNat 6 (fld w 8 6)))
  else none

/-- The fields of CALL (R72); none for a reserved value. -/
def rawCall (w : Nat) : Option Instr :=
  some (.call (hdrOf w) (BitVec.ofNat 6 (fld w 14 6)) (BitVec.ofNat 14 (fld w 0 14)))

/-- The fields of CALLX (R72); none for a reserved value. -/
def rawCallx (w : Nat) : Option Instr :=
  if fld w 0 8 == 0 then
    some (.callx (hdrOf w) (BitVec.ofNat 6 (fld w 14 6)) (BitVec.ofNat 6 (fld w 8 6)))
  else none

/-- The fields of RET (R73); none for a reserved value. -/
def rawRet (w : Nat) : Option Instr :=
  if fld w 0 8 == 0 && fld w 14 6 == 0 then
    some (.ret (hdrOf w) (BitVec.ofNat 6 (fld w 8 6)))
  else none

/-- The fields of EXIT (R75); none for a reserved value. -/
def rawExit (w : Nat) : Option Instr :=
  if fld w 0 20 == 0 then
    some (.exit (hdrOf w))
  else none

/-- The fields of DWAIT (R77); none for a reserved value. -/
def rawDwait (w : Nat) : Option Instr :=
  if fld w 6 7 == 0 then
    some (.dwait (hdrOf w) (BitVec.ofNat 7 (fld w 13 7)) (BitVec.ofNat 6 (fld w 0 6)))
  else none

/-- The fields of CHKM (R78); none for a reserved value. -/
def rawChkm (w : Nat) : Option Instr :=
  if fld w 2 18 == 0 then
    (CheckMode.ofNat? (fld w 0 2)).bind fun mode =>
    some (.chkm (hdrOf w) mode)
  else none

/-- The fields of BRK (R79); none for a reserved value. -/
def rawBrk (w : Nat) : Option Instr :=
  if fld w 16 4 == 0 then
    some (.brk (hdrOf w) (BitVec.ofNat 16 (fld w 0 16)))
  else none

/-- The fields of IADD (R86); none for a reserved value. -/
def rawIadd (w : Nat) : Option Instr :=
  some (.iadd (hdrOf w) (BitVec.ofNat 6 (fld w 14 6)) (BitVec.ofNat 6 (fld w 8 6)) (BitVec.ofNat 6 (fld w 2 6)) (BitVec.ofNat 2 (fld w 0 2)))

/-- The fields of ISUB (R86); none for a reserved value. -/
def rawIsub (w : Nat) : Option Instr :=
  some (.isub (hdrOf w) (BitVec.ofNat 6 (fld w 14 6)) (BitVec.ofNat 6 (fld w 8 6)) (BitVec.ofNat 6 (fld w 2 6)) (BitVec.ofNat 2 (fld w 0 2)))

/-- The fields of IMUL (R86); none for a reserved value. -/
def rawImul (w : Nat) : Option Instr :=
  some (.imul (hdrOf w) (BitVec.ofNat 6 (fld w 14 6)) (BitVec.ofNat 6 (fld w 8 6)) (BitVec.ofNat 6 (fld w 2 6)) (BitVec.ofNat 2 (fld w 0 2)))

/-- The fields of IMULH_S (R86); none for a reserved value. -/
def rawImulhS (w : Nat) : Option Instr :=
  some (.imulhS (hdrOf w) (BitVec.ofNat 6 (fld w 14 6)) (BitVec.ofNat 6 (fld w 8 6)) (BitVec.ofNat 6 (fld w 2 6)) (BitVec.ofNat 2 (fld w 0 2)))

/-- The fields of IMULH_N (R86); none for a reserved value. -/
def rawImulhN (w : Nat) : Option Instr :=
  some (.imulhN (hdrOf w) (BitVec.ofNat 6 (fld w 14 6)) (BitVec.ofNat 6 (fld w 8 6)) (BitVec.ofNat 6 (fld w 2 6)) (BitVec.ofNat 2 (fld w 0 2)))

/-- The fields of IMAD (R86); none for a reserved value. -/
def rawImad (w : Nat) : Option Instr :=
  some (.imad (hdrOf w) (BitVec.ofNat 6 (fld w 14 6)) (BitVec.ofNat 6 (fld w 8 6)) (BitVec.ofNat 6 (fld w 2 6)) (BitVec.ofNat 2 (fld w 0 2)))

/-- The fields of IADDI (R87); none for a reserved value. -/
def rawIaddi (w : Nat) : Option Instr :=
  some (.iaddi (hdrOf w) (BitVec.ofNat 6 (fld w 14 6)) (BitVec.ofNat 6 (fld w 8 6)) (BitVec.ofNat 8 (fld w 0 8)))

/-- The fields of IMIN_S (R86); none for a reserved value. -/
def rawIminS (w : Nat) : Option Instr :=
  some (.iminS (hdrOf w) (BitVec.ofNat 6 (fld w 14 6)) (BitVec.ofNat 6 (fld w 8 6)) (BitVec.ofNat 6 (fld w 2 6)) (BitVec.ofNat 2 (fld w 0 2)))

/-- The fields of IMIN_N (R86); none for a reserved value. -/
def rawIminN (w : Nat) : Option Instr :=
  some (.iminN (hdrOf w) (BitVec.ofNat 6 (fld w 14 6)) (BitVec.ofNat 6 (fld w 8 6)) (BitVec.ofNat 6 (fld w 2 6)) (BitVec.ofNat 2 (fld w 0 2)))

/-- The fields of IMAX_S (R86); none for a reserved value. -/
def rawImaxS (w : Nat) : Option Instr :=
  some (.imaxS (hdrOf w) (BitVec.ofNat 6 (fld w 14 6)) (BitVec.ofNat 6 (fld w 8 6)) (BitVec.ofNat 6 (fld w 2 6)) (BitVec.ofNat 2 (fld w 0 2)))

/-- The fields of IMAX_N (R86); none for a reserved value. -/
def rawImaxN (w : Nat) : Option Instr :=
  some (.imaxN (hdrOf w) (BitVec.ofNat 6 (fld w 14 6)) (BitVec.ofNat 6 (fld w 8 6)) (BitVec.ofNat 6 (fld w 2 6)) (BitVec.ofNat 2 (fld w 0 2)))

/-- The fields of SHL (R86); none for a reserved value. -/
def rawShl (w : Nat) : Option Instr :=
  some (.shl (hdrOf w) (BitVec.ofNat 6 (fld w 14 6)) (BitVec.ofNat 6 (fld w 8 6)) (BitVec.ofNat 6 (fld w 2 6)) (BitVec.ofNat 2 (fld w 0 2)))

/-- The fields of SHR (R86); none for a reserved value. -/
def rawShr (w : Nat) : Option Instr :=
  some (.shr (hdrOf w) (BitVec.ofNat 6 (fld w 14 6)) (BitVec.ofNat 6 (fld w 8 6)) (BitVec.ofNat 6 (fld w 2 6)) (BitVec.ofNat 2 (fld w 0 2)))

/-- The fields of SAR (R86); none for a reserved value. -/
def rawSar (w : Nat) : Option Instr :=
  some (.sar (hdrOf w) (BitVec.ofNat 6 (fld w 14 6)) (BitVec.ofNat 6 (fld w 8 6)) (BitVec.ofNat 6 (fld w 2 6)) (BitVec.ofNat 2 (fld w 0 2)))

/-- The fields of SHLI (R87); none for a reserved value. -/
def rawShli (w : Nat) : Option Instr :=
  if fld w 5 1 == 0 && fld w 6 2 == 0 then
    some (.shli (hdrOf w) (BitVec.ofNat 6 (fld w 14 6)) (BitVec.ofNat 6 (fld w 8 6)) (BitVec.ofNat 5 (fld w 0 5)))
  else none

/-- The fields of SHRI (R87); none for a reserved value. -/
def rawShri (w : Nat) : Option Instr :=
  if fld w 5 1 == 0 && fld w 6 2 == 1 then
    some (.shri (hdrOf w) (BitVec.ofNat 6 (fld w 14 6)) (BitVec.ofNat 6 (fld w 8 6)) (BitVec.ofNat 5 (fld w 0 5)))
  else none

/-- The fields of SARI (R87); none for a reserved value. -/
def rawSari (w : Nat) : Option Instr :=
  if fld w 5 1 == 0 && fld w 6 2 == 2 then
    some (.sari (hdrOf w) (BitVec.ofNat 6 (fld w 14 6)) (BitVec.ofNat 6 (fld w 8 6)) (BitVec.ofNat 5 (fld w 0 5)))
  else none

/-- The fields of ROTI (R87); none for a reserved value. -/
def rawRoti (w : Nat) : Option Instr :=
  if fld w 5 1 == 0 && fld w 6 2 == 3 then
    some (.roti (hdrOf w) (BitVec.ofNat 6 (fld w 14 6)) (BitVec.ofNat 6 (fld w 8 6)) (BitVec.ofNat 5 (fld w 0 5)))
  else none

/-- The fields of AND (R86); none for a reserved value. -/
def rawAnd (w : Nat) : Option Instr :=
  some (.and (hdrOf w) (BitVec.ofNat 6 (fld w 14 6)) (BitVec.ofNat 6 (fld w 8 6)) (BitVec.ofNat 6 (fld w 2 6)) (BitVec.ofNat 2 (fld w 0 2)))

/-- The fields of OR (R86); none for a reserved value. -/
def rawOr (w : Nat) : Option Instr :=
  some (.or (hdrOf w) (BitVec.ofNat 6 (fld w 14 6)) (BitVec.ofNat 6 (fld w 8 6)) (BitVec.ofNat 6 (fld w 2 6)) (BitVec.ofNat 2 (fld w 0 2)))

/-- The fields of XOR (R86); none for a reserved value. -/
def rawXor (w : Nat) : Option Instr :=
  some (.xor (hdrOf w) (BitVec.ofNat 6 (fld w 14 6)) (BitVec.ofNat 6 (fld w 8 6)) (BitVec.ofNat 6 (fld w 2 6)) (BitVec.ofNat 2 (fld w 0 2)))

/-- The fields of ANDN (R86); none for a reserved value. -/
def rawAndn (w : Nat) : Option Instr :=
  some (.andn (hdrOf w) (BitVec.ofNat 6 (fld w 14 6)) (BitVec.ofNat 6 (fld w 8 6)) (BitVec.ofNat 6 (fld w 2 6)) (BitVec.ofNat 2 (fld w 0 2)))

/-- The fields of ANDI (R87); none for a reserved value. -/
def rawAndi (w : Nat) : Option Instr :=
  if fld w 6 2 == 0 then
    some (.andi (hdrOf w) (BitVec.ofNat 6 (fld w 14 6)) (BitVec.ofNat 6 (fld w 8 6)) (BitVec.ofNat 6 (fld w 0 6)))
  else none

/-- The fields of ORI (R87); none for a reserved value. -/
def rawOri (w : Nat) : Option Instr :=
  if fld w 6 2 == 1 then
    some (.ori (hdrOf w) (BitVec.ofNat 6 (fld w 14 6)) (BitVec.ofNat 6 (fld w 8 6)) (BitVec.ofNat 6 (fld w 0 6)))
  else none

/-- The fields of XORI (R87); none for a reserved value. -/
def rawXori (w : Nat) : Option Instr :=
  if fld w 6 2 == 2 then
    some (.xori (hdrOf w) (BitVec.ofNat 6 (fld w 14 6)) (BitVec.ofNat 6 (fld w 8 6)) (BitVec.ofNat 6 (fld w 0 6)))
  else none

/-- The fields of NOT (R88); none for a reserved value. -/
def rawNot (w : Nat) : Option Instr :=
  if fld w 2 6 == 0 then
    some (.not (hdrOf w) (BitVec.ofNat 6 (fld w 14 6)) (BitVec.ofNat 6 (fld w 8 6)) (BitVec.ofNat 2 (fld w 0 2)))
  else none

/-- The fields of POPC (R88); none for a reserved value. -/
def rawPopc (w : Nat) : Option Instr :=
  if fld w 2 6 == 1 then
    some (.popc (hdrOf w) (BitVec.ofNat 6 (fld w 14 6)) (BitVec.ofNat 6 (fld w 8 6)) (BitVec.ofNat 2 (fld w 0 2)))
  else none

/-- The fields of CLZ (R88); none for a reserved value. -/
def rawClz (w : Nat) : Option Instr :=
  if fld w 2 6 == 2 then
    some (.clz (hdrOf w) (BitVec.ofNat 6 (fld w 14 6)) (BitVec.ofNat 6 (fld w 8 6)) (BitVec.ofNat 2 (fld w 0 2)))
  else none

/-- The fields of BREV (R88); none for a reserved value. -/
def rawBrev (w : Nat) : Option Instr :=
  if fld w 2 6 == 3 then
    some (.brev (hdrOf w) (BitVec.ofNat 6 (fld w 14 6)) (BitVec.ofNat 6 (fld w 8 6)) (BitVec.ofNat 2 (fld w 0 2)))
  else none

/-- The fields of IABS (R88); none for a reserved value. -/
def rawIabs (w : Nat) : Option Instr :=
  if fld w 2 6 == 4 then
    some (.iabs (hdrOf w) (BitVec.ofNat 6 (fld w 14 6)) (BitVec.ofNat 6 (fld w 8 6)) (BitVec.ofNat 2 (fld w 0 2)))
  else none

/-- The fields of INEG (R88); none for a reserved value. -/
def rawIneg (w : Nat) : Option Instr :=
  if fld w 2 6 == 5 then
    some (.ineg (hdrOf w) (BitVec.ofNat 6 (fld w 14 6)) (BitVec.ofNat 6 (fld w 8 6)) (BitVec.ofNat 2 (fld w 0 2)))
  else none

/-- The fields of BFX (R91); none for a reserved value. -/
def rawBfx (w pl : Nat) : Option Instr :=
  if fld w 2 6 == 0 && fld pl 5 3 == 0 && fld pl 14 2 == 0 && fld pl 17 15 == 0 then
    some (.bfx (hdrOf w) (BitVec.ofNat 6 (fld w 14 6)) (BitVec.ofNat 6 (fld w 8 6)) (BitVec.ofNat 2 (fld w 0 2)) (BitVec.ofNat 5 (fld pl 0 5)) (BitVec.ofNat 6 (fld pl 8 6)) (bitAt pl 16))
  else none

/-- The fields of BFI (R91); none for a reserved value. -/
def rawBfi (w pl : Nat) : Option Instr :=
  if fld w 2 6 == 0 && fld pl 5 3 == 0 && fld pl 14 18 == 0 then
    some (.bfi (hdrOf w) (BitVec.ofNat 6 (fld w 14 6)) (BitVec.ofNat 6 (fld w 8 6)) (BitVec.ofNat 2 (fld w 0 2)) (BitVec.ofNat 5 (fld pl 0 5)) (BitVec.ofNat 6 (fld pl 8 6)))
  else none

/-- The fields of LEA (R92); none for a reserved value. -/
def rawLea (w pl : Nat) : Option Instr :=
  if fld pl 5 11 == 0 then
    some (.lea (hdrOf w) (BitVec.ofNat 6 (fld w 14 6)) (BitVec.ofNat 6 (fld w 8 6)) (BitVec.ofNat 6 (fld w 2 6)) (BitVec.ofNat 2 (fld w 0 2)) (BitVec.ofNat 5 (fld pl 0 5)) (BitVec.ofNat 16 (fld pl 16 16)))
  else none

/-- The fields of ICMP (R93); none for a reserved value. -/
def rawIcmp (w pl : Nat) : Option Instr :=
  if fld w 0 2 == 0 && fld pl 4 4 == 0 && fld pl 14 2 == 0 && fld pl 18 14 == 0 then
    (ICond.ofNat? (fld pl 0 4)).bind fun cond =>
    (Comb.ofNat? (fld pl 16 2)).bind fun comb =>
    some (.icmp (hdrOf w) (BitVec.ofNat 6 (fld w 14 6)) (BitVec.ofNat 6 (fld w 8 6)) (BitVec.ofNat 6 (fld w 2 6)) cond comb (BitVec.ofNat 6 (fld pl 8 6)))
  else none

/-- The fields of SEL (R94); none for a reserved value. -/
def rawSel (w pl : Nat) : Option Instr :=
  if fld pl 6 26 == 0 then
    some (.sel (hdrOf w) (BitVec.ofNat 6 (fld w 14 6)) (BitVec.ofNat 6 (fld w 8 6)) (BitVec.ofNat 6 (fld w 2 6)) (BitVec.ofNat 2 (fld w 0 2)) (BitVec.ofNat 6 (fld pl 0 6)))
  else none

/-- The fields of MOVI (R95); none for a reserved value. -/
def rawMovi (w pl : Nat) : Option Instr :=
  if fld w 2 12 == 0 then
    some (.movi (hdrOf w) (BitVec.ofNat 6 (fld w 14 6)) (BitVec.ofNat 2 (fld w 0 2)) (BitVec.ofNat 32 (fld pl 0 32)))
  else none

/-- The fields of MOVK (R89); none for a reserved value. -/
def rawMovk (w : Nat) : Option Instr :=
  if fld w 3 5 == 0 then
    some (.movk (hdrOf w) (BitVec.ofNat 6 (fld w 14 6)) (BitVec.ofNat 6 (fld w 8 6)) (bitAt w 2) (BitVec.ofNat 2 (fld w 0 2)))
  else none

/-- The fields of IDOT4 (R90); none for a reserved value. -/
def rawIdot4 (w : Nat) : Option Instr :=
  (DotMode.ofNat? (fld w 0 2)).bind fun mode =>
    some (.idot4 (hdrOf w) (BitVec.ofNat 6 (fld w 14 6)) (BitVec.ofNat 6 (fld w 8 6)) (BitVec.ofNat 6 (fld w 2 6)) mode)

/-- The fields of KADD (R97); none for a reserved value. -/
def rawKadd (w : Nat) : Option Instr :=
  if fld w 0 2 == 0 then
    some (.kadd (hdrOf w) (BitVec.ofNat 6 (fld w 14 6)) (BitVec.ofNat 6 (fld w 8 6)) (BitVec.ofNat 6 (fld w 2 6)))
  else none

/-- The fields of KSUB (R97); none for a reserved value. -/
def rawKsub (w : Nat) : Option Instr :=
  if fld w 0 2 == 1 then
    some (.ksub (hdrOf w) (BitVec.ofNat 6 (fld w 14 6)) (BitVec.ofNat 6 (fld w 8 6)) (BitVec.ofNat 6 (fld w 2 6)))
  else none

/-- The fields of KMUL (R97); none for a reserved value. -/
def rawKmul (w : Nat) : Option Instr :=
  if fld w 0 2 == 2 then
    some (.kmul (hdrOf w) (BitVec.ofNat 6 (fld w 14 6)) (BitVec.ofNat 6 (fld w 8 6)) (BitVec.ofNat 6 (fld w 2 6)))
  else none

/-- The fields of KAND (R97); none for a reserved value. -/
def rawKand (w : Nat) : Option Instr :=
  if fld w 0 2 == 3 then
    some (.kand (hdrOf w) (BitVec.ofNat 6 (fld w 14 6)) (BitVec.ofNat 6 (fld w 8 6)) (BitVec.ofNat 6 (fld w 2 6)))
  else none

/-- The fields of KOR (R97); none for a reserved value. -/
def rawKor (w : Nat) : Option Instr :=
  if fld w 0 2 == 0 then
    some (.kor (hdrOf w) (BitVec.ofNat 6 (fld w 14 6)) (BitVec.ofNat 6 (fld w 8 6)) (BitVec.ofNat 6 (fld w 2 6)))
  else none

/-- The fields of KXOR (R97); none for a reserved value. -/
def rawKxor (w : Nat) : Option Instr :=
  if fld w 0 2 == 1 then
    some (.kxor (hdrOf w) (BitVec.ofNat 6 (fld w 14 6)) (BitVec.ofNat 6 (fld w 8 6)) (BitVec.ofNat 6 (fld w 2 6)))
  else none

/-- The fields of KSHL (R97); none for a reserved value. -/
def rawKshl (w : Nat) : Option Instr :=
  if fld w 0 2 == 2 then
    some (.kshl (hdrOf w) (BitVec.ofNat 6 (fld w 14 6)) (BitVec.ofNat 6 (fld w 8 6)) (BitVec.ofNat 6 (fld w 2 6)))
  else none

/-- The fields of KSHR (R97); none for a reserved value. -/
def rawKshr (w : Nat) : Option Instr :=
  if fld w 0 2 == 3 then
    some (.kshr (hdrOf w) (BitVec.ofNat 6 (fld w 14 6)) (BitVec.ofNat 6 (fld w 8 6)) (BitVec.ofNat 6 (fld w 2 6)))
  else none

/-- The fields of KADDI (R98); none for a reserved value. -/
def rawKaddi (w : Nat) : Option Instr :=
  some (.kaddi (hdrOf w) (BitVec.ofNat 6 (fld w 14 6)) (BitVec.ofNat 6 (fld w 8 6)) (BitVec.ofNat 8 (fld w 0 8)))

/-- The fields of KSET (R99); none for a reserved value. -/
def rawKset (w pl : Nat) : Option Instr :=
  if fld w 2 12 == 0 then
    (KsetMode.ofNat? (fld w 0 2)).bind fun f =>
    some (.kset (hdrOf w) (BitVec.ofNat 6 (fld w 14 6)) f (BitVec.ofNat 32 (fld pl 0 32)))
  else none

/-- The fields of KCMP (R98); none for a reserved value. -/
def rawKcmp (w : Nat) : Option Instr :=
  (KCond.ofNat? (fld w 0 2)).bind fun cond =>
    some (.kcmp (hdrOf w) (BitVec.ofNat 6 (fld w 14 6)) (BitVec.ofNat 6 (fld w 8 6)) (BitVec.ofNat 6 (fld w 2 6)) cond)

/-- The fields of KMOV (R98); none for a reserved value. -/
def rawKmov (w : Nat) : Option Instr :=
  if fld w 0 8 == 0 then
    some (.kmov (hdrOf w) (BitVec.ofNat 6 (fld w 14 6)) (BitVec.ofNat 6 (fld w 8 6)))
  else none

/-- The fields of KFROMV (R100); none for a reserved value. -/
def rawKfromv (w : Nat) : Option Instr :=
  (KfvMode.ofNat? (fld w 0 2)).bind fun f =>
    some (.kfromv (hdrOf w) (BitVec.ofNat 6 (fld w 14 6)) (BitVec.ofNat 6 (fld w 8 6)) (BitVec.ofNat 6 (fld w 2 6)) f)

/-- The fields of PAND (R101); none for a reserved value. -/
def rawPand (w : Nat) : Option Instr :=
  if fld w 0 2 == 0 then
    some (.pand (hdrOf w) (BitVec.ofNat 6 (fld w 14 6)) (BitVec.ofNat 6 (fld w 8 6)) (BitVec.ofNat 6 (fld w 2 6)))
  else none

/-- The fields of POR (R101); none for a reserved value. -/
def rawPor (w : Nat) : Option Instr :=
  if fld w 0 2 == 1 then
    some (.por (hdrOf w) (BitVec.ofNat 6 (fld w 14 6)) (BitVec.ofNat 6 (fld w 8 6)) (BitVec.ofNat 6 (fld w 2 6)))
  else none

/-- The fields of PXOR (R101); none for a reserved value. -/
def rawPxor (w : Nat) : Option Instr :=
  if fld w 0 2 == 2 then
    some (.pxor (hdrOf w) (BitVec.ofNat 6 (fld w 14 6)) (BitVec.ofNat 6 (fld w 8 6)) (BitVec.ofNat 6 (fld w 2 6)))
  else none

/-- The fields of PANDN (R101); none for a reserved value. -/
def rawPandn (w : Nat) : Option Instr :=
  if fld w 0 2 == 3 then
    some (.pandn (hdrOf w) (BitVec.ofNat 6 (fld w 14 6)) (BitVec.ofNat 6 (fld w 8 6)) (BitVec.ofNat 6 (fld w 2 6)))
  else none

/-- The fields of PCLR (R101); none for a reserved value. -/
def rawPclr (w : Nat) : Option Instr :=
  if fld w 2 12 == 0 && fld w 0 2 == 0 then
    some (.pclr (hdrOf w) (BitVec.ofNat 6 (fld w 14 6)))
  else none

/-- The fields of PSET (R101); none for a reserved value. -/
def rawPset (w : Nat) : Option Instr :=
  if fld w 2 12 == 0 && fld w 0 2 == 1 then
    some (.pset (hdrOf w) (BitVec.ofNat 6 (fld w 14 6)))
  else none

/-- The fields of PNOT (R101); none for a reserved value. -/
def rawPnot (w : Nat) : Option Instr :=
  if fld w 2 6 == 0 && fld w 0 2 == 2 then
    some (.pnot (hdrOf w) (BitVec.ofNat 6 (fld w 14 6)) (BitVec.ofNat 6 (fld w 8 6)))
  else none

/-- The fields of PMOV (R101); none for a reserved value. -/
def rawPmov (w : Nat) : Option Instr :=
  if fld w 2 6 == 0 && fld w 0 2 == 3 then
    some (.pmov (hdrOf w) (BitVec.ofNat 6 (fld w 14 6)) (BitVec.ofNat 6 (fld w 8 6)))
  else none

/-- The fields of PTOV (R101); none for a reserved value. -/
def rawPtov (w : Nat) : Option Instr :=
  if fld w 2 6 == 0 && fld w 0 2 == 0 then
    some (.ptov (hdrOf w) (BitVec.ofNat 6 (fld w 14 6)) (BitVec.ofNat 6 (fld w 8 6)))
  else none

/-- The fields of VTOP (R101); none for a reserved value. -/
def rawVtop (w : Nat) : Option Instr :=
  if fld w 2 6 == 0 && fld w 0 2 == 1 then
    some (.vtop (hdrOf w) (BitVec.ofNat 6 (fld w 14 6)) (BitVec.ofNat 6 (fld w 8 6)))
  else none

/-- The fields of QSWP (R105); none for a reserved value. -/
def rawQswp (w : Nat) : Option Instr :=
  if fld w 2 6 == 0 then
    (QDir.ofNat? (fld w 0 2)).bind fun dir =>
    some (.qswp (hdrOf w) (BitVec.ofNat 6 (fld w 14 6)) (BitVec.ofNat 6 (fld w 8 6)) dir)
  else none

/-- The fields of QBC (R106); none for a reserved value. -/
def rawQbc (w : Nat) : Option Instr :=
  if fld w 2 6 == 0 then
    some (.qbc (hdrOf w) (BitVec.ofNat 6 (fld w 14 6)) (BitVec.ofNat 6 (fld w 8 6)) (BitVec.ofNat 2 (fld w 0 2)))
  else none

/-- The fields of QHLP (R103); none for a reserved value. -/
def rawQhlp (w : Nat) : Option Instr :=
  if fld w 2 18 == 0 then
    (HelperMode.ofNat? (fld w 0 2)).bind fun mode =>
    some (.qhlp (hdrOf w) mode)
  else none

/-- The fields of WSHF (R107); none for a reserved value. -/
def rawWshf (w : Nat) : Option Instr :=
  if fld w 0 2 == 0 then
    some (.wshf (hdrOf w) (BitVec.ofNat 6 (fld w 14 6)) (BitVec.ofNat 6 (fld w 8 6)) (BitVec.ofNat 6 (fld w 2 6)))
  else none

/-- The fields of WSHX (R107); none for a reserved value. -/
def rawWshx (w : Nat) : Option Instr :=
  if fld w 7 1 == 0 then
    (ShuffleMode.ofNat? (fld w 0 2)).bind fun mode =>
    some (.wshx (hdrOf w) (BitVec.ofNat 6 (fld w 14 6)) (BitVec.ofNat 6 (fld w 8 6)) (BitVec.ofNat 5 (fld w 2 5)) mode)
  else none

/-- The fields of WVOTE (R108); none for a reserved value. -/
def rawWvote (w : Nat) : Option Instr :=
  if fld w 2 6 == 0 then
    (VoteMode.ofNat? (fld w 0 2)).bind fun mode =>
    some (.wvote (hdrOf w) (BitVec.ofNat 6 (fld w 14 6)) (BitVec.ofNat 6 (fld w 8 6)) mode)
  else none

/-- The fields of WRED (R109); none for a reserved value. -/
def rawWred (w : Nat) : Option Instr :=
  if fld w 0 2 == 0 then
    (RedOp.ofNat? (fld w 2 6)).bind fun op =>
    some (.wred (hdrOf w) (BitVec.ofNat 6 (fld w 14 6)) (BitVec.ofNat 6 (fld w 8 6)) op)
  else none

/-- The fields of FADD (R144); none for a reserved value. -/
def rawFadd (w : Nat) : Option Instr :=
  some (.fadd (hdrOf w) (BitVec.ofNat 6 (fld w 14 6)) (BitVec.ofNat 6 (fld w 8 6)) (BitVec.ofNat 6 (fld w 2 6)) (BitVec.ofNat 2 (fld w 0 2)))

/-- The fields of FSUB (R144); none for a reserved value. -/
def rawFsub (w : Nat) : Option Instr :=
  some (.fsub (hdrOf w) (BitVec.ofNat 6 (fld w 14 6)) (BitVec.ofNat 6 (fld w 8 6)) (BitVec.ofNat 6 (fld w 2 6)) (BitVec.ofNat 2 (fld w 0 2)))

/-- The fields of FMUL (R144); none for a reserved value. -/
def rawFmul (w : Nat) : Option Instr :=
  some (.fmul (hdrOf w) (BitVec.ofNat 6 (fld w 14 6)) (BitVec.ofNat 6 (fld w 8 6)) (BitVec.ofNat 6 (fld w 2 6)) (BitVec.ofNat 2 (fld w 0 2)))

/-- The fields of FFMA (R144); none for a reserved value. -/
def rawFfma (w : Nat) : Option Instr :=
  some (.ffma (hdrOf w) (BitVec.ofNat 6 (fld w 14 6)) (BitVec.ofNat 6 (fld w 8 6)) (BitVec.ofNat 6 (fld w 2 6)) (BitVec.ofNat 2 (fld w 0 2)))

/-- The fields of FMIN (R144); none for a reserved value. -/
def rawFmin (w : Nat) : Option Instr :=
  some (.fmin (hdrOf w) (BitVec.ofNat 6 (fld w 14 6)) (BitVec.ofNat 6 (fld w 8 6)) (BitVec.ofNat 6 (fld w 2 6)) (BitVec.ofNat 2 (fld w 0 2)))

/-- The fields of FMAX (R144); none for a reserved value. -/
def rawFmax (w : Nat) : Option Instr :=
  some (.fmax (hdrOf w) (BitVec.ofNat 6 (fld w 14 6)) (BitVec.ofNat 6 (fld w 8 6)) (BitVec.ofNat 6 (fld w 2 6)) (BitVec.ofNat 2 (fld w 0 2)))

/-- The fields of FABS (R146); none for a reserved value. -/
def rawFabs (w : Nat) : Option Instr :=
  if fld w 2 6 == 0 then
    some (.fabs (hdrOf w) (BitVec.ofNat 6 (fld w 14 6)) (BitVec.ofNat 6 (fld w 8 6)) (BitVec.ofNat 2 (fld w 0 2)))
  else none

/-- The fields of FNEG (R146); none for a reserved value. -/
def rawFneg (w : Nat) : Option Instr :=
  if fld w 2 6 == 1 then
    some (.fneg (hdrOf w) (BitVec.ofNat 6 (fld w 14 6)) (BitVec.ofNat 6 (fld w 8 6)) (BitVec.ofNat 2 (fld w 0 2)))
  else none

/-- The fields of FRCP (R146); none for a reserved value. -/
def rawFrcp (w : Nat) : Option Instr :=
  if fld w 2 6 == 2 then
    some (.frcp (hdrOf w) (BitVec.ofNat 6 (fld w 14 6)) (BitVec.ofNat 6 (fld w 8 6)) (BitVec.ofNat 2 (fld w 0 2)))
  else none

/-- The fields of FRSQ (R146); none for a reserved value. -/
def rawFrsq (w : Nat) : Option Instr :=
  if fld w 2 6 == 3 then
    some (.frsq (hdrOf w) (BitVec.ofNat 6 (fld w 14 6)) (BitVec.ofNat 6 (fld w 8 6)) (BitVec.ofNat 2 (fld w 0 2)))
  else none

/-- The fields of FSQRT (R146); none for a reserved value. -/
def rawFsqrt (w : Nat) : Option Instr :=
  if fld w 2 6 == 4 then
    some (.fsqrt (hdrOf w) (BitVec.ofNat 6 (fld w 14 6)) (BitVec.ofNat 6 (fld w 8 6)) (BitVec.ofNat 2 (fld w 0 2)))
  else none

/-- The fields of FEX2 (R146); none for a reserved value. -/
def rawFex2 (w : Nat) : Option Instr :=
  if fld w 2 6 == 5 then
    some (.fex2 (hdrOf w) (BitVec.ofNat 6 (fld w 14 6)) (BitVec.ofNat 6 (fld w 8 6)) (BitVec.ofNat 2 (fld w 0 2)))
  else none

/-- The fields of FLG2 (R146); none for a reserved value. -/
def rawFlg2 (w : Nat) : Option Instr :=
  if fld w 2 6 == 6 then
    some (.flg2 (hdrOf w) (BitVec.ofNat 6 (fld w 14 6)) (BitVec.ofNat 6 (fld w 8 6)) (BitVec.ofNat 2 (fld w 0 2)))
  else none

/-- The fields of FSIN (R146); none for a reserved value. -/
def rawFsin (w : Nat) : Option Instr :=
  if fld w 2 6 == 7 then
    some (.fsin (hdrOf w) (BitVec.ofNat 6 (fld w 14 6)) (BitVec.ofNat 6 (fld w 8 6)) (BitVec.ofNat 2 (fld w 0 2)))
  else none

/-- The fields of FCOS (R146); none for a reserved value. -/
def rawFcos (w : Nat) : Option Instr :=
  if fld w 2 6 == 8 then
    some (.fcos (hdrOf w) (BitVec.ofNat 6 (fld w 14 6)) (BitVec.ofNat 6 (fld w 8 6)) (BitVec.ofNat 2 (fld w 0 2)))
  else none

/-- The fields of FCMP (R148); none for a reserved value. -/
def rawFcmp (w pl : Nat) : Option Instr :=
  if fld w 0 2 == 0 && fld pl 4 4 == 0 && fld pl 14 2 == 0 && fld pl 18 14 == 0 then
    (FCond.ofNat? (fld pl 0 4)).bind fun cond =>
    (Comb.ofNat? (fld pl 16 2)).bind fun comb =>
    some (.fcmp (hdrOf w) (BitVec.ofNat 6 (fld w 14 6)) (BitVec.ofNat 6 (fld w 8 6)) (BitVec.ofNat 6 (fld w 2 6)) cond comb (BitVec.ofNat 6 (fld pl 8 6)))
  else none

/-- The fields of FDOT2 (R149); none for a reserved value. -/
def rawFdot2 (w : Nat) : Option Instr :=
  if fld w 1 1 == 0 then
    some (.fdot2 (hdrOf w) (BitVec.ofNat 6 (fld w 14 6)) (BitVec.ofNat 6 (fld w 8 6)) (BitVec.ofNat 6 (fld w 2 6)) (bitAt w 0))
  else none

/-- The fields of HADD2 (R150); none for a reserved value. -/
def rawHadd2 (w : Nat) : Option Instr :=
  if fld w 1 1 == 0 then
    some (.hadd2 (hdrOf w) (BitVec.ofNat 6 (fld w 14 6)) (BitVec.ofNat 6 (fld w 8 6)) (BitVec.ofNat 6 (fld w 2 6)) (bitAt w 0))
  else none

/-- The fields of HMUL2 (R150); none for a reserved value. -/
def rawHmul2 (w : Nat) : Option Instr :=
  if fld w 1 1 == 0 then
    some (.hmul2 (hdrOf w) (BitVec.ofNat 6 (fld w 14 6)) (BitVec.ofNat 6 (fld w 8 6)) (BitVec.ofNat 6 (fld w 2 6)) (bitAt w 0))
  else none

/-- The fields of HFMA2 (R150); none for a reserved value. -/
def rawHfma2 (w : Nat) : Option Instr :=
  if fld w 1 1 == 0 then
    some (.hfma2 (hdrOf w) (BitVec.ofNat 6 (fld w 14 6)) (BitVec.ofNat 6 (fld w 8 6)) (BitVec.ofNat 6 (fld w 2 6)) (bitAt w 0))
  else none

/-- The fields of FRND (R151); none for a reserved value. -/
def rawFrnd (w : Nat) : Option Instr :=
  if fld w 2 6 == 0 then
    (Rm.ofNat? (fld w 0 2)).bind fun mode =>
    some (.frnd (hdrOf w) (BitVec.ofNat 6 (fld w 14 6)) (BitVec.ofNat 6 (fld w 8 6)) mode)
  else none

/-- The fields of FSETM (R152); none for a reserved value. -/
def rawFsetm (w : Nat) : Option Instr :=
  if fld w 8 6 == 0 then
    some (.fsetm (hdrOf w) (BitVec.ofNat 6 (fld w 14 6)) (BitVec.ofNat 4 (fld w 4 4)) (BitVec.ofNat 4 (fld w 0 4)))
  else none

/-- The fields of FCVT (R127); none for a reserved value. -/
def rawFcvt (w pl : Nat) : Option Instr :=
  if fld w 0 8 == 0 && fld pl 9 23 == 0 then
    (FType.ofNat? (fld pl 0 2)).bind fun dty =>
    (FType.ofNat? (fld pl 2 2)).bind fun sty =>
    (Rm5.ofNat? (fld pl 6 3)).bind fun rnd =>
    some (.fcvt (hdrOf w) (BitVec.ofNat 6 (fld w 14 6)) (BitVec.ofNat 6 (fld w 8 6)) dty sty (bitAt pl 4) (bitAt pl 5) rnd)
  else none

/-- The fields of FCVTI (R128); none for a reserved value. -/
def rawFcvti (w : Nat) : Option Instr :=
  if fld w 2 1 == 0 then
    (IType.ofNat? (fld w 5 3)).bind fun it =>
    (FType.ofNat? (fld w 3 2)).bind fun ft =>
    (Rm.ofNat? (fld w 0 2)).bind fun rnd =>
    some (.fcvti (hdrOf w) (BitVec.ofNat 6 (fld w 14 6)) (BitVec.ofNat 6 (fld w 8 6)) it ft rnd)
  else none

/-- The fields of ICVTF (R128); none for a reserved value. -/
def rawIcvtf (w : Nat) : Option Instr :=
  if fld w 2 1 == 0 then
    (IType.ofNat? (fld w 5 3)).bind fun it =>
    (FType.ofNat? (fld w 3 2)).bind fun ft =>
    (Rm.ofNat? (fld w 0 2)).bind fun rnd =>
    some (.icvtf (hdrOf w) (BitVec.ofNat 6 (fld w 14 6)) (BitVec.ofNat 6 (fld w 8 6)) it ft rnd)
  else none

/-- The fields of FPACK (R129); none for a reserved value. -/
def rawFpack (w pl : Nat) : Option Instr :=
  if fld pl 6 26 == 0 then
    some (.fpack (hdrOf w) (BitVec.ofNat 6 (fld w 14 6)) (BitVec.ofNat 6 (fld w 8 6)) (BitVec.ofNat 6 (fld w 2 6)) (BitVec.ofNat 2 (fld w 0 2)) (BitVec.ofNat 6 (fld pl 0 6)))
  else none

/-- The fields of FUNPK (R130); none for a reserved value. DEDUCED (log 82): c is not among the fields that R130 says must be 0, so with sc = 0 it may hold any value. -/
def rawFunpk (w pl : Nat) : Option Instr :=
  if fld pl 7 25 == 0 then
    some (.funpk (hdrOf w) (BitVec.ofNat 6 (fld w 14 6)) (BitVec.ofNat 6 (fld w 8 6)) (BitVec.ofNat 6 (fld w 2 6)) (BitVec.ofNat 2 (fld w 0 2)) (BitVec.ofNat 6 (fld pl 0 6)) (bitAt pl 6))
  else none

/-- The fields of FSCL (R131); none for a reserved value. -/
def rawFscl (w : Nat) : Option Instr :=
  (ScaleFmt.ofNat? (fld w 0 2)).bind fun sf =>
    some (.fscl (hdrOf w) (BitVec.ofNat 6 (fld w 14 6)) (BitVec.ofNat 6 (fld w 8 6)) (BitVec.ofNat 6 (fld w 2 6)) sf)

/-- The fields of FSCA (R132); none for a reserved value. -/
def rawFsca (w pl : Nat) : Option Instr :=
  if fld w 0 2 == 0 && fld pl 6 26 == 0 then
    some (.fsca (hdrOf w) (BitVec.ofNat 6 (fld w 14 6)) (BitVec.ofNat 6 (fld w 8 6)) (BitVec.ofNat 6 (fld w 2 6)) (BitVec.ofNat 6 (fld pl 0 6)))
  else none

/-- The fields of FZCT (R133); none for a reserved value. -/
def rawFzct (w : Nat) : Option Instr :=
  if fld w 1 13 == 0 then
    some (.fzct (hdrOf w) (BitVec.ofNat 6 (fld w 14 6)) (bitAt w 0))
  else none

/-- The fields of MMA (R166); none for a reserved value. -/
def rawMma (w pl : Nat) : Option Instr :=
  if fld pl 23 9 == 0 then
    (Semiring.ofNat? (fld w 2 2)).bind fun sr =>
    (MatType.ofNat? (fld pl 12 3)).bind fun ty =>
    some (.mma (hdrOf w) (BitVec.ofNat 6 (fld w 14 6)) (BitVec.ofNat 6 (fld w 8 6)) (BitVec.ofNat 4 (fld w 4 4)) sr (bitAt w 1) (bitAt w 0) (BitVec.ofNat 6 (fld pl 0 6)) (BitVec.ofNat 6 (fld pl 6 6)) ty (bitAt pl 15) (BitVec.ofNat 4 (fld pl 16 4)) (BitVec.ofNat 3 (fld pl 20 3)))
  else none

/-- The fields of MLUT (R177); none for a reserved value. -/
def rawMlut (w pl : Nat) : Option Instr :=
  if fld w 0 4 == 0 && fld pl 14 18 == 0 then
    some (.mlut (hdrOf w) (BitVec.ofNat 6 (fld w 14 6)) (BitVec.ofNat 6 (fld w 8 6)) (BitVec.ofNat 4 (fld w 4 4)) (BitVec.ofNat 6 (fld pl 0 6)) (bitAt pl 6) (bitAt pl 7) (BitVec.ofNat 3 (fld pl 8 3)) (BitVec.ofNat 2 (fld pl 11 2)) (bitAt pl 13))
  else none

/-- The fields of MLBLD (R176); none for a reserved value. -/
def rawMlbld (w pl : Nat) : Option Instr :=
  if fld w 0 3 == 0 && fld pl 13 19 == 0 then
    (BldType.ofNat? (fld pl 6 2)).bind fun ty =>
    some (.mlbld (hdrOf w) (BitVec.ofNat 6 (fld w 14 6)) (BitVec.ofNat 6 (fld w 8 6)) (BitVec.ofNat 5 (fld w 3 5)) (BitVec.ofNat 6 (fld pl 0 6)) ty (bitAt pl 8) (BitVec.ofNat 3 (fld pl 9 3)) (bitAt pl 12))
  else none

/-- The fields of MACZ (R171); none for a reserved value. -/
def rawMacz (w : Nat) : Option Instr :=
  if fld w 2 14 == 0 then
    (MaczVal.ofNat? (fld w 0 2)).bind fun val =>
    some (.macz (hdrOf w) (BitVec.ofNat 4 (fld w 16 4)) val)
  else none

/-- The fields of MACR (R172); none for a reserved value. -/
def rawMacr (w pl : Nat) : Option Instr :=
  if fld w 0 10 == 0 && fld pl 7 1 == 0 && fld pl 15 17 == 0 then
    some (.macr (hdrOf w) (BitVec.ofNat 6 (fld w 14 6)) (BitVec.ofNat 4 (fld w 10 4)) (BitVec.ofNat 6 (fld pl 0 6)) (bitAt pl 6) (BitVec.ofNat 4 (fld pl 8 4)) (BitVec.ofNat 3 (fld pl 12 3)))
  else none

/-- The fields of MACW (R172); none for a reserved value. -/
def rawMacw (w pl : Nat) : Option Instr :=
  if fld w 0 10 == 0 && fld pl 7 1 == 0 && fld pl 15 17 == 0 then
    some (.macw (hdrOf w) (BitVec.ofNat 6 (fld w 14 6)) (BitVec.ofNat 4 (fld w 10 4)) (BitVec.ofNat 6 (fld pl 0 6)) (bitAt pl 6) (BitVec.ofNat 4 (fld pl 8 4)) (BitVec.ofNat 3 (fld pl 12 3)))
  else none

/-- The code of a drain's element type (R173), whose order differs from that of the conversions. -/
def drainCode : FType → Nat
  | .f32 => 0
  | .bf16 => 1
  | .f16 => 2

/-- A drain's element type from its code; none for a reserved value. -/
def drainType? : Nat → Option FType
  | 0 => some .f32
  | 1 => some .bf16
  | 2 => some .f16
  | _ => none

/-- The fields of MDRN (R173); none for a reserved value. -/
def rawMdrn (w pl : Nat) : Option Instr :=
  if fld w 1 1 == 0 && fld w 15 1 == 0 && fld pl 17 15 == 0 then
    (drainType? (fld pl 0 2)).bind fun ety =>
    some (.mdrn (hdrOf w) (BitVec.ofNat 4 (fld w 16 4)) (bitAt w 14) (BitVec.ofNat 6 (fld w 8 6)) (BitVec.ofNat 6 (fld w 2 6)) (bitAt w 0) ety (BitVec.ofNat 3 (fld pl 2 3)) (BitVec.ofNat 6 (fld pl 5 6)) (BitVec.ofNat 6 (fld pl 11 6)))
  else none

/-- The fields of MPAIR_BIND (R155); none for a reserved value. -/
def rawMpairBind (w : Nat) : Option Instr :=
  if fld w 2 18 == 0 && fld w 0 2 == 0 then
    some (.mpairBind (hdrOf w))
  else none

/-- The fields of MPAIR_REL (R155); none for a reserved value. -/
def rawMpairRel (w : Nat) : Option Instr :=
  if fld w 2 18 == 0 && fld w 0 2 == 1 then
    some (.mpairRel (hdrOf w))
  else none

/-- The fields of LD (R183); none for a reserved value. -/
def rawLd (w : Nat) : Option Instr :=
  (ESize.ofNat? (fld w 0 2)).bind fun size =>
    some (.ld (hdrOf w) (BitVec.ofNat 6 (fld w 14 6)) (BitVec.ofNat 6 (fld w 8 6)) (BitVec.ofNat 6 (fld w 2 6)) size)

/-- The fields of ST (R183); none for a reserved value. -/
def rawSt (w : Nat) : Option Instr :=
  (ESize.ofNat? (fld w 0 2)).bind fun size =>
    some (.st (hdrOf w) (BitVec.ofNat 6 (fld w 14 6)) (BitVec.ofNat 6 (fld w 8 6)) (BitVec.ofNat 6 (fld w 2 6)) size)

/-- The fields of LDL (R184); none for a reserved value. -/
def rawLdl (w pl : Nat) : Option Instr :=
  (ESize.ofNat? (fld w 0 2)).bind fun size =>
    (Scale.ofNat? (fld pl 1 3)).bind fun scale =>
    some (.ldl (hdrOf w) (BitVec.ofNat 6 (fld w 14 6)) (BitVec.ofNat 6 (fld w 8 6)) (BitVec.ofNat 6 (fld w 2 6)) size (BitVec.ofNat 16 (fld pl 16 16)) (BitVec.ofNat 3 (fld pl 13 3)) (BitVec.ofNat 6 (fld pl 7 6)) (BitVec.ofNat 3 (fld pl 4 3)) scale (bitAt pl 0))

/-- The fields of STL (R184); none for a reserved value. -/
def rawStl (w pl : Nat) : Option Instr :=
  if fld pl 0 1 == 0 && fld pl 7 6 == 62 then
    (ESize.ofNat? (fld w 0 2)).bind fun size =>
    (Scale.ofNat? (fld pl 1 3)).bind fun scale =>
    some (.stl (hdrOf w) (BitVec.ofNat 6 (fld w 14 6)) (BitVec.ofNat 6 (fld w 8 6)) (BitVec.ofNat 6 (fld w 2 6)) size (BitVec.ofNat 16 (fld pl 16 16)) (BitVec.ofNat 3 (fld pl 13 3)) (BitVec.ofNat 3 (fld pl 4 3)) scale)
  else none

/-- The fields of LDS (R183); none for a reserved value. -/
def rawLds (w : Nat) : Option Instr :=
  (ESize.ofNat? (fld w 0 2)).bind fun size =>
    some (.lds (hdrOf w) (BitVec.ofNat 6 (fld w 14 6)) (BitVec.ofNat 6 (fld w 8 6)) (BitVec.ofNat 6 (fld w 2 6)) size)

/-- The fields of STS (R183); none for a reserved value. -/
def rawSts (w : Nat) : Option Instr :=
  (ESize.ofNat? (fld w 0 2)).bind fun size =>
    some (.sts (hdrOf w) (BitVec.ofNat 6 (fld w 14 6)) (BitVec.ofNat 6 (fld w 8 6)) (BitVec.ofNat 6 (fld w 2 6)) size)

/-- The fields of LDK (R192); none for a reserved value. -/
def rawLdk (w pl : Nat) : Option Instr :=
  if fld w 3 5 == 0 && fld pl 0 13 == 0 then
    (ESize.ofNat? (fld w 0 2)).bind fun size =>
    some (.ldk (hdrOf w) (BitVec.ofNat 6 (fld w 14 6)) (BitVec.ofNat 6 (fld w 8 6)) (bitAt w 2) size (BitVec.ofNat 16 (fld pl 16 16)) (BitVec.ofNat 3 (fld pl 13 3)))
  else none

/-- The fields of STK (R192); none for a reserved value. -/
def rawStk (w pl : Nat) : Option Instr :=
  if fld w 2 6 == 0 && fld pl 0 13 == 0 then
    (ESize.ofNat? (fld w 0 2)).bind fun size =>
    some (.stk (hdrOf w) (BitVec.ofNat 6 (fld w 14 6)) (BitVec.ofNat 6 (fld w 8 6)) size (BitVec.ofNat 16 (fld pl 16 16)) (BitVec.ofNat 3 (fld pl 13 3)))
  else none

/-- The fields of PREF (R193); none for a reserved value. -/
def rawPref (w pl : Nat) : Option Instr :=
  if fld w 15 5 == 0 && fld pl 0 1 == 0 && fld pl 13 3 == 7 && fld pl 7 6 == 62 then
    (ESize.ofNat? (fld w 0 2)).bind fun size =>
    (Scale.ofNat? (fld pl 1 3)).bind fun scale =>
    some (.pref (hdrOf w) (bitAt w 14) (BitVec.ofNat 6 (fld w 8 6)) (BitVec.ofNat 6 (fld w 2 6)) size (BitVec.ofNat 16 (fld pl 16 16)) (BitVec.ofNat 3 (fld pl 4 3)) scale)
  else none

/-- The fields of CWB (R233); none for a reserved value. -/
def rawCwb (w pl : Nat) : Option Instr :=
  if fld w 2 3 == 0 && fld pl 0 13 == 0 && fld w 0 2 == 0 then
    (Scope.ofNat? (fld w 5 3)).bind fun scope =>
    some (.cwb (hdrOf w) (BitVec.ofNat 6 (fld w 14 6)) (BitVec.ofNat 6 (fld w 8 6)) scope (BitVec.ofNat 16 (fld pl 16 16)) (BitVec.ofNat 3 (fld pl 13 3)))
  else none

/-- The fields of CFLU (R233); none for a reserved value. -/
def rawCflu (w pl : Nat) : Option Instr :=
  if fld w 2 3 == 0 && fld pl 0 13 == 0 && fld w 0 2 == 1 then
    (Scope.ofNat? (fld w 5 3)).bind fun scope =>
    some (.cflu (hdrOf w) (BitVec.ofNat 6 (fld w 14 6)) (BitVec.ofNat 6 (fld w 8 6)) scope (BitVec.ofNat 16 (fld pl 16 16)) (BitVec.ofNat 3 (fld pl 13 3)))
  else none

/-- The fields of CINV (R233); none for a reserved value. -/
def rawCinv (w pl : Nat) : Option Instr :=
  if fld w 2 3 == 0 && fld pl 0 12 == 0 && fld w 0 2 == 2 then
    (Scope.ofNat? (fld w 5 3)).bind fun scope =>
    some (.cinv (hdrOf w) (BitVec.ofNat 6 (fld w 14 6)) (BitVec.ofNat 6 (fld w 8 6)) scope (BitVec.ofNat 16 (fld pl 16 16)) (BitVec.ofNat 3 (fld pl 13 3)) (bitAt pl 12))
  else none

/-- The fields of PREQ (R198); none for a reserved value. -/
def rawPreq (w pl : Nat) : Option Instr :=
  if fld w 1 1 == 0 && fld pl 0 13 == 0 then
    some (.preq (hdrOf w) (BitVec.ofNat 6 (fld w 14 6)) (BitVec.ofNat 6 (fld w 8 6)) (BitVec.ofNat 6 (fld w 2 6)) (bitAt w 0) (BitVec.ofNat 16 (fld pl 16 16)) (BitVec.ofNat 3 (fld pl 13 3)))
  else none

/-- The fields of ATOM (R263); none for a reserved value. -/
def rawAtom (w pl : Nat) : Option Instr :=
  (ASize.ofNat? (fld w 0 2)).bind fun size =>
    (AtomOp.ofNat? (fld pl 22 4)).bind fun op =>
    (Ord.ofNat? (fld pl 19 3)).bind fun ord =>
    (Scope.ofNat? (fld pl 16 3)).bind fun scope =>
    some (.atom (hdrOf w) (BitVec.ofNat 6 (fld w 14 6)) (BitVec.ofNat 6 (fld w 8 6)) (BitVec.ofNat 6 (fld w 2 6)) size (BitVec.ofNat 6 (fld pl 26 6)) op ord scope (BitVec.ofNat 3 (fld pl 13 3)) (BitVec.ofNat 13 (fld pl 0 13)))

/-- The fields of RED (R263); none for a reserved value. -/
def rawRed (w pl : Nat) : Option Instr :=
  if fld w 14 6 == 0 then
    (ASize.ofNat? (fld w 0 2)).bind fun size =>
    (AtomOp.ofNat? (fld pl 22 4)).bind fun op =>
    (Ord.ofNat? (fld pl 19 3)).bind fun ord =>
    (Scope.ofNat? (fld pl 16 3)).bind fun scope =>
    some (.red (hdrOf w) (BitVec.ofNat 6 (fld w 8 6)) (BitVec.ofNat 6 (fld w 2 6)) size (BitVec.ofNat 6 (fld pl 26 6)) op ord scope (BitVec.ofNat 3 (fld pl 13 3)) (BitVec.ofNat 13 (fld pl 0 13)))
  else none

/-- The fields of ATOMS (R263); none for a reserved value. -/
def rawAtoms (w pl : Nat) : Option Instr :=
  (ASize.ofNat? (fld w 0 2)).bind fun size =>
    (AtomOp.ofNat? (fld pl 22 4)).bind fun op =>
    (Ord.ofNat? (fld pl 19 3)).bind fun ord =>
    (Scope.ofNat? (fld pl 16 3)).bind fun scope =>
    some (.atoms (hdrOf w) (BitVec.ofNat 6 (fld w 14 6)) (BitVec.ofNat 6 (fld w 8 6)) (BitVec.ofNat 6 (fld w 2 6)) size (BitVec.ofNat 6 (fld pl 26 6)) op ord scope (BitVec.ofNat 3 (fld pl 13 3)) (BitVec.ofNat 13 (fld pl 0 13)))

/-- The fields of FENCE (R268); none for a reserved value. -/
def rawFence (w : Nat) : Option Instr :=
  if fld w 6 14 == 0 then
    (Scope.ofNat? (fld w 3 3)).bind fun scope =>
    (Ord.ofNat? (fld w 0 3)).bind fun ord =>
    some (.fence (hdrOf w) scope ord)
  else none

/-- The fields of BAR_SYNC (R270); none for a reserved value. -/
def rawBarSync (w : Nat) : Option Instr :=
  if fld w 0 5 == 0 && fld w 14 2 == 0 then
    (Scope.ofNat? (fld w 5 3)).bind fun scope =>
    some (.barSync (hdrOf w) (BitVec.ofNat 4 (fld w 16 4)) (BitVec.ofNat 6 (fld w 8 6)) scope)
  else none

/-- The fields of BAR_ARRIVE (R270); none for a reserved value. -/
def rawBarArrive (w : Nat) : Option Instr :=
  if fld w 0 5 == 0 && fld w 14 2 == 1 then
    (Scope.ofNat? (fld w 5 3)).bind fun scope =>
    some (.barArrive (hdrOf w) (BitVec.ofNat 4 (fld w 16 4)) (BitVec.ofNat 6 (fld w 8 6)) scope)
  else none

/-- The fields of BAR_WAIT (R270); none for a reserved value. -/
def rawBarWait (w : Nat) : Option Instr :=
  if fld w 0 5 == 0 && fld w 8 6 == 0 && fld w 14 2 == 2 then
    (Scope.ofNat? (fld w 5 3)).bind fun scope =>
    some (.barWait (hdrOf w) (BitVec.ofNat 4 (fld w 16 4)) scope)
  else none

/-- The fields of BART (R274); none for a reserved value. -/
def rawBart (w pl : Nat) : Option Instr :=
  if fld w 0 5 == 0 && fld w 14 2 == 0 && fld pl 9 23 == 0 then
    (Scope.ofNat? (fld w 5 3)).bind fun scope =>
    some (.bart (hdrOf w) (BitVec.ofNat 4 (fld w 16 4)) (BitVec.ofNat 6 (fld w 8 6)) scope (BitVec.ofNat 6 (fld pl 0 6)) (BitVec.ofNat 3 (fld pl 6 3)))
  else none

/-- The fields of GBAR (R275); none for a reserved value. -/
def rawGbar (w : Nat) : Option Instr :=
  if fld w 0 20 == 0 then
    some (.gbar (hdrOf w))
  else none

/-- The fields of CLKJ_ADD (R307); none for a reserved value. -/
def rawClkjAdd (w : Nat) : Option Instr :=
  if fld w 14 6 == 0 && fld w 0 2 == 0 then
    some (.clkjAdd (hdrOf w) (BitVec.ofNat 12 (fld w 2 12)))
  else none

/-- The fields of CLKJ_ADDK (R307); none for a reserved value. -/
def rawClkjAddk (w : Nat) : Option Instr :=
  if fld w 2 12 == 0 && fld w 0 2 == 1 then
    some (.clkjAddk (hdrOf w) (BitVec.ofNat 6 (fld w 14 6)))
  else none

/-- The fields of CLKJ_SETK (R307); none for a reserved value. -/
def rawClkjSetk (w : Nat) : Option Instr :=
  if fld w 2 12 == 0 && fld w 0 2 == 2 then
    some (.clkjSetk (hdrOf w) (BitVec.ofNat 6 (fld w 14 6)))
  else none

/-- The fields of CLKJ_NB (R307); none for a reserved value. -/
def rawClkjNb (w : Nat) : Option Instr :=
  if fld w 2 18 == 0 && fld w 0 2 == 3 then
    some (.clkjNb (hdrOf w))
  else none

/-- The fields of LOCK (R308); none for a reserved value. -/
def rawLock (w pl : Nat) : Option Instr :=
  if fld pl 0 10 == 0 && fld w 14 6 == 62 && fld w 0 2 == 0 then
    (Scope.ofNat? (fld pl 10 3)).bind fun scope =>
    some (.lock (hdrOf w) (BitVec.ofNat 6 (fld w 8 6)) (BitVec.ofNat 6 (fld w 2 6)) (BitVec.ofNat 16 (fld pl 16 16)) (BitVec.ofNat 3 (fld pl 13 3)) scope)
  else none

/-- The fields of LOCK_TRY (R308); none for a reserved value. -/
def rawLockTry (w pl : Nat) : Option Instr :=
  if fld pl 0 10 == 0 && fld w 0 2 == 1 then
    (Scope.ofNat? (fld pl 10 3)).bind fun scope =>
    some (.lockTry (hdrOf w) (BitVec.ofNat 6 (fld w 14 6)) (BitVec.ofNat 6 (fld w 8 6)) (BitVec.ofNat 6 (fld w 2 6)) (BitVec.ofNat 16 (fld pl 16 16)) (BitVec.ofNat 3 (fld pl 13 3)) scope)
  else none

/-- The fields of UNLOCK (R308); none for a reserved value. -/
def rawUnlock (w pl : Nat) : Option Instr :=
  if fld pl 0 10 == 0 && fld w 0 2 == 2 then
    (Scope.ofNat? (fld pl 10 3)).bind fun scope =>
    some (.unlock (hdrOf w) (BitVec.ofNat 6 (fld w 14 6)) (BitVec.ofNat 6 (fld w 8 6)) (BitVec.ofNat 6 (fld w 2 6)) (BitVec.ofNat 16 (fld pl 16 16)) (BitVec.ofNat 3 (fld pl 13 3)) scope)
  else none

/-- The fields of AECFG (R247); none for a reserved value. -/
def rawAecfg (w pl : Nat) : Option Instr :=
  if fld w 2 10 == 0 && fld pl 0 32 == 0 && fld w 0 2 == 0 then
    some (.aecfg (hdrOf w) (BitVec.ofNat 8 (fld w 12 8)))
  else none

/-- The fields of AEGO (R247); none for a reserved value. -/
def rawAego (w pl : Nat) : Option Instr :=
  if fld w 2 18 == 0 && fld pl 14 18 == 0 && fld w 0 2 == 1 then
    some (.aego (hdrOf w) (BitVec.ofNat 14 (fld pl 0 14)))
  else none

/-- The fields of AESTOP (R247); none for a reserved value. -/
def rawAestop (w pl : Nat) : Option Instr :=
  if fld w 2 18 == 0 && fld pl 0 32 == 0 && fld w 0 2 == 2 then
    some (.aestop (hdrOf w))
  else none

/-- The fields of QBIND (R247); none for a reserved value. -/
def rawQbind (w pl : Nat) : Option Instr :=
  if fld w 2 10 == 0 && fld pl 0 32 == 0 && fld w 0 2 == 3 then
    some (.qbind (hdrOf w) (BitVec.ofNat 8 (fld w 12 8)))
  else none

/-- The fields of CPY (R250); none for a reserved value. -/
def rawCpy (w pl : Nat) : Option Instr :=
  if fld pl 8 24 == 0 && fld w 0 2 == 0 then
    some (.cpy (hdrOf w) (BitVec.ofNat 6 (fld w 14 6)) (BitVec.ofNat 6 (fld w 8 6)) (BitVec.ofNat 6 (fld w 2 6)) (BitVec.ofNat 4 (fld pl 0 4)) (bitAt pl 4) (BitVec.ofNat 3 (fld pl 5 3)))
  else none

/-- The fields of CPYM (R250); none for a reserved value. -/
def rawCpym (w pl : Nat) : Option Instr :=
  if fld pl 4 1 == 0 && fld pl 16 16 == 0 && fld w 0 2 == 1 then
    some (.cpym (hdrOf w) (BitVec.ofNat 6 (fld w 14 6)) (BitVec.ofNat 6 (fld w 8 6)) (BitVec.ofNat 6 (fld w 2 6)) (BitVec.ofNat 4 (fld pl 0 4)) (BitVec.ofNat 3 (fld pl 5 3)) (BitVec.ofNat 8 (fld pl 8 8)))
  else none

/-- The fields of CPYW (R250); none for a reserved value. -/
def rawCpyw (w pl : Nat) : Option Instr :=
  if fld w 2 6 == 0 && fld w 14 6 == 0 && fld pl 4 1 == 0 && fld pl 8 24 == 0 && fld w 0 2 == 2 && fld pl 5 3 == 7 then
    some (.cpyw (hdrOf w) (BitVec.ofNat 6 (fld w 8 6)) (BitVec.ofNat 4 (fld pl 0 4)))
  else none

/-- The fields of CPYQ (R250); none for a reserved value. -/
def rawCpyq (w pl : Nat) : Option Instr :=
  if fld w 2 12 == 0 && fld pl 8 24 == 0 && fld w 0 2 == 3 then
    some (.cpyq (hdrOf w) (BitVec.ofNat 6 (fld w 14 6)) (BitVec.ofNat 4 (fld pl 0 4)) (bitAt pl 4) (BitVec.ofNat 3 (fld pl 5 3)))
  else none

/-- The fields of SEMSET (R255); none for a reserved value. -/
def rawSemset (w : Nat) : Option Instr :=
  if fld w 0 2 == 0 then
    some (.semset (hdrOf w) (BitVec.ofNat 6 (fld w 14 6)) (BitVec.ofNat 6 (fld w 8 6)) (BitVec.ofNat 6 (fld w 2 6)))
  else none

/-- The fields of SEMADD (R255); none for a reserved value. -/
def rawSemadd (w : Nat) : Option Instr :=
  if fld w 0 2 == 1 then
    some (.semadd (hdrOf w) (BitVec.ofNat 6 (fld w 14 6)) (BitVec.ofNat 6 (fld w 8 6)) (BitVec.ofNat 6 (fld w 2 6)))
  else none

/-- The fields of SEMWAIT (R255); none for a reserved value. -/
def rawSemwait (w : Nat) : Option Instr :=
  if fld w 0 2 == 2 then
    some (.semwait (hdrOf w) (BitVec.ofNat 6 (fld w 14 6)) (BitVec.ofNat 6 (fld w 8 6)) (BitVec.ofNat 6 (fld w 2 6)))
  else none

/-- The fields of COLL (R258); none for a reserved value. -/
def rawColl (w pl : Nat) : Option Instr :=
  if fld w 2 6 == 0 && fld pl 0 13 == 0 && fld pl 16 16 == 0 && fld w 0 2 == 0 then
    some (.coll (hdrOf w) (BitVec.ofNat 6 (fld w 14 6)) (BitVec.ofNat 6 (fld w 8 6)) (BitVec.ofNat 3 (fld pl 13 3)))
  else none

/-- The fields of COLLW (R258); none for a reserved value. -/
def rawCollw (w pl : Nat) : Option Instr :=
  if fld w 2 6 == 0 && fld pl 0 13 == 0 && fld pl 16 16 == 0 && fld w 0 2 == 1 && fld pl 13 3 == 7 then
    some (.collw (hdrOf w) (BitVec.ofNat 6 (fld w 14 6)) (BitVec.ofNat 6 (fld w 8 6)))
  else none

/-- The fields of TCLAIM (R326); none for a reserved value. -/
def rawTclaim (w pl : Nat) : Option Instr :=
  if fld pl 14 18 == 0 && fld w 0 2 == 0 then
    some (.tclaim (hdrOf w) (BitVec.ofNat 6 (fld w 14 6)) (BitVec.ofNat 6 (fld w 8 6)) (BitVec.ofNat 6 (fld w 2 6)) (BitVec.ofNat 6 (fld pl 0 6)) (BitVec.ofNat 3 (fld pl 6 3)) (bitAt pl 9) (BitVec.ofNat 3 (fld pl 10 3)) (bitAt pl 13))
  else none

/-- The fields of TREL (R326); none for a reserved value. -/
def rawTrel (w pl : Nat) : Option Instr :=
  if fld w 2 6 == 0 && fld w 14 6 == 0 && fld pl 0 10 == 0 && fld pl 13 19 == 0 && fld w 0 2 == 1 then
    some (.trel (hdrOf w) (BitVec.ofNat 6 (fld w 8 6)) (BitVec.ofNat 3 (fld pl 10 3)))
  else none

/-- The fields of TSURR (R326); none for a reserved value. -/
def rawTsurr (w pl : Nat) : Option Instr :=
  if fld w 2 12 == 0 && fld pl 2 30 == 0 && fld w 0 2 == 2 then
    (TOutcome.ofNat? (fld pl 0 2)).bind fun outcome =>
    some (.tsurr (hdrOf w) (BitVec.ofNat 6 (fld w 14 6)) outcome)
  else none

/-- The fields of TQUERY (R326); none for a reserved value. -/
def rawTquery (w pl : Nat) : Option Instr :=
  if fld w 2 6 == 0 && fld pl 0 10 == 0 && fld pl 13 19 == 0 && fld w 0 2 == 3 then
    some (.tquery (hdrOf w) (BitVec.ofNat 6 (fld w 14 6)) (BitVec.ofNat 6 (fld w 8 6)) (BitVec.ofNat 3 (fld pl 10 3)))
  else none

/-- The fields of LNCH (R370); none for a reserved value. -/
def rawLnch (w pl : Nat) : Option Instr :=
  if fld w 2 6 == 0 && fld pl 0 13 == 0 && fld pl 16 16 == 0 && fld w 0 2 == 0 then
    some (.lnch (hdrOf w) (BitVec.ofNat 6 (fld w 14 6)) (BitVec.ofNat 6 (fld w 8 6)) (BitVec.ofNat 3 (fld pl 13 3)))
  else none

/-- The fields of LNWAIT (R370); none for a reserved value. -/
def rawLnwait (w pl : Nat) : Option Instr :=
  if fld w 2 6 == 0 && fld pl 0 13 == 0 && fld pl 16 16 == 0 && fld w 0 2 == 1 then
    some (.lnwait (hdrOf w) (BitVec.ofNat 6 (fld w 14 6)) (BitVec.ofNat 6 (fld w 8 6)) (BitVec.ofNat 3 (fld pl 13 3)))
  else none

/-- The fields of QPOST (R370); none for a reserved value. -/
def rawQpost (w pl : Nat) : Option Instr :=
  if fld w 2 6 == 0 && fld pl 8 5 == 0 && fld pl 16 16 == 0 && fld w 0 2 == 2 then
    some (.qpost (hdrOf w) (BitVec.ofNat 6 (fld w 14 6)) (BitVec.ofNat 6 (fld w 8 6)) (BitVec.ofNat 6 (fld pl 0 6)) (BitVec.ofNat 2 (fld pl 6 2)) (BitVec.ofNat 3 (fld pl 13 3)))
  else none

/-- The fields of LMAP (R370); none for a reserved value. -/
def rawLmap (w pl : Nat) : Option Instr :=
  if fld w 2 6 == 0 && fld pl 4 9 == 0 && fld pl 16 16 == 0 && fld w 0 2 == 3 then
    (MapSel.ofNat? (fld pl 0 4)).bind fun which =>
    some (.lmap (hdrOf w) (BitVec.ofNat 6 (fld w 14 6)) (BitVec.ofNat 6 (fld w 8 6)) which (BitVec.ofNat 3 (fld pl 13 3)))
  else none

/-- The fields of TRAP (R390); none for a reserved value. -/
def rawTrap (w : Nat) : Option Instr :=
  if fld w 18 2 == 0 && fld w 0 2 == 0 then
    some (.trap (hdrOf w) (BitVec.ofNat 16 (fld w 2 16)))
  else none

/-- The fields of TFENCE (R390); none for a reserved value. -/
def rawTfence (w : Nat) : Option Instr :=
  if fld w 2 18 == 0 && fld w 0 2 == 1 then
    some (.tfence (hdrOf w))
  else none

/-- The fields of RFT (R390); none for a reserved value. -/
def rawRft (w : Nat) : Option Instr :=
  if fld w 4 16 == 0 && fld w 0 2 == 2 then
    (RftMode.ofNat? (fld w 2 2)).bind fun mode =>
    some (.rft (hdrOf w) mode)
  else none

/-- The fields of TMASK (R390); none for a reserved value. -/
def rawTmask (w : Nat) : Option Instr :=
  if fld w 16 4 == 0 && fld w 0 2 == 3 then
    (HoldOp.ofNat? (fld w 14 2)).bind fun ho =>
    some (.tmask (hdrOf w) (BitVec.ofNat 6 (fld w 8 6)) (BitVec.ofNat 6 (fld w 2 6)) ho)
  else none

/-- The fields of GETS (R394); none for a reserved value. -/
def rawGets (w : Nat) : Option Instr :=
  if fld w 3 5 == 0 && fld w 0 2 == 0 then
    (SReg.ofNat? (fld w 8 6)).bind fun sr =>
    some (.gets (hdrOf w) (BitVec.ofNat 6 (fld w 14 6)) sr (bitAt w 2))
  else none

/-- The fields of SETS (R394); none for a reserved value. -/
def rawSets (w : Nat) : Option Instr :=
  if fld w 3 5 == 0 && fld w 0 2 == 1 then
    (SReg.ofNat? (fld w 8 6)).bind fun sr =>
    some (.sets (hdrOf w) (BitVec.ofNat 6 (fld w 14 6)) sr (bitAt w 2))
  else none

/-- The fields of TMR (R394); none for a reserved value. -/
def rawTmr (w : Nat) : Option Instr :=
  if fld w 6 2 == 0 && fld w 9 5 == 0 && fld w 2 1 == 1 && fld w 0 2 == 2 then
    some (.tmr (hdrOf w) (BitVec.ofNat 6 (fld w 14 6)) (bitAt w 8) (BitVec.ofNat 3 (fld w 3 3)))
  else none

/-- The fields of ORGR (R398); none for a reserved value. -/
def rawOrgr (w : Nat) : Option Instr :=
  if fld w 0 2 == 0 then
    (OrgClass.ofNat? (fld w 5 3)).bind fun cls =>
    some (.orgr (hdrOf w) (BitVec.ofNat 6 (fld w 14 6)) (BitVec.ofNat 6 (fld w 8 6)) cls (BitVec.ofNat 3 (fld w 2 3)))
  else none

/-- The fields of ORGW (R398); none for a reserved value. -/
def rawOrgw (w : Nat) : Option Instr :=
  if fld w 0 2 == 1 then
    (OrgClass.ofNat? (fld w 5 3)).bind fun cls =>
    some (.orgw (hdrOf w) (BitVec.ofNat 6 (fld w 14 6)) (BitVec.ofNat 6 (fld w 8 6)) cls (BitVec.ofNat 3 (fld w 2 3)))
  else none

/-- The fields of SLICE_LDL (R241); none for a reserved value. -/
def rawSliceLdl (w pl : Nat) : Option Instr :=
  if fld pl 13 3 == 7 && fld pl 7 6 == 62 && fld pl 1 3 == 0 then
    (ESize.ofNat? (fld w 0 2)).bind fun size =>
    some (.sliceLdl (hdrOf w) (BitVec.ofNat 6 (fld w 14 6)) (BitVec.ofNat 6 (fld w 8 6)) (BitVec.ofNat 6 (fld w 2 6)) size (BitVec.ofNat 16 (fld pl 16 16)) (BitVec.ofNat 3 (fld pl 4 3)) (bitAt pl 0))
  else none

/-- The instruction whose fields a word holds, before the conditions that join fields are checked. -/
def rawDecode (w pl : Nat) : Option Instr :=
  match opOf w with
  | 0x00 => rawNop w
  | 0x01 => rawBra w
  | 0x02 => rawBrp w
  | 0x03 => rawBrn w
  | 0x04 => rawBru w
  | 0x05 => rawBruz w
  | 0x06 => rawJmpx w
  | 0x07 => rawCall w
  | 0x08 => rawCallx w
  | 0x09 => rawRet w
  | 0x0A => rawExit w
  | 0x0B => rawDwait w
  | 0x0C => rawChkm w
  | 0x0D => rawBrk w
  | 0x10 => rawIadd w
  | 0x11 => rawIsub w
  | 0x12 => rawImul w
  | 0x13 => rawImulhS w
  | 0x14 => rawImulhN w
  | 0x15 => rawImad w
  | 0x16 => rawIaddi w
  | 0x17 => rawIminS w
  | 0x18 => rawIminN w
  | 0x19 => rawImaxS w
  | 0x1A => rawImaxN w
  | 0x1B => rawShl w
  | 0x1C => rawShr w
  | 0x1D => rawSar w
  | 0x1E => rawShli w <|> rawShri w <|> rawSari w <|> rawRoti w
  | 0x1F => rawAnd w
  | 0x20 => rawOr w
  | 0x21 => rawXor w
  | 0x22 => rawAndn w
  | 0x23 => rawAndi w <|> rawOri w <|> rawXori w
  | 0x24 => rawNot w <|> rawPopc w <|> rawClz w <|> rawBrev w <|> rawIabs w <|> rawIneg w
  | 0x25 => rawBfx w pl
  | 0x26 => rawBfi w pl
  | 0x27 => rawLea w pl
  | 0x28 => rawIcmp w pl
  | 0x29 => rawSel w pl
  | 0x2A => rawMovi w pl
  | 0x2B => rawMovk w
  | 0x2C => rawIdot4 w
  | 0x2D => rawKadd w <|> rawKsub w <|> rawKmul w <|> rawKand w
  | 0x2E => rawKor w <|> rawKxor w <|> rawKshl w <|> rawKshr w
  | 0x2F => rawKaddi w
  | 0x30 => rawKset w pl
  | 0x31 => rawKcmp w
  | 0x32 => rawKmov w
  | 0x33 => rawKfromv w
  | 0x34 => rawPand w <|> rawPor w <|> rawPxor w <|> rawPandn w
  | 0x35 => rawPclr w <|> rawPset w <|> rawPnot w <|> rawPmov w
  | 0x36 => rawPtov w <|> rawVtop w
  | 0x38 => rawQswp w
  | 0x39 => rawQbc w
  | 0x3A => rawQhlp w
  | 0x3B => rawWshf w
  | 0x3C => rawWshx w
  | 0x3D => rawWvote w
  | 0x3E => rawWred w
  | 0x40 => rawFadd w
  | 0x41 => rawFsub w
  | 0x42 => rawFmul w
  | 0x43 => rawFfma w
  | 0x44 => rawFmin w
  | 0x45 => rawFmax w
  | 0x46 => rawFabs w <|> rawFneg w <|> rawFrcp w <|> rawFrsq w <|> rawFsqrt w <|> rawFex2 w <|> rawFlg2 w <|> rawFsin w <|> rawFcos w
  | 0x47 => rawFcmp w pl
  | 0x48 => rawFdot2 w
  | 0x49 => rawHadd2 w
  | 0x4A => rawHmul2 w
  | 0x4B => rawHfma2 w
  | 0x4C => rawFrnd w
  | 0x4D => rawFsetm w
  | 0x50 => rawFcvt w pl
  | 0x51 => rawFcvti w
  | 0x52 => rawIcvtf w
  | 0x53 => rawFpack w pl
  | 0x54 => rawFunpk w pl
  | 0x55 => rawFscl w
  | 0x56 => rawFsca w pl
  | 0x57 => rawFzct w
  | 0x58 => rawMma w pl
  | 0x59 => rawMlut w pl
  | 0x5A => rawMlbld w pl
  | 0x5B => rawMacz w
  | 0x5C => rawMacr w pl
  | 0x5D => rawMacw w pl
  | 0x5E => rawMdrn w pl
  | 0x5F => rawMpairBind w <|> rawMpairRel w
  | 0x60 => rawLd w
  | 0x61 => rawSt w
  | 0x62 => rawLdl w pl
  | 0x63 => rawStl w pl
  | 0x64 => rawLds w
  | 0x65 => rawSts w
  | 0x66 => rawLdk w pl
  | 0x67 => rawStk w pl
  | 0x68 => rawPref w pl
  | 0x69 => rawCwb w pl <|> rawCflu w pl <|> rawCinv w pl
  | 0x6A => rawPreq w pl
  | 0x6C => rawAtom w pl
  | 0x6D => rawRed w pl
  | 0x6E => rawAtoms w pl
  | 0x6F => rawFence w
  | 0x70 => rawBarSync w <|> rawBarArrive w <|> rawBarWait w
  | 0x71 => rawBart w pl
  | 0x72 => rawGbar w
  | 0x73 => rawClkjAdd w <|> rawClkjAddk w <|> rawClkjSetk w <|> rawClkjNb w
  | 0x74 => rawLock w pl <|> rawLockTry w pl <|> rawUnlock w pl
  | 0x76 => rawAecfg w pl <|> rawAego w pl <|> rawAestop w pl <|> rawQbind w pl
  | 0x77 => rawCpy w pl <|> rawCpym w pl <|> rawCpyw w pl <|> rawCpyq w pl
  | 0x78 => rawSemset w <|> rawSemadd w <|> rawSemwait w
  | 0x79 => rawColl w pl <|> rawCollw w pl
  | 0x7A => rawTclaim w pl <|> rawTrel w pl <|> rawTsurr w pl <|> rawTquery w pl
  | 0x7B => rawLnch w pl <|> rawLnwait w pl <|> rawQpost w pl <|> rawLmap w pl
  | 0x7C => rawTrap w <|> rawTfence w <|> rawRft w <|> rawTmask w
  | 0x7D => rawGets w <|> rawSets w <|> rawTmr w
  | 0x7E => rawOrgr w <|> rawOrgw w
  | _ => none

/-- A word and the word after it read as an instruction of warp code; the lowest Table 2.4 detail the word alone decides. -/
def decodeWord (w pl : Nat) : Except Reject Instr :=
  if isReservedMajor (opOf w) then .error .reservedMajor
  else if opOf w = 0x7F then .error .alwaysIllegal
  else match rawDecode w pl with
    | none => .error .reservedField
    | some i =>
      if !i.fieldsOk then .error .reservedField
      else if !i.predsOk then .error .reservedPredicate
      else .ok i

/-- A word read as slice code: ldl takes its slice form (R241), everything else is as in warp code. -/
def decodeSliceWord (w pl : Nat) : Except Reject Instr :=
  if opOf w = 0x62 then
    match rawSliceLdl w pl with
    | none => .error .reservedField
    | some i => if !i.fieldsOk then .error .reservedField else .ok i
  else decodeWord w pl

/-- The words of an instruction that starts with word `w`: two for a long form (R35). -/
def wordCount (w : Nat) : Nat := if isLongMajor (opOf w) then 2 else 1

/-- Decode bytes: the instruction at their start and the bytes after it, or a rejection by name. -/
def decode (bs : List Byte) : Except Reject (Instr × List Byte) :=
  if bs.length < 4 then .error .truncated
  else
    let w := ofBytes (bs.take 4)
    let n := 4 * wordCount w
    if bs.length < n then .error .truncated
    else match decodeWord w (ofBytes ((bs.drop 4).take 4)) with
      | .error r => .error r
      | .ok i => .ok (i, bs.drop n)

/-- The instruction the decoder reads from an instruction whose bits are `w`, numbered as the opcode table numbers them;
the bits above `nbits` are 0. -/
def decodeTableWord (nbits w : Nat) : Option Instr :=
  match decode (toBytes 8 (w % 2 ^ nbits)) with
  | .ok (i, _) => some i
  | .error _ => none

/-- The sum of fields, each a value and the position of its lowest bit. -/
def pack : List (Nat × Nat) → Nat
  | [] => 0
  | (v, lo) :: t => v * 2 ^ lo + pack t

/-- A header word from its header, major and operand fields. -/
def headWord (h : Hdr) (op : Nat) (fs : List (Nat × Nat)) : Nat :=
  h.c.toNat * 2 ^ 31 + h.e.toNat * 2 ^ 30 + h.s.toNat * 2 ^ 27 + op * 2 ^ 20 + pack fs

/-- The words of an instruction, written from the same tables; none for an operation or event of the device. -/
def encode : Instr → List Nat
  | .nop h => [headWord h 0x00 []]
  | .bra h off => [headWord h 0x01 [(off.toNat, 0)]]
  | .brp h p off => [headWord h 0x02 [(p.toNat, 14), (off.toNat, 0)]]
  | .brn h p off => [headWord h 0x03 [(p.toNat, 14), (off.toNat, 0)]]
  | .bru h k off => [headWord h 0x04 [(k.toNat, 14), (off.toNat, 0)]]
  | .bruz h k off => [headWord h 0x05 [(k.toNat, 14), (off.toNat, 0)]]
  | .jmpx h ka => [headWord h 0x06 [(ka.toNat, 8)]]
  | .call h k off => [headWord h 0x07 [(k.toNat, 14), (off.toNat, 0)]]
  | .callx h kd ka => [headWord h 0x08 [(kd.toNat, 14), (ka.toNat, 8)]]
  | .ret h ka => [headWord h 0x09 [(ka.toNat, 8)]]
  | .exit h => [headWord h 0x0A []]
  | .dwait h mask n => [headWord h 0x0B [(mask.toNat, 13), (n.toNat, 0)]]
  | .chkm h mode => [headWord h 0x0C [(mode.code, 0)]]
  | .brk h code => [headWord h 0x0D [(code.toNat, 0)]]
  | .iadd h d a b x => [headWord h 0x10 [(d.toNat, 14), (a.toNat, 8), (b.toNat, 2), (x.toNat, 0)]]
  | .isub h d a b x => [headWord h 0x11 [(d.toNat, 14), (a.toNat, 8), (b.toNat, 2), (x.toNat, 0)]]
  | .imul h d a b x => [headWord h 0x12 [(d.toNat, 14), (a.toNat, 8), (b.toNat, 2), (x.toNat, 0)]]
  | .imulhS h d a b x => [headWord h 0x13 [(d.toNat, 14), (a.toNat, 8), (b.toNat, 2), (x.toNat, 0)]]
  | .imulhN h d a b x => [headWord h 0x14 [(d.toNat, 14), (a.toNat, 8), (b.toNat, 2), (x.toNat, 0)]]
  | .imad h d a b x => [headWord h 0x15 [(d.toNat, 14), (a.toNat, 8), (b.toNat, 2), (x.toNat, 0)]]
  | .iaddi h d a imm => [headWord h 0x16 [(d.toNat, 14), (a.toNat, 8), (imm.toNat, 0)]]
  | .iminS h d a b x => [headWord h 0x17 [(d.toNat, 14), (a.toNat, 8), (b.toNat, 2), (x.toNat, 0)]]
  | .iminN h d a b x => [headWord h 0x18 [(d.toNat, 14), (a.toNat, 8), (b.toNat, 2), (x.toNat, 0)]]
  | .imaxS h d a b x => [headWord h 0x19 [(d.toNat, 14), (a.toNat, 8), (b.toNat, 2), (x.toNat, 0)]]
  | .imaxN h d a b x => [headWord h 0x1A [(d.toNat, 14), (a.toNat, 8), (b.toNat, 2), (x.toNat, 0)]]
  | .shl h d a b x => [headWord h 0x1B [(d.toNat, 14), (a.toNat, 8), (b.toNat, 2), (x.toNat, 0)]]
  | .shr h d a b x => [headWord h 0x1C [(d.toNat, 14), (a.toNat, 8), (b.toNat, 2), (x.toNat, 0)]]
  | .sar h d a b x => [headWord h 0x1D [(d.toNat, 14), (a.toNat, 8), (b.toNat, 2), (x.toNat, 0)]]
  | .shli h d a n => [headWord h 0x1E [(d.toNat, 14), (a.toNat, 8), (n.toNat, 0)]]
  | .shri h d a n => [headWord h 0x1E [(d.toNat, 14), (a.toNat, 8), (1, 6), (n.toNat, 0)]]
  | .sari h d a n => [headWord h 0x1E [(d.toNat, 14), (a.toNat, 8), (2, 6), (n.toNat, 0)]]
  | .roti h d a n => [headWord h 0x1E [(d.toNat, 14), (a.toNat, 8), (3, 6), (n.toNat, 0)]]
  | .and h d a b x => [headWord h 0x1F [(d.toNat, 14), (a.toNat, 8), (b.toNat, 2), (x.toNat, 0)]]
  | .or h d a b x => [headWord h 0x20 [(d.toNat, 14), (a.toNat, 8), (b.toNat, 2), (x.toNat, 0)]]
  | .xor h d a b x => [headWord h 0x21 [(d.toNat, 14), (a.toNat, 8), (b.toNat, 2), (x.toNat, 0)]]
  | .andn h d a b x => [headWord h 0x22 [(d.toNat, 14), (a.toNat, 8), (b.toNat, 2), (x.toNat, 0)]]
  | .andi h d a imm => [headWord h 0x23 [(d.toNat, 14), (a.toNat, 8), (imm.toNat, 0)]]
  | .ori h d a imm => [headWord h 0x23 [(d.toNat, 14), (a.toNat, 8), (1, 6), (imm.toNat, 0)]]
  | .xori h d a imm => [headWord h 0x23 [(d.toNat, 14), (a.toNat, 8), (2, 6), (imm.toNat, 0)]]
  | .not h d a x => [headWord h 0x24 [(d.toNat, 14), (a.toNat, 8), (x.toNat, 0)]]
  | .popc h d a x => [headWord h 0x24 [(d.toNat, 14), (a.toNat, 8), (1, 2), (x.toNat, 0)]]
  | .clz h d a x => [headWord h 0x24 [(d.toNat, 14), (a.toNat, 8), (2, 2), (x.toNat, 0)]]
  | .brev h d a x => [headWord h 0x24 [(d.toNat, 14), (a.toNat, 8), (3, 2), (x.toNat, 0)]]
  | .iabs h d a x => [headWord h 0x24 [(d.toNat, 14), (a.toNat, 8), (4, 2), (x.toNat, 0)]]
  | .ineg h d a x => [headWord h 0x24 [(d.toNat, 14), (a.toNat, 8), (5, 2), (x.toNat, 0)]]
  | .bfx h d a x pos len sx => [headWord h 0x25 [(d.toNat, 14), (a.toNat, 8), (x.toNat, 0)], pack [(sx.toNat, 16), (len.toNat, 8), (pos.toNat, 0)]]
  | .bfi h d a x pos len => [headWord h 0x26 [(d.toNat, 14), (a.toNat, 8), (x.toNat, 0)], pack [(len.toNat, 8), (pos.toNat, 0)]]
  | .lea h d a b x sh disp => [headWord h 0x27 [(d.toNat, 14), (a.toNat, 8), (b.toNat, 2), (x.toNat, 0)], pack [(disp.toNat, 16), (sh.toNat, 0)]]
  | .icmp h p a b cond comb q => [headWord h 0x28 [(p.toNat, 14), (a.toNat, 8), (b.toNat, 2)], pack [(comb.code, 16), (q.toNat, 8), (cond.code, 0)]]
  | .sel h d a b x p => [headWord h 0x29 [(d.toNat, 14), (a.toNat, 8), (b.toNat, 2), (x.toNat, 0)], pack [(p.toNat, 0)]]
  | .movi h d x imm => [headWord h 0x2A [(d.toNat, 14), (x.toNat, 0)], pack [(imm.toNat, 0)]]
  | .movk h d ka hi x => [headWord h 0x2B [(d.toNat, 14), (ka.toNat, 8), (hi.toNat, 2), (x.toNat, 0)]]
  | .idot4 h d a b mode => [headWord h 0x2C [(d.toNat, 14), (a.toNat, 8), (b.toNat, 2), (mode.code, 0)]]
  | .kadd h kd ka kb => [headWord h 0x2D [(kd.toNat, 14), (ka.toNat, 8), (kb.toNat, 2)]]
  | .ksub h kd ka kb => [headWord h 0x2D [(kd.toNat, 14), (ka.toNat, 8), (kb.toNat, 2), (1, 0)]]
  | .kmul h kd ka kb => [headWord h 0x2D [(kd.toNat, 14), (ka.toNat, 8), (kb.toNat, 2), (2, 0)]]
  | .kand h kd ka kb => [headWord h 0x2D [(kd.toNat, 14), (ka.toNat, 8), (kb.toNat, 2), (3, 0)]]
  | .kor h kd ka kb => [headWord h 0x2E [(kd.toNat, 14), (ka.toNat, 8), (kb.toNat, 2)]]
  | .kxor h kd ka kb => [headWord h 0x2E [(kd.toNat, 14), (ka.toNat, 8), (kb.toNat, 2), (1, 0)]]
  | .kshl h kd ka kb => [headWord h 0x2E [(kd.toNat, 14), (ka.toNat, 8), (kb.toNat, 2), (2, 0)]]
  | .kshr h kd ka kb => [headWord h 0x2E [(kd.toNat, 14), (ka.toNat, 8), (kb.toNat, 2), (3, 0)]]
  | .kaddi h kd ka imm => [headWord h 0x2F [(kd.toNat, 14), (ka.toNat, 8), (imm.toNat, 0)]]
  | .kset h kd f imm => [headWord h 0x30 [(kd.toNat, 14), (f.code, 0)], pack [(imm.toNat, 0)]]
  | .kcmp h kd ka kb cond => [headWord h 0x31 [(kd.toNat, 14), (ka.toNat, 8), (kb.toNat, 2), (cond.code, 0)]]
  | .kmov h kd ka => [headWord h 0x32 [(kd.toNat, 14), (ka.toNat, 8)]]
  | .kfromv h kd va lane f => [headWord h 0x33 [(kd.toNat, 14), (va.toNat, 8), (lane.toNat, 2), (f.code, 0)]]
  | .pand h p a b => [headWord h 0x34 [(p.toNat, 14), (a.toNat, 8), (b.toNat, 2)]]
  | .por h p a b => [headWord h 0x34 [(p.toNat, 14), (a.toNat, 8), (b.toNat, 2), (1, 0)]]
  | .pxor h p a b => [headWord h 0x34 [(p.toNat, 14), (a.toNat, 8), (b.toNat, 2), (2, 0)]]
  | .pandn h p a b => [headWord h 0x34 [(p.toNat, 14), (a.toNat, 8), (b.toNat, 2), (3, 0)]]
  | .pclr h p => [headWord h 0x35 [(p.toNat, 14)]]
  | .pset h p => [headWord h 0x35 [(p.toNat, 14), (1, 0)]]
  | .pnot h p a => [headWord h 0x35 [(p.toNat, 14), (a.toNat, 8), (2, 0)]]
  | .pmov h p a => [headWord h 0x35 [(p.toNat, 14), (a.toNat, 8), (3, 0)]]
  | .ptov h vd a => [headWord h 0x36 [(vd.toNat, 14), (a.toNat, 8)]]
  | .vtop h p va => [headWord h 0x36 [(p.toNat, 14), (va.toNat, 8), (1, 0)]]
  | .qswp h d a dir => [headWord h 0x38 [(d.toNat, 14), (a.toNat, 8), (dir.code, 0)]]
  | .qbc h d a n => [headWord h 0x39 [(d.toNat, 14), (a.toNat, 8), (n.toNat, 0)]]
  | .qhlp h mode => [headWord h 0x3A [(mode.code, 0)]]
  | .wshf h d a b => [headWord h 0x3B [(d.toNat, 14), (a.toNat, 8), (b.toNat, 2)]]
  | .wshx h d a n mode => [headWord h 0x3C [(d.toNat, 14), (a.toNat, 8), (n.toNat, 2), (mode.code, 0)]]
  | .wvote h d a mode => [headWord h 0x3D [(d.toNat, 14), (a.toNat, 8), (mode.code, 0)]]
  | .wred h d a op => [headWord h 0x3E [(d.toNat, 14), (a.toNat, 8), (op.code, 2)]]
  | .fadd h d a b x => [headWord h 0x40 [(d.toNat, 14), (a.toNat, 8), (b.toNat, 2), (x.toNat, 0)]]
  | .fsub h d a b x => [headWord h 0x41 [(d.toNat, 14), (a.toNat, 8), (b.toNat, 2), (x.toNat, 0)]]
  | .fmul h d a b x => [headWord h 0x42 [(d.toNat, 14), (a.toNat, 8), (b.toNat, 2), (x.toNat, 0)]]
  | .ffma h d a b x => [headWord h 0x43 [(d.toNat, 14), (a.toNat, 8), (b.toNat, 2), (x.toNat, 0)]]
  | .fmin h d a b x => [headWord h 0x44 [(d.toNat, 14), (a.toNat, 8), (b.toNat, 2), (x.toNat, 0)]]
  | .fmax h d a b x => [headWord h 0x45 [(d.toNat, 14), (a.toNat, 8), (b.toNat, 2), (x.toNat, 0)]]
  | .fabs h d a x => [headWord h 0x46 [(d.toNat, 14), (a.toNat, 8), (x.toNat, 0)]]
  | .fneg h d a x => [headWord h 0x46 [(d.toNat, 14), (a.toNat, 8), (1, 2), (x.toNat, 0)]]
  | .frcp h d a x => [headWord h 0x46 [(d.toNat, 14), (a.toNat, 8), (2, 2), (x.toNat, 0)]]
  | .frsq h d a x => [headWord h 0x46 [(d.toNat, 14), (a.toNat, 8), (3, 2), (x.toNat, 0)]]
  | .fsqrt h d a x => [headWord h 0x46 [(d.toNat, 14), (a.toNat, 8), (4, 2), (x.toNat, 0)]]
  | .fex2 h d a x => [headWord h 0x46 [(d.toNat, 14), (a.toNat, 8), (5, 2), (x.toNat, 0)]]
  | .flg2 h d a x => [headWord h 0x46 [(d.toNat, 14), (a.toNat, 8), (6, 2), (x.toNat, 0)]]
  | .fsin h d a x => [headWord h 0x46 [(d.toNat, 14), (a.toNat, 8), (7, 2), (x.toNat, 0)]]
  | .fcos h d a x => [headWord h 0x46 [(d.toNat, 14), (a.toNat, 8), (8, 2), (x.toNat, 0)]]
  | .fcmp h p a b cond comb q => [headWord h 0x47 [(p.toNat, 14), (a.toNat, 8), (b.toNat, 2)], pack [(comb.code, 16), (q.toNat, 8), (cond.code, 0)]]
  | .fdot2 h d a b bf => [headWord h 0x48 [(d.toNat, 14), (a.toNat, 8), (b.toNat, 2), (bf.toNat, 0)]]
  | .hadd2 h d a b bf => [headWord h 0x49 [(d.toNat, 14), (a.toNat, 8), (b.toNat, 2), (bf.toNat, 0)]]
  | .hmul2 h d a b bf => [headWord h 0x4A [(d.toNat, 14), (a.toNat, 8), (b.toNat, 2), (bf.toNat, 0)]]
  | .hfma2 h d a b bf => [headWord h 0x4B [(d.toNat, 14), (a.toNat, 8), (b.toNat, 2), (bf.toNat, 0)]]
  | .frnd h d a mode => [headWord h 0x4C [(d.toNat, 14), (a.toNat, 8), (mode.code, 0)]]
  | .fsetm h d mask value => [headWord h 0x4D [(d.toNat, 14), (mask.toNat, 4), (value.toNat, 0)]]
  | .fcvt h d a dty sty shalf dhalf rnd => [headWord h 0x50 [(d.toNat, 14), (a.toNat, 8)], pack [(rnd.code, 6), (dhalf.toNat, 5), (shalf.toNat, 4), (sty.code, 2), (dty.code, 0)]]
  | .fcvti h d a it ft rnd => [headWord h 0x51 [(d.toNat, 14), (a.toNat, 8), (it.code, 5), (ft.code, 3), (rnd.code, 0)]]
  | .icvtf h d a it ft rnd => [headWord h 0x52 [(d.toNat, 14), (a.toNat, 8), (it.code, 5), (ft.code, 3), (rnd.code, 0)]]
  | .fpack h d a b pos kseed => [headWord h 0x53 [(d.toNat, 14), (a.toNat, 8), (b.toNat, 2), (pos.toNat, 0)], pack [(kseed.toNat, 0)]]
  | .funpk h d a b pos c sc => [headWord h 0x54 [(d.toNat, 14), (a.toNat, 8), (b.toNat, 2), (pos.toNat, 0)], pack [(sc.toNat, 6), (c.toNat, 0)]]
  | .fscl h d a b sf => [headWord h 0x55 [(d.toNat, 14), (a.toNat, 8), (b.toNat, 2), (sf.code, 0)]]
  | .fsca h d a b c => [headWord h 0x56 [(d.toNat, 14), (a.toNat, 8), (b.toNat, 2)], pack [(c.toNat, 0)]]
  | .fzct h d peek => [headWord h 0x57 [(d.toNat, 14), (peek.toNat, 0)]]
  | .mma h a b t sr qa qb fw sc ty z n dc => [headWord h 0x58 [(a.toNat, 14), (b.toNat, 8), (t.toNat, 4), (sr.code, 2), (qa.toNat, 1), (qb.toNat, 0)], pack [(dc.toNat, 20), (n.toNat, 16), (z.toNat, 15), (ty.code, 12), (sc.toNat, 6), (fw.toNat, 0)]]
  | .mlut h b kt t fw qb z dc e neg => [headWord h 0x59 [(b.toNat, 14), (kt.toNat, 8), (t.toNat, 4)], pack [(neg.toNat, 13), (e.toNat, 11), (dc.toNat, 8), (z.toNat, 7), (qb.toNat, 6), (fw.toNat, 0)]]
  | .mlbld h a kt g0 fw ty pm dc qa => [headWord h 0x5A [(a.toNat, 14), (kt.toNat, 8), (g0.toNat, 3)], pack [(qa.toNat, 12), (dc.toNat, 9), (pm.toNat, 8), (ty.code, 6), (fw.toNat, 0)]]
  | .macz h t val => [headWord h 0x5B [(t.toNat, 16), (val.code, 0)]]
  | .macr h d t row0 hi cnt dc => [headWord h 0x5C [(d.toNat, 14), (t.toNat, 10)], pack [(dc.toNat, 12), (cnt.toNat, 8), (hi.toNat, 6), (row0.toNat, 0)]]
  | .macw h d t row0 hi cnt dc => [headWord h 0x5D [(d.toNat, 14), (t.toNat, 10)], pack [(dc.toNat, 12), (cnt.toNat, 8), (hi.toNat, 6), (row0.toNat, 0)]]
  | .mdrn h t spad kbase kpitch add ety dc row0 nrows => [headWord h 0x5E [(t.toNat, 16), (spad.toNat, 14), (kbase.toNat, 8), (kpitch.toNat, 2), (add.toNat, 0)], pack [(nrows.toNat, 11), (row0.toNat, 5), (dc.toNat, 2), (drainCode ety, 0)]]
  | .mpairBind h => [headWord h 0x5F []]
  | .mpairRel h => [headWord h 0x5F [(1, 0)]]
  | .ld h d kbase voff size => [headWord h 0x60 [(d.toNat, 14), (kbase.toNat, 8), (voff.toNat, 2), (size.code, 0)]]
  | .st h d kbase voff size => [headWord h 0x61 [(d.toNat, 14), (kbase.toNat, 8), (voff.toNat, 2), (size.code, 0)]]
  | .ldl h d kbase voff size imm dc probe hint scale sx => [headWord h 0x62 [(d.toNat, 14), (kbase.toNat, 8), (voff.toNat, 2), (size.code, 0)], pack [(imm.toNat, 16), (dc.toNat, 13), (probe.toNat, 7), (hint.toNat, 4), (scale.code, 1), (sx.toNat, 0)]]
  | .stl h d kbase voff size imm dc hint scale => [headWord h 0x63 [(d.toNat, 14), (kbase.toNat, 8), (voff.toNat, 2), (size.code, 0)], pack [(imm.toNat, 16), (dc.toNat, 13), (62, 7), (hint.toNat, 4), (scale.code, 1)]]
  | .lds h d kbase voff size => [headWord h 0x64 [(d.toNat, 14), (kbase.toNat, 8), (voff.toNat, 2), (size.code, 0)]]
  | .sts h d kbase voff size => [headWord h 0x65 [(d.toNat, 14), (kbase.toNat, 8), (voff.toNat, 2), (size.code, 0)]]
  | .ldk h kd kbase sx size imm dc => [headWord h 0x66 [(kd.toNat, 14), (kbase.toNat, 8), (sx.toNat, 2), (size.code, 0)], pack [(imm.toNat, 16), (dc.toNat, 13)]]
  | .stk h kd kbase size imm dc => [headWord h 0x67 [(kd.toNat, 14), (kbase.toNat, 8), (size.code, 0)], pack [(imm.toNat, 16), (dc.toNat, 13)]]
  | .pref h l2 kbase voff size imm hint scale => [headWord h 0x68 [(l2.toNat, 14), (kbase.toNat, 8), (voff.toNat, 2), (size.code, 0)], pack [(imm.toNat, 16), (7, 13), (62, 7), (hint.toNat, 4), (scale.code, 1)]]
  | .cwb h klen kbase scope imm dc => [headWord h 0x69 [(klen.toNat, 14), (kbase.toNat, 8), (scope.code, 5)], pack [(imm.toNat, 16), (dc.toNat, 13)]]
  | .cflu h klen kbase scope imm dc => [headWord h 0x69 [(klen.toNat, 14), (kbase.toNat, 8), (scope.code, 5), (1, 0)], pack [(imm.toNat, 16), (dc.toNat, 13)]]
  | .cinv h klen kbase scope imm dc zf => [headWord h 0x69 [(klen.toNat, 14), (kbase.toNat, 8), (scope.code, 5), (2, 0)], pack [(imm.toNat, 16), (dc.toNat, 13), (zf.toNat, 12)]]
  | .preq h klen kbase sem useSem imm dc => [headWord h 0x6A [(klen.toNat, 14), (kbase.toNat, 8), (sem.toNat, 2), (useSem.toNat, 0)], pack [(imm.toNat, 16), (dc.toNat, 13)]]
  | .atom h d kbase voff size vs op ord scope dc imm => [headWord h 0x6C [(d.toNat, 14), (kbase.toNat, 8), (voff.toNat, 2), (size.code, 0)], pack [(vs.toNat, 26), (op.code, 22), (ord.code, 19), (scope.code, 16), (dc.toNat, 13), (imm.toNat, 0)]]
  | .red h kbase voff size vs op ord scope dc imm => [headWord h 0x6D [(kbase.toNat, 8), (voff.toNat, 2), (size.code, 0)], pack [(vs.toNat, 26), (op.code, 22), (ord.code, 19), (scope.code, 16), (dc.toNat, 13), (imm.toNat, 0)]]
  | .atoms h d kbase voff size vs op ord scope dc imm => [headWord h 0x6E [(d.toNat, 14), (kbase.toNat, 8), (voff.toNat, 2), (size.code, 0)], pack [(vs.toNat, 26), (op.code, 22), (ord.code, 19), (scope.code, 16), (dc.toNat, 13), (imm.toNat, 0)]]
  | .fence h scope ord => [headWord h 0x6F [(scope.code, 3), (ord.code, 0)]]
  | .barSync h id kcnt scope => [headWord h 0x70 [(id.toNat, 16), (kcnt.toNat, 8), (scope.code, 5)]]
  | .barArrive h id kcnt scope => [headWord h 0x70 [(id.toNat, 16), (1, 14), (kcnt.toNat, 8), (scope.code, 5)]]
  | .barWait h id scope => [headWord h 0x70 [(id.toNat, 16), (2, 14), (scope.code, 5)]]
  | .bart h id ktime scope p dc => [headWord h 0x71 [(id.toNat, 16), (ktime.toNat, 8), (scope.code, 5)], pack [(dc.toNat, 6), (p.toNat, 0)]]
  | .gbar h => [headWord h 0x72 []]
  | .clkjAdd h imm => [headWord h 0x73 [(imm.toNat, 2)]]
  | .clkjAddk h ka => [headWord h 0x73 [(ka.toNat, 14), (1, 0)]]
  | .clkjSetk h ka => [headWord h 0x73 [(ka.toNat, 14), (2, 0)]]
  | .clkjNb h => [headWord h 0x73 [(3, 0)]]
  | .lock h kbase kval imm dc scope => [headWord h 0x74 [(62, 14), (kbase.toNat, 8), (kval.toNat, 2)], pack [(imm.toNat, 16), (dc.toNat, 13), (scope.code, 10)]]
  | .lockTry h p kbase kval imm dc scope => [headWord h 0x74 [(p.toNat, 14), (kbase.toNat, 8), (kval.toNat, 2), (1, 0)], pack [(imm.toNat, 16), (dc.toNat, 13), (scope.code, 10)]]
  | .unlock h p kbase kval imm dc scope => [headWord h 0x74 [(p.toNat, 14), (kbase.toNat, 8), (kval.toNat, 2), (2, 0)], pack [(imm.toNat, 16), (dc.toNat, 13), (scope.code, 10)]]
  | .aecfg h mask => [headWord h 0x76 [(mask.toNat, 12)], pack []]
  | .aego h off => [headWord h 0x76 [(1, 0)], pack [(off.toNat, 0)]]
  | .aestop h => [headWord h 0x76 [(2, 0)], pack []]
  | .qbind h mask => [headWord h 0x76 [(mask.toNat, 12), (3, 0)], pack []]
  | .sliceLdl h d kbase kstride size imm hint sx => [headWord h 0x62 [(d.toNat, 14), (kbase.toNat, 8), (kstride.toNat, 2), (size.code, 0)], pack [(imm.toNat, 16), (7, 13), (62, 7), (hint.toNat, 4), (sx.toNat, 0)]]
  | .cpy h kdst kfrom klen ch s2g dc => [headWord h 0x77 [(kdst.toNat, 14), (kfrom.toNat, 8), (klen.toNat, 2)], pack [(dc.toNat, 5), (s2g.toNat, 4), (ch.toNat, 0)]]
  | .cpym h kdst kfrom klen ch dc gmask => [headWord h 0x77 [(kdst.toNat, 14), (kfrom.toNat, 8), (klen.toNat, 2), (1, 0)], pack [(gmask.toNat, 8), (dc.toNat, 5), (ch.toNat, 0)]]
  | .cpyw h kval ch => [headWord h 0x77 [(kval.toNat, 8), (2, 0)], pack [(7, 5), (ch.toNat, 0)]]
  | .cpyq h kd ch ip dc => [headWord h 0x77 [(kd.toNat, 14), (3, 0)], pack [(dc.toNat, 5), (ip.toNat, 4), (ch.toNat, 0)]]
  | .semset h sm ka imm => [headWord h 0x78 [(sm.toNat, 14), (ka.toNat, 8), (imm.toNat, 2)]]
  | .semadd h sm ka imm => [headWord h 0x78 [(sm.toNat, 14), (ka.toNat, 8), (imm.toNat, 2), (1, 0)]]
  | .semwait h sm ka imm => [headWord h 0x78 [(sm.toNat, 14), (ka.toNat, 8), (imm.toNat, 2), (2, 0)]]
  | .coll h kdesc kd dc => [headWord h 0x79 [(kdesc.toNat, 14), (kd.toNat, 8)], pack [(dc.toNat, 13)]]
  | .collw h kcomm kseq => [headWord h 0x79 [(kcomm.toNat, 14), (kseq.toNat, 8), (1, 0)], pack [(7, 13)]]
  | .tclaim h kd kbase kgeo karg routine keep dc try_ => [headWord h 0x7A [(kd.toNat, 14), (kbase.toNat, 8), (kgeo.toNat, 2)], pack [(try_.toNat, 13), (dc.toNat, 10), (keep.toNat, 9), (routine.toNat, 6), (karg.toNat, 0)]]
  | .trel h kbase dc => [headWord h 0x7A [(kbase.toNat, 8), (1, 0)], pack [(dc.toNat, 10)]]
  | .tsurr h kdelay outcome => [headWord h 0x7A [(kdelay.toNat, 14), (2, 0)], pack [(outcome.code, 0)]]
  | .tquery h kd kbase dc => [headWord h 0x7A [(kd.toNat, 14), (kbase.toNat, 8), (3, 0)], pack [(dc.toNat, 10)]]
  | .lnch h kd ka dc => [headWord h 0x7B [(kd.toNat, 14), (ka.toNat, 8)], pack [(dc.toNat, 13)]]
  | .lnwait h kd ka dc => [headWord h 0x7B [(kd.toNat, 14), (ka.toNat, 8), (1, 0)], pack [(dc.toNat, 13)]]
  | .qpost h kd ka q prio dc => [headWord h 0x7B [(kd.toNat, 14), (ka.toNat, 8), (2, 0)], pack [(dc.toNat, 13), (prio.toNat, 6), (q.toNat, 0)]]
  | .lmap h kd ka which dc => [headWord h 0x7B [(kd.toNat, 14), (ka.toNat, 8), (3, 0)], pack [(dc.toNat, 13), (which.code, 0)]]
  | .trap h code => [headWord h 0x7C [(code.toNat, 2)]]
  | .tfence h => [headWord h 0x7C [(1, 0)]]
  | .rft h mode => [headWord h 0x7C [(mode.code, 2), (2, 0)]]
  | .tmask h en m ho => [headWord h 0x7C [(ho.code, 14), (en.toNat, 8), (m.toNat, 2), (3, 0)]]
  | .gets h r sr rk => [headWord h 0x7D [(r.toNat, 14), (sr.code, 8), (rk.toNat, 2)]]
  | .sets h r sr rk => [headWord h 0x7D [(r.toNat, 14), (sr.code, 8), (rk.toNat, 2), (1, 0)]]
  | .tmr h kd master dc => [headWord h 0x7D [(kd.toNat, 14), (master.toNat, 8), (dc.toNat, 3), (1, 2), (2, 0)]]
  | .orgr h vd n cls dc => [headWord h 0x7E [(vd.toNat, 14), (n.toNat, 8), (cls.code, 5), (dc.toNat, 2)]]
  | .orgw h va n cls dc => [headWord h 0x7E [(va.toNat, 14), (n.toNat, 8), (cls.code, 5), (dc.toNat, 2), (1, 0)]]
  | _ => []

end Sys2Proof
end

