-- ==== Sys2Proof/Machine/Control.lean ====
section
/-! DEFINITION. The control instructions (R66 to R79). -/

namespace Sys2Proof.Machine

/-- The code object of the current warp's grid starts here (R34). -/
def State.codeBase (s : State) : Nat := s.grid.ds.code

/-- Whether an address lies inside the code object (R34). -/
def State.inCode (s : State) (a : Nat) : Bool := decide (s.codeBase ≤ a) && decide (a < s.codeBase + s.grid.ds.codelen)

/-- The address of the packet that holds an address (R34). -/
def State.packetOf (s : State) (a : DWord) : DWord :=
  a - BitVec.ofNat 64 ((a - BitVec.ofNat 64 s.codeBase).toNat % 12)

/-- A format-B target (R36). -/
def State.branchTarget (s : State) (off : BitVec 14) : DWord := s.packetOf s.w.runPc + 12 * off.signExtend 64

/-- Whether a register-supplied target keeps R36. -/
def State.targetOk (s : State) (a : DWord) : Bool := s.inCode a.toNat && (a.toNat - s.codeBase) % 12 == 0

/-- nop (R68). -/
def execNop (h : Hdr) (s : State) : Out := .next (s.retire (.nop h))

/-- bra (R69). -/
def execBra (h : Hdr) (off : BitVec 14) (s : State) : Out :=
  .next (s.retireTo (.bra h off) fun _ => s.branchTarget off)

/-- brp (R69): each lane goes where its predicate says. -/
def execBrp (h : Hdr) (p : Pr) (off : BitVec 14) (s : State) : Out :=
  let i := Instr.brp h p off
  .next (s.retireTo i fun l => if s.w.rdP p.toNat l then s.branchTarget off else s.nextPc i)

/-- brn (R69). -/
def execBrn (h : Hdr) (p : Pr) (off : BitVec 14) (s : State) : Out :=
  let i := Instr.brn h p off
  .next (s.retireTo i fun l => if s.w.rdP p.toNat l then s.nextPc i else s.branchTarget off)

/-- bru (R70): all lanes go together. -/
def execBru (h : Hdr) (k : Kr) (off : BitVec 14) (s : State) : Out :=
  let i := Instr.bru h k off
  .next (s.retireTo i fun _ => if s.w.rdK k.toNat ≠ 0 then s.branchTarget off else s.nextPc i)

/-- bruz (R70). -/
def execBruz (h : Hdr) (k : Kr) (off : BitVec 14) (s : State) : Out :=
  let i := Instr.bruz h k off
  .next (s.retireTo i fun _ => if s.w.rdK k.toNat = 0 then s.branchTarget off else s.nextPc i)

/-- A transfer to the address in a k register, after `link` has been done (R71 to R73). -/
def State.jump (s : State) (i : Instr) (ka : Kr) (link : Warp → Warp) : State :=
  let t := s.w.rdK ka.toNat
  if s.targetOk t then (s.modW link).retireTo i fun _ => t else s.trapAll i 0x01 0x0B 0

/-- jmpx (R71). -/
def execJmpx (h : Hdr) (ka : Kr) (s : State) : Out := .next (s.jump (.jmpx h ka) ka id)

/-- The link a call writes: the next packet (R72). -/
def State.link (s : State) : DWord := s.packetOf s.w.runPc + 12

/-- call (R72): the link is seen by every strand. A uniform result has latency 1 here: it is visible to the warp's next group. -/
def execCall (h : Hdr) (k : Kr) (off : BitVec 14) (s : State) : Out :=
  .next ((s.modW fun w => w.push 1 (RegWrite.ofK k.toNat s.link)).retireTo (.call h k off) fun _ => s.branchTarget off)

/-- callx (R72): the target is read before the link is written. -/
def execCallx (h : Hdr) (kd ka : Kr) (s : State) : Out :=
  .next (s.jump (.callx h kd ka) ka fun w => w.push 1 (RegWrite.ofK kd.toNat s.link))

/-- ret (R73). -/
def execRet (h : Hdr) (ka : Kr) (s : State) : Out := .next (s.jump (.ret h ka) ka id)

/-- exit (R75); a handler lane's exit is rft.abort (R388), a surrender routine's a forced surrender (R331). -/
def execExit (h : Hdr) (s : State) : Out :=
  let i := Instr.exit h
  let w := s.w
  .next (match w.kind with
    | .handler => s.killGrid s.grp.grid 4 0 (((SMap.find w.origins (lowLane w.active)).map (·.recIdx)).getD 0)
    | .surrender => s.endRoutine 3 4
    | .normal =>
      let s' := (s.modW fun w => { w with exited := w.exited ||| w.active }).retire i
      (s'.modW fun w => w.lastExit s.collated s.g).exited i w.lclk)

/-- Whether every counter named by a dwait is at most `n` (R77). -/
def Warp.dcAtMost (w : Warp) (mask : BitVec 7) (n : Nat) : Bool :=
  (List.range 7).all fun c => !mask.getLsbD c || decide (w.dcCount c ≤ n)

/-- Remove the marks of every instruction on the named counters except the `n` issued last on each (R77). -/
def Warp.unmark (w : Warp) (mask : BitVec 7) (n : Nat) : Warp :=
  { w with marks := w.marks.filter fun m => !(mask.getLsbD m.dc && decide (m.idx + n ≤ SMap.get 0 w.dcIssued m.dc)) }

/-- A copy of the current warp that stands at a fault and that a dwait on these counters covers: its channel by group, side and number, the detail and the address (R253). -/
def State.copyFault (s : State) (mask : BitVec 7) : Option ((Nat × Bool × Nat) × Nat × Nat) :=
  s.groups.findSome? fun e => ((e.2.chans.map fun c => (false, c)) ++ e.2.chansF.map fun c => (true, c)).findSome? fun c =>
    match c.2.2.fault, c.2.2.copies with
    | some (d, a), cp :: _ =>
      if cp.warp == s.cur && s.w.inflight.any (fun f => f.seq == cp.seq && decide (f.dc < 7) && mask.getLsbD f.dc) then some ((e.1, c.1, c.2.1), d, a) else none
    | _, _ => none

/-- A wait: the group that is the first of its run holds no issue slot (R77). -/
def State.holdRun (s : State) : State := if s.w.runWords = 0 then s.holdFree else s.hold

/-- dwait (R77, R253): it waits for its counters, then removes marks; a copy stopped at a fault that it covers faults here. -/
def execDwait (h : Hdr) (mask : BitVec 7) (n : BitVec 6) (s : State) : Out :=
  let i := Instr.dwait h mask n
  .next (if s.w.dcAtMost mask n.toNat then (s.modW fun w => w.unmark mask n.toNat).retire i
    else match s.copyFault mask with
      | some (c, d, a) => s.copyTrap i d a c
      | none => s.holdRun)

/-- chkm (R78): the mode applies from the warp's next group. -/
def execChkm (h : Hdr) (mode : CheckMode) (s : State) : Out :=
  .next ((s.modW fun w => { w with deferred := w.deferred ++ [.check mode] }).retire (.chkm h mode))

/-- brk (R79): a breakpoint trap in every active lane, with the code in the record. -/
def execBrk (h : Hdr) (code : BitVec 16) (s : State) : Out :=
  .next (s.trapSelf (.brk h code) 0x0C s.w.active (fun _ => 0) fun _ => code.toNat)

end Sys2Proof.Machine
end

