-- ==== Sys2Proof/Machine/Engine.lean ====
section
/-! DEFINITION. The engines: fetching code words, the access slice (R239 to R247), copy channels (R248 to R254), semaphores (R255, R256). -/

namespace Sys2Proof.Machine

/-! ### Fetching (R34, R74, R240) -/

/-- What fetching a code word comes to: the word, a page to wait for, or the detail of an instruction-fetch fault (Table 19.1). -/
inductive FetchRes where
  | word (w : Nat)
  | absent
  | bad (detail : Nat)
deriving DecidableEq, Repr

/-- Fetch the word at a virtual address for the current warp. Fetches walk the tables every time (log 10). -/
def State.fetchWord (s : State) (a : Nat) : FetchRes :=
  if !s.inCode a then .bad 0x0D
  else if a / 2 ^ 57 ≠ 0 then .bad 0x03
  else match s.walk s.ctxNo a with
    | .error d => .bad d
    | .ok x =>
      if s.pageLost x then .bad 0x0A
      else if !pteP x.pte then .absent
      else if s.meetsLost (x.pa a) 4 then .bad 0x0A
      else if s.homeFailed (x.pa a) then .bad 0x0B
      else if !pteX x.pte then .bad 0x0C
      else .word (ofBytes (s.mem.readN (x.pa a) 4))

/-! ### The slice (R239 to R247) -/

/-- A slice fails (R240, Table 10.2). -/
def State.sliceFail (s : State) (detail fetch : Nat) : State :=
  s.modSlice fun x => { x with st := .failed, failPc := x.pc, failDetail := detail, failFetch := fetch, stopping := false }

/-- The uniform instructions a slice executes, on its own file (Table 10.1, R96 to R99). -/
def Slice.uniform (x : Slice) (i : Instr) : Option (Kr × DWord) :=
  match i with
  | .kadd _ d a b => some (d, x.rdK a + x.rdK b)
  | .ksub _ d a b => some (d, x.rdK a - x.rdK b)
  | .kmul _ d a b => some (d, x.rdK a * x.rdK b)
  | .kand _ d a b => some (d, x.rdK a &&& x.rdK b)
  | .kor _ d a b => some (d, x.rdK a ||| x.rdK b)
  | .kxor _ d a b => some (d, x.rdK a ^^^ x.rdK b)
  | .kshl _ d a b => some (d, kluShl (x.rdK a) (x.rdK b))
  | .kshr _ d a b => some (d, kluShr (x.rdK a) (x.rdK b))
  | .kaddi _ d a imm => some (d, x.rdK a + imm.signExtend 64)
  | .kset _ d f imm => some (d, kluSet f imm (x.rdK d))
  | .kcmp _ d a b c => some (d, if kcmpHolds c (x.rdK a) (x.rdK b) then 1 else 0)
  | .kmov _ d a => some (d, x.rdK a)
  | _ => none

/-- What the slice of warp `h` has read ahead in an earlier gathering is read again at its boundary turn (R261). -/
def State.refill (s : State) (h : Nat) : State := s.withWarp h fun s => s.modW fun w => w.refill (w.gathering s.g)

/-- Slice ldl (R241): every lane of the warp, no lane divided; it waits while its queue is full or eight loads are in flight, and, in an open grid, at a tile of another group (R329). -/
def execSliceLdl (h : Hdr) (d : Vr) (kbase kstride : Kr) (size : ESize) (imm : BitVec 16) (hint : BitVec 3) (sx : Bool) (s : State) : Out :=
  .next (s.sliceLoad (.sliceLdl h d kbase kstride size imm hint sx))

/-- A stopping slice ends once its issued loads have pushed their entries (R247). -/
def Slice.settle (x : Slice) : Slice := if x.stopping ∧ x.issued.isEmpty then { x with st := .ended, stopping := false } else x

/-- SLICE_ENTRY_PUSH (R241, R245): the oldest issued load pushes its entry; a faulted one holds the slice at its ldl.
DESIGN CHOICE (log 87): where aestop came meanwhile, the faulted entry is pushed, the loads behind it are dropped, and the slice ends. -/
def execSliceEntryPush (wp : Nat) (s : State) : Out :=
  .next (s.modWarp wp fun w =>
    match w.slice.issued with
    | [] => w
    | e :: rest =>
      let w := { w with queues := SMap.put w.queues e.q (SMap.get [] w.queues e.q ++ [e]) }
      let x := w.slice
      { w with slice :=
        if e.causes.isEmpty then { x with issued := rest }.settle
        else if x.first ≤ e.ord then { x with issued := [], st := .held, stopping := false, pc := e.pc, k := e.kfile, skip := x.effs - e.effs }
        else { x with issued := [] }.settle })

/-- The major 0x76 instructions that need an idle slice trap while it is running or held (R247). -/
def Slice.busy (x : Slice) : Bool := x.st == .running || x.st == .held

/-- aecfg (R247). -/
def execAecfg (h : Hdr) (mask : BitVec 8) (s : State) : Out :=
  let i := Instr.aecfg h mask
  .next (if s.w.slice.busy then s.illegalOperand i 0x0A
    else (s.modW fun w =>
      { w with
        slice := { Slice.start with pc := w.slice.pc, k := (w.k.filter fun e => e.1 != 0), loads := w.slice.loads, first := w.slice.loads }
        queues := w.queues.filter fun e => !mask.getLsbD e.1 }).retire i)

/-- aego (R247). -/
def execAego (h : Hdr) (off : BitVec 14) (s : State) : Out :=
  let i := Instr.aego h off
  let t := s.branchTarget off
  .next (if s.w.slice.busy ∨ !s.inCode t.toNat then s.illegalOperand i 0x0A
    else ((s.dropSliceLoads s.cur).modSlice fun x => { x with pc := t, st := .running, stopping := false, effs := 0, skip := 0, issued := [], first := x.loads }).retire i)

/-- aestop (R247): it completes when the slice has ended; a slice that is not running or held is unchanged. -/
def execAestop (h : Hdr) (s : State) : Out :=
  let i := Instr.aestop h
  .next (if s.w.slice.busy then
      let s' := s.modSlice fun x => if x.st = .held then { x with st := .ended, stopping := false, issued := [], first := x.loads } else { x with stopping := true, first := x.loads }.settle
      if s'.w.slice.busy then s'.hold else s'.retire i
    else s.retire i)

/-- qbind (R247): the binding applies from the warp's next group. -/
def execQbind (h : Hdr) (mask : BitVec 8) (s : State) : Out :=
  .next ((s.modW fun w => { w with deferred := w.deferred ++ [.bind mask] }).retire (.qbind h mask))

/-! ### Copy channels (R248 to R254) -/

/-- The group that is member `j` of the current warp's gang, while it has not ended (R251).
DESIGN CHOICE (log 87): a cpym skips a member that has ended, and completes at once where every member it names has. -/
def State.gangMember (s : State) (j : Nat) : Option Nat :=
  let g := s.grp
  (s.groups.find? fun e => e.2.grid == g.grid && e.2.gang == g.gang && e.2.member == j && e.2.warpsLeft != 0).map Prod.fst

/-- What a cpy or cpym is checked for (R251): an illegal operand, a memory fault, nothing to do, or the receivers. -/
inductive CopyRes where
  | illegal (detail : Nat)
  | fault (detail ea : Nat)
  | nothing
  | go (to_ : List Nat)

/-- The checks of R251 in their order. `mask` is the receivers of cpym. -/
def State.copyChecks (s : State) (ch glob sp len : Nat) (mask : Option (BitVec 8)) : CopyRes :=
  if s.grid.ds.nchan ≤ ch then .illegal 0x06
  else if 2 ^ 32 ≤ len then .illegal 0x06
  else if glob % 16 ≠ 0 ∨ len % 16 ≠ 0 then .fault 0x01 glob
  else if sp % 16 ≠ 0 then .fault 0x01 sp
  else if s.splOf s.w.grp < sp + len then .fault 0x02 sp
  else if glob / 2 ^ 57 ≠ 0 ∨ 2 ^ 57 < glob + len then .fault 0x03 glob
  else
    let to_ := match mask with
      | none => some [s.w.grp]
      | some m =>
        if (List.range 8).any fun j => m.getLsbD j && decide (s.grp.gangSize ≤ j) then none
        else some ((List.range 8).filterMap fun j => if m.getLsbD j then s.gangMember j else none)
    match to_ with
    | none => .illegal 0x06
    | some l => if len = 0 ∨ l.isEmpty then .nothing else .go l

/-- Queue a copy on a channel of every receiver (R249, R251). -/
def State.putCopy (s : State) (to_ : List Nat) (side : Bool) (ch : Nat) (cp : Copy) : State :=
  to_.foldl (fun s g =>
    let x := s.groupAt g
    let c := x.chan side ch
    s.setGroup g (x.setChan side ch { c with ip := c.ip + cp.len, copies := c.copies ++ [cp] })) s

/-- Whether a channel of a receiver already holds four copies (R249). -/
def State.copyFull (s : State) (to_ : List Nat) (side : Bool) (ch : Nat) : Bool :=
  to_.any fun g => decide (4 ≤ ((s.groupAt g).chan side ch).copies.length)

/-- The side of the pair a copy's warp runs on. -/
def State.side (s : State) : Bool := s.w.twin

/-- cpy and cpym of a warp. -/
def State.copying (s : State) (i : Instr) (s2g : Bool) (ch : BitVec 4) (kdst kfrom klen : Kr) (mask : Option (BitVec 8)) : State :=
  let rd (r : Kr) : Nat := (s.w.rdK r.toNat).toNat
  let glob := if s2g then rd kdst else rd kfrom
  let sp := if s2g then rd kfrom else rd kdst
  match s.copyChecks ch.toNat glob sp (rd klen) mask with
  | .illegal d => s.illegalOperand i d
  | .fault d a => s.memFaultAll i d a 0
  | .nothing => (s.modW fun w => w.count i.counter [] true []).retire i
  | .go to_ =>
    let cp : Copy := { src := rd kfrom, dst := rd kdst, len := rd klen, s2g := s2g, at_ := 0, got := [], warp := s.cur, seq := s.w.seqNo }
    if s.copyFull to_ s.side ch.toNat then s.hold
    else if s.inDomain && s2g && !(s.foldRoom false (cp.pieces.map fun p => (cp.dst + p.1) / 32)) then s.trapAll i 0x08 0x01 0
    else
      let (s, cp) := s.copyNow cp
      ((s.modW fun w => w.count i.counter [] false []).putCopy to_ s.side ch.toNat cp).retire i

/-- cpy (R251). -/
def execCpy (h : Hdr) (kdst kfrom klen : Kr) (ch : BitVec 4) (s2g : Bool) (dc : Dc) (s : State) : Out :=
  .next (s.copying (.cpy h kdst kfrom klen ch s2g dc) s2g ch kdst kfrom klen none)

/-- cpym (R251). -/
def execCpym (h : Hdr) (kdst kfrom klen : Kr) (ch : BitVec 4) (dc : Dc) (gmask : BitVec 8) (s : State) : Out :=
  .next (s.copying (.cpym h kdst kfrom klen ch dc gmask) false ch kdst kfrom klen (some gmask))

/-- Whether a cpyw waits: WP is below its target, and the channel does not stand at a fault (R252, R253). -/
def State.cpyWaits (s : State) (kval : Kr) (ch : BitVec 4) : Bool :=
  let c := s.grp.chan s.side ch.toNat
  decide (ch.toNat < s.grid.ds.nchan) && decide (c.wp < (s.w.rdK kval.toNat).toNat) && c.fault.isNone

/-- cpyw (R252, R253): it waits for the write pointer; a channel stopped at a fault below its target faults here. -/
def execCpyw (h : Hdr) (kval : Kr) (ch : BitVec 4) (s : State) : Out :=
  let i := Instr.cpyw h kval ch
  let c := s.grp.chan s.side ch.toNat
  .next (if s.grid.ds.nchan ≤ ch.toNat then s.illegalOperand i 0x06
    else if (s.w.rdK kval.toNat).toNat ≤ c.wp then s.retire i
    else match c.fault with
      | some (d, a) => s.copyTrap i d a (s.w.grp, s.side, ch.toNat)
      | none => s.holdRun)

/-- cpyq (R252). -/
def execCpyq (h : Hdr) (kd : Kr) (ch : BitVec 4) (ip : Bool) (dc : Dc) (s : State) : Out :=
  let i := Instr.cpyq h kd ch ip dc
  let c := s.grp.chan s.side ch.toNat
  .next (if s.grid.ds.nchan ≤ ch.toNat then s.illegalOperand i 0x06
    else (s.modW fun w => w.count i.counter [.k kd.toNat] true [RegWrite.ofK kd.toNat (BitVec.ofNat 64 (if ip then c.ip else c.wp))]).retire i)

/-- COPY_DELIVERY (R249 to R253): the next piece of a channel's first copy. -/
def execCopyDelivery (grp side ch : Nat) (s : State) : Out := .next (s.copyAs grp (side != 0) ch false)

/-! ### Semaphores (R255, R256) -/

/-- The value of a semaphore instruction (R255). -/
def semValue (x : DWord) (imm : BitVec 6) : Word := x.truncate 32 + imm.signExtend 32

/-- The semaphore of a group's side. -/
def Group.sem (g : Group) (side : Bool) (n : Nat) : Word := SMap.get 0 (if side then g.semsF else g.sems) n

/-- Set a semaphore. -/
def Group.setSem (g : Group) (side : Bool) (n : Nat) (v : Word) : Group :=
  if side then { g with semsF := SMap.put g.semsF n v } else { g with sems := SMap.put g.sems n v }

/-- Whether a semaphore has reached a value (R255). -/
def semReached (x v : Word) : Bool := decide (0 ≤ (x - v).toInt)

/-- A semaphore update, or an illegal operand for a number beyond the recorded count. -/
def State.semUpdate (s : State) (i : Instr) (sm : BitVec 6) (f : Word → Word) : State :=
  if s.grid.ds.nsem ≤ sm.toNat then s.illegalOperand i 0x06
  else (s.modGrp fun g => g.setSem s.side sm.toNat (f (g.sem s.side sm.toNat))).retire i

/-- semset (R255). -/
def execSemset (h : Hdr) (sm : BitVec 6) (ka : Kr) (imm : BitVec 6) (s : State) : Out :=
  .next (s.semUpdate (.semset h sm ka imm) sm fun _ => semValue (s.w.rdK ka.toNat) imm)

/-- semadd (R255). -/
def execSemadd (h : Hdr) (sm : BitVec 6) (ka : Kr) (imm : BitVec 6) (s : State) : Out :=
  .next (s.semUpdate (.semadd h sm ka imm) sm fun x => x + semValue (s.w.rdK ka.toNat) imm)

/-- Whether a semwait waits (R255). -/
def State.semWaits (s : State) (sm : BitVec 6) (ka : Kr) (imm : BitVec 6) : Bool :=
  decide (sm.toNat < s.grid.ds.nsem) && !semReached (s.grp.sem s.side sm.toNat) (semValue (s.w.rdK ka.toNat) imm)

/-- semwait (R255). -/
def execSemwait (h : Hdr) (sm : BitVec 6) (ka : Kr) (imm : BitVec 6) (s : State) : Out :=
  let i := Instr.semwait h sm ka imm
  .next (if s.grid.ds.nsem ≤ sm.toNat then s.illegalOperand i 0x06
    else if semReached (s.grp.sem s.side sm.toNat) (semValue (s.w.rdK ka.toNat) imm) then s.retire i
    else s.holdRun)

/-! ### One slice instruction (R240, Table 10.1) -/

/-- An effect of the slice outside its file; a replay does not perform those it has performed before (R246). -/
def State.sliceEffect (s : State) (i : Instr) (f : State → State) : State :=
  if 0 < s.w.slice.skip then (s.modSlice fun x => { x with skip := x.skip - 1 }).sliceNext i none
  else ((f s).modSlice fun x => { x with effs := x.effs + 1 }).sliceNext i none

/-- cpy and cpym of a slice; its copies count on no counter.
DESIGN CHOICE (log 87): one whose stores find no room in the fold buffer and the spill area (R303) fails the slice as one that R251 would stop. -/
def State.sliceCopy (s : State) (i : Instr) (s2g : Bool) (ch : BitVec 4) (kdst kfrom klen : Kr) (mask : Option (BitVec 8)) : State :=
  let rd (r : Kr) : Nat := (s.w.slice.rdK r).toNat
  let glob := if s2g then rd kdst else rd kfrom
  let sp := if s2g then rd kfrom else rd kdst
  match s.copyChecks ch.toNat glob sp (rd klen) mask with
  | .illegal _ => s.sliceFail 0x04 0
  | .fault _ _ => s.sliceFail 0x04 0
  | .nothing => s.sliceNext i none
  | .go to_ =>
    if s.w.slice.skip = 0 ∧ s.copyFull to_ s.side ch.toNat then s
    else if s.w.slice.skip = 0 ∧ s.inDomain ∧ s2g ∧ !(s.foldRoom false ((copyPieces glob (rd klen) (rd klen / 32 + 2) 0).map fun p => (glob + p.1) / 32)) then s.sliceFail 0x04 0
    else s.sliceEffect i fun s =>
      let (s, cp) := s.copyNow { src := rd kfrom, dst := rd kdst, len := rd klen, s2g := s2g, at_ := 0, got := [], warp := s.cur, seq := noSeq }
      s.putCopy to_ s.side ch.toNat cp

/-- One word of the current warp's slice, already decoded. -/
def State.sliceExec (s : State) (i : Instr) : State :=
  let x := s.w.slice
  let go (t : DWord) : State := s.modSlice fun x => { x with pc := t }
  let target (off : BitVec 14) : DWord := s.packetOf x.pc + 12 * off.signExtend 64
  let next : DWord := x.pc + BitVec.ofNat 64 (4 * i.words)
  let sem (sm : BitVec 6) (f : Word → Word) : State :=
    if s.grid.ds.nsem ≤ sm.toNat then s.sliceFail 0x04 0
    else s.sliceEffect i fun s => s.modGrp fun g => g.setSem s.side sm.toNat (f (g.sem s.side sm.toNat))
  match i with
  | .nop _ => s.sliceNext i none
  | .bra _ off => go (target off)
  | .bru _ k off => go (if x.rdK k ≠ 0 then target off else next)
  | .bruz _ k off => go (if x.rdK k = 0 then target off else next)
  | .exit _ => s.modSlice fun x => { x with stopping := true }.settle
  | .sliceLdl h d kb ks sz imm hint sx =>
    match execSliceLdl h d kb ks sz imm hint sx s with
    | .next s' => s'
    | _ => s
  | .cpy _ kd kf kl ch s2g _ => s.sliceCopy i s2g ch kd kf kl none
  | .cpym _ kd kf kl ch _ m => s.sliceCopy i false ch kd kf kl (some m)
  | .semset _ sm ka imm => sem sm fun _ => semValue (x.rdK ka) imm
  | .semadd _ sm ka imm => sem sm fun v => v + semValue (x.rdK ka) imm
  | .semwait _ sm ka imm =>
    if s.grid.ds.nsem ≤ sm.toNat then s.sliceFail 0x04 0
    else if 0 < x.skip ∨ semReached (s.grp.sem s.side sm.toNat) (semValue (x.rdK ka) imm) then s.sliceEffect i id
    else s
  | i => match x.uniform i with
    | some r => s.sliceNext i (some r)
    | none => s.sliceFail 0x02 0

/-- The word position of an address in its packet (R34). -/
def State.wordPos (s : State) (a : Nat) : Nat := (a - s.codeBase) % 12 / 4

/-- The next word of the slice of warp `h` (R240): fetched, checked as a group of one, executed; unchanged where it waits. -/
def State.sliceStep (s : State) (h : Nat) : State :=
  s.withWarp h fun s =>
    let x := s.w.slice
    if x.st ≠ .running ∨ x.stopping then s
    else
      let a := x.pc.toNat
      let miss (d : Nat) : State := if d = 0x0D then s.sliceFail 0x05 0 else s.sliceFail 0x06 d
      match s.fetchWord a with
      | .absent => s.requestPage s.ctxNo a
      | .bad d => miss d
      | .word w =>
        let long := isLongMajor (opOf w)
        let pos := s.wordPos a
        if bitAt w 31 || (long && pos == 2) then s.sliceFail 0x01 0
        else match (if long then s.fetchWord (a + 4) else .word 0) with
          | .absent => s.requestPage s.ctxNo (a + 4)
          | .bad d => miss d
          | .word pl =>
            match decodeSliceWord w pl with
            | .error .reservedField => s.sliceFail (if opOf w = 0x62 then 0x03 else 0x01) 0
            | .error _ => s.sliceFail 0x01 0
            | .ok i =>
              if !i.headerOk then s.sliceFail 0x01 0
              else s.sliceExec i

end Sys2Proof.Machine
end

