-- ==== Sys2Proof/Machine/Collective.lean ====
section
/-! DEFINITION. Collectives (R257 to R261). -/

namespace Sys2Proof.Machine

/-! ### Virtual ranges for a unit that is no warp -/

/-- The physical addresses of the `n` bytes from `va`, page by page; the detail of the first page that cannot be used. -/
def State.placeVa (s : State) (ctx va n : Nat) (write : Bool) : Except Nat (List Nat) :=
  if 2 ^ 57 < va + n then .error 0x03
  else (s.pagesOf ctx va n).foldl (fun acc p =>
    match acc, p.2 with
    | .error d, _ => .error d
    | _, .error d => .error d
    | .ok l, .ok x =>
      if s.pageLost x then .error 0x0A
      else if !pteP x.pte then .error 0x07
      else if write && !pteW x.pte then .error 0x08
      else
        let a := max va p.1
        let b := min (va + n) (x.va + x.size)
        if !write && s.meetsLost (x.pa a) (b - a) then .error 0x0A
        else if s.homeFailed (x.pa a) then .error 0x0B
        else .ok (l ++ (List.range (b - a)).map fun j => x.pa a + j)) (.ok [])

/-- The physical address of each of the `n` bytes from `va` that a unit may write. -/
def State.placeEach (s : State) (ctx va n : Nat) : List (Option Nat) :=
  (List.range n).map fun j => match s.placeVa ctx (va + j) 1 true with
    | .ok (a :: _) => some a
    | _ => none

/-- The bytes a unit reads from a virtual range. -/
def State.peekVa (s : State) (ctx va n : Nat) : Except Nat (List Byte) :=
  match s.placeVa ctx va n false with
  | .ok l => .ok (l.map s.mem.read)
  | .error d => .error d

/-! ### Descriptors (Table 10.7) -/

/-- A collective descriptor. -/
structure CollDesc where
  op : Nat
  type : Nat
  redop : Nat
  comm : Nat
  count : Nat
  send : Nat
  recv : Nat
  root : Nat
  zeros : Bool
deriving DecidableEq, Repr

/-- A little-endian field of a byte list. -/
def fieldAt (bs : List Byte) (off n : Nat) : Nat := ofBytes ((bs.drop off).take n)

/-- The fields of 64 descriptor bytes. -/
def collDescOf (bs : List Byte) : CollDesc :=
  { op := fieldAt bs 0 1, type := fieldAt bs 1 1, redop := fieldAt bs 2 1, comm := fieldAt bs 4 2, count := fieldAt bs 8 8
    send := fieldAt bs 16 8, recv := fieldAt bs 24 8, root := fieldAt bs 32 4
    zeros := fieldAt bs 3 1 == 0 && fieldAt bs 6 2 == 0 && fieldAt bs 40 24 == 0 }

/-- Bytes of an element. -/
def CollDesc.es (d : CollDesc) : Nat := if d.type = 1 ∨ d.type = 2 then 2 else 4

/-- Bytes of a rank block. -/
def CollDesc.block (d : CollDesc) : Nat := d.count * d.es

/-- Bytes of the send buffer for `n` ranks (R257). -/
def CollDesc.sendLen (d : CollDesc) (n : Nat) : Nat := if d.op = 1 ∨ d.op = 3 then n * d.block else d.block

/-- Bytes of the receive buffer (R257). -/
def CollDesc.recvLen (d : CollDesc) (n : Nat) : Nat := if d.op = 2 ∨ d.op = 3 then n * d.block else d.block

/-- Whether a descriptor keeps Table 10.7 for a communicator of `n` ranks. -/
def CollDesc.ok (d : CollDesc) (n : Nat) : Bool :=
  let apart := decide (d.send + d.sendLen n ≤ d.recv) || decide (d.recv + d.recvLen n ≤ d.send)
  decide (d.op ≤ 4) && decide (d.type ≤ 4) && decide (d.redop ≤ 2) && d.zeros && decide (d.comm < 256) && decide (0 < n) &&
  decide (0 < d.count) && decide (d.block < 2 ^ 32) && d.send % 16 == 0 && d.recv % 16 == 0 && (d.op != 4 || decide (d.root < n)) &&
  (apart || ((d.op == 0 || d.op == 4) && d.send == d.recv))

/-- Whether two ranks' descriptors agree (R260). -/
def CollDesc.agrees (a b : CollDesc) : Bool := a.op == b.op && a.type == b.type && a.redop == b.redop && a.count == b.count && a.root == b.root

/-! ### Arithmetic (R259) -/

/-- The float format of a type. -/
def CollDesc.fmt (d : CollDesc) : Fmt := if d.type = 1 then bf16 else if d.type = 2 then f16 else f32

/-- One element reduced over the ranks in rank order. -/
def CollDesc.reduce (d : CollDesc) (xs : List Nat) : Nat :=
  match xs with
  | [] => 0
  | x :: rest =>
    if d.type = 3 ∨ d.type = 4 then
      let lt (a b : Nat) : Bool := if d.type = 3 then decide (sextInt a 32 < sextInt b 32) else decide (a < b)
      rest.foldl (fun y v => match d.redop with
        | 0 => (y + v) % 2 ^ 32
        | 1 => if lt v y then v else y
        | _ => if lt y v then v else y) x
    else if d.redop = 0 then
      let up (v : Nat) : Nat := (f32.encode .rne false (d.fmt.decode v)).1
      if d.type = 0 then rest.foldl (fun y v => (f32.add 0 y v).1) x
      else (d.fmt.encode .rne false (f32.decode (rest.foldl (fun y v => (f32.add 0 y (up v)).1) (up x)))).1
    else rest.foldl (fun y v => (d.fmt.minMax false (d.redop == 2) y v).1) x

/-- Block `b` of a buffer. -/
def CollDesc.blockOf (d : CollDesc) (b : Nat) (x : List Byte) : List Byte := (x.drop (b * d.block)).take d.block

/-- The receive buffer of rank `r` from the ranks' send buffers (R259). -/
def CollDesc.result (d : CollDesc) (r : Nat) (sends : List (List Byte)) : List Byte :=
  let red (bs : List (List Byte)) : List Byte :=
    (List.range d.count).flatMap fun i => toBytes d.es (d.reduce (bs.map fun b => fieldAt b (i * d.es) d.es))
  match d.op with
  | 0 => red sends
  | 1 => red (sends.map (d.blockOf r))
  | 2 => sends.flatMap fun x => x.take d.block
  | 3 => sends.flatMap (d.blockOf r)
  | _ => (sends.getD d.root []).take d.block

/-! ### coll and collw (R258, R261) -/

/-- Collectives the engine holds at most (R258). -/
def collLimit : Nat := 64

/-- Change a communicator's counts. -/
def State.modComm (s : State) (c : Nat) (f : Comm → Comm) : State := { s with comms := SMap.upd ⟨0, 0, 0, 0⟩ s.comms c f }

/-- coll (R258, R261): the descriptor goes to the engine, the count is the result; in a domain the counter is released at once. -/
def execColl (h : Hdr) (kdesc kd : Kr) (dc : Dc) (s : State) : Out :=
  let i := Instr.coll h kdesc kd dc
  let va := (s.w.rdK kdesc.toNat).toNat
  .next (if collLimit ≤ (s.colls.filter fun c => !c.done).length then s.hold
    else match s.peekVa s.ctxNo va 64 with
      | .error 0x07 => (s.requestPage s.ctxNo va).hold
      | r =>
        let c := match r with
          | .ok bs => (collDescOf bs).comm
          | .error _ => 65535
        let n := (SMap.get ⟨0, 0, 0, 0⟩ s.comms c).issued + 1
        let s := s.modComm c fun x => { x with issued := n }
        let rec_ : Coll := { comm := c, warp := s.cur, seq := s.w.seqNo, num := n, desc := va, ctx := s.ctxNo
                             collated := if s.inDomain then some s.grid.pk.domain else none, bytes := [], done := false, due := none }
        let s := { s with colls := s.colls ++ [rec_] }
        (s.modW fun w => w.count i.counter [.k kd.toNat] s.inDomain [RegWrite.ofK kd.toNat (BitVec.ofNat 64 n)]).retire i)

/-- collw (R258, R261): it waits for the completion count; in a domain it jumps to the boundary at which the received bytes are published. -/
def execCollw (h : Hdr) (kcomm kseq : Kr) (s : State) : Out :=
  let i := Instr.collw h kcomm kseq
  let c := (s.w.rdK kcomm.toNat).toNat
  let n := (s.w.rdK kseq.toNat).toNat
  .next (if (SMap.get ⟨0, 0, 0, 0⟩ s.comms c).completed < n then s.holdRun
    else if !s.collated then s.retire i
    else
      let b := (s.w.grpLclk / s.g + 1) * s.g
      let dom := s.grid.pk.domain
      let s := { s with colls := s.colls.map fun (x : Coll) => if x.comm == c && decide (x.num ≤ n) && x.collated == some dom && x.due.isNone then { x with due := some (s.w.wave, b) } else x }
      s.jumpDone.retire i)

/-- Whether a collw waits: the communicator has not completed the collective with its number (R258). -/
def State.collWaits (s : State) (kcomm kseq : Kr) : Bool :=
  decide ((SMap.get ⟨0, 0, 0, 0⟩ s.comms (s.w.rdK kcomm.toNat).toNat).completed < (s.w.rdK kseq.toNat).toNat)

/-- What a collective comes to: wait for a page, or a status with the bytes it writes. -/
inductive CollOut where
  | wait (va : Nat)
  | ends (status : Nat) (writes : List (Nat × Byte))

/-- The outcome of a collective from the other ranks' descriptors and send buffers (`peers`, 64 descriptor bytes and the buffer each, in rank order)
and a fault of the fabric (0 none, 3 a translation fault elsewhere, 4 a participant lost). Broadcast reads a send buffer at the root only (R257).
With status 3 or 4 each receive byte is its old value or its result, as a free value says (R260), and bytes of a send buffer that cannot be read are free values.
DESIGN CHOICE (log 80): a descriptor that is not aligned to 64 bytes is a bad descriptor, status 2. -/
def State.collOutcome (s : State) (c : Coll) (peers : List (List Byte)) (fault : Nat) : CollOut :=
  match s.peekVa c.ctx c.desc 64 with
  | .error 0x07 => .wait c.desc
  | .error _ => .ends 3 []
  | .ok bs =>
    let d := collDescOf bs
    let cm := SMap.get ⟨0, 0, 0, 0⟩ s.comms c.comm
    let n := cm.ranks
    let disagree := ((List.range n).any fun j => j != cm.rank && !(peers.getD j []).isEmpty && !d.agrees (collDescOf (peers.getD j [])))
    let sends (own : List Byte) : List (List Byte) := (List.range n).map fun j => if j = cm.rank then own else (peers.getD j []).drop 64
    let part (status : Nat) (own : List Byte) (to_ : List (Option Nat)) : CollOut :=
      let all := (to_.zip (d.result cm.rank (sends own))).filterMap fun e => e.1.map fun a => (a, e.2)
      .ends status (((List.range all.length).zip all).filterMap fun e => if Config.freeBits (s.freeCount + e.1) % 2 = 1 then some e.2 else none)
    let own := if d.op = 4 ∧ cm.rank ≠ d.root then .ok [] else s.peekVa c.ctx d.send (d.sendLen n)
    if c.desc % 64 ≠ 0 ∨ !d.ok n then .ends 2 []
    else if disagree then .ends 1 []
    else match own, s.placeVa c.ctx d.recv (d.recvLen n) true with
      | .error 0x07, _ => .wait d.send
      | _, .error 0x07 => .wait d.recv
      | .ok own, .ok to_ => if fault = 0 then .ends 0 (to_.zip (d.result cm.rank (sends own))) else part (if fault = 4 then 4 else 3) own (to_.map some)
      | own, _ =>
        let free := (List.range (d.sendLen n)).map fun j => BitVec.ofNat 8 (Config.freeBits (s.freeCount + d.recvLen n + j))
        part 3 (match own with | .ok b => b | .error _ => free) (s.placeEach c.ctx d.recv (d.recvLen n))

/-- COLLECTIVE_COMPLETE (R259, R260): the oldest collective of a communicator completes. -/
def execCollectiveComplete (comm : Nat) (peers : List (List Byte)) (fault : Nat) (s : State) : Out :=
  .next (match s.colls.find? fun c => c.comm == comm && !c.done with
    | none => s
    | some c =>
      match s.collOutcome c peers fault with
      | .wait va => s.requestPage c.ctx va
      | .ends st ws =>
        let status := match s.placeVa c.ctx (c.desc + 36) 4 true with
          | .ok l => l.zip (toBytes 4 st)
          | .error _ => []
        let ws := ws ++ status
        let s := if st = 3 ∨ st = 4 then { s with freeCount := s.freeCount + 2 ^ 32 * 1024 } else s
        let s := s.modComm comm fun x => { x with completed := x.completed + 1 }
        let s := if st = 0 then s else s.raiseErr ⟨0x0003, 0, c.ctx, (s.gridAt (s.groupAt (s.warpAt c.warp).grp).grid).launch, 0xFFFFFFFF, st, c.desc, comm + c.num * 2 ^ 16⟩
        match c.collated with
        | none =>
          let s := (s.pokePa ws).modWarp c.warp fun w => w.complete c.seq []
          { s with colls := s.colls.filter (· != c) }
        | some _ => { s with colls := s.colls.map fun (x : Coll) => if x == c then { c with done := true, bytes := ws } else x })

/-- The received bytes of a domain's collectives whose collw named this boundary point or an earlier one (R261). -/
def State.publishColls (s : State) (dom wave clk : Nat) : State :=
  let now (c : Coll) : Bool := c.done && c.collated == some dom && (match c.due with
    | some (w, t) => decide (w < wave) || (w == wave && decide (t ≤ clk))
    | none => false)
  let s' := (s.colls.filter now).foldl (fun s c => s.pokePa c.bytes) s
  { s' with colls := s'.colls.filter fun c => !now c }

end Sys2Proof.Machine
end

