-- ==== Sys2Proof/Machine/Special.lean ====
section
/-! DEFINITION. The special functions (R146, R147), correctly rounded. Transcendental values are evaluated in fixed point with `prec` fraction bits,
far more than the distance of any f32 result from a rounding boundary. -/

namespace Sys2Proof.Machine

/-- Fraction bits of the fixed-point evaluation. -/
def prec : Nat := 400

/-- The integer square root, one bit at a time from bit `n`. -/
def isqrtBits (x : Nat) : Nat → Nat → Nat
  | 0, r => r
  | n + 1, r => let c := r + 2 ^ n; if c * c ≤ x then isqrtBits x n c else isqrtBits x n r

/-- The integer square root. -/
def isqrt (x : Nat) : Nat := isqrtBits x (bitLen x / 2 + 1) 0

/-- atanh(1/k) or, with alternating signs, atan(1/k), times 2^prec, by its series. -/
def atanInv (alt : Bool) (k : Nat) : Nat → Nat → Nat → Int
  | 0, _, _ => 0
  | fuel + 1, i, pow =>
    let t : Int := ((pow / (2 * i + 1) : Nat) : Int)
    (if alt && i % 2 == 1 then -t else t) + atanInv alt k fuel (i + 1) (pow / (k * k))

/-- ln 2 × 2^prec: 2 atanh(1/3). -/
def ln2Fix : Nat := (2 * atanInv false 3 140 0 (2 ^ prec / 3)).toNat

/-- π × 2^prec, by Machin's formula. -/
def piFix : Nat := (16 * atanInv true 5 100 0 (2 ^ prec / 5) - 4 * atanInv true 239 40 0 (2 ^ prec / 239)).toNat

/-- exp(x) × 2^prec for x × 2^prec = `x`, below 1, by its series from term `i` with value `term`. -/
def expSeries (x : Nat) : Nat → Nat → Nat → Nat
  | 0, _, _ => 0
  | fuel + 1, i, term => term + expSeries x fuel (i + 1) (term * x / 2 ^ prec / (i + 1))

/-- 2^(f / 2^prec) × 2^prec for a fraction f below 2^prec. -/
def exp2Fix (f : Nat) : Nat := expSeries (f * ln2Fix / 2 ^ prec) 100 0 (2 ^ prec)

/-- atanh(t / 2^prec) × 2^prec by its series, t² = `t2`. -/
def atanhSeries (t2 : Nat) : Nat → Nat → Nat → Nat
  | 0, _, _ => 0
  | fuel + 1, i, pow => pow / (2 * i + 1) + atanhSeries t2 fuel (i + 1) (pow * t2 / 2 ^ prec)

/-- log2(y / 2^prec) × 2^prec for y from 2^prec up to 2 × 2^prec. -/
def log2Fix (y : Nat) : Nat :=
  let t := (y - 2 ^ prec) * 2 ^ prec / (y + 2 ^ prec)
  2 * atanhSeries (t * t / 2 ^ prec) 140 0 t * 2 ^ prec / ln2Fix

/-- The alternating series of sin (from odd terms) or cos: `x2` is the square of the angle. -/
def trigSeries (x2 : Nat) : Nat → Nat → Nat → Int
  | 0, _, _ => 0
  | fuel + 1, i, term => (term : Int) - trigSeries x2 fuel (i + 2) (term * x2 / 2 ^ prec / ((i + 1) * (i + 2)))

/-- sin(π r) × 2^prec for r × 2^prec = `r`, up to one half. -/
def sinPiFix (r : Nat) : Nat :=
  let x := r * piFix / 2 ^ prec
  (trigSeries (x * x / 2 ^ prec) 60 1 x).toNat

/-- frcp (Table 6.6, R146). -/
def frcpOf (c : BitVec 4) (a : Nat) : Nat × FFlags :=
  let (x, fx) := f32.input (fpcDaz c) a
  match x with
  | .nan sig => (f32.nan, fx ||| flagIf sig flagNV)
  | .inf n => (f32.signBit n, fx)
  | .fin n m e =>
    if m = 0 then (f32.inf n, fx ||| flagDZ)
    else
      let k := bitLen m + 30
      let (r, fr) := f32.round (fpcRm c) (fpcFtz c) n (2 ^ k / m) (-(k : Int) - e) (decide (2 ^ k % m ≠ 0))
      (r, fx ||| fr)

/-- A finite value written with an even exponent. -/
def evenExp (m : Nat) (e : Int) : Nat × Int := if e % 2 = 0 then (m, e) else (2 * m, e - 1)

/-- fsqrt. -/
def fsqrtOf (c : BitVec 4) (a : Nat) : Nat × FFlags :=
  let (x, fx) := f32.input (fpcDaz c) a
  match x with
  | .nan sig => (f32.nan, fx ||| flagIf sig flagNV)
  | .inf n => if n then (f32.nan, fx ||| flagNV) else (f32.inf false, fx)
  | .fin n m e =>
    if m = 0 then (f32.signBit n, fx)
    else if n then (f32.nan, fx ||| flagNV)
    else
      let (m, e) := evenExp m e
      let v := m * 2 ^ 64
      let r := isqrt v
      let (y, fr) := f32.round (fpcRm c) (fpcFtz c) false r (e / 2 - 32) (decide (r * r ≠ v))
      (y, fx ||| fr)

/-- frsq. -/
def frsqOf (c : BitVec 4) (a : Nat) : Nat × FFlags :=
  let (x, fx) := f32.input (fpcDaz c) a
  match x with
  | .nan sig => (f32.nan, fx ||| flagIf sig flagNV)
  | .inf n => if n then (f32.nan, fx ||| flagNV) else (0, fx)
  | .fin n m e =>
    if m = 0 then (f32.inf n, fx ||| flagDZ)
    else if n then (f32.nan, fx ||| flagNV)
    else
      let (m, e) := evenExp m e
      let r := isqrt (2 ^ 160 / m)
      let (y, fr) := f32.round .rne (fpcFtz c) false r (-80 - e / 2) (decide (r * r * m ≠ 2 ^ 160))
      (y, fx ||| fr)

/-- fex2. -/
def fex2Of (c : BitVec 4) (a : Nat) : Nat × FFlags :=
  let (x, fx) := f32.input (fpcDaz c) a
  match x with
  | .nan sig => (f32.nan, fx ||| flagIf sig flagNV)
  | .inf n => (if n then 0 else f32.inf false, fx)
  | .fin neg m e =>
    let mag := roundAt .rtz false m e 0 false
    let (y, fr) :=
      if 300 < mag.1 then f32.round .rne (fpcFtz c) false 1 (if neg then -2000 else 2000) true
      else
        -- value × 2^prec, floored to integer and fraction
        let v : Int := (FVal.fin neg m e).scaled (-(prec : Int))
        let n := v.fdiv (2 ^ prec)
        let f := (v - n * 2 ^ prec).toNat
        if f = 0 then f32.round .rne (fpcFtz c) false 1 n false
        else f32.round .rne (fpcFtz c) false (exp2Fix f) (n - prec) true
    (y, fx ||| fr)

/-- flg2. -/
def flg2Of (c : BitVec 4) (a : Nat) : Nat × FFlags :=
  let (x, fx) := f32.input (fpcDaz c) a
  match x with
  | .nan sig => (f32.nan, fx ||| flagIf sig flagNV)
  | .inf n => if n then (f32.nan, fx ||| flagNV) else (f32.inf false, fx)
  | .fin neg m e =>
    if m = 0 then (f32.inf true, fx ||| flagDZ)
    else if neg then (f32.nan, fx ||| flagNV)
    else
      let l := bitLen m - 1
      let k := e + l
      let y := m * 2 ^ prec / 2 ^ l
      if y = 2 ^ prec then
        if k = 0 then (0, fx)
        else
          let (r, fr) := f32.round .rne (fpcFtz c) (decide (k < 0)) k.natAbs 0 false
          (r, fx ||| fr)
      else
        let v : Int := k * 2 ^ prec + (log2Fix y : Nat)
        let (r, fr) := f32.round .rne (fpcFtz c) (decide (v < 0)) v.natAbs (-(prec : Int)) true
        (r, fx ||| fr)

/-- sin(π a) for `cos = false`, cos(π a) for `cos = true`: the exact cases of Table 6.6, otherwise rounded to nearest-even. -/
def ftrigOf (cos : Bool) (c : BitVec 4) (a : Nat) : Nat × FFlags :=
  let (x, fx) := f32.input (fpcDaz c) a
  match x with
  | .nan sig => (f32.nan, fx ||| flagIf sig flagNV)
  | .inf _ => (f32.nan, fx ||| flagNV)
  | .fin neg m e =>
    -- the magnitude modulo 2, in units of 2^-prec; f32 values have no smaller place
    let one := 2 ^ prec
    let v := if 1 < e then 0 else m * 2 ^ (e + prec).toNat % (2 * one)
    -- cos(π a) = sin(π (|a| + 1/2))
    let u := if cos then (v + one / 2) % (2 * one) else v
    let half := decide (one ≤ u)
    let r := if half then u - one else u
    let sgn := if cos then half else half ^^ neg
    if r = 0 then (f32.signBit (if cos then false else neg), fx)
    else if r = one / 2 then ((if sgn then 0xBF800000 else 0x3F800000), fx)
    else
      let q := if one / 2 < r then one - r else r
      let (y, fr) := f32.round .rne (fpcFtz c) sgn (sinPiFix q) (-(prec : Int)) true
      (y, fx ||| fr)

end Sys2Proof.Machine
end

