-- ==== Sys2Proof/Machine/FloatOps.lean ====
section
/-! DEFINITION. Floating-point vector instructions (R143 to R152). -/

namespace Sys2Proof.Machine

/-- A result on naturals as a lane word. -/
def toW (r : Nat × FFlags) : Word × FFlags := (BitVec.ofNat 32 r.1, r.2)
/-- A one-source float function. -/
def fop1 (f : BitVec 4 → Nat → Nat × FFlags) (c : BitVec 4) (l : List Word) : Word × FFlags := toW (f c (l.getD 0 0).toNat)
/-- A two-source float function. -/
def fop2 (f : BitVec 4 → Nat → Nat → Nat × FFlags) (c : BitVec 4) (l : List Word) : Word × FFlags :=
  toW (f c (l.getD 0 0).toNat (l.getD 1 0).toNat)
/-- A three-source float function. -/
def fop3 (f : BitVec 4 → Nat → Nat → Nat → Nat × FFlags) (c : BitVec 4) (l : List Word) : Word × FFlags :=
  toW (f c (l.getD 0 0).toNat (l.getD 1 0).toNat (l.getD 2 0).toNat)

/-- The format of a packed half form. -/
def halfFmt (bf : Bool) : Fmt := if bf then bf16 else f16
/-- Half `h` of a word. -/
def halfOf (x h : Nat) : Nat := fld x (16 * h) 16
/-- An operation on both halves of a word (R150). -/
def onHalves (f : Nat → Nat × FFlags) : Nat × FFlags :=
  let lo := f 0
  let hi := f 1
  (hi.1 * 2 ^ 16 + lo.1, lo.2 ||| hi.2)
/-- hadd2 on a lane. -/
def hadd2Of (bf : Bool) (c : BitVec 4) (a b : Nat) : Nat × FFlags := onHalves fun h => (halfFmt bf).add c (halfOf a h) (halfOf b h)
/-- hmul2 on a lane. -/
def hmul2Of (bf : Bool) (c : BitVec 4) (a b : Nat) : Nat × FFlags := onHalves fun h => (halfFmt bf).mul c (halfOf a h) (halfOf b h)
/-- hfma2 on a lane. -/
def hfma2Of (bf : Bool) (c : BitVec 4) (a b d : Nat) : Nat × FFlags := onHalves fun h => (halfFmt bf).fma c (halfOf a h) (halfOf b h) (halfOf d h)
/-- fdot2 on a lane (R149). -/
def fdot2Of (bf : Bool) (c : BitVec 4) (a b d : Nat) : Nat × FFlags :=
  f32.dot (halfFmt bf) c [(halfOf a 0, halfOf b 0), (halfOf a 1, halfOf b 1)] d

/-- fadd (R144, Table 6.4). -/
def execFadd (h : Hdr) (d a b : Vr) (x : Bx) (s : State) : Out :=
  .next (s.lanewiseF (.fadd h d a b x) x d [a, b] (fop2 f32.add))

/-- fsub (R144, Table 6.4). -/
def execFsub (h : Hdr) (d a b : Vr) (x : Bx) (s : State) : Out :=
  .next (s.lanewiseF (.fsub h d a b x) x d [a, b] (fop2 f32.sub))

/-- fmul (R144, Table 6.4). -/
def execFmul (h : Hdr) (d a b : Vr) (x : Bx) (s : State) : Out :=
  .next (s.lanewiseF (.fmul h d a b x) x d [a, b] (fop2 f32.mul))

/-- ffma (R144, Table 6.4). -/
def execFfma (h : Hdr) (d a b : Vr) (x : Bx) (s : State) : Out :=
  .next (s.lanewiseF (.ffma h d a b x) x d [a, b, d] (fop3 f32.fma))

/-- fmin (R144, Table 6.4). -/
def execFmin (h : Hdr) (d a b : Vr) (x : Bx) (s : State) : Out :=
  .next (s.lanewiseF (.fmin h d a b x) x d [a, b] (fop2 fun c => f32.minMax (fpcDaz c) false))

/-- fmax (R144, Table 6.4). -/
def execFmax (h : Hdr) (d a b : Vr) (x : Bx) (s : State) : Out :=
  .next (s.lanewiseF (.fmax h d a b x) x d [a, b] (fop2 fun c => f32.minMax (fpcDaz c) true))

/-- fabs (R146, Table 6.5). -/
def execFabs (h : Hdr) (d a : Vr) (x : Bx) (s : State) : Out :=
  .next (s.lanewiseF (.fabs h d a x) x d [a] (fun _ l => ((l.getD 0 0) &&& 0x7FFFFFFF, 0)))

/-- fneg (R146, Table 6.5). -/
def execFneg (h : Hdr) (d a : Vr) (x : Bx) (s : State) : Out :=
  .next (s.lanewiseF (.fneg h d a x) x d [a] (fun _ l => ((l.getD 0 0) ^^^ 0x80000000, 0)))

/-- frcp (R146, Table 6.5). -/
def execFrcp (h : Hdr) (d a : Vr) (x : Bx) (s : State) : Out :=
  .next (s.lanewiseF (.frcp h d a x) x d [a] (fop1 frcpOf))

/-- frsq (R146, Table 6.5). -/
def execFrsq (h : Hdr) (d a : Vr) (x : Bx) (s : State) : Out :=
  .next (s.lanewiseF (.frsq h d a x) x d [a] (fop1 frsqOf))

/-- fsqrt (R146, Table 6.5). -/
def execFsqrt (h : Hdr) (d a : Vr) (x : Bx) (s : State) : Out :=
  .next (s.lanewiseF (.fsqrt h d a x) x d [a] (fop1 fsqrtOf))

/-- fex2 (R146, Table 6.5). -/
def execFex2 (h : Hdr) (d a : Vr) (x : Bx) (s : State) : Out :=
  .next (s.lanewiseF (.fex2 h d a x) x d [a] (fop1 fex2Of))

/-- flg2 (R146, Table 6.5). -/
def execFlg2 (h : Hdr) (d a : Vr) (x : Bx) (s : State) : Out :=
  .next (s.lanewiseF (.flg2 h d a x) x d [a] (fop1 flg2Of))

/-- fsin (R146, Table 6.5). -/
def execFsin (h : Hdr) (d a : Vr) (x : Bx) (s : State) : Out :=
  .next (s.lanewiseF (.fsin h d a x) x d [a] (fop1 (ftrigOf false)))

/-- fcos (R146, Table 6.5). -/
def execFcos (h : Hdr) (d a : Vr) (x : Bx) (s : State) : Out :=
  .next (s.lanewiseF (.fcos h d a x) x d [a] (fop1 (ftrigOf true)))

/-- fdot2 (R149); no block extent. -/
def execFdot2 (h : Hdr) (d a b : Vr) (bf : Bool) (s : State) : Out :=
  .next (s.lanewiseF (.fdot2 h d a b bf) 0 d [a, b, d] (fop3 (fdot2Of bf)))

/-- hadd2 (R150); no block extent. -/
def execHadd2 (h : Hdr) (d a b : Vr) (bf : Bool) (s : State) : Out :=
  .next (s.lanewiseF (.hadd2 h d a b bf) 0 d [a, b] (fop2 (hadd2Of bf)))

/-- hmul2 (R150); no block extent. -/
def execHmul2 (h : Hdr) (d a b : Vr) (bf : Bool) (s : State) : Out :=
  .next (s.lanewiseF (.hmul2 h d a b bf) 0 d [a, b] (fop2 (hmul2Of bf)))

/-- hfma2 (R150); no block extent. -/
def execHfma2 (h : Hdr) (d a b : Vr) (bf : Bool) (s : State) : Out :=
  .next (s.lanewiseF (.hfma2 h d a b bf) 0 d [a, b, d] (fop3 (hfma2Of bf)))

/-- frnd (R151); FPC.RM is not read. -/
def execFrnd (h : Hdr) (d a : Vr) (mode : Rm) (s : State) : Out :=
  .next (s.lanewiseF (.frnd h d a mode) 0 d [a] (fop1 fun c => frndOf c (rmTo5 mode)))

/-- fcmp (R148): a comparison after DAZ, joined with q, into p; its flags are raised in every active lane. -/
def execFcmp (h : Hdr) (p : Pr) (a b : Vr) (cond : FCond) (comb : Comb) (q : Pr) (s : State) : Out :=
  .next (s.withSrcs (.fcmp h p a b cond comb q) [a.toNat, b.toNat] fun vals s =>
    let out (l : Nat) := fcmpHolds cond (fpcDaz s.w.fpc) ((vals.getD 0 fun _ => 0) l).toNat ((vals.getD 1 fun _ => 0) l).toNat
    (s.modW fun w => w.raise fun l => (out l).2).predicate (.fcmp h p a b cond comb q) 4 p fun l =>
      combine comb (out l).1 (s.w.rdP q.toNat l))

/-- fsetm (R152): d receives FPC as it was; the masked bits change from the next group. -/
def execFsetm (h : Hdr) (d : Vr) (mask value : BitVec 4) (s : State) : Out :=
  .next (if s.w.isWindow d.toNat then s.illegalOperand (.fsetm h d mask value) 0x05
    else (s.modW fun w => { w.push 4 (RegWrite.ofV d.toNat w.active fun _ => w.fpc.zeroExtend 32) with
      deferred := w.deferred ++ [.fpc mask value] }).retire (.fsetm h d mask value))

end Sys2Proof.Machine
end

