-- ==== Sys2Proof/Machine/Narrow.lean ====
section
/-! DEFINITION. Format words and narrow elements (R114 to R123), and scales (R120, R131). -/

namespace Sys2Proof.Machine

/-! ### Format words (Table 5.3) -/

/-- E of a format word. -/
def fwE (f : Nat) : Nat := fld f 0 3
/-- M of a format word. -/
def fwM (f : Nat) : Nat := fld f 3 3
/-- S of a format word. -/
def fwS (f : Nat) : Nat := fld f 6 1
/-- BIAS of a format word. -/
def fwBias (f : Nat) : Int := sextInt (fld f 8 8) 8
/-- SPEC of a format word. -/
def fwSpec (f : Nat) : Nat := fld f 16 2
/-- SUB of a format word. -/
def fwSub (f : Nat) : Bool := bitAt f 18
/-- BLK of a format word. -/
def fwBlk (f : Nat) : Nat := fld f 19 3
/-- SC of a format word. -/
def fwSc (f : Nat) : Nat := fld f 22 2
/-- RND of a format word: 0 rne, 1 rtz, 2 srnd, 3 rna. -/
def fwRnd (f : Nat) : Nat := fld f 24 2
/-- The width of an element. -/
def fwW (f : Nat) : Nat := fwS f + fwE f + fwM f
/-- The block size, 0 for none. -/
def fwBlock (f : Nat) : Nat := if fwBlk f = 0 then 0 else 4 * 2 ^ fwBlk f

/-- The bit-plane word (R116). -/
def isPlane (f : Nat) : Bool := fwS f == 0 && fwE f == 0 && fwM f == 1 && fwBias f == 0 && fwSpec f == 2

/-- The lowest format-word fault of a word (Table 5.4), for an instruction that accepts the bit-plane word or not. -/
def fwFault (plane : Bool) (f : Nat) : Option Nat :=
  let e := fwE f
  let m := fwM f
  let sp := fwSpec f
  if fld f 26 6 ≠ 0 ∨ bitAt f 7 then some 0x01
  else if !(decide (2 ≤ fwW f) && decide (fwW f ≤ 8)) && !isPlane f then some 0x02
  else if sp = 3 ∨ (sp = 0 ∧ (e < 2 ∨ m = 0)) ∨ (sp = 1 ∧ (e = 0 ∨ e + m < 2)) then some 0x03
  else if e = 0 ∧ (sp ≠ 2 ∨ !fwSub f) then some 0x04
  else if 5 ≤ fwBlk f then some 0x05
  else if fwSc f = 3 then some 0x06
  else if isPlane f && !plane then some 0x07
  else none

/-- Container bits (R118). -/
def fwCw (f : Nat) : Nat := if 5 ≤ fwW f then 8 else if 2 ≤ fwW f then 4 else 1

/-- Elements of one packed register that fpack and funpk take: min(8, 32 / cw) (R129). -/
def fwCount (f : Nat) : Nat := min 8 (32 / fwCw f)

/-- The value of a code (R119, Table 5.6). -/
def fwDecode (f c : Nat) : FVal :=
  let e := fwE f
  let m := fwM f
  let b := fwBias f
  if e = 0 then
    let q : Int := if fwS f = 1 then sextInt c (fwW f) else (fld c 0 (fwW f) : Int)
    .fin (decide (q < 0)) q.natAbs (-b)
  else
    let s := fwS f == 1 && bitAt c (e + m)
    let ef := fld c m e
    let mf := fld c 0 m
    let top := 2 ^ e - 1
    if fwSpec f = 0 ∧ ef = top then (if mf = 0 then .inf s else .nan false)
    else if fwSpec f = 1 ∧ ef = top ∧ mf = 2 ^ m - 1 then .nan false
    else if ef = 0 then (if fwSub f then .fin s mf (1 - b - m) else .fin s 0 0)
    else .fin s (2 ^ m + mf) ((ef : Int) - b - m)

/-- The exponent and mantissa fields of the largest finite magnitude (Table 5.6). -/
def fwMaxCode (f : Nat) : Nat × Nat :=
  let e := fwE f
  let m := fwM f
  match fwSpec f with
  | 0 => (2 ^ e - 2, 2 ^ m - 1)
  | 1 => if m = 0 then (2 ^ e - 2, 0) else (2 ^ e - 1, 2 ^ m - 2)
  | _ => (2 ^ e - 1, 2 ^ m - 1)

/-- The largest finite magnitude as count × 2^exponent (R121). -/
def fwMax (f : Nat) : Nat × Int :=
  if fwE f = 0 then (2 ^ fwM f - 1, -fwBias f)
  else
    let (ef, mf) := fwMaxCode f
    if ef = 0 then (mf, 1 - fwBias f - fwM f) else (2 ^ fwM f + mf, (ef : Int) - fwBias f - fwM f)

/-- hash32 (R123). -/
def hash32 (seed i : Nat) : Nat :=
  let w := 2 ^ 64
  let z := (seed + i * 0x9E3779B97F4A7C15) % w
  let z := ((z ^^^ (z / 2 ^ 30)) * 0xBF58476D1CE4E5B9) % w
  let z := ((z ^^^ (z / 2 ^ 27)) * 0x94D049BB133111EB) % w
  (z ^^^ (z / 2 ^ 31)) / 2 ^ 32

/-- Round m × 2^e to a count of 2^q by RND (R122); `loOdd` says whether the code of the lower neighbour is odd. -/
def fwRoundAt (rnd seed i m : Nat) (e q : Int) (loOdd : Nat → Bool) : Nat × Bool :=
  if q ≤ e then (m * 2 ^ (e - q).toNat, false)
  else
    let k := (q - e).toNat
    let n := m / 2 ^ k
    let r := m % 2 ^ k
    if r = 0 then (n, false)
    else
      let up := match rnd with
        | 0 => decide (2 ^ k < 2 * r) || (2 * r == 2 ^ k && loOdd n)
        | 1 => false
        | 2 => decide (hash32 seed i * 2 ^ k < r * 2 ^ 32)
        | _ => decide (2 ^ k ≤ 2 * r)
      (if up then n + 1 else n, true)

/-- The code of a magnitude n × 2^q on the format's grid, with a sign. -/
def fwCode (f : Nat) (neg : Bool) (n : Nat) (q : Int) : Nat :=
  let e := fwE f
  let m := fwM f
  if e = 0 then (if neg then (2 ^ fwW f - n) % 2 ^ fwW f else n)
  else
    let s := if neg && fwS f == 1 then 2 ^ (e + m) else 0
    if n < 2 ^ m then s + n
    else
      let (n, q) := if n = 2 ^ (m + 1) then (2 ^ m, q + 1) else (n, q)
      s + (q + m + fwBias f).toNat * 2 ^ m + (n - 2 ^ m)

/-- The canonical NaN code of a format (Table 5.6). -/
def fwNan (f : Nat) : Nat :=
  if fwSpec f = 0 then (2 ^ fwE f - 1) * 2 ^ fwM f + 2 ^ (fwM f - 1) else (2 ^ fwE f - 1) * 2 ^ fwM f + (2 ^ fwM f - 1)

/-- Conversion into a format (R121): code, flags, and whether the underflow count rises. -/
def fwConvert (f seed i : Nat) (x : FVal) : Nat × FFlags × Bool :=
  let sp := fwSpec f
  let (mx, mq) := fwMax f
  let maxCode (neg : Bool) := fwCode f neg mx mq
  match x with
  | .nan sig => if sp = 2 then (0, flagNV, false) else (fwNan f, flagIf sig flagNV, false)
  | .inf neg =>
    if neg && fwS f == 0 then (0, flagNV, false)
    else if sp = 0 then ((if neg then 2 ^ (fwE f + fwM f) else 0) + (2 ^ fwE f - 1) * 2 ^ fwM f, 0, false)
    else if sp = 1 then (fwNan f, flagNV, false)
    else (maxCode neg, flagNV, false)
  | .fin neg m e =>
    if m = 0 then ((if neg && fwS f == 1 && fwE f != 0 then 2 ^ (fwE f + fwM f) else 0), 0, false)
    else if neg && fwS f == 0 then (0, flagNV, false)
    else
      let b := fwBias f
      let top := e + bitLen m - 1
      let q : Int := if fwE f = 0 then -b else max (top - fwM f) (1 - b - fwM f)
      let loOdd (n : Nat) : Bool := if fwE f ≠ 0 ∧ fwM f = 0 then (if n = 0 then false else (q + b) % 2 == 1) else n % 2 == 1
      let (n, inexact) := fwRoundAt (fwRnd f) seed i m e q loOdd
      -- compare n × 2^q with the largest finite magnitude
      let low := min q mq
      if mx * 2 ^ (mq - low).toNat < n * 2 ^ (q - low).toNat then
        let toMax := fwRnd f == 1 || sp != 0
        ((if toMax then maxCode neg else (if neg then 2 ^ (fwE f + fwM f) else 0) + (2 ^ fwE f - 1) * 2 ^ fwM f), flagOF ||| flagNX, false)
      else
        let sub := fwE f != 0 && decide (n < 2 ^ fwM f)
        let flushed := sub && !fwSub f
        let n' := if flushed then 0 else n
        let ne := inexact || (flushed && decide (n ≠ 0))
        let small := n' == 0 || (fwE f != 0 && decide (n' < 2 ^ fwM f))
        let fl := flagIf ne flagNX ||| flagIf (ne && small) flagUF
        let code := if n' = 0 ∧ fwE f = 0 then 0 else fwCode f neg n' q
        (code, fl, n' == 0)

/-! ### Scales -/

/-- The preset e4m3 (Table 5.5). -/
def presetE4m3 : Nat := 0x0005075C

/-- The value of a scale code in a scale format: 0 e8m0, 1 e4m3, 2 f16 (R120, R131). -/
def scaleVal (sf c : Nat) : FVal :=
  match sf with
  | 0 => if c % 256 = 255 then .nan false else .fin false 1 ((c % 256 : Nat) - 127 : Int)
  | 1 => fwDecode presetE4m3 (c % 256)
  | _ => f16.decode (c % 65536)

/-- The code of 2^s in a scale format (R132). -/
def scaleCode (sf : Nat) (s : Int) : Nat :=
  match sf with
  | 0 => (s + 127).toNat
  | 1 => (s + 7).toNat * 8
  | _ => (s + 15).toNat * 1024

/-- The NaN code of a scale format (R132). -/
def scaleNan (sf : Nat) : Nat :=
  match sf with
  | 0 => 0xFF
  | 1 => 0x7F
  | _ => 0x7E00

/-- The range of scale exponents of a scale format (R132). -/
def scaleRange (sf : Nat) : Int × Int :=
  match sf with
  | 0 => (-127, 127)
  | 1 => (-6, 6)
  | _ => (-14, 14)

end Sys2Proof.Machine
end

