-- ==== Sys2Proof/Machine/Convert.lean ====
section
/-! DEFINITION. Conversion instructions (R125 to R133). -/

namespace Sys2Proof.Machine

/-- A standard format by its type code. -/
def ftypeFmt (t : FType) : Fmt :=
  match t with
  | .f32 => f32
  | .f16 => f16
  | .bf16 => bf16

/-- A source element of a float type from a word: all of it, or a half. -/
def ftypeGet (t : FType) (hi : Bool) (x : Nat) : Nat := if t = .f32 then x else halfOf x (if hi then 1 else 0)

/-- A result of a float type put into a word, the other half kept. -/
def ftypePut (t : FType) (hi : Bool) (old y : Nat) : Nat :=
  if t = .f32 then y else if hi then y * 65536 + old % 65536 else old / 65536 * 65536 + y

/-- fcvt on a lane (R127): no flush, one rounding, canonical NaN, NV for a signalling NaN. -/
def fcvtOf (dty sty : FType) (shalf dhalf : Bool) (rnd : Rm5) (a d : Nat) : Nat × FFlags :=
  let x := (ftypeFmt sty).decode (ftypeGet sty shalf a)
  let (y, fl) := (ftypeFmt dty).encode rnd false x
  (ftypePut dty dhalf d y, fl ||| flagIf x.isSig flagNV)

/-- fcvt (R127). -/
def execFcvt (h : Hdr) (d a : Vr) (dty sty : FType) (shalf dhalf : Bool) (rnd : Rm5) (s : State) : Out :=
  .next (s.lanewiseF (.fcvt h d a dty sty shalf dhalf rnd) 0 d (if dty = .f32 then [a] else [a, d])
    (fun _ l => toW (fcvtOf dty sty shalf dhalf rnd (l.getD 0 0).toNat (l.getD 1 0).toNat)))

/-- Width and signedness of an integer type (Table 5.2). -/
def itypeBits (t : IType) : Nat × Bool :=
  match t with
  | .s8 => (8, true)
  | .n8 => (8, false)
  | .s16 => (16, true)
  | .n16 => (16, false)
  | .s32 => (32, true)
  | .n32 => (32, false)

/-- The range of an integer type. -/
def itypeRange (t : IType) : Int × Int :=
  let (n, sg) := itypeBits t
  if sg then (-(2 ^ (n - 1)), 2 ^ (n - 1) - 1) else (0, 2 ^ n - 1)

/-- fcvti on a lane (R128). -/
def fcvtiOf (it : IType) (ft : FType) (rnd : Rm) (a : Nat) : Nat × FFlags :=
  match (ftypeFmt ft).decode (ftypeGet ft false a) with
  | .nan _ => (0, flagNV)
  | .inf neg => let (lo, hi) := itypeRange it; (truncInt (if neg then lo else hi) 32, flagNV)
  | .fin neg m e =>
    let (n, inexact) := intMag (rmTo5 rnd) neg m e
    let q : Int := if neg then -(n : Int) else n
    let (lo, hi) := itypeRange it
    if q < lo then (truncInt lo 32, flagNV)
    else if hi < q then (truncInt hi 32, flagNV)
    else (truncInt q 32, flagIf inexact flagNX)

/-- fcvti (R128). -/
def execFcvti (h : Hdr) (d a : Vr) (it : IType) (ft : FType) (rnd : Rm) (s : State) : Out :=
  .next (s.lanewiseF (.fcvti h d a it ft rnd) 0 d [a] (fop1 fun _ => fcvtiOf it ft rnd))

/-- icvtf on a lane (R128). -/
def icvtfOf (it : IType) (ft : FType) (rnd : Rm) (a : Nat) : Nat × FFlags :=
  let (n, sg) := itypeBits it
  let q : Int := if sg then sextInt a n else (fld a 0 n : Int)
  if q = 0 then (0, 0) else (ftypeFmt ft).round (rmTo5 rnd) false (decide (q < 0)) q.natAbs 0 false

/-- icvtf (R128). -/
def execIcvtf (h : Hdr) (d a : Vr) (it : IType) (ft : FType) (rnd : Rm) (s : State) : Out :=
  .next (s.lanewiseF (.icvtf h d a it ft rnd) 0 d [a] (fop1 fun _ => icvtfOf it ft rnd))

/-- The index of a thread in its group: twins follow every leader thread (R20). -/
def State.lidx (s : State) (w : Warp) (l : Nat) : Nat :=
  (w.widx + (if w.twin then (s.gridAt (s.groupAt w.grp).grid).ds.warps else 0)) * 32 + l

/-- The logical thread index of a lane: group index × group size + thread index (R20); a handler lane has its origin's (R387). -/
def State.threadIdx (s : State) (l : Nat) : Nat :=
  let (w, l) := match SMap.find s.w.origins l with
    | some o => (s.warpAt o.warp, o.lane)
    | none => (s.w, l)
  let g := s.groupAt w.grp
  let d := (s.gridAt g.grid).ds
  g.gidx * (32 * d.warps * (if d.paired then 2 else 1)) + s.lidx w l

/-- The lanes whose format word is faulty, with the lowest detail of each (R115). -/
def fwBad (plane : Bool) (act : Word) (f : Nat → Word) : List (Nat × Nat) :=
  (lanesOf act).filterMap fun l => (fwFault plane (f l).toNat).map fun d => (l, d)

/-- The format-word fault of an instruction: every active lane stops, and MASK holds them all (R383); a faulting lane's record carries its own detail,
that of a lane with a sound word the lowest of them (R115, Table 19.1, log 16). -/
def State.formatFault (s : State) (i : Instr) (bad : List (Nat × Nat)) : State :=
  let low := bad.foldl (fun d b => min d b.2) 255
  s.takeTrap 0x05 s.w.active s.w.active (fun l => ((bad.find? fun b => b.1 == l).map (·.2)).getD low) (fun _ => 0) 0 s.w.runPc (s.nextPc i)

/-- The container positions one element list fills (R129, R130): `pos` chooses the group of 8 when containers are single bits. -/
def contPos (f pos j : Nat) : Nat := if fwCw f = 1 then 8 * pos + j else j

/-- fpack on a lane (R129): the register, the flags, the elements counted as underflows. -/
def fpackOf (f pos seed thread d : Nat) (a : Nat → Nat) : Nat × FFlags × Nat :=
  let cw := fwCw f
  (List.range (fwCount f)).foldl (fun (acc : Nat × FFlags × Nat) j =>
    let p := contPos f pos j
    let (c, fl, u) := fwConvert f seed (thread * 32 + p) (f32.decode (a j))
    let clr := acc.1 - fld acc.1 (cw * p) cw * 2 ^ (cw * p)
    (clr + c % 2 ^ cw * 2 ^ (cw * p), acc.2.1 ||| fl, acc.2.2 + (if u then 1 else 0))) (if cw = 1 then d else 0, 0, 0)

/-- fpack (R129): format words, then pos, then the register run, then every lane. What it has popped stays popped only where the whole instruction completes (R245).
DESIGN CHOICE (log 78): a destination in a bound window is met before the format words, as the checks of fpack, funpk and fsca have no order in the spec;
the bits it leaves alone (cw = 1) are those that d reads at issue. -/
def execFpack (h : Hdr) (d a b : Vr) (pos : BitVec 2) (kseed : Kr) (s : State) : Out :=
  let i := Instr.fpack h d a b pos kseed
  .next (if s.w.isWindow d.toNat then s.illegalOperand i 0x05
    else s.withSrcs i [b.toNat] fun fs _ =>
      let fw (l : Nat) : Word := (fs.getD 0 fun _ => 0) l
      let bad := fwBad true s.w.active fw
      let act := lanesOf s.w.active
      let n := act.foldl (fun k l => max k (fwCount (fw l).toNat)) 0
      if !bad.isEmpty then s.formatFault i bad
      else if pos ≠ 0 ∧ act.all (fun l => fwCw (fw l).toNat != 1) then s.trapAll i 0x01 0x03 0
      else if 63 < a.toNat + n - 1 then s.illegalOperand i 0x02
      else s.withSrcs i (b.toNat :: (List.range n).map fun j => a.toNat + j) fun vals s' =>
        let out (l : Nat) := fpackOf (fw l).toNat pos.toNat (s.w.rdK kseed.toNat).toNat (s.threadIdx l) (s.w.rdV d.toNat l).toNat
          fun j => ((vals.getD (j + 1) fun _ => 0) l).toNat
        let s' := s'.modW fun w =>
          let w := w.raise fun l => (out l).2.1
          let w := { w with ucount := act.foldl (fun m l => SMap.put m l (BitVec.ofNat 16 (min 0xFFFF ((SMap.get 0 m l).toNat + (out l).2.2)))) w.ucount }
          w.push 4 (RegWrite.ofV d.toNat w.active fun l => BitVec.ofNat 32 (out l).1)
        s'.retire i)

/-- One element of funpk (R130): decode × X rounded once into f32. -/
def funpkOf (f c : Nat) (x : Option FVal) : Nat × FFlags :=
  let v := fwDecode f c
  match x with
  | none => f32.encode .rne false v
  | some x =>
    if x.isNan then (f32.nan, flagNV)
    else
      let (p, inv) := v.mul x
      let (r, fl) := f32.encode .rne false p
      (r, fl ||| flagIf inv flagNV)

/-- funpk (R130): format words, then the register run, then every lane; a lane with fewer elements leaves the later registers.
DESIGN CHOICE (log 78): a destination in a bound window is met after the register run, which says where the destinations are. -/
def execFunpk (h : Hdr) (d a b : Vr) (pos : BitVec 2) (c : Vr) (sc : Bool) (s : State) : Out :=
  let i := Instr.funpk h d a b pos c sc
  .next (s.withSrcs i ([b.toNat] ++ (if sc then [c.toNat] else []) ++ [a.toNat]) fun vals s' =>
    let fw (l : Nat) : Nat := ((vals.getD 0 fun _ => 0) l).toNat
    let cv (l : Nat) : Nat := ((vals.getD 1 fun _ => 0) l).toNat
    let av (l : Nat) : Nat := ((vals.getD (if sc then 2 else 1) fun _ => 0) l).toNat
    let bad := fwBad true s.w.active fun l => (vals.getD 0 fun _ => 0) l
    let act := lanesOf s.w.active
    let n := act.foldl (fun k l => max k (fwCount (fw l))) 0
    if !bad.isEmpty then s.formatFault i bad
    else if 63 < d.toNat + n - 1 then s.illegalOperand i 0x02
    else if (List.range n).any (fun j => s.w.isWindow (d.toNat + j)) then s.illegalOperand i 0x05
    else
      let out (j l : Nat) : Nat × FFlags :=
        let p := contPos (fw l) pos.toNat j
        funpkOf (fw l) (fld (av l) (fwCw (fw l) * p) (fwCw (fw l))) (if sc then some (scaleVal (fwSc (fw l)) (cv l)) else none)
      let res := (List.range n).map fun j =>
        RegWrite.ofV (d.toNat + j) (maskOf (act.filter fun l => decide (j < fwCount (fw l)))) fun l => BitVec.ofNat 32 (out j l).1
      let s' := s'.modW fun w =>
        (w.raise fun l => (List.range (fwCount (fw l))).foldl (fun fl j => fl ||| (out j l).2) 0).pushAll 4 res
      s'.retire i)

/-- fscl on a lane (R131): a × X as fmul does it, X exact and never flushed. -/
def fsclOf (sf : ScaleFmt) (c : BitVec 4) (a b : Nat) : Nat × FFlags :=
  let x := scaleVal sf.code b
  let (v, fv) := f32.input (fpcDaz c) a
  let (r, fr) := f32.mulV c v x
  (r, fv ||| fr ||| flagIf x.isNan flagNV)

/-- fscl (R131). -/
def execFscl (h : Hdr) (d a b : Vr) (sf : ScaleFmt) (s : State) : Out :=
  .next (s.lanewiseF (.fscl h d a b sf) 0 d [a, b] (fop2 (fsclOf sf)))

/-- floor(log2) of m × 2^e. -/
def flog2 (m : Nat) (e : Int) : Int := e + bitLen m - 1

/-- fsca on a lane (R132): both scale codes, and the flags. -/
def fscaOf (f a b : Nat) : Nat × FFlags :=
  let sf := fwSc f
  let (smin, smax) := scaleRange sf
  let pair (s : Int) : Nat := scaleCode sf (-s) * 65536 + scaleCode sf s
  match f32.decode a with
  | .nan _ => (scaleNan sf * 65536 + scaleNan sf, flagNV)
  | .inf _ => (pair smax, 0)
  | .fin _ m e =>
    if m = 0 then (pair 0, 0)
    else
      let (mx, mq) := fwMax f
      let s := flog2 m e - flog2 mx mq
      let s := if fwBlk f ≠ 0 ∧ fwSpec f = 2 ∧ fwBlock f ≤ 4 * b then s - 1 else s
      (pair (min (max s smin) smax), 0)

/-- fsca (R132). DESIGN CHOICE (log 78): a destination in a bound window is met before the format words. -/
def execFsca (h : Hdr) (d a b c : Vr) (s : State) : Out :=
  let i := Instr.fsca h d a b c
  .next (if s.w.isWindow d.toNat then s.illegalOperand i 0x05
    else s.withSrcs i [c.toNat, a.toNat, b.toNat] fun vals s' =>
      let bad := fwBad true s.w.active fun l => (vals.getD 0 fun _ => 0) l
      let get (j l : Nat) : Nat := ((vals.getD j fun _ => 0) l).toNat
      if !bad.isEmpty then s.formatFault i bad
      else
        let out (l : Nat) := fscaOf (get 0 l) (get 1 l) (get 2 l)
        (s'.modW fun w => (w.raise fun l => (out l).2).push 4 (RegWrite.ofV d.toNat w.active fun l => BitVec.ofNat 32 (out l).1)).retire i)

/-- fzct (R126, R133): the underflow count, cleared unless peeked. -/
def execFzct (h : Hdr) (d : Vr) (peek : Bool) (s : State) : Out :=
  let i := Instr.fzct h d peek
  .next (if s.w.isWindow d.toNat then s.illegalOperand i 0x05
    else (s.modW fun w =>
      let w' := w.push 4 (RegWrite.ofV d.toNat w.active fun l => (SMap.get 0 w.ucount l).zeroExtend 32)
      if peek then w' else { w' with ucount := (lanesOf w.active).foldl (fun m l => SMap.put m l 0) w.ucount }).retire i)

end Sys2Proof.Machine
end

