-- ==== Sys2Proof/Machine/Fragment.lean ====
section
/-! DEFINITION. Matrix arithmetic: fragments, scales, the sum order, the semirings and lookup tables (R158, R159, R164, R168, R175, R177). -/

namespace Sys2Proof.Machine

/-! ### Fragments (R158) -/

/-- Words of one row of an operand (Table 7.1). -/
def matW (ty : MatType) : Nat := if ty = .f32 ∨ ty = .s32 then 4 else 8

/-- Container bits of a type (Table 7.1); a narrow type takes them from its format word. -/
def matCw (ty : MatType) (fw : Nat) : Nat :=
  match ty with
  | .f32 => 32
  | .s32 => 32
  | .f16 => 16
  | .bf16 => 16
  | .fmt => fwCw fw

/-- The containers of a word, lowest first. -/
def containers (cw x : Nat) : List Nat := (List.range (32 / cw)).map fun j => fld x (cw * j) cw

/-- The containers of row (or column) `m` of a fragment held in registers `regs` (each a list of 32 lane values), `w` words to a row. -/
def fragRow (regs : List (List Word)) (w cw m : Nat) : List Nat :=
  (List.range w).flatMap fun j => containers cw ((regs.getD (m / 32 * w + j) []).getD (m % 32) 0).toNat

/-- The value of an element of a type; a 32-bit integer is its exact value. -/
def matValue (ty : MatType) (fw c : Nat) : FVal :=
  match ty with
  | .f32 => f32.decode c
  | .f16 => f16.decode c
  | .bf16 => bf16.decode c
  | .fmt => fwDecode fw c
  | .s32 => .fin (decide (sextInt c 32 < 0)) (sextInt c 32).natAbs 0

/-- The scale of row (or column) `m` (R159): a byte, or a half-word for an f16 scale, of lane m mod 32. -/
def scaleOf (fw : Nat) (lanes : List Word) (m : Nat) : FVal :=
  let x := (lanes.getD (m % 32) 0).toNat
  scaleVal (fwSc fw) (if fwSc fw = 2 then fld x (16 * (m / 32)) 16 else fld x (8 * (m / 32)) 8)

/-- The values of a row with its scale, if its format uses blocks. -/
def rowVals (ty : MatType) (fw : Nat) (regs : List (List Word)) (scales : List Word) (m : Nat) : List FVal :=
  let vs := (fragRow regs (matW ty) (matCw ty fw) m).map (matValue ty fw)
  if ty = .fmt ∧ fwBlk fw ≠ 0 then
    let x := scaleOf fw scales m
    vs.map fun v => (v.mul x).1
  else vs

/-! ### The sum order (R164) -/

/-- floor(log2 |x|) of a finite value that is not zero. -/
def FVal.top? : FVal → Option Int
  | .fin _ m e => if m = 0 then none else some (e + bitLen m - 1)
  | _ => none

/-- A finite term truncated toward zero to a multiple of 2^q, and whether that lost something. -/
def FVal.trunc (q : Int) : FVal → Int × Bool
  | .fin neg m e =>
    let sg : Int := if neg then -1 else 1
    if q ≤ e then (sg * (m * 2 ^ (e - q).toNat : Nat), false)
    else
      let k := (q - e).toNat
      (sg * (m / 2 ^ k : Nat), decide (m % 2 ^ k ≠ 0))
  | _ => (0, false)

/-- chunk_sum (R164): the terms are the starting value and the products; a product of infinity and zero is already a NaN. -/
def chunkSum (terms : List FVal) : Nat × FFlags :=
  if terms.any FVal.isNan || (terms.any (FVal.isInf false) && terms.any (FVal.isInf true)) then (f32.nan, flagNV)
  else if terms.any (FVal.isInf false) then (f32.inf false, 0)
  else if terms.any (FVal.isInf true) then (f32.inf true, 0)
  else match terms.filterMap FVal.top? with
    | [] => (f32.signBit (terms.all FVal.isNeg), 0)
    | t :: ts =>
      let q := ts.foldl max t - 72
      let parts := terms.map (FVal.trunc q)
      let sum : Int := (parts.map (·.1)).sum
      let sticky := parts.any (·.2)
      if sum = 0 then (0, flagIf sticky flagNX)
      else f32.round .rne false (decide (sum < 0)) sum.natAbs q sticky

/-! ### One cell of a chunk (R164, R168, Table 7.4) -/

/-- The identity a mode starts from with z = 1 (R167). -/
def semiIdentity (sr : Semiring) (ty : MatType) : Word :=
  match sr with
  | .plusTimes => 0
  | .minPlus => if ty = .s32 then 0x7FFFFFFF else 0x7F800000
  | .maxTimes => 0xFF800000
  | .orAnd => 0

/-- A product of two scaled elements as a term: an invalid product is a NaN. -/
def termOf (a b : FVal) : FVal := (a.mul b).1

/-- A term of min-plus on floats: one rounding. -/
def minPlusTerm (a b : FVal) : Nat × FFlags :=
  let (r, fl) := f32.sum .rne false [a, b]
  (r, fl ||| flagIf (a.isSig || b.isSig) flagNV)

/-- A term of max-times: one rounding. -/
def maxTimesTerm (a b : FVal) : Nat × FFlags := f32.mulV 0 a b

/-- Saturation to the s32 range. -/
def sat32 (x : Int) : Int := max (-(2 ^ 31)) (min x (2 ^ 31 - 1))

/-- The new value of a cell from its start, a row of A and a column of B. DEDUCED (log 82): or-and reads a start as set when its word is not zero, so the word of −0 counts as set. -/
def cellOf (sr : Semiring) (ty : MatType) (start : Word) (row col : List FVal) : Word × FFlags :=
  let best (mx : Bool) (f : FVal → FVal → Nat × FFlags) : Word × FFlags :=
    let r := (row.zip col).foldl (fun (acc : Nat × FFlags) p =>
      let (t, fl) := f p.1 p.2
      let (m, fm) := f32.minMax false mx acc.1 t
      (m, acc.2 ||| fl ||| fm)) (start.toNat, 0)
    (BitVec.ofNat 32 r.1, r.2)
  match sr with
  | .plusTimes =>
    let (r, fl) := chunkSum (f32.decode start.toNat :: (row.zipWith termOf col))
    let sig := (f32.decode start.toNat).isSig || row.any FVal.isSig || col.any FVal.isSig
    (BitVec.ofNat 32 r, fl ||| flagIf sig flagNV)
  | .minPlus =>
    if ty = .s32 then
      let r := (row.zip col).foldl (fun (m : Int) p => min m (sat32 (p.1.scaled 0 + p.2.scaled 0))) start.toInt
      (BitVec.ofInt 32 r, 0)
    else best false minPlusTerm
  | .maxTimes => best true maxTimesTerm
  | .orAnd =>
    let one (v : FVal) : Bool := (v.expo?).isSome
    ((if start ≠ 0 ∨ (row.zip col).any (fun p => one p.1 && one p.2) then 1 else 0), 0)

/-! ### Tiles -/

/-- The words of an accumulator tile, row by row; an absent tile holds zeros (R361). -/
def Core.tile (c : Core) (t : Nat) : List Word := (SMap.find c.acc t).getD (List.replicate 4096 0)

/-- Replace a tile. -/
def Core.setTile (c : Core) (t : Nat) (x : List Word) : Core := { c with acc := SMap.put c.acc t x }

/-- Every cell of a tile after one chunk: `cell m n start` gives the new value and flags. -/
def tileMap (x : List Word) (cell : Nat → Nat → Word → Word × FFlags) : List Word × FFlags :=
  let out := (List.range 4096).zip x |>.map fun e => cell (e.1 / 64) (e.1 % 64) e.2
  (out.map (·.1), out.foldl (fun a r => a ||| r.2) 0)

/-- One chunk of mma on a tile (R167). -/
def mmaTile (sr : Semiring) (ty : MatType) (ident : Bool) (x : List Word) (rows cols : List (List FVal)) : List Word × FFlags :=
  tileMap x fun m n start => cellOf sr ty (if ident then semiIdentity sr ty else start) (rows.getD m []) (cols.getD n [])

/-! ### Lookup tables (R175 to R177) -/

/-- One table entry from four activations (R175). -/
def tableEntry (pm : Bool) (xs : List FVal) (idx : Nat) : Nat × FFlags :=
  let terms := ((List.range 4).zip xs).filterMap fun e =>
    if bitAt idx e.1 then some e.2 else if pm then some e.2.negate else none
  if terms.any FVal.isNan then (f32.nan, flagNV)
  else if terms.isEmpty then (0, 0)
  else f32.sum .rne false terms

/-- The index a weight plane gives group `g` of column `n` (R177). -/
def planeIdx (plane : List (List Word)) (n g : Nat) : Nat :=
  fld ((plane.getD (n / 32 * 4 + g / 8) []).getD (n % 32) 0).toNat (4 * (g % 8)) 4

/-- A value times the coefficient (−1)^neg × 2^e. -/
def FVal.coef (neg : Bool) (e : Nat) : FVal → FVal
  | .inf n => .inf (n ^^ neg)
  | .fin n m x => .fin (n ^^ neg) m (x + e)
  | v => v

/-- mlut on a tile (R177): `tab g m idx` is the table entry. -/
def mlutTile (z neg : Bool) (e : Nat) (x : List Word) (tab : Nat → Nat → Nat → Nat) (plane : List (List Word)) : List Word × FFlags :=
  tileMap x fun m n start =>
    let entries := (List.range 32).map fun g => f32.decode (tab g m (planeIdx plane n g))
    let c := if z then FVal.fin false 0 0 else f32.decode start.toNat
    let (r, fl) := chunkSum (c :: entries.map (FVal.coef neg e))
    (BitVec.ofNat 32 r, fl ||| flagIf (c.isSig || entries.any FVal.isSig) flagNV)

end Sys2Proof.Machine
end

