-- ==== Sys2Proof/Machine/Matrix.lean ====
section
/-! DEFINITION. The matrix instructions (R153 to R181): issue, pairing, chunks, accumulators, drains, lookup tables. -/

namespace Sys2Proof.Machine

/-! ### The operations of a core -/

/-- The operations of a core in the order in which it issued them, but for those that are done and those that a fault has stopped (R179). -/
def Core.matLive (c : Core) : List MatOp := c.matq.filter fun o => !o.done && !o.stopped

/-- The core's operation in work: a paired one that has started, else the first of the order if it has (R153, R179). -/
def Core.matHead (c : Core) : Option MatOp :=
  (c.matLive.find? fun o => o.started && o.partner.isSome) <|> c.matLive.head?.filter fun o => o.started

/-- Whether a matrix instruction of the core must wait for an earlier one: a half of a paired operation has its place from its issue on (R153, R179). -/
def State.matBusy (s : State) : Bool := !(s.coreAt s.w.core).matLive.isEmpty

/-- The twin of a warp (R154). -/
def State.twinOf (s : State) (h : Nat) : Option Nat :=
  let w := s.warpAt h
  (s.warps.find? fun e => e.2.grp == w.grp && e.2.widx == w.widx && e.2.twin != w.twin && e.2.kind == w.kind).map Prod.fst

/-- The operation at which a warp is held. -/
def State.heldOp (s : State) (h : Nat) : Option MatOp := (s.coreAt (s.warpAt h).core).matq.find? fun o => o.warp == h && o.held && !o.stopped

/-- The stopped operation that an instruction of the present strand goes on with (R169). -/
def State.stoppedOp (s : State) (i : Instr) : Option MatOp :=
  (s.coreAt s.w.core).matq.find? fun o => o.warp == s.cur && o.stopped && o.instr == i && o.pc == s.w.runPc && o.act &&& s.w.active != 0

/-- Change the operations of a core. -/
def State.modOps (s : State) (core : Nat) (f : List MatOp → List MatOp) : State := s.modCore core fun c => { c with matq := f c.matq }

/-- Change an operation where it stands in its core's order. -/
def State.modOp (s : State) (o : MatOp) (f : MatOp → MatOp) : State :=
  s.modOps (s.warpAt o.warp).core fun l => l.map fun x => if x.warp == o.warp && x.seq == o.seq then f x else x

/-- Forget an operation. -/
def State.dropOp (s : State) (o : MatOp) : State := s.modOps (s.warpAt o.warp).core fun l => l.filter fun x => !(x.warp == o.warp && x.seq == o.seq)

/-- Forget an operation whose instruction traps: it counts no more. -/
def State.cancelOp (s : State) (o : MatOp) : State := (s.dropOp o).modWarp o.warp fun w => w.uncount o.seq

/-- A thread stopped at an operation of its warp does not return to it; without one that does, the operation is forgotten and the resume chunk is 0 (R169, Table 7.5). -/
def State.shedLane (s : State) (h lane : Nat) (pc : DWord) : State :=
  let c := (s.warpAt h).core
  let s := s.modOps c fun l => (l.map fun o => if o.warp == h && o.stopped && o.pc == pc then { o with act := o.act &&& ~~~(1#32 <<< lane) } else o).filter fun o =>
    !(o.warp == h && o.stopped && o.act == 0)
  if (s.coreAt c).matq.any fun o => o.warp == h && o.stopped then s else s.modWarp h fun w => { w with resumeChunk := 0 }

/-- The lanes of a v register as they stand (R160). -/
def Warp.latch (w : Warp) (r n : Nat) : List (List Word) := (List.range n).map fun j => lanes.map fun l => w.rdV (r + j) l

/-! ### The vote (R161) and the checks of Table 7.2 -/

/-- The lanes whose word differs from that of the lowest active lane. -/
def Warp.dissent (w : Warp) (r : Nat) : Word :=
  maskOf ((lanesOf w.active).filter fun l => w.rdV r l != w.rdV r (lowLane w.active))

/-- A format divergence trap: the record carries the lanes that differ, and which word (R161). -/
def State.divergence (s : State) (i : Instr) (mask : Word) (word : Nat) : State :=
  s.takeTrap 0x06 s.w.active mask (fun _ => word) (fun _ => 0) 0 s.w.runPc (s.nextPc i)

/-- Rows 7 and 8 of Table 7.2: the vote on `n` format words from register `r`, then their legality; `k` goes on with the agreed words. -/
def State.vote (s : State) (i : Instr) (plane : Bool) (r n : Nat) (k : List Nat → State) : State :=
  match (List.range n).find? fun j => s.w.dissent (r + j) != 0 with
  | some j => s.divergence i (s.w.dissent (r + j)) (j + 1)
  | none =>
    let ws := (List.range n).map fun j => (s.w.rdV (r + j) (lowLane s.w.active)).toNat
    match (ws.filterMap (fwFault plane)) with
    | d :: ds => s.formatFault i ((lanesOf s.w.active).map fun l => (l, ds.foldl min d))
    | [] => k ws

/-- Rows 2 to 4 of Table 7.2: registers past v63, the tile, and bound windows; `regs` are the registers read or written, `pops` the windows popped. -/
def State.matRegs (s : State) (i : Instr) (regs pops : List Nat) (tile : Option Tile) (k : State) : State :=
  if regs.any fun r => decide (63 < r) then s.illegalOperand i 0x02
  else if (match tile with | some t => decide (s.grid.ds.acc ≤ t.toNat) | none => false) then s.illegalOperand i 0x03
  else if regs.any s.w.isWindow || pops.any fun r => !s.w.isWindow r then s.illegalOperand i 0x05
  else k

/-- The K of one chunk of a narrow format's container width (Table 7.1). -/
def chunkK (fw : Nat) : Nat := 256 / fwCw fw

/-- R162 for the agreed words: containers, bit planes, blocks, and scales from windows when n > 1. -/
def formatsAgree (sr : Semiring) (fa fb : Nat) (n : Nat) (window : Bool → Bool) : Bool :=
  let blk (f : Nat) : Bool := fwBlk f == 0 || (sr == .plusTimes && fwBlock f == chunkK f)
  fwCw fa == fwCw fb && isPlane fa == (sr == .orAnd) && isPlane fb == (sr == .orAnd) && blk fa && blk fb &&
  (n == 1 || ((fwBlk fa == 0 || window false) && (fwBlk fb == 0 || window true)))

/-! ### Issuing an operation -/

/-- Whether the twin of the current warp has ended (R157). -/
def State.twinEnded (s : State) : Bool := match s.twinOf s.cur with
  | some t => (s.warpAt t).ended
  | none => true

/-- An operation enters its core's order, and its instruction counts (R61, R156). One that no fault can stop runs on by itself; any other keeps its word at issue until it is done,
and a half of a paired one waits for its partner without a slot, parked in a domain (R156, R167, R181). -/
def State.matIssue (s : State) (i : Instr) (o : MatOp) : State :=
  if s.w.bound && s.twinEnded then s.trapAll i 0x07 0x02 0
  else
  let s := (s.modOps s.w.core (· ++ [o])).modW fun w =>
    { w.count i.counter [] false [] with pairSeq := if o.partner.isSome then w.pairSeq + 1 else w.pairSeq }
  if !o.held then s.retire i
  else if o.partner.isNone then s.hold
  else
    let s := if s.collated then s.modW fun w => { w with park := some ⟨.pair false, w.lclk, false⟩ } else s
    s.holdFree

/-- The present strand issues the instruction of an operation again that a fault has stopped (R169): it counts again, stands last in the order, and goes on from its chunk with what it has latched. -/
def State.resumeOp (s : State) (i : Instr) (o : MatOp) : State :=
  let o' := { o with stopped := false, started := o.partner.isNone, seq := s.w.seqNo }
  let s := ((s.dropOp o).modOps s.w.core (· ++ [o'])).modW fun w => { w.count i.counter [] false [] with resumeChunk := 0 }
  match o.partner with
  | none => s.hold
  | some p => (s.modWarp p fun w => { w with resumeChunk := 0 }).holdFree

/-- An instruction that runs as an operation: the word that is held at it goes on waiting, and retires once it is done; one that a fault has stopped is resumed (R169). -/
def State.matStep (s : State) (i : Instr) (fresh : State → State) : State :=
  match s.heldOp s.cur with
  | some o =>
    if o.done then (s.dropOp o).retire i
    else if !o.started && o.partner.isSome then s.holdFree
    else s.hold
  | none => match s.stoppedOp i with
    | some o => s.resumeOp i o
    | none => fresh s

/-- mma (R153 to R169): the checks of Table 7.2, the latched operands, and the operation. -/
def execMma (h : Hdr) (a b : Vr) (t : Tile) (sr : Semiring) (qa qb : Bool) (fw sc : Vr) (ty : MatType) (z : Bool) (n : BitVec 4) (dc : Dc) (s : State) : Out :=
  let i := Instr.mma h a b t sr qa qb fw sc ty z n dc
  .next (s.matStep i fun s =>
    let w := s.w
    let supply := w.bound && w.twin
    let m := 2 * matW ty
    let run (r : Vr) : List Nat := (List.range m).map (r.toNat + ·)
    let fmt := ty == .fmt
    let regs := (if qa || supply then [] else run a) ++ (if qb then [] else run b) ++ (if fmt then [fw.toNat, fw.toNat + 1] else [])
    let pops := (if qa then [a.toNat] else []) ++ (if qb then [b.toNat] else [])
    if fmt ∧ sc = 63 then s.illegalOperand i 0x02
    else s.matRegs i regs pops (some t) (
      let window (isB : Bool) : Bool := w.isWindow (sc.toNat + (if isB then 1 else 0))
      let go (ws : List Nat) : State :=
        let fa := ws.getD 0 0
        let fb := ws.getD 1 0
        if fmt && !formatsAgree sr fa fb (n.toNat + 1) window then s.illegalOperand i 0x04
        else
          let blkA := fmt && fwBlk fa != 0 && !supply
          let blkB := fmt && fwBlk fb != 0
          let held := w.bound || qa || qb || (blkA && window false) || (blkB && window true)
          s.matIssue i
            { warp := s.cur, seq := w.seqNo, instr := i, pc := w.runPc, num := w.pairSeq, partner := if w.bound then s.twinOf s.cur else none
              started := !w.bound, stopped := false, held := held, done := false, chunk := 0, act := w.active, fwA := fa, fwB := fb, table := 0
              a := if qa || supply then [] else w.latch a.toNat m
              b := if qb then [] else w.latch b.toNat m
              sa := if blkA && !window false then lanes.map (w.rdV sc.toNat) else []
              sb := if blkB && !window true then lanes.map (w.rdV (sc.toNat + 1)) else []
              axf := 0 }
      if fmt then s.vote i true fw.toNat 2 go else go []))

/-- The 131,072 bytes of a table region (R175). -/
def tableLen : Nat := 131072

/-- mlut (R177, R178): the checks, then an operation of one chunk. -/
def execMlut (h : Hdr) (b : Vr) (kt : Kr) (t : Tile) (fw : Vr) (qb z : Bool) (dc : Dc) (e : BitVec 2) (neg : Bool) (s : State) : Out :=
  let i := Instr.mlut h b kt t fw qb z dc e neg
  .next (s.matStep i fun s =>
    let w := s.w
    let base := (w.rdK kt.toNat).toNat
    let regs := (if qb then [] else (List.range 8).map (b.toNat + ·)) ++ [fw.toNat]
    s.matRegs i regs (if qb then [b.toNat] else []) (some t) (
      if base % 64 ≠ 0 then s.illegalOperand i 0x06
      else s.vote i true fw.toNat 1 fun ws =>
        let f := ws.getD 0 0
        if !isPlane f || fwBlk f != 0 then s.illegalOperand i 0x04
        else s.matIssue i
          { warp := s.cur, seq := w.seqNo, instr := i, pc := w.runPc, num := w.pairSeq, partner := if w.bound then s.twinOf s.cur else none
            started := !w.bound, stopped := false, held := true, done := false, chunk := 0, act := w.active, fwA := f, fwB := f, table := base
            a := [], b := if qb then [] else w.latch b.toNat 8, sa := [], sb := [], axf := 0 }))

/-! ### Pairs -/

/-- What the two halves must agree on (R157): fields first, then the voted words. -/
def pairMismatch (x y : MatOp) : Option Nat :=
  let same := match x.instr, y.instr with
    | .mma _ _ _ t sr _ _ _ _ ty z n _, .mma _ _ _ t' sr' _ _ _ _ ty' z' n' _ => decide (t = t' ∧ sr = sr' ∧ ty = ty' ∧ z = z' ∧ n = n')
    | .mlut _ _ _ t _ _ z _ e neg, .mlut _ _ _ t' _ _ z' _ e' neg' => decide (t = t' ∧ z = z' ∧ e = e' ∧ neg = neg')
    | _, _ => false
  if !same then some 0x01 else if x.fwA ≠ y.fwA ∨ x.fwB ≠ y.fwB then some 0x03 else none

/-- The two warps of a rendezvous leave it with the larger arrival clock (R181, R427); outside a domain no clock changes. -/
def State.leavePair (s : State) (x y : Nat) : State :=
  let clkOf (h : Nat) : Nat := match (s.warpAt h).park with
    | some p => p.clk
    | none => (s.warpAt h).lclk
  let c := max (clkOf x) (clkOf y)
  let out (s : State) (h : Nat) : State :=
    let coll := s.groupColl (s.warpAt h).grp
    let g := (s.gridAt (s.groupAt (s.warpAt h).grp).grid).g
    s.modWarp h fun w => w.unpark coll g (if coll then c else w.lclk)
  out (out s x) y

/-- A pair-mismatch trap in a warp that waits at a paired instruction. -/
def State.mismatchTrap (s : State) (h : Nat) (i : Instr) (detail : Nat) : State := s.withWarp h fun s => s.trapAll i 0x07 detail 0

/-- Whether a half waits for its start, and its partner's half has issued. -/
def State.halfWaits (s : State) (o : MatOp) : Bool :=
  !o.started && (match o.partner.bind s.heldOp with
    | some q => q.partner == some o.warp && q.num == o.num && !q.started && !q.done
    | none => false)

/-- The two halves on a core and its partner that can start: both have issued and both arrays are free (R156). The supply half is the first in its core's order (R179). Before the issuing half
stand only such whose supply half is later in the follower's order (log 82). -/
def State.pairReady (s : State) (core : Nat) : Option (MatOp × MatOp) :=
  let l := (s.coreAt core).matLive
  (l.zipIdx).findSome? fun (e : MatOp × Nat) =>
    let o := e.1
    if (s.warpAt o.warp).twin || !s.halfWaits o || !(l.take e.2).all s.halfWaits then none
    else match o.partner.bind s.heldOp with
      | some q => if (s.coreAt (s.warpAt q.warp).core).matLive.head? == some q then some (o, q) else none
      | none => none

/-- PAIRED_OPERATION_START (R156, R157): both halves have issued and stand first on both cores; they agree and the operation starts on both arrays, or both warps trap. -/
def execPairedOperationStart (core : Nat) (s : State) : Out :=
  .next (match s.pairReady core with
    | none => s
    | some (x, y) =>
      let s := s.leavePair x.warp y.warp
      match pairMismatch x y with
      | some d => (((s.cancelOp x).cancelOp y).mismatchTrap x.warp x.instr d).mismatchTrap y.warp y.instr d
      | none =>
        let start (s : State) (o : MatOp) : State := s.modOp o fun o => { o with started := true }
        start (start s x) y)

/-- mpair (R155): a rendezvous, after the conditions of row 6; the word stays at issue until its twin has come. -/
def State.mpair (s : State) (i : Instr) (rel : Bool) : State :=
  if !s.grid.ds.paired ∨ s.w.bound ≠ rel then s.illegalOperand i 0x07
  else if s.twinEnded then s.trapAll i 0x07 0x02 0
  else
    let s := s.modW fun w => { w with park := some ⟨.pair rel, w.lclk, false⟩ }
    s.holdFree

/-- mpair.bind. -/
def execMpairBind (h : Hdr) (s : State) : Out := .next (s.mpair (.mpairBind h) false)

/-- mpair.rel. -/
def execMpairRel (h : Hdr) (s : State) : Out := .next (s.mpair (.mpairRel h) true)

/-- Whether a warp waits at an mpair of a form. -/
def State.atMpair (s : State) (h : Nat) (rel : Bool) : Bool :=
  let w := s.warpAt h
  (match w.park with
    | some p => p.on == .pair rel
    | none => false) && (s.heldOp h).isNone

/-- MPAIR_RENDEZVOUS (R155, R181): both warps have issued the same form; both become bound or unbound, and their words retire. -/
def execMpairRendezvous (wp : Nat) (s : State) : Out :=
  .next (match s.twinOf wp with
    | none => s
    | some t =>
      let rel := (s.warpAt wp).bound
      if s.atMpair wp rel && s.atMpair t rel then
        let s := s.leavePair wp t
        let go (s : State) (h : Nat) : State := s.withWarp h fun s =>
          match s.w.todo with
          | i :: _ => (s.modW fun w => { w with bound := !rel, pairSeq := 0 }).retire i
          | [] => s
        go (go s wp) t
      else s)

/-! ### Chunks (R167, R169) -/

/-- The windows an operation's half pops for one chunk, in order: for A, for B, for the A scales, for the B scales (R167, R178). -/
def State.chunkPops (s : State) (o : MatOp) : List (List Nat) :=
  let w := s.warpAt o.warp
  match o.instr with
  | .mma _ a b _ _ qa qb _ sc ty _ _ _ =>
    let m := 2 * matW ty
    let lead := !(w.bound && w.twin)
    [if qa && lead then List.replicate m a.toNat else [], if qb then List.replicate m b.toNat else [],
     if lead && ty == .fmt && fwBlk o.fwA != 0 && o.sa.isEmpty then [sc.toNat] else [],
     if ty == .fmt && fwBlk o.fwB != 0 && o.sb.isEmpty then [sc.toNat + 1] else []]
  | .mlut _ b _ _ _ qb _ _ _ _ => [[], if qb then List.replicate 8 b.toNat else [], [], []]
  | _ => [[], [], [], []]

/-- What stops a half before its chunk: a table region past the allocation, or a pop. -/
inductive ChunkStop where
  | region
  | pop (x : PopStop)

/-- The A registers, B registers, A scales and B scales of one chunk of a half. -/
structure Operands where
  a : List (List Word)
  b : List (List Word)
  sa : List Word
  sb : List Word

/-- Whether an operation is a lookup. -/
def MatOp.isLut (o : MatOp) : Bool :=
  match o.instr with
  | .mlut _ _ _ _ _ _ _ _ _ _ => true
  | _ => false

/-- The operands of a half for one chunk, latched or popped, and the entries popped from each queue. -/
def State.chunkRead (s : State) (o : MatOp) : Except ChunkStop (Operands × SMap Nat) :=
  if o.isLut && decide (s.splOf (s.warpAt o.warp).grp < o.table + tableLen) then .error .region
  else
    let ps := s.chunkPops o
    match (s.warpAt o.warp).readRegs ps.flatten [] with
    | .error x => .error (.pop x)
    | .ok (fs, cur) =>
      let vals := fs.map fun f => lanes.map f
      let na := (ps.getD 0 []).length
      let nb := (ps.getD 1 []).length
      let ns := (ps.getD 2 []).length
      .ok ({ a := if na = 0 then o.a else vals.take na
             b := if nb = 0 then o.b else (vals.drop na).take nb
             sa := if ns = 0 then o.sa else vals.getD (na + nb) []
             sb := if (ps.getD 3 []).isEmpty then o.sb else vals.getD (na + nb + ns) [] }, cur)

/-- Whether a half only waits for its slice to fill a queue (R245). -/
def State.chunkWaits (s : State) (o : MatOp) : Bool :=
  match s.chunkRead o with
  | .error (.pop .empty) =>
    let w := s.warpAt o.warp
    w.slice.st == .running || (w.slice.st == .held && w.heldEntry.isNone)
  | _ => false

/-- Whether an instruction is an mma. -/
def isMma : Instr → Bool
  | .mma _ _ _ _ _ _ _ _ _ _ _ _ _ => true
  | _ => false

/-- The operation a core's array works on next, with the follower's half if it is paired; none while it waits for a queue,
and none for an mma whose context is being saved, which stops at the boundary it stands at (R401). -/
def State.chunkHead (s : State) (core : Nat) : Option (MatOp × Option MatOp) :=
  match (s.coreAt core).matHead with
  | none => none
  | some o =>
    if s.chunkWaits o || (isMma o.instr && (s.ctxAt (s.gridAt (s.groupAt (s.warpAt o.warp).grp).grid).ctx).saving) then none
    else match o.partner with
      | none => some (o, none)
      | some p =>
        if (s.warpAt o.warp).twin then none
        else match (s.coreAt (s.warpAt p).core).matHead with
          | some q => if q.warp = p ∧ q.held ∧ !s.chunkWaits q then some (o, some q) else none
          | none => none

/-- A stop of a half before chunk `t` (R169, R178): the warp raises it at its instruction, the operation stops on both arrays, and the partner's half stays pending with its counter held.
DESIGN CHOICE (log 82): the record of a table region past the allocation names the table's base. -/
def State.chunkStop (s : State) (o : MatOp) (x : ChunkStop) : State :=
  let t := o.chunk
  let s := match o.partner.bind s.heldOp with
    | some q => (s.modOp q fun q => { q with started := false }).modWarp q.warp fun w => { w with resumeChunk := t }
    | none => s
  let s := (s.modOp o fun o => { o with started := false, stopped := true }).modWarp o.warp fun w => { w.uncount o.seq with resumeChunk := t }
  s.withWarp o.warp fun s =>
    match x with
    | .region => s.memFaultAll o.instr 0x02 o.table t
    | .pop x => s.popStop o.instr t x

/-- The word of a lookup table in a scratchpad (R175). -/
def tableWord (m : Memory) (base g row idx : Nat) : Nat := ofBytes (m.readN (base + (g * 64 + row) * 64 + idx * 4) 4)

/-- One half's array works one chunk with the issuing half's A: the tile and flags. -/
def State.chunkTile (s : State) (lead o : MatOp) (la lb : Operands) (x : List Word) : List Word × FFlags :=
  match lead.instr with
  | .mma _ _ _ _ sr _ _ _ _ ty z _ _ =>
    let rows := (List.range 64).map (rowVals ty lead.fwA la.a la.sa)
    let cols := (List.range 64).map (rowVals ty lead.fwB lb.b lb.sb)
    mmaTile sr ty (z && lead.chunk == 0) x rows cols
  | .mlut _ _ _ _ _ _ z _ e neg =>
    let w := s.warpAt o.warp
    let pad := (s.groupAt w.grp).side w.twin
    mlutTile z neg e.toNat x (tableWord pad o.table) lb.b
  | _ => (x, 0)

/-- The tile and the number of chunks of an operation. -/
def MatOp.shape (o : MatOp) : Nat × Nat :=
  match o.instr with
  | .mma _ _ _ t _ _ _ _ _ _ _ n _ => (t.toNat, n.toNat + 1)
  | .mlut _ _ _ t _ _ _ _ _ _ => (t.toNat, 1)
  | _ => (0, 0)

/-- A half after a chunk: its tile, its queues, and its place in the operation; done after the last chunk. -/
def State.chunkHalf (s : State) (lead o : MatOp) (la lb : Operands) (cur : SMap Nat) : State × FFlags :=
  let core := (s.warpAt o.warp).core
  let (tile, n) := o.shape
  let (x, fl) := s.chunkTile lead o la lb ((s.coreAt core).tile tile)
  let s := s.modCore core fun c => c.setTile tile x
  let s := if cur.isEmpty then s else s.modWarp o.warp fun w => w.freePops cur
  let done := decide (n ≤ o.chunk + 1)
  let s := s.modOps core fun l => l.map fun q => if q == o then { q with chunk := q.chunk + 1, done := done } else q
  (s, fl)

/-- Flags of an operation, set in the lowest active lane of the issuing strand when it retires (R165). -/
def Warp.matFlags (w : Warp) (act : Word) (fl : FFlags) : Warp := w.wrAxf (lowLane act) (w.rdAxf (lowLane act) ||| fl)

/-- MMA_CHUNK (R164 to R169): the core's operation does its next chunk on every array it uses, or stops before it; after the last, the counters of its halves may be released (R156). -/
def execMmaChunk (core : Nat) (s : State) : Out :=
  .next (match s.chunkHead core with
    | none => s
    | some (o, q) =>
      match s.chunkRead o with
      | .error x => s.chunkStop o x
      | .ok (la, cur) =>
        let finish (s : State) (fl : FFlags) : State :=
          let fl := o.axf ||| fl
          if o.chunk + 1 < o.shape.2 then s.modOp o fun o => { o with axf := fl }
          else
            let s := s.modWarp o.warp fun w => (w.matFlags o.act fl).complete o.seq []
            let s := match q with
              | some p => s.modWarp p.warp fun w => w.complete p.seq []
              | none => s
            if o.held then s else s.dropOp o
        match q with
        | none =>
          let (s', fl) := s.chunkHalf o o la la cur
          finish s' fl
        | some p =>
          match s.chunkRead p with
          | .error x => s.chunkStop p x
          | .ok (lb, curB) =>
            let (s', fl) := s.chunkHalf o o la la cur
            let (s', fl') := s'.chunkHalf o p la lb curB
            finish s' (fl ||| fl'))

/-! ### mlbld (R176, R178) -/

/-- mlbld: the checks, then the tables of G groups of all 64 rows. DESIGN CHOICE (log 82): the record of a region past the allocation names the table's base. -/
def execMlbld (h : Hdr) (a : Vr) (kt : Kr) (g0 : BitVec 5) (fw : Vr) (ty : BldType) (pm : Bool) (dc : Dc) (qa : Bool) (s : State) : Out :=
  let i := Instr.mlbld h a kt g0 fw ty pm dc qa
  let w := s.w
  let fmt := ty == .fmt
  let groups := if fmt then 8 else 4
  let base := (w.rdK kt.toNat).toNat
  let regs := (if qa then [] else (List.range 16).map (a.toNat + ·)) ++ (if fmt then [fw.toNat] else [])
  .next (if s.matBusy then s.hold
    else s.matRegs i regs (if qa then [a.toNat] else []) none (
      if 32 < g0.toNat + groups ∨ base % 64 ≠ 0 then s.illegalOperand i 0x06
      else
        let go (ws : List Nat) : State :=
          let f := ws.getD 0 0
          if fmt && (decide (fwW f < 5) || fwBlk f != 0) then s.illegalOperand i 0x04
          else if s.splOf w.grp < base + tableLen then s.memFaultAll i 0x02 base 0
          else s.withSrcs i (if qa then List.replicate 16 a.toNat else (List.range 16).map (a.toNat + ·)) fun fs s =>
            let vals := fs.map fun f => lanes.map f
            let mt : MatType := match ty with
              | .f16 => .f16
              | .bf16 => .bf16
              | .fmt => .fmt
            let entries := (List.range groups).flatMap fun g => (List.range 64).flatMap fun m =>
              let xs := (((fragRow vals 8 (matCw mt f) m).drop (4 * g)).take 4).map (matValue mt f)
              (List.range 16).map fun idx => tableEntry pm xs idx
            let bytes := entries.flatMap fun e => toBytes 4 e.1
            let fl := entries.foldl (fun x e => x ||| e.2) 0
            let s := s.modGrp fun x => x.setSide w.twin ((x.side w.twin).writeN (base + g0.toNat * 4096) bytes)
            (s.modW fun w => (w.matFlags w.active fl).count i.counter [] true []).retire i
        if fmt then s.vote i false fw.toNat 1 go else go []))

/-! ### Accumulator tiles (R170 to R172) -/

/-- The word macz writes (R171). -/
def maczWord (v : MaczVal) : Word :=
  match v with
  | .zero => 0
  | .pinf => 0x7F800000
  | .ninf => 0xFF800000
  | .smax => 0x7FFFFFFF

/-- macz (R171). -/
def execMacz (h : Hdr) (t : Tile) (val : MaczVal) (s : State) : Out :=
  let i := Instr.macz h t val
  .next (if s.matBusy then s.hold
    else s.matRegs i [] [] (some t) (
      let s := s.modCore s.w.core fun c => c.setTile t.toNat (List.replicate 4096 (maczWord val))
      (s.modW fun w => w.count i.counter [] true []).retire i))

/-- The registers and the row limit of macr and macw, in the order of Table 7.2. -/
def State.matRows (s : State) (i : Instr) (d : Vr) (t : Tile) (row0 : BitVec 6) (cnt : BitVec 4) (k : State) : State :=
  s.matRegs i ((List.range (cnt.toNat + 1)).map (d.toNat + ·)) [] (some t)
    (if 63 < row0.toNat + cnt.toNat then s.illegalOperand i 0x06 else k)

/-- macr (R172): rows of the tile into the active lanes. -/
def execMacr (h : Hdr) (d : Vr) (t : Tile) (row0 : BitVec 6) (hi : Bool) (cnt : BitVec 4) (dc : Dc) (s : State) : Out :=
  let i := Instr.macr h d t row0 hi cnt dc
  .next (if s.matBusy then s.hold
    else s.matRows i d t row0 cnt (
      let x := (s.coreAt s.w.core).tile t.toNat
      let res := (List.range (cnt.toNat + 1)).map fun j =>
        RegWrite.ofV (d.toNat + j) s.w.active fun l => x.getD ((row0.toNat + j) * 64 + (if hi then 32 else 0) + l) 0
      (s.modW fun w => w.count i.counter (res.map (·.reg)) true res).retire i))

/-- macw (R172): the active lanes' registers into rows of the tile. -/
def execMacw (h : Hdr) (d : Vr) (t : Tile) (row0 : BitVec 6) (hi : Bool) (cnt : BitVec 4) (dc : Dc) (s : State) : Out :=
  let i := Instr.macw h d t row0 hi cnt dc
  .next (if s.matBusy then s.hold
    else s.matRows i d t row0 cnt (
      let w := s.w
      let c0 := if hi then 32 else 0
      let new := fun (k : Nat) (old : Word) =>
        let m := k / 64
        let n := k % 64
        if row0.toNat ≤ m ∧ m ≤ row0.toNat + cnt.toNat ∧ c0 ≤ n ∧ n < c0 + 32 ∧ w.active.getLsbD (n - c0) then w.rdV (d.toNat + (m - row0.toNat)) (n - c0) else old
      let s := s.modCore w.core fun c => c.setTile t.toNat (((List.range 4096).zip (c.tile t.toNat)).map fun e => new e.1 e.2)
      (s.modW fun w => w.count i.counter [] true []).retire i))

/-! ### Drains (R173, R174) -/

/-- One tile word converted for a drain: the element and the flags (R112, R173). -/
def drainElem (ety : FType) (x : Word) : Nat × FFlags :=
  match ety with
  | .f32 => (x.toNat, 0)
  | t =>
    let v := f32.decode x.toNat
    let (y, fl) := (ftypeFmt t).encode .rne false v
    (y, fl ||| flagIf v.isSig flagNV)

/-- The addresses and words of a drain in drain order (R173). DESIGN CHOICE (log 87): the sums are taken modulo 2^64, as those of R185 are. -/
def drainList (x : List Word) (base pitch es row0 nrows : Nat) : List (Nat × Word) :=
  (List.range nrows).flatMap fun r => (List.range 64).map fun n => ((base + r * pitch + n * es) % 2 ^ 64, x.getD ((row0 + r) * 64 + n) 0)

/-- mdrn (R173, R174): every element is checked before any is written. DESIGN CHOICE (log 82): the record of a pitch that breaks the alignment or the minimum names the base. -/
def execMdrn (h : Hdr) (t : Tile) (spad : Bool) (kbase kpitch : Kr) (add : Bool) (ety : FType) (dc : Dc) (row0 nrows : BitVec 6) (s : State) : Out :=
  let i := Instr.mdrn h t spad kbase kpitch add ety dc row0 nrows
  let w := s.w
  let base := (w.rdK kbase.toNat).toNat
  let pitch := (w.rdK kpitch.toNat).toNat
  let es := if ety = .f32 then 4 else 2
  let lane := lowLane w.active
  .next (if s.matBusy then s.hold
    else s.matRegs i [] [] (some t) (
      if 64 < row0.toNat + nrows.toNat + 1 then s.illegalOperand i 0x06
      else if base % 16 ≠ 0 ∨ pitch % 16 ≠ 0 ∨ pitch < 64 * es then s.memFaultAll i 0x01 base 0
      else
        let els := drainList ((s.coreAt w.core).tile t.toNat) base pitch es row0.toNat (nrows.toNat + 1)
        let k : Acc := if add then .atomic .device else .store
        let free := els.map fun e => (e, if spad then s.trySp es lane e.1 else s.tryVa k es (fun _ => false) lane e.1)
        let written := if s.lost.isEmpty then [] else free.flatMap fun r => match r.2 with
          | .ok pa _ => (List.range es).map (pa + ·)
          | _ => []
        let lost (pa : Nat) : Bool := s.meetsLost pa es && (add || !((List.range 32).all fun j => written.contains (pa / 32 * 32 + j)))
        let res := if spad || s.lost.isEmpty then free else els.map fun e => (e, s.tryVa k es lost lane e.1)
        let absent := res.filter fun r => r.2 == .absent
        let bad := res.findSome? fun r => match r.2 with
          | .ok _ _ => none
          | .absent => some (0x07, r.1.1)
          | .bad d => some (d, r.1.1)
        let out := els.map fun e => drainElem ety e.2
        let ops : List ReqOp := (res.zip out).filterMap fun r => match r.1.2 with
          | .ok pa _ => some ⟨lane, r.1.1.1, pa, [BitVec.ofNat 64 r.2.1], false⟩
          | _ => none
        let pas := if spad then [] else ops.map (·.pa)
        if s.inDomain && !spad && !absent.isEmpty then (absent.foldl (fun s r => s.requestPage s.ctxNo r.1.1) s).hold
        else match bad with
          | some (d, a) => s.memFaultAll i d a 0
          | none =>
            if s.strays pas then s.endRoutine 3 4
            else if s.w.kind == .normal && s.inDomain && !add && !(s.foldRoom spad (ops.map fun o => o.va / 32)) then s.trapAll i 0x08 0x01 0
            else if (!add && s.tileFull w.grp pas) || s.meetsOpen spad es (ops.map fun o => (o.va, o.pa)) || (add && s.reqsFull) then s.hold
            else
              let r : OrdReq := { key := s.opKey, warp := s.cur, grp := w.grp, seq := w.seqNo, instr := i, pc := w.runPc, act := w.active, regs := [], ops := ops }
              let s := s.modW fun w => (w.matFlags w.active (out.foldl (fun x e => x ||| e.2) 0)).count i.counter [] false []
              let s := if ety = .f32 then s else s.modW fun x => x.flagging w.seqNo
              let s :=
                if !add || s.w.kind == .surrender then s.serve r
                else if s.collated then s.request r
                else { s with adds := s.adds ++ [r] }
              s.retire i))

/-- ADD_ON_STORE_APPLY (R174): an add-on-store applies over its whole region in one step; it, or another request that waits outside the queues, is tried again while a recall queue it reaches is full (R329);
one of a domain goes to its slice once its warp may have another there (Table 13.4). -/
def execAddOnStoreApply (idx : Nat) (s : State) : Out :=
  .next (match s.adds[idx]? with
    | none => s
    | some r =>
      let out : State := { s with adds := s.adds.eraseIdx idx }
      if s.groupColl r.grp && (s.warpAt r.warp).kind == .normal && r.seq < noSeq then
        if s.reqsFullOf r.warp then s else out.modDom (s.gridAt (s.groupAt r.grp).grid).pk.domain fun d => { d with reqs := d.reqs ++ [r] }
      else match out.performAgain r with
        | (t, none) => t
        | (t, some r') => { t with adds := t.adds.insertIdx idx r' })

end Sys2Proof.Machine
end

