-- ==== Sys2Proof/Machine/Tiles.lean ====
section
/-! DEFINITION. Negotiated tiles (R323 to R340): geometry, claims, recalls and surrender routines, handover. -/

namespace Sys2Proof.Machine

/-! ### Geometry (R323, R324) -/

/-- PITCH of a geometry word. -/
def geoPitch (g : Nat) : Nat := fld g 16 32
/-- Row length in sectors. -/
def geoSectors (g : Nat) : Nat := fld g 8 6 + 1
/-- Rows. -/
def geoRows (g : Nat) : Nat := fld g 0 8 + 1

/-- Whether a geometry word is malformed (R323). -/
def geoBad (g : Nat) : Bool :=
  fld g 48 16 != 0 || fld g 14 2 != 0 || geoPitch g % 32 != 0 || (decide (1 < geoRows g) && decide (geoPitch g < geoSectors g * 32)) ||
  decide (262144 < geoRows g * geoSectors g * 32)

/-- The virtual frames (address ÷ 2,048) a tile's rows touch, ascending and once each. -/
def geoFrames (base g : Nat) : List Nat :=
  ((List.range (geoRows g)).flatMap fun i =>
    let a := base + i * geoPitch g
    let b := a + geoSectors g * 32 - 1
    (List.range (b / 2048 + 1 - a / 2048)).map fun j => a / 2048 + j).eraseDups

/-- The last byte of a tile. -/
def geoEnd (base g : Nat) : Nat := base + (geoRows g - 1) * geoPitch g + geoSectors g * 32

/-! ### Holdings -/

/-- Forget a tile. -/
def State.dropTile (s : State) (t : Nat) : State := { s with tiles := SMap.erase s.tiles t }

/-- No group: the holder of a tile that is being handed over. -/
def noGroup : Nat := 2 ^ 64

/-- The lowest free tile slot of a core (R325). -/
def State.freeSlot (s : State) (core : Nat) : Option Nat := (List.range 8).find? fun i => (SMap.find (s.coreAt core).tslots i).isNone

/-- Give a slot back. -/
def State.giveSlot (s : State) (c : Claim) : State := s.modCore c.core fun x => { x with tslots := SMap.erase x.tslots c.slot }

/-- A claim status word (Table 15.5). -/
def claimWord (status slot refused cause : Nat) : Nat := status + slot * 16 + refused * 256 + cause * 4096

/-- Copies of a tile's frames outside the holder's cores are written back and invalidated (R329). -/
def State.takeFrames (s : State) (frames cores : List Nat) : State :=
  s.onCaches fun m c => frames.foldl (fun c f =>
    (c.agents.filter fun a => !cores.contains a).foldl (fun c a =>
      let dirty := (List.range 64).filter fun x => c.sectorDirty a f x
      let c := dirty.foldl (fun c x => c.toHome m (f * 64 + x)) c
      c.recut m a f 0 63 fun _ => none) c) c

/-- The cores of a group. -/
def Group.cores (g : Group) : List Nat := g.core :: g.follower.toList

/-- Refusals that a claim met: in its queue, or across the retries of a domain (R340). -/
def State.refusedOf (s : State) (c : Claim) : Nat :=
  if s.groupColl c.grp then (SMap.get (0, false) (s.groupAt c.grp).refusals c.warp).1 else c.refused

/-- Grant a tile (R329): the claim becomes the holding, of the frames of its own region (R324), with a queue, and its status is known (a claim of a domain reads it at its turn). -/
def State.grant (s : State) (t : Nat) (c : Claim) (status cause : Nat) (queue : List TileReq) : State :=
  let word := claimWord status c.slot (s.refusedOf c) cause
  let coll := s.groupColl c.grp
  let s := s.takeFrames c.frames (s.groupAt c.grp).cores
  let s := s.modCore c.core fun x => { x with tslots := SMap.put x.tslots c.slot t }
  let s := s.setTile t
    { frames := c.frames, hold := c, refusals := 0, queue := queue, running := none, delay := none, surrendered := none, rel := none, handing := none
      result := if coll then some word else none, due := 0, waitR := [], waitC := [] }
  if coll then s else s.modWarp c.warp fun w => w.complete c.seq [RegWrite.ofK c.kd (BitVec.ofNat 64 word)]

/-! ### tclaim (R326 to R328, R340) -/

/-- What the checks of a tclaim come to. -/
inductive ClaimRes where
  | illegal (detail : Nat)
  | fault (detail ea : Nat)
  | wait (vas : List Nat)
  | ok (tile : Nat) (frames : List Nat)

/-- What R328 checks of one page: conditions 0x03 to 0x08 of Table 8.3 as for a write, then tier and class (R324). Lost data and failed homes are met by later accesses. -/
def State.claimPage (s : State) (va : Nat) : Option ClaimRes :=
  match s.leafFor s.w.core (lowLane s.w.active) s.ctxNo va with
  | .error d => some (.fault d va)
  | .ok x =>
    if !pteP x.pte && !s.pageLost x then some (.wait [va])
    else if !pteW x.pte then some (.fault 0x08 va)
    else if (pteTier x.pte = 3 ∨ pteTier x.pte = 1) ∧ pteCc x.pte ≠ 3 then none
    else some (.illegal 0x11)

/-- The checks of R328 in their order. DESIGN CHOICE (log 87): every page is looked at before any is requested, so that the trap or fault of the lowest page that has one comes
before the wait for a page that is not resident. -/
def State.claimChecks (s : State) (base geo routine : Nat) : ClaimRes :=
  if geoBad geo then .illegal 0x11
  else if s.grid.ds.nsurr ≤ routine then .illegal 0x12
  else if base % 2048 ≠ 0 then .fault 0x01 base
  else if base / 2 ^ 57 ≠ 0 ∨ 2 ^ 57 < geoEnd base geo then .fault 0x03 base
  else
    let fs := geoFrames base geo
    let pages := (fs.map fun f => f * 2048 / 4096 * 4096).eraseDups
    let res := pages.filterMap fun p => s.claimPage (max base p)
    let first := res.find? fun r => match r with
      | .wait _ => false
      | _ => true
    let absent := res.flatMap fun r => match r with
      | .wait l => l
      | _ => []
    match first with
    | some x => x
    | none =>
      if !absent.isEmpty then .wait absent
      else
        let pa (f : Nat) : Option Nat := match s.leafFor s.w.core (lowLane s.w.active) s.ctxNo (f * 2048) with
          | .ok x => some (x.pa (f * 2048))
          | .error _ => none
        .ok ((pa (base / 2048)).getD 0) ((fs.filterMap pa).map (· / 2048))

/-- Where a tile stands for a claimant (R328). -/
inductive ClaimSt where
  | own | conflict | free | other
deriving DecidableEq, Repr

/-- Compare a region with the directory. -/
def State.claimSt (s : State) (t : Nat) (frames : List Nat) : ClaimSt :=
  match SMap.find s.tiles t with
  | some e =>
    if e.hold.grp = s.w.grp then .own
    else if s.tiles.any fun x => x.1 != t && x.2.frames.any frames.contains then .conflict
    else .other
  | none => if s.tiles.any fun x => x.2.frames.any frames.contains then .conflict else .free

/-- Entries of the spine directory (R325). -/
def tileLimit : Nat := 65536

/-- Entries of a recall queue (R328). -/
def recallLimit : Nat := 16

/-- The claim an instruction makes in a slot, of a region with these frames. -/
def State.claimOf (s : State) (frames : List Nat) (base geo arg : DWord) (kdNo routine slot : Nat) (keep : Bool) : Claim :=
  let e := s.grid.ds.surr.getD routine ⟨0, 0, 0⟩
  { warp := s.cur, grp := s.w.grp, core := s.w.core, slot := slot, seq := s.w.seqNo, kd := kdNo, refused := 0, base := base.toNat, geo := geo.toNat
    entry := s.codeBase + e.entry, arg := arg, budget := e.budget, limit := e.refuse, keep := keep, frames := frames }

/-- The retry count of the current warp's tclaim. -/
def State.setRefusals (s : State) (x : Option (Nat × Bool)) : State :=
  s.modGrp fun g => { g with refusals := match x with
    | some v => SMap.put g.refusals s.cur v
    | none => SMap.erase g.refusals s.cur }

/-- Whether a claim of the current warp waits in a recall queue. -/
def State.claimPending (s : State) : Bool :=
  s.tiles.any fun e => e.2.queue.any fun q => match q with
    | .claim c => c.warp == s.cur
    | .access _ => false

/-- In a domain, what a blocking tclaim does before any word of its group takes effect (R340, R428): it waits for its recall, or jumps after a refusal or a busy queue;
none once it can complete. -/
def State.claimGate (s : State) (i : Instr) : Option State :=
  match i with
  | .tclaim _ kd kbase kgeo karg routine keep _ try_ =>
    if !s.collated then none
    else
      let base := s.w.rdK kbase.toNat
      let geo := s.w.rdK kgeo.toNat
      let (n, jump) := SMap.get (0, false) s.grp.refusals s.cur
      if jump then some ((s.setRefusals (some (n, false))).jumpRetry)
      else if s.claimPending then some s.holdFree
      else match s.claimChecks base.toNat geo.toNat routine.toNat with
        | .wait vas => some ((vas.foldl (fun s a => s.requestPage s.ctxNo a) s).hold)
        | .ok t frames =>
          if s.claimSt t frames = .other ∧ !try_ then
            match s.freeSlot s.w.core, SMap.find s.tiles t with
            | some slot, some e =>
              if recallLimit ≤ e.queue.length then some s.jumpRetry
              else
                let c := s.claimOf frames base geo (s.w.rdK karg.toNat) kd.toNat routine.toNat slot keep
                let s := s.modCore c.core fun x => { x with tslots := SMap.put x.tslots slot t }
                some ((s.setTile t { e with queue := e.queue ++ [.claim c] }).holdFree)
            | _, _ => none
          else none
        | _ => none
  | _ => none

/-- tclaim (R327, R328). -/
def execTclaim (h : Hdr) (kd kbase kgeo karg : Kr) (routine : BitVec 3) (keep : Bool) (dc : Dc) (try_ : Bool) (s : State) : Out :=
  let i := Instr.tclaim h kd kbase kgeo karg routine keep dc try_
  let base := s.w.rdK kbase.toNat
  let geo := s.w.rdK kgeo.toNat
  let done (s : State) (word : Nat) : State :=
    ((s.setRefusals none).modW fun w => w.count i.counter [.k kd.toNat] true [RegWrite.ofK kd.toNat (BitVec.ofNat 64 word)]).retire i
  .next (match s.claimGate i with
    | some s' => s'
    | none =>
      match s.claimChecks base.toNat geo.toNat routine.toNat with
      | .illegal d => s.illegalOperand i d
      | .fault d a => s.memFaultAll i d a 0
      | .wait vas => (vas.foldl (fun s a => s.requestPage s.ctxNo a) s).hold
      | .ok t frames =>
        let refused := (SMap.get (0, false) s.grp.refusals s.cur).1
        match s.claimSt t frames with
        | .own =>
          match SMap.find s.tiles t with
          | some e =>
            match (if e.hold.warp = s.cur then e.result else none) with
            | some word => done ((s.setTile t { e with result := none }).jumpDone) word
            | none => done s (claimWord 9 0 refused 0)
          | none => s
        | .conflict => done s (claimWord 6 0 refused 0)
        | .free =>
          match s.freeSlot s.w.core with
          | none => done s (claimWord 7 0 refused 0)
          | some slot =>
            if tileLimit ≤ s.tiles.length then done s (claimWord 8 0 refused 0)
            else
              let c := s.claimOf frames base geo (s.w.rdK karg.toNat) kd.toNat routine.toNat slot keep
              let s := s.grant t c 0 0 []
              done ((s.modTile t fun e => { e with result := none }).jumpDone) (claimWord 0 slot refused 0)
        | .other =>
          if try_ then done s (claimWord 5 0 refused 0)
          else match s.freeSlot s.w.core, SMap.find s.tiles t with
            | some slot, some e =>
              if recallLimit ≤ e.queue.length then done s (claimWord 4 0 refused 0)
              else
                let c := s.claimOf frames base geo (s.w.rdK karg.toNat) kd.toNat routine.toNat slot keep
                let s := s.modCore c.core fun x => { x with tslots := SMap.put x.tslots slot t }
                let s := s.setTile t { e with queue := e.queue ++ [.claim c] }
                (s.modW fun w => w.count i.counter [.k kd.toNat] false []).retire i
            | _, _ => done s (claimWord 7 0 refused 0))

/-! ### trel, tsurr, tquery (R332, R336, R337) -/

/-- The tile that a group holds from a virtual base. -/
def State.heldTile (s : State) (grp base : Nat) : Option (Nat × TileEntry) := s.tiles.find? fun e => e.2.hold.grp == grp && e.2.hold.base == base

/-- trel (R336): a surrender with no routine; it waits while a routine runs. -/
def execTrel (h : Hdr) (kbase : Kr) (dc : Dc) (s : State) : Out :=
  let i := Instr.trel h kbase dc
  let base := (s.w.rdK kbase.toNat).toNat
  .next (if base % 2048 ≠ 0 then s.memFaultAll i 0x01 base 0
    else match s.heldTile s.w.grp base with
      | none => s.illegalOperand i 0x0F
      | some (t, e) =>
        if e.running.isSome ∨ e.surrendered.isSome then s.hold
        else
          let s := (s.setTile t { e with rel := some (s.cur, s.w.seqNo) }).surrender t (0, 0)
          (s.modW fun w => w.count i.counter [] false []).retire i)

/-- The clk at which `ns` nanoseconds have passed from now. -/
def State.clkAfter (s : State) (ns : Nat) : Nat := s.clk + (ns * 9 + 4) / 5

/-- A refusal of the head request (R332, R340): in a domain the claim is withdrawn and jumps, in an open grid the head waits for its delay. -/
def State.refuseHead (s : State) (t : Nat) (e : TileEntry) (until_ : Option Nat) : State :=
  match e.queue with
  | .claim c :: rest =>
    if s.groupColl c.grp then
      let g := s.groupAt c.grp
      let n := (SMap.get (0, false) g.refusals c.warp).1
      let s := (s.giveSlot c).setGroup c.grp { g with refusals := SMap.put g.refusals c.warp (min 7 (n + 1), true) }
      s.setTile t { e with queue := rest }
    else s.setTile t { e with queue := .claim { c with refused := min 7 (c.refused + 1) } :: rest, delay := until_ }
  | _ => s.setTile t { e with delay := until_ }

/-- tsurr (R332): only in the surrender slot; the routine ends with its outcome. -/
def execTsurr (h : Hdr) (kdelay : Kr) (outcome : TOutcome) (s : State) : Out :=
  let i := Instr.tsurr h kdelay outcome
  let w := s.w
  .next (if w.kind ≠ .surrender then s.illegalOperand i 0x10
    else match outcome with
      | .finish => s.endRoutine 1 0
      | .summary => s.endRoutine 2 0
      | .refuse =>
        match SMap.find s.tiles w.tile with
        | none => s.dropWarp s.cur
        | some e =>
          if e.hold.limit = e.refusals then s.endRoutine 3 1
          else (s.refuseHead w.tile { e with refusals := min 7 (e.refusals + 1), running := none } (some (s.clkAfter (w.rdK kdelay.toNat).toNat))).dropWarp s.cur)

/-- tquery (R337). -/
def execTquery (h : Hdr) (kd kbase : Kr) (dc : Dc) (s : State) : Out :=
  let i := Instr.tquery h kd kbase dc
  let base := (s.w.rdK kbase.toNat).toNat
  .next (if base % 2048 ≠ 0 then s.memFaultAll i 0x01 base 0
    else match s.tryVa .load 1 (fun _ => false) (lowLane s.w.active) base with
      | .bad d => s.memFaultAll i d base 0
      | .absent => if s.inDomain then (s.requestPage s.ctxNo base).hold else s.memFaultAll i 0x07 base 0
      | .ok pa _ =>
        let word := match SMap.find s.tiles pa with
          | none => 0
          | some e =>
            let mine := e.hold.grp = s.w.grp
            (if mine then 1 + e.hold.slot * 2 ^ 12 else if e.hold.grp = noGroup then 0 else 2) + (if e.running.isSome then 4 else 0) +
              e.queue.length * 8 + e.refusals * 2 ^ 8 + (if e.hold.keep then 2 ^ 11 else 0)
        (s.modW fun w => w.count i.counter [.k kd.toNat] true [RegWrite.ofK kd.toNat (BitVec.ofNat 64 word)]).retire i)

/-! ### Recalls (R330, R332, R338) -/

/-- A forced surrender that no routine makes (causes 5 and 6): the tile is published as it stands, with an error record (R333). -/
def State.forceSurrender (s : State) (t : Nat) (cause : Nat) : State :=
  match SMap.find s.tiles t with
  | none => s
  | some e =>
    if e.surrendered.isSome ∨ e.handing.isSome then s
    else
      let g := s.groupAt e.hold.grp
      let x := s.gridAt g.grid
      let s := match e.running with
        | some h => s.dropWarp h
        | none => s
      let s := s.raiseErr ⟨0x0004, 1, x.ctx, x.launch, e.hold.core, cause, e.hold.base, g.gidx % 2 ^ 32 + x.serial * 2 ^ 32⟩
      s.surrender t (3, cause)

/-- The surrender slot's warp at its start (R330, Table 15.6).
DESIGN CHOICE (log 79): it stands as physical warp context 32 where arbitration compares numbers (R58), above every warp's. -/
def State.routineWarp (s : State) (t : Nat) (e : TileEntry) : Warp :=
  let c := e.hold
  let kind := match e.queue with
    | .claim _ :: _ => 1
    | _ => 0
  let word := e.refusals + (if e.refusals = c.limit then 8 else 0) + kind * 16 + c.slot * 32
  let g := s.groupAt c.grp
  { Warp.idle with
    kind := .surrender, grp := c.grp, widx := (s.gridAt g.grid).ds.warps, twin := decide (g.follower = some c.core), core := c.core, slotNo := 32
    pcs := lanes.map fun l => (l, BitVec.ofNat 64 c.entry)
    k := [(1, c.arg), (2, BitVec.ofNat 64 c.base), (3, BitVec.ofNat 64 c.geo), (4, BitVec.ofNat 64 word)]
    tile := t, budget := c.budget }

/-- Whether the holder of a tile is saved: its grid is in no core (R338). -/
def State.holderSaved (s : State) (e : TileEntry) : Bool := (s.gridAt (s.groupAt e.hold.grp).grid).saved

/-- Whether the head of a queue is a claim of a collation domain. -/
def State.headColl (s : State) (e : TileEntry) : Bool :=
  match e.queue with
  | .claim c :: _ => s.groupColl c.grp
  | _ => false

/-- Whether a recall may start for a tile: with its holder on a core, the slot is free and no recall that arrived before waits for it (R330, R332, R340). -/
def State.recallReady (s : State) (e : TileEntry) : Bool :=
  e.asks &&
  (if s.holderSaved e then !s.headColl e
    else ((s.coreAt e.hold.core).surrender).isNone &&
      s.tiles.all fun x => !(x.2.asks && x.2.hold.core == e.hold.core && !s.holderSaved x.2 && decide (x.2.due < e.due)))

/-- RECALL_START (R330, R338): the routine starts in the holder core's surrender slot; a saved holder refuses by its keep flag, or the tile is taken. -/
def execRecallStart (tile : Nat) (s : State) : Out :=
  .next (match SMap.find s.tiles tile with
    | none => s
    | some e =>
      if !s.recallReady e then s
      else if s.holderSaved e then
        if e.hold.keep then s.refuseHead tile { e with refusals := min 7 (e.refusals + 1) } (some noGroup) else s.forceSurrender tile 5
      else
        let h := s.warps.fresh
        let s := s.setWarp h (s.routineWarp tile e)
        (s.setTile tile { e with running := some h }).modCore e.hold.core fun c => { c with surrender := some h })

/-- RECALL_DELAY_EXPIRY (R332): the delay of a refusal has run out. -/
def execRecallDelayExpiry (tile : Nat) (s : State) : Out :=
  .next (s.modTile tile fun e => match e.delay with
    | some t => if t ≤ s.clk then { e with delay := none } else e
    | none => e)

/-! ### Handover (R334 to R336) -/

/-- Whether what a surrender waits for is still on its way: accesses and copies of the old holder issued before it (R334). -/
def State.tileBusy (s : State) (e : TileEntry) : Bool :=
  (e.waitR.any fun r => (s.issuedBy true e.hold.grp).contains r) ||
  e.waitC.any fun c => decide (((s.groupAt c.1).chan c.2.1 c.2.2.1).wp < c.2.2.2) && !((s.groupAt c.1).chan c.2.1 c.2.2.1).copies.isEmpty

/-- A surrender completes once nothing of the old holder is on its way (R334, R336): it has the tile no more, its slot is free, the trel completes. -/
def State.surrenderDone (s : State) (tile : Nat) : State :=
  match SMap.find s.tiles tile with
  | none => s
  | some e =>
    match e.surrendered with
    | none => s
    | some x =>
      if s.tileBusy e then s
      else
        let s := if s.holderSaved e then s else s.giveSlot e.hold
        let s := match e.rel with
          | some (h, n) => s.modWarp h fun w => w.complete n []
          | none => s
        if e.queue.isEmpty then s.dropTile tile
        else s.setTile tile { e with hold := { e.hold with grp := noGroup, warp := noGroup }, surrendered := none, rel := none, delay := none, handing := some x }

/-- SURRENDER_COMPLETE (R334, R336). -/
def execSurrenderComplete (tile : Nat) (s : State) : Out := .next (s.surrenderDone tile)

/-- The accesses that stand before the first claim of a queue, and the rest. -/
def splitQueue : List TileReq → List OrdReq × List TileReq
  | .access r :: rest => let (a, b) := splitQueue rest; (r :: a, b)
  | l => ([], l)

/-- The head claim of a queue takes the tile, with the rest of the queue.
DESIGN CHOICE (log 79): where a frame of its region has come to belong to another tile meanwhile, it completes with status 6 and the next entry is the head. -/
def State.grantHead (s : State) (tile : Nat) (e : TileEntry) (c : Claim) (status cause : Nat) (rest : List TileReq) : State :=
  if s.tiles.any fun x => x.1 != tile && x.2.frames.any c.frames.contains then
    let s := if s.groupColl c.grp then s else s.modWarp c.warp fun w => w.complete c.seq [RegWrite.ofK c.kd (BitVec.ofNat 64 (claimWord 6 0 (s.refusedOf c) 0))]
    (s.giveSlot c).setTile tile { e with queue := rest, handing := some (status, cause) }
  else s.grant tile c status cause rest

/-- Requests that are let through perform, or wait on: where a thread they would stop has stopped already (R206), or at the full queue of another tile (R329). -/
def State.letThrough (s : State) (rs : List OrdReq) : State := rs.foldl State.retry s

/-- TILE_GRANT (R335): the head of the queue is served: a claim becomes the holder with the surrender's status; before an access the tile becomes free,
the accesses before the first claim perform, and that claim is granted as of a free tile. -/
def execTileGrant (tile : Nat) (s : State) : Out :=
  .next (match SMap.find s.tiles tile with
    | none => s
    | some e =>
      match e.handing with
      | none => s
      | some (status, cause) =>
        match e.queue with
        | [] => s.dropTile tile
        | .claim c :: rest => s.grantHead tile e c status cause rest
        | l =>
          let (accs, rest) := splitQueue l
          let s := (s.dropTile tile).letThrough accs
          match rest with
          | .claim c :: rest => s.grantHead tile e c 0 0 rest
          | _ => s)

/-- A group that ends releases every tile it holds (R336). -/
def State.releaseTiles (s : State) (grp : Nat) : State :=
  let ts := (s.tiles.filter fun e => e.2.hold.grp == grp).map Prod.fst
  ts.foldl (fun s t =>
    let free := match SMap.find s.tiles t with
      | some e => e.surrendered.isNone
      | none => false
    (if free then s.surrender t (0, 0) else s).surrenderDone t) s

end Sys2Proof.Machine
end

