-- ==== Sys2Proof/Machine/Launch.lean ====
section
/-! DEFINITION. Launch: the tables of cores, packets and their checks, queues, dealing, edges, completion, the watchdog's clock and major 0x7B (R16 to R18, R76, R345 to R376). -/

namespace Sys2Proof.Machine

/-! ### Tables (R14 to R16, R366, R367) -/

/-- Compute dies, clusters of a die, cores of a cluster (R14). -/
def dieCount : Nat := 24

/-- The 96-bit enabled map of a die: neither harvested nor fenced (R366). -/
def Die.enabled (d : Die) : Nat := (2 ^ 96 - 1) &&& ((2 ^ 96 - 1) ^^^ ((d.harvested ||| d.fenced) % 2 ^ 96))

/-- Whether a physical core is enabled. -/
def State.coreEnabled (s : State) (c : Nat) : Bool := decide (c < 2304) && bitAt (s.dieAt (coreDie c)).enabled (c % 96)

/-- The clusters of a context's partition, ascending (R367). -/
def State.clusters (s : State) (ctx : Nat) : List Nat := (List.range 288).filter fun k => bitAt (s.ctxAt ctx).partition k

/-- Whether a cluster lies in a context's partition. -/
def State.inPartition (s : State) (ctx k : Nat) : Bool := decide (k < 288) && bitAt (s.ctxAt ctx).partition k

/-- The cores of a cluster on which a group may be placed, a pair by its leader (R16, R360). -/
def State.units (s : State) (paired : Bool) (k : Nat) : List Nat :=
  if paired then ([0, 2, 4, 6].map (k * 8 + ·)).filter fun c => s.coreEnabled c && s.coreEnabled (c + 1)
  else ((List.range 8).map (k * 8 + ·)).filter s.coreEnabled

/-- The logical cores of a context (R366). -/
def State.logical (s : State) (ctx : Nat) : List Nat := (s.clusters ctx).flatMap (s.units false)

/-! ### Residency (R355) -/

/-- Warps per core for which a partition has register file space: 8 KiB each (R355). -/
def Desc.rfWarps (d : Desc) : Nat := d.rf * 16 / 8

/-- Groups per core that scratchpad, channels and semaphores have room for. -/
def Desc.perPool (d : Desc) : Nat :=
  let sp := if d.spl = 0 then 64 else d.sp * 65536 / d.spl
  let ch := if d.nchan = 0 then 64 else 16 / d.nchan
  let sem := if d.nsem = 0 then 64 else 64 / d.nsem
  min sp (min ch sem)

/-- Groups per core, from the descriptor alone. -/
def Desc.perCore (d : Desc) : Nat := if d.warps = 0 then 0 else min (d.rfWarps / d.warps) d.perPool

/-- The guaranteed residency Rg. -/
def State.residency (s : State) (ctx gang : Nat) (d : Desc) : Nat :=
  gang * ((s.clusters ctx).map fun k => d.perCore * (s.units d.paired k).length / gang).sum

/-! ### Packets, descriptors, edges (R350 to R353, R363) -/

/-- The fields of a packet's 128 bytes (Table 17.4). -/
def packetOf (b : List Byte) : Packet :=
  { type := fieldAt b 0 1, flags := fieldAt b 1 1, domain := fieldAt b 2 1, gang := fieldAt b 3 1, ngroups := fieldAt b 4 4, desc := fieldAt b 8 8
    priv := fieldAt b 16 8, privsz := fieldAt b 24 4, spillsz := fieldAt b 28 4, spill := fieldAt b 32 8, after := fieldAt b 40 8
    sedge := fieldAt b 48 8, eedge := fieldAt b 56 8, done := fieldAt b 64 8, resv := fieldAt b 72 8
    args := (List.range 6).map fun i => fieldAt b (80 + 8 * i) 8 }

/-- The fields of a descriptor's 128 bytes (Table 17.5). -/
def descOf (b : List Byte) : Desc :=
  { code := fieldAt b 0 8, codelen := fieldAt b 8 4, entry := fieldAt b 12 4, part := fieldAt b 16 4, shape := fieldAt b 20 4, spl := fieldAt b 24 4
    log2g := fieldAt b 28 4, wave := fieldAt b 32 4, trapv := fieldAt b 36 4, zero := fieldAt b 40 24
    surr := (List.range 8).map fun i => ⟨fieldAt b (64 + 8 * i) 4, fieldAt b (68 + 8 * i) 2, fieldAt b (70 + 8 * i) 1⟩
    surrPad := ofBytes ((List.range 8).map fun i => b.getD (71 + 8 * i) 0) }

/-- ORDER of a packet. -/
def Packet.order (p : Packet) : Bool := bitAt p.flags 0

/-- An edge descriptor read from its 144 bytes, none where it breaks R363. -/
def edgeOf (addr : Nat) (b : List Byte) : Option Edge :=
  let n := fieldAt b 0 1
  let scope := fieldAt b 1 1
  let r (i : Nat) : Nat × Nat := (fieldAt b (16 + 16 * i) 8, fieldAt b (24 + 16 * i) 8)
  let rs := (List.range n).map r
  if addr % 16 = 0 ∧ n ≤ 8 ∧ 4 ≤ scope ∧ scope ≤ 6 ∧ fieldAt b 2 14 = 0 ∧ rs.all (fun x => decide (x.1 + x.2 ≤ 2 ^ 57)) ∧
      (List.range (8 - n)).all (fun j => r (n + j) == (0, 0)) then some ⟨scope, rs⟩ else none

/-- What reading an edge descriptor comes to: a code of Table 17.6, or the edge; address 0 is no edge. -/
def State.readEdge (s : State) (ctx addr : Nat) : Except Nat Edge :=
  if addr = 0 then .ok ⟨4, []⟩
  else match s.peekVa ctx addr 144 with
    | .error _ => .error 0x09
    | .ok b => match edgeOf addr b with
      | some e => .ok e
      | none => .error 0x0E

/-- Whether a code offset keeps Table 17.5. -/
def Desc.offOk (d : Desc) (o : Nat) : Bool := o % 12 == 0 && decide (o < d.codelen)

/-- Code 0x02 of Table 17.6. -/
def badDesc (p : Packet) (d : Desc) : Bool :=
  p.desc % 64 != 0 || d.code % 256 != 0 || d.codelen % 12 != 0 || !d.offOk d.entry || !(d.trapv == 0xFFFFFFFF || d.offOk d.trapv) ||
  !((d.surr.take d.nsurr).all fun e => d.offOk e.entry) || p.priv % 16 != 0 || p.privsz % 16 != 0 || p.spill % 64 != 0 || p.spillsz % 64 != 0 || d.zero != 0

/-- Code 0x03 of Table 17.6, with the limits of Table 1.3. -/
def Desc.badPart (d : Desc) : Bool :=
  d.part / 2 ^ 18 != 0 || !(decide (4 ≤ d.rf) && decide (d.rf ≤ 16)) || decide (128 < d.sp) || decide (16 < d.acc) ||
  decide (8704 < d.rf * 16 + d.sp * 64 + d.acc * 16) || d.spl % 256 != 0 || decide (d.sp * 65536 < d.spl)

/-- Code 0x06 of Table 17.6. -/
def Desc.badShape (d : Desc) : Bool :=
  d.shape / 2 ^ 26 != 0 || decide (16 < d.nchan) || decide (64 < d.nsem) || decide (8 < d.nsurr) ||
  (List.range 8).any fun i =>
    let e := d.surr.getD i ⟨0, 0, 0⟩
    let pad := fld d.surrPad (8 * i) 8
    if i < d.nsurr then !(decide (16 ≤ e.budget) && decide (e.budget ≤ 1024)) || decide (7 < e.refuse) || pad != 0
    else e.entry != 0 || e.budget != 0 || e.refuse != 0 || pad != 0

/-- Groups that the gangs of wave `w` hold between them (R362). -/
def waveLoad (ngroups gang width w : Nat) : Nat :=
  let hi := min ((w + 1) * width) ngroups
  min ((hi + gang - 1) / gang * gang) ngroups - w * width / gang * gang

/-- Whether some wave's gangs hold more than Rg groups (R362); the alignment of waves to gangs repeats within 8 waves, so the first nine and the last show it. -/
def wavesTooWide (ngroups gang width rg : Nat) : Bool :=
  let n := (ngroups + width - 1) / width
  decide (0 < n) && (((List.range (min n 9)) ++ [n - 1]).any fun w => decide (rg < waveLoad ngroups gang width w))

/-- A packet's place: its fields, descriptor and edges, once accepted. -/
structure Accepted where
  pk : Packet
  ds : Desc
  sedge : Edge
  eedge : Edge

/-- The checks of Table 17.6 in their order (R354): a code, or what is accepted; none for a nop (R350). -/
def State.checkPacket (s : State) (ctx : Nat) (maintOk : Bool) (p : Packet) : Except Nat (Option Accepted) :=
  if p.type = 0 then .ok none
  else if p.type ≠ 1 ∨ p.resv ≠ 0 ∨ p.flags / 2 ≠ 0 ∨ p.gang = 0 ∨ 8 < p.gang then .error 0x01
  else match s.peekVa ctx p.desc 128, s.readEdge ctx p.sedge, s.readEdge ctx p.eedge with
    | .error _, _, _ => .error 0x09
    | _, .error 0x09, _ => .error 0x09
    | _, _, .error 0x09 => .error 0x09
    | .ok b, se, ee =>
      let d := descOf b
      let rg := s.residency ctx p.gang d
      if badDesc p d then .error 0x02
      else if d.badPart then .error 0x03
      else if d.badShape then .error 0x06
      else if d.warps = 0 ∨ 32 < d.warps ∨ d.perCore = 0 ∨ rg = 0 then .error 0x04
      else if (d.persist ∧ rg < p.ngroups) ∨ (d.coll ∧ (d.wave = 0 ∨ rg < d.wave ∨ d.log2g < 6 ∨ 20 < d.log2g ∨ wavesTooWide p.ngroups p.gang d.wave rg)) then .error 0x05
      else if d.coll ∧ (s.domAt p.domain).owner ≠ some ctx then .error 0x07
      else if d.maint ∧ !maintOk then .error 0x08
      else if (s.ctxAt ctx).nextLaunch ≤ p.after then .error 0x0A
      else match se, ee with
        | .ok se, .ok ee => .ok (some ⟨p, d, se, ee⟩)
        | _, _ => .error 0x0E

/-- Accept a launch (R356): it takes the context's next launch number, a collated one its waves after all earlier ones (R293), and the watchdog runs (R369). -/
def State.accept (s : State) (ctx queue prio : Nat) (inRing : Bool) (a : Accepted) : State × Nat :=
  let c := s.ctxAt ctx
  let n := c.nextLaunch
  let key := s.grids.fresh
  let waves := if a.ds.coll then (a.pk.ngroups + a.ds.wave - 1) / a.ds.wave else 0
  let dom := s.domAt a.pk.domain
  let x : Grid :=
    { Grid.none_ with
      ctx := ctx, queue := queue, prio := prio, inRing := inRing, launch := n, pk := a.pk, ds := a.ds, sedge := a.sedge, eedge := a.eedge
      waveBase := if a.ds.coll then dom.base else 0, resid := s.residency ctx a.pk.gang a.ds }
  let s := (s.setCtx ctx { c with nextLaunch := n + 1 }).setGrid key x
  let s := if a.ds.coll then s.setDom a.pk.domain { dom with base := dom.base + waves, grids := dom.grids ++ [key] } else s
  let q := s.queueAt queue
  (s.setQueue queue { q with wdSince := q.wdSince <|> some s.clk }, n)

/-! ### The completion word (R365) -/

/-- Write DONE: a page that is not resident is asked for and the word waits, any other condition leaves it unwritten (log 47). -/
def State.writeDone (s : State) (ctx va word : Nat) : State :=
  if va = 0 then s
  else match s.placeVa ctx va 8 true with
    | .ok l => s.pokePa (l.zip (toBytes 8 word))
    | .error 0x07 => { s.requestPage ctx va with dones := s.dones ++ [(ctx, va, word)] }
    | .error _ => s

/-- Completion words that wait are tried again. -/
def State.flushDones (s : State) : State :=
  if s.dones.isEmpty then s else s.dones.foldl (fun s d => s.writeDone d.1 d.2.1 d.2.2) { s with dones := [] }

/-! ### Queues (R345 to R349) -/

/-- Packets a ring holds (Table 17.3). -/
def Queue.size (q : Queue) (p : Nat) : Nat := 2 ^ SMap.get 4 q.logn p

/-- The virtual address of packet `i` of a ring (R346). -/
def Queue.slot (q : Queue) (p i : Nat) : Nat := SMap.get 0 q.base p + 128 * (i % q.size p)

/-- HEAD of a ring. -/
def Queue.headOf (q : Queue) (p : Nat) : Nat := SMap.get 0 q.head p
/-- TAIL of a ring. -/
def Queue.tailOf (q : Queue) (p : Nat) : Nat := SMap.get 0 q.tail p

/-- `a - b` modulo 2^32. -/
def sub32 (a b : Nat) : Nat := (a + 2 ^ 32 - b % 2 ^ 32) % 2 ^ 32

/-- Raise a queue error (R347): the ring is not served. DESIGN CHOICE (log 81): the register names the latest error; every ring that one has stopped waits for the write of 1 to ERR. -/
def Queue.raise (q : Queue) (p i code : Nat) : Queue :=
  { q with err := true, idx := i % 65536, prio := p, code := code, stopped := if q.stopped.contains p then q.stopped else q.stopped ++ [p] }

/-- TAIL_WRITE (R346): the doorbell; an invalid value is ignored and raises 0x0D. DESIGN CHOICE (log 87): the packet index of that error is the low 16 bits of the refused value. -/
def execTailWrite (q p v : Nat) (s : State) : Out :=
  let x := s.queueAt q
  let v := v % 2 ^ 32
  .next (s.bar (if 64 ≤ q ∨ 4 ≤ p then s
    else if sub32 v (x.headOf p) ≤ x.size p ∧ sub32 v (x.tailOf p) ≤ x.size p then s.setQueue q { x with tail := SMap.put x.tail p v }
    else s.setQueue q (x.raise p v 0x0D)))

/-- QCTL_EN_WRITE (R345, Table 17.2): a write of the whole QCTL register. -/
def execQctlEnWrite (q v : Nat) (s : State) : Out :=
  .next (s.bar (if 64 ≤ q then s else s.setQueue q { s.queueAt q with ctx := fld v 8 6, maint := bitAt v 1, en := bitAt v 0 }))

/-- QERR_ERR_CLEAR (R347, R349): the rings are served again. -/
def execQerrErrClear (q : Nat) (s : State) : Out := .next (s.bar (if 64 ≤ q then s else s.setQueue q { s.queueAt q with err := false, stopped := [] }))

/-- Whether a grid of a ring waits before its start (R348). -/
def State.ringBlocked (s : State) (q p : Nat) : Bool :=
  s.grids.any fun e => e.2.st == .held && !e.2.killed && e.2.inRing && e.2.queue == q && e.2.prio == p

/-- Whether a ring has a packet that can be taken (R347, R348): none is before start-up has verified the image and released the units (R420, R421). -/
def State.ringReady (s : State) (q p : Nat) : Bool :=
  let x := s.queueAt q
  s.up && x.en && !x.stopped.contains p && x.headOf p != x.tailOf p && !s.ringBlocked q p

/-- HEAD advances past a packet. -/
def Queue.advance (q : Queue) (p : Nat) : Queue :=
  { q with head := SMap.put q.head p ((q.headOf p + 1) % 2 ^ 32), posted := q.posted.filter (· != (p, q.headOf p)) }

/-- PACKET_SERVICE (R348, R349, R354): the packet at the head of a ring is read, checked, and accepted or refused. -/
def execPacketService (q p : Nat) (s : State) : Out :=
  let x := s.queueAt q
  .next (if !s.ringReady q p then s
    else
      let i := x.headOf p
      let va := x.slot p i
      let s0 := s
      let s := { s with lastQueue := q }
      match s.peekVa x.ctx va 128 with
      | .error 0x07 => s0.requestPage x.ctx va
      | .error d => (s.setQueue q (x.raise p i 0x0F)).raiseErr ⟨0x000A, 1, x.ctx, 0, 0x40000 + q, d, va, i + p * 2 ^ 32⟩
      | .ok b =>
        let pk := packetOf b
        match s.checkPacket x.ctx (x.maint && !x.posted.contains (p, i)) pk with
        | .ok none => s.setQueue q (x.advance p)
        | .ok (some a) => ((s.setQueue q (x.advance p)).accept x.ctx q p true a).1
        | .error code => (s.setQueue q ((x.advance p).raise p i code)).writeDone x.ctx pk.done (0x10 + code))

/-! ### Dealing (R358, R362) -/

/-- Deal a list of gangs to children with weights: each child's share, in order (R358). -/
def dealOut (gangs : List Nat) (weights : List Nat) : List (List Nat) :=
  let e := weights.sum
  let n := gangs.length
  if e = 0 then weights.map fun _ => []
  else (List.range weights.length).map fun c =>
    let a := n * (weights.take c).sum / e
    let b := n * (weights.take (c + 1)).sum / e
    (gangs.drop a).take (b - a)

/-- Gangs in ascending order without repeats. -/
def sortNat (l : List Nat) : List Nat := sortBy (fun a b => decide (a < b)) l

/-- Deal gangs of a grid to clusters of a list of dies: first to the dies, then within each (R358). -/
def State.dealTo (s : State) (paired : Bool) (clusters gangs : List Nat) (ranges : SMap (List Nat)) : SMap (List Nat) :=
  let weight (k : Nat) : Nat := (s.units paired k).length
  let dies := (clusters.map (· / 12)).eraseDups
  let of_ (d : Nat) : List Nat := clusters.filter fun k => k / 12 == d
  let shares := dies.zip (dealOut gangs (dies.map fun d => ((of_ d).map weight).sum))
  shares.foldl (fun m x =>
    ((of_ x.1).zip (dealOut x.2 ((of_ x.1).map weight))).foldl (fun m y => SMap.put m y.1 (sortNat (SMap.get [] m y.1 ++ y.2))) m) ranges

/-- Gangs of a grid. -/
def Grid.gangs (x : Grid) : Nat := (x.pk.ngroups + x.pk.gang - 1) / x.pk.gang

/-- Groups of a gang. -/
def Grid.gangSize (x : Grid) (j : Nat) : Nat := min ((j + 1) * x.pk.gang) x.pk.ngroups - j * x.pk.gang

/-- The wave a gang belongs to: its first group's (R362). -/
def Grid.gangWave (x : Grid) (j : Nat) : Nat := j * x.pk.gang / x.ds.wave

/-- The gangs of the next wave that has any, from `nextWave` on, with that wave. -/
def Grid.waveGangs (x : Grid) : Option (Nat × List Nat) :=
  match (List.range x.gangs).find? fun j => decide (x.nextWave ≤ x.gangWave j) with
  | none => none
  | some j =>
    let w := x.gangWave j
    some (w, (List.range x.gangs).filter fun i => x.gangWave i == w)

/-- Deal what is due of a grid: everything, or, for a collated grid, the next wave once nothing is unstarted (R362). -/
def State.dealNext (s : State) (grid : Nat) : State :=
  let x := s.gridAt grid
  if !(x.ranges.all fun r => r.2.isEmpty) then s
  else if x.ds.coll then
    match x.waveGangs with
    | none => s
    | some (w, gs) => s.setGrid grid { x with nextWave := w + 1, ranges := s.dealTo x.ds.paired (s.clusters x.ctx) gs [] }
  else if x.nextWave = 0 then
    s.setGrid grid { x with nextWave := 1, ranges := s.dealTo x.ds.paired (s.clusters x.ctx) (List.range x.gangs) [] }
  else s

/-! ### Room (R359 to R361) -/

/-- Groups resident on a core. -/
def State.residents (s : State) (c : Nat) : Nat :=
  (s.groups.filter fun e => (e.2.core == c || e.2.follower == some c) && e.2.warpsLeft != 0 && !(s.gridAt e.2.grid).saved).length

/-- Warps of groups on a core that have not ended: each holds its register file space until it ends (R76). -/
def State.liveWarps (s : State) (c : Nat) : Nat :=
  (s.warps.filter fun e => e.2.core == c && e.2.kind == .normal && !e.2.ended && !e.2.halted).length

/-- Groups of a grid that a core, or a pair, has room for now (R76, R359, R361). -/
def State.roomAt (s : State) (grid c : Nat) : Nat :=
  let x := s.gridAt grid
  let room (c : Nat) : Nat :=
    if s.residents c = 0 then x.ds.perCore
    else if (s.coreAt c).grid = some grid then min ((x.ds.rfWarps - s.liveWarps c) / x.ds.warps) (x.ds.perPool - s.residents c)
    else 0
  if x.ds.paired then min (room c) (room (c + 1)) else room c

/-- Groups of a grid that a cluster has room for now. -/
def State.roomIn (s : State) (grid k : Nat) : Nat := ((s.units (s.gridAt grid).ds.paired k).map (s.roomAt grid)).sum

/-- Whether groups of a context may start: no save has begun and none is held (R400). -/
def State.mayStart (s : State) (ctx : Nat) : Bool :=
  let c := s.ctxAt ctx
  !(c.draining || c.saving || c.saved || c.restoring)

/-- Whole gangs of a grid that a cluster has room for. -/
def State.gangRoom (s : State) (grid k : Nat) : Nat := s.roomIn grid k / (s.gridAt grid).pk.gang

/-- The cluster whose remainder takes a last gang that is short of groups, where the clusters have room for every other gang but for no further whole one. -/
def State.shortHome (s : State) (grid : Nat) : Option Nat :=
  let x := s.gridAt grid
  let n := ((s.clusters x.ctx).map (s.gangRoom grid)).sum
  let last := x.gangSize (x.gangs - 1)
  if n + 1 = x.gangs ∧ last < x.pk.gang then (s.clusters x.ctx).find? fun k => decide (last ≤ s.roomIn grid k % x.pk.gang) else none

/-- Whether a persistent grid can start whole (R355). -/
def State.persistFits (s : State) (grid : Nat) : Bool :=
  let x := s.gridAt grid
  decide (x.gangs ≤ ((s.clusters x.ctx).map (s.gangRoom grid)).sum) || (s.shortHome grid).isSome

/-- Move gangs that their cluster has no room for to clusters that have (a persistent grid starts whole, R355). -/
def State.level (s : State) (grid : Nat) : State :=
  let x := s.gridAt grid
  let short := s.shortHome grid
  let mine (l : List Nat) : List Nat := if short.isSome then l.filter (· != x.gangs - 1) else l
  let kept : SMap (List Nat) := x.ranges.map fun r => (r.1, (mine r.2).take (s.gangRoom grid r.1))
  let rest := x.ranges.flatMap fun r => (mine r.2).drop (s.gangRoom grid r.1)
  let filled := (s.clusters x.ctx).foldl (fun (a : SMap (List Nat) × List Nat) k =>
    let l := SMap.get [] a.1 k
    let n := s.gangRoom grid k - l.length
    (SMap.put a.1 k (sortNat (l ++ a.2.take n)), a.2.drop n)) (kept, rest)
  let ranges := match short with
    | some k => SMap.put filled.1 k (SMap.get [] filled.1 k ++ [x.gangs - 1])
    | none => filled.1
  s.setGrid grid { x with ranges := ranges }

/-! ### Edges (R363, R364) -/

/-- Act on every range of an edge; a fault in a range is recorded and the rest still done (R364). -/
def State.edgeStep (s : State) (grid : Nat) (op : MaintOp) (e : Edge) (addr : Nat) : State :=
  let x := s.gridAt grid
  e.ranges.foldl (fun s r =>
    if r.2 = 0 then s
    else match s.overPages (op == .inv) r.1 r.2 (fun s _ pa n => s.maintRange op true 0 pa n) (s.pagesOf x.ctx r.1 r.2) with
      | (s, none) => s
      | (s, some (d, a)) => s.raiseErr ⟨0x0005, 1, x.ctx, x.launch, 0xFFFFFFFF, d, a, addr⟩) s

/-- Whether ORDER, AFTER and a persistent grid's room let a grid start (R351, R355). -/
def State.mayRelease (s : State) (grid : Nat) : Bool :=
  let x := s.gridAt grid
  x.st == .held && !x.killed &&
  !(x.pk.order && x.inRing && s.grids.any fun e => decide (e.1 < grid) && e.2.inRing && e.2.queue == x.queue && e.2.prio == x.prio) &&
  !(x.pk.after != 0 && s.grids.any fun e => e.2.ctx == x.ctx && e.2.launch == x.pk.after) &&
  !(x.ds.persist && !(s.persistFits grid && s.mayStart x.ctx))

/-- GRID_RELEASE (R351, R355, R358, R364): the start edge step, then the grid is dealt. -/
def execGridRelease (grid : Nat) (s : State) : Out :=
  .next (match SMap.find s.grids grid with
    | none => s
    | some x =>
      if !s.mayRelease grid then s
      else
        let s := s.edgeStep grid .inv x.sedge x.pk.sedge
        let s := (s.setGrid grid { x with st := .running }).dealNext grid
        if x.ds.persist then s.level grid else s)

/-! ### Starting groups (R18, R20, R357, R359 to R361) -/

/-- The lowest physical warp context of a core that no warp has. -/
def State.freeContext (s : State) (c : Nat) : Nat :=
  let used := (s.warps.filter fun e => e.2.core == c && e.2.kind == .normal && !e.2.halted && !e.2.ended).map (·.2.slotNo)
  ((List.range 32).find? fun n => !used.contains n).getD 32

/-- A warp as R357 starts it. -/
def State.startWarp (s : State) (grid grp gidx core widx : Nat) (twin : Bool) : Warp :=
  let x := s.gridAt grid
  let b (n : Nat) : DWord := BitVec.ofNat 64 n
  { Warp.idle with
    kind := .normal, grp := grp, widx := widx, twin := twin, core := core, slotNo := s.freeContext core
    pcs := lanes.map fun l => (l, b (x.ds.code + x.ds.entry))
    k := [(1, b x.launch), (2, b x.pk.priv), (3, b x.pk.privsz)] ++ (List.range 6).map fun i => (4 + i, b (x.pk.args.getD i 0))
    wave := if x.ds.coll then x.waveBase + gidx / x.ds.wave else 0
    owed := if x.ds.coll then some 0 else none }

/-- A core takes its first group of a grid: its pool is divided and its tiles hold +0. A later group of the grid that divided it last finds the tiles as they were left, also where the core has run empty meanwhile (R361; DEDUCED, log 85). -/
def State.claimCore (s : State) (grid c : Nat) : State :=
  if (s.coreAt c).grid = some grid then s
  else s.modCore c fun x => { x with grid := some grid, part := (s.gridAt grid).ds.part, acc := [], matq := [] }

/-- Start a group on a core, or a pair. -/
def State.startGroup (s : State) (grid gidx c : Nat) : State :=
  let x := s.gridAt grid
  let cores := if x.ds.paired then [c, c + 1] else [c]
  let s := cores.foldl (fun s c => s.claimCore grid c) s
  let j := gidx / x.pk.gang
  let grp := s.groups.fresh
  let s := s.setGroup grp
    { Group.none_ with
      grid := grid, gidx := gidx, core := c, follower := if x.ds.paired then some (c + 1) else none
      gang := j, gangSize := x.gangSize j, member := gidx - j * x.pk.gang, warpsLeft := x.ds.allWarps }
  cores.foldl (fun s c' => (List.range x.ds.warps).foldl (fun s w =>
    s.setWarp s.warps.fresh (s.startWarp grid grp gidx c' w (c' != c))) s) s

/-- Start the groups of a gang one after another, each on the lowest core or pair of the cluster with room; none if one has no room. -/
def State.startGang (s : State) (grid k : Nat) : List Nat → Option State
  | [] => some s
  | g :: rest =>
    match (s.units (s.gridAt grid).ds.paired k).find? fun c => decide (0 < s.roomAt grid c) with
    | none => none
    | some c => (s.startGroup grid g c).startGang grid k rest

/-- The groups of a gang. -/
def Grid.groupsOf (x : Grid) (j : Nat) : List Nat := (List.range (x.gangSize j)).map (j * x.pk.gang + ·)

/-- The state with the first unstarted gang of a cluster's range started, for one grid. -/
def State.tryGang (s : State) (grid k : Nat) : Option State :=
  let x := s.gridAt grid
  if x.st ≠ .running ∨ x.killed ∨ !s.mayStart x.ctx then none
  else match SMap.get [] x.ranges k with
    | [] => none
    | j :: rest =>
      match s.startGang grid k (x.groupsOf j) with
      | none => none
      | some s =>
        let x := s.gridAt grid
        some ((s.setGrid grid { x with ranges := SMap.put x.ranges k rest }).dealNext grid)

/-- GANG_START (R359, R360): the cluster starts its next gang, of the grid accepted first that has one and room for it. -/
def execGangStart (cluster : Nat) (s : State) : Out :=
  .next ((s.grids.findSome? fun e => s.tryGang e.1 cluster).getD s)

/-! ### Stealing (R359) -/

/-- The upper half of a list. -/
def upperHalf (l : List Nat) : List Nat := l.drop (l.length - l.length / 2)

/-- The rest when the upper half is taken. -/
def lowerHalf (l : List Nat) : List Nat := l.take (l.length - l.length / 2)

/-- The key with the longest list of at least two, the lowest among equals. -/
def longest (m : List (Nat × List Nat)) : Option (Nat × List Nat) :=
  (m.filter fun e => decide (2 ≤ e.2.length)).foldl (fun b e => match b with
    | none => some e
    | some x => if x.2.length < e.2.length then some e else some x) none

/-- What a cluster with an empty range steals of one grid: the new ranges. -/
def State.stealRanges (s : State) (grid k : Nat) : Option (SMap (List Nat)) :=
  let x := s.gridAt grid
  let mine := (s.clusters x.ctx).filter fun c => c / 12 == k / 12
  let here := x.ranges.filter fun r => r.1 / 12 == k / 12 && r.1 != k
  if !(SMap.get [] x.ranges k).isEmpty ∨ !s.inPartition x.ctx k ∨ x.st ≠ .running ∨ x.killed ∨ !s.mayStart x.ctx then none
  else
    let fits (l : List Nat) : Bool := match l with
      | j :: _ => decide (x.gangSize j ≤ s.roomIn grid k)
      | [] => false
    match longest here with
    | some (v, l) => if fits (upperHalf l) then some (SMap.put (SMap.put x.ranges v (lowerHalf l)) k (upperHalf l)) else none
    | none =>
      if here.any fun r => !r.2.isEmpty then none
      else
        let dies := ((x.ranges.map fun r => r.1 / 12).eraseDups.filter (· != k / 12)).map fun d =>
          (d, sortNat ((x.ranges.filter fun r => r.1 / 12 == d).flatMap (·.2)))
        match longest dies with
        | none => none
        | some (d, l) =>
          let took := upperHalf l
          if fits took then
            some (s.dealTo x.ds.paired mine took (x.ranges.map fun r => if r.1 / 12 = d then (r.1, r.2.filter fun j => !took.contains j) else r))
          else none

/-- GANG_STEAL (R359). -/
def execGangSteal (cluster : Nat) (s : State) : Out :=
  .next (match s.grids.findSome? fun e => (s.stealRanges e.1 cluster).map fun r => (e.1, r) with
    | some (g, r) => s.modGrid g fun x => { x with ranges := r }
    | none => s)

/-! ### Ends (R76, R336, R365) -/

/-- Requests of a warp that wait: in recall queues, to be applied, or at a slice of its domain. -/
def State.pendingOf (s : State) (h : Nat) : List OrdReq :=
  s.openReqs h ++ s.domains.flatMap fun e => e.2.reqs.filter fun r => r.warp == h

/-- Whether something that warps of a group have sent is still under way: requests, copies on any channel and on its own that do not stand at a fault, matrix operations. -/
def State.groupBusy (s : State) (grp : Nat) : Bool :=
  let mine (h : Nat) : Bool := (s.warpAt h).grp == grp
  let own := ((s.groupAt grp).chans ++ (s.groupAt grp).chansF).map Prod.snd
  (s.warps.any fun e => e.2.grp == grp && e.2.kind != .surrender && !(s.pendingOf e.1).isEmpty) ||
  (s.allChans.any fun c => c.fault.isNone && c.copies.any fun x => mine x.warp) || (own.any fun c => c.fault.isNone && !c.copies.isEmpty) ||
  (s.groupAt grp).cores.any fun c => (s.coreAt c).matq.any fun o => mine o.warp

/-- The records of a group that has ended go. -/
def State.eraseGroup (s : State) (grp : Nat) : State :=
  let hs := (s.warps.filter fun e => e.2.grp == grp).map Prod.fst
  let s := hs.foldl State.dropWarp s
  { s with groups := SMap.erase s.groups grp }

/-- A group has ended: its tiles are released, and it has room on its cores no more; these keep the division and the tiles of its grid until another grid takes them (R76, R336, R361).
What no counter counts and is still under way goes on (log 42): the records stay for it until it is done, at the latest until the grid completes. -/
def State.endGroup (s : State) (grp : Nat) : State :=
  let s := s.releaseTiles grp
  if s.groupBusy grp then s else s.eraseGroup grp

/-- Whether a warp may end: its threads have exited, its counters are zero, its last boundary turn has passed, and no instruction of it is still at issue (R76, R300). -/
def State.warpDone (s : State) (h : Nat) : Bool :=
  let w := s.warpAt h
  w.kind == .normal && !w.ended && w.exited == 0xFFFFFFFF && w.dcZero && w.stops.isEmpty && w.owed.isNone && w.todo.isEmpty

/-- Whether the last warp of a group may end, and the group with it: no routine runs for a tile of it, which the group then releases as a trel does (R336). -/
def State.groupDone (s : State) (grp : Nat) : Bool := !(s.tiles.any fun e => e.2.hold.grp == grp && e.2.running.isSome)

/-- A warp that waits at mpair, or at a half of a paired operation, for a warp that has ended stops with a pair mismatch, detail 0x02 (R157). -/
def State.orphanHalf (s : State) (h : Nat) : State :=
  match s.twinOf h with
  | none => s
  | some t =>
    let out (s : State) : State :=
      let coll := s.groupColl (s.warpAt t).grp
      let g := (s.gridAt (s.groupAt (s.warpAt t).grp).grid).g
      s.modWarp t fun w => w.unpark coll g w.lclk
    match s.heldOp t with
    | some o => if o.partner.isSome && !o.started then (out (s.cancelOp o)).mismatchTrap t o.instr 0x02 else s
    | none =>
      match (s.warpAt t).park, (s.warpAt t).todo with
      | some ⟨.pair _, _, _⟩, i :: _ => (out s).mismatchTrap t i 0x02
      | _, _ => s

/-- WARP_END (R76, R386): the warp ends, and its slice with it (log 42); with the last of its group the group ends; a handler wave frees its context. -/
def execWarpEnd (wp : Nat) (s : State) : Out :=
  .next (if (SMap.find s.warps wp).isNone then s
    else if (s.warpAt wp).kind = .handler then
      if (s.warpAt wp).exited = 0xFFFFFFFF ∧ (s.warpAt wp).dcZero ∧ (s.pendingOf wp).isEmpty then s.dropWarp wp else s
    else if !s.warpDone wp || (decide ((s.groupAt (s.warpAt wp).grp).warpsLeft ≤ 1) && !s.groupDone (s.warpAt wp).grp) then s
    else
      let w := s.warpAt wp
      let s := s.modCore w.core fun c => { c with slots := c.slots.filter (· != wp) }
      let s := s.modWarp wp fun w => { w with ended := true, slice := { w.slice with st := .ended, stopping := false, issued := [] } }
      let s := s.orphanHalf wp
      let g := s.groupAt w.grp
      let s := s.setGroup w.grp { g with warpsLeft := g.warpsLeft - 1 }
      let s := if g.warpsLeft ≤ 1 then (s.endGroup w.grp).modGrid g.grid fun x => { x with ended := x.ended + 1 } else s
      if (s.gridAt g.grid).ds.persist then s.gbarSettle g.grid else s)

/-- END_EDGE_STEP (R364): every group has ended, and all that their warps sent has performed; cflu over each range of EEDGE. -/
def execEndEdgeStep (grid : Nat) (s : State) : Out :=
  .next (match SMap.find s.grids grid with
    | none => s
    | some x =>
      if x.st ≠ .running ∨ x.killed ∨ x.ended < x.pk.ngroups ∨ (s.groups.any fun e => e.2.grid == grid && s.groupBusy e.1) then s
      else (s.edgeStep grid .flush x.eedge x.pk.eedge).modGrid grid fun x => { x with st := .ending })

/-- The watchdog of a queue after one of its grids has completed or been saved: it restarts at zero while another runs (R369). -/
def State.restartTimer (s : State) (q : Nat) : State :=
  let more := s.grids.any fun e => e.2.queue == q && !e.2.saved
  s.setQueue q { s.queueAt q with wdSince := if more then some s.clk else none, wdStep := 0 }

/-- GRID_COMPLETE (R365, R372): the grid is complete, its status is kept, every lnwait of it ends; then the completion word is written.
With the last grid of its context the peer-forwarded copies of the context's pages go (R226). -/
def execGridComplete (grid : Nat) (s : State) : Out :=
  .next (match SMap.find s.grids grid with
    | none => s
    | some x =>
      if !(x.killed || x.st == .ending) then s
      else
        let status := if x.killed then 1 else 0
        let left := (s.groups.filter fun e => e.2.grid == grid).map Prod.fst
        let s := left.foldl (fun s g => (s.releaseTiles g).eraseGroup g) s
        let c := s.ctxAt x.ctx
        let s := s.setCtx x.ctx { c with statuses := (SMap.put c.statuses x.launch status).filter fun e => decide (c.nextLaunch ≤ e.1 + 65536) }
        let s := { s with
          grids := SMap.erase s.grids grid
          domains := s.domains.map fun (e : Nat × Domain) => (e.1, { e.2 with grids := e.2.grids.filter (· != grid) })
          cores := s.cores.map fun (e : Nat × Core) => (e.1, if e.2.grid = some grid then { e.2 with grid := none, part := 0, acc := [], matq := [] } else e.2)
          warps := s.warps.map fun (e : Nat × Warp) => (e.1,
            (e.2.lnwaits.filter fun (t : Nat × Nat × Nat) => t.2.1 == x.launch && (s.gridAt (s.groupAt e.2.grp).grid).ctx == x.ctx).foldl
              (fun (w : Warp) (t : Nat × Nat × Nat) => { w.complete t.1 [RegWrite.ofK t.2.2 (BitVec.ofNat 64 status)] with lnwaits := w.lnwaits.filter (· != t) }) e.2) }
        let s := if s.grids.any fun e => e.2.ctx == x.ctx then s else s.dropForwarded x.ctx
        (s.restartTimer x.queue).writeDone x.ctx x.pk.done (x.launch * 256 % 2 ^ 64 + status))

/-! ### Major 0x7B (R370 to R375) -/

/-- Read the 128 bytes of a packet as a load of the issuing thread does, and go on (R371): the cause is uniform. -/
def State.readPacket (s : State) (i : Instr) (va : Nat) (k : List Byte → State) : State :=
  if va % 128 ≠ 0 then s.memFaultAll i 0x01 va 0
  else match s.checkVa s.w.core (lowLane s.w.active) s.ctxNo va .load (fun pa => s.meetsLost pa 128) with
    | .error d => if d = 0x07 ∧ s.inDomain then (s.requestPage s.ctxNo va).hold else s.memFaultAll i d va 0
    | .ok x => k ((List.range 128).map fun j => s.see false (lowLane s.w.active) (va + j) (x.pa va + j))

/-- A result of major 0x7B that is known at once, on its counter. -/
def State.mapResult (s : State) (i : Instr) (kd : Kr) (x : Nat) : State :=
  (s.modW fun w => w.count i.counter [.k kd.toNat] true [RegWrite.ofK kd.toNat (BitVec.ofNat 64 x)]).retire i

/-- lnch (R371): a nop packet takes no launch number and gives 0. -/
def execLnch (h : Hdr) (kd ka : Kr) (dc : Dc) (s : State) : Out :=
  let i := Instr.lnch h kd ka dc
  .next (s.readPacket i (s.w.rdK ka.toNat).toNat fun b =>
    let pk := packetOf b
    match s.checkPacket s.ctxNo s.grid.ds.maint pk with
    | .ok none => s.mapResult i kd 0
    | .ok (some a) =>
      let (s', n) := s.accept s.ctxNo s.grid.queue s.grid.prio false a
      s'.mapResult i kd n
    | .error code => (s.mapResult i kd (2 ^ 63 + code)).writeDone s.ctxNo pk.done (0x10 + code))

/-- What lnwait finds (R372): a value now, or none while the grid is not complete. -/
def State.launchStatus (s : State) (ctx n : Nat) : Option Nat :=
  let c := s.ctxAt ctx
  if n = 0 ∨ c.nextLaunch ≤ n then some 2
  else if n + 65536 < c.nextLaunch then some 3
  else if s.grids.any fun e => e.2.ctx == ctx && e.2.launch == n then none
  else some (SMap.get 0 c.statuses n)

/-- lnwait (R372, R375): in a domain it waits at issue, and a status of 0 jumps to the boundary. -/
def execLnwait (h : Hdr) (kd ka : Kr) (dc : Dc) (s : State) : Out :=
  let i := Instr.lnwait h kd ka dc
  let n := (s.w.rdK ka.toNat).toNat
  .next (match s.launchStatus s.ctxNo n with
    | some x => (if x = 0 then s.jumpDone else s).mapResult i kd x
    | none =>
      if s.collated then s.holdRun
      else
        let seq := s.w.seqNo
        (s.modW fun w => { w.count i.counter [.k kd.toNat] false [] with lnwaits := w.lnwaits ++ [(seq, n, kd.toNat)] }).retire i)

/-- qpost (R373): the packet is copied into the ring and TAIL advances. -/
def execQpost (h : Hdr) (kd ka : Kr) (q : BitVec 6) (prio : BitVec 2) (dc : Dc) (s : State) : Out :=
  let i := Instr.qpost h kd ka q prio dc
  let x := s.queueAt q.toNat
  let p := prio.toNat
  let t := x.tailOf p
  .next (s.readPacket i (s.w.rdK ka.toNat).toNat fun b =>
    if !x.en ∨ x.ctx ≠ s.ctxNo then s.mapResult i kd (2 ^ 63 + 0x0C)
    else if x.size p ≤ sub32 t (x.headOf p) then s.mapResult i kd (2 ^ 63 + 0x0B)
    else match s.placeVa s.ctxNo (x.slot p t) 128 true with
      | .error 0x07 => (s.requestPage s.ctxNo (x.slot p t)).hold
      | .error d => s.memFaultAll i d (x.slot p t) 0
      | .ok l => ((s.pokePa (l.zip b)).setQueue q.toNat { x with
          tail := SMap.put x.tail p ((t + 1) % 2 ^ 32)
          posted := x.posted.filter (· != (p, t)) ++ (if s.grid.ds.maint then [] else [(p, t)]) }).mapResult i kd (t % x.size p))

/-- Usable pairs among clusters (R16). -/
def State.pairsIn (s : State) (ks : List Nat) : Nat := (ks.map fun k => (s.units true k).length).sum

/-- The value of an lmap (R374). -/
def State.mapValue (s : State) (which : MapSel) (x : Nat) : Nat :=
  let ones := 2 ^ 64 - 1
  let l := s.logical s.ctxNo
  let die (m : Die → Nat) (hi : Bool) : Nat := if dieCount ≤ x then 0 else if hi then fld (m (s.dieAt x)) 64 32 else fld (m (s.dieAt x)) 0 64
  match which with
  | .emapLo => die Die.enabled false
  | .emapHi => die Die.enabled true
  | .hmapLo => die Die.harvested false
  | .hmapHi => die Die.harvested true
  | .l2p => (l[x]?).getD ones
  | .p2l => if l.contains x then l.idxOf x else ones
  | .count => l.length + (s.pairsIn (s.clusters s.ctxNo)) % 65536 * 2 ^ 32 + s.mgmt.version * 2 ^ 48
  | .resid => s.grid.resid
  | .clus => if dieCount ≤ x then 0 else fld (s.ctxAt s.ctxNo).partition (12 * x) 12

/-- lmap (R374). -/
def execLmap (h : Hdr) (kd ka : Kr) (which : MapSel) (dc : Dc) (s : State) : Out :=
  .next (s.mapResult (.lmap h kd ka which dc) kd (s.mapValue which (s.w.rdK ka.toNat).toNat))

end Sys2Proof.Machine
end

