-- ==== Sys2Proof/Machine/Collation.lean ====
section
/-! DEFINITION. Collation: the domain minimum, turns, ordered requests and publication (R293 to R304, R312, R313, R427). -/

namespace Sys2Proof.Machine

/-! ### The minimum (R295) -/

/-- The lesser of two keys. -/
def Key.least (a b : Key) : Key := if b.lt a then b else a

/-- The least key of a list. -/
def leastKey : List Key → Option Key
  | [] => none
  | k :: ks => some (ks.foldl Key.least k)

/-- The warps of a domain's grids that take turns. -/
def State.domWarps (s : State) (dom : Nat) : List Nat :=
  let gs := (s.domAt dom).grids
  (s.warps.filter fun e => e.2.kind == .normal && gs.contains (s.groupAt e.2.grp).grid).map Prod.fst

/-- Whether copies of a warp have still to read or write what is of the gathering they issued in; one that stands at a fault is not waited for (R253, R261). -/
def State.foldsCopies (s : State) (h : Nat) : Bool :=
  s.allChans.any fun c => c.fault.isNone && c.copies.any fun x => x.warp == h && x.got.length != x.pieces.length

/-- The key a warp gives the minimum, none for one that is parked or has left it (R295, R300). -/
def State.minKeyOf (s : State) (h : Nat) : Option Key :=
  let w := s.warpAt h
  if w.ended || w.park.isSome || (w.leaving && w.owed.isNone) then none
  else match w.owed with
    | some p => some (s.keyAt h (if s.foldsCopies h then p - 1 else w.lclk))
    | none => some (s.keyAt h (if w.todo.isEmpty then w.lclk else w.grpLclk))

/-- The lowest group of a grid that has not started. -/
def State.unstarted (s : State) (grid : Nat) : Option Nat :=
  let x := s.gridAt grid
  if x.killed then none
  else
    let gangs := x.ranges.flatMap (·.2) ++ (match (if x.st == .held then some (0, [0]) else x.waveGangs) with
      | some (_, l) => l
      | none => [])
    let gs := (gangs.filter fun j => decide (j < x.gangs)).map (· * x.pk.gang)
    (sortNat gs).head?

/-- The keys of the groups still to start (R295). -/
def State.pendingKeys (s : State) (dom : Nat) : List Key :=
  (s.domAt dom).grids.filterMap fun g =>
    let x := s.gridAt g
    (s.unstarted g).map fun i => { wave := x.waveBase + i / x.ds.wave, clk := 0, serial := x.serial, gidx := i, widx := 0 }

/-- The domain minimum (R295). -/
def State.minimum (s : State) (dom : Nat) : Option Key :=
  let adds := s.adds.filter fun r => let x := s.gridAt (s.groupAt r.grp).grid; x.ds.coll && x.pk.domain == dom && (s.warpAt r.warp).kind == .normal && r.seq < noSeq
  leastKey ((s.domWarps dom).filterMap s.minKeyOf ++ (((s.domAt dom).reqs ++ adds).map (·.key)) ++ s.pendingKeys dom)

/-! ### Publication (R300, R301) -/

/-- The order of boundary points. -/
def pointLe (a b : Nat × Nat) : Bool := decide (a.1 < b.1) || (a.1 == b.1 && decide (a.2 ≤ b.2))

/-- The gathering length of the grid whose wave a key belongs to. -/
def State.gOfSerial (s : State) (dom serial : Nat) : Nat :=
  (((s.domAt dom).grids.find? fun g => (s.gridAt g).serial == serial).map fun g => (s.gridAt g).g).getD 64

/-- The point a warp's buffer is published at next: the one it owes, or, parked, the first above its arrival (R300, R427). -/
def State.pointOf (s : State) (h : Nat) : Option (Nat × Nat) :=
  let w := s.warpAt h
  match w.owed, w.park with
  | some p, _ => some (w.wave, p)
  | none, some p =>
    let g := (s.gridAt (s.groupAt w.grp).grid).g
    if p.published then none else some (w.wave, (p.clk / g + 1) * g)
  | none, none => none

/-- The first point that the minimum has reached and that is still to be published, or that a warp owes although it has been. -/
def State.duePoint (s : State) (dom : Nat) : Option (Nat × Nat) :=
  match s.minimum dom with
  | none => none
  | some m =>
    let g := s.gOfSerial dom m.serial
    let here := (m.wave, m.clk / g * g)
    let past := match (s.domAt dom).point with
      | some p => pointLe here p
      | none => false
    let ps := ((s.domWarps dom).filterMap s.pointOf ++ (if past then [] else [here])).filter fun p => pointLe p (m.wave, m.clk)
    ps.foldl (fun b p => match b with
      | none => some p
      | some x => if pointLe x p then b else some p) none

/-- The entries of a warp's fold buffer and spill area. -/
def Warp.folded (w : Warp) : List FoldEntry := w.fold ++ w.spill

/-- Where one global entry of a fold buffer goes when it is published (R207): its physical sector, a page to wait for, or nowhere.
DESIGN CHOICE (log 74): a page that has become read-only or lost is no target, like an invalid one, and a failed home is not asked for. -/
def State.foldTarget (s : State) (ctx : Nat) (e : FoldEntry) : LaneRes :=
  match s.walk ctx (e.addr * 32) with
  | .error d => .bad d
  | .ok x => if s.pageLost x then .bad 0x0A else if !pteP x.pte then .absent else if !pteW x.pte then .bad 0x08 else .ok (x.pa (e.addr * 32)) none

/-- The context of a warp. -/
def State.ctxOf (s : State) (h : Nat) : Nat := (s.gridAt (s.groupAt (s.warpAt h).grp).grid).ctx

/-- The pages that the buffers of these warps wait for. -/
def State.foldWaits (s : State) (hs : List Nat) : List (Nat × Nat) :=
  hs.flatMap fun h => (s.warpAt h).folded.filterMap fun e =>
    if !e.spad && s.foldTarget (s.ctxOf h) e == .absent then some (s.ctxOf h, e.addr * 32) else none

/-- Apply one entry of a warp's buffer (R301, R207). -/
def State.applyEntry (s : State) (dom h : Nat) (e : FoldEntry) : State :=
  let w := s.warpAt h
  if e.spad then
    let g := s.groupAt w.grp
    s.setGroup w.grp (g.setSide w.twin (e.bytes.foldl (fun m b => m.write (e.addr * 32 + b.1) b.2) (g.side w.twin)))
  else match s.foldTarget (s.ctxOf h) e with
    | .ok pa _ =>
      let s := s.pokePa (e.bytes.map fun b => (pa + b.1, b.2))
      if e.whole then s.clearLost [pa / 32] else s
    | _ => s.raiseErr ⟨0x0001, 0, s.ctxOf h, (s.gridAt (s.groupAt w.grp).grid).launch, w.core, 0, e.addr * 32,
        (maskOf (e.bytes.map (·.1))).toNat + dom * 2 ^ 32⟩

/-- The turn of one warp at a point: its buffer, then what its handlers wrote and the ends of their records, is applied, and it owes nothing more there (R301, R312, R427).
One that has left runs to its last point. -/
def State.takeTurn (s : State) (dom h : Nat) : State :=
  let s := (s.warpAt h).folded.foldl (fun s e => s.applyEntry dom h e) s
  let s := (s.pokePa (s.warpAt h).handW).clearLost (s.warpAt h).handClr
  let s := (s.warpAt h).handEnd.foldl (fun s i => s.unlive (s.ctxOf h) i) s
  s.modWarp h fun w =>
    let w := { w with fold := [], spill := [], spillCursor := 0, handW := [], handClr := [], handEnd := [] }
    match w.owed, w.park with
    | some p, _ => { w with owed := if w.leaving && decide (p < w.lclk) then some w.lclk else none }
    | none, some p => { w with park := some { p with published := true } }
    | none, none => w

/-- Step 1 of R301: every turn copy replaces the published bytes, and the marks that zero fills clear are cleared (R304). -/
def State.foldTurns (s : State) (dom : Nat) : State :=
  let d := s.domAt dom
  let s := s.pokePa d.turn
  let s := { s with
    lost := s.lost.filter fun x => !d.marksCleared.contains x
    groups := s.groups.map fun (e : Nat × Group) =>
      if d.grids.contains e.2.grid then
        let put (m : Memory) (t : SMap Byte) : Memory := t.foldl (fun (m : Memory) (b : Nat × Byte) => m.write b.1 b.2) m
        (e.1, { e.2 with spad := put e.2.spad e.2.spTurn, spadF := put e.2.spadF e.2.spTurnF, spTurn := [], spTurnF := [] })
      else e }
  s.modDom dom fun d => { d with turn := [], marksCleared := [] }

/-- Publish a point (R301): turn copies, received collectives, buffers in identity order, and then what the slices of these warps have read (R261); release records that end there go (R311). -/
def State.publish (s : State) (dom : Nat) (p : Nat × Nat) : State :=
  let hs := sortBy (fun a b => (s.keyAt a 0).lt (s.keyAt b 0)) ((s.domWarps dom).filter fun h => s.pointOf h == some p)
  let waits := s.foldWaits hs
  if !waits.isEmpty then waits.foldl (fun s w => s.requestPage w.1 w.2) s
  else
    let late := match (s.domAt dom).point with
      | some x => pointLe p x
      | none => false
    let s := s.copyCatch dom
    let s := if late then s else (s.foldTurns dom).publishColls dom p.1 p.2
    let s := hs.foldl State.refill (hs.foldl (fun s h => s.takeTurn dom h) s)
    s.modDom dom fun d =>
      { d with
        point := if late then d.point else some p
        rels := d.rels.filter fun r => !(pointLe (r.wave, r.bound) p) }

/-- PUBLICATION (R301). -/
def execPublication (dom : Nat) (s : State) : Out :=
  .next (match s.duePoint dom with
    | some p => s.publish dom p
    | none => s)

/-! ### Turns (R296 to R299) -/

/-- MINIMUM_DELIVERY (R296). -/
def execMinimumDelivery (dom : Nat) (s : State) : Out :=
  .next (match s.minimum dom with
    | some k => s.modDom dom fun d => { d with delivered := some k }
    | none => s)

/-- Whether it is a warp's turn (R297): its key is the delivered minimum, and every point at or below it has been published (R301). -/
def State.isTurn (s : State) (h : Nat) : Bool :=
  let dom := (s.gridAt (s.groupAt (s.warpAt h).grp).grid).pk.domain
  (s.domAt dom).delivered == some (s.keyAt h (s.warpAt h).lclk) && (s.warpAt h).owed.isNone && (s.duePoint dom).isNone

/-- The request of a domain with the least key. -/
def Domain.firstReq (d : Domain) : Option OrdReq :=
  d.reqs.foldl (fun b r => match b with
    | none => some r
    | some x => if r.key.lt x.key then some r else b) none

/-- ORDERED_REQUEST_PERFORM (R298): the first request performs once the delivered minimum has reached its key and every point up to it is published. -/
def execOrderedRequestPerform (dom : Nat) (s : State) : Out :=
  let d := s.domAt dom
  .next (match d.firstReq, d.delivered with
    | some r, some m =>
      if m.lt r.key ∨ (s.duePoint dom).isSome then s
      else
        match (s.modDom dom fun d => { d with reqs := d.reqs.filter (· != r) }).performAgain r with
        | (t, none) => t
        | (t, some r) => t.modDom dom fun d => { d with reqs := r :: d.reqs }
    | _, _ => s)

end Sys2Proof.Machine
end

