-- ==== Sys2Proof/Machine/Traps.lean ====
section
/-! DEFINITION. Majors 0x7C to 0x7E, dispatch of stopped threads, handler waves and disposal (R379 to R399, R408 to R413). -/

namespace Sys2Proof.Machine

/-! ### Disposal (R385, R392, R413) -/

/-- The exit that a disposal makes (R392): a plain exit word. -/
def exitWord : Instr := .exit { c := false, e := true, s := 0 }

/-- The record of a disposed thread is no longer live; in a domain a handler's disposal clears LIVE behind the handler's own writes, at the origin's boundary or when its grid is killed (R312, R413). -/
def State.endRecord (s : State) (h idx : Nat) (byHandler : Bool) : State :=
  let ctx := s.ctxOf h
  let c := s.ctxAt ctx
  let s := s.setCtx ctx { c with live := c.live.filter fun r => r.idx != idx }
  if byHandler ∧ s.groupColl (s.warpAt h).grp then s.modWarp h fun w => { w with handEnd := w.handEnd ++ [idx] }
  else s.unlive ctx idx

/-- The channel tries its faulting access again. -/
def Chan.retry (c : Chan) : Chan := { c with fault := none }

/-- The channel of a group's side at which a cpyw or dwait stopped tries its access again as this resumes (R253). -/
def State.retryCopies (s : State) (at_ : Nat × Bool × Nat) : State :=
  match SMap.find s.groups at_.1 with
  | some g => s.setGroup at_.1 (g.setChan at_.2.1 at_.2.2 (g.chan at_.2.1 at_.2.2).retry)
  | none => s

/-- Dispose of a stopped thread of warp `h` by an rft mode (R392). -/
def State.disposeThread (s : State) (h lane : Nat) (mode : RftMode) (idx : Nat) (byHandler : Bool) : State :=
  if (SMap.find s.warps h).isNone then s
  else
  let s := s.endRecord h idx byHandler
  match (s.warpAt h).stops.find? fun t => t.lane == lane with
  | none => s
  | some t =>
    match mode with
    | .abort => s.killGrid (s.groupAt (s.warpAt h).grp).grid 4 0 idx
    | .resume =>
      let s := s.modWarp h fun w => w.dispose lane .resume
      let s := match t.copy with
        | some c => s.retryCopies c
        | none => s
      match t.late with
      | some r => s.reissue r
      | none => s
    | .skip => (s.modWarp h fun w => w.dispose lane .skip).shedLane h lane t.pc
    | .exit =>
      let s := (s.modWarp h fun w => w.dispose lane .exit).shedLane h lane t.pc
      s.withWarp h fun s =>
        let clk := s.w.lclk
        (s.modW fun w => w.lastExit s.collated s.g).exited exitWord clk

/-! ### Dispatch (R381, R384, R385, R409) -/

/-- A thread takes its place in a wave: the threads of one origin warp stand together, in ascending origin lane (R386). -/
def joinMember (m : Nat × Nat × Nat) : List (Nat × Nat × Nat) → List (Nat × Nat × Nat)
  | [] => [m]
  | x :: xs =>
    if x.1 = m.1 ∧ m.2.1 < x.2.1 then m :: x :: xs
    else if x.1 = m.1 ∧ xs.all (fun y => y.1 != m.1) then x :: m :: xs
    else x :: joinMember m xs

/-- A dispatched thread joins a handler wave of its die (R386). -/
def State.joinWave (s : State) (h lane idx : Nat) : State :=
  let w := s.warpAt h
  let grid := (s.groupAt w.grp).grid
  let d := coreDie w.core
  let x := s.dieAt d
  let m := (h, lane, idx)
  match x.gathers.find? fun g => g.grid == grid with
  | none => s.setDie d { x with gathers := x.gathers ++ [⟨grid, s.clk, [m]⟩] }
  | some g =>
    let g' : Gather := { g with members := joinMember m g.members }
    if g'.members.length = 32 then s.setDie d { x with gathers := x.gathers.filter (· != g), waves := x.waves ++ [g'] }
    else s.setDie d { x with gathers := x.gathers.map fun y => if y == g then g' else y }

/-- The records of a warp's stopped threads, one after another (R384, R409): the state, the threads dispatched, and what kills the grid (its code, address and data);
none where the slot or the page of one of them is not there yet: then none of them is dispatched, and the state holds only the pages asked for, so that no other record comes between. -/
def State.dispatchAll (h : Nat) : List Stop → State → Option (Nat × Nat × Nat) → State × Option (Option (Nat × Nat × Nat))
  | [], s, bad => (s, some bad)
  | t :: rest, s, bad =>
    let ctx := s.ctxOf h
    let c := s.ctxAt ctx
    let vec := (s.gridAt (s.groupAt (s.warpAt h).grp).grid).ds.trapv != 0xFFFFFFFF
    match s.writeRecord ctx (s.recordBytes h t.lane t.cause t.pc.toNat t.ea t.detail t.aux true t.mask.toNat t.axf.toNat c.trhead) with
    | .wait s => (s, none)
    | .bad va => (s, some (some (7, va, c.trhead % 2 ^ c.trlogn)))
    | .written s idx =>
      let c := s.ctxAt ctx
      let served := !c.dbg && vec
      let s := s.setCtx ctx { c with live := c.live ++ [⟨idx, h, t.lane, served⟩] }
      let s := s.modWarp h fun w => { w with stops := w.stops.map fun x => if x.lane = t.lane then { x with dispatched := true, recIdx := idx } else x }
      State.dispatchAll h rest s (if served ∨ c.dbg then bad else bad <|> some (2, 0, idx))

/-- The threads of a warp that handlers serve join waves in ascending lane (R386). -/
def State.joinAll (s : State) (h : Nat) (new : List Nat) : State :=
  let served := (s.ctxAt (s.ctxOf h)).live.filter fun r => r.warp == h && r.served && new.contains r.lane
  (sortBy (fun (a b : LiveRec) => decide (a.lane < b.lane)) served).foldl (fun s r => s.joinWave h r.lane r.idx) s

/-- Whether a warp's counters are zero for a dispatch (R381): a copy on a channel that stands at a fault goes on only after the return, and does not hold it up (R253, log 29). -/
def State.countersZero (s : State) (h : Nat) : Bool :=
  (s.warpAt h).inflight.all fun f =>
    f.dc == 7 || s.allChans.any fun c => c.fault.isSome && c.copies.any fun x => x.warp == h && x.seq == f.seq

/-- Whether a warp's stopped threads can be dispatched: its run has ended, its counters are zero, its context is not being saved (R380, R381, R407). -/
def State.mayDispatch (s : State) (h : Nat) : Bool :=
  let w := s.warpAt h
  let c := s.ctxAt (s.ctxOf h)
  w.kind == .normal && (w.stops.any fun t => !t.dispatched) && !w.inRun && w.todo.isEmpty && s.countersZero h && !c.saving && !w.halted

/-- TRAP_DISPATCH (R381, R384, R385, R409): the stopped threads of a warp are dispatched together. -/
def execTrapDispatch (wp : Nat) (s : State) : Out :=
  .next (if !s.mayDispatch wp then s
    else
      let s' := s.modWarp wp Warp.commitAll
      let new := (s'.warpAt wp).stops.filter fun t => !t.dispatched
      match State.dispatchAll wp new s' none with
      | (t, none) => { s with resReqs := t.resReqs }
      | (s, some none) => s.joinAll wp (new.map (·.lane))
      | (s, some (some (code, addr, data))) => s.killGrid (s.groupAt (s.warpAt wp).grp).grid code addr data)

/-! ### Handler waves (R386, R387) -/

/-- The free handler context in which a wave of a context runs on a die: the lowest enabled core of the partition. -/
def State.handlerCore (s : State) (ctx die : Nat) : Option Nat :=
  ((List.range 96).map (die * 96 + ·)).find? fun c =>
    s.coreEnabled c && s.inPartition ctx (c / 8) && (s.coreAt c).handler.isNone

/-- The number a handler wave stands under where ties of readiness go by warp context number: the spec gives it none. DESIGN CHOICE (log 79). -/
def handlerNo : Nat := 33

/-- A handler wave's warp (Table 19.4). -/
def State.handlerWarp (s : State) (core : Nat) (g : Gather) : Warp :=
  let x := s.gridAt g.grid
  let c := s.ctxAt x.ctx
  let n := g.members.length
  let m (l : Nat) : Nat × Nat × Nat := g.members.getD l (0, 0, 0)
  let st (l : Nat) : Option Stop := (s.warpAt (m l).1).stops.find? fun t => t.lane == (m l).2.1
  let vals (l : Nat) : List Nat := match st l with
    | none => []
    | some t =>
      let tag := s.tagOf (m l).1 t.lane t.cause
      let flags := 2 + if (s.warpAt (m l).1).twin then 1 else 0
      [tag % 2 ^ 32, tag / 2 ^ 32, t.detail + t.aux * 256 + flags * 65536, t.ea % 2 ^ 32, t.ea / 2 ^ 32, t.pc.toNat % 2 ^ 32, t.pc.toNat / 2 ^ 32,
       t.mask.toNat, t.axf.toNat, (m l).2.2]
  let b (n : Nat) : DWord := BitVec.ofNat 64 n
  { Warp.idle with
    kind := .handler, grp := (s.warpAt (m 0).1).grp, core := core, slotNo := handlerNo
    pcs := (List.range n).map fun l => (l, b (x.ds.code + x.ds.trapv))
    exited := maskOf ((List.range 32).filter fun l => decide (n ≤ l))
    v := (List.range 10).flatMap fun r => (List.range n).map fun l => (r * 32 + l, BitVec.ofNat 32 ((vals l).getD r 0))
    k := [(1, b n), (2, b (c.trbase * 64)), (3, b x.launch)] ++ (List.range 6).map fun i => (4 + i, b (x.pk.args.getD i 0))
    tmaskHold := true
    origins := (List.range n).map fun l => (l, ⟨(m l).1, (m l).2.1, (m l).2.2⟩) }

/-- Whether the context of a grid lets a handler wave start. -/
def State.waveMayStart (s : State) (g : Gather) : Bool :=
  let c := s.ctxAt (s.gridAt g.grid).ctx
  !(c.saving || c.saved || c.restoring)

/-- HANDLER_WAVE_START (R386): waves that are due become ready, and the one that became ready first starts once a handler context is free for it.
A wave whose context is being saved, is saved or restored stands aside (log 55). -/
def execHandlerWaveStart (die : Nat) (s : State) : Out :=
  let x := s.dieAt die
  let due := x.gathers.filter fun g => decide (g.since + 64 ≤ s.clk)
  let s := if due.isEmpty then s
    else s.setDie die { x with gathers := x.gathers.filter fun g => !due.contains g, waves := x.waves ++ due }
  let x := s.dieAt die
  .next (match x.waves.find? s.waveMayStart with
    | none => s
    | some g =>
      match s.handlerCore (s.gridAt g.grid).ctx die with
      | none => s
      | some c =>
        let h := s.warps.fresh
        let s := (s.setDie die { x with waves := x.waves.filter (· != g) }).setWarp h (s.handlerWarp c g)
        s.modCore c fun k => { k with handler := some h })

/-! ### trap, tfence, rft, tmask (R390 to R393) -/

/-- trap (R391). -/
def execTrap (h : Hdr) (code : BitVec 16) (s : State) : Out :=
  .next (s.trapSelf (.trap h code) 0x0D s.w.active (fun _ => 0) fun _ => code.toNat)

/-- Whether every earlier flag-setting instruction of the current warp has completed (R139): matrix operations, and those a counter still counts (R61).
DESIGN CHOICE (log 87): one that stands before a tfence or a gets of AXF in the same group has set its flags, and the tfence or gets sees them. -/
def State.flagsSettled (s : State) : Bool :=
  !((s.coreAt s.w.core).matq.any fun o => o.warp == s.cur && !o.done && !o.stopped) && !(s.w.inflight.any fun f => s.w.flagSeqs.contains f.seq) &&
  !((s.pendingOf s.cur).any fun r => match r.instr with
    | .mdrn _ _ _ _ _ _ ety _ _ _ => ety != .f32
    | _ => false)

/-- tfence (R139, R391): it waits for flags, then stops the lanes whose raised flags are enabled. -/
def execTfence (h : Hdr) (s : State) : Out :=
  let hit (l : Nat) : Nat := (s.w.rdAxf l &&& s.w.tmaskEn).toNat
  .next (if !s.flagsSettled then s.holdRun
    else s.trapSelf (.tfence h) 0x0B (maskOf ((lanesOf s.w.active).filter fun l => hit l != 0)) hit fun _ => 0)

/-- rft (R392): each active handler lane ends and disposes of its origin thread; no later word of its run is theirs. -/
def execRft (h : Hdr) (mode : RftMode) (s : State) : Out :=
  let i := Instr.rft h mode
  let w := s.w
  .next (if w.kind ≠ .handler then s.illegalOperand i 0x14
    else
      let os := (lanesOf w.active).filterMap fun l => SMap.find w.origins l
      let s := ((s.modW fun w => { w with exited := w.exited ||| w.active }).retire i).modW fun w =>
        if w.inRun then (if h.c then w.closeGroup s.collated s.g s.clk else w).endRunAt fun _ => w.runPc else w
      let s := os.foldl (fun s o => s.disposeThread o.warp o.lane mode o.recIdx true) s
      s.modW fun w =>
        match (lanes.filter fun l => !w.exited.getLsbD l).head? with
        | none => w
        | some l => match SMap.find w.origins l with
          | some o => { w with grp := (s.warpAt o.warp).grp }
          | none => w)

/-- tmask (R393): it applies from the warp's next group. -/
def execTmask (h : Hdr) (en m : BitVec 6) (ho : HoldOp) (s : State) : Out :=
  let x := match ho with
    | .keep => none
    | .hold => some true
    | .unhold => some false
  .next ((s.modW fun w => { w with deferred := w.deferred ++ [.tmask en m x] }).retire (.tmask h en m ho))

/-! ### gets, sets, tmr (R394 to R396) -/

/-- Usable pairs, enabled cores and table version of a core's cluster (Table 19.7, HMAP). -/
def State.hmapOf (s : State) (core : Nat) : Nat :=
  let k := core / 8
  fld (s.dieAt (coreDie core)).enabled (8 * coreCluster core) 8 + (s.units true k).length * 2 ^ 8 + s.mgmt.version * 2 ^ 16

/-- The warp whose identity a lane of the current warp reads: its origin's in a handler wave (R387). -/
def State.idWarp (s : State) (l : Nat) : Warp := s.warpAt (s.laneWarp l)

/-- The origin lane that a lane of the current warp stands for. -/
def State.idLane (s : State) (l : Nat) : Nat :=
  match s.w.kind with
  | .handler => ((SMap.find s.w.origins l).map (·.lane)).getD l
  | _ => l

/-- The value of a special register in a lane (Table 19.6, R387, R395). -/
def State.special (s : State) (sr : SReg) (l : Nat) : Nat :=
  let w := s.w
  let o := s.idWarp l
  let g := s.groupAt o.grp
  let x := s.gridAt g.grid
  let lane := s.idLane l
  match sr with
  | .lclk => w.grpLclk
  | .tidx => (o.widx * 32 + lane) % 1024
  | .lane => lane
  | .quad => lane / 4
  | .widx => o.widx % 64
  | .gidx => g.gidx
  | .ngrp => x.pk.ngroups
  | .core => w.core
  | .clus => (g.gangSize - 1) % 8 * 16 + g.member % 8
  | .domn => if x.ds.coll then 64 + x.pk.domain % 64 else 0
  | .glen => x.ds.glen
  | .fpc => w.fpc.toNat
  | .axf => (w.rdAxf l).toNat
  | .tmask => w.tmaskVal
  | .bx1 => w.bx1.toNat
  | .bx2 => w.bx2.toNat
  | .bx3 => w.bx3.toNat
  | .hmap => s.hmapOf w.core
  | .toff => truncInt (s.dieAt (coreDie w.core)).toff 64
  | .trate => truncInt (s.dieAt (coreDie w.core)).trate 32

/-- gets (R395): AXF waits as a tfence does (R139). -/
def execGets (h : Hdr) (r : BitVec 6) (sr : SReg) (rk : Bool) (s : State) : Out :=
  let i := Instr.gets h r sr rk
  .next (if sr = .axf ∧ !s.flagsSettled then s.holdRun
    else if rk then s.uniform i 2 r (BitVec.ofNat 64 (s.special sr (lowLane s.w.active)))
    else if s.w.isWindow r.toNat then s.illegalOperand i 0x05
    else (s.modW fun w => w.push 2 (RegWrite.ofV r.toNat w.active fun l => BitVec.ofNat 32 (s.special sr l))).retire i)

/-- Whether sets may name a register (Table 19.6). -/
def srWritable : SReg → Bool
  | .fpc => true
  | .axf => true
  | .tmask => true
  | .bx1 => true
  | .bx2 => true
  | .bx3 => true
  | _ => false

/-- sets (R395): AXF changes in issue order (R139), the others from the warp's next group. -/
def execSets (h : Hdr) (r : BitVec 6) (sr : SReg) (rk : Bool) (s : State) : Out :=
  let i := Instr.sets h r sr rk
  let put (f : Nat → Word) (s : State) : State :=
    let x := f (lowLane s.w.active)
    let later (d : SpecialWrite) : State := (s.modW fun w => { w with deferred := w.deferred ++ [d] }).retire i
    match sr with
    | .fpc => later (.fpc 15 (x.truncate 4))
    | .tmask => later (.tmask (x.truncate 6) 63 (some (x.getLsbD 16)))
    | .bx1 => later (.bx 1 (x.truncate 6))
    | .bx2 => later (.bx 2 (x.truncate 6))
    | .bx3 => later (.bx 3 (x.truncate 6))
    | _ => (s.modW fun w => (lanesOf w.active).foldl (fun w l => w.wrAxf l ((f l).truncate 6)) w).retire i
  .next (if !srWritable sr then s.illegalOperand i 0x13
    else if rk then put (fun _ => (s.w.rdK r.toNat).truncate 32) s
    else s.withSrcs i [r.toNat] fun fs s => put (fs.headD fun _ => 0) s)

/-- tmr (R396). -/
def execTmr (h : Hdr) (kd : Kr) (master : Bool) (dc : Dc) (s : State) : Out :=
  let d := coreDie s.w.core
  .next (s.mapResult (.tmr h kd master dc) kd (if master then s.masterTime d else s.rawTime d))

/-! ### orgr, orgw (R398, R399, R412) -/

/-- Read an origin register (R399). -/
def Warp.origin (w : Warp) (lane n : Nat) (cls : OrgClass) : Word :=
  match cls with
  | .v => w.rdV n lane
  | .k => (w.rdK n).truncate 32
  | .kh => (w.rdK n >>> 32).truncate 32
  | .p => if w.rdP n lane then 1 else 0
  | .axf => (w.rdAxf lane).zeroExtend 32
  | .fpc => w.fpc.zeroExtend 32

/-- Write an origin register (R399). -/
def Warp.setOrigin (w : Warp) (lane n : Nat) (cls : OrgClass) (x : Word) : Warp :=
  let old := w.rdK n
  match cls with
  | .v => w.wrV n lane x
  | .k => w.wrK n ((old.extractLsb' 32 32) ++ x)
  | .kh => w.wrK n (x ++ (old.extractLsb' 0 32))
  | .p => w.wrP n lane (x.getLsbD 0)
  | .axf => w.wrAxf lane (x.truncate 6)
  | .fpc => { w with fpc := x.truncate 4 }

/-- orgr (R398, R399). -/
def execOrgr (h : Hdr) (vd : Vr) (n : BitVec 6) (cls : OrgClass) (dc : Dc) (s : State) : Out :=
  let i := Instr.orgr h vd n cls dc
  let w := s.w
  let val (l : Nat) : Word := match SMap.find w.origins l with
    | some o => (s.warpAt o.warp).origin o.lane n.toNat cls
    | none => 0
  .next (if w.kind ≠ .handler then s.illegalOperand i 0x14
    else (s.modW fun w => w.count i.counter [.v vd.toNat] true [RegWrite.ofV vd.toNat w.active val]).retire i)

/-- orgw (R398, R399): in ascending handler lane. -/
def execOrgw (h : Hdr) (va : Vr) (n : BitVec 6) (cls : OrgClass) (dc : Dc) (s : State) : Out :=
  let i := Instr.orgw h va n cls dc
  let w := s.w
  .next (if w.kind ≠ .handler then s.illegalOperand i 0x14
    else
      let s := (lanesOf w.active).foldl (fun s l => match SMap.find w.origins l with
        | some o => s.modWarp o.warp fun x => x.setOrigin o.lane n.toNat cls (w.rdV va.toNat l)
        | none => s) s
      (s.modW fun w => w.count i.counter [] true []).retire i)

end Sys2Proof.Machine
end

