-- ==== Sys2Proof/Machine/Segment.lean ====
section
/-! DEFINITION. The segments of a saved image (R402, R403, R405): their bytes, the shadow stores, the save area in memory, and the check before a restore. -/

namespace Sys2Proof.Machine

/-! ### Bytes of a segment (Tables 19.8, 19.9) -/

/-- One bit of CRC-32C, reflected (polynomial 0x1EDC_6F41). -/
def crcBit (c : Nat) : Nat := if c % 2 = 1 then c / 2 ^^^ 0x82F63B78 else c / 2

/-- One byte of CRC-32C. -/
def crcByte (c : Nat) (b : Byte) : Nat := (List.range 8).foldl (fun c _ => crcBit c) (c ^^^ b.toNat)

/-- CRC-32C of some bytes (Table 19.8). -/
def crc32c (bs : List Byte) : Nat := bs.foldl crcByte 0xFFFFFFFF ^^^ 0xFFFFFFFF

/-- Bytes of a segment, of its payload, and segments of a shadow store (R402, R403). -/
def segSize : Nat := 4096
/-- Payload bytes. -/
def segRoom : Nat := 4080
/-- Slots of a shadow store. -/
def shadowSlots : Nat := 2240

/-- The 4,096 bytes of a segment: kind, sequence number, logical core, payload bytes used, and the payload field. -/
def segBytes (kind seq core len : Nat) (payload : List Byte) : List Byte :=
  let head := toBytes 2 kind ++ toBytes 2 len ++ toBytes 4 seq ++ toBytes 2 core ++ toBytes 2 0
  head ++ toBytes 4 (crc32c (head ++ payload.take len)) ++ payload.take segRoom

/-- Whether a kind is one of Table 19.9. -/
def segKindOk (kind : Nat) : Bool := (decide (1 ≤ kind) && decide (kind ≤ 11)) || kind == 0xFF

/-- Whether a segment has sequence number `seq`, a legal kind and length, and the right CRC (R405). -/
def segOk (b : List Byte) (seq : Nat) : Bool :=
  let len := fieldAt b 2 2
  segKindOk (fieldAt b 0 2) && decide (len ≤ segRoom) && fieldAt b 4 4 == seq && fieldAt b 12 4 == crc32c (b.take 12 ++ (b.drop 16).take len)

/-! ### The contents of a segment kind (Table 19.9; DESIGN CHOICE, log 13: the items of a kind stand in the order of their tables, each in whole bytes, the low byte first) -/

/-- The v registers of a warp, register by register and lane by lane. -/
def Warp.vBytes (w : Warp) : List Byte := (List.range 64).flatMap fun r => lanes.flatMap fun l => toBytes 4 (w.rdV r l).toNat

/-- The lanes in which a predicate is set. -/
def Warp.predMask (w : Warp) (r : Nat) : Nat := (maskOf (lanes.filter fun l => w.rdP r l)).toNat

/-- UREG: k and p registers, special registers, Table 3.3, and Table 7.5 but for tiles and latched operands. -/
def Warp.uregBytes (w : Warp) : List Byte :=
  let marked (f : Nat → RegId) (n : Nat) : Nat := ((List.range n).filter fun r => w.marks.any fun m => m.reg == f r).foldl (fun a r => a + 2 ^ r) 0
  (List.range 64).flatMap (fun r => toBytes 8 (w.rdK r).toNat) ++ (List.range 48).flatMap (fun r => toBytes 4 (w.predMask r)) ++
  toBytes 8 w.lclk ++ toBytes 1 w.fpc.toNat ++ lanes.flatMap (fun l => toBytes 1 (w.rdAxf l).toNat) ++ toBytes 4 w.tmaskVal ++
  toBytes 1 w.bx1.toNat ++ toBytes 1 w.bx2.toNat ++ toBytes 1 w.bx3.toNat ++
  lanes.flatMap (fun l => toBytes 8 (SMap.get 0 w.pcs l).toNat) ++ toBytes 8 w.sched ++ (List.range 7).flatMap (fun c => toBytes 1 (w.dcCount c)) ++
  toBytes 8 (marked .v 64) ++ toBytes 8 (marked .k 64) ++ toBytes 6 (marked .p 48) ++
  toBytes 1 (match w.chk with | .off => 0 | .stall => 1 | .trap => 2) ++
  toBytes 1 (if w.bound then 1 else 0) ++ toBytes 4 w.pairSeq ++ toBytes 1 w.resumeChunk

/-- The bytes of a sector's entry of a fold buffer: its bytes, its mask and its address. -/
def FoldEntry.record (e : FoldEntry) : List Byte :=
  (List.range 32).map (fun i => (SMap.find e.bytes i).getD 0) ++ toBytes 4 (maskOf (e.bytes.map Prod.fst)).toNat ++ toBytes 8 (e.addr * 2 + if e.spad then 1 else 0)

/-- COLL: Table 13.4; ordered requests and their results stay at their slices (R313). -/
def Warp.collBytes (w : Warp) : List Byte :=
  toBytes 4 w.wave ++ (List.range 128).flatMap (fun i => (w.fold.getD i ⟨false, 0, [], false⟩).record) ++ toBytes 4 w.spillCursor ++
  toBytes 8 (w.owed.getD 0) ++ toBytes 1 (if w.owed.isSome then 1 else 0) ++ toBytes 1 (if w.park.isSome then 1 else 0)

/-- AAE: Table 10.3. -/
def Warp.aaeBytes (w : Warp) : List Byte :=
  let x := w.slice
  let entry (e : Option QEntry) : List Byte := match e with
    | none => List.replicate 133 0
    | some e => e.vals.flatMap (fun v => toBytes 4 v.toNat) ++ toBytes 4 (maskOf (e.causes.map Prod.fst)).toNat ++ toBytes 1 1
  (List.range 64).flatMap (fun r => toBytes 8 (SMap.get 0 x.k r).toNat) ++ toBytes 8 x.pc.toNat ++
  toBytes 1 (match x.st with | .idle => 0 | .running => 1 | .held => 2 | .ended => 3 | .failed => 4) ++
  toBytes 8 x.failPc.toNat ++ toBytes 1 x.failDetail ++ toBytes 1 x.failFetch ++
  (List.range 8).flatMap (fun q => (List.range 32).flatMap fun i => entry ((SMap.get [] w.queues q)[i]?)) ++ toBytes 1 w.qbind.toNat

/-- The bytes of a channel (Table 10.5). -/
def Chan.bytes (c : Chan) : List Byte :=
  let copy (x : Option Copy) : List Byte := match x with
    | none => List.replicate 25 0
    | some x => toBytes 8 x.src ++ toBytes 8 x.dst ++ toBytes 4 x.len ++ toBytes 4 x.at_ ++ toBytes 1 (if x.s2g then 1 else 0)
  toBytes 8 c.ip ++ toBytes 8 c.wp ++ (List.range 4).flatMap (fun i => copy c.copies[i]?) ++
  toBytes 1 ((c.fault.map Prod.fst).getD 0) ++ toBytes 8 ((c.fault.map Prod.snd).getD 0) ++ toBytes 1 (if c.fillInc then 1 else 0)

/-- SYNC of one side of a group: the barriers, with the arrivals of its warps, the semaphores, the channels (Tables 11.4, 10.5). -/
def State.syncBytes (s : State) (grp : Nat) (side : Bool) : List Byte :=
  let g := s.groupAt grp
  let ds := (s.gridAt g.grid).ds
  let bar (id : Nat) : List Byte :=
    let b := SMap.get ⟨0, []⟩ g.bars id
    toBytes 4 b.done ++ (List.range 4).flatMap (fun j => let p := SMap.get ⟨0, 0, 0⟩ b.opened (b.done + j); toBytes 1 p.arrivals ++ toBytes 1 p.count) ++
    ((s.groupWarps grp).filter fun h => (s.warpAt h).twin == side).flatMap fun h => toBytes 4 (SMap.get 0 (s.warpAt h).barA id) ++ toBytes 4 (SMap.get 0 (s.warpAt h).barMask id).toNat
  (List.range 16).flatMap bar ++ (List.range ds.nsem).flatMap (fun n => toBytes 4 (g.sem side n).toNat) ++ (List.range ds.nchan).flatMap fun n => (g.chan side n).bytes

/-- TILE: the eight slots of a core (Table 15.2). -/
def State.tileBytes (s : State) (core : Nat) : List Byte :=
  (List.range 8).flatMap fun i => match (SMap.find (s.coreAt core).tslots i).bind (SMap.find s.tiles) with
    | some e =>
      if e.hold.core = core ∧ e.hold.slot = i then
        toBytes 1 1 ++ toBytes 8 e.hold.base ++ toBytes 8 e.hold.geo ++ toBytes 8 e.hold.entry ++ toBytes 8 e.hold.arg.toNat ++ toBytes 2 e.hold.budget ++
        toBytes 1 e.hold.limit ++ toBytes 1 (if e.hold.keep then 1 else 0) ++ toBytes 1 e.refusals
      else List.replicate 38 0
    | none => List.replicate 38 0

/-- The words of an accumulator tile of an image. -/
def CoreImage.tile (m : CoreImage) (t : Nat) : List Word := let x := SMap.get [] m.acc t; x ++ List.replicate (4096 - x.length) 0

/-- The operands that a matrix operation has latched. -/
def MatOp.latchBytes (o : MatOp) : List Byte := (o.a ++ o.b ++ [o.sa, o.sb]).flatMap fun r => r.flatMap fun x => toBytes 4 x.toNat

/-- The live warps of a context on a core, by ascending warp context number. -/
def State.imageWarps (s : State) (c core : Nat) : List (Nat × Warp) :=
  sortBy (fun (a b : Nat × Warp) => decide (a.2.slotNo < b.2.slotNo))
    (s.warps.filter fun e => e.2.kind == .normal && e.2.core == core && !e.2.ended && (s.gridAt (s.groupAt e.2.grp).grid).ctx == c)

/-- The sides of groups of a context that lie on a core. -/
def State.imageSides (s : State) (c core : Nat) : List (Nat × Bool) :=
  s.groups.flatMap fun e =>
    if (s.gridAt e.2.grid).ctx != c then []
    else (if e.2.core = core then [(e.1, false)] else []) ++ (if e.2.follower = some core then [(e.1, true)] else [])

/-! ### The segments of a core's image (R402) -/

/-- What a core's image holds, kind by kind: HEAD, then ascending kinds, those of a warp by ascending warp context number. -/
def State.imageParts (s : State) (c : Nat) (m : CoreImage) : List (Nat × List Byte) :=
  let on := (s.imageWarps c m.core).map Prod.snd
  let sides := s.imageSides c m.core
  let grids := (sides.map fun x => (s.groupAt x.1).grid).eraseDups
  let stops := (s.imageWarps c m.core).flatMap fun e => (e.2.stops.filter fun t => !t.dispatched).flatMap fun t =>
    s.recordBytes e.1 t.lane t.cause t.pc.toNat t.ea t.detail t.aux false t.mask.toNat t.axf.toNat 0
  let lives := ((s.ctxAt c).live.filter fun r => (s.warpAt r.warp).core == m.core).flatMap fun r => toBytes 4 r.idx ++ toBytes 1 r.lane
  let waves := m.handler.toList.flatMap fun h => (s.warpAt h).vBytes ++ (s.warpAt h).uregBytes
  [(1, toBytes 1 c ++ toBytes 8 m.part ++ grids.flatMap (fun g => toBytes 8 (s.gridAt g).launch) ++ toBytes 2 s.mgmt.version)] ++
  on.map (fun w => (2, w.vBytes)) ++ on.map (fun w => (3, w.uregBytes)) ++
  [(4, sides.flatMap fun x => ((s.groupAt x.1).side x.2).readN 0 (s.splOf x.1)),
   (5, (List.range (s.gridAt m.grid).ds.acc).flatMap fun t => (m.tile t).flatMap fun x => toBytes 4 x.toNat),
   (6, sides.flatMap fun x => s.syncBytes x.1 x.2)] ++
  (on.filter fun w => (s.gridAt (s.groupAt w.grp).grid).ds.coll).map (fun w => (7, w.collBytes)) ++ on.map (fun w => (8, w.aaeBytes)) ++
  [(9, s.tileBytes m.core), (10, stops ++ lives ++ waves), (11, m.matq.flatMap MatOp.latchBytes)]

/-- The payloads that hold some bytes. -/
def segCut : Nat → List Byte → List (List Byte)
  | 0, _ => []
  | n + 1, bs => if bs.isEmpty then [] else bs.take segRoom :: segCut n (bs.drop segRoom)

/-- Free bytes of a payload field, past its LEN (log 13). -/
def State.freePayload (s : State) (i : Nat) : List Byte := (List.range segRoom).map fun j => BitVec.ofNat 8 (Config.freeBits (s.freeCount + segRoom * i + j))

/-- The segments of a core's image, END last. -/
def State.segments (s : State) (c : Nat) (m : CoreImage) : List (List Byte) :=
  let ps := (s.imageParts c m).flatMap fun p => (segCut (p.2.length / segRoom + 1) p.2).map fun b => (p.1, b)
  let n := ps.length
  (ps.zipIdx.map fun (e : (Nat × List Byte) × Nat) => segBytes e.1.1 e.2 m.logical e.1.2.length (e.1.2 ++ s.freePayload e.2)) ++
  [segBytes 0xFF n m.logical 4 (toBytes 4 (n + 1) ++ s.freePayload n)]

/-! ### Where segments go (R403) -/

/-- The physical address of segment `i` of a logical core in a context's save area. -/
def State.saveAddr (s : State) (c logical i : Nat) : Nat := (s.ctxAt c).savebase * 2 ^ 21 + logical * 0x00A00000 + segSize * i

/-- Whether an address lies in the save area of some context. -/
def State.inSaveArea (s : State) (a : Nat) : Bool :=
  s.ctxs.any fun e => decide (e.2.savebase * 2 ^ 21 ≤ a) && decide (a < e.2.savebase * 2 ^ 21 + 2304 * 0x00A00000)

/-- The bytes of segments in a save area, the first as segment `i`, with their addresses. -/
def State.segWrites (s : State) (c logical i : Nat) (segs : List (List Byte)) : List (Nat × Byte) :=
  segs.zipIdx.flatMap fun (e : List Byte × Nat) =>
    let a := s.saveAddr c logical (i + e.2)
    if 2 ^ 52 < a + segSize then [] else ((List.range e.1.length).map (a + ·)).zip e.1

/-- Write segments to a save area, the first as segment `i`. -/
def State.putSegs (s : State) (c logical i : Nat) (segs : List (List Byte)) : State := s.pokePa (s.segWrites c logical i segs)

/-- The image of another context that a shadow store holds goes to its place in memory before its slots are written; a staged one stands there already (R403, log 13). -/
def State.unstage (s : State) (core : Nat) : State :=
  match SMap.find s.shadow core with
  | none => s
  | some x =>
    let s := { s with shadow := SMap.erase s.shadow core }
    if x.staged then s else s.putSegs x.ctx x.logical 0 x.slots

/-- A core's image goes to the slots of its shadow store, and what they have no room for to memory. Where the store holds a staged image and both fit, the two change places slot by slot,
each slot read before it is written: the staged image is on its way into the core (R403). -/
def State.storeImage (s : State) (c : Nat) (m : CoreImage) : State :=
  let segs := s.segments c m
  let s := { s with freeCount := s.freeCount + segRoom * segs.length }
  match (SMap.find s.shadow m.core).filter fun x => x.ctx != c && x.staged && decide (segs.length ≤ shadowSlots) with
  | some x => { s with shadow := SMap.put s.shadow m.core ⟨c, m.logical, segs, false, some (x.ctx, x.logical, x.slots)⟩ }
  | none =>
    let s := if (SMap.find s.shadow m.core).any fun x => x.ctx != c then s.unstage m.core else s
    ({ s with shadow := SMap.put s.shadow m.core ⟨c, m.logical, segs.take shadowSlots, false, none⟩ }).putSegs c m.logical shadowSlots (segs.drop shadowSlots)

/-- The segments of a context leave the shadow stores. -/
def State.dropShadow (s : State) (c : Nat) : State :=
  { s with shadow := (s.shadow.filter fun (e : Nat × Shadow) => e.2.ctx != c).map fun (e : Nat × Shadow) => (e.1, { e.2 with out := e.2.out.filter fun o => o.1 != c }) }

/-- The segments of a core's image in the save area, up to its END; none where they are more than a shadow store has slots. -/
def State.savedSegs (s : State) (c logical : Nat) : Nat → Nat → Option (List (List Byte))
  | 0, _ => none
  | fuel + 1, i =>
    let b := s.mem.readN (s.saveAddr c logical i) segSize
    if fieldAt b 0 2 = 0xFF then some [b] else (s.savedSegs c logical fuel (i + 1)).map (b :: ·)

/-- The context engine places the images of a context that is to be restored from memory in the shadow stores of the cores they came from, where these are empty (R403).
DESIGN CHOICE (log 13): it does so when the restore is requested. -/
def State.stage (s : State) (c : Nat) : State :=
  match (s.ctxAt c).image with
  | none => s
  | some im => im.cores.foldl (fun s m =>
    if (SMap.find s.shadow m.core).isSome then s
    else match s.savedSegs c m.logical shadowSlots 0 with
      | some segs => { s with shadow := SMap.put s.shadow m.core ⟨c, m.logical, segs, true, none⟩ }
      | none => s) s

/-! ### The check (R405) -/

/-- Segment `i` of a core's image as a restore reads it: from the shadow store that still holds it, or has given it out in an exchange, else from memory. -/
def State.segAt (s : State) (c : Nat) (m : CoreImage) (i : Nat) : List Byte :=
  let staged := (SMap.find s.shadow m.core).bind fun x =>
    if shadowSlots ≤ i then none
    else if x.ctx = c then x.slots[i]?
    else (x.out.filter fun o => o.1 == c && o.2.1 == m.logical).bind fun o => o.2.2[i]?
  staged.getD (s.mem.readN (s.saveAddr c m.logical i) segSize)

/-- Whether the segments from `i` on keep R405 up to an END that gives their count. -/
def State.segsOk (s : State) (c : Nat) (m : CoreImage) : Nat → Nat → Bool
  | 0, _ => false
  | fuel + 1, i =>
    let b := s.segAt c m i
    segOk b i && (if fieldAt b 0 2 = 0xFF then fieldAt b 16 4 == i + 1 else s.segsOk c m fuel (i + 1))

/-- Whether every core's image passes the check of R405; a core has room for 2,560 segments in the save area. -/
def State.imageOk (s : State) (c : Nat) (im : Image) : Bool := im.cores.all fun m => s.segsOk c m 2560 0

/-! ### Reading an image back (R405) -/

/-- The payload bytes of the segments of a kind, up to END. -/
def State.kindBytes (s : State) (c : Nat) (m : CoreImage) (kind : Nat) : Nat → Nat → List Byte
  | 0, _ => []
  | fuel + 1, i =>
    let b := s.segAt c m i
    if fieldAt b 0 2 = 0xFF then []
    else (if fieldAt b 0 2 = kind then (b.drop 16).take (fieldAt b 2 2) else []) ++ s.kindBytes c m kind fuel (i + 1)

/-- The numbers that some bytes hold, `n` bytes each. -/
def unpack (n : Nat) : Nat → List Byte → List Nat
  | 0, _ => []
  | k + 1, bs => ofBytes (bs.take n) :: unpack n k (bs.drop n)

/-- A map of the values that are not zero. -/
def mapOf (xs : List Nat) : SMap Nat := (xs.zipIdx.filter fun x => x.1 != 0).map fun x => (x.2, x.1)

/-- A warp takes its v, k and p registers from its bytes. -/
def Warp.loadBytes (w : Warp) (vs us : List Byte) : Warp :=
  let ps := (unpack 4 48 (us.drop 512)).zipIdx
  { w with
    v := (mapOf (unpack 4 2048 vs)).map fun x => (x.1, BitVec.ofNat 32 x.2)
    k := ((mapOf (unpack 8 64 us)).filter fun x => x.1 != 0).map fun x => (x.1, BitVec.ofNat 64 x.2)
    p := ps.flatMap fun x => (lanes.filter fun l => bitAt x.1 l).map fun l => (x.2 * 32 + l, true) }

/-- The registers, scratchpads and accumulator tiles of a core's image are taken from its segments: the image with its tiles. -/
def State.loadImage (s : State) (c : Nat) (m : CoreImage) : State × CoreImage :=
  let get (kind : Nat) : List Byte := s.kindBytes c m kind 2560 0
  let (vs, us, sp, ac) := (get 2, get 3, get 4, get 5)
  let ulen := Warp.idle.uregBytes.length
  let s := ((s.imageWarps c m.core).zipIdx).foldl (fun s e =>
    s.modWarp e.1.1 fun w => w.loadBytes (vs.drop (8192 * e.2)) (us.drop (ulen * e.2))) s
  let s := ((s.imageSides c m.core).foldl (fun (x : State × List Byte) e =>
    let n := x.1.splOf e.1
    let mem : Memory := (((x.2.take n).zipIdx).filter fun b => b.1 != 0).map fun b => (b.2, b.1)
    (x.1.setGroup e.1 ((x.1.groupAt e.1).setSide e.2 mem), x.2.drop n)) (s, sp)).1
  let tiles := (List.range (s.gridAt m.grid).ds.acc).filterMap fun t =>
    let ws := (unpack 4 4096 (ac.drop (16384 * t))).map (BitVec.ofNat 32)
    if ws.all (· == 0) then none else some (t, ws)
  (s, { m with acc := tiles })

end Sys2Proof.Machine
end

