-- ==== Sys2Proof/Machine/Context.lean ====
section
/-! DEFINITION. Contexts: registers, pre-emption, saving, restoring, the watchdog, fencing and partitions (R275, R338, R339, R366 to R369, R382, R385, R400 to R407, R425). -/

namespace Sys2Proof.Machine

/-- clk in a number of microseconds at 1.8 GHz (R4). -/
def clkOfUs (us : Nat) : Nat := us * 1800

/-- The grids of a context. -/
def State.gridsOf (s : State) (c : Nat) : List Nat := (s.grids.filter fun e => e.2.ctx == c).map Prod.fst

/-- The groups of a context. -/
def State.ctxGroups (s : State) (c : Nat) : List Nat := (s.groups.filter fun e => (s.gridAt e.2.grid).ctx == c).map Prod.fst

/-- The warps of a context, handler waves and routines included. -/
def State.ctxWarps (s : State) (c : Nat) : List Nat := (s.warps.filter fun e => (s.gridAt (s.groupAt e.2.grp).grid).ctx == c).map Prod.fst

/-- Change a context. -/
def State.modCtx (s : State) (c : Nat) (f : Ctx → Ctx) : State := s.setCtx c (f (s.ctxAt c))

/-- CTXST (Table 19.2). -/
def Ctx.st (c : Ctx) : Nat :=
  (if c.draining then 1 else 0) + (if c.saving then 2 else 0) + (if c.saved then 4 else 0) + (if c.incomplete then 8 else 0) + (if c.restoring then 16 else 0)

/-! ### Requests (R400, R406, Table 19.11) -/

/-- A request for pre-emption by the state of the context; `fence` says that a fence makes it. -/
def State.requestSave (s : State) (c : Nat) (fence : Bool) : State :=
  let x := s.ctxAt c
  if x.restoring then s.setCtx c { x with heldPrq := true, forFence := x.forFence || fence }
  else if x.draining ∨ x.saving then s.setCtx c { x with forFence := x.forFence || fence }
  else if x.saved then s
  else s.setCtx c { x with draining := true, incomplete := false, prqAt := s.clk, forFence := fence }

/-- A request for a restore by the state of the context. -/
def State.requestRestore (s : State) (c : Nat) : State :=
  let x := s.ctxAt c
  if x.saved ∧ !(x.draining || x.saving || x.restoring) then (s.setCtx c { x with restoring := true }).stage c
  else s.raiseErr ⟨0x000B, 1, c, 0, 0xFFFFFFFF, 1, 0, x.st⟩

/-- CTXCTL_PRQ (R406). -/
def execCtxctlPrq (c : Nat) (s : State) : Out := .next (s.bar (if 64 ≤ c then s else s.requestSave c false))

/-- CTXCTL_RSQ (R406). -/
def execCtxctlRsq (c : Nat) (s : State) : Out := .next (s.bar (if 64 ≤ c then s else s.requestRestore c))

/-- TRRES_WRITE (R385): the host has written DISP of a record it holds, and releases it. -/
def execTrresWrite (c idx : Nat) (s : State) : Out :=
  let x := s.ctxAt c
  .next (s.bar <| match x.live.find? fun r => r.idx == idx && !r.served with
    | none => s
    | some r =>
      match s.peekVa c (x.trbase * 64 + 64 * idx + 27) 1 with
      | .ok b =>
        match RftMode.ofNat? (fieldAt b 0 1 % 4) with
        | some m => s.disposeThread r.warp r.lane m idx false
        | none => s
      | .error _ => s)

/-- CTXPASID_WRITE (R382): a PASID bound to another context keeps the register as it is. -/
def execCtxpasidWrite (c v : Nat) (s : State) : Out :=
  let b := bitAt v 31
  let p := fld v 0 20
  .next (s.bar (if 64 ≤ c ∨ (b ∧ s.ctxs.any fun e => e.1 != c && e.2.bound && e.2.pasid == p) then s
    else s.modCtx c fun x => { x with bound := b, pasid := p }))

/-! ### Saving (R401 to R404) -/

/-- PREEMPT_DEADLINE (R400): step 2 begins at PDL, or once no group of the context is left. -/
def execPreemptDeadline (c : Nat) (s : State) : Out :=
  let x := s.ctxAt c
  .next (if x.draining ∧ !x.saving ∧ ((s.ctxGroups c).isEmpty ∨ x.prqAt + clkOfUs x.pdl ≤ s.clk) then
      s.setCtx c { x with saving := true, saveAt := s.clk }
    else s)

/-- Whether a warp issues nothing more: it has no open run, or stands in a group that waits (R401). -/
def Warp.stopped (w : Warp) : Bool := w.halted || w.ended || (!w.inRun && w.todo.isEmpty)

/-- Whether everything of a context has stopped: warps and handler waves at their run ends, routines at their ends (R338),
issued accesses performed, claims answered, slice loads pushed (R401). -/
def State.allHalted (s : State) (c : Nat) : Bool :=
  let hs := s.ctxWarps c
  let gs := s.ctxGroups c
  hs.all (fun h =>
    let w := s.warpAt h
    w.kind != .surrender && w.stopped && w.slice.issued.isEmpty) &&
  !(s.adds.any fun r => gs.contains r.grp) &&
  !(s.tiles.any fun e => e.2.queue.any fun q => match q with
    | .claim k => gs.contains k.grp
    | .access r => gs.contains r.grp)

/-- The cores that hold groups of a context. -/
def State.ctxCores (s : State) (c : Nat) : List Nat := sortNat ((s.ctxGroups c).flatMap fun g => (s.groupAt g).cores).eraseDups

/-- Fill incomplete of every channel (R254): a saved image records the fill in flight, of a cpym or a cpy, and a restore goes on with it. -/
def Group.markFills (g : Group) (cut : Bool) : Group :=
  let mark (c : Chan) : Chan := { c with fillInc := cut && !c.copies.isEmpty }
  { g with chans := g.chans.map fun (e : Nat × Chan) => (e.1, mark e.2), chansF := g.chansF.map fun (e : Nat × Chan) => (e.1, mark e.2) }

/-- SEGMENT_CUT (R401 to R403): every core's state is cut into its image, whose segments go to the core's shadow store and, past its slots, to memory; warps, groups and held tiles are out of their cores, incomplete preqs complete (R198). -/
def execSegmentCut (c : Nat) (s : State) : Out :=
  let x := s.ctxAt c
  .next (if !x.saving ∨ x.image.isSome ∨ !s.allHalted c then s
    else
      let hs := s.ctxWarps c
      let gs := s.ctxGroups c
      let cores := s.ctxCores c
      let logical := s.logical c
      let images := cores.map fun k =>
        let y := s.coreAt k
        ({ core := k, logical := logical.idxOf k, grid := y.grid.getD 0, part := y.part, acc := y.acc
           matq := y.matq.filter fun o => hs.contains o.warp, handler := y.handler.filter hs.contains } : CoreImage)
      let s := images.foldl (fun s m => s.storeImage c m) s
      let preqs := s.cores.flatMap fun e => e.2.preqs.filter fun q => hs.contains q.warp
      let s := preqs.foldl (fun s q => s.preqDone q) s
      let s := { s with
        warps := s.warps.map fun (e : Nat × Warp) => if hs.contains e.1 then (e.1, { e.2 with halted := true, readySince := none }) else e
        grids := s.grids.map fun (e : Nat × Grid) => if e.2.ctx = c then (e.1, { e.2 with saved := true }) else e
        groups := s.groups.map fun (e : Nat × Group) => if gs.contains e.1 then (e.1, e.2.markFills true) else e
        dies := s.dies.map fun (e : Nat × Die) => (e.1, { e.2 with
          gathers := e.2.gathers.filter fun g => (s.gridAt g.grid).ctx != c, waves := e.2.waves.filter fun g => (s.gridAt g.grid).ctx != c })
        cores := s.cores.map fun (e : Nat × Core) =>
          let y := { e.2 with
            slots := e.2.slots.filter fun h => !hs.contains h
            handler := e.2.handler.filter fun h => !hs.contains h
            preqs := e.2.preqs.filter fun q => !hs.contains q.warp
            tslots := e.2.tslots.filter fun t => !((SMap.find s.tiles t.2).any fun (x : TileEntry) => gs.contains x.hold.grp && x.hold.core == e.1 && x.hold.slot == t.1)
            lanes := if e.2.lanesCtx = c then [] else e.2.lanes }
          (e.1, if cores.contains e.1 then { y with grid := none, part := 0, acc := [], matq := [] } else y) }
      s.modCtx c fun x => { x with image := some ⟨images⟩ })

/-- The watchdogs of a context's queues stop when every grid they time is saved (R369). -/
def State.stopTimers (s : State) (c : Nat) : State :=
  ((s.gridsOf c).map fun g => (s.gridAt g).queue).eraseDups.foldl (fun s q =>
    if s.grids.any fun e => e.2.queue == q && !e.2.saved then s
    else s.setQueue q { s.queueAt q with wdSince := none, wdStep := 0 }) s

/-- SAVE_COMPLETE (R404, R368): the image is whole; a save that a fence asked for is restored at once. -/
def execSaveComplete (c : Nat) (s : State) : Out :=
  let x := s.ctxAt c
  .next (if x.saving ∧ x.image.isSome then
      (s.setCtx c { x with saving := false, draining := false, saved := true, restoring := x.forFence, forFence := false }).stopTimers c
    else s)

/-- The tile of a holder that is lost with one of its cores: a forced surrender of cause 6, and the sectors that the holder's cores alone held are lost (R229, R339). -/
def State.loseTile (s : State) (t : Nat) : State :=
  match SMap.find s.tiles t with
  | none => s
  | some e =>
    let runs := (s.groupAt e.hold.grp).cores.flatMap fun k => ((s.aloneRuns k).filter fun r => e.frames.contains r.1).map fun r => (k, r)
    runs.foldl (fun s r => s.loseRun (some (coreDie r.1)) r.2.1 r.2.2.1 r.2.2.2) (s.forceSurrender t 6)

/-- A save or a restore has failed: the image is incomplete and the context's grids are killed (R404, R405).
A tile of which a core of the holder has been fenced goes with the holder (R339). -/
def State.failImage (s : State) (c : Nat) : State :=
  let lost := (s.tiles.filter fun e => (s.ctxGroups c).contains e.2.hold.grp && (s.groupAt e.2.hold.grp).cores.any fun k => !s.coreEnabled k).map Prod.fst
  let s := lost.foldl State.loseTile s
  let s := s.modCtx c fun x => { x with incomplete := true, saved := false, saving := false, draining := false, restoring := false, image := none, heldPrq := false, forFence := false }
  let s := s.dropShadow c
  (s.gridsOf c).foldl (fun s g => s.killGrid g 5 0 0) s

/-- SAVE_DEADLINE (R404). -/
def execSaveDeadline (c : Nat) (s : State) : Out :=
  let x := s.ctxAt c
  .next (if x.saving ∧ x.image.isNone ∧ x.saveAt + clkOfUs x.sdl ≤ s.clk then s.failImage c else s)

/-! ### Restoring (R405) -/

/-- The groups of a core image. -/
def State.imageGroups (s : State) (c : Nat) (k : Nat) : List Nat := (s.ctxGroups c).filter fun g => (s.groupAt g).cores.contains k

/-- Tiles held through a core by groups of a context. -/
def State.imageTiles (s : State) (c : Nat) (k : Nat) : List Nat :=
  (s.tiles.filter fun e => e.2.hold.core == k && (s.ctxGroups c).contains e.2.hold.grp).map Prod.fst

/-- Whether an image may go to a core: an empty one, or, with no tiles of its own, one that already takes images of its grid with room (R361, R405).
`to_` holds the core and the groups of each image placed so far. -/
def State.imageFits (s : State) (c : Nat) (m : CoreImage) (to_ : SMap Nat) (dst : Nat) : Bool :=
  let x := s.gridAt m.grid
  let here := (to_.filter fun e => e.2 == dst).map (·.1)
  let n := (here.map fun k => (s.imageGroups c k).length).sum
  let tiles := (here.map fun k => (s.imageTiles c k).length).sum + (s.imageTiles c m.core).length
  s.coreEnabled dst && s.inPartition c (dst / 8) && s.residents dst == 0 && decide (tiles + (s.coreAt dst).tslots.length ≤ 8) &&
  (here.isEmpty || (x.ds.acc == 0 && decide (n + (s.imageGroups c m.core).length ≤ x.ds.perCore) && here.all fun k =>
    (s.imageGroups c k).all fun g => (s.groupAt g).grid == m.grid))

/-- Choose a core for every image, a pair for a paired one; none where one finds no place yet. -/
def State.placeImages (s : State) (c : Nat) : List CoreImage → SMap Nat → Option (SMap Nat)
  | [], to_ => some to_
  | m :: rest, to_ =>
    if (SMap.find to_ m.core).isSome then s.placeImages c rest to_
    else
      let paired := (s.gridAt m.grid).ds.paired
      let cands := (s.clusters c).flatMap (s.units paired)
      match cands.find? fun d => s.imageFits c m to_ d && (!paired || s.imageFits c { m with core := m.core + 1 } to_ (d + 1)) with
      | none => none
      | some d => s.placeImages c rest (if paired then SMap.put (SMap.put to_ m.core d) (m.core + 1) (d + 1) else SMap.put to_ m.core d)

/-- Put a tile that its holder still has into a free slot of the holder's core (R338). -/
def State.reslot (s : State) (t : Nat) : State :=
  match SMap.find s.tiles t with
  | none => s
  | some e =>
    let free := if (SMap.find (s.coreAt e.hold.core).tslots e.hold.slot).isNone then some e.hold.slot else s.freeSlot e.hold.core
    match free with
    | none => s
    | some i =>
      (s.setTile t { e with hold := { e.hold with slot := i }, delay := if e.delay = some noGroup then none else e.delay }).modCore e.hold.core fun k =>
        { k with tslots := SMap.put k.tslots i t }

/-- Start handler waves again in free handler contexts of their origins' dies; none where one finds no context yet. -/
def State.rewave (s : State) (c : Nat) : List Nat → Option State
  | [] => some s
  | h :: rest =>
    let die := match (s.warpAt h).origins with
      | (_, o) :: _ => coreDie (s.warpAt o.warp).core
      | [] => 0
    match s.handlerCore c die with
    | none => none
    | some k => ((s.modWarp h fun w => { w with core := k }).modCore k fun x => { x with handler := some h }).rewave c rest

/-- Give the normal warps of a context warp contexts on their new cores; the restore removes the marks of completed instructions (R62). The word at which it resumes a strand
starts a run, from which the words of the run count (R39); the strand is the one that was running, since strands form anew at run ends only (R54). -/
def State.recontext (s : State) (hs : List Nat) : State :=
  hs.foldl (fun s h => s.modWarp h fun w =>
    { w.redeem w.settledMarks with slotNo := if w.kind = .normal then s.freeContext w.core else w.slotNo, halted := false, runWords := 0 }) s

/-- Threads dispatched to a handler that no wave serves yet, gathered again. -/
def State.regather (s : State) (c : Nat) : State :=
  (s.ctxAt c).live.foldl (fun s r =>
    if r.served ∧ !(s.warps.any fun e => e.2.kind == .handler && e.2.origins.any fun o => o.2.warp == r.warp && o.2.lane == r.lane) then s.joinWave r.warp r.lane r.idx
    else s) s

/-- Put the images of a context on the cores chosen: registers, scratchpads and accumulator tiles come from the segments (R405). -/
def State.putImages (s : State) (c : Nat) (images : List CoreImage) (to_ : SMap Nat) : Option State :=
  let hs := s.ctxWarps c
  let gs := s.ctxGroups c
  let mv (k : Nat) : Nat := (SMap.find to_ k).getD k
  let tiles := (s.tiles.filter fun e => gs.contains e.2.hold.grp).map Prod.fst
  let handlers := hs.filter fun h => (s.warpAt h).kind == .handler
  let (s, images) := images.foldl (fun (x : State × List CoreImage) m => let y := x.1.loadImage c m; (y.1, x.2 ++ [y.2])) (s, [])
  let s := { s with
    warps := s.warps.map fun (e : Nat × Warp) => if hs.contains e.1 ∧ e.2.kind = .normal then (e.1, { e.2 with core := mv e.2.core }) else e
    groups := s.groups.map fun (e : Nat × Group) => if gs.contains e.1 then (e.1, { e.2.markFills false with core := mv e.2.core, follower := e.2.follower.map mv }) else e
    grids := s.grids.map fun (e : Nat × Grid) => if e.2.ctx = c then (e.1, { e.2 with saved := false }) else e
    tiles := s.tiles.map fun (e : Nat × TileEntry) => if gs.contains e.2.hold.grp then (e.1, { e.2 with hold := { e.2.hold with core := mv e.2.hold.core } }) else e }
  let s := images.foldl (fun s m => s.modCore (mv m.core) fun k =>
    { k with grid := some m.grid, part := m.part, acc := m.acc, matq := k.matq ++ m.matq }) s
  let s := tiles.foldl State.reslot s
  match s.rewave c handlers with
  | none => none
  | some s => some ((s.recontext hs).regather c)

/-- RESTORE_COMPLETE (R405, R406): a broken image fails; a good one is placed as soon as every core image has a place, and a held request then begins. -/
def execRestoreComplete (c : Nat) (s : State) : Out :=
  let x := s.ctxAt c
  .next (if !x.restoring then s
    else match x.image with
      | none => s.failImage c
      | some im =>
        if !s.imageOk c im then s.failImage c
        else match s.placeImages c im.cores [] with
          | none => s
          | some to_ =>
            match s.putImages c im.cores to_ with
            | none => s
            | some s =>
              let s := s.modCtx c fun x => { x with saved := false, restoring := false, image := none, heldPrq := false }
              let s := s.dropShadow c
              let s := ((s.gridsOf c).map fun g => (s.gridAt g).queue).eraseDups.foldl State.restartTimer s
              if x.heldPrq then s.requestSave c x.forFence else s)

/-! ### Fencing (R275, R366, R368, R425) -/

/-- The grid-residency fault of every warp that waits at the grid barrier (R275), in the order in which its threads came to wait (R409). -/
def State.residencyFault (s : State) (grid : Nat) : State :=
  let s := s.modGrid grid fun x => { x with residFault := true }
  let hs := (s.warpsOf grid).filter fun h => (s.warpAt h).gbarWait != 0
  hs.foldl (fun s h => s.modWarp h fun w =>
    let ls := (w.gbarPc.map Prod.fst).filter w.gbarWait.getLsbD
    let stop (l : Nat) : Stop :=
      let pc := SMap.get 0 w.gbarPc l
      { lane := l, cause := 0x09, detail := 0, pc := pc, resume := pc, skip := pc + 4, ea := 0, aux := 0, copy := none, seq := w.seqNo, note := none, late := none
        mask := maskOf ((lanesOf w.gbarWait).filter fun m => SMap.get 0 w.gbarPc m == pc), axf := w.rdAxf l, dispatched := false, recIdx := 0 }
    { w with
      stops := w.stops ++ ls.map stop
      pcs := (lanesOf w.gbarWait).foldl (fun m l => SMap.put m l (SMap.get 0 w.gbarPc l)) w.pcs
      gbarArr := w.gbarArr &&& ~~~ w.gbarWait, gbarWait := 0, gbarPc := []
      park := match w.park with
        | some p => if p.on = .grid then none else w.park
        | none => none }) s

/-- Persistent grids whose residency has shrunk below what they were launched with (R275, R368). -/
def State.shrunk (s : State) : List Nat :=
  (s.grids.filter fun e => e.2.ds.persist && e.2.st != .ending && !e.2.killed && !e.2.residFault && decide (s.residency e.2.ctx e.2.pk.gang e.2.ds < e.2.resid)).map Prod.fst

/-- Unstarted gangs in the range of a cluster are dealt again (R368). -/
def State.redeal (s : State) (k : Nat) : State :=
  { s with grids := s.grids.map fun (e : Nat × Grid) =>
      let l := SMap.get [] e.2.ranges k
      let ks := s.clusters e.2.ctx
      if l.isEmpty ∨ ks.all fun c => (s.units e.2.ds.paired c).isEmpty then e
      else (e.1, { e.2 with ranges := s.dealTo e.2.ds.paired ks l (SMap.put e.2.ranges k []) }) }

/-- The fenced bits of a unit's cores are set, and the table version rises, as at every fence (R30, R366). -/
def State.fenceTables (s : State) (cores : List Nat) : State :=
  let s := cores.foldl (fun s c => s.setDie (coreDie c) (let d := s.dieAt (coreDie c); { d with fenced := d.fenced ||| 2 ^ (c % 96) })) s
  s.modMgmt fun m => { m with version := (m.version + 1) % 65536 }

/-- The contexts with work on some cores: groups, handler waves and routines, those included that a save in progress has halted (R368, R407). -/
def State.ctxsOn (s : State) (cores : List Nat) : List Nat :=
  ((s.warps.filter fun e => cores.contains e.2.core && (!e.2.halted || (s.ctxAt (s.ctxOf e.1)).saving)).map fun e => s.ctxOf e.1).eraseDups

/-- Whether a fence has to wait for a save or a restore of a context it affects (R407). -/
def State.fenceWaits (s : State) (cores : List Nat) : Bool :=
  (s.ctxsOn cores).any fun c => let x := s.ctxAt c; x.draining || x.saving || x.restoring

/-- What a fence does to a unit of cores, the tables first; the contexts on it are saved and restored elsewhere, and the sectors that its caches held alone are lost (R229, R368, Table 22.6). -/
def State.fenceCores (s : State) (u : FUnit) (code unit : Nat) : State :=
  let cores := unitCores u
  let on := s.ctxsOn cores
  let s := s.fenceTables cores
  let s := s.raiseErr ⟨0x0009, 2, 0xFF, 0, unit, code, 0, s.mgmt.version⟩
  let s := on.foldl (fun s c => s.requestSave c true) s
  let s := (cores.map (· / 8)).eraseDups.foldl State.redeal s
  (unitAgents u).foldl State.agentGone (s.shrunk.foldl State.residencyFault s)

/-- A lane of a port has failed (R419): the spare takes its place, or the port narrows to 4 lanes. A host port of 16 lanes trains down to 8 (R417, log 3). -/
def State.loseLane (s : State) (port : Nat) : State :=
  let p := SMap.get (Port.start port) s.ports port
  let to_ := if port < 16 then 4 else 8
  if p.spare then { s with ports := SMap.put s.ports port { p with spare := false } }
  else if to_ < p.lanes then
    let s := { s with ports := SMap.put s.ports port { p with lanes := to_ } }
    if port < 16 then s.raiseErr ⟨0x0008, 0, 0xFF, 0, 0x30000 + port, to_, 0, 0⟩ else s
  else s

/-- Fence a unit now (Table 22.6): of an HBM row or bank what can be read is copied to the spare, and the sectors that cannot are lost. -/
def State.fenceNow (s : State) (u : FUnit) : State :=
  match u with
  | .core n => s.fenceCores u 0 n
  | .cluster n => s.fenceCores u 1 (n * 8)
  | .die n => s.fenceCores u 2 (0x10000 + n)
  | .hbm die _ frames =>
    let gone (f : Nat) : List (Nat × Nat) := runsOf ((secsOf 0 63).filter fun i => Config.hbmUnreadable (f * 64 + i))
    let s := frames.foldl (fun s f => (gone f).foldl (fun s r => s.loseRun none f r.1 r.2) s) (s.fenceTables [])
    s.raiseErr ⟨0x0009, 2, 0xFF, 0, 0x20000 + die, 3, 0, s.mgmt.version⟩
  | .lane port _ =>
    let s := (s.fenceTables []).loseLane port
    s.raiseErr ⟨0x0009, 2, 0xFF, 0, 0x30000 + port, 4, 0, s.mgmt.version⟩

/-- Whether a management command is accepted: within the secure session while one exists (R423). -/
def State.accepts (s : State) (sec : Bool) : Bool := !s.mgmt.session || sec

/-- Cores a unit names that exist. -/
def unitOk (u : FUnit) : Bool :=
  match u with
  | .core n => decide (n < 2304)
  | .cluster n => decide (n < 288)
  | .die n => decide (n < 24)
  | .hbm d _ _ => decide (d < 8)
  | .lane p _ => decide (p < 16)

/-- A fence of a unit: it waits while a context that it affects is being saved (R425). -/
def State.fence (s : State) (u : FUnit) : State :=
  if s.fenceWaits (unitCores u) then
    if s.mgmt.fences.contains u then s else s.modMgmt fun m => { m with fences := m.fences ++ [u] }
  else (s.modMgmt fun m => { m with fences := m.fences.filter (· != u) }).fenceNow u

/-- FENCE_UNIT (R407, R425). -/
def execFenceUnit (sec : Bool) (u : FUnit) (s : State) : Out := .next (if !s.accepts sec ∨ !unitOk u then s else s.fence u)

/-- A core that has failed takes its groups with it: their tiles are surrendered, their grids killed, what its shadow store holds is lost (R339, R368, R403, R405, R407). -/
def State.loseCores (s : State) (cores : List Nat) : State :=
  let gs := (s.groups.filter fun e => e.2.cores.any cores.contains && !(s.gridAt e.2.grid).saved).map Prod.fst
  let waves := (s.warps.filter fun e => e.2.kind == .handler && cores.contains e.2.core && !e.2.halted).map fun e => (s.groupAt e.2.grp).grid
  let tiles := (s.tiles.filter fun e => gs.contains e.2.hold.grp).map Prod.fst
  let s := tiles.foldl (fun s t => s.forceSurrender t 6) s
  let s := ((gs.map fun g => (s.groupAt g).grid) ++ waves).eraseDups.foldl (fun s g => s.killGrid g 6 0 0) s
  { s with shadow := s.shadow.filter fun (e : Nat × Shadow) => !cores.contains e.1 }

/-- AGENT_FAILURE (R229, R339, R368): sectors that the unit alone held are lost, and so are the groups on it. -/
def execAgentFailure (u : FUnit) (s : State) : Out :=
  .next ((unitAgents u).foldl State.agentGone (s.loseCores (unitCores u)))

/-! ### The watchdog (R369) -/

/-- Cycles since a queue's timer started, at a step. -/
def State.wdDue (s : State) (q step ms : Nat) : Bool :=
  let x := s.queueAt q
  match x.wdSince with
  | none => false
  | some t => x.wdStep == step && decide (t + ms * 1800000 ≤ s.clk)

/-- PRE of QWD (Table 17.7). -/
def Queue.pre (q : Queue) : Nat := fld q.qwd 0 12
/-- KILL of QWD. -/
def Queue.kill (q : Queue) : Nat := fld q.qwd 12 10
/-- FENCE of QWD. -/
def Queue.fence (q : Queue) : Nat := fld q.qwd 22 10

/-- The grids that a queue's watchdog acts on: those that run (R369). -/
def State.queueGrids (s : State) (q : Nat) : List Nat := (s.grids.filter fun e => e.2.queue == q && e.2.st != .held && !e.2.saved).map Prod.fst

/-- WATCHDOG_PREEMPT (R369, step 1). -/
def execWatchdogPreempt (q : Nat) (s : State) : Out :=
  let x := s.queueAt q
  .next (if x.pre = 0 ∨ !s.wdDue q 0 x.pre then s
    else
      let s := s.setQueue q { x with wdStep := 1 }
      ((s.queueGrids q).map fun g => (s.gridAt g).ctx).eraseDups.foldl (fun s c => s.requestSave c false) s)

/-- WATCHDOG_KILL (R369, step 2): a save in progress defers it (Table 19.10). -/
def execWatchdogKill (q : Nat) (s : State) : Out :=
  let x := s.queueAt q
  .next (if x.kill = 0 ∨ !s.wdDue q 1 (x.pre + x.kill) ∨ ((s.queueGrids q).any fun g => (s.ctxAt (s.gridAt g).ctx).saving) then s
    else
      let s := s.setQueue q { x with wdStep := 2 }
      (s.queueGrids q).foldl (fun s g => s.killGrid g 1 0 0) s)

/-- WATCHDOG_FENCE (R369, step 3): every core that still runs a warp of a killed grid of the queue is fenced. -/
def execWatchdogFence (q : Nat) (s : State) : Out :=
  let x := s.queueAt q
  .next (if x.fence = 0 ∨ !s.wdDue q 2 (x.pre + x.kill + x.fence) then s
    else
      let s := s.setQueue q { x with wdStep := 3 }
      let cores := ((s.warps.filter fun e => let g := s.gridAt (s.groupAt e.2.grp).grid; g.killed && g.queue == q).map fun e => e.2.core).eraseDups
      cores.foldl (fun s c => s.fence (.core c)) s)

/-! ### Partitions, domains, communicators (R257, R354, R367, R423) -/

/-- ASSIGN_PARTITION (R367): refused where it overlaps another or the context is busy. -/
def execAssignPartition (sec : Bool) (c mask : Nat) (s : State) : Out :=
  let x := s.ctxAt c
  let m := mask % 2 ^ 288
  .next (if !s.accepts sec ∨ 64 ≤ c ∨ (s.ctxs.any fun e => e.1 != c && (e.2.partition &&& m) != 0) ∨ !(s.gridsOf c).isEmpty ∨ x.image.isSome then s
    else
      let s' := s.setCtx c { x with partition := m }
      if m = x.partition then s' else s'.modMgmt fun y => { y with version := (y.version + 1) % 65536 })

/-- ASSIGN_DOMAIN (R354, R423). -/
def execAssignDomain (sec : Bool) (dom c : Nat) (s : State) : Out :=
  .next (if !s.accepts sec ∨ 64 ≤ dom ∨ 64 ≤ c then s else s.modDom dom fun d => { d with owner := some c })

/-- SET_COMMUNICATOR (R257): an entry of the table of 256 is set up, both counts at 0 (R258).
DESIGN CHOICE (log 80): a command with a rank count outside 1 to 512, or a rank beyond it, changes nothing. -/
def execSetCommunicator (sec : Bool) (comm ranks rank : Nat) (s : State) : Out :=
  .next (if !s.accepts sec ∨ 256 ≤ comm ∨ ranks = 0 ∨ 512 < ranks ∨ ranks ≤ rank then s
    else s.modComm comm fun _ => { ranks := ranks, rank := rank, issued := 0, completed := 0 })

/-- The size of a lost page: that of the tier of a leaf that maps it, 4 KiB where none does (R231, Table 8.6; log 66). -/
def State.lostSize (s : State) (page : Nat) : Nat :=
  match s.pageLeaf page with
  | some e => tierSize (pteTier e)
  | none => 4096

/-- RETURN_LOST_PAGE (R231, R423): the page is zero-filled and leaves the list. -/
def execReturnLostPage (sec : Bool) (page : Nat) (s : State) : Out :=
  .next (if !s.accepts sec ∨ !s.lostPages.contains page then s
    else
      let size := s.lostSize page
      let s := s.writeThrough page (List.replicate size 0)
      { s with
        lostPages := s.lostPages.filter (· != page)
        lost := s.lost.filter fun x => !(decide (page ≤ x * 32) && decide (x * 32 < page + size)) })

end Sys2Proof.Machine
end

