-- ==== Sys2Proof/Machine/System.lean ====
section
/-! DEFINITION. Management registers, start-up, attestation, power and time, links, error ring, streams and host accesses (R28, R286, R396, R416 to R426). -/

namespace Sys2Proof.Machine

/-! ### BAR 0 (R6, R345, R382, R416, R421, R426) -/

/-- PWRLIM after a write (Table 22.1). -/
def clampPower (v : Nat) : Nat := min 4000 (max 1600 (v % 4096))

/-- PWRLIM_WRITE (R416). -/
def execPwrlimWrite (v : Nat) (s : State) : Out := .next (s.modMgmt fun m => { m with pwrlim := clampPower v })

/-- SET_POWER_LIMIT (R423). -/
def execSetPowerLimit (sec : Bool) (v : Nat) (s : State) : Out :=
  .next (if s.accepts sec then s.modMgmt fun m => { m with pwrlim := clampPower v } else s)

/-- ERRACK after a write: one that would pass ERRHEAD is ignored; held records are then written (R426). -/
def State.setErrAck (s : State) (v : Nat) : State :=
  let m := s.mgmt
  let v := v % 2 ^ 32
  if sub32 v m.errAck ≤ sub32 m.errHead m.errAck then (s.modMgmt fun m => { m with errAck := v }).flushErrs m.errBuf.length else s

/-- ERRACK_WRITE (R426). -/
def execErrackWrite (v : Nat) (s : State) : Out := .next (s.bar (s.setErrAck v))

/-- ERRBASE after a write; held records are written once EN is set (R426). -/
def State.setErrBase (s : State) (v : Nat) : State :=
  let n := fld v 1 5
  (s.modMgmt fun m => { m with errBase := fld v 12 52, errLogn := if 6 ≤ n ∧ n ≤ 16 then n else 6, errEn := bitAt v 0 }).flushErrs s.mgmt.errBuf.length

/-- ERRBASE_WRITE (R426). -/
def execErrbaseWrite (v : Nat) (s : State) : Out := .next (s.bar (s.setErrBase v))

/-- What the host reads next goes to the list of values it has read. -/
def State.hostRead (s : State) (x : Nat) : State := s.modMgmt fun m => { m with hostReads := m.hostReads ++ [x] }

/-- ERRLOST_READ (R426): the count is returned and cleared. -/
def execErrlostRead (s : State) : Out :=
  .next (s.bar ((s.hostRead s.mgmt.errLost).modMgmt fun m => { m with errLost := 0 }))

/-- ERROR_RECORD (R426): a unit raises a record of a type of Table 22.9; no other is ever written. -/
def execErrorRecord (r : ErrRec) (s : State) : Out := .next (if 1 ≤ r.type ∧ r.type ≤ 0x0C then s.raiseErr r else s)

/-- The part of an old value that a write of `size` bytes at byte `at_` of a register replaces. -/
def merge (old at_ size v : Nat) : Nat :=
  old % 2 ^ (8 * at_) + v % 2 ^ (8 * size) * 2 ^ (8 * at_) + old / 2 ^ (8 * (at_ + size)) * 2 ^ (8 * (at_ + size))

/-- LOGN of a ring register: values outside its range read back as the reset value. -/
def logn (v lo reset : Nat) : Nat := if lo ≤ v ∧ v ≤ 16 then v else reset

/-- The Revision ID in the configuration header of each PCI Express function (R1). -/
def pciRevisionId (_function : Nat) : Nat := 0x21

/-- A configuration request for the Revision ID: until start-up is over it is answered with Configuration Request Retry Status, here none (R1, R420).
DEDUCED (log 70): in recovery state, where the port still presents CXL.io (R421), it is answered. -/
def State.configRevision (s : State) (function : Nat) : Option Nat :=
  match s.mgmt.boot with
  | .starting _ => none
  | _ => some (pciRevisionId function)

/-- INV (Table 22.1). -/
def State.inv (s : State) : Nat :=
  let cores := ((List.range 24).map fun d => popCount 96 (s.dieAt d).enabled).sum
  (if s.mgmt.secure then 1 else 0) + 3 * 2 ^ 16 + pciRevisionId 0 * 2 ^ 24 + cores % 65536 * 2 ^ 32

/-- ERRBASE (Table 22.7). -/
def Mgmt.errBaseReg (m : Mgmt) : Nat := m.errBase * 4096 + m.errLogn * 2 + (if m.errEn then 1 else 0)

/-- Offset of the block of the queues, and of the contexts, in BAR 0 (R345, R382). -/
def queueBlock : Nat := 0x100000
/-- Offset of the blocks of the contexts. -/
def ctxBlock : Nat := 0x200000

/-- Bytes of the register that begins at an offset of BAR 0; 0 where none does (Tables 17.1, 19.2, 22.1, 22.7). -/
def regWidth (a : Nat) : Nat :=
  if a < 0x1000 then (match a with
    | 0x00 => 8
    | 0x08 => 4
    | 0x10 => 8
    | 0x18 => 4
    | 0x1C => 4
    | 0x20 => 4
    | _ => 0)
  else if queueBlock ≤ a ∧ a < queueBlock + 0x4000 then
    let o := (a - queueBlock) % 256
    if o = 0 ∨ o = 4 ∨ o = 8 then 4
    else if o < 0x10 ∨ 0x50 ≤ o then 0
    else (match o % 16 with
      | 0 => 8
      | 8 => 4
      | 12 => 4
      | _ => 0)
  else if ctxBlock ≤ a ∧ a < ctxBlock + 0x1000 then (match (a - ctxBlock) % 64 with
    | 0x00 => 8
    | 0x08 => 4
    | 0x0C => 4
    | 0x10 => 4
    | 0x14 => 4
    | 0x18 => 4
    | 0x1C => 4
    | 0x20 => 8
    | 0x28 => 8
    | 0x30 => 4
    | _ => 0)
  else 0

/-- A register of queue `q` as it reads (Tables 17.1 to 17.3, 17.7, R347). -/
def Queue.reg (x : Queue) (o : Nat) : Nat :=
  let p := (o - 0x10) / 16
  if o = 0 then x.ctx % 64 * 256 + (if x.maint then 2 else 0) + (if x.en then 1 else 0)
  else if o = 4 then (if x.err then 2 ^ 31 else 0) + x.idx * 1024 + x.prio * 256 + x.code
  else if o = 8 then x.qwd
  else (match o % 16 with
    | 0 => SMap.get 0 x.base p + SMap.get 4 x.logn p
    | 8 => x.headOf p
    | _ => x.tailOf p)

/-- A register of a context as it reads: what is write-only reads 0 (R6, Table 19.2). -/
def Ctx.reg (x : Ctx) (o : Nat) : Nat :=
  match o with
  | 0x00 => x.trbase * 64 + x.trlogn
  | 0x08 => x.trhead
  | 0x0C => if x.dbg then 4 else 0
  | 0x10 => x.pdl
  | 0x14 => x.sdl
  | 0x1C => x.st
  | 0x20 => x.savebase * 2 ^ 21
  | 0x28 => x.troot
  | 0x30 => x.pasid + (if x.bound then 2 ^ 31 else 0)
  | _ => 0

/-- The register that begins at an offset of BAR 0, as it reads; in recovery state there is Table 22.1 alone (R421). -/
def State.reg (s : State) (a : Nat) : Nat :=
  let m := s.mgmt
  if a = 0x00 then s.inv
  else if a = 0x08 then m.pwrlim
  else if m.boot = .recovery then 0
  else if a = 0x10 then m.errBaseReg
  else if a = 0x18 then m.errHead
  else if a = 0x1C then m.errAck
  else if a = 0x20 then m.errLost
  else if queueBlock ≤ a ∧ a < queueBlock + 0x4000 then (s.queueAt ((a - queueBlock) / 256)).reg ((a - queueBlock) % 256)
  else if ctxBlock ≤ a ∧ a < ctxBlock + 0x1000 then (s.ctxAt ((a - ctxBlock) / 64)).reg ((a - ctxBlock) % 64)
  else 0

/-- The 16 bytes of a log entry (R420). -/
def BootEntry.bytes (e : BootEntry) : List Byte := toBytes 2 e.step ++ toBytes 2 e.unit ++ toBytes 1 e.result ++ toBytes 3 0 ++ toBytes 8 e.time

/-- The byte at an offset of BAR 0 as the host reads it (R6, R7, R416): the two logs, a register's, or 0. The previous log has all its entries from 0x2000 on, the current one those
that lie before it. Reading ERRLOST also clears it, which ERRLOST_READ does. -/
def State.barByte (s : State) (a : Nat) : Nat :=
  let inLog (l : List BootEntry) (o : Nat) : Nat := ((l.getD (o / 16) ⟨0, 0, 0, 0⟩).bytes.getD (o % 16) 0).toNat
  if 0x1000 ≤ a ∧ a < 0x2000 then inLog s.mgmt.log (a - 0x1000)
  else if 0x2000 ≤ a ∧ a < min queueBlock (max 0x3000 (0x2000 + 16 * s.mgmt.prevLog.length)) then inLog s.mgmt.prevLog (a - 0x2000)
  else
    let r := a / 4 * 4
    if regWidth r ≠ 0 then fld (s.reg r) (8 * (a - r)) 8
    else if 4 ≤ r ∧ regWidth (r - 4) = 8 then fld (s.reg (r - 4)) (8 * (a - (r - 4))) 8
    else 0

/-- What a host read of `size` bytes at an offset of BAR 0 gives. -/
def State.barRead (s : State) (off size : Nat) : Nat := ofBytes ((List.range size).map fun i => BitVec.ofNat 8 (s.barByte (off + i)))

/-- The state after an event that has one. -/
def State.orNext (s : State) : Out → State
  | .next t => t
  | _ => s

/-- A write of a whole register of queue `q` (Tables 17.1 to 17.3, 17.7); writing 1 to ERR clears it (R6, R347). -/
def State.queueWrite (s : State) (q o v : Nat) : State :=
  let x := s.queueAt q
  let p := (o - 0x10) / 16
  if o = 0 then s.orNext (execQctlEnWrite q v s)
  else if o = 4 then (if bitAt v 31 then s.orNext (execQerrErrClear q s) else s)
  else if o = 8 then s.setQueue q { x with qwd := v % 2 ^ 32 }
  else (match o % 16 with
    | 0 => s.setQueue q { x with base := SMap.put x.base p (fld v 12 52 * 4096), logn := SMap.put x.logn p (logn (fld v 0 5) 4 4) }
    | 12 => s.orNext (execTailWrite q p v s)
    | _ => s)

/-- A write of a whole register of context `c` (Table 19.2, R382, R406). -/
def State.contextWrite (s : State) (c o v : Nat) : State :=
  let x := s.ctxAt c
  match o with
  | 0x00 => s.setCtx c { x with trbase := fld v 6 58, trlogn := logn (fld v 0 5) 6 6 }
  | 0x0C =>
    let s := s.setCtx c { x with dbg := bitAt v 2 }
    let s := if bitAt v 1 then s.requestRestore c else s
    if bitAt v 0 then s.requestSave c false else s
  | 0x10 => s.setCtx c { x with pdl := v % 2 ^ 20 }
  | 0x14 => s.setCtx c { x with sdl := v % 2 ^ 20 }
  | 0x18 => s.orNext (execTrresWrite c (v % 2 ^ 32) s)
  | 0x20 => s.setCtx c { x with savebase := fld v 21 43 }
  | 0x28 => s.setCtx c { x with troot := fld v 12 40 * 4096 }
  | 0x30 => s.orNext (execCtxpasidWrite c v s)
  | _ => s

/-- A write of the whole register that begins at an offset of BAR 0; in recovery state only Table 22.1 is there (R421). -/
def State.regWrite (s : State) (a v : Nat) : State :=
  if a = 0x08 then s.modMgmt fun m => { m with pwrlim := clampPower v }
  else s.bar (
    if a = 0x10 then s.setErrBase v
    else if a = 0x1C then s.setErrAck v
    else if queueBlock ≤ a ∧ a < queueBlock + 0x4000 then s.queueWrite ((a - queueBlock) / 256) ((a - queueBlock) % 256) v
    else if ctxBlock ≤ a ∧ a < ctxBlock + 0x1000 then s.contextWrite ((a - ctxBlock) / 64) ((a - ctxBlock) % 64) v
    else s)

/-- What the bytes of a register that a write leaves out count as: as they read, but for QERR, of which a bit left out is not written (log 70). -/
def State.regKept (s : State) (a : Nat) : Nat := if queueBlock ≤ a ∧ a < queueBlock + 0x4000 ∧ a % 256 = 4 then 0 else s.reg a

/-- The register that begins at `a` takes its part of a write of `size` bytes at `off`. -/
def State.regPart (off v size : Nat) (s : State) (a : Nat) : State :=
  let w := regWidth a
  if w = 0 ∨ a + w ≤ off ∨ off + size ≤ a then s
  else if off ≤ a ∧ a + w ≤ off + size then s.regWrite a (v / 2 ^ (8 * (a - off)) % 2 ^ (8 * w))
  else s.regWrite a (merge (s.regKept a) (off - a) (min (a + w) (off + size) - max a off) (v / 2 ^ (8 * (a - off))))

/-- REGISTER_WRITE (R6): a write of `size` bytes at an offset of BAR 0 of function 0; read-only and reserved bits stay.
DEDUCED (log 70): bytes that it leaves out keep what they hold, and of several registers the highest is written first. -/
def execRegisterWrite (off v size : Nat) (s : State) : Out :=
  let first := off / 4 - 1
  .next ((((List.range ((off + size) / 4 + 1 - first)).map fun i => 4 * (first + i)).reverse).foldl (State.regPart off v size) s)

/-! ### Start-up (R366, R396, R420, R421) -/

/-- PACKAGE_RESET (R420): every field is as State.reset says, but for memory, the host's memory, the cores harvested at shipment, the firmware image with its versions, the speeds that ports have fallen to
and those that are disabled, and the log, which becomes the previous one. -/
def execPackageReset (s : State) : Out :=
  .next { State.reset with
    mem := s.mem
    cache := { Caches.reset with home := s.mem }
    dies := s.dies.map fun (e : Nat × Die) => (e.1, { Die.reset with harvested := e.2.harvested })
    ports := s.ports.map fun (e : Nat × Port) => (e.1, { Port.start e.1 with speed := e.2.speed, lanes := if e.2.lanes = 0 then 0 else (Port.start e.1).lanes })
    mgmt := { Mgmt.reset with prevLog := s.mgmt.log, image := s.mgmt.image, imageVer := s.mgmt.imageVer, fuseVer := s.mgmt.fuseVer }
    hostMem := s.hostMem
    freeCount := s.freeCount
    inputs := s.inputs }

/-- The units of a step, in order (Table 22.4): a die is followed by its clusters. -/
def bootUnits (step : Nat) : Nat :=
  match step with
  | 3 => 24 * 13
  | 4 => 8
  | 5 => 16
  | 6 => 2
  | _ => 1

/-- The number of a unit in a log entry: a cluster of step 3 is 0x8000 + its cluster number. -/
def bootUnit (step k : Nat) : Nat := if step = 3 then (if k % 13 = 0 then k / 13 else 0x8000 + k / 13 * 12 + (k % 13 - 1)) else k

/-- A unit starts to count time when it is released (R396). -/
def State.release (s : State) (d : Nat) : State := s.setDie d { s.dieAt d with released := some s.clk }

/-- What a unit that comes up does. -/
def State.bootPass (s : State) (step k : Nat) : State :=
  match step with
  | 1 => s.modMgmt fun m => { m with secure := true }
  | 2 => s.release spineDie
  | 3 => if k % 13 = 0 then s.release (k / 13) else s
  | 4 => s.release (spineDie + 1 + k)
  | _ => s

/-- The cores of a die or a cluster at a place of step 3. -/
def bootCores (k : Nat) : List Nat := unitCores (if k % 13 = 0 then .die (k / 13) else .cluster (k / 13 * 12 + (k % 13 - 1)))

/-- The steps a link speed can fall (R417: 64, 32, 16, 8 GT/s). -/
def lowestSpeed : Nat := 3

/-- The port of a step and a place. -/
def bootPort (step k : Nat) : Nat := if step = 5 then k else 16 + k

/-- A port as start-up finds it. -/
def State.portOf (s : State) (n : Nat) : Port := SMap.get (Port.start n) s.ports n

/-- What a unit that fails leaves (Table 22.4): a die or cluster is fenced, a memory die's addresses are withheld, a port falls to the next lower speed, a Balral port is disabled after the lowest. -/
def State.bootAlt (s : State) (step k : Nat) : State :=
  match step with
  | 3 => s.fenceTables (bootCores k)
  | 4 => { s with failedHomes := s.failedHomes ++ [Config.homeRange k] }
  | 5 =>
    let p := s.portOf k
    if p.speed < lowestSpeed then { s with ports := SMap.put s.ports k { p with speed := p.speed + 1 } }
    else ({ s with ports := SMap.put s.ports k { p with lanes := 0 } }).raiseErr ⟨0x0008, 0, 0xFF, 0, 0x30000 + k, 0, 0, 0⟩
  | 6 =>
    let p := s.portOf (16 + k)
    { s with ports := SMap.put s.ports (16 + k) { p with speed := min lowestSpeed (p.speed + 1) } }
  | _ => s.modMgmt fun m => { m with boot := .recovery, secure := false }

/-- Write an entry of the current log, and go on to the next unit or step (R420). -/
def State.logBoot (s : State) (step k result : Nat) : State :=
  let e : BootEntry := ⟨step, bootUnit step k, result, s.rawTime 0⟩
  let s := s.modMgmt fun m => { m with log := m.log ++ [e] }
  let s := if result = 1 then s.raiseErr ⟨0x000C, 2, 0xFF, 0, 0xFFFFFFFF, step, 0, ofBytes e.bytes⟩ else s
  s.modMgmt fun m =>
    if m.boot = .recovery then m
    else if k + 1 < bootUnits step then m
    else { m with boot := if step = 6 then .done else .starting (step + 1) }

/-- Whether step 1 may pass: an image whose security version lies below the fused counter is refused (R421). -/
def Mgmt.imageFresh (m : Mgmt) : Bool := decide (m.fuseVer ≤ m.imageVer)

/-- START_UP_STEP (R420, R421, Table 22.4): the next unit of the step under way passes or fails; `passed` says of step 1 that the image's signature verifies. One that failed at the previous start
takes its alternative, a port its lower speed, at which it can fail again; what has none is skipped, and the device stays in recovery state. A cluster of a die that failed and a port that is disabled are skipped. -/
def execStartUpStep (unit sub : Nat) (passed : Bool) (s : State) : Out :=
  .next (match s.mgmt.boot with
    | .starting step =>
      let k := (s.mgmt.log.filter fun e => e.step == step).length
      let want := if step = 3 then unit * 13 + sub else unit
      let before (u : Nat) : Bool := s.mgmt.prevLog.any fun e => e.step == step && e.unit == u && e.result == 1
      let passed := passed && (step != 1 || s.mgmt.imageFresh)
      if want ≠ k then s
      else if step = 3 ∧ sub ≠ 0 ∧ (s.mgmt.log.any fun e => e.step == 3 && e.unit == unit && e.result != 0) then s.logBoot step k 2
      else if step = 5 ∧ (s.portOf k).lanes = 0 then s.logBoot step k 2
      else if before (bootUnit step k) ∧ step ≤ 2 then (s.bootAlt step k).logBoot step k 2
      else if before (bootUnit step k) ∧ step ≤ 4 then (s.bootAlt step k).logBoot step k 3
      else if passed then (s.bootPass step k).logBoot step k (if before (bootUnit step k) then 3 else 0)
      else (s.bootAlt step k).logBoot step k 1
    | _ => s)

/-! ### Attestation (R422) -/

/-- The measurement blocks: the firmware image, INV, the harvest maps, and the digest of the current boot-step log (R422). -/
def State.measurements (s : State) : List Byte :=
  s.mgmt.image ++ toBytes 8 s.inv ++ ((List.range 24).flatMap fun d => toBytes 12 (s.dieAt d).harvested) ++ Config.shake256 (s.mgmt.log.flatMap BootEntry.bytes)

/-- Some bytes with their signature, the algorithms once negotiated (R422). -/
def State.signed (s : State) (bs : List Byte) : List Byte := if s.mgmt.algs then bs ++ Config.falcon1024 (Config.shake256 bs) else bs

/-- A request of the SPDM flow, the stage it needs and leaves (PRESUMED of SPDM: a request out of order is answered with an error), and what its answer holds. -/
def State.spdm (s : State) (kind need next : Nat) (content : List Byte) : State :=
  let m := s.mgmt
  let ok := decide (need ≤ m.spdm)
  let answer := if ok then Config.spdmAnswer kind m.spdmOut.length content else Config.spdmAnswer 255 m.spdmOut.length []
  s.modMgmt fun m => { m with spdm := if ok then (if next = 0 then m.spdm else next) else m.spdm, algs := m.algs || (ok && kind == 2), spdmOut := m.spdmOut ++ [answer] }

/-- GET_VERSION (R422). -/
def execGetVersion (s : State) : Out := .next (s.spdm 0 0 1 [])
/-- GET_CAPABILITIES (R422). -/
def execGetCapabilities (s : State) : Out := .next (s.spdm 1 1 2 [])
/-- NEGOTIATE_ALGORITHMS (R422): Falcon-1024 and SHAKE256 are chosen as extended algorithms. -/
def execNegotiateAlgorithms (s : State) : Out := .next (s.spdm 2 2 3 [])
/-- GET_DIGESTS (R422): the digest of the certificate chain. -/
def execGetDigests (s : State) : Out := .next (s.spdm 3 3 0 (Config.shake256 Config.certChain))
/-- GET_CERTIFICATE (R422): the chain, signed in the same way. -/
def execGetCertificate (s : State) : Out := .next (s.spdm 4 3 0 (s.signed Config.certChain))
/-- CHALLENGE (R422): the nonce, the digest of the chain and that of the measurements, signed. -/
def execChallenge (nonce : Nat) (s : State) : Out :=
  .next (s.spdm 5 3 0 (s.signed (toBytes 32 nonce ++ Config.shake256 Config.certChain ++ Config.shake256 s.measurements)))
/-- GET_MEASUREMENTS (R422): the blocks, signed. -/
def execGetMeasurements (s : State) : Out := .next (s.spdm 6 3 0 (s.signed s.measurements))

/-! ### Bubbles and time (R28, R396, R424) -/

/-- BUBBLE_SCHEDULE (R424): each die is sent the length and the stamp, at least 20 µs ahead. -/
def execBubbleSchedule (len t : Nat) (s : State) : Out :=
  .next (if s.mgmt.bubble.isSome ∨ t < s.masterTime spineDie + 20000 then s
    else
      let s := s.modMgmt fun m => { m with bubble := some ⟨len, t⟩ }
      (List.range allDies).foldl (fun s d => s.setDie d { s.dieAt d with acked := false }) s)

/-- BUBBLE_ACK (R424). -/
def execBubbleAck (die : Nat) (s : State) : Out :=
  .next (if s.mgmt.bubble.isNone ∨ allDies ≤ die then s else s.setDie die { s.dieAt die with acked := true })

/-- Whether every die has acknowledged. -/
def State.allAcked (s : State) : Bool := (List.range allDies).all fun d => (s.dieAt d).acked

/-- BUBBLE_CANCEL (R424): 2 µs before T with an acknowledgement missing. -/
def execBubbleCancel (s : State) : Out :=
  .next (match s.mgmt.bubble with
    | some b => if b.start ≤ s.masterTime spineDie + 2000 ∧ !s.allAcked then s.modMgmt fun m => { m with bubble := none } else s
    | none => s)

/-- BUBBLE_START (R424): at T by its master time the die halts: issue and engines of a compute die, the links of the spine above replay. -/
def execBubbleStart (die : Nat) (s : State) : Out :=
  .next (match s.mgmt.bubble with
    | some b =>
      if die < allDies ∧ b.start ≤ s.masterTime die ∧ s.masterTime die < b.start + nsOf b.len ∧ s.allAcked ∧ !(s.dieAt die).halted then
        s.setDie die { s.dieAt die with halted := true }
      else s
    | none => s)

/-- BUBBLE_END (R424): after the length the die resumes; with the last one the bubble is over. -/
def execBubbleEnd (die : Nat) (s : State) : Out :=
  .next (match s.mgmt.bubble with
    | some b =>
      if (s.dieAt die).halted ∧ b.start + nsOf b.len ≤ s.masterTime die then
        let s := s.setDie die { s.dieAt die with halted := false }
        if (List.range allDies).all fun d => !(s.dieAt d).halted && decide (b.start + nsOf b.len ≤ s.masterTime d) then
          s.modMgmt fun m => { m with bubble := none }
        else s
      else s
    | none => s)

/-- TIME_MASTER_UPDATE (R396): one that would move a die's master time backwards is not made. -/
def execTimeMasterUpdate (die : Nat) (off rate : Int) (s : State) : Out :=
  let s' := s.setDie die { s.dieAt die with toff := off, trate := rate }
  .next (if allDies ≤ die ∨ die = spineDie ∨ s'.masterTime die < s.masterTime die then s else s')

/-! ### Links, streams, the host (R286, R417 to R419) -/

/-- A feature of a host port (Table 22.2). -/
inductive HostFeature where
  | pcie6 | ats | pasid | pri | doe | cxlIo | cxlCache | cxlMem | cxlAttached | cxlMultiHead
deriving DecidableEq, Repr

/-- The features a host port has no capability structure for (Table 22.2): page requests, and CXL sharing over several heads or a fabric. -/
def HostFeature.supported (f : HostFeature) : Bool := f != .pri && f != .cxlMultiHead

/-- The features in the capability structures of the host ports (R417); in recovery state they present CXL.io alone (R421). -/
def State.hostFeatures (s : State) : List HostFeature :=
  if s.mgmt.boot = .recovery then [.cxlIo]
  else [.pcie6, .ats, .pasid, .pri, .doe, .cxlIo, .cxlCache, .cxlMem, .cxlAttached, .cxlMultiHead].filter HostFeature.supported

/-- Change a port. -/
def State.modPort (s : State) (p : Nat) (f : Port → Port) : State := { s with ports := SMap.upd (Port.start p) s.ports p f }

/-- A port takes the next flit, to be acknowledged in its turn. -/
def Port.take (p : Port) (f : Flit) : Port := { p with rxSeq := p.rxSeq + 1, unacked := p.unacked ++ [f], resend := none }

/-- A port after a flit has arrived (R419): the next one with a good CRC is taken. A bad CRC makes the sender replay from the first unacknowledged flit, in the original order:
until the replay has come to it, nothing else is taken, and what was taken before is not taken again. -/
def Port.flit (p : Port) (f : Flit) (crcOk : Bool) : Port :=
  if !crcOk then { p with resend := some ((p.unacked.head?.map Flit.seq).getD p.rxSeq) }
  else match p.resend with
    | none => if f.seq = p.rxSeq then p.take f else p
    | some n => if f.seq ≠ n then p else if n < p.rxSeq then { p with resend := some (n + 1) } else if n = p.rxSeq then p.take f else p

/-- FLIT_RECEIVE (R419), on a virtual channel of Table 22.3: flits of one channel keep their order, as all flits of a port do. -/
def execFlitReceive (port : Nat) (flit : Flit) (crcOk : Bool) (s : State) : Out :=
  .next (if 16 ≤ port then s else s.modPort port fun p => p.flit flit crcOk)

/-- FLIT_ACK (R419): flits are acknowledged in order. -/
def execFlitAck (port seq : Nat) (s : State) : Out :=
  .next (if 16 ≤ port then s
    else s.modPort port fun p => if p.unacked.head?.map Flit.seq = some seq then { p with unacked := p.unacked.drop 1 } else p)

/-- LANE_FAILURE (R417, R419): of a Balral port, with 8 lanes and a spare, or of a host port of 16 lanes. -/
def execLaneFailure (port lane : Nat) (s : State) : Out := .next (if 18 ≤ port ∨ (if port < 16 then 9 else 16) ≤ lane then s else s.loseLane port)

/-- A write from another device performs at its home: copies in the device go home first. -/
def State.outsideWrite (s : State) (pa : Nat) (bytes : List Byte) : State := s.pokePa (((List.range bytes.length).map (pa + ·)).zip bytes)

/-- Advance past every accepted number in order. -/
def Stream.settle (x : Stream) : Nat → Stream
  | 0 => x
  | n + 1 => if x.early.any fun e => e.1 == x.low then ({ x with low := x.low + 1, early := x.early.filter fun e => e.1 != x.low } : Stream).settle n else x

/-- Perform the release-ordered writes whose earlier writes have all been accepted. -/
def State.performHeld (s : State) (key : Nat) : Nat → State
  | 0 => s
  | n + 1 =>
    let x := SMap.get ⟨0, [], []⟩ s.streams key
    match x.held.find? fun h => h.1 == x.low with
    | none => s
    | some (num, pa, bytes) =>
      let x' := ({ x with low := x.low + 1, held := x.held.filter fun h => h.1 != num } : Stream).settle x.early.length
      (({ s with streams := SMap.put s.streams key x' }).outsideWrite pa bytes).performHeld key n

/-- STREAM_WRITE_ACCEPT (R286): write `num` of a stream arrives; a replayed one is dropped, a relaxed one performs, a release-ordered one performs once every earlier write is accepted.
A relaxed write leaves the bytes that a later one of its stream has written already. -/
def execStreamWriteAccept (src cls num : Nat) (rel : Bool) (pa : Nat) (bytes : List Byte) (s : State) : Out :=
  let key := src * 2 + cls % 2
  let x := SMap.get ⟨0, [], []⟩ s.streams key
  .next (if num < x.low ∨ (x.early.any fun e => e.1 == num) ∨ x.held.any fun h => h.1 == num then s
    else if 2 ^ 52 < pa + bytes.length then s
    else if rel then
      ({ s with streams := SMap.put s.streams key { x with held := x.held ++ [(num, pa, bytes)] } }).performHeld key (x.held.length + 1)
    else
      let x' := ({ x with early := x.early ++ [(num, pa, bytes.length)] } : Stream).settle (x.early.length + 1)
      let over_ (a : Nat) : Bool := x.early.any fun e => decide (num < e.1) && decide (e.2.1 ≤ a) && decide (a < e.2.1 + e.2.2)
      let l := (((List.range bytes.length).map (pa + ·)).zip bytes).filter fun e => !over_ e.1
      (({ s with streams := SMap.put s.streams key x' }).pokePa l).performHeld key (x.held.length + 1))

/-- HOST_CXL_MEM_ACCESS (R204, R287, R418): a host load or store of device memory, past tile negotiation; a page with a bias that stands with the device is flipped first.
In recovery state there is no CXL.mem (R421). An address at or above 2^52 does not exist. -/
def execHostCxlMemAccess (pa : Nat) (store : Bool) (bytes : List Byte) (s : State) : Out :=
  if 2 ^ 52 < pa + bytes.length then .fault .noSuchAddress
  else .next (
    if !s.hostFeatures.contains .cxlMem then s
    else
    let pages := ((List.range bytes.length).map fun i => (pa + i) / 4096).eraseDups
    let s := pages.foldl State.hostTakes s
    if store then s.pokeHome (((List.range bytes.length).map (pa + ·)).zip bytes) else s.hostRead (ofBytes (s.mem.readN pa bytes.length)))

end Sys2Proof.Machine
end

