-- ==== Sys2Proof/Machine/Scoreboard.lean ====
section
/-! DEFINITION. What the scoreboard reads of an instruction (R62 to R64, R82, R429): its source and destination registers, its blocks (R81), its turn (Table 13.6). -/

namespace Sys2Proof
namespace Machine

/-- The registers of a block operand (R82). -/
def Warp.block (w : Warp) (x : Bx) (o : Vr) : List RegId := (blockRegs (w.extent x) o.toNat).map RegId.v

/-- A run of `n` v registers. -/
def runOf (o : Vr) (n : Nat) : List RegId := (List.range n).map fun j => .v (o.toNat + j)

/-- One register, or the pair of an 8-byte element (R186). -/
def pairOf (o : Vr) (bytes : Nat) : List RegId := runOf o (if bytes = 8 then 2 else 1)

/-- Whether an active lane meets a condition. -/
def Warp.anyLane (w : Warp) (f : Nat → Bool) : Bool := (lanesOf w.active).any f

/-- The eight registers from `o`, up to v63, that the scoreboard takes fpack to read and funpk to write (R129, R130). -/
def octetOf (o : Vr) : List RegId := runOf o (min 8 (64 - o.toNat))

/-- Whether the format word of one operand of an mma names a block scale. -/
def Warp.blockWord (w : Warp) (fw : Vr) (j : Nat) : Bool := fwBlk (w.rdV (fw.toNat + j) (lowLane w.active)).toNat != 0

/-- The registers an instruction reads. DESIGN CHOICE (log 87): where a conversion keeps part of d (fpack with cw = 1, fcvt to a half), d counts among them beside what R129 lists;
and where b of an fpack is a bound window, whether kseed and d count is judged by the register beneath the window, not by the entry to be popped. -/
def Warp.reads (w : Warp) : Instr → List RegId
  | .brp _ p _ => [.p p.toNat]
  | .brn _ p _ => [.p p.toNat]
  | .bru _ k _ => [.k k.toNat]
  | .bruz _ k _ => [.k k.toNat]
  | .jmpx _ ka => [.k ka.toNat]
  | .callx _ _ ka => [.k ka.toNat]
  | .ret _ ka => [.k ka.toNat]
  | .iadd _ _ a b x => w.block x a ++ w.block x b
  | .isub _ _ a b x => w.block x a ++ w.block x b
  | .imul _ _ a b x => w.block x a ++ w.block x b
  | .imulhS _ _ a b x => w.block x a ++ w.block x b
  | .imulhN _ _ a b x => w.block x a ++ w.block x b
  | .imad _ d a b x => w.block x d ++ w.block x a ++ w.block x b
  | .iaddi _ _ a _ => [.v a.toNat]
  | .iminS _ _ a b x => w.block x a ++ w.block x b
  | .iminN _ _ a b x => w.block x a ++ w.block x b
  | .imaxS _ _ a b x => w.block x a ++ w.block x b
  | .imaxN _ _ a b x => w.block x a ++ w.block x b
  | .shl _ _ a b x => w.block x a ++ w.block x b
  | .shr _ _ a b x => w.block x a ++ w.block x b
  | .sar _ _ a b x => w.block x a ++ w.block x b
  | .shli _ _ a _ => [.v a.toNat]
  | .shri _ _ a _ => [.v a.toNat]
  | .sari _ _ a _ => [.v a.toNat]
  | .roti _ _ a _ => [.v a.toNat]
  | .and _ _ a b x => w.block x a ++ w.block x b
  | .or _ _ a b x => w.block x a ++ w.block x b
  | .xor _ _ a b x => w.block x a ++ w.block x b
  | .andn _ _ a b x => w.block x a ++ w.block x b
  | .andi _ _ a _ => [.v a.toNat]
  | .ori _ _ a _ => [.v a.toNat]
  | .xori _ _ a _ => [.v a.toNat]
  | .not _ _ a x => w.block x a
  | .popc _ _ a x => w.block x a
  | .clz _ _ a x => w.block x a
  | .brev _ _ a x => w.block x a
  | .iabs _ _ a x => w.block x a
  | .ineg _ _ a x => w.block x a
  | .bfx _ _ a x _ _ _ => w.block x a
  | .bfi _ d a x _ _ => w.block x d ++ w.block x a
  | .lea _ _ a b x _ _ => w.block x a ++ w.block x b
  | .icmp _ _ a b _ comb q => [.v a.toNat, .v b.toNat] ++ (if comb = .only then [] else [.p q.toNat])
  | .sel _ _ a b x p => w.block x a ++ w.block x b ++ [.p p.toNat]
  | .movk _ _ ka _ _ => [.k ka.toNat]
  | .idot4 _ d a b _ => [.v d.toNat, .v a.toNat, .v b.toNat]
  | .kadd _ _ ka kb => [.k ka.toNat, .k kb.toNat]
  | .ksub _ _ ka kb => [.k ka.toNat, .k kb.toNat]
  | .kmul _ _ ka kb => [.k ka.toNat, .k kb.toNat]
  | .kand _ _ ka kb => [.k ka.toNat, .k kb.toNat]
  | .kor _ _ ka kb => [.k ka.toNat, .k kb.toNat]
  | .kxor _ _ ka kb => [.k ka.toNat, .k kb.toNat]
  | .kshl _ _ ka kb => [.k ka.toNat, .k kb.toNat]
  | .kshr _ _ ka kb => [.k ka.toNat, .k kb.toNat]
  | .kaddi _ _ ka _ => [.k ka.toNat]
  | .kset _ kd f _ => if f = .hi then [.k kd.toNat] else []
  | .kcmp _ _ ka kb _ => [.k ka.toNat, .k kb.toNat]
  | .kmov _ _ ka => [.k ka.toNat]
  | .kfromv _ kd va _ f => [.v va.toNat] ++ (if f = .hi then [.k kd.toNat] else [])
  | .pand _ _ a b => [.p a.toNat, .p b.toNat]
  | .por _ _ a b => [.p a.toNat, .p b.toNat]
  | .pxor _ _ a b => [.p a.toNat, .p b.toNat]
  | .pandn _ _ a b => [.p a.toNat, .p b.toNat]
  | .pnot _ _ a => [.p a.toNat]
  | .pmov _ _ a => [.p a.toNat]
  | .ptov _ _ a => [.p a.toNat]
  | .vtop _ _ va => [.v va.toNat]
  | .qswp _ _ a _ => [.v a.toNat]
  | .qbc _ _ a _ => [.v a.toNat]
  | .wshf _ _ a b => [.v a.toNat, .v b.toNat]
  | .wshx _ _ a _ _ => [.v a.toNat]
  | .wvote _ _ a _ => [.v a.toNat]
  | .wred _ _ a _ => [.v a.toNat]
  | .fadd _ _ a b x => w.block x a ++ w.block x b
  | .fsub _ _ a b x => w.block x a ++ w.block x b
  | .fmul _ _ a b x => w.block x a ++ w.block x b
  | .ffma _ d a b x => w.block x d ++ w.block x a ++ w.block x b
  | .fmin _ _ a b x => w.block x a ++ w.block x b
  | .fmax _ _ a b x => w.block x a ++ w.block x b
  | .fabs _ _ a x => w.block x a
  | .fneg _ _ a x => w.block x a
  | .frcp _ _ a x => w.block x a
  | .frsq _ _ a x => w.block x a
  | .fsqrt _ _ a x => w.block x a
  | .fex2 _ _ a x => w.block x a
  | .flg2 _ _ a x => w.block x a
  | .fsin _ _ a x => w.block x a
  | .fcos _ _ a x => w.block x a
  | .fcmp _ _ a b _ comb q => [.v a.toNat, .v b.toNat] ++ (if comb = .only then [] else [.p q.toNat])
  | .fdot2 _ d a b _ => [.v d.toNat, .v a.toNat, .v b.toNat]
  | .hadd2 _ _ a b _ => [.v a.toNat, .v b.toNat]
  | .hmul2 _ _ a b _ => [.v a.toNat, .v b.toNat]
  | .hfma2 _ d a b _ => [.v d.toNat, .v a.toNat, .v b.toNat]
  | .frnd _ _ a _ => [.v a.toNat]
  | .fcvt _ d a dty _ _ _ _ => [.v a.toNat] ++ (if dty = .f32 then [] else [.v d.toNat])
  | .fcvti _ _ a _ _ _ => [.v a.toNat]
  | .icvtf _ _ a _ _ _ => [.v a.toNat]
  | .fpack _ d a b _ kseed => [.v b.toNat] ++ (if w.anyLane (fun l => fwRnd (w.rdV b.toNat l).toNat == 2) then [.k kseed.toNat] else []) ++
    (if w.anyLane (fun l => fwCw (w.rdV b.toNat l).toNat == 1) then [.v d.toNat] else []) ++ octetOf a
  | .funpk _ _ a b _ c sc => [.v b.toNat, .v a.toNat] ++ (if sc then [.v c.toNat] else [])
  | .fscl _ _ a b _ => [.v a.toNat, .v b.toNat]
  | .fsca _ _ a b c => [.v a.toNat, .v b.toNat, .v c.toNat]
  | .mma _ a b _ _ qa qb fw sc ty _ _ _ => (if qa || (w.bound && w.twin) then [] else runOf a (2 * matW ty)) ++ (if qb then [] else runOf b (2 * matW ty)) ++
    (if ty = .fmt then runOf fw 2 ++ (if w.blockWord fw 0 && !(w.bound && w.twin) then [.v sc.toNat] else []) ++ (if w.blockWord fw 1 then [.v (sc.toNat + 1)] else []) else [])
  | .mlut _ b kt _ fw qb _ _ _ _ => (if qb then [] else runOf b 8) ++ [.v fw.toNat, .k kt.toNat]
  | .mlbld _ a kt _ fw ty _ _ qa => (if qa then [] else runOf a 16) ++ (if ty = .fmt then [.v fw.toNat] else []) ++ [.k kt.toNat]
  | .macw _ d _ _ _ cnt _ => runOf d (cnt.toNat + 1)
  | .mdrn _ _ _ kbase kpitch _ _ _ _ _ => [.k kbase.toNat, .k kpitch.toNat]
  | .ld _ _ kbase voff _ => [.k kbase.toNat, .v voff.toNat]
  | .st _ d kbase voff size => [.k kbase.toNat, .v voff.toNat] ++ pairOf d size.bytes
  | .ldl _ _ kbase voff _ _ _ _ _ scale _ => [.k kbase.toNat] ++ (if scale = .x0 then [] else [.v voff.toNat])
  | .stl _ d kbase voff size _ _ _ scale => [.k kbase.toNat] ++ (if scale = .x0 then [] else [.v voff.toNat]) ++ pairOf d size.bytes
  | .lds _ _ kbase voff _ => [.k kbase.toNat, .v voff.toNat]
  | .sts _ d kbase voff size => [.k kbase.toNat, .v voff.toNat] ++ pairOf d size.bytes
  | .ldk _ _ kbase _ _ _ _ => [.k kbase.toNat]
  | .stk _ kd kbase _ _ _ => [.k kd.toNat, .k kbase.toNat]
  | .pref _ _ kbase voff _ _ _ scale => [.k kbase.toNat] ++ (if scale = .x0 then [] else [.v voff.toNat])
  | .cwb _ klen kbase _ _ _ => [.k klen.toNat, .k kbase.toNat]
  | .cflu _ klen kbase _ _ _ => [.k klen.toNat, .k kbase.toNat]
  | .cinv _ klen kbase _ _ _ _ => [.k klen.toNat, .k kbase.toNat]
  | .preq _ klen kbase _ _ _ _ => [.k klen.toNat, .k kbase.toNat]
  | .atom _ _ kbase voff size vs op _ _ _ _ => [.k kbase.toNat, .v voff.toNat] ++ runOf vs (atomRegs op size.bytes)
  | .red _ kbase voff size vs op _ _ _ _ => [.k kbase.toNat, .v voff.toNat] ++ runOf vs (atomRegs op size.bytes)
  | .atoms _ _ kbase voff size vs op _ _ _ _ => [.k kbase.toNat, .v voff.toNat] ++ runOf vs (atomRegs op size.bytes)
  | .barSync _ _ kcnt _ => [.k kcnt.toNat]
  | .barArrive _ _ kcnt _ => [.k kcnt.toNat]
  | .bart _ _ ktime _ _ _ => [.k ktime.toNat]
  | .clkjAddk _ ka => [.k ka.toNat]
  | .clkjSetk _ ka => [.k ka.toNat]
  | .lock _ kbase kval _ _ _ => [.k kbase.toNat, .k kval.toNat]
  | .lockTry _ _ kbase kval _ _ _ => [.k kbase.toNat, .k kval.toNat]
  | .unlock _ _ kbase kval _ _ _ => [.k kbase.toNat, .k kval.toNat]
  | .aecfg _ _ => (List.range 63).map fun r => .k (r + 1)
  | .cpy _ kdst kfrom klen _ _ _ => [.k kdst.toNat, .k kfrom.toNat, .k klen.toNat]
  | .cpym _ kdst kfrom klen _ _ _ => [.k kdst.toNat, .k kfrom.toNat, .k klen.toNat]
  | .cpyw _ kval _ => [.k kval.toNat]
  | .semset _ _ ka _ => [.k ka.toNat]
  | .semadd _ _ ka _ => [.k ka.toNat]
  | .semwait _ _ ka _ => [.k ka.toNat]
  | .coll _ kdesc _ _ => [.k kdesc.toNat]
  | .collw _ kcomm kseq => [.k kcomm.toNat, .k kseq.toNat]
  | .tclaim _ _ kbase kgeo karg _ _ _ _ => [.k kbase.toNat, .k kgeo.toNat, .k karg.toNat]
  | .trel _ kbase _ => [.k kbase.toNat]
  | .tsurr _ kdelay _ => [.k kdelay.toNat]
  | .tquery _ _ kbase _ => [.k kbase.toNat]
  | .lnch _ _ ka _ => [.k ka.toNat]
  | .lnwait _ _ ka _ => [.k ka.toNat]
  | .qpost _ _ ka _ _ _ => [.k ka.toNat]
  | .lmap _ _ ka _ _ => [.k ka.toNat]
  | .sets _ r _ rk => if rk then [.k r.toNat] else [.v r.toNat]
  | .orgw _ va _ _ _ => [.v va.toNat]
  | _ => []

/-- The registers an instruction writes. -/
def Warp.writes (w : Warp) : Instr → List RegId
  | .call _ k _ => [.k k.toNat]
  | .callx _ kd _ => [.k kd.toNat]
  | .iadd _ d _ _ x => w.block x d
  | .isub _ d _ _ x => w.block x d
  | .imul _ d _ _ x => w.block x d
  | .imulhS _ d _ _ x => w.block x d
  | .imulhN _ d _ _ x => w.block x d
  | .imad _ d _ _ x => w.block x d
  | .iaddi _ d _ _ => [.v d.toNat]
  | .iminS _ d _ _ x => w.block x d
  | .iminN _ d _ _ x => w.block x d
  | .imaxS _ d _ _ x => w.block x d
  | .imaxN _ d _ _ x => w.block x d
  | .shl _ d _ _ x => w.block x d
  | .shr _ d _ _ x => w.block x d
  | .sar _ d _ _ x => w.block x d
  | .shli _ d _ _ => [.v d.toNat]
  | .shri _ d _ _ => [.v d.toNat]
  | .sari _ d _ _ => [.v d.toNat]
  | .roti _ d _ _ => [.v d.toNat]
  | .and _ d _ _ x => w.block x d
  | .or _ d _ _ x => w.block x d
  | .xor _ d _ _ x => w.block x d
  | .andn _ d _ _ x => w.block x d
  | .andi _ d _ _ => [.v d.toNat]
  | .ori _ d _ _ => [.v d.toNat]
  | .xori _ d _ _ => [.v d.toNat]
  | .not _ d _ x => w.block x d
  | .popc _ d _ x => w.block x d
  | .clz _ d _ x => w.block x d
  | .brev _ d _ x => w.block x d
  | .iabs _ d _ x => w.block x d
  | .ineg _ d _ x => w.block x d
  | .bfx _ d _ x _ _ _ => w.block x d
  | .bfi _ d _ x _ _ => w.block x d
  | .lea _ d _ _ x _ _ => w.block x d
  | .icmp _ p _ _ _ _ _ => [.p p.toNat]
  | .sel _ d _ _ x _ => w.block x d
  | .movi _ d x _ => w.block x d
  | .movk _ d _ _ x => w.block x d
  | .idot4 _ d _ _ _ => [.v d.toNat]
  | .kadd _ kd _ _ => [.k kd.toNat]
  | .ksub _ kd _ _ => [.k kd.toNat]
  | .kmul _ kd _ _ => [.k kd.toNat]
  | .kand _ kd _ _ => [.k kd.toNat]
  | .kor _ kd _ _ => [.k kd.toNat]
  | .kxor _ kd _ _ => [.k kd.toNat]
  | .kshl _ kd _ _ => [.k kd.toNat]
  | .kshr _ kd _ _ => [.k kd.toNat]
  | .kaddi _ kd _ _ => [.k kd.toNat]
  | .kset _ kd _ _ => [.k kd.toNat]
  | .kcmp _ kd _ _ _ => [.k kd.toNat]
  | .kmov _ kd _ => [.k kd.toNat]
  | .kfromv _ kd _ _ _ => [.k kd.toNat]
  | .pand _ p _ _ => [.p p.toNat]
  | .por _ p _ _ => [.p p.toNat]
  | .pxor _ p _ _ => [.p p.toNat]
  | .pandn _ p _ _ => [.p p.toNat]
  | .pclr _ p => [.p p.toNat]
  | .pset _ p => [.p p.toNat]
  | .pnot _ p _ => [.p p.toNat]
  | .pmov _ p _ => [.p p.toNat]
  | .ptov _ vd _ => [.v vd.toNat]
  | .vtop _ p _ => [.p p.toNat]
  | .qswp _ d _ _ => [.v d.toNat]
  | .qbc _ d _ _ => [.v d.toNat]
  | .wshf _ d _ _ => [.v d.toNat]
  | .wshx _ d _ _ _ => [.v d.toNat]
  | .wvote _ d _ _ => [.v d.toNat]
  | .wred _ d _ _ => [.v d.toNat]
  | .fadd _ d _ _ x => w.block x d
  | .fsub _ d _ _ x => w.block x d
  | .fmul _ d _ _ x => w.block x d
  | .ffma _ d _ _ x => w.block x d
  | .fmin _ d _ _ x => w.block x d
  | .fmax _ d _ _ x => w.block x d
  | .fabs _ d _ x => w.block x d
  | .fneg _ d _ x => w.block x d
  | .frcp _ d _ x => w.block x d
  | .frsq _ d _ x => w.block x d
  | .fsqrt _ d _ x => w.block x d
  | .fex2 _ d _ x => w.block x d
  | .flg2 _ d _ x => w.block x d
  | .fsin _ d _ x => w.block x d
  | .fcos _ d _ x => w.block x d
  | .fcmp _ p _ _ _ _ _ => [.p p.toNat]
  | .fdot2 _ d _ _ _ => [.v d.toNat]
  | .hadd2 _ d _ _ _ => [.v d.toNat]
  | .hmul2 _ d _ _ _ => [.v d.toNat]
  | .hfma2 _ d _ _ _ => [.v d.toNat]
  | .frnd _ d _ _ => [.v d.toNat]
  | .fsetm _ d _ _ => [.v d.toNat]
  | .fcvt _ d _ _ _ _ _ _ => [.v d.toNat]
  | .fcvti _ d _ _ _ _ => [.v d.toNat]
  | .icvtf _ d _ _ _ _ => [.v d.toNat]
  | .fpack _ d _ _ _ _ => [.v d.toNat]
  | .funpk _ d _ _ _ _ _ => octetOf d
  | .fscl _ d _ _ _ => [.v d.toNat]
  | .fsca _ d _ _ _ => [.v d.toNat]
  | .fzct _ d _ => [.v d.toNat]
  | .macr _ d _ _ _ cnt _ => runOf d (cnt.toNat + 1)
  | .ld _ d _ _ size => pairOf d size.bytes
  | .ldl _ d _ _ size _ _ probe _ _ _ => pairOf d size.bytes ++ [.p probe.toNat]
  | .lds _ d _ _ size => pairOf d size.bytes
  | .ldk _ kd _ _ _ _ _ => [.k kd.toNat]
  | .atom _ d _ _ size _ _ _ _ _ _ => pairOf d size.bytes
  | .atoms _ d _ _ size _ _ _ _ _ _ => pairOf d size.bytes
  | .bart _ _ _ _ p _ => [.p p.toNat]
  | .lockTry _ p _ _ _ _ _ => [.p p.toNat]
  | .unlock _ p _ _ _ _ _ => [.p p.toNat]
  | .cpyq _ kd _ _ _ => [.k kd.toNat]
  | .coll _ _ kd _ => [.k kd.toNat]
  | .tclaim _ kd _ _ _ _ _ _ _ => [.k kd.toNat]
  | .tquery _ kd _ _ => [.k kd.toNat]
  | .lnch _ kd _ _ => [.k kd.toNat]
  | .lnwait _ kd _ _ => [.k kd.toNat]
  | .qpost _ kd _ _ _ _ => [.k kd.toNat]
  | .lmap _ kd _ _ _ => [.k kd.toNat]
  | .gets _ r _ rk => if rk then [.k r.toNat] else [.v r.toNat]
  | .tmr _ kd _ _ => [.k kd.toNat]
  | .orgr _ vd _ _ _ => [.v vd.toNat]
  | _ => []

end Machine

/-- The block extent and the block operands of an instruction that has them (R81, R83). -/
def Instr.block? : Instr → Option (Bx × List Vr)
  | .iadd _ d a b x => some (x, [d, a, b])
  | .isub _ d a b x => some (x, [d, a, b])
  | .imul _ d a b x => some (x, [d, a, b])
  | .imulhS _ d a b x => some (x, [d, a, b])
  | .imulhN _ d a b x => some (x, [d, a, b])
  | .imad _ d a b x => some (x, [d, a, b])
  | .iminS _ d a b x => some (x, [d, a, b])
  | .iminN _ d a b x => some (x, [d, a, b])
  | .imaxS _ d a b x => some (x, [d, a, b])
  | .imaxN _ d a b x => some (x, [d, a, b])
  | .shl _ d a b x => some (x, [d, a, b])
  | .shr _ d a b x => some (x, [d, a, b])
  | .sar _ d a b x => some (x, [d, a, b])
  | .and _ d a b x => some (x, [d, a, b])
  | .or _ d a b x => some (x, [d, a, b])
  | .xor _ d a b x => some (x, [d, a, b])
  | .andn _ d a b x => some (x, [d, a, b])
  | .not _ d a x => some (x, [d, a])
  | .popc _ d a x => some (x, [d, a])
  | .clz _ d a x => some (x, [d, a])
  | .brev _ d a x => some (x, [d, a])
  | .iabs _ d a x => some (x, [d, a])
  | .ineg _ d a x => some (x, [d, a])
  | .bfx _ d a x _ _ _ => some (x, [d, a])
  | .bfi _ d a x _ _ => some (x, [d, a])
  | .lea _ d a b x _ _ => some (x, [d, a, b])
  | .sel _ d a b x _ => some (x, [d, a, b])
  | .movi _ d x _ => some (x, [d])
  | .movk _ d _ _ x => some (x, [d])
  | .fadd _ d a b x => some (x, [d, a, b])
  | .fsub _ d a b x => some (x, [d, a, b])
  | .fmul _ d a b x => some (x, [d, a, b])
  | .ffma _ d a b x => some (x, [d, a, b])
  | .fmin _ d a b x => some (x, [d, a, b])
  | .fmax _ d a b x => some (x, [d, a, b])
  | .fabs _ d a x => some (x, [d, a])
  | .fneg _ d a x => some (x, [d, a])
  | .frcp _ d a x => some (x, [d, a])
  | .frsq _ d a x => some (x, [d, a])
  | .fsqrt _ d a x => some (x, [d, a])
  | .fex2 _ d a x => some (x, [d, a])
  | .flg2 _ d a x => some (x, [d, a])
  | .fsin _ d a x => some (x, [d, a])
  | .fcos _ d a x => some (x, [d, a])
  | _ => none

namespace Machine

/-! ### Hazards (R62 to R64, R429) -/

/-- Whether the scoreboard follows a register: k0, the fixed predicates and bound windows are not registers it follows. -/
def Warp.scored (w : Warp) : RegId → Bool
  | .v n => !w.isWindow n
  | .k n => n != 0
  | .p n => decide (n < 48)

/-- Whether a fixed-latency result for a register is not yet visible. -/
def Warp.coming (w : Warp) (r : RegId) : Bool := w.pend.any fun p => p.res.reg == r

/-- Whether a register carries a pending mark (R62). -/
def Warp.marked (w : Warp) (r : RegId) : Bool := w.marks.any fun m => m.reg == r

/-- The hazards of a group (Table 3.2), each with its register: `old` holds what its earlier words write. -/
def Warp.hazards (w : Warp) : List Instr → List RegId → List (Nat × RegId)
  | [], _ => []
  | i :: is, old =>
    let src := (w.reads i).filter w.scored
    let dst := (w.writes i).filter w.scored
    (src.flatMap fun r =>
      (if w.coming r then [(1, r)] else []) ++ (if w.marked r then [(2, r)] else []) ++ (if old.contains r then [(4, r)] else [])) ++
    (dst.flatMap fun r => if w.marked r || w.coming r then [(3, r)] else []) ++ w.hazards is (old ++ dst)

/-- The least of a list of detail codes, if there is one. -/
def leastCode : List Nat → Option Nat
  | [] => none
  | d :: ds => some (ds.foldl min d)

end Machine
end Sys2Proof
end

