-- ==== Sys2Proof/Machine/Issue.lean ====
section
/-! DEFINITION. Issue: strands (R53 to R55), slots (R56 to R58), chain groups fetched and checked (R37, R39, R42, R43, R74), what holds a group or traps it as a whole,
the events that are due, and how one step chooses what happens next (log 1, log 8). `run` is the meaning of an instruction or event. -/

namespace Sys2Proof
namespace Machine

/-! ### Strands (R53 to R55) -/

/-- Add a lane that stands at `pc` to the strands found so far: lowest lane, lanes, address. -/
def addToStrand (l : Nat) (pc : DWord) : List (Nat × Word × DWord) → List (Nat × Word × DWord)
  | [] => [(l, 1#32 <<< l, pc)]
  | (lo, m, p) :: t => if p = pc then (lo, m ||| (1#32 <<< l), p) :: t else (lo, m, p) :: addToStrand l pc t

/-- The strands of a warp by ascending lowest lane; threads that wait at gbar stand in none (R53, R54, R275). -/
def Warp.strands (w : Warp) : List (Nat × Word × DWord) :=
  (lanesOf (w.live &&& ~~~w.gbarWait)).foldl (fun acc l => addToStrand l (SMap.get 0 w.pcs l) acc) []

/-- The strand that executes the warp's next run (R55). -/
def Warp.nextStrand (w : Warp) : Option (Nat × Word × DWord) :=
  (match w.lastLow with
    | some l => w.strands.find? fun x => decide (l < x.1)
    | none => none) <|> w.strands.head?

/-- The warp's next run opens. -/
def Warp.openRun (w : Warp) : Warp :=
  match w.nextStrand with
  | none => w
  | some (lo, m, pc) => { w with inRun := true, active := m, runPc := pc, runWords := 0, lastLow := some lo, endRun := false, grpS := 0, jump := false }

/-- COUNTER_RELEASE (R61): the oldest instruction on a counter has completed; its results are written and its count is removed. -/
def execCounterRelease (wp : Nat) (dc : Dc) (s : State) : Out :=
  .next (s.modWarp wp fun w =>
    match w.inflight.find? fun f => f.dc == dc.toNat with
    | some f => if f.done then { w.deliver f with inflight := w.inflight.filter fun x => x.seq != f.seq } else w
    | none => w)

/-! ### Fetching a chain group (R37, R74) -/

/-- What the fetch of a group comes to: its words, each with its position and the word after it; a page to wait for; a fetch fault with its address. -/
inductive GroupRes where
  | words (xs : List (Nat × Nat × Nat))
  | absent (a : Nat)
  | bad (detail a : Nat)
deriving DecidableEq, Repr

/-- Fetch the words of a group from an address, up to the first with C = 0 or the end of the packet (R37, R74, log 20). A long header at position 2 has no payload: the next word starts a packet (R36). -/
def State.fetchGroup (s : State) : Nat → Nat → GroupRes
  | 0, _ => .words []
  | fuel + 1, a =>
    match s.fetchWord a with
    | .absent => .absent a
    | .bad d => .bad d a
    | .word w =>
      let pos := s.wordPos a
      let size := if pos = 2 then 1 else wordCount w
      match (if size = 2 then s.fetchWord (a + 4) else .word 0) with
      | .absent => .absent (a + 4)
      | .bad d => .bad d (a + 4)
      | .word pl =>
        if bitAt w 31 && decide (pos + size ≤ 2) then
          match s.fetchGroup fuel (a + 4 * size) with
          | .words xs => .words ((pos, w, pl) :: xs)
          | r => r
        else .words [(pos, w, pl)]

/-! ### Encoding conditions of a group (R42, R43) -/

/-- A payload whose own fields are legal under a long header: with it, only the header's fields can break a condition. -/
def legalPayload (w : Nat) : Nat :=
  match opOf w with
  | 0x25 => 0x100
  | 0x26 => 0x100
  | 0x58 => if fld w 2 2 = 3 then 0x3000 else 0
  | 0x63 => 0x1F00
  | 0x68 => 0xFF00
  | 0x74 => 0x400
  | 0x77 => if fld w 0 2 = 1 then 0x100 else if fld w 0 2 = 2 then 0xE0 else 0
  | 0x79 => if fld w 0 2 = 1 then 0xE000 else 0
  | 0x7A => if fld w 0 2 = 2 then 2 else 0
  | _ => 0

/-- The payload that a word at a position is judged with: a long header at position 2 has none, so its own fields alone count (log 20). -/
def judged (pos w pl : Nat) : Nat := if pos = 2 ∧ isLongMajor (opOf w) then legalPayload w else pl

/-- The conditions of Table 2.4 that one word of a group meets. -/
def wordCodes (x : Nat × Nat × Nat) : List Nat :=
  let (pos, w, pl) := x
  let op := opOf w
  let long := isLongMajor op
  let pl := judged pos w pl
  let field := match rawDecode w pl with
    | none => [3]
    | some i =>
      (if i.fieldsOk then [] else [3]) ++ (if i.predsOk then [] else [0x0C]) ++ (if i.isTransfer && !bitAt w 30 then [9] else []) ++
      (if (op == 0x07 || op == 0x08) && pos != 2 then [0x0A] else [])
  (if isReservedMajor op then [1] else if op = 0x7F then [2] else field) ++
  (if bitAt w 31 && (pos == 2 || (long && pos == 1)) then [4] else []) ++ (if bitAt w 31 && bitAt w 30 then [6] else []) ++
  (if long && pos == 2 then [8] else [])

/-- The words a group counts in its run (R39). -/
def groupWords (xs : List (Nat × Nat × Nat)) : Nat := xs.foldl (fun n x => n + if x.1 = 2 then 1 else wordCount x.2.1) 0

/-- The conditions of Table 2.4 that a group meets after `before` words of its run. -/
def groupCodes (before : Nat) (xs : List (Nat × Nat × Nat)) : List Nat :=
  let pipes := xs.filterMap fun x => (rawDecode x.2.1 (judged x.1 x.2.1 x.2.2)).map Instr.pipe
  xs.flatMap wordCodes ++ (if pipes.eraseDups.length < pipes.length then [5] else []) ++ (if 24 < before + groupWords xs then [7] else [])

/-- The instructions of a group that meets no condition. -/
def groupInstrs (xs : List (Nat × Nat × Nat)) : List Instr :=
  xs.filterMap fun x => match decodeWord x.2.1 x.2.2 with
    | .ok i => some i
    | .error _ => none

/-- Whether a register-supplied target of a word breaks R36. -/
def State.badTarget (s : State) (i : Instr) : Bool :=
  match i with
  | .jmpx _ ka => !s.targetOk (s.w.rdK ka.toNat)
  | .callx _ _ ka => !s.targetOk (s.w.rdK ka.toNat)
  | .ret _ ka => !s.targetOk (s.w.rdK ka.toNat)
  | _ => false

/-- The least condition of Table 2.4 that a group meets by its words alone; where only a predicate field is wrong, a bad target comes before it (R43). -/
def State.groupCode (s : State) (before : Nat) (xs : List (Nat × Nat × Nat)) : Option Nat :=
  match leastCode (groupCodes before xs) with
  | some 0x0C => if (xs.filterMap fun x => rawDecode x.2.1 x.2.2).any s.badTarget then some 0x0B else some 0x0C
  | c => c

/-- Where rft.skip resumes a thread stopped at the word at `a` (R392): after it and its payload, which a long header at position 2 has not (R35). -/
def State.skipAt (s : State) (a : DWord) : DWord :=
  match s.fetchWord a.toNat with
  | .word w => a + BitVec.ofNat 64 (4 * if s.wordPos a.toNat = 2 then 1 else wordCount w)
  | _ => a + 4

/-- A trap of the group as a whole: every active lane stops at its first word, nothing of it takes effect (R43, R64, R74, R81). -/
def State.groupTrap (s : State) (cause detail ea : Nat) : State :=
  s.takeTrap cause s.w.active s.w.active (fun _ => detail) (fun _ => ea) 0 s.w.runPc (s.skipAt s.w.runPc)

/-- ILLEGAL_INSTRUCTION_WORD (R42, R43): the group that stands next meets conditions of Table 2.4, of which `detail` is the lowest. -/
def execIllegalInstructionWord (detail : Nat) (s : State) : Out := .next (s.groupTrap 0x01 detail 0)

end Machine

/-! ### What handlers and routines may execute (R331, R388) -/

/-- Whether a word belongs to majors 0x00 to 0x0C or 0x10 to 0x57. -/
def Instr.plain (i : Instr) : Bool :=
  match i with
  | .brk _ _ => false
  | .clkjAdd _ _ => false
  | .clkjAddk _ _ => false
  | .clkjSetk _ _ => false
  | .clkjNb _ => false
  | i => i.hdr?.isSome && (i.pipe == Pipe.a || i.pipe == Pipe.f)

/-- What a handler thread may execute (R388). -/
def Instr.handlerMay (i : Instr) : Bool :=
  match i with
  | .ld _ _ _ _ _ => true
  | .ldl _ _ _ _ _ _ _ _ _ _ _ => true
  | .ldk _ _ _ _ _ _ _ => true
  | .lds _ _ _ _ _ => true
  | .st _ _ _ _ _ => true
  | .stl _ _ _ _ _ _ _ _ _ => true
  | .stk _ _ _ _ _ _ => true
  | .fence _ _ _ => true
  | .gets _ _ _ _ => true
  | .sets _ _ _ _ => true
  | .tfence _ => true
  | .rft _ _ => true
  | .tmask _ _ _ _ => true
  | .tmr _ _ _ _ => true
  | .orgr _ _ _ _ _ => true
  | .orgw _ _ _ _ _ => true
  | .illegalInstructionWord _ => true
  | i => i.plain

/-- What a surrender routine may execute (R331); its exit ends it in its own meaning. -/
def Instr.routineMay (i : Instr) : Bool :=
  match i with
  | .macz _ _ _ => true
  | .macr _ _ _ _ _ _ _ => true
  | .macw _ _ _ _ _ _ _ => true
  | .mdrn _ _ _ _ _ _ _ _ _ _ => true
  | .ld _ _ _ _ _ => true
  | .st _ _ _ _ _ => true
  | .ldl _ _ _ _ _ _ _ _ _ _ _ => true
  | .stl _ _ _ _ _ _ _ _ _ => true
  | .lds _ _ _ _ _ => true
  | .sts _ _ _ _ _ => true
  | .ldk _ _ _ _ _ _ _ => true
  | .stk _ _ _ _ _ _ => true
  | .pref _ _ _ _ _ _ _ _ => true
  | .cwb _ _ _ _ _ _ => true
  | .cflu _ _ _ _ _ _ => true
  | .cinv _ _ _ _ _ _ _ => true
  | .atom _ _ _ _ _ _ _ _ _ _ _ => true
  | .red _ _ _ _ _ _ _ _ _ _ => true
  | .atoms _ _ _ _ _ _ _ _ _ _ _ => true
  | .fence _ _ _ => true
  | .semset _ _ _ _ => true
  | .semadd _ _ _ _ => true
  | .gets _ _ _ _ => true
  | .tsurr _ _ _ => true
  | .illegalInstructionWord _ => true
  | i => i.plain

namespace Machine

/-! ### What holds a group (R61, R64, R77, R81, R299, R331, R429) -/

/-- A hazard check of the warp's check mode, and what goes on once nothing is in the way (Table 3.1, R429). -/
def State.checked (s : State) (is : List Instr) (k : State → State) : State :=
  let w := s.w
  if w.chk = .off then k s
  else
    let hz := w.hazards is []
    match leastCode (hz.map (·.1)) with
    | none => k s
    | some d =>
      if w.chk = .trap then s.groupTrap 0x02 d 0
      else
        let late := (w.pend.filter fun p => hz.any fun e => (e.1 == 1 || e.1 == 3) && e.2 == p.res.reg).map (·.vis)
        if !late.isEmpty then
          let up := late.foldl max w.sched
          s.modW fun w => { w with sched := up, earliest := s.clk + (up - w.sched) }
        else
          let ms := w.marks.filter fun m => hz.any fun e => (e.1 == 2 || e.1 == 3) && e.2 == m.reg
          if !ms.all w.settledMarks.contains then s.hold
          else
            let s := if ms.isEmpty then s else s.modW fun w => w.redeem ms
            if hz.any fun e => e.1 == 4 then s.groupTrap 0x02 4 0 else k s

/-- Whether a block of the group leaves the register plane (R81). -/
def Warp.blocksOk (w : Warp) (is : List Instr) : Bool :=
  is.all fun i => match i.block? with
    | some (x, rs) => rs.all fun r => blockOk (w.extent x) r.toNat
    | none => true

/-- Whether the group would raise a counter above 63 (R61). -/
def Warp.countersFull (w : Warp) (is : List Instr) : Bool :=
  (List.range 7).any fun c =>
    let n := (is.filter fun i => i.counter == some c).length
    n != 0 && decide (63 < w.dcCount c + n)

/-- Whether a word waits, by its own rule, before it has any effect: dwait (R77), tfence and AXF (R139), semwait (R255), cpyw (R252), collw (R258), lnwait in a domain (R375),
an array that works on earlier instructions (R153, R179), and a word that orders accesses of the warp which have still to perform. -/
def State.waits (s : State) (i : Instr) : Bool :=
  (s.w.kind == .normal || (s.w.kind == .handler && i.handlerMay) || (s.w.kind == .surrender && i.routineMay)) &&
  (s.ordersWait i || (match i with
    | .dwait _ mask n => !s.w.dcAtMost mask n.toNat && (s.copyFault mask).isNone
    | .tfence _ => !s.flagsSettled
    | .gets _ _ sr _ => sr == .axf && !s.flagsSettled
    | .semwait _ sm ka imm => s.semWaits sm ka imm
    | .cpyw _ kval ch => s.cpyWaits kval ch
    | .collw _ kcomm kseq => s.collWaits kcomm kseq
    | .lnwait _ _ ka _ => s.collated && (s.launchStatus s.ctxNo (s.w.rdK ka.toNat).toNat).isNone
    | .macz _ _ _ => s.matBusy
    | .macr _ _ _ _ _ _ _ => s.matBusy
    | .macw _ _ _ _ _ _ _ => s.matBusy
    | .mlbld _ _ _ _ _ _ _ _ _ => s.matBusy
    | .mdrn _ _ _ _ _ _ _ _ _ _ => s.matBusy
    | _ => false))

/-- Whether a lock that finds its word at `pa` fails: the word is taken, and not with its own value (R309). -/
def State.lockTaken (s : State) (pa : Nat) (own : DWord) : Bool := own != 0 && !s.lockFree pa && s.readWord false pa pa 8 != own.toNat

/-- Whether a blocking lock of the group would fail in a domain, so that its attempt is withdrawn whole (R311, R428). -/
def State.lockJumps (s : State) (i : Instr) : Bool :=
  match i with
  | .lock _ kbase kval imm _ scope =>
    s.collated && (match s.tryLock kbase imm scope with
      | .ok pa _ => s.lockTaken pa (s.w.rdK kval.toNat)
      | _ => false)
  | _ => false

/-- Whether a blocking lock of an open grid waits, without a slot (R310): its word is taken, or its attempt is in the recall queue of another group's tile, or has no room there (R329). -/
def State.lockWaits (s : State) (i : Instr) : Bool :=
  match i with
  | .lock _ kbase kval imm _ scope =>
    !s.collated && !s.w.gotLock && (match s.tryLock kbase imm scope with
      | .ok pa _ =>
        if (s.tileBlocks s.w.grp [pa]).isSome then s.queuedAtTile s.cur i || s.tileFull s.w.grp [pa]
        else s.lockTaken pa (s.w.rdK kval.toNat)
      | _ => false)
  | _ => false

/-- The clk a group occupies its pipe for (R82). -/
def Warp.occupies (w : Warp) (is : List Instr) : Nat :=
  is.foldl (fun n i => match i.block? with
    | some (x, _) => max n ((w.extent x).1 * (w.extent x).2)
    | none => n) 1

/-- The group stands at issue: where it begins and the clock before it. -/
def Warp.atGroup (w : Warp) : Warp := { w with grpS := 0, grpLclk := w.lclk, grpW := 0, grpPc := w.runPc }

/-- The group issues: its words take effect one after another (R38), and its core issues no other group in this clk (R56). -/
def State.beginGroup (s : State) (is : List Instr) : State :=
  { s.modW fun w => { w with todo := is, earliest := s.clk + (w.occupies is - 1) } with turnCore := s.w.core + 2 }

/-- A group whose words have been fetched and decoded issues, waits, or traps as a whole (R43, R61, R64, R77, R81, R139, R299, R331; log 6, log 21). -/
def State.admitGroup (s : State) (is : List Instr) : State :=
  let s := s.modW Warp.atGroup
  let turn := s.collated && is.any Instr.waiting
  if turn && s.w.runWords != 0 then s.modW fun w => w.endRunAt fun _ => w.runPc
  else if turn && !s.isTurn s.cur then s.holdFree
  else if s.w.kind == .surrender && decide (s.w.budget < s.w.lclk + (is.map Instr.weight).sum) then s.endRoutine 3 2
  else s.checked is fun s =>
    if is.any s.badTarget then s.beginGroup [.illegalInstructionWord 0x0B]
    else if !s.w.blocksOk is then s.groupTrap 0x03 0x01 0
    else if s.w.countersFull is then s.hold
    else if is.any s.waits then s.holdRun
    else if is.any s.lockJumps then s.jumpRetry
    else match is.findSome? s.claimGate with
      | some s => s
      | none => s.beginGroup is

/-- Whether a group that has been fetched is one that its warp's turn holds back in a run: the run ends before it, whatever the run has held (R299). -/
def State.endsRun (s : State) (xs : List (Nat × Nat × Nat)) : Bool :=
  s.collated && s.w.runWords != 0 && (groupCodes 0 xs).isEmpty && (groupInstrs xs).any Instr.waiting

/-- The next group of an open run is tried: fetched whole, then checked (R43, R74); a page that is not resident is waited for in a collated grid and a fault elsewhere (R294). -/
def State.tryGroup (s : State) : State :=
  let s := s.modW Warp.commit
  match s.fetchGroup 3 s.w.runPc.toNat with
  | .bad d a => (s.modW Warp.atGroup).groupTrap 0x0A d a
  | .absent a => if s.inDomain then (s.requestPage s.ctxNo a).holdRun else (s.modW Warp.atGroup).groupTrap 0x0A 0x07 a
  | .words xs =>
    if s.endsRun xs then s.modW fun w => w.endRunAt fun _ => w.runPc
    else match s.groupCode s.w.runWords xs with
      | some d => (s.modW Warp.atGroup).beginGroup [.illegalInstructionWord d]
      | none => s.admitGroup (groupInstrs xs)

/-- The turn of warp `h` to issue: the next group is tried; one that has issued and whose remaining words wait is taken up where it stands. -/
def State.attempt (s : State) (h : Nat) : State :=
  let s := { s with cur := h, turnCore := max s.turnCore ((s.warpAt h).core + 1) }
  if s.w.todo.isEmpty then s.tryGroup else s

/-! ### Readiness and slots (R56 to R58) -/

/-- Whether the die of a core halts in a throttle bubble (R28, R424). -/
def State.frozen (s : State) (core : Nat) : Bool := (s.dieAt (coreDie core)).halted

/-- Whether a warp may open a run while its context is being saved (R401): a handler wave with HOLD until PDL has passed since the request, and a routine, whose tile is not saved with it,
once every warp has stopped (R338). -/
def State.openSaving (s : State) (h : Nat) : Bool :=
  let w := s.warpAt h
  let c := s.ctxOf h
  match w.kind with
  | .normal => false
  | .handler => w.tmaskHold && decide (s.clk < (s.ctxAt c).prqAt + clkOfUs (s.ctxAt c).pdl)
  | .surrender => (s.ctxWarps c).all fun k => (s.warpAt k).kind == .surrender || (s.warpAt k).stopped

/-- Whether nothing holds a warp back: an open run goes on; a new one opens only when every stopped thread has returned, no boundary turn is owed,
and its context is not being saved (R57, R300, R380, R401). -/
def State.mayRun (s : State) (h : Nat) : Bool :=
  let w := s.warpAt h
  !w.waiting && !w.halted && !w.ended && w.park.isNone && decide (w.earliest ≤ s.clk) && !s.frozen w.core &&
  (w.inRun || (w.stops.isEmpty && w.owed.isNone && w.nextStrand.isSome && (!(s.ctxAt (s.ctxOf h)).saving || s.openSaving h)))

/-- Whether the group with which warp `h` would go on is held by a wait of its own (R57): a turn, a wait that `State.waits` names, a lock, a claim in its recall queue,
or a half of a paired operation whose partner has not come. -/
def State.firstWaits (s : State) (h : Nat) : Bool :=
  let s := ({ s with cur := h }).modW fun w => (if w.inRun then w else w.openRun).commit.atGroup
  if !s.w.todo.isEmpty then (s.heldOp h).any fun o => !o.done && !o.started && o.partner.isSome
  else if s.w.runWords != 0 then false
  else match s.fetchGroup 3 s.w.runPc.toNat with
    | .words xs =>
      let is := groupInstrs xs
      (s.groupCode 0 xs).isNone && (is.any s.waits || is.any s.lockWaits || (s.collated && is.any Instr.waiting && (!s.isTurn h || s.claimPending)))
    | .absent a => s.inDomain && s.resReqs.any fun r => r.1 == s.ctxNo && r.2 == a / 4096 * 4096
    | .bad _ _ => false

/-- Whether a warp is ready (R57): nothing holds it back, and its first group does not wait. -/
def State.ready (s : State) (h : Nat) : Bool := s.mayRun h && !s.firstWaits h

/-- The warps that hold a slot of a core: their runs are open (R56). -/
def State.inSlots (s : State) (core : Nat) : List Nat := (s.coreAt core).slots.filter fun h => (s.warpAt h).inRun

/-- The warp whose key a warp takes part with in the choice of R58: a surrender routine runs with the key of the claim it serves (R340); a handler wave has none (R386). -/
def State.keyHolder (s : State) (h : Nat) : Option Nat :=
  let w := s.warpAt h
  match w.kind with
  | .normal => some h
  | .handler => none
  | .surrender => match (SMap.find s.tiles w.tile).bind fun e => e.queue.head? with
    | some (.claim c) => some c.warp
    | _ => none

/-- The domain whose delivered minimum is a warp's key (R58). -/
def State.urgent (s : State) (h : Nat) : Option Nat :=
  (s.keyHolder h).bind fun k =>
    let w := s.warpAt k
    let x := s.gridAt (s.groupAt w.grp).grid
    if x.ds.coll && (s.domAt x.pk.domain).delivered == some (s.keyAt k w.lclk) then some x.pk.domain else none

/-- Whether warp `a` comes before warp `b` in the choice of R58. -/
def State.before (s : State) (a b : Nat) : Bool :=
  let since (h : Nat) : Nat := (s.warpAt h).readySince.getD s.clk
  match s.urgent a, s.urgent b with
  | some x, some y => decide (x < y)
  | some _, none => true
  | none, some _ => false
  | none, none => decide (since a < since b) || (since a == since b && decide ((s.warpAt a).slotNo < (s.warpAt b).slotNo))

/-- The ready warp that takes a free slot of a core (R58). -/
def State.chosen (s : State) (core : Nat) : Option Nat :=
  let held := s.inSlots core
  let ready := (s.warps.filter fun e => e.2.core == core && !held.contains e.1 && s.ready e.1).map Prod.fst
  ready.foldl (fun b h => match b with
    | none => some h
    | some x => if s.before h x then some h else some x) none

/-- SLOT_FILL (R56, R58): at the start of a clk, one free slot takes the chosen warp, whose next run opens. -/
def execSlotFill (core : Nat) (s : State) : Out :=
  let held := s.inSlots core
  .next (if s.turnCore ≠ 0 ∨ 4 ≤ held.length then s
    else match s.chosen core with
      | none => s
      | some h => (s.modCore core fun c => { c with slots := held ++ [h] }).modWarp h fun w =>
          { (if w.inRun then w else w.openRun) with readySince := none })

/-! ### Words of handlers and routines (R331, R388) -/

/-- One word of the current warp: a handler's that it may not execute is a handler fault, a routine's forces the surrender. A word that orders earlier accesses waits for one that its own group has sent (R273, R280). -/
def State.runWord (run : Instr → State → Out) (i : Instr) (s : State) : Out :=
  match s.w.kind with
  | .normal => if s.ordersWait i then .next s.holdRun else run i s
  | .handler =>
    if i.handlerMay then (if s.ordersWait i then .next s.hold else run i s)
    else .next (s.handlerFault s.w.active (fun _ => 0) (fun _ => 1) fun _ => 0)
  | .surrender => if !i.routineMay then .next (s.endRoutine 3 4) else if s.ordersWait i then .next s.hold else run i s

/-! ### Events from outside -/

end Machine

/-- The events that come from outside the machine: the host, other agents, failures, the environment of a unit. -/
def Instr.external : Instr → Bool
  | .quireFill _ _ _ _ _ => true
  | .getm _ _ _ _ => true
  | .upg _ _ _ _ => true
  | .putm _ _ _ _ => true
  | .puts _ _ _ _ => true
  | .snpShare _ _ _ _ => true
  | .snpInv _ _ _ _ => true
  | .coherenceGrant _ _ _ _ => true
  | .inFlightReply _ _ _ _ => true
  | .absorbedAck _ _ _ _ => true
  | .peerForwardProbe _ _ _ _ _ => true
  | .backInvalidation _ _ _ => true
  | .biasFlip _ _ => true
  | .atsInvalidation _ _ _ => true
  | .agentFailure _ => true
  | .homeFailure _ _ _ => true
  | .pageResident _ _ => true
  | .collectiveComplete _ _ _ => true
  | .streamWriteAccept _ _ _ _ _ _ => true
  | .tailWrite _ _ _ => true
  | .qctlEnWrite _ _ => true
  | .qerrErrClear _ => true
  | .ctxctlPrq _ => true
  | .ctxctlRsq _ => true
  | .trresWrite _ _ => true
  | .ctxpasidWrite _ _ => true
  | .packageReset => true
  | .startUpStep _ _ _ => true
  | .pwrlimWrite _ => true
  | .errackWrite _ => true
  | .errbaseWrite _ => true
  | .errlostRead => true
  | .errorRecord _ => true
  | .registerWrite _ _ _ => true
  | .assignDomain _ _ _ => true
  | .setCommunicator _ _ _ _ => true
  | .returnLostPage _ _ => true
  | .fenceUnit _ _ => true
  | .assignPartition _ _ _ => true
  | .setPowerLimit _ _ => true
  | .getVersion => true
  | .getCapabilities => true
  | .negotiateAlgorithms => true
  | .getDigests => true
  | .getCertificate => true
  | .challenge _ => true
  | .getMeasurements => true
  | .bubbleSchedule _ _ => true
  | .bubbleAck _ => true
  | .timeMasterUpdate _ _ _ => true
  | .flitReceive _ _ _ => true
  | .flitAck _ _ => true
  | .laneFailure _ _ => true
  | .getsRequest _ _ _ _ => true
  | .snoopReply _ _ _ _ => true
  | .writeBackAcknowledgement _ _ _ _ => true
  | .hostCxlMemAccess _ _ _ => true
  | _ => false

namespace Machine

/-! ### Events that are due -/

/-- One element, or none. -/
def one (b : Bool) (i : Instr) : List Instr := if b then [i] else []

/-- Whether a warp's grid is saved (R402). -/
def State.warpSaved (s : State) (w : Warp) : Bool := (s.gridAt (s.groupAt w.grp).grid).saved

/-- Events of the warps: counters, queues, pairs, traps, ends. -/
def State.warpEvents (s : State) : List Instr :=
  s.warps.flatMap fun (e : Nat × Warp) =>
    let h := e.1
    let w := e.2
    if s.warpSaved w then []
    else
      (((List.range 7).filter fun c => ((w.inflight.find? fun f => f.dc == c).map (·.done)).getD false).map fun c => .counterRelease h (BitVec.ofNat 3 c)) ++
      one (!w.slice.issued.isEmpty && !s.frozen w.core) (.sliceEntryPush h) ++
      one (match w.park with | some p => p.on == .pair w.bound | none => false) (.mpairRendezvous h) ++
      one (!w.stops.isEmpty) (.trapDispatch h) ++
      one (w.exited == 0xFFFFFFFF && !w.ended) (.warpEnd h)

/-- Events of the cores: matrix operations, preqs. -/
def State.coreEvents (s : State) : List Instr :=
  s.cores.flatMap fun (e : Nat × Core) =>
    (if e.2.matq.isEmpty || s.frozen e.1 then [] else [.pairedOperationStart e.1, .mmaChunk e.1]) ++
    ((List.range e.2.preqs.length).map fun i => .preqComplete e.1 i)

/-- Copies under way; a saved group's wait, and so do those of a die that halts. -/
def State.copyEvents (s : State) : List Instr :=
  s.groups.flatMap fun (e : Nat × Group) =>
    let busy (c : Nat × Chan) : Bool := !c.2.copies.isEmpty && c.2.fault.isNone
    if (s.gridAt e.2.grid).saved || s.frozen e.2.core then []
    else ((e.2.chans.filter busy).map fun c => .copyDelivery e.1 0 c.1) ++ ((e.2.chansF.filter busy).map fun c => .copyDelivery e.1 1 c.1)

/-- Events of negotiated tiles. -/
def State.tileEvents (s : State) : List Instr :=
  s.tiles.flatMap fun (e : Nat × TileEntry) =>
    one e.2.surrendered.isSome (.surrenderComplete e.1) ++ one e.2.handing.isSome (.tileGrant e.1) ++
    one e.2.delay.isSome (.recallDelayExpiry e.1) ++ one (s.recallReady e.2) (.recallStart e.1)

/-- Events of collation domains (R295 to R301). -/
def State.domainEvents (s : State) : List Instr :=
  s.domains.flatMap fun (e : Nat × Domain) =>
    one (s.duePoint e.1).isSome (.publication e.1) ++
    one ((s.minimum e.1).isSome && s.minimum e.1 != e.2.delivered) (.minimumDelivery e.1) ++
    one (!e.2.reqs.isEmpty) (.orderedRequestPerform e.1)

/-- Events of grids: release, gangs, ends (R351, R359, R364, R365). -/
def State.gridEvents (s : State) : List Instr :=
  s.grids.flatMap fun (e : Nat × Grid) =>
    let busy := e.2.ranges.any fun r => !r.2.isEmpty
    one (s.mayRelease e.1) (.gridRelease e.1) ++
    ((e.2.ranges.filter fun r => !r.2.isEmpty && (s.tryGang e.1 r.1).isSome).map fun r => .gangStart r.1) ++
    (if busy then ((s.clusters e.2.ctx).filter fun k => (s.stealRanges e.1 k).isSome).map fun k => .gangSteal k else []) ++
    one (e.2.st == .running && !e.2.killed && decide (e.2.pk.ngroups ≤ e.2.ended)) (.endEdgeStep e.1) ++
    one (e.2.killed || e.2.st == .ending) (.gridComplete e.1)

/-- Packets that can be taken, by priority and then in rotation (R348). -/
def State.queueEvents (s : State) : List Instr :=
  if s.queues.isEmpty then []
  else
    let order := (s.queues.filter fun e => decide (s.lastQueue < e.1)) ++ (s.queues.filter fun e => decide (e.1 ≤ s.lastQueue))
    ((List.range 4).flatMap fun p => (order.filter fun e => s.ringReady e.1 p).map fun e => .packetService e.1 p) ++
    (s.queues.filter fun e => e.2.wdSince.isSome).flatMap fun e => [.watchdogPreempt e.1, .watchdogKill e.1, .watchdogFence e.1]

/-- Events of contexts: saving and restoring (R400 to R407). -/
def State.ctxEvents (s : State) : List Instr :=
  s.ctxs.flatMap fun (e : Nat × Ctx) =>
    one e.2.draining (.preemptDeadline e.1) ++ one (e.2.saving && e.2.image.isNone) (.segmentCut e.1) ++
    one (e.2.saving && e.2.image.isSome) (.saveComplete e.1) ++ one (e.2.saving && e.2.image.isNone) (.saveDeadline e.1) ++
    one e.2.restoring (.restoreComplete e.1)

/-- Handler waves, fences that wait, bubbles, invalidations. -/
def State.planeEvents (s : State) : List Instr :=
  (s.dies.filter fun (e : Nat × Die) => !(e.2.gathers.isEmpty && e.2.waves.isEmpty)).map (fun e => .handlerWaveStart e.1) ++
  s.mgmt.fences.map (fun u => .fenceUnit true u) ++
  (if s.mgmt.bubble.isNone then [] else .bubbleCancel :: (List.range allDies).map fun d => if (s.dieAt d).halted then .bubbleEnd d else .bubbleStart d) ++
  (List.range s.invals.length).map fun i => .invalidationCompletion i

/-- Coherence traffic that goes on by itself: write-backs, requests reaching the directory, grants (R216, R222, R225). -/
def State.cohEvents (s : State) : List Instr :=
  (s.cache.absorbed.map fun r => .absorbedAck r.agent r.frame r.first r.last) ++
  (s.cache.quires.flatMap fun (e : Nat × List Quire) => (e.2.filter fun q => q.st == .wbp).map fun q =>
    if q.dirty.isEmpty then .writeBackAcknowledgement e.1 q.frame q.first q.last else .putm e.1 q.frame q.first q.last) ++
  s.cache.coh.map fun r =>
    if r.granted then .coherenceGrant r.agent r.frame r.first r.last
    else if r.own then .getm r.agent r.frame r.first r.last
    else .getsRequest r.agent r.frame r.first r.last

/-- Slots that a ready warp can take (R58). -/
def State.slotEvents (s : State) : List Instr :=
  s.cores.flatMap fun (e : Nat × Core) => one (s.turnCore == 0 && decide ((s.inSlots e.1).length < 4) && (s.chosen e.1).isSome) (.slotFill e.1)

/-- The events that may be due now, in the order in which they are tried (log 1). -/
def State.events (s : State) : List Instr :=
  s.warpEvents ++ s.cohEvents ++ s.coreEvents ++ ((List.range s.adds.length).map fun i => .addOnStoreApply i) ++ s.copyEvents ++ s.tileEvents ++
  s.domainEvents ++ s.planeEvents ++ s.gridEvents ++ s.queueEvents ++ s.ctxEvents ++ s.slotEvents

/-- The events that come after everything else of a clk: the watches of barriers, which a completion in that clk precedes (R274). -/
def State.lateEvents (s : State) : List Instr :=
  s.warps.flatMap fun (e : Nat × Warp) => if s.warpSaved e.2 then [] else e.2.barts.map fun t => .bartTimeout e.1 t.seq

/-- The state after the first of some events that changes anything. -/
def State.firstOf (s : State) (run : Instr → State → Out) (es : List Instr) : Option State :=
  es.findSome? fun e => match run e s with
    | .next t => if t = s then none else some t
    | _ => none

/-- The state after the first due event that changes anything. -/
def State.afterEvent (s : State) (run : Instr → State → Out) : Option State := s.firstOf run s.events

/-! ### Time -/

/-- The current warp where none is: no warp has this number. -/
def noWarp : Nat := 2 ^ 64

/-- The warp whose turn to issue it is: of each core, until one of its groups has issued in this clk, the warp of its earliest-opened run that may go on; one whose group waits leaves the turn to the next (R56). -/
def State.pick (s : State) : Option Nat :=
  s.cores.findSome? fun (e : Nat × Core) =>
    if e.1 + 1 < s.turnCore then none else (s.inSlots e.1).find? s.mayRun

/-- One clk passes: every running slice executes its next word unless its context is being saved, what waited may try again, a warp that waits in a context being saved stays where it is (R401),
and readiness is counted (R58). -/
def State.tick (s : State) : State :=
  let s := s.flushDones.flushUnlives
  let s := (s.warps.filter fun e => e.2.slice.st == .running && !s.warpSaved e.2 && !s.frozen e.2.core && !(s.ctxAt (s.ctxOf e.1)).saving).foldl (fun s e => s.sliceStep e.1) s
  let s := { s with
    clk := s.clk + 1, turnCore := 0, cur := noWarp
    warps := s.warps.map fun (e : Nat × Warp) =>
      let stuck := (e.2.waiting || e.2.park.isSome) && (s.ctxAt (s.ctxOf e.1)).saving && (e.2.kind == WarpKind.normal || (e.2.kind == WarpKind.handler && !s.openSaving e.1))
      (e.1, { e.2 with waiting := false, halted := e.2.halted || stuck }) }
  { s with warps := s.warps.map fun (e : Nat × Warp) =>
      (e.1, { e.2 with readySince := if !(s.inSlots e.2.core).contains e.1 && s.ready e.1 then e.2.readySince <|> some s.clk else none }) }

/-- Whether an event comes over a link: a host port or a Balral port. -/
def overLink : Instr → Bool
  | .streamWriteAccept _ _ _ _ _ _ => true
  | .collectiveComplete _ _ _ => true
  | .hostCxlMemAccess _ _ _ => true
  | .atsInvalidation _ _ _ => true
  | .tailWrite _ _ _ => true
  | .qctlEnWrite _ _ => true
  | .qerrErrClear _ => true
  | .ctxctlPrq _ => true
  | .ctxctlRsq _ => true
  | .trresWrite _ _ => true
  | .ctxpasidWrite _ _ => true
  | .pwrlimWrite _ => true
  | .errackWrite _ => true
  | .errbaseWrite _ => true
  | .errlostRead => true
  | .registerWrite _ _ _ => true
  | _ => false

/-- The event from outside that comes next: in a throttle bubble the links, which are the spine's, take nothing in above replay (R424; log 62). -/
def State.nextInput (s : State) : Option Instr := s.inputs.find? fun e => !(overLink e && (s.dieAt spineDie).halted)

/-- The first word of a group that would wait where it stands, with its address: in one clk all words of a group issue or none (R38). A word that waits only for what the group itself has sent
goes on later, and so do an operation that its core's arrays now work on (R156) and an mpair, which has issued and waits for its partner's (R155). -/
def State.stuckWord (run : Instr → State → Out) (t : State) : Nat → State → Option (Instr × DWord)
  | 0, _ => none
  | n + 1, u =>
    match u.w.todo with
    | [] => none
    | i :: _ =>
      match u.runWord run i with
      | .next v =>
        let begun := (u.ordersWait i && !t.ordersWait i) || ((v.heldOp v.cur).isSome && (t.heldOp t.cur).isNone) || v.w.park.isSome
        if !v.w.waiting then State.stuckWord run t n v
        else if begun then State.stuckWord run t n (u.modW fun w => { w with todo := w.todo.drop 1, runPc := w.runPc + BitVec.ofNat 64 (4 * i.words) })
        else some (i, u.w.runPc)
      | _ => none

/-- The group that `t` has begun waits as a whole at a word that would wait: it has not issued, and its core may issue another (R38, R56). What the word asks for meanwhile it has asked for. -/
def State.groupWaits (run : Instr → State → Out) (t : State) (earliest : Nat) (x : Instr × DWord) : State :=
  let u := { t with turnCore := t.w.core + 1 }.modW fun w => { w with todo := [x.1], runPc := x.2, earliest := earliest }
  let v := match u.runWord run x.1 with
    | .next v => if v.w.waiting then v else u.holdRun
    | _ => u.holdRun
  v.modW fun w => { w with todo := [], runPc := t.w.runPc }

/-- What happens when the current warp has nothing to go on with: an event from outside, a due event, a group of the warp whose turn it is, or the next clk. -/
def State.idleStep (s : State) (run : Instr → State → Out) : Out :=
  match s.nextInput with
  | some e => if e.external then run e { s with inputs := s.inputs.erase e } else .next { s with inputs := s.inputs.erase e }
  | none =>
    match s.afterEvent run with
    | some t => .next t
    | none =>
      match s.pick with
      | none => .next ((s.firstOf run s.lateEvents).getD s.tick)
      | some h =>
        let t := s.attempt h
        match t.w.todo with
        | i :: _ =>
          if t.w.waiting then .next t
          else if !(s.warpAt h).todo.isEmpty then t.runWord run i
          else match State.stuckWord run t 3 t with
            | some x => .next (State.groupWaits run t (s.warpAt h).earliest x)
            | none => t.runWord run i
        | [] => .next t

/-- One step: the next word of the group being issued, else as `idleStep` says. -/
def State.advance (s : State) (run : Instr → State → Out) : Out :=
  match s.w.todo with
  | i :: _ => if s.w.waiting then s.idleStep run else s.runWord run i
  | [] => s.idleStep run

/-! ### Placing an instruction where the next step fetches (log 4) -/

/-- Page tables at 1 MiB that map the virtual addresses below 2 MiB to the physical addresses 2 MiB higher: HBM, resident, writable, code and data (Table 8.5). -/
def State.mapLow (s : State) : State :=
  let put (s : State) (a x : Nat) : State := s.writeThrough a (toBytes 8 x)
  put (put (put (put s 0x100000 0x101001) 0x101000 0x102001) 0x102000 0x103001) 0x103000 0x20007F

/-- The grid, group and warp of a launch of one group of one warp, with its code object at 0x1000, stand on core 0 with an open run at the word given by `bytes`:
at position 2 of its packet for a call or callx (R41), at position 0 for any other. -/
def State.placeWord (s : State) (bytes : List Byte) : State :=
  let op := opOf (ofBytes (bytes.take 4))
  let pc := if op = 0x07 ∨ op = 0x08 then 0x1008 else 0x1000
  let grid := s.grids.fresh
  let grp := s.groups.fresh
  let h := s.warps.fresh
  let s := (s.mapLow.writeThrough (0x200000 + pc) bytes).setCtx 0 { s.ctxAt 0 with troot := 0x100000 }
  let s := s.setGrid grid
    { Grid.none_ with launch := 1, pk := { Packet.none_ with ngroups := 1 }, ds := { Desc.none_ with code := 0x1000, codelen := 0x100, shape := 1 }, st := .running, nextWave := 1 }
  let s := s.setGroup grp { Group.none_ with grid := grid, warpsLeft := 1 }
  let s := s.setWarp h
    { Warp.idle with grp := grp, inRun := true, active := 0xFFFFFFFF, runPc := BitVec.ofNat 64 pc, lastLow := some 0, pcs := lanes.map fun l => (l, BitVec.ofNat 64 pc) }
  { s.modCore 0 fun c => { c with slots := [h], grid := some grid } with cur := noWarp, turnCore := 0, inputs := [] }

end Machine
end Sys2Proof
end

