-- ==== Sys2Proof/Machine/Dispatch.lean ====
section
/-! DEFINITION. The one dispatch from an instruction to its meaning. -/

namespace Sys2Proof.Machine

/-- The meaning of every instruction, operation and event. -/
def exec (i : Instr) (s : State) : Host.Outcome State Fault Refusal :=
  match i with
  | .nop h => Sys2Proof.Machine.execNop h s
  | .bra h off => Sys2Proof.Machine.execBra h off s
  | .brp h p off => Sys2Proof.Machine.execBrp h p off s
  | .brn h p off => Sys2Proof.Machine.execBrn h p off s
  | .bru h k off => Sys2Proof.Machine.execBru h k off s
  | .bruz h k off => Sys2Proof.Machine.execBruz h k off s
  | .jmpx h ka => Sys2Proof.Machine.execJmpx h ka s
  | .call h k off => Sys2Proof.Machine.execCall h k off s
  | .callx h kd ka => Sys2Proof.Machine.execCallx h kd ka s
  | .ret h ka => Sys2Proof.Machine.execRet h ka s
  | .exit h => Sys2Proof.Machine.execExit h s
  | .dwait h mask n => Sys2Proof.Machine.execDwait h mask n s
  | .chkm h mode => Sys2Proof.Machine.execChkm h mode s
  | .brk h code => Sys2Proof.Machine.execBrk h code s
  | .iadd h d a b x => Sys2Proof.Machine.execIadd h d a b x s
  | .isub h d a b x => Sys2Proof.Machine.execIsub h d a b x s
  | .imul h d a b x => Sys2Proof.Machine.execImul h d a b x s
  | .imulhS h d a b x => Sys2Proof.Machine.execImulhS h d a b x s
  | .imulhN h d a b x => Sys2Proof.Machine.execImulhN h d a b x s
  | .imad h d a b x => Sys2Proof.Machine.execImad h d a b x s
  | .iaddi h d a imm => Sys2Proof.Machine.execIaddi h d a imm s
  | .iminS h d a b x => Sys2Proof.Machine.execIminS h d a b x s
  | .iminN h d a b x => Sys2Proof.Machine.execIminN h d a b x s
  | .imaxS h d a b x => Sys2Proof.Machine.execImaxS h d a b x s
  | .imaxN h d a b x => Sys2Proof.Machine.execImaxN h d a b x s
  | .shl h d a b x => Sys2Proof.Machine.execShl h d a b x s
  | .shr h d a b x => Sys2Proof.Machine.execShr h d a b x s
  | .sar h d a b x => Sys2Proof.Machine.execSar h d a b x s
  | .shli h d a n => Sys2Proof.Machine.execShli h d a n s
  | .shri h d a n => Sys2Proof.Machine.execShri h d a n s
  | .sari h d a n => Sys2Proof.Machine.execSari h d a n s
  | .roti h d a n => Sys2Proof.Machine.execRoti h d a n s
  | .and h d a b x => Sys2Proof.Machine.execAnd h d a b x s
  | .or h d a b x => Sys2Proof.Machine.execOr h d a b x s
  | .xor h d a b x => Sys2Proof.Machine.execXor h d a b x s
  | .andn h d a b x => Sys2Proof.Machine.execAndn h d a b x s
  | .andi h d a imm => Sys2Proof.Machine.execAndi h d a imm s
  | .ori h d a imm => Sys2Proof.Machine.execOri h d a imm s
  | .xori h d a imm => Sys2Proof.Machine.execXori h d a imm s
  | .not h d a x => Sys2Proof.Machine.execNot h d a x s
  | .popc h d a x => Sys2Proof.Machine.execPopc h d a x s
  | .clz h d a x => Sys2Proof.Machine.execClz h d a x s
  | .brev h d a x => Sys2Proof.Machine.execBrev h d a x s
  | .iabs h d a x => Sys2Proof.Machine.execIabs h d a x s
  | .ineg h d a x => Sys2Proof.Machine.execIneg h d a x s
  | .bfx h d a x pos len sx => Sys2Proof.Machine.execBfx h d a x pos len sx s
  | .bfi h d a x pos len => Sys2Proof.Machine.execBfi h d a x pos len s
  | .lea h d a b x sh disp => Sys2Proof.Machine.execLea h d a b x sh disp s
  | .icmp h p a b cond comb q => Sys2Proof.Machine.execIcmp h p a b cond comb q s
  | .sel h d a b x p => Sys2Proof.Machine.execSel h d a b x p s
  | .movi h d x imm => Sys2Proof.Machine.execMovi h d x imm s
  | .movk h d ka hi x => Sys2Proof.Machine.execMovk h d ka hi x s
  | .idot4 h d a b mode => Sys2Proof.Machine.execIdot4 h d a b mode s
  | .kadd h kd ka kb => Sys2Proof.Machine.execKadd h kd ka kb s
  | .ksub h kd ka kb => Sys2Proof.Machine.execKsub h kd ka kb s
  | .kmul h kd ka kb => Sys2Proof.Machine.execKmul h kd ka kb s
  | .kand h kd ka kb => Sys2Proof.Machine.execKand h kd ka kb s
  | .kor h kd ka kb => Sys2Proof.Machine.execKor h kd ka kb s
  | .kxor h kd ka kb => Sys2Proof.Machine.execKxor h kd ka kb s
  | .kshl h kd ka kb => Sys2Proof.Machine.execKshl h kd ka kb s
  | .kshr h kd ka kb => Sys2Proof.Machine.execKshr h kd ka kb s
  | .kaddi h kd ka imm => Sys2Proof.Machine.execKaddi h kd ka imm s
  | .kset h kd f imm => Sys2Proof.Machine.execKset h kd f imm s
  | .kcmp h kd ka kb cond => Sys2Proof.Machine.execKcmp h kd ka kb cond s
  | .kmov h kd ka => Sys2Proof.Machine.execKmov h kd ka s
  | .kfromv h kd va lane f => Sys2Proof.Machine.execKfromv h kd va lane f s
  | .pand h p a b => Sys2Proof.Machine.execPand h p a b s
  | .por h p a b => Sys2Proof.Machine.execPor h p a b s
  | .pxor h p a b => Sys2Proof.Machine.execPxor h p a b s
  | .pandn h p a b => Sys2Proof.Machine.execPandn h p a b s
  | .pclr h p => Sys2Proof.Machine.execPclr h p s
  | .pset h p => Sys2Proof.Machine.execPset h p s
  | .pnot h p a => Sys2Proof.Machine.execPnot h p a s
  | .pmov h p a => Sys2Proof.Machine.execPmov h p a s
  | .ptov h vd a => Sys2Proof.Machine.execPtov h vd a s
  | .vtop h p va => Sys2Proof.Machine.execVtop h p va s
  | .qswp h d a dir => Sys2Proof.Machine.execQswp h d a dir s
  | .qbc h d a n => Sys2Proof.Machine.execQbc h d a n s
  | .qhlp h mode => Sys2Proof.Machine.execQhlp h mode s
  | .wshf h d a b => Sys2Proof.Machine.execWshf h d a b s
  | .wshx h d a n mode => Sys2Proof.Machine.execWshx h d a n mode s
  | .wvote h d a mode => Sys2Proof.Machine.execWvote h d a mode s
  | .wred h d a op => Sys2Proof.Machine.execWred h d a op s
  | .fadd h d a b x => Sys2Proof.Machine.execFadd h d a b x s
  | .fsub h d a b x => Sys2Proof.Machine.execFsub h d a b x s
  | .fmul h d a b x => Sys2Proof.Machine.execFmul h d a b x s
  | .ffma h d a b x => Sys2Proof.Machine.execFfma h d a b x s
  | .fmin h d a b x => Sys2Proof.Machine.execFmin h d a b x s
  | .fmax h d a b x => Sys2Proof.Machine.execFmax h d a b x s
  | .fabs h d a x => Sys2Proof.Machine.execFabs h d a x s
  | .fneg h d a x => Sys2Proof.Machine.execFneg h d a x s
  | .frcp h d a x => Sys2Proof.Machine.execFrcp h d a x s
  | .frsq h d a x => Sys2Proof.Machine.execFrsq h d a x s
  | .fsqrt h d a x => Sys2Proof.Machine.execFsqrt h d a x s
  | .fex2 h d a x => Sys2Proof.Machine.execFex2 h d a x s
  | .flg2 h d a x => Sys2Proof.Machine.execFlg2 h d a x s
  | .fsin h d a x => Sys2Proof.Machine.execFsin h d a x s
  | .fcos h d a x => Sys2Proof.Machine.execFcos h d a x s
  | .fcmp h p a b cond comb q => Sys2Proof.Machine.execFcmp h p a b cond comb q s
  | .fdot2 h d a b bf => Sys2Proof.Machine.execFdot2 h d a b bf s
  | .hadd2 h d a b bf => Sys2Proof.Machine.execHadd2 h d a b bf s
  | .hmul2 h d a b bf => Sys2Proof.Machine.execHmul2 h d a b bf s
  | .hfma2 h d a b bf => Sys2Proof.Machine.execHfma2 h d a b bf s
  | .frnd h d a mode => Sys2Proof.Machine.execFrnd h d a mode s
  | .fsetm h d mask value => Sys2Proof.Machine.execFsetm h d mask value s
  | .fcvt h d a dty sty shalf dhalf rnd => Sys2Proof.Machine.execFcvt h d a dty sty shalf dhalf rnd s
  | .fcvti h d a it ft rnd => Sys2Proof.Machine.execFcvti h d a it ft rnd s
  | .icvtf h d a it ft rnd => Sys2Proof.Machine.execIcvtf h d a it ft rnd s
  | .fpack h d a b pos kseed => Sys2Proof.Machine.execFpack h d a b pos kseed s
  | .funpk h d a b pos c sc => Sys2Proof.Machine.execFunpk h d a b pos c sc s
  | .fscl h d a b sf => Sys2Proof.Machine.execFscl h d a b sf s
  | .fsca h d a b c => Sys2Proof.Machine.execFsca h d a b c s
  | .fzct h d peek => Sys2Proof.Machine.execFzct h d peek s
  | .mma h a b t sr qa qb fw sc ty z n dc => Sys2Proof.Machine.execMma h a b t sr qa qb fw sc ty z n dc s
  | .mlut h b kt t fw qb z dc e neg => Sys2Proof.Machine.execMlut h b kt t fw qb z dc e neg s
  | .mlbld h a kt g0 fw ty pm dc qa => Sys2Proof.Machine.execMlbld h a kt g0 fw ty pm dc qa s
  | .macz h t val => Sys2Proof.Machine.execMacz h t val s
  | .macr h d t row0 hi cnt dc => Sys2Proof.Machine.execMacr h d t row0 hi cnt dc s
  | .macw h d t row0 hi cnt dc => Sys2Proof.Machine.execMacw h d t row0 hi cnt dc s
  | .mdrn h t spad kbase kpitch add ety dc row0 nrows => Sys2Proof.Machine.execMdrn h t spad kbase kpitch add ety dc row0 nrows s
  | .mpairBind h => Sys2Proof.Machine.execMpairBind h s
  | .mpairRel h => Sys2Proof.Machine.execMpairRel h s
  | .ld h d kbase voff size => Sys2Proof.Machine.execLd h d kbase voff size s
  | .st h d kbase voff size => Sys2Proof.Machine.execSt h d kbase voff size s
  | .ldl h d kbase voff size imm dc probe hint scale sx => Sys2Proof.Machine.execLdl h d kbase voff size imm dc probe hint scale sx s
  | .stl h d kbase voff size imm dc hint scale => Sys2Proof.Machine.execStl h d kbase voff size imm dc hint scale s
  | .lds h d kbase voff size => Sys2Proof.Machine.execLds h d kbase voff size s
  | .sts h d kbase voff size => Sys2Proof.Machine.execSts h d kbase voff size s
  | .ldk h kd kbase sx size imm dc => Sys2Proof.Machine.execLdk h kd kbase sx size imm dc s
  | .stk h kd kbase size imm dc => Sys2Proof.Machine.execStk h kd kbase size imm dc s
  | .pref h l2 kbase voff size imm hint scale => Sys2Proof.Machine.execPref h l2 kbase voff size imm hint scale s
  | .cwb h klen kbase scope imm dc => Sys2Proof.Machine.execCwb h klen kbase scope imm dc s
  | .cflu h klen kbase scope imm dc => Sys2Proof.Machine.execCflu h klen kbase scope imm dc s
  | .cinv h klen kbase scope imm dc zf => Sys2Proof.Machine.execCinv h klen kbase scope imm dc zf s
  | .preq h klen kbase sem useSem imm dc => Sys2Proof.Machine.execPreq h klen kbase sem useSem imm dc s
  | .atom h d kbase voff size vs op ord scope dc imm => Sys2Proof.Machine.execAtom h d kbase voff size vs op ord scope dc imm s
  | .red h kbase voff size vs op ord scope dc imm => Sys2Proof.Machine.execRed h kbase voff size vs op ord scope dc imm s
  | .atoms h d kbase voff size vs op ord scope dc imm => Sys2Proof.Machine.execAtoms h d kbase voff size vs op ord scope dc imm s
  | .fence h scope ord => Sys2Proof.Machine.execFence h scope ord s
  | .barSync h id kcnt scope => Sys2Proof.Machine.execBarSync h id kcnt scope s
  | .barArrive h id kcnt scope => Sys2Proof.Machine.execBarArrive h id kcnt scope s
  | .barWait h id scope => Sys2Proof.Machine.execBarWait h id scope s
  | .bart h id ktime scope p dc => Sys2Proof.Machine.execBart h id ktime scope p dc s
  | .gbar h => Sys2Proof.Machine.execGbar h s
  | .clkjAdd h imm => Sys2Proof.Machine.execClkjAdd h imm s
  | .clkjAddk h ka => Sys2Proof.Machine.execClkjAddk h ka s
  | .clkjSetk h ka => Sys2Proof.Machine.execClkjSetk h ka s
  | .clkjNb h => Sys2Proof.Machine.execClkjNb h s
  | .lock h kbase kval imm dc scope => Sys2Proof.Machine.execLock h kbase kval imm dc scope s
  | .lockTry h p kbase kval imm dc scope => Sys2Proof.Machine.execLockTry h p kbase kval imm dc scope s
  | .unlock h p kbase kval imm dc scope => Sys2Proof.Machine.execUnlock h p kbase kval imm dc scope s
  | .aecfg h mask => Sys2Proof.Machine.execAecfg h mask s
  | .aego h off => Sys2Proof.Machine.execAego h off s
  | .aestop h => Sys2Proof.Machine.execAestop h s
  | .qbind h mask => Sys2Proof.Machine.execQbind h mask s
  | .sliceLdl h d kbase kstride size imm hint sx => Sys2Proof.Machine.execSliceLdl h d kbase kstride size imm hint sx s
  | .cpy h kdst kfrom klen ch s2g dc => Sys2Proof.Machine.execCpy h kdst kfrom klen ch s2g dc s
  | .cpym h kdst kfrom klen ch dc gmask => Sys2Proof.Machine.execCpym h kdst kfrom klen ch dc gmask s
  | .cpyw h kval ch => Sys2Proof.Machine.execCpyw h kval ch s
  | .cpyq h kd ch ip dc => Sys2Proof.Machine.execCpyq h kd ch ip dc s
  | .semset h sm ka imm => Sys2Proof.Machine.execSemset h sm ka imm s
  | .semadd h sm ka imm => Sys2Proof.Machine.execSemadd h sm ka imm s
  | .semwait h sm ka imm => Sys2Proof.Machine.execSemwait h sm ka imm s
  | .coll h kdesc kd dc => Sys2Proof.Machine.execColl h kdesc kd dc s
  | .collw h kcomm kseq => Sys2Proof.Machine.execCollw h kcomm kseq s
  | .tclaim h kd kbase kgeo karg routine keep dc try_ => Sys2Proof.Machine.execTclaim h kd kbase kgeo karg routine keep dc try_ s
  | .trel h kbase dc => Sys2Proof.Machine.execTrel h kbase dc s
  | .tsurr h kdelay outcome => Sys2Proof.Machine.execTsurr h kdelay outcome s
  | .tquery h kd kbase dc => Sys2Proof.Machine.execTquery h kd kbase dc s
  | .lnch h kd ka dc => Sys2Proof.Machine.execLnch h kd ka dc s
  | .lnwait h kd ka dc => Sys2Proof.Machine.execLnwait h kd ka dc s
  | .qpost h kd ka q prio dc => Sys2Proof.Machine.execQpost h kd ka q prio dc s
  | .lmap h kd ka which dc => Sys2Proof.Machine.execLmap h kd ka which dc s
  | .trap h code => Sys2Proof.Machine.execTrap h code s
  | .tfence h => Sys2Proof.Machine.execTfence h s
  | .rft h mode => Sys2Proof.Machine.execRft h mode s
  | .tmask h en m ho => Sys2Proof.Machine.execTmask h en m ho s
  | .gets h r sr rk => Sys2Proof.Machine.execGets h r sr rk s
  | .sets h r sr rk => Sys2Proof.Machine.execSets h r sr rk s
  | .tmr h kd master dc => Sys2Proof.Machine.execTmr h kd master dc s
  | .orgr h vd n cls dc => Sys2Proof.Machine.execOrgr h vd n cls dc s
  | .orgw h va n cls dc => Sys2Proof.Machine.execOrgw h va n cls dc s
  | .slotFill core => Sys2Proof.Machine.execSlotFill core s
  | .counterRelease wp dc => Sys2Proof.Machine.execCounterRelease wp dc s
  | .trapDispatch wp => Sys2Proof.Machine.execTrapDispatch wp s
  | .handlerWaveStart die => Sys2Proof.Machine.execHandlerWaveStart die s
  | .warpEnd wp => Sys2Proof.Machine.execWarpEnd wp s
  | .pairedOperationStart core => Sys2Proof.Machine.execPairedOperationStart core s
  | .mpairRendezvous wp => Sys2Proof.Machine.execMpairRendezvous wp s
  | .mmaChunk core => Sys2Proof.Machine.execMmaChunk core s
  | .addOnStoreApply idx => Sys2Proof.Machine.execAddOnStoreApply idx s
  | .getm agent frame first last => Sys2Proof.Machine.execGetm agent frame first last s
  | .putm agent frame first last => Sys2Proof.Machine.execPutm agent frame first last s
  | .coherenceGrant agent frame first last => Sys2Proof.Machine.execCoherenceGrant agent frame first last s
  | .absorbedAck agent frame first last => Sys2Proof.Machine.execAbsorbedAck agent frame first last s
  | .invalidationCompletion idx => Sys2Proof.Machine.execInvalidationCompletion idx s
  | .preqComplete core idx => Sys2Proof.Machine.execPreqComplete core idx s
  | .sliceEntryPush wp => Sys2Proof.Machine.execSliceEntryPush wp s
  | .copyDelivery grp side ch => Sys2Proof.Machine.execCopyDelivery grp side ch s
  | .bartTimeout wp seq => Sys2Proof.Machine.execBartTimeout wp seq s
  | .minimumDelivery dom => Sys2Proof.Machine.execMinimumDelivery dom s
  | .orderedRequestPerform dom => Sys2Proof.Machine.execOrderedRequestPerform dom s
  | .publication dom => Sys2Proof.Machine.execPublication dom s
  | .tileGrant tile => Sys2Proof.Machine.execTileGrant tile s
  | .recallStart tile => Sys2Proof.Machine.execRecallStart tile s
  | .recallDelayExpiry tile => Sys2Proof.Machine.execRecallDelayExpiry tile s
  | .surrenderComplete tile => Sys2Proof.Machine.execSurrenderComplete tile s
  | .packetService q p => Sys2Proof.Machine.execPacketService q p s
  | .gridRelease grid => Sys2Proof.Machine.execGridRelease grid s
  | .gangStart cluster => Sys2Proof.Machine.execGangStart cluster s
  | .gangSteal cluster => Sys2Proof.Machine.execGangSteal cluster s
  | .endEdgeStep grid => Sys2Proof.Machine.execEndEdgeStep grid s
  | .gridComplete grid => Sys2Proof.Machine.execGridComplete grid s
  | .watchdogPreempt q => Sys2Proof.Machine.execWatchdogPreempt q s
  | .watchdogKill q => Sys2Proof.Machine.execWatchdogKill q s
  | .watchdogFence q => Sys2Proof.Machine.execWatchdogFence q s
  | .preemptDeadline c => Sys2Proof.Machine.execPreemptDeadline c s
  | .segmentCut c => Sys2Proof.Machine.execSegmentCut c s
  | .saveComplete c => Sys2Proof.Machine.execSaveComplete c s
  | .saveDeadline c => Sys2Proof.Machine.execSaveDeadline c s
  | .restoreComplete c => Sys2Proof.Machine.execRestoreComplete c s
  | .fenceUnit sec u => Sys2Proof.Machine.execFenceUnit sec u s
  | .bubbleCancel => Sys2Proof.Machine.execBubbleCancel s
  | .bubbleStart die => Sys2Proof.Machine.execBubbleStart die s
  | .bubbleEnd die => Sys2Proof.Machine.execBubbleEnd die s
  | .getsRequest agent frame first last => Sys2Proof.Machine.execGetsRequest agent frame first last s
  | .writeBackAcknowledgement agent frame first last => Sys2Proof.Machine.execWriteBackAcknowledgement agent frame first last s
  | .illegalInstructionWord detail => Sys2Proof.Machine.execIllegalInstructionWord detail s
  | .quireFill agent frame first last qs => Sys2Proof.Machine.execQuireFill agent frame first last qs s
  | .upg agent frame first last => Sys2Proof.Machine.execUpg agent frame first last s
  | .puts agent frame first last => Sys2Proof.Machine.execPuts agent frame first last s
  | .snpShare agent frame first last => Sys2Proof.Machine.execSnpShare agent frame first last s
  | .snpInv agent frame first last => Sys2Proof.Machine.execSnpInv agent frame first last s
  | .inFlightReply agent frame first last => Sys2Proof.Machine.execInFlightReply agent frame first last s
  | .peerForwardProbe core cluster frame first last => Sys2Proof.Machine.execPeerForwardProbe core cluster frame first last s
  | .backInvalidation frame first last => Sys2Proof.Machine.execBackInvalidation frame first last s
  | .biasFlip page toHost => Sys2Proof.Machine.execBiasFlip page toHost s
  | .atsInvalidation va len pasid => Sys2Proof.Machine.execAtsInvalidation va len pasid s
  | .agentFailure u => Sys2Proof.Machine.execAgentFailure u s
  | .homeFailure home base len => Sys2Proof.Machine.execHomeFailure home base len s
  | .pageResident ctx va => Sys2Proof.Machine.execPageResident ctx va s
  | .collectiveComplete comm peers fault => Sys2Proof.Machine.execCollectiveComplete comm peers fault s
  | .streamWriteAccept src cls num rel pa bytes => Sys2Proof.Machine.execStreamWriteAccept src cls num rel pa bytes s
  | .tailWrite q p v => Sys2Proof.Machine.execTailWrite q p v s
  | .qctlEnWrite q v => Sys2Proof.Machine.execQctlEnWrite q v s
  | .qerrErrClear q => Sys2Proof.Machine.execQerrErrClear q s
  | .ctxctlPrq c => Sys2Proof.Machine.execCtxctlPrq c s
  | .ctxctlRsq c => Sys2Proof.Machine.execCtxctlRsq c s
  | .trresWrite c idx => Sys2Proof.Machine.execTrresWrite c idx s
  | .ctxpasidWrite c v => Sys2Proof.Machine.execCtxpasidWrite c v s
  | .packageReset => Sys2Proof.Machine.execPackageReset s
  | .startUpStep unit sub passed => Sys2Proof.Machine.execStartUpStep unit sub passed s
  | .pwrlimWrite v => Sys2Proof.Machine.execPwrlimWrite v s
  | .errackWrite v => Sys2Proof.Machine.execErrackWrite v s
  | .errbaseWrite v => Sys2Proof.Machine.execErrbaseWrite v s
  | .errlostRead => Sys2Proof.Machine.execErrlostRead s
  | .errorRecord r => Sys2Proof.Machine.execErrorRecord r s
  | .registerWrite off v size => Sys2Proof.Machine.execRegisterWrite off v size s
  | .assignDomain sec dom c => Sys2Proof.Machine.execAssignDomain sec dom c s
  | .setCommunicator sec comm ranks rank => Sys2Proof.Machine.execSetCommunicator sec comm ranks rank s
  | .returnLostPage sec page => Sys2Proof.Machine.execReturnLostPage sec page s
  | .assignPartition sec c mask => Sys2Proof.Machine.execAssignPartition sec c mask s
  | .setPowerLimit sec v => Sys2Proof.Machine.execSetPowerLimit sec v s
  | .getVersion => Sys2Proof.Machine.execGetVersion s
  | .getCapabilities => Sys2Proof.Machine.execGetCapabilities s
  | .negotiateAlgorithms => Sys2Proof.Machine.execNegotiateAlgorithms s
  | .getDigests => Sys2Proof.Machine.execGetDigests s
  | .getCertificate => Sys2Proof.Machine.execGetCertificate s
  | .challenge nonce => Sys2Proof.Machine.execChallenge nonce s
  | .getMeasurements => Sys2Proof.Machine.execGetMeasurements s
  | .bubbleSchedule len t => Sys2Proof.Machine.execBubbleSchedule len t s
  | .bubbleAck die => Sys2Proof.Machine.execBubbleAck die s
  | .timeMasterUpdate die off rate => Sys2Proof.Machine.execTimeMasterUpdate die off rate s
  | .flitReceive port flit crcOk => Sys2Proof.Machine.execFlitReceive port flit crcOk s
  | .flitAck port seq => Sys2Proof.Machine.execFlitAck port seq s
  | .laneFailure port lane => Sys2Proof.Machine.execLaneFailure port lane s
  | .snoopReply agent frame first last => Sys2Proof.Machine.execSnoopReply agent frame first last s
  | .hostCxlMemAccess pa store bytes => Sys2Proof.Machine.execHostCxlMemAccess pa store bytes s

end Sys2Proof.Machine
end

