-- ==== Sys2Proof/Machine/Step.lean ====
section
/-! DEFINITION. One step of the machine, and a state whose next step runs a given instruction word. -/

namespace Sys2Proof.Machine

/-- One step: what happens next is said in Issue, and what an instruction or event does in Dispatch. -/
def step (s : State) : Host.Outcome State Fault Refusal := s.advance exec

/-- `s` with a warp about to fetch the instruction whose bits are `w` as the next thing the machine does (log 4). -/
def State.withFetchWord (s : State) (nbits w : Nat) : State := s.placeWord (toBytes 8 (w % 2 ^ nbits))

end Sys2Proof.Machine
end

