-- ==== Sys2Proof/Safety.lean ====
section
/-! DEFINITION. The terms the claims are stated in: a step that goes on, the canonical form of the memories, results under way, and what retiring a word leaves alone. -/

namespace Sys2Proof.Machine

/-! ### Runs -/

/-- A step that neither stops with a fault nor is refused. -/
def State.goesOn (s : State) : Prop := ∃ t, step s = .next t

/-- Every byte memory of the machine is in canonical form: device memory, what is known of host memory, the home memory, and both scratchpads of every group. -/
def State.Canonical (s : State) : Prop :=
  s.mem.wf = true ∧ s.hostMem.wf = true ∧ s.cache.home.wf = true ∧ ∀ e ∈ s.groups, e.2.spad.wf = true ∧ e.2.spadF.wf = true

/-- There is a current warp. -/
def State.Here (s : State) : Prop := (SMap.find s.warps s.cur).isSome = true

/-! ### Results under way (R60) -/

/-- The results under way for register `r` that were issued at schedule count `n`, in the order in which they become visible. -/
def Warp.under (w : Warp) (r : RegId) (n : Nat) : List PendWrite := w.pend.filter fun p => p.at_ == n && p.res.reg == r

/-- A result issued at the present schedule count becomes visible `lat` counts later; what earlier words of the group have under way for its register and would show no sooner
leaves its lanes to it (R38), and what they would show sooner stays (R60). -/
def Warp.Sends (w w' : Warp) (lat : Nat) (x : RegWrite) : Prop :=
  ⟨x, w.sched, w.sched + lat⟩ ∈ w'.pend ∧
  ∀ p ∈ w'.under x.reg w.sched, p = ⟨x, w.sched, w.sched + lat⟩ ∨ ∃ q ∈ w.under x.reg w.sched, p = q.yield w.sched (w.sched + lat) x

/-- Register `r` gets `f l` in every active lane `l`, visible `lat` counts after the present one. -/
def Warp.Gives (w w' : Warp) (lat : Nat) (r : RegId) (f : Nat → DWord) : Prop :=
  w.Sends w' lat ⟨r, (lanesOf w.active).map fun l => (l, f l)⟩

/-- The uniform register `r` gets `x`, visible `lat` counts after the present one. -/
def Warp.GivesK (w w' : Warp) (lat : Nat) (r : Nat) (x : DWord) : Prop :=
  w.Sends w' lat ⟨.k r, [(0, x)]⟩

/-- No register but those of `rs` gets a result: what was under way for any other stays as it was. -/
def Warp.OnlyResults (w w' : Warp) (rs : List RegId) : Prop :=
  ∀ r n, (n ≠ w.sched ∨ r ∉ rs) → w'.under r n = w.under r n

/-! ### What retiring leaves alone -/

/-- A counted instruction without the lanes that later words of its group have written. -/
def Inflight.bare (f : Inflight) : Inflight := { f with ceded := [] }

/-- A warp without the fields that retiring a word moves: the place in the program, the group and run, the clock, the schedule, the results under way, and the registers
for which special-register writes may wait. All registers, flags, queues, barriers, engines and traps stay in it, and the counted instructions but for what R38 takes from their results. -/
def Warp.still (w : Warp) : Warp :=
  { w with
    inflight := w.inflight.map Inflight.bare
    runPc := 0, runWords := 0, lclk := 0, grpLclk := 0, grpW := 0, grpS := 0, todo := [], jump := false, deferred := [], sched := 0, earliest := 0, owed := none
    endRun := false, pcs := [], inRun := false, active := 0, pend := []
    fpc := 0, bx1 := 0, bx2 := 0, bx3 := 0, helper := .copy, tmaskHold := false, tmaskEn := 0, qbind := 0, chk := .off }

/-- The registers that special-register writes change: FPC, the block extents, the helper mode, TMASK, the window bindings, the check mode. -/
def Warp.specials (w : Warp) : BitVec 4 × BitVec 6 × BitVec 6 × BitVec 6 × HelperMode × (Bool × BitVec 6) × BitVec 8 × CheckMode :=
  (w.fpc, w.bx1, w.bx2, w.bx3, w.helper, (w.tmaskHold, w.tmaskEn), w.qbind, w.chk)

/-- Nothing but the current warp changes: no other warp, no memory, no other record of the machine. -/
def State.OnlyWarp (s t : State) : Prop :=
  { t with warps := s.warps } = s ∧ ∀ h, h ≠ s.cur → SMap.find t.warps h = SMap.find s.warps h

/-- The current warp has gone past the word `i`: its run stands at the next word, and the special registers are as they were unless writes of the group waited for its end. -/
def State.Passed (s t : State) (i : Instr) : Prop :=
  t.w.runPc = s.w.runPc + BitVec.ofNat 64 (4 * i.words) ∧ (s.w.deferred = [] → t.w.specials = s.w.specials)

/-! ### Traps (R379 to R381) -/

/-- The lanes of `who` of the current warp, and no others, have stopped at the present word with a cause and their details, to be resumed at `resume`; no register, flag or memory has changed,
no queue entry is gone, and no result is under way that was not before. -/
def State.Stopped (s t : State) (cause : Nat) (detail : Nat → Nat) (who : Nat → Bool) (resume : DWord) : Prop :=
  s.OnlyWarp t ∧
  (∀ l, l < 32 → who l = true → ∃ p ∈ t.w.stops, p.lane = l ∧ p.cause = cause ∧ p.detail = detail l ∧ p.pc = s.w.runPc ∧ p.resume = resume ∧ p.dispatched = false) ∧
  (∀ p ∈ t.w.stops, p ∈ s.w.stops ∨ who p.lane = true) ∧ (∀ p ∈ s.w.stops, p ∈ t.w.stops) ∧
  t.w.v = s.w.v ∧ t.w.k = s.w.k ∧ t.w.p = s.w.p ∧ t.w.axf = s.w.axf ∧ t.w.ucount = s.w.ucount ∧ t.w.pend = s.w.pend ∧ t.w.queues = s.w.queues ∧
  (s.w.deferred = [] → t.w.specials = s.w.specials)

/-- A trap at a word that stops the lanes of `who` there: they leave the strand and wait at their resume point, the other lanes go on with the word. -/
def State.Trapped (s t : State) (cause : Nat) (detail : Nat → Nat) (who : Nat → Bool) (resume : DWord) : Prop :=
  s.Stopped t cause detail who resume ∧
  (∀ l, l < 32 → t.w.active.getLsbD l = (s.w.active.getLsbD l && !who l)) ∧
  (∀ l, l < 32 → SMap.get 0 t.w.pcs l = if who l then resume else SMap.get 0 s.w.pcs l)

end Sys2Proof.Machine
end

