-- ==== Sys2Proof/Certificates/Slice0/Rows.lean ====
section
/-! DEFINITION. The tables of the specification that the statements range over: for each instruction of a shape its operands and its result,
written from the tables of chapters 4 to 6 as exact arithmetic that is narrowed at the end. -/

namespace Sys2Proof.Machine

/-- Lane values of the v registers an instruction reads, in the order in which it reads them. -/
abbrev Reads := List (Nat → Word)

/-- The lane values of the `j`-th register read. -/
def Reads.at_ (rs : Reads) (j l : Nat) : Word := rs.getD j (fun _ => 0) l

/-! ### Lane-wise integer instructions (Tables 4.3 to 4.6) -/

/-- A lane-wise instruction: its block-extent selector, destination, sources, and the exact value that an element of a lane gets from its source elements. -/
structure LaneRow where
  x : Bx
  d : Vr
  srcs : List Vr
  value : Warp → Nat → (Nat → Word) → Int

/-- A row whose value depends on the source elements alone. -/
def rowOf (x : Bx) (d : Vr) (srcs : List Vr) (f : (Nat → Word) → Int) : Option LaneRow := some ⟨x, d, srcs, fun _ _ e => f e⟩

/-- floor(sext(a, 32) ÷ 2^n). -/
def floorShift (a : Word) (n : Nat) : Int := a.toInt / 2 ^ n

/-- The number of 1 bits. -/
def oneBits (a : Word) : Nat := ((List.range 32).filter fun i => a.getLsbD i).length

/-- Bit `i` moved to bit 31 − i. -/
def mirrored (a : Word) : Nat := ((List.range 32).map fun i => if a.getLsbD i then 2 ^ (31 - i) else 0).sum

/-- The number of 0 bits above the highest 1 bit; 32 for 0. -/
def topZeros (a : Word) : Nat := if a = 0 then 32 else 31 - Nat.log2 a.toNat

/-- (a div 2^pos) mod 2^len. -/
def bitsAt (a : Word) (pos len : Nat) : Nat := a.toNat / 2 ^ pos % 2 ^ len

/-- A natural of `len` bits read as signed. -/
def signedAt (x len : Nat) : Int := if 2 ^ (len - 1) ≤ x then (x : Int) - 2 ^ len else x

/-- Byte `i` of a word, read as signed or natural. -/
def byteAt (signed : Bool) (a : Word) (i : Nat) : Int := if signed then signedAt (bitsAt a (8 * i) 8) 8 else bitsAt a (8 * i) 8

/-- The rows of Tables 4.3 to 4.6, of movk (R89) and of idot4 (R90). -/
def intRow : Instr → Option LaneRow
  | .iadd _ d a b x => rowOf x d [a, b] fun e => (e 0).toNat + (e 1).toNat
  | .isub _ d a b x => rowOf x d [a, b] fun e => (e 0).toNat - (e 1).toNat
  | .imul _ d a b x => rowOf x d [a, b] fun e => (e 0).toNat * (e 1).toNat
  | .imulhS _ d a b x => rowOf x d [a, b] fun e => (e 0).toInt * (e 1).toInt / 2 ^ 32
  | .imulhN _ d a b x => rowOf x d [a, b] fun e => (e 0).toNat * (e 1).toNat / 2 ^ 32
  | .imad _ d a b x => rowOf x d [a, b, d] fun e => (e 0).toNat * (e 1).toNat + (e 2).toNat
  | .iaddi _ d a imm => rowOf 0 d [a] fun e => (e 0).toNat + imm.toInt
  | .iminS _ d a b x => rowOf x d [a, b] fun e => min (e 0).toInt (e 1).toInt
  | .iminN _ d a b x => rowOf x d [a, b] fun e => min (e 0).toNat (e 1).toNat
  | .imaxS _ d a b x => rowOf x d [a, b] fun e => max (e 0).toInt (e 1).toInt
  | .imaxN _ d a b x => rowOf x d [a, b] fun e => max (e 0).toNat (e 1).toNat
  | .shl _ d a b x => rowOf x d [a, b] fun e => if (e 1).toNat < 32 then (e 0).toNat * 2 ^ (e 1).toNat else 0
  | .shr _ d a b x => rowOf x d [a, b] fun e => if (e 1).toNat < 32 then (e 0).toNat / 2 ^ (e 1).toNat else 0
  | .sar _ d a b x => rowOf x d [a, b] fun e => if (e 1).toNat < 32 then floorShift (e 0) (e 1).toNat else if (e 0).getLsbD 31 then -1 else 0
  | .shli _ d a n => rowOf 0 d [a] fun e => (e 0).toNat * 2 ^ n.toNat
  | .shri _ d a n => rowOf 0 d [a] fun e => (e 0).toNat / 2 ^ n.toNat
  | .sari _ d a n => rowOf 0 d [a] fun e => floorShift (e 0) n.toNat
  | .roti _ d a n => rowOf 0 d [a] fun e => ((e 0).toNat * 2 ^ n.toNat % 2 ^ 32 ||| (e 0).toNat / 2 ^ (32 - n.toNat) : Nat)
  | .and _ d a b x => rowOf x d [a, b] fun e => ((e 0).toNat &&& (e 1).toNat : Nat)
  | .or _ d a b x => rowOf x d [a, b] fun e => ((e 0).toNat ||| (e 1).toNat : Nat)
  | .xor _ d a b x => rowOf x d [a, b] fun e => ((e 0).toNat ^^^ (e 1).toNat : Nat)
  | .andn _ d a b x => rowOf x d [a, b] fun e => ((e 0).toNat &&& (2 ^ 32 - 1 - (e 1).toNat) : Nat)
  | .andi _ d a c => rowOf 0 d [a] fun e => ((e 0) &&& BitVec.ofInt 32 c.toInt).toNat
  | .ori _ d a c => rowOf 0 d [a] fun e => ((e 0) ||| BitVec.ofInt 32 c.toInt).toNat
  | .xori _ d a c => rowOf 0 d [a] fun e => ((e 0) ^^^ BitVec.ofInt 32 c.toInt).toNat
  | .not _ d a x => rowOf x d [a] fun e => 2 ^ 32 - 1 - (e 0).toNat
  | .popc _ d a x => rowOf x d [a] fun e => oneBits (e 0)
  | .clz _ d a x => rowOf x d [a] fun e => topZeros (e 0)
  | .brev _ d a x => rowOf x d [a] fun e => mirrored (e 0)
  | .iabs _ d a x => rowOf x d [a] fun e => |(e 0).toInt|
  | .ineg _ d a x => rowOf x d [a] fun e => 0 - (e 0).toNat
  | .bfx _ d a x pos len sx => rowOf x d [a] fun e =>
      if sx then signedAt (bitsAt (e 0) pos.toNat len.toNat) len.toNat else bitsAt (e 0) pos.toNat len.toNat
  | .bfi _ d a x pos len => rowOf x d [a, d] fun e =>
      (e 1).toNat - bitsAt (e 1) pos.toNat len.toNat * 2 ^ pos.toNat + (e 0).toNat % 2 ^ len.toNat * 2 ^ pos.toNat
  | .lea _ d a b x sh disp => rowOf x d [a, b] fun e => (e 0).toNat + (e 1).toNat * 2 ^ sh.toNat + disp.toInt
  | .sel _ d a b x p => some ⟨x, d, [a, b], fun w l e => if w.rdP p.toNat l then (e 0).toNat else (e 1).toNat⟩
  | .movi _ d x imm => rowOf x d [] fun _ => imm.toNat
  | .movk _ d ka hi x => some ⟨x, d, [], fun w _ _ => if hi then (w.rdK ka.toNat).toNat / 2 ^ 32 else (w.rdK ka.toNat).toNat % 2 ^ 32⟩
  | .idot4 _ d a b m => rowOf 0 d [a, b, d] fun e =>
      (e 2).toNat + ((List.range 4).map fun i => byteAt (m == .ss || m == .sn) (e 0) i * byteAt (m == .ss) (e 1) i).sum
  | _ => none

/-! ### Uniform instructions (Tables 4.8, R97 to R100) -/

/-- A uniform instruction: its destination, the v registers it reads, and its exact value. -/
structure UniRow where
  kd : Kr
  srcs : List Vr
  value : Warp → Reads → Int

/-- A row of two k sources. -/
def kRow2 (kd ka kb : Kr) (f : DWord → DWord → Int) : Option UniRow := some ⟨kd, [], fun w _ => f (w.rdK ka.toNat) (w.rdK kb.toNat)⟩

/-- The conditions of kcmp (R98). -/
def kHolds (c : KCond) (a b : DWord) : Bool :=
  match c with
  | .eq => a = b
  | .ne => a ≠ b
  | .ltS => a.toInt < b.toInt
  | .ltN => a.toNat < b.toNat

/-- The rows of the uniform instructions. -/
def uniRow : Instr → Option UniRow
  | .kadd _ kd ka kb => kRow2 kd ka kb fun a b => a.toNat + b.toNat
  | .ksub _ kd ka kb => kRow2 kd ka kb fun a b => a.toNat - b.toNat
  | .kmul _ kd ka kb => kRow2 kd ka kb fun a b => a.toNat * b.toNat
  | .kand _ kd ka kb => kRow2 kd ka kb fun a b => (a.toNat &&& b.toNat : Nat)
  | .kor _ kd ka kb => kRow2 kd ka kb fun a b => (a.toNat ||| b.toNat : Nat)
  | .kxor _ kd ka kb => kRow2 kd ka kb fun a b => (a.toNat ^^^ b.toNat : Nat)
  | .kshl _ kd ka kb => kRow2 kd ka kb fun a b => if b.toNat < 64 then a.toNat * 2 ^ b.toNat else 0
  | .kshr _ kd ka kb => kRow2 kd ka kb fun a b => if b.toNat < 64 then a.toNat / 2 ^ b.toNat else 0
  | .kaddi _ kd ka imm => some ⟨kd, [], fun w _ => (w.rdK ka.toNat).toNat + imm.toInt⟩
  | .kset _ kd f imm => some ⟨kd, [], fun w _ =>
      match f with
      | .sext => imm.toInt
      | .zext => imm.toNat
      | .hi => imm.toNat * 2 ^ 32 + (w.rdK kd.toNat).toNat % 2 ^ 32⟩
  | .kcmp _ kd ka kb c => kRow2 kd ka kb fun a b => if kHolds c a b then 1 else 0
  | .kmov _ kd ka => some ⟨kd, [], fun w _ => (w.rdK ka.toNat).toNat⟩
  | .kfromv _ kd va lane f => some ⟨kd, [va], fun w rs =>
      let l := if lane = 32 then lowLane w.active else lane.toNat
      let x : Word := if w.active.getLsbD l then rs.at_ 0 l else 0
      match f with
      | .zext => x.toNat
      | .sext => x.toInt
      | .hi => x.toNat * 2 ^ 32 + (w.rdK kd.toNat).toNat % 2 ^ 32⟩
  | _ => none

/-! ### Predicate instructions (Table 4.9, R93, R101) -/

/-- An instruction that writes a predicate: its destination, the v registers it reads, and what an active lane gets. -/
structure PredRow where
  p : Pr
  srcs : List Vr
  holds : Warp → Reads → Nat → Prop

/-- A row of predicate sources alone. -/
def pRow (p : Pr) (f : Warp → Nat → Prop) : Option PredRow := some ⟨p, [], fun w _ l => f w l⟩

/-- The conditions of Table 4.7. -/
def iHolds (c : ICond) (a b : Word) : Prop :=
  match c with
  | .eq => a = b
  | .ne => a ≠ b
  | .ltS => a.toInt < b.toInt
  | .leS => a.toInt ≤ b.toInt
  | .gtS => a.toInt > b.toInt
  | .geS => a.toInt ≥ b.toInt
  | .ltN => a.toNat < b.toNat
  | .leN => a.toNat ≤ b.toNat
  | .gtN => a.toNat > b.toNat
  | .geN => a.toNat ≥ b.toNat

/-- A comparison joined with a predicate (R93). -/
def joined (c : Comb) (x q : Prop) : Prop :=
  match c with
  | .only => x
  | .and => x ∧ q
  | .or => x ∨ q
  | .xor => ¬(x ↔ q)

/-- The rows of the predicate instructions and of icmp. -/
def predRow : Instr → Option PredRow
  | .pand _ p a b => pRow p fun w l => w.rdP a.toNat l = true ∧ w.rdP b.toNat l = true
  | .por _ p a b => pRow p fun w l => w.rdP a.toNat l = true ∨ w.rdP b.toNat l = true
  | .pxor _ p a b => pRow p fun w l => w.rdP a.toNat l ≠ w.rdP b.toNat l
  | .pandn _ p a b => pRow p fun w l => w.rdP a.toNat l = true ∧ w.rdP b.toNat l = false
  | .pclr _ p => pRow p fun _ _ => False
  | .pset _ p => pRow p fun _ _ => True
  | .pnot _ p a => pRow p fun w l => w.rdP a.toNat l = false
  | .pmov _ p a => pRow p fun w l => w.rdP a.toNat l = true
  | .vtop _ p va => some ⟨p, [va], fun _ rs l => rs.at_ 0 l ≠ 0⟩
  | .icmp _ p a b c comb q => some ⟨p, [a, b], fun w rs l => joined comb (iHolds c (rs.at_ 0 l) (rs.at_ 1 l)) (w.rdP q.toNat l = true)⟩
  | _ => none

/-! ### Exchanges (R101, R105 to R109) -/

/-- An instruction that writes one v register from values of several lanes: latency, destination, sources, and what lane `l` gets. -/
structure CrossRow where
  lat : Nat
  d : Vr
  srcs : List Vr
  value : Warp → Reads → Nat → Word

/-- The value lane `x` offers to its quad: its own when active, else the helper value (Table 4.10). -/
def offered (w : Warp) (a : Nat → Word) (x : Nat) : Word :=
  if w.active.getLsbD x then a x
  else match w.helper with
    | .copy => a (((List.range 4).map fun i => x / 4 * 4 + i).find? (fun y => w.active.getLsbD y) |>.getD 0)
    | .zero => 0
    | .nan => 0x7FC00000

/-- The value of lane `x` where `x` is an active lane, else the lane's own (R107). -/
def orOwn (w : Warp) (a : Nat → Word) (l : Nat) (x : Option Nat) : Word :=
  match x with
  | some y => if w.active.getLsbD y then a y else a l
  | none => a l

/-- Combine two values of a reduction (R109). -/
def redPair (op : RedOp) (x y : Word) : Word :=
  match op with
  | .add => BitVec.ofNat 32 (x.toNat + y.toNat)
  | .minS => if x.toInt ≤ y.toInt then x else y
  | .minN => if x.toNat ≤ y.toNat then x else y
  | .maxS => if y.toInt ≤ x.toInt then x else y
  | .maxN => if y.toNat ≤ x.toNat then x else y
  | .and => x &&& y
  | .or => x ||| y
  | .xor => x ^^^ y

/-- The rows of the exchanges and of ptov. -/
def crossRow : Instr → Option CrossRow
  | .ptov _ d a => some ⟨2, d, [], fun w _ l => if w.rdP a.toNat l then 1 else 0⟩
  | .qswp _ d a dir => some ⟨3, d, [a], fun w rs l =>
      let x := match dir with
        | .h => l / 2 * 2 + (1 - l % 2)
        | .v => l / 4 * 4 + (l % 4 + 2) % 4
        | .dg => l / 4 * 4 + (3 - l % 4)
      offered w (rs.at_ 0) x⟩
  | .qbc _ d a n => some ⟨3, d, [a], fun w rs l => offered w (rs.at_ 0) (l / 4 * 4 + n.toNat)⟩
  | .wshf _ d a b => some ⟨3, d, [a, b], fun w rs l => orOwn w (rs.at_ 0) l (some ((rs.at_ 1 l).toNat % 32))⟩
  | .wshx _ d a n m => some ⟨3, d, [a], fun w rs l => orOwn w (rs.at_ 0) l
      (match m with
        | .xor => some (l ^^^ n.toNat)
        | .up => if n.toNat ≤ l then some (l - n.toNat) else none
        | .down => if l + n.toNat < 32 then some (l + n.toNat) else none)⟩
  | .wvote _ d a m => some ⟨3, d, [a], fun w rs _ =>
      let on := (lanesOf w.active).filter fun l => rs.at_ 0 l != 0
      match m with
      | .ballot => BitVec.ofNat 32 (on.map fun l => 2 ^ l).sum
      | .all => if on = lanesOf w.active then 1 else 0
      | .any => if on = [] then 0 else 1
      | .count => BitVec.ofNat 32 on.length⟩
  | .wred _ d a op => some ⟨3, d, [a], fun w rs _ =>
      match lanesOf w.active with
      | [] => 0
      | l :: ls => ls.foldl (fun x y => redPair op x (rs.at_ 0 y)) (rs.at_ 0 l)⟩
  | _ => none

/-! ### Float instructions (Tables 6.4, 6.5, R127, R128, R131, R144 to R151) -/

/-- A lane-wise float instruction: extent, destination, sources, result and flags of an element under FPC. -/
structure FloatRow where
  x : Bx
  d : Vr
  srcs : List Vr
  out : BitVec 4 → (Nat → Word) → Nat × FFlags

/-- A row of a float function. -/
def fRow (x : Bx) (d : Vr) (srcs : List Vr) (f : BitVec 4 → (Nat → Nat) → Nat × FFlags) : Option FloatRow :=
  some ⟨x, d, srcs, fun c e => f c fun j => (e j).toNat⟩

/-- The rows of the lane-wise float and conversion instructions: which function each applies to which operands. -/
def floatRow : Instr → Option FloatRow
  | .fadd _ d a b x => fRow x d [a, b] fun c e => f32.add c (e 0) (e 1)
  | .fsub _ d a b x => fRow x d [a, b] fun c e => f32.sub c (e 0) (e 1)
  | .fmul _ d a b x => fRow x d [a, b] fun c e => f32.mul c (e 0) (e 1)
  | .ffma _ d a b x => fRow x d [a, b, d] fun c e => f32.fma c (e 0) (e 1) (e 2)
  | .fmin _ d a b x => fRow x d [a, b] fun c e => f32.minMax (fpcDaz c) false (e 0) (e 1)
  | .fmax _ d a b x => fRow x d [a, b] fun c e => f32.minMax (fpcDaz c) true (e 0) (e 1)
  | .fabs _ d a x => fRow x d [a] fun _ e => (e 0 % 2 ^ 31, 0)
  | .fneg _ d a x => fRow x d [a] fun _ e => (if e 0 < 2 ^ 31 then e 0 + 2 ^ 31 else e 0 - 2 ^ 31, 0)
  | .frcp _ d a x => fRow x d [a] fun c e => frcpOf c (e 0)
  | .frsq _ d a x => fRow x d [a] fun c e => frsqOf c (e 0)
  | .fsqrt _ d a x => fRow x d [a] fun c e => fsqrtOf c (e 0)
  | .fex2 _ d a x => fRow x d [a] fun c e => fex2Of c (e 0)
  | .flg2 _ d a x => fRow x d [a] fun c e => flg2Of c (e 0)
  | .fsin _ d a x => fRow x d [a] fun c e => ftrigOf false c (e 0)
  | .fcos _ d a x => fRow x d [a] fun c e => ftrigOf true c (e 0)
  | .fdot2 _ d a b bf => fRow 0 d [a, b, d] fun c e => fdot2Of bf c (e 0) (e 1) (e 2)
  | .hadd2 _ d a b bf => fRow 0 d [a, b] fun c e => hadd2Of bf c (e 0) (e 1)
  | .hmul2 _ d a b bf => fRow 0 d [a, b] fun c e => hmul2Of bf c (e 0) (e 1)
  | .hfma2 _ d a b bf => fRow 0 d [a, b, d] fun c e => hfma2Of bf c (e 0) (e 1) (e 2)
  | .frnd _ d a m => fRow 0 d [a] fun c e => frndOf c (rmTo5 m) (e 0)
  | .fcvt _ d a dty sty sh dh rnd => fRow 0 d (if dty = .f32 then [a] else [a, d]) fun _ e => fcvtOf dty sty sh dh rnd (e 0) (if dty = .f32 then 0 else e 1)
  | .fcvti _ d a it ft rnd => fRow 0 d [a] fun _ e => fcvtiOf it ft rnd (e 0)
  | .icvtf _ d a it ft rnd => fRow 0 d [a] fun _ e => icvtfOf it ft rnd (e 0)
  | .fscl _ d a b sf => fRow 0 d [a, b] fun c e => fsclOf sf c (e 0) (e 1)
  | _ => none

/-! Exact values (R113, R137, R140 to R144) -/

/-- The number that a finite value stands for. -/
def FVal.num : FVal → ℚ
  | .fin neg m e => (if neg then -1 else 1) * (m : ℚ) * 2 ^ e
  | _ => 0

/-- Whether a value is finite. -/
def FVal.isFin : FVal → Bool
  | .fin _ _ _ => true
  | _ => false

/-- An encoding is a finite value of a sign and a magnitude. -/
def Fmt.Finite (f : Fmt) (x : Nat) (neg : Bool) (y : ℚ) : Prop := ∃ m e, f.decode x = .fin neg m e ∧ (m : ℚ) * 2 ^ e = y

/-- An instruction's result is the exact nonzero value `v` rounded once to f32 by FPC; `dn` are the flags of its operands. -/
def RoundedOnce (c : BitVec 4) (v : ℚ) (dn : FFlags) (out : Nat × FFlags) : Prop :=
  ∃ (m : Nat) (e : Int), m ≠ 0 ∧ |v| = (m : ℚ) * 2 ^ e ∧
    let r := f32.round (fpcRm c) (fpcFtz c) (decide (v < 0)) m e false
    out = (r.1, r.2 ||| dn)

/-- Whether a value is a zero of a sign. -/
def FVal.isZero (neg : Bool) : FVal → Bool
  | .fin n m _ => n == neg && m == 0
  | _ => false

/-- The zero that a sum of terms gives whose exact value is zero (R141). -/
def zeroSum (rm : Rm5) (ts : List FVal) : Nat :=
  if ts.all (FVal.isZero true) then 2 ^ 31 else if ts.all (FVal.isZero false) then 0 else if rm == .rdn then 2 ^ 31 else 0

/-! Faulted queue entries (R246) -/

/-- The detail that a record of a faulted entry gives a lane: the lane's own, and the least of the entry's in a lane that it does not name. -/
def QEntry.detailAt (e : QEntry) (l : Nat) : Nat := ((e.causes.find? fun c => c.1 == l).map (·.2.1)).getD (e.causes.foldl (fun d c => min d c.2.1) 255)

/-- The address that a record of a faulted entry gives a lane. -/
def QEntry.eaAt (e : QEntry) (l : Nat) : Nat := ((e.causes.find? fun c => c.1 == l).map (·.2.2)).getD 0

/-! ### Special-register writes (R78, R80, R103, R152, R244, R393, R395) -/

/-- An instruction whose write to a special register waits for its warp's next group: the v registers it reads, and the write. -/
structure SpecialRow where
  srcs : List Vr
  write : Warp → Reads → SpecialWrite

/-- The rows of the instructions that write FPC, the block extents, the helper mode, TMASK, the window bindings or the check mode. -/
def specialRow : Instr → Option SpecialRow
  | .qhlp _ m => some ⟨[], fun _ _ => .helper m⟩
  | .chkm _ m => some ⟨[], fun _ _ => .check m⟩
  | .qbind _ m => some ⟨[], fun _ _ => .bind m⟩
  | .fsetm _ _ m v => some ⟨[], fun _ _ => .fpc m v⟩
  | .tmask _ en m ho => some ⟨[], fun _ _ => .tmask en m (match ho with | .keep => none | .hold => some true | .unhold => some false)⟩
  | .sets _ r sr rk =>
    let x (w : Warp) (rs : Reads) : Word := if rk then (w.rdK r.toNat).truncate 32 else rs.at_ 0 (lowLane w.active)
    let row (f : Word → SpecialWrite) : Option SpecialRow := some ⟨if rk then [] else [r], fun w rs => f (x w rs)⟩
    match sr with
    | .fpc => row fun y => .fpc 15 (y.truncate 4)
    | .bx1 => row fun y => .bx 1 (y.truncate 6)
    | .bx2 => row fun y => .bx 2 (y.truncate 6)
    | .bx3 => row fun y => .bx 3 (y.truncate 6)
    | .tmask => row fun y => .tmask (y.truncate 6) 63 (some (y.getLsbD 16))
    | _ => none
  | _ => none

/-! ### Control transfers (R36, R69 to R73) -/

/-- The branches: which lanes take them, and the packet offset. -/
def branchRow : Instr → Option ((Warp → Nat → Bool) × BitVec 14)
  | .bra _ off => some (fun _ _ => true, off)
  | .brp _ p off => some (fun w l => w.rdP p.toNat l, off)
  | .brn _ p off => some (fun w l => !w.rdP p.toNat l, off)
  | .bru _ k off => some (fun w _ => w.rdK k.toNat != 0, off)
  | .bruz _ k off => some (fun w _ => w.rdK k.toNat == 0, off)
  | _ => none

/-- The transfers to an address in a k register: that register, and the link register. -/
def jumpRow : Instr → Option (Kr × Option Kr)
  | .jmpx _ ka => some (ka, none)
  | .ret _ ka => some (ka, none)
  | .callx _ kd ka => some (ka, some kd)
  | _ => none

/-- The address `n` packets from the packet that holds the present word (R36). -/
def State.packet (s : State) (n : Int) : DWord :=
  BitVec.ofInt 64 (s.grid.ds.code + 12 * (((s.w.runPc.toNat - s.grid.ds.code) / 12 : Nat) + n))

/-- An address inside the code object that starts a packet (R36). -/
def State.PacketStart (s : State) (a : Nat) : Prop :=
  s.grid.ds.code ≤ a ∧ a < s.grid.ds.code + s.grid.ds.codelen ∧ (a - s.grid.ds.code) % 12 = 0

/-- The lanes of the strand stand where `to` says and the run is over; the other lanes stand where they stood. -/
def State.Went (s t : State) (goal : Nat → DWord) : Prop :=
  s.OnlyWarp t ∧ t.w.still = s.w.still ∧ t.w.inRun = false ∧ t.w.active = 0 ∧ (s.w.deferred = [] → t.w.specials = s.w.specials) ∧
  ∀ l, l < 32 → SMap.get 0 t.w.pcs l = if s.w.active.getLsbD l then goal l else SMap.get 0 s.w.pcs l

/-- A copy of the current warp stands at a fault of detail `d` at `a`, on a channel given by group, side and number, and a dwait on these counters covers it (R253). -/
def State.FaultedCopy (s : State) (mask : BitVec 7) (c : Nat × Bool × Nat) (d a : Nat) : Prop :=
  ∃ g x cp rest, (c.1, g) ∈ s.groups ∧ (c.2.2, x) ∈ (if c.2.1 then g.chansF else g.chans) ∧ x.fault = some (d, a) ∧ x.copies = cp :: rest ∧ cp.warp = s.cur ∧
    ∃ f ∈ s.w.inflight, f.seq = cp.seq ∧ f.dc < 7 ∧ mask.getLsbD f.dc = true

/-! ### Ordinary accesses (R182 to R197) -/

/-- A load or store of v registers: whether it goes to the scratchpad, its register, base and offset registers, bytes, offset scale, displacement, sign extension, probe predicate. -/
structure AccRow where
  spad : Bool
  d : Vr
  kbase : Kr
  voff : Vr
  n : Nat
  scale : Nat
  disp : Int
  sx : Bool
  probe : Option Pr

/-- The loads. -/
def loadRow : Instr → Option AccRow
  | .ld _ d kbase voff size => some ⟨false, d, kbase, voff, size.bytes, size.bytes, 0, false, none⟩
  | .lds _ d kbase voff size => some ⟨true, d, kbase, voff, size.bytes, size.bytes, 0, false, none⟩
  | .ldl _ d kbase voff size imm _ probe _ scale sx =>
    some ⟨false, d, kbase, voff, size.bytes, scaleTimes scale size.bytes, imm.toInt, sx, if probe = 62 then none else some probe⟩
  | _ => none

/-- The stores. -/
def storeRow : Instr → Option AccRow
  | .st _ d kbase voff size => some ⟨false, d, kbase, voff, size.bytes, size.bytes, 0, false, none⟩
  | .sts _ d kbase voff size => some ⟨true, d, kbase, voff, size.bytes, size.bytes, 0, false, none⟩
  | .stl _ d kbase voff size imm _ _ scale => some ⟨false, d, kbase, voff, size.bytes, scaleTimes scale size.bytes, imm.toInt, false, none⟩
  | _ => none

/-- The registers that hold the data: two for 8 bytes. -/
def AccRow.regs (r : AccRow) : List Nat := if r.n = 8 then [r.d.toNat, r.d.toNat + 1] else [r.d.toNat]

/-- The offset register, where one is read. -/
def AccRow.offs (r : AccRow) : List Nat := if r.scale = 0 then [] else [r.voff.toNat]

/-- The effective address of a lane (R185): base plus scaled natural offset plus displacement, modulo 2^64. -/
def AccRow.ea (r : AccRow) (w : Warp) (off : Nat → Word) (l : Nat) : Nat :=
  (((w.rdK r.kbase.toNat).toNat + (if r.scale = 0 then 0 else (off l).toNat * r.scale) + r.disp) % 2 ^ 64).toNat

/-- The bytes of device memory from an address as a number, least significant first (R5). -/
def State.number (s : State) (pa n : Nat) : Nat := ofBytes (s.mem.readN pa n)

/-- An access of `n` bytes at `ea` by a lane may perform, at the physical address `pa`: it is aligned, its page is resident and allows it, and no sector it meets is lost (R187). -/
def State.Reaches (s : State) (k : Acc) (n l ea pa : Nat) : Prop :=
  ea % n = 0 ∧ ∃ x, s.checkVa s.w.core l s.ctxNo ea k (fun a => s.meetsLost a n) = .ok x ∧ pa = x.pa ea

/-- An access of `n` bytes at the scratchpad offset `ea` may perform (R189). -/
def State.ReachesSp (s : State) (n ea : Nat) : Prop := ea % n = 0 ∧ ea + n ≤ s.grid.ds.spl

/-- No other group holds the frames of these addresses as a tile (R329). -/
def State.TilesClear (s : State) (pas : List Nat) : Prop := ∀ e ∈ s.tiles, e.2.hold.grp = s.w.grp ∨ ∀ pa ∈ pas, pa / 2048 ∉ e.2.frames

/-- No earlier access of the current warp that has still to perform touches any of the `n` bytes at these virtual and physical addresses (R194), and none is a part of the instruction that issues now. -/
def State.NoneEarlier (s : State) (spad : Bool) (n : Nat) (as : List (Nat × Nat)) : Prop :=
  ∀ q ∈ s.openReqs s.cur, q.seq ≠ s.w.seqNo ∧ (q.seq < noSeq → onPad q.instr = spad → ∀ o ∈ q.ops, o.miss = false → ∀ a ∈ as,
    (o.va + q.bytes o ≤ a.1 ∨ a.1 + n ≤ o.va) ∧ (o.pa + q.bytes o ≤ a.2 ∨ a.2 + n ≤ o.pa))

/-- A loaded number as a register value: signed or natural (R186). -/
def loaded (sx : Bool) (n x : Nat) : Word := if sx then (BitVec.ofNat (8 * n) x).signExtend 32 else BitVec.ofNat 32 x

/-- The register results of a load whose lanes read `val`, a lane without a value being a probe miss (R186, R196). -/
def AccRow.results (r : AccRow) (act : Word) (val : Nat → Option Nat) : List RegWrite :=
  let each (f : Nat → DWord) : List (Nat × DWord) := (lanesOf act).map fun l => (l, f l)
  (if r.n = 8 then
    [⟨.v r.d.toNat, each fun l => BitVec.ofNat 64 ((val l).getD 0 % 2 ^ 32)⟩, ⟨.v (r.d.toNat + 1), each fun l => BitVec.ofNat 64 ((val l).getD 0 / 2 ^ 32)⟩]
   else [⟨.v r.d.toNat, each fun l => (loaded r.sx r.n ((val l).getD 0)).zeroExtend 64⟩]) ++
  (match r.probe with
   | some p => [⟨.p p.toNat, each fun l => if (val l).isSome then 0 else 1⟩]
   | none => [])

/-- The current warp after a counted instruction has issued and completed with results `ws`: it stands as the youngest one on its counter, done, and marks the registers it will write (R61, R62); those before it stand as they did, but that earlier ones of the same group leave it those registers (R38). -/
def Warp.Counted (w w' : Warp) (c : Nat) (regs : List RegId) (ws : List RegWrite) : Prop :=
  ⟨w.seqNo, c, true, ws, w.sched, []⟩ ∈ w'.inflight ∧ (∀ f ∈ w.inflight, f.seq ≠ w.seqNo → ∃ g ∈ w'.inflight, g.bare = f.bare ∧ (f.at_ ≠ w.sched → g = f)) ∧
  w'.seqNo = w.seqNo + 1 ∧
  w'.marks = w.marks ++ regs.map (fun r => ⟨r, c, SMap.get 0 w.dcIssued c + 1⟩) ∧ SMap.get 0 w'.dcIssued c = SMap.get 0 w.dcIssued c + 1

/-- The warp with the records of counted instructions that `w` has. -/
def Warp.uncounted (w' w : Warp) : Warp := { w' with seqNo := w.seqNo, dcIssued := w.dcIssued, inflight := w.inflight, marks := w.marks, flagSeqs := w.flagSeqs }

/-- No other warp changes. -/
def State.OthersSame (s t : State) : Prop := t.cur = s.cur ∧ ∀ h, h ≠ s.cur → SMap.find t.warps h = SMap.find s.warps h

/-- The semaphores of one side of a group. -/
def Group.semsOf (g : Group) (twin : Bool) : SMap Word := if twin then g.semsF else g.sems

/-! ### Atomics and locks (R264 to R266, R308, R309) -/

/-- An atomic: its space, destination if it has one, base, offset, width, first value register, operation, scope, displacement. -/
structure AtomRow where
  spad : Bool
  d : Option Vr
  kbase : Kr
  voff : Vr
  n : Nat
  vs : Vr
  op : AtomOp
  scope : Scope
  imm : Int

/-- The atomics. -/
def atomRow : Instr → Option AtomRow
  | .atom _ d kbase voff size vs op _ scope _ imm => some ⟨false, some d, kbase, voff, size.bytes, vs, op, scope, imm.toInt⟩
  | .red _ kbase voff size vs op _ scope _ imm => some ⟨false, none, kbase, voff, size.bytes, vs, op, scope, imm.toInt⟩
  | .atoms _ d kbase voff size vs op _ scope _ imm => some ⟨true, some d, kbase, voff, size.bytes, vs, op, scope, imm.toInt⟩
  | _ => none

/-- The registers an atomic writes, in order. -/
def AtomRow.dst (r : AtomRow) : List Nat :=
  match r.d with
  | some d => if r.n = 8 then [d.toNat, d.toNat + 1] else [d.toNat]
  | none => []

/-- How many value registers it reads: v, or c and then s, each one register or two. -/
def AtomRow.count (r : AtomRow) : Nat := (if r.n = 8 then 2 else 1) * (if r.op = .cas then 2 else 1)

/-- The new value (Table 11.2) of a word of `n` bytes that holds `old`; none where nothing is written. `v` is the value, or the comparand of a cas, whose new value is `sw`. -/
def newValue (op : AtomOp) (n old v sw : Nat) : Option Nat :=
  let signed (x : Nat) : Int := signedAt x (8 * n)
  match op with
  | .add => some ((old + v) % 2 ^ (8 * n))
  | .minS => some (if signed v < signed old then v else old)
  | .minN => some (if v < old then v else old)
  | .maxS => some (if signed old < signed v then v else old)
  | .maxN => some (if old < v then v else old)
  | .and => some (old &&& v)
  | .or => some (old ||| v)
  | .xor => some (old ^^^ v)
  | .exch => some v
  | .cas => if old = v then some sw else none
  | .fadd => some (f32.add 0 old v).1
  | .fmin => some (f32.minMax false false old v).1
  | .fmax => some (f32.minMax false true old v).1

/-- The lanes' operations one after another on a memory: each reads its word and may write it. Each lane has an address, a value and a swap value. -/
def runAtomics (op : AtomOp) (n : Nat) : List (Nat × Nat × Nat × Nat) → Memory → Memory × List (Nat × Nat)
  | [], m => (m, [])
  | (l, a, v, sw) :: rest, m =>
    let old := ofBytes (m.readN a n)
    let m' := match newValue op n old v sw with
      | some x => m.writeN a (toBytes n x)
      | none => m
    let r := runAtomics op n rest m'
    (r.1, (l, old) :: r.2)

/-- The register results of an atomic whose lanes read `olds`. -/
def AtomRow.results (r : AtomRow) (olds : List (Nat × Nat)) : List RegWrite :=
  match r.d with
  | none => []
  | some d =>
    if r.n = 8 then
      [⟨.v d.toNat, olds.map fun o => (o.1, BitVec.ofNat 64 (o.2 % 2 ^ 32))⟩, ⟨.v (d.toNat + 1), olds.map fun o => (o.1, BitVec.ofNat 64 (o.2 / 2 ^ 32))⟩]
    else [⟨.v d.toNat, olds.map fun o => (o.1, BitVec.ofNat 64 o.2)⟩]

/-- The clock each form of clkj asks for (R307). -/
def clkjRow : Instr → Option (Warp → Nat → Nat)
  | .clkjAdd _ imm => some fun w _ => w.lclk + imm.toNat
  | .clkjAddk _ ka => some fun w _ => w.lclk + (w.rdK ka.toNat).toNat
  | .clkjSetk _ ka => some fun w _ => max w.lclk (w.rdK ka.toNat).toNat
  | .clkjNb _ => some fun w g => (w.lclk / g + 1) * g
  | _ => none

/-- The lock instructions: result predicate, base, owner value, displacement, scope, counter. -/
structure LockRow where
  p : Pr
  kbase : Kr
  kval : Kr
  imm : BitVec 16
  scope : Scope
  dc : Dc

/-- The rows of lock, lock.try and unlock. -/
def lockRow : Instr → Option LockRow
  | .lock _ kbase kval imm dc scope => some ⟨62, kbase, kval, imm, scope, dc⟩
  | .lockTry _ p kbase kval imm dc scope => some ⟨p, kbase, kval, imm, scope, dc⟩
  | .unlock _ p kbase kval imm dc scope => some ⟨p, kbase, kval, imm, scope, dc⟩
  | _ => none

/-- The address a uniform access names (R192, R233, R309). -/
def Warp.place (w : Warp) (kbase : Kr) (imm : BitVec 16) : Nat := (((w.rdK kbase.toNat).toNat + imm.toInt) % 2 ^ 64).toNat

/-- The physical address of the lock word, where the access may perform. -/
def State.LockAt (s : State) (r : LockRow) (pa : Nat) : Prop :=
  s.Reaches (.atomic r.scope) 8 (lowLane s.w.active) (s.w.place r.kbase r.imm) pa

/-- An access that an instruction makes in each active lane (R187). -/
structure LaneForm where
  spad : Bool
  n : Nat
  acc : Acc
  ea : Nat → Nat

/-- The instruction is a load without a probe predicate, a store or an atomic whose registers can be read and written, and makes this access in each active lane. -/
def State.HasForm (s : State) (i : Instr) (a : LaneForm) : Prop :=
  (∃ (r : AccRow) (fs : Reads) (pops : SMap Nat), loadRow i = some r ∧ r.probe = none ∧ (r.n = 8 → r.d ≠ 63) ∧ (∀ x ∈ r.regs, s.w.isWindow x = false) ∧ s.w.readRegs r.offs [] = .ok (fs, pops) ∧ a = ⟨r.spad, r.n, .load, r.ea s.w (fs.at_ 0)⟩) ∨
  (∃ (r : AccRow) (fs : Reads) (pops : SMap Nat), storeRow i = some r ∧ (r.n = 8 → r.d ≠ 63) ∧ s.w.readRegs (r.offs ++ r.regs) [] = .ok (fs, pops) ∧ a = ⟨r.spad, r.n, .store, r.ea s.w (fs.at_ 0)⟩) ∨
  (∃ (r : AtomRow) (fs : Reads) (pops : SMap Nat), atomRow i = some r ∧ (∀ x ∈ r.dst, x < 64 ∧ s.w.isWindow x = false) ∧ r.vs.toNat + r.count ≤ 64 ∧
    s.w.readRegs (r.voff.toNat :: (List.range r.count).map (r.vs.toNat + ·)) [] = .ok (fs, pops) ∧
    a = ⟨r.spad, r.n, .atomic r.scope, fun l => (((s.w.rdK r.kbase.toNat).toNat + (fs.at_ 0 l).toNat * r.n + r.imm) % 2 ^ 64).toNat⟩)

/-- The access that an instruction makes once for its strand: its bytes, its address and what it is checked as. -/
def Warp.uniformForm (w : Warp) : Instr → Option (Nat × Nat × Acc)
  | .ldk _ _ kbase _ size imm _ => some (size.bytes, w.place kbase imm, .load)
  | .stk _ _ kbase size imm _ => some (size.bytes, w.place kbase imm, .store)
  | .lock _ kbase _ imm _ scope => some (8, w.place kbase imm, .atomic scope)
  | .lockTry _ _ kbase _ imm _ scope => some (8, w.place kbase imm, .atomic scope)
  | .unlock _ _ kbase _ imm _ scope => some (8, w.place kbase imm, .atomic scope)
  | _ => none

/-- The maintenance instructions without zero fill: range length, base, scope, displacement, counter. -/
def maintRow : Instr → Option (MaintOp × Kr × Kr × Scope × BitVec 16 × Dc)
  | .cwb _ klen kbase scope imm dc => some (.wb, klen, kbase, scope, imm, dc)
  | .cflu _ klen kbase scope imm dc => some (.flush, klen, kbase, scope, imm, dc)
  | .cinv _ klen kbase scope imm dc false => some (.inv, klen, kbase, scope, imm, dc)
  | _ => none

/-- A sector (frame × 64 + sector) is dirty in some agent's cache. -/
def State.SectorOwed (s : State) (sec : Nat) : Prop := ∃ a ∈ s.agents, s.sectorDirty a (sec / 64) (sec % 64) = true

/-- Every quire that holds a sector of [pa, pa + n) holds that sector alone, so that no part of a quire has to find another tag (R223). -/
def Caches.Single (c : Caches) (pa n : Nat) : Prop :=
  ∀ a, ∀ q ∈ c.at_ a, (∃ x, q.first ≤ x ∧ x ≤ q.last ∧ pa / 32 ≤ q.frame * 64 + x ∧ (q.frame * 64 + x) * 32 < pa + n) → q.first = q.last

/-- No two quires of an agent hold one sector (R214). -/
def Caches.Apart (c : Caches) (agent : Nat) : Prop :=
  ∀ x ∈ c.at_ agent, ∀ y ∈ c.at_ agent, x.frame = y.frame → (∃ n, x.first ≤ n ∧ n ≤ x.last ∧ y.first ≤ n ∧ n ≤ y.last) → x = y

/-- The set of a frame has `n` tags free, and holds no more sectors than it may (R210). -/
def Caches.TagsFree (c : Caches) (agent frame n : Nat) : Prop :=
  let inSet := (c.at_ agent).filter fun q => setOf agent q.frame == setOf agent frame
  inSet.length + n ≤ tagsOf agent ∧ sectorsHeld inSet ≤ 64

/-- Every tag of a frame's set is taken, by quires that meet the range and are not being written back, so that none can be chosen to leave (R216). -/
def Caches.TagsTaken (c : Caches) (agent frame first last : Nat) : Prop :=
  let inSet := (c.at_ agent).filter fun q => setOf agent q.frame == setOf agent frame
  inSet.length = tagsOf agent ∧ ∀ x ∈ inSet, x.st ≠ .wbp ∧ x.overlaps frame first last = true

/-- The directories have room whatever of the present quires they come to record (R221): no entry has to be recalled. -/
def Caches.DirsFit (c : Caches) : Prop :=
  let n := (c.quires.map fun e => e.2.length).sum
  (∀ e ∈ c.homeDirs, e.2.length + 2 * n ≤ c.homeCap) ∧ 2 * n ≤ c.homeCap ∧ c.spineDir.length + n ≤ c.spineCap

/-- The caches have come to stand as `d`, but for the copies that the directories, which follow, recall where they have no room (R221); nothing else has changed. -/
def State.CachesGo (s t : State) (d : Caches) : Prop := t = { s with cache := d.follow s.cache s.mem }

/-- Every quire of an agent is a copy the protocol tracks; a peer-forwarded one is not (R226). -/
def Caches.Tracks (c : Caches) (agent : Nat) : Prop := ∀ q ∈ c.at_ agent, q.tracked = true

/-- The bytes of the sectors first to last of a frame, as a range for `Caches.Single`. -/
def Caches.SingleIn (c : Caches) (frame first last : Nat) : Prop := c.Single (frame * 2048 + first * 32) ((last + 1 - first) * 32)

/-- The DIRTY bits of an agent's quires are of their sectors. -/
def Caches.Tidy (c : Caches) (agent : Nat) : Prop := ∀ q ∈ c.at_ agent, ∀ x ∈ q.dirty, q.first ≤ x ∧ x ≤ q.last

/-- A request of an L1 that holds nothing is the one request for a frame, and no write-back of its sectors is under way elsewhere. -/
def Caches.Alone (c : Caches) (q : CohReq) : Prop :=
  q.agent < 4096 ∧ c.at_ q.agent = [] ∧ q.first ≤ q.last ∧ q.last ≤ 63 ∧ c.wbpElsewhere q.agent q.frame q.first q.last = false ∧ (∀ a, c.Tidy a) ∧ ∀ r ∈ c.coh, r = q ∨ r.frame ≠ q.frame

/-- The state in which a copy stands after a read request of another agent (R222). -/
def sharedOf : QState → QState
  | .m => .o
  | .e => .s
  | x => x

/-! ### Barriers (R269 to R275) -/

/-- A warp keeps its registers, flags, queues and results under way, and its special registers unless writes of the group waited for its end. -/
def Warp.SameRegs (w w' : Warp) : Prop :=
  w'.v = w.v ∧ w'.k = w.k ∧ w'.p = w.p ∧ w'.pend = w.pend ∧ w'.axf = w.axf ∧ w'.ucount = w.ucount ∧ w'.queues = w.queues ∧ w'.exited = w.exited ∧
  w'.stops = w.stops ∧ (w.deferred = [] → w'.specials = w.specials)

/-- A boundary jump (R428): the warp's clock is the first boundary point after its group began, it owes its turn there, and its run has ended. -/
def Warp.Jumped (w w' : Warp) (g : Nat) : Prop :=
  w'.lclk = (w.grpLclk / g + 1) * g ∧ w'.owed = some ((w.grpLclk / g + 1) * g) ∧ w'.inRun = false

/-- Barrier `id` of a group. -/
def State.barrier (s : State) (g id : Nat) : Barrier := SMap.get ⟨0, []⟩ (s.groupAt g).bars id

/-- The arrivals, count and largest clock of phase `q`, or what an arrival with count `cnt` finds where the phase is not open. -/
def Barrier.phase (b : Barrier) (q cnt : Nat) : Phase := SMap.get ⟨0, cnt, 0⟩ b.opened q

/-- Warp `h` is a warp of group `g`. -/
def State.InGroup (s : State) (g h : Nat) : Prop := ∃ w, SMap.find s.warps h = some w ∧ w.grp = g ∧ w.kind = .normal

/-- At barrier `id` of the current warp's group nothing is left to settle: only the present phase is open, with count `cnt` and room for an arrival; no warp has left, and none has a pending arrival that covers its threads. -/
def State.BarQuiet (s : State) (id cnt : Nat) : Prop :=
  let b := s.barrier s.w.grp id
  (∀ q, q ≠ b.done → SMap.find b.opened q = none) ∧ (b.phase b.done cnt).count = cnt ∧ (b.phase b.done cnt).arrivals < cnt ∧
  ∀ e ∈ s.warps, e.2.grp = s.w.grp → e.2.gone = false ∧ (SMap.get 0 e.2.barMask id = 0 ∨ SMap.get 0 e.2.barMask id ||| e.2.exited ≠ 0xFFFFFFFF)

/-- An arrival at a barrier by the current strand may be made now: its count is `cnt`, no thread of it is in the pending mask, its warp is at the barrier's present phase. -/
def State.MayArrive (s : State) (id cnt : Nat) (kcnt : Kr) : Prop :=
  SMap.rising s.warps = true ∧ s.Here ∧ s.w.kind = .normal ∧ s.w.park = none ∧ s.w.active ≠ 0 ∧ (SMap.find s.groups s.w.grp).isSome = true ∧
  ((s.w.rdK kcnt.toNat).toNat % 2 ^ 32 = 0 ∧ cnt = s.grid.ds.allWarps ∨ (s.w.rdK kcnt.toNat).toNat % 2 ^ 32 = cnt ∧ 0 < cnt ∧ cnt ≤ 64) ∧
  SMap.get 0 s.w.barMask id &&& s.w.active = 0 ∧ SMap.get 0 s.w.barA id = (s.barrier s.w.grp id).done ∧ s.BarQuiet id cnt

/-- The pending arrival mask of the current warp with the strand added covers all its threads. -/
def State.FillsMask (s : State) (id : Nat) : Prop := SMap.get 0 s.w.barMask id ||| s.w.active ||| s.w.exited = 0xFFFFFFFF

/-- A bart's result stands with its instruction, which is complete. -/
def Warp.Told (w : Warp) (x : BartWatch) (late : Bool) : Prop :=
  ∃ f ∈ w.inflight, f.seq = x.seq ∧ f.done = true ∧ RegWrite.ofP x.pred x.mask (fun _ => late) ∈ f.writes

/-! ### Collation (R293 to R304) -/

/-- The keys that a domain's minimum is taken over (R295): of its warps, of its ordered requests, those still on their way to a slice among them, and of its groups still to start. -/
def State.keysOf (s : State) (dom : Nat) : List Key :=
  let adds := s.adds.filter fun q => (s.gridAt (s.groupAt q.grp).grid).ds.coll && (s.gridAt (s.groupAt q.grp).grid).pk.domain == dom && (s.warpAt q.warp).kind == .normal && decide (q.seq < noSeq)
  (s.domWarps dom).filterMap s.minKeyOf ++ (s.domAt dom).reqs.map (·.key) ++ adds.map (·.key) ++ s.pendingKeys dom

/-- Each sector has one entry in the current warp's fold buffer and spill area together. -/
def Warp.FoldOnce (w : Warp) : Prop := (w.folded.map fun e => (e.spad, e.addr)).Nodup ∧ ∀ e ∈ w.folded, SMap.rising e.bytes = true

/-- The byte of global memory that an atomic of a domain sees: the turn copy, else the published byte (R304). -/
def State.turnByte (s : State) (dom a : Nat) : Byte := (SMap.find (s.domAt dom).turn a).getD (s.mem.read a)

/-- The byte an ordinary load of the current warp sees at a virtual address that lies at `pa` (R302). -/
def State.ownByte (s : State) (va pa : Nat) : Byte := (s.w.foldByte false va).getD (s.mem.read pa)

/-- The warps whose turn a boundary point is. -/
def State.OwesPoint (s : State) (dom : Nat) (p : Nat × Nat) (h : Nat) : Prop := h ∈ s.domWarps dom ∧ s.pointOf h = some p

/-! ### Matrix instructions (R153 to R179) -/

/-- A run of `n` v registers that are registers of the warp and no bound windows. -/
def Warp.Plain (w : Warp) (r n : Nat) : Prop := r + n ≤ 64 ∧ ∀ j, j < n → w.isWindow (r + j) = false

/-- Every active lane holds the same word in v register `r`, and it is a format word that a matrix instruction accepts (R115, R161). -/
def Warp.Agrees (w : Warp) (r : Nat) : Prop :=
  (∀ l, l < 32 → w.active.getLsbD l = true → w.rdV r l = w.rdV r (lowLane w.active)) ∧ fwFault true (w.rdV r (lowLane w.active)).toNat = none

/-- The agreed format word of v register `r`. -/
def Warp.format (w : Warp) (r : Nat) : Nat := (w.rdV r (lowLane w.active)).toNat

/-- The operands of an mma or mlut that no check of Table 7.2 stops: the tile, how many registers A and B have (0 where one is not read), their origins, whether each stands in a bound window, the format words. -/
structure MatRow where
  t : Tile
  a : Vr
  na : Nat
  b : Vr
  nb : Nat
  qa : Bool
  qb : Bool
  fw : List Nat
  dc : Dc

/-- The rows of mma and mlut; a supply half reads no A. -/
def matRow (supply : Bool) : Instr → Option MatRow
  | .mma _ a b t _ qa qb fw _ ty _ _ dc =>
    some ⟨t, a, if supply then 0 else 2 * matW ty, b, 2 * matW ty, qa, qb, if ty = .fmt then [fw.toNat, fw.toNat + 1] else [], dc⟩
  | .mlut _ b _ t fw qb _ dc _ _ => some ⟨t, b, 0, b, 8, false, qb, [fw.toNat], dc⟩
  | _ => none

/-- What rows 5 and 9 of Table 7.2 ask for beyond the registers: the agreement of R162 for mma, a table base and a bit-plane word for mlut. -/
def Warp.MatSound (w : Warp) : Instr → Prop
  | .mma _ _ _ _ sr _ _ fw sc ty _ n _ =>
    ty = .fmt → sc ≠ 63 ∧ formatsAgree sr (w.format fw.toNat) (w.format (fw.toNat + 1)) (n.toNat + 1) (fun isB => w.isWindow (sc.toNat + (if isB then 1 else 0))) = true
  | .mlut _ _ kt _ fw _ _ _ _ _ => (w.rdK kt.toNat).toNat % 64 = 0 ∧ isPlane (w.format fw.toNat) = true ∧ fwBlk (w.format fw.toNat) = 0
  | _ => True

/-- Every register operand of a matrix operation is in range and in no bound window, every window operand is bound, the tile exists, the votes agree. -/
def State.MatReady (s : State) (i : Instr) (r : MatRow) : Prop :=
  s.Here ∧ s.w.kind = .normal ∧ s.w.active ≠ 0 ∧ r.t.toNat < s.grid.ds.acc ∧ (r.qa = false → r.na ≠ 0 → s.w.Plain r.a.toNat r.na) ∧ (r.qa = true → s.w.isWindow r.a.toNat = true) ∧
  (r.qb = false → s.w.Plain r.b.toNat r.nb) ∧ (r.qb = true → s.w.isWindow r.b.toNat = true) ∧ (∀ f ∈ r.fw, s.w.Plain f 1 ∧ s.w.Agrees f) ∧ s.w.MatSound i

/-- The cell at row `m` and column `n` of a core's tile. -/
def State.cell (s : State) (core t m n : Nat) : Word := ((s.coreAt core).tile t).getD (64 * m + n) 0

/-- The address of the `k`-th element of a drain, in drain order (R173). -/
def drainAddr (base pitch es k : Nat) : Nat := (base + k / 64 * pitch + k % 64 * es) % 2 ^ 64

/-! ### Engines (R239 to R260) -/

/-- The copies a warp issues: from scratchpad to global, channel, destination, source, length, counter, receivers of a cpym. -/
structure CopyRow where
  s2g : Bool
  ch : BitVec 4
  kdst : Kr
  kfrom : Kr
  klen : Kr
  dc : Dc
  mask : Option (BitVec 8)

/-- The rows of cpy and cpym. -/
def copyRow : Instr → Option CopyRow
  | .cpy _ kdst kfrom klen ch s2g dc => some ⟨s2g, ch, kdst, kfrom, klen, dc, none⟩
  | .cpym _ kdst kfrom klen ch dc m => some ⟨false, ch, kdst, kfrom, klen, dc, some m⟩
  | _ => none

/-- The groups that receive a copy: the warp's own, or the gang members whose bits are set and that have not ended (R251). -/
def State.receivers (s : State) (mask : Option (BitVec 8)) : List Nat :=
  match mask with
  | none => [s.w.grp]
  | some m => (List.range 8).filterMap fun j => if m.getLsbD j then s.gangMember j else none

/-- Every set bit of a receiver mask names a member of the gang. -/
def State.MembersNamed (s : State) (mask : Option (BitVec 8)) : Prop := ∀ m, mask = some m → ∀ j, j < 8 → m.getLsbD j = true → j < s.grp.gangSize

/-- The semaphore value an instruction names (R255): the low 32 bits of k[ka] plus the signed immediate. -/
def Warp.semWord (w : Warp) (ka : Kr) (imm : BitVec 6) : Word := BitVec.ofInt 32 ((w.rdK ka.toNat).toNat + imm.toInt)

/-- The communicator with a number; absent ones have no ranks and have counted nothing. -/
def State.comm (s : State) (c : Nat) : Comm := SMap.get ⟨0, 0, 0, 0⟩ s.comms c

/-! ### Tiles (R324 to R337) -/

/-- No incomplete instruction of the current warp has the number the next one gets. -/
def Warp.FreshSeq (w : Warp) : Prop := ∀ f ∈ w.inflight, f.seq ≠ w.seqNo

/-- The tclaim status word (Table 15.5). -/
def statusWord (status slot refused cause : Nat) : Nat := status + 16 * slot + 256 * refused + 4096 * cause

/-- A frame of the region belongs to a tile with another base. -/
def State.FrameTaken (s : State) (t : Nat) (frames : List Nat) : Prop := ∃ e ∈ s.tiles, e.1 ≠ t ∧ ∃ f ∈ e.2.frames, f ∈ frames

/-! ### Queues (R347) -/

/-- The rings that stand stopped once an error stops ring `p` too. -/
def Queue.stopping (x : Queue) (p : Nat) : List Nat := if p ∈ x.stopped then x.stopped else x.stopped ++ [p]

/-! ### Special registers (Tables 13.1 to 13.3, 19.6 and 19.7) -/

/-- The value of a special register in lane `l` of a warp of a group. -/
def State.specialReg (s : State) (sr : SReg) (l : Nat) : Nat :=
  let d := s.dieAt (coreDie s.w.core)
  match sr with
  | .lclk => s.w.grpLclk
  | .tidx => (s.w.widx * 32 + l) % 2 ^ 10
  | .lane => l
  | .quad => l / 4
  | .widx => s.w.widx % 2 ^ 6
  | .gidx => s.grp.gidx
  | .ngrp => s.grid.pk.ngroups
  | .core => s.w.core
  | .clus => (s.grp.gangSize - 1) % 8 * 2 ^ 4 + s.grp.member % 8
  | .domn => if s.grid.ds.coll then 2 ^ 6 + s.grid.pk.domain % 2 ^ 6 else 0
  | .glen => s.grid.ds.glen
  | .fpc => s.w.fpc.toNat
  | .axf => (s.w.rdAxf l).toNat
  | .tmask => (if s.w.tmaskHold then 2 ^ 16 else 0) + s.w.tmaskEn.toNat
  | .bx1 => s.w.bx1.toNat
  | .bx2 => s.w.bx2.toNat
  | .bx3 => s.w.bx3.toNat
  | .hmap => s.mgmt.version * 2 ^ 16 + (s.units true (s.w.core / 8)).length * 2 ^ 8 + d.enabled / 2 ^ (s.w.core % 96 / 8 * 8) % 2 ^ 8
  | .toff => (d.toff % 2 ^ 64).toNat
  | .trate => (d.trate % 2 ^ 32).toNat

/-! ### Disposal (R385, R392) -/

/-- Lane `lane` of warp `h`, `v` before and stopped there as `st`, has been disposed of by a mode other than abort: its record `idx` is not live, and no byte of memory but the record's FLAGS has changed. -/
def State.Disposed (s t : State) (h lane idx : Nat) (mode : RftMode) (v : Warp) (st : Stop) : Prop :=
  let flags := (s.ctxAt (s.ctxOf h)).trbase * 64 + 64 * idx + 26
  (∀ r ∈ (t.ctxAt (s.ctxOf h)).live, r.idx ≠ idx) ∧ (∀ a, t.mem.read a ≠ s.mem.read a → ∃ x, s.walk (s.ctxOf h) flags = .ok x ∧ a = x.pa flags) ∧
  ∃ v', SMap.find t.warps h = some v' ∧ (∀ q ∈ v'.stops, q.lane ≠ lane) ∧ (∀ q ∈ v.stops, q.lane ≠ lane → q ∈ v'.stops) ∧ v'.marks = [] ∧ v'.pend = [] ∧
    (mode = .resume → SMap.get 0 v'.pcs lane = st.resume ∧ v'.exited = v.exited) ∧ (mode = .skip → SMap.get 0 v'.pcs lane = st.skip ∧ v'.exited = v.exited) ∧
    (mode = .exit → v'.exited = v.exited ||| (1#32 <<< lane))

/-! ### Lost sectors (R229, R231) -/

/-- Nothing that a warp has issued waits: no request at a tile, at a slice of a domain, or outside every queue. -/
def State.Calm (s : State) : Prop := s.tiles = [] ∧ s.adds = [] ∧ ∀ e ∈ s.domains, e.2.reqs = []

/-- Sector `x` of a frame is in a tracked quire of agent `n` in M, O or WBP, and in no other agent's. -/
def State.Alone (s : State) (n frame x : Nat) : Prop :=
  (∃ q ∈ s.quires n, q.tracked = true ∧ (q.st = .m ∨ q.st = .o ∨ q.st = .wbp) ∧ q.frame = frame ∧ q.first ≤ x ∧ x ≤ q.last) ∧
  ∀ a, a ≠ n → ∀ q ∈ s.quires a, q.tracked = true → q.overlaps frame x x = false

/-- Sector `y` is marked lost, or its page, of at most 2 MiB, is on the lost-page list. -/
def State.Lost (s : State) (y : Nat) : Prop := y ∈ s.lost ∨ ∃ p ∈ s.lostPages, p ≤ y * 32 ∧ y * 32 < p + 2 ^ 21

/-! ### Operand sets -/

/-- A block of the given extent from register `o` stays in the register plane (R81). -/
def InPlane (rc : Nat × Nat) (o : Nat) : Prop := o / 8 + rc.1 ≤ 8 ∧ o % 8 + rc.2 ≤ 8

/-- Every block of an instruction stays in the register plane. -/
def Warp.Fits (w : Warp) (x : Bx) (d : Vr) (srcs : List Vr) : Prop := ∀ r ∈ d :: srcs, InPlane (w.extent x) r.toNat

/-- No register of the destination block is a bound queue window (R244). -/
def Warp.NoWindow (w : Warp) (x : Bx) (d : Vr) : Prop := ∀ r ∈ blockRegs (w.extent x) d.toNat, w.isWindow r = false

/-- The registers an instruction with these source blocks reads, block after block, each row by row. -/
def Warp.sourceRegs (w : Warp) (x : Bx) (srcs : List Vr) : List Nat := srcs.flatMap fun r => blockRegs (w.extent x) r.toNat

/-- The source elements at row `i` and column `j` of the blocks, in a lane. -/
def Warp.elements (w : Warp) (x : Bx) (rs : Reads) (i j l : Nat) : Nat → Word := fun n =>
  rs.at_ (n * ((w.extent x).1 * (w.extent x).2) + (i * (w.extent x).2 + j)) l

end Sys2Proof.Machine
end

