-- ==== Sys2Proof/Certificates/Slice0/Obligations.lean ====
section
/-! DEFINITION. The statements for the provers: what the instructions and events of Zelyoram-3 do, from the numbered rules of the specification. -/

open Sys2Proof Sys2Proof.Machine

/-! ### Lane-wise, uniform, predicate and exchange instructions (chapter 4) -/

/-- R85 to R92, R94, R95: every lane-wise integer instruction runs wherever its blocks stay in the register plane, its destination is no bound window and its sources can be read.
Each element of each active lane gets the value of Tables 4.3 to 4.6, narrowed to 32 bits, visible 2 counts later (R60, R82); sources are read before anything is written.
Frame: no other register gets a result, no register, flag, special register or memory changes, entries popped from bound windows are freed. -/
def Obligations.IntegerResults : Prop :=
  ∀ (i : Instr) (r : LaneRow) (s : State) (vals : Reads) (pops : SMap Nat),
    intRow i = some r → i.fieldsOk = true → s.Here → s.w.Fits r.x r.d r.srcs → s.w.NoWindow r.x r.d →
    s.w.readRegs (s.w.sourceRegs r.x r.srcs) [] = .ok (vals, pops) →
    ∃ t, exec i s = .next t ∧ s.OnlyWarp t ∧ s.Passed t i ∧ t.w.still = (s.w.freePops pops).still ∧
      (∀ m n, m < (s.w.extent r.x).1 → n < (s.w.extent r.x).2 →
        s.w.Gives t.w 2 (.v (r.d.toNat + 8 * m + n)) fun l =>
          (BitVec.ofInt 32 (r.value s.w l (s.w.elements r.x vals m n l))).zeroExtend 64) ∧
      s.w.OnlyResults t.w ((blockRegs (s.w.extent r.x) r.d.toNat).map .v)

/-- R81, R244: a lane-wise instruction with a block outside the register plane stops every active lane of a warp of a group with an illegal-operand trap, detail 0x01, and one whose
destination holds a bound window with detail 0x05, at the instruction's own address; it writes nothing. -/
def Obligations.BlockTraps : Prop :=
  ∀ (i : Instr) (x : Bx) (d : Vr) (srcs : List Vr) (s : State),
    ((∃ r, intRow i = some r ∧ x = r.x ∧ d = r.d ∧ srcs = r.srcs) ∨ (∃ r, floatRow i = some r ∧ x = r.x ∧ d = r.d ∧ srcs = r.srcs)) →
    s.Here → s.w.kind = .normal →
    (¬ s.w.Fits x d srcs → ∃ t, exec i s = .next t ∧ s.Trapped t 0x03 (fun _ => 0x01) (fun l => s.w.active.getLsbD l) s.w.runPc) ∧
    (s.w.Fits x d srcs → ¬ s.w.NoWindow x d → ∃ t, exec i s = .next t ∧ s.Trapped t 0x03 (fun _ => 0x05) (fun l => s.w.active.getLsbD l) s.w.runPc)

/-- R96 to R100: every uniform instruction gives its k register the value of Table 4.8 (kaddi, kset, kcmp, kmov, kfromv: R98 to R100), narrowed to 64 bits, visible 2 counts later;
kfromv reads one lane, and a lane that is not active supplies 0. Frame: nothing else gets a result, and nothing else changes.
R93, R101: every predicate instruction of Table 4.9, vtop and icmp give their predicate, in every active lane, whether their condition holds, visible 2 counts later.
Frame: nothing else gets a result, and nothing else changes. -/
def Obligations.UniformAndPredicateResults : Prop :=
  (∀ (i : Instr) (r : UniRow) (s : State) (vals : Reads) (pops : SMap Nat),
    uniRow i = some r → s.Here → s.w.readRegs (r.srcs.map (·.toNat)) [] = .ok (vals, pops) →
    ∃ t, exec i s = .next t ∧ s.OnlyWarp t ∧ s.Passed t i ∧ t.w.still = (s.w.freePops pops).still ∧
      s.w.GivesK t.w 2 r.kd.toNat (BitVec.ofInt 64 (r.value s.w vals)) ∧ s.w.OnlyResults t.w [.k r.kd.toNat]) ∧
  (∀ (i : Instr) (r : PredRow) (s : State) (vals : Reads) (pops : SMap Nat),
    predRow i = some r → s.Here → s.w.readRegs (r.srcs.map (·.toNat)) [] = .ok (vals, pops) →
    ∃ t, exec i s = .next t ∧ s.OnlyWarp t ∧ s.Passed t i ∧ t.w.still = (s.w.freePops pops).still ∧
      (∃ f : Nat → Bool, (∀ l, f l = true ↔ r.holds s.w vals l) ∧ s.w.Gives t.w 2 (.p r.p.toNat) fun l => if f l then 1 else 0) ∧
      s.w.OnlyResults t.w [.p r.p.toNat])

/-- R101, R102, R105 to R109: ptov and every exchange between lanes give each active lane its value, visible 2 counts later for ptov and 3 for an exchange: the quad exchanges take the helper
value of a lane that is not active (Table 4.10), the shuffles a lane's own value where the source is no active lane, the votes and reductions count active lanes only.
Frame: nothing else gets a result, and nothing else changes. -/
def Obligations.ExchangeResults : Prop :=
  ∀ (i : Instr) (r : CrossRow) (s : State) (vals : Reads) (pops : SMap Nat),
    crossRow i = some r → s.Here → s.w.isWindow r.d.toNat = false → s.w.readRegs (r.srcs.map (·.toNat)) [] = .ok (vals, pops) →
    ∃ t, exec i s = .next t ∧ s.OnlyWarp t ∧ s.Passed t i ∧ t.w.still = (s.w.freePops pops).still ∧
      (s.w.Gives t.w r.lat (.v r.d.toNat) fun l => (r.value s.w vals l).zeroExtend 64) ∧ s.w.OnlyResults t.w [.v r.d.toNat]

/-- R244, R245: reading source registers. A register that is no bound window reads as it stands and pops nothing; one that is pops the oldest entry of its queue that this instruction
has not popped yet, in reading order, and supplies its lane values; no read changes the warp, and an empty queue or a faulted entry stops the whole read.
R245, R246: a lane-wise instruction whose read is stopped has none of its effect. At an empty queue its group waits while the slice runs, the held slice's faulted entry is its memory fault, and with the slice idle, ended or failed it traps
with illegal operand 0x09; a faulted entry is its memory fault, with the detail and address of each lane that the entry names, the least detail in the others, and the queue in the record. -/
def Obligations.WindowReads : Prop :=
  ∀ (w : Warp),
    (∀ regs cur, (∀ r ∈ regs, w.isWindow r = false) → w.readRegs regs cur = .ok (regs.map fun r l => w.rdV r l, cur)) ∧
    (∀ r regs cur e, w.isWindow r = true → (SMap.get [] w.queues (r - 56))[SMap.get 0 cur (r - 56)]? = some e → e.causes = [] →
      w.readRegs (r :: regs) cur =
        (match w.readRegs regs (SMap.put cur (r - 56) (SMap.get 0 cur (r - 56) + 1)) with
          | .ok (fs, c) => .ok ((fun l => e.vals.getD l 0) :: fs, c)
          | .error x => .error x)) ∧
    (∀ r regs cur, w.isWindow r = true → (SMap.get [] w.queues (r - 56))[SMap.get 0 cur (r - 56)]? = none → w.readRegs (r :: regs) cur = .error .empty) ∧
    (∀ r regs cur e, w.isWindow r = true → (SMap.get [] w.queues (r - 56))[SMap.get 0 cur (r - 56)]? = some e → e.causes ≠ [] → w.readRegs (r :: regs) cur = .error (.faulted (r - 56) e)) ∧
    (∀ r regs cur, w.isWindow r = false → w.readRegs (r :: regs) cur =
      (match w.readRegs regs cur with
        | .ok (fs, c) => .ok ((fun l => w.rdV r l) :: fs, c)
        | .error x => .error x)) ∧
    ∀ (i : Instr) (x : Bx) (d : Vr) (srcs : List Vr) (s : State) (stop : PopStop),
      ((∃ r, intRow i = some r ∧ x = r.x ∧ d = r.d ∧ srcs = r.srcs) ∨ (∃ r, floatRow i = some r ∧ x = r.x ∧ d = r.d ∧ srcs = r.srcs)) →
      s.Here → s.w.kind = .normal → s.w.Fits x d srcs → s.w.NoWindow x d → s.w.readRegs (s.w.sourceRegs x srcs) [] = .error stop →
      let faults (q : Nat) (e : QEntry) : Prop := ∃ t, exec i s = .next t ∧ s.Trapped t 0x04 e.detailAt (fun l => s.w.active.getLsbD l) s.w.runPc ∧
        ∀ p ∈ t.w.stops, p ∈ s.w.stops ∨ p.ea = e.eaAt p.lane ∧ p.aux = 128 + 16 * q ∧ ∀ l, l < 32 → (p.mask.getLsbD l = true ↔ ∃ c ∈ e.causes, c.1 = l)
      (∀ q e, stop = .faulted q e → faults q e) ∧
      (stop = .empty → s.w.slice.st = .running → ∃ t, exec i s = .next t ∧ s.OnlyWarp t ∧ t.w = { s.w with waiting := true }) ∧
      (∀ q e, stop = .empty → s.w.slice.st = .held → s.w.heldEntry = some (q, e) → faults q e) ∧
      (stop = .empty → s.w.slice.st ≠ .running → s.w.slice.st ≠ .held → ∃ t, exec i s = .next t ∧ s.Trapped t 0x03 (fun _ => 0x09) (fun l => s.w.active.getLsbD l) s.w.runPc)

/-- R60: making results visible. A result that is due is read in its register in its lanes, the one issued last where several are due; a register without a due result reads as before; a result that is not due waits. k0, pF and pT
discard what is written to them (R33), and so do the v and p registers of an exited thread (R75). (A result names lanes below 32: every instruction sends them for active lanes.)
R38: a word that sends a result for a register has what earlier words of its group would show there no sooner give up its lanes; results of other registers and other groups stay.
The model's choice: of two results of one group for one register the later word's stands, whatever the two latencies (log 5). -/
def Obligations.ResultsBecomeVisible : Prop :=
  ∀ (w : Warp), (∀ p ∈ w.pend, ∀ e ∈ p.res.vals, e.1 < 32) →
    let due (p : PendWrite) : Prop := p.vis ≤ w.sched
    let last (p : PendWrite) : Prop := ∃ xs ys, w.pend = xs ++ p :: ys ∧ ∀ q ∈ ys, due q → q.res.reg ≠ p.res.reg
    (∀ p, p ∈ w.commit.pend ↔ p ∈ w.pend ∧ ¬ due p) ∧
    (∀ r l, l < 32 → (∀ p ∈ w.pend, due p → p.res.reg ≠ .v r) → w.commit.rdV r l = w.rdV r l) ∧
    (∀ r l, l < 32 → (∀ p ∈ w.pend, due p → p.res.reg ≠ .p r) → w.commit.rdP r l = w.rdP r l) ∧
    (∀ r, (∀ p ∈ w.pend, due p → p.res.reg ≠ .k r) → w.commit.rdK r = w.rdK r) ∧
    (∀ p r l x, last p → due p → p.res.reg = .v r → (l, x) ∈ p.res.vals → (∀ e ∈ p.res.vals, e.1 = l → e.2 = x) →
      w.commit.rdV r l = if w.exited.getLsbD l then w.rdV r l else x.truncate 32) ∧
    (∀ p r l x, last p → due p → p.res.reg = .p r → r < 62 → (l, x) ∈ p.res.vals → (∀ e ∈ p.res.vals, e.1 = l → e.2 = x) →
      w.commit.rdP r l = if w.exited.getLsbD l then w.rdP r l else x.getLsbD 0) ∧
    (∀ p r x, last p → due p → p.res = ⟨.k r, [(0, x)]⟩ → r ≠ 0 → w.commit.rdK r = x) ∧
    w.commit.rdK 0 = 0 ∧ (∀ l, w.commit.rdP 62 l = false ∧ w.commit.rdP 63 l = true) ∧
    (∀ lat x, w.Sends (w.push lat x) lat x ∧ ∀ r n, (n ≠ w.sched ∨ r ≠ x.reg) → (w.push lat x).under r n = w.under r n) ∧
    w.commit.axf = w.axf ∧ w.commit.specials = w.specials ∧ w.commit.exited = w.exited ∧ w.commit.sched = w.sched

/-- R38, R39, R40, R54, R292: what a word that retires does to its warp. A chained word goes on to the next word of the group; the last word of a group raises the schedule count by 1 + S and holds the
next group back by 1 + S clk, S being the group's largest stall count; at the end of a run every active thread stands at the next word and the strands are formed anew. Every word adds its weight to the clock of a
warp of a group. (The group has no boundary jump, and its warp owes no boundary turn: R300 and R428 then add to this.) -/
def Obligations.RetireRule : Prop :=
  ∀ (i : Instr) (s : State), s.Here → s.w.kind = .normal → s.w.jump = false → s.w.endRun = false → s.grid.ds.coll = false →
    let t := s.retire i
    t.w.runPc = s.w.runPc + BitVec.ofNat 64 (4 * i.words) ∧ t.w.runWords = s.w.runWords + i.words ∧ t.w.lclk = (s.w.lclk + i.weight) % 2 ^ 64 ∧
    (i.hdr.c = true → t.w.todo = s.w.todo.drop 1 ∧ t.w.grpS = max s.w.grpS i.hdr.s.toNat ∧ t.w.sched = s.w.sched ∧ t.w.pcs = s.w.pcs ∧ t.w.inRun = s.w.inRun ∧ t.w.active = s.w.active) ∧
    (i.hdr.c = false → t.w.todo = [] ∧ t.w.sched = s.w.sched + 1 + max s.w.grpS i.hdr.s.toNat ∧ s.clk + 1 + max s.w.grpS i.hdr.s.toNat ≤ t.w.earliest ∧ t.w.deferred = []) ∧
    (i.hdr.c = false → i.hdr.e = false → t.w.inRun = s.w.inRun ∧ t.w.active = s.w.active ∧ t.w.pcs = s.w.pcs) ∧
    (i.hdr.c = false → i.hdr.e = true → t.w.inRun = false ∧ t.w.active = 0 ∧
      ∀ l, l < 32 → SMap.get 0 t.w.pcs l = if s.w.active.getLsbD l then t.w.runPc else SMap.get 0 s.w.pcs l)

/-! ### Float, conversion and special-register instructions (chapters 5 and 6) -/

/-- R136, R143 to R147, R127, R128, R131: every lane-wise float and conversion instruction runs wherever its blocks stay in the register plane, its destination is no bound window and its sources
can be read. Each element of each active lane gets the function's result under FPC, and the flags that any element of a lane raises are added to the lane's AXF, which no float instruction clears.
A fixed-latency form gives its results 4 counts later; a special function (frcp, frsq, fsqrt, fex2, flg2, fsin, fcos) counts on dc0 with its results and a pending mark on each register (R61, R62, R134).
Frame: nothing else changes.
The model's choices: flags stand as the word issues (log 15), and fdot2's NV for infinities of both signs beside a quiet NaN (log 27). -/
def Obligations.FloatResults : Prop :=
  ∀ (i : Instr) (r : FloatRow) (s : State) (vals : Reads) (pops : SMap Nat),
    floatRow i = some r → s.Here → s.w.Fits r.x r.d r.srcs → s.w.NoWindow r.x r.d →
    s.w.readRegs (s.w.sourceRegs r.x r.srcs) [] = .ok (vals, pops) →
    let out (m n l : Nat) : Nat × FFlags := r.out s.w.fpc (s.w.elements r.x vals m n l)
    let dst := (blockRegs (s.w.extent r.x) r.d.toNat).map RegId.v
    ∃ t, exec i s = .next t ∧ s.OnlyWarp t ∧ s.Passed t i ∧
      (∀ l b, l < 32 → ((t.w.rdAxf l).getLsbD b = true ↔ (s.w.rdAxf l).getLsbD b = true ∨ s.w.active.getLsbD l = true ∧
        ∃ m n, m < (s.w.extent r.x).1 ∧ n < (s.w.extent r.x).2 ∧ (out m n l).2.getLsbD b = true)) ∧
      (i.latency ≠ .dc →
        { t.w with axf := s.w.axf }.still = (s.w.freePops pops).still ∧ s.w.OnlyResults t.w dst ∧
        ∀ m n, m < (s.w.extent r.x).1 → n < (s.w.extent r.x).2 →
          s.w.Gives t.w 4 (.v (r.d.toNat + 8 * m + n)) fun l => (BitVec.ofNat 32 (out m n l).1).zeroExtend 64) ∧
      (i.latency = .dc →
        { (t.w.uncounted s.w) with axf := s.w.axf }.still = (s.w.freePops pops).still ∧
        t.w.pend = s.w.pend ∧ t.w.seqNo = s.w.seqNo + 1 ∧
        (∃ old ws, t.w.inflight = old ++ [⟨s.w.seqNo, 0, true, ws, s.w.sched, []⟩] ∧ old.map Inflight.bare = s.w.inflight.map Inflight.bare ∧ ws.map (·.reg) = dst ∧
          ∀ m n, m < (s.w.extent r.x).1 → n < (s.w.extent r.x).2 →
            ⟨.v (r.d.toNat + 8 * m + n), (lanesOf s.w.active).map fun l => (l, (BitVec.ofNat 32 (out m n l).1).zeroExtend 64)⟩ ∈ ws) ∧
        t.w.marks = s.w.marks ++ dst.map fun reg => ⟨reg, 0, SMap.get 0 s.w.dcIssued 0 + 1⟩)

/-- R148: fcmp gives its predicate, in every active lane, the comparison after DAZ joined with q, visible 4 counts later, and raises the comparison's flags. Frame: nothing else changes. -/
def Obligations.FloatCompare : Prop :=
  ∀ (h : Hdr) (p : Pr) (a b : Vr) (cond : FCond) (comb : Comb) (q : Pr) (s : State) (vals : Reads) (pops : SMap Nat),
    s.Here → s.w.readRegs [a.toNat, b.toNat] [] = .ok (vals, pops) →
    let out (l : Nat) := fcmpHolds cond (fpcDaz s.w.fpc) (vals.at_ 0 l).toNat (vals.at_ 1 l).toNat
    ∃ t, exec (.fcmp h p a b cond comb q) s = .next t ∧ s.OnlyWarp t ∧ s.Passed t (.fcmp h p a b cond comb q) ∧
      { t.w with axf := s.w.axf }.still = (s.w.freePops pops).still ∧ s.w.OnlyResults t.w [.p p.toNat] ∧
      (∀ l, l < 32 → t.w.rdAxf l = if s.w.active.getLsbD l then s.w.rdAxf l ||| (out l).2 else s.w.rdAxf l) ∧
      ∃ f : Nat → Bool, (∀ l, f l = true ↔ joined comb ((out l).1 = true) (s.w.rdP q.toNat l = true)) ∧
        s.w.Gives t.w 4 (.p p.toNat) fun l => if f l then 1 else 0

/-- R115, R129, R130, R132: packing, unpacking and scale choice, wherever every active lane's format word is sound, the register run stays below v64 and the sources can be read.
fpack gives each active lane the packed register and adds the elements that underflowed to its saturating count; funpk gives the `j`-th destination register to the lanes whose format has more than `j`
elements; fsca gives both scale codes. All add their flags to AXF and are visible 4 counts later. Frame: nothing else changes.
The model's choice: flags and counts stand as the word issues (log 15). -/
def Obligations.PackedConversions : Prop :=
  (∀ (h : Hdr) (d a b : Vr) (pos : BitVec 2) (kseed : Kr) (s : State) (vals : Reads) (pops : SMap Nat),
    let i := Instr.fpack h d a b pos kseed
    let fw (l : Nat) : Nat := (vals.at_ 0 l).toNat
    let n := (lanesOf s.w.active).foldl (fun k l => max k (fwCount (fw l))) 0
    let out (l : Nat) := fpackOf (fw l) pos.toNat (s.w.rdK kseed.toNat).toNat (s.threadIdx l) (s.w.rdV d.toNat l).toNat fun j => (vals.at_ (j + 1) l).toNat
    s.Here → s.w.isWindow d.toNat = false → fwBad true s.w.active (vals.at_ 0) = [] →
    (pos = 0 ∨ ∃ l, l < 32 ∧ s.w.active.getLsbD l = true ∧ fwCw (fw l) = 1) → a.toNat + n ≤ 64 →
    s.w.readRegs (b.toNat :: (List.range n).map fun j => a.toNat + j) [] = .ok (vals, pops) →
    ∃ t, exec i s = .next t ∧ s.OnlyWarp t ∧ s.Passed t i ∧
      { t.w with axf := s.w.axf, ucount := s.w.ucount }.still = (s.w.freePops pops).still ∧ s.w.OnlyResults t.w [.v d.toNat] ∧
      (s.w.Gives t.w 4 (.v d.toNat) fun l => (BitVec.ofNat 32 (out l).1).zeroExtend 64) ∧
      ∀ l, l < 32 →
        (t.w.rdAxf l = if s.w.active.getLsbD l then s.w.rdAxf l ||| (out l).2.1 else s.w.rdAxf l) ∧
        (SMap.get 0 t.w.ucount l).toNat = if s.w.active.getLsbD l then min 65535 ((SMap.get 0 s.w.ucount l).toNat + (out l).2.2) else (SMap.get 0 s.w.ucount l).toNat) ∧
  (∀ (h : Hdr) (d a b : Vr) (pos : BitVec 2) (c : Vr) (sc : Bool) (s : State) (vals : Reads) (pops : SMap Nat),
    let i := Instr.funpk h d a b pos c sc
    let fw (l : Nat) : Nat := (vals.at_ 0 l).toNat
    let word (l : Nat) : Nat := (vals.at_ (if sc then 2 else 1) l).toNat
    let n := (lanesOf s.w.active).foldl (fun k l => max k (fwCount (fw l))) 0
    let out (j l : Nat) := funpkOf (fw l) (fld (word l) (fwCw (fw l) * contPos (fw l) pos.toNat j) (fwCw (fw l)))
      (if sc then some (scaleVal (fwSc (fw l)) (vals.at_ 1 l).toNat) else none)
    s.Here → s.w.readRegs ([b.toNat] ++ (if sc then [c.toNat] else []) ++ [a.toNat]) [] = .ok (vals, pops) → fwBad true s.w.active (vals.at_ 0) = [] →
    d.toNat + n ≤ 64 → (∀ j, j < n → s.w.isWindow (d.toNat + j) = false) →
    ∃ t, exec i s = .next t ∧ s.OnlyWarp t ∧ s.Passed t i ∧ { t.w with axf := s.w.axf }.still = (s.w.freePops pops).still ∧
      s.w.OnlyResults t.w ((List.range n).map fun j => .v (d.toNat + j)) ∧
      ∀ j, j < n →
        s.w.Sends t.w 4 ⟨.v (d.toNat + j), ((lanesOf s.w.active).filter fun l => decide (j < fwCount (fw l))).map fun l => (l, (BitVec.ofNat 32 (out j l).1).zeroExtend 64)⟩ ∧
        ∀ l b, l < 32 → ((t.w.rdAxf l).getLsbD b = true ↔ (s.w.rdAxf l).getLsbD b = true ∨ s.w.active.getLsbD l = true ∧
          ∃ k, k < fwCount (fw l) ∧ (out k l).2.getLsbD b = true)) ∧
  (∀ (h : Hdr) (d a b c : Vr) (s : State) (vals : Reads) (pops : SMap Nat),
    let i := Instr.fsca h d a b c
    let out (l : Nat) := fscaOf (vals.at_ 0 l).toNat (vals.at_ 1 l).toNat (vals.at_ 2 l).toNat
    s.Here → s.w.isWindow d.toNat = false → s.w.readRegs [c.toNat, a.toNat, b.toNat] [] = .ok (vals, pops) → fwBad true s.w.active (vals.at_ 0) = [] →
    ∃ t, exec i s = .next t ∧ s.OnlyWarp t ∧ s.Passed t i ∧ { t.w with axf := s.w.axf }.still = (s.w.freePops pops).still ∧ s.w.OnlyResults t.w [.v d.toNat] ∧
      (∀ l, l < 32 → t.w.rdAxf l = if s.w.active.getLsbD l then s.w.rdAxf l ||| (out l).2 else s.w.rdAxf l) ∧
      s.w.Gives t.w 4 (.v d.toNat) fun l => (BitVec.ofNat 32 (out l).1).zeroExtend 64)

/-- R126, R133: fzct gives each active lane its underflow count, visible 4 counts later, and clears the counts of the active lanes unless it peeks. R152: fsetm gives each active lane FPC as it stood.
Frame: nothing else gets a result; the counts of other lanes, AXF, registers and memory stay.
The model's choice: the count changes as the word issues (log 15). -/
def Obligations.CountsAndModes : Prop :=
  (∀ (h : Hdr) (d : Vr) (peek : Bool) (s : State), s.Here → s.w.isWindow d.toNat = false →
    ∃ t, exec (.fzct h d peek) s = .next t ∧ s.OnlyWarp t ∧ s.Passed t (.fzct h d peek) ∧ { t.w with ucount := s.w.ucount }.still = s.w.still ∧
      (s.w.Gives t.w 4 (.v d.toNat) fun l => ((SMap.get 0 s.w.ucount l).zeroExtend 32 : Word).zeroExtend 64) ∧ s.w.OnlyResults t.w [.v d.toNat] ∧
      ∀ l, l < 32 → SMap.get 0 t.w.ucount l = if s.w.active.getLsbD l && !peek then 0 else SMap.get 0 s.w.ucount l) ∧
  (∀ (h : Hdr) (d : Vr) (m v : BitVec 4) (s : State), s.Here → s.w.isWindow d.toNat = false →
    ∃ t, exec (.fsetm h d m v) s = .next t ∧ s.OnlyWarp t ∧ t.w.still = s.w.still ∧
      (s.w.Gives t.w 4 (.v d.toNat) fun _ => (s.w.fpc.zeroExtend 32 : Word).zeroExtend 64) ∧ s.w.OnlyResults t.w [.v d.toNat])

/-- R78, R80, R103, R152, R244, R393, R395: a write to a special register applies from the warp's next group. Within its chain group the special registers stand as they were; when the group ends the
write has been applied, to the bits it names and no others. Frame: no register but fsetm's gets a result, and nothing else changes. -/
def Obligations.SpecialWritesWait : Prop :=
  (∀ (i : Instr) (r : SpecialRow) (s : State) (vals : Reads) (pops : SMap Nat),
    specialRow i = some r → s.Here → s.w.readRegs (r.srcs.map (·.toNat)) [] = .ok (vals, pops) → (∀ h d m v, i = .fsetm h d m v → s.w.isWindow d.toNat = false) →
    ∃ t, exec i s = .next t ∧ s.OnlyWarp t ∧ t.w.still = (s.w.freePops pops).still ∧ t.w.runPc = s.w.runPc + BitVec.ofNat 64 (4 * i.words) ∧
      ((∀ h d m v, i ≠ .fsetm h d m v) → t.w.pend = s.w.pend) ∧
      (i.hdr.c = true → t.w.specials = s.w.specials ∧ t.w.deferred = s.w.deferred ++ [r.write s.w vals]) ∧
      (i.hdr.c = false → s.w.deferred = [] → t.w.deferred = [] ∧ t.w.specials = (s.w.applySpecial (r.write s.w vals)).specials)) ∧
  (∀ (w : Warp) (m v : BitVec 4) (b : Nat), (w.applySpecial (.fpc m v)).fpc.getLsbD b = if m.getLsbD b then v.getLsbD b else w.fpc.getLsbD b) ∧
  (∀ (w : Warp) (en m : BitVec 6) (hold : Option Bool) (b : Nat),
    (w.applySpecial (.tmask en m hold)).tmaskEn.getLsbD b = (if m.getLsbD b then en.getLsbD b else w.tmaskEn.getLsbD b) ∧ (w.applySpecial (.tmask en m hold)).tmaskHold = hold.getD w.tmaskHold)

/-- R113, R137: rounding. The magnitude m × 2^e rounded to a multiple of 2^q is a neighbour of the exact value: it is inexact exactly when the two differ; to-nearest modes err by at most half a place,
and rne gives an even count on a tie; rtz does not exceed the magnitude, and rdn and rup round down and up. Rounding to f32 does this once: at 24 significant bits, or at 2^-149 below the normal numbers; what reaches 2^128 overflows, to the
largest finite value or infinity as the mode and sign say; NX, UF, OF and DN are raised as Table 6.3 has them, and a result that FTZ finds tiny is a zero of its sign.
R140 to R144: fadd, fsub, fmul and ffma give the exact sum, difference, product or fused value of their operands, read through DAZ, rounded so once; an exact zero has the sign of R141; a NaN among the operands, infinity × zero and opposite
infinities give the canonical NaN, with NV for a signalling operand and for the last two; and infinities give infinities.
R111, R141: a value of f16 or bf16 converted to f32 and back is itself, and neither conversion raises a flag. -/
def Obligations.RoundingIsCorrect : Prop :=
  (∀ (rm : Rm5) (neg : Bool) (m : Nat) (e q : Int),
    let r := roundAt rm neg m e q false
    let x : ℚ := (m : ℚ) * 2 ^ e
    let y : ℚ := (r.1 : ℚ) * 2 ^ q
    (r.2 = true ↔ y ≠ x) ∧ |y - x| < 2 ^ q ∧
    (rm = .rne ∨ rm = .rna → |y - x| ≤ 2 ^ q / 2) ∧ (rm = .rne → |y - x| = 2 ^ q / 2 → r.1 % 2 = 0) ∧ (rm = .rna → |y - x| = 2 ^ q / 2 → x ≤ y) ∧
    (rm = .rtz → y ≤ x) ∧ (rm = .rdn → neg = false → y ≤ x) ∧ (rm = .rdn → neg = true → x ≤ y) ∧ (rm = .rup → neg = false → x ≤ y) ∧ (rm = .rup → neg = true → y ≤ x)) ∧
  (∀ (rm : Rm5) (ftz neg : Bool) (m : Nat) (e : Int), m ≠ 0 →
    let top := e + Nat.log2 m
    let free : ℚ := (roundAt rm neg m e (top - 23) false).1 * 2 ^ (top - 23)
    let q := max (top - 23) (-149)
    let r := roundAt rm neg m e q false
    let y : ℚ := (r.1 : ℚ) * 2 ^ q
    let tiny := free < 2 ^ (-126 : Int)
    let out := f32.round rm ftz neg m e false
    let sign := if neg then 2 ^ 31 else 0
    (tiny → ftz = true → out = (sign, flagUF ||| flagNX ||| flagDN)) ∧
    (2 ^ 128 ≤ y → out = ((if rm = .rtz ∨ rm = .rdn ∧ neg = false ∨ rm = .rup ∧ neg = true then 0x7F7FFFFF else 0x7F800000) + sign, flagOF ||| flagNX)) ∧
    (y < 2 ^ 128 → (tiny → ftz = false) → f32.Finite out.1 neg y ∧ out.2 = (flagIf r.2 flagNX ||| if tiny ∧ r.2 = true then flagUF else 0))) ∧
  (∀ (c : BitVec 4) (a b : Nat), a < 2 ^ 32 → b < 2 ^ 32 →
    let x := f32.input (fpcDaz c) a
    let y := f32.input (fpcDaz c) b
    let nv := flagIf (x.1.isSig || y.1.isSig) flagNV
    let dn := x.2 ||| y.2
    f32.sub c a b = f32.add c a (b ^^^ 2 ^ 31) ∧
    (x.1.isNan = true ∨ y.1.isNan = true → f32.add c a b = (0x7FC00000, nv ||| dn) ∧ f32.mul c a b = (0x7FC00000, nv ||| dn)) ∧
    (x.1.isFin = true → y.1.isFin = true →
      (x.1.num + y.1.num ≠ 0 → RoundedOnce c (x.1.num + y.1.num) dn (f32.add c a b)) ∧ (x.1.num + y.1.num = 0 → f32.add c a b = (zeroSum (fpcRm c) [x.1, y.1], dn)) ∧
      (x.1.num * y.1.num ≠ 0 → RoundedOnce c (x.1.num * y.1.num) dn (f32.mul c a b)) ∧ (x.1.num * y.1.num = 0 → f32.mul c a b = (if x.1.isNeg ≠ y.1.isNeg then 2 ^ 31 else 0, dn))) ∧
    (∀ n, x.1 = .inf n → (y.1.isFin = true ∨ y.1 = .inf n → f32.add c a b = (if n then 0xFF800000 else 0x7F800000, dn)) ∧ (y.1 = .inf (!n) → f32.add c a b = (0x7FC00000, flagNV)) ∧
      (y.1.isFin = true → y.1.num = 0 → f32.mul c a b = (0x7FC00000, flagNV ||| dn)) ∧
      (y.1.isNan = false → (y.1.isFin = true → y.1.num ≠ 0) → f32.mul c a b = (if n ≠ y.1.isNeg then 0xFF800000 else 0x7F800000, dn))) ∧
    (∀ n, y.1 = .inf n → x.1.isFin = true → f32.add c a b = (if n then 0xFF800000 else 0x7F800000, dn) ∧ f32.mul c a b = f32.mul c b a)) ∧
  (∀ (c : BitVec 4) (a b d : Nat),
    let x := f32.input (fpcDaz c) a
    let y := f32.input (fpcDaz c) b
    let z := f32.input (fpcDaz c) d
    let dn := x.2 ||| y.2 ||| z.2
    let void := x.1.isFin = true ∧ x.1.num = 0 ∧ (y.1.isInf true || y.1.isInf false) = true ∨ y.1.isFin = true ∧ y.1.num = 0 ∧ (x.1.isInf true || x.1.isInf false) = true
    let v := x.1.num * y.1.num + z.1.num
    (x.1.isNan = true ∨ y.1.isNan = true ∨ z.1.isNan = true ∨ void →
      f32.fma c a b d = (0x7FC00000, (if void ∨ x.1.isSig = true ∨ y.1.isSig = true ∨ z.1.isSig = true then flagNV else 0) ||| dn)) ∧
    (x.1.isFin = true → y.1.isFin = true → z.1.isFin = true →
      (v ≠ 0 → RoundedOnce c v dn (f32.fma c a b d)) ∧ (v = 0 → f32.fma c a b d = (zeroSum (fpcRm c) [(x.1.mul y.1).1, z.1], dn))) ∧
    (x.1.isFin = true → y.1.isFin = true → ∀ n, z.1 = .inf n → f32.fma c a b d = (if n then 0xFF800000 else 0x7F800000, dn)) ∧
    (∀ n, (x.1.mul y.1).1 = .inf n → (z.1.isFin = true ∨ z.1 = .inf n → f32.fma c a b d = (if n then 0xFF800000 else 0x7F800000, dn)) ∧
      (z.1 = .inf (!n) → f32.fma c a b d = (0x7FC00000, flagNV ||| dn)))) ∧
  (∀ (ty : FType) (rm : Rm5) (x : Nat), ty ≠ .f32 → x < 2 ^ 16 → (∀ sig, (ftypeFmt ty).decode x ≠ .nan sig) →
    let y := fcvtOf .f32 ty false false rm x 0
    y.2 = 0 ∧ fcvtOf ty .f32 false false rm y.1 0 = (x, 0))

/-! ### Control instructions and traps (chapter 3, R379 to R381) -/

/-- R36, R69, R70: a branch ends its run; each active lane stands at the target, 12 bytes times the signed offset from the branch's own packet, where its condition holds, and at the next word
where it does not. bru and bruz test the whole k register, so their lanes go together. Frame: no register, flag or memory changes, and no result is sent.
R36, R71 to R73: a jump, return or call through a k register goes to the address in it where that starts a packet of the code object; call goes to its offset's packet. A call leaves the address of
the next packet in its link register for the warp's next group, callx having read its target before. Where the address breaks R36, the transfer traps with illegal-instruction detail 0x0B: no lane moves
and no link is written. Frame: nothing else changes.
The model's choice, not in the cited rules: a branch or a call by offset is not checked against the code object (log 22). -/
def Obligations.Transfers : Prop :=
  (∀ (i : Instr) (taken : Warp → Nat → Bool) (off : BitVec 14) (s : State),
    branchRow i = some (taken, off) → i.headerOk = true → s.Here → s.grid.ds.code ≤ s.w.runPc.toNat →
    ∃ t, exec i s = .next t ∧ t.w.pend = s.w.pend ∧
      s.Went t fun l => if taken s.w l then s.packet off.toInt else s.w.runPc + 4) ∧
  (∀ (i : Instr) (ka : Kr) (link : Option Kr) (s : State),
    jumpRow i = some (ka, link) → i.headerOk = true → s.Here → s.grid.ds.code ≤ s.w.runPc.toNat →
    (s.PacketStart (s.w.rdK ka.toNat).toNat →
      ∃ t, exec i s = .next t ∧ s.Went t (fun _ => s.w.rdK ka.toNat) ∧
        (link = none → t.w.pend = s.w.pend) ∧
        (∀ kd, link = some kd → s.w.GivesK t.w 1 kd.toNat (s.packet 1) ∧ s.w.OnlyResults t.w [.k kd.toNat])) ∧
    (¬ s.PacketStart (s.w.rdK ka.toNat).toNat → s.w.kind = .normal →
      ∃ t, exec i s = .next t ∧ s.Trapped t 0x01 (fun _ => 0x0B) (fun l => s.w.active.getLsbD l) s.w.runPc)) ∧
  (∀ (h : Hdr) (k : Kr) (off : BitVec 14) (s : State), (Instr.call h k off).headerOk = true → s.Here → s.grid.ds.code ≤ s.w.runPc.toNat →
    ∃ t, exec (.call h k off) s = .next t ∧ s.Went t (fun _ => s.packet off.toInt) ∧ s.w.GivesK t.w 1 k.toNat (s.packet 1) ∧ s.w.OnlyResults t.w [.k k.toNat])

/-- R61, R68, R77: nop does nothing but pass. dwait passes once every counter it names counts at most n instructions, and then removes the pending marks of every instruction on those counters but the n
issued last; until then it waits and changes nothing, unless a copy that it covers stands at a fault: that is its memory fault, with the copy's detail and address and its channel in the record (R253). Frame: no register, flag or memory changes. -/
def Obligations.WaitsForCounters : Prop :=
  (∀ (h : Hdr) (s : State), s.Here →
    ∃ t, exec (.nop h) s = .next t ∧ s.OnlyWarp t ∧ s.Passed t (.nop h) ∧ t.w.still = s.w.still ∧ t.w.pend = s.w.pend) ∧
  (∀ (h : Hdr) (mask : BitVec 7) (n : BitVec 6) (s : State), s.Here →
    let low := ∀ c, c < 7 → mask.getLsbD c = true → (s.w.inflight.filter fun f => f.dc == c).length ≤ n.toNat
    (low → ∃ t, exec (.dwait h mask n) s = .next t ∧ s.OnlyWarp t ∧ s.Passed t (.dwait h mask n) ∧ t.w.pend = s.w.pend ∧ { t.w with marks := s.w.marks }.still = s.w.still ∧
      ∀ m, m ∈ t.w.marks ↔ m ∈ s.w.marks ∧ ¬ (mask.getLsbD m.dc = true ∧ m.idx + n.toNat ≤ SMap.get 0 s.w.dcIssued m.dc)) ∧
    (¬ low → (∀ c d a, ¬ s.FaultedCopy mask c d a) → ∃ t, exec (.dwait h mask n) s = .next t ∧ t.w = { s.w with waiting := true } ∧ t.mem = s.mem) ∧
    (¬ low → s.w.kind = .normal → (∃ c d a, s.FaultedCopy mask c d a) → ∃ c d a t, s.FaultedCopy mask c d a ∧ exec (.dwait h mask n) s = .next t ∧
      s.Trapped t 0x04 (fun _ => d) (fun l => s.w.active.getLsbD l) s.w.runPc ∧ ∀ p ∈ t.w.stops, p ∈ s.w.stops ∨ p.ea = a ∧ p.aux = c.2.2))

/-- R75: exit ends every active lane's thread in a warp of a group: the threads join the exited ones, no strand holds them any more, and their registers and all of memory stay as they are.
Whatever their exits complete at barriers is said there. -/
def Obligations.ExitEndsThreads : Prop :=
  ∀ (h : Hdr) (s : State), s.Here → s.w.kind = .normal → (Instr.exit h).headerOk = true →
    ∃ t, exec (.exit h) s = .next t ∧ t.cur = s.cur ∧ t.w.exited = s.w.exited ||| s.w.active ∧ t.w.inRun = false ∧
      (∀ x ∈ t.w.strands, ∀ l, l < 32 → s.w.active.getLsbD l = true → x.2.1.getLsbD l = false) ∧
      t.w.v = s.w.v ∧ t.w.k = s.w.k ∧ t.w.p = s.w.p ∧ t.w.pend = s.w.pend ∧ t.w.axf = s.w.axf ∧ ∀ a, t.mem.read a = s.mem.read a

/-- R79, R138, R379 to R381, R391, R408: the traps a program asks for. brk stops every active lane with cause 0x0C and its code, trap with cause 0x0D and its code, and tfence, once every flag is in, the active lanes
with a flag that TMASK enables, with cause 0x0B and those flags; all resume at the next word. The other lanes of a tfence pass it, and one that stops no lane changes nothing. (A warp of a group.)
The model's choice, not in the cited rule: a tfence that stops some lanes ends the run after its group (log 57). -/
def Obligations.AskedTraps : Prop :=
  (∀ (h : Hdr) (code : BitVec 16) (s : State), s.Here → s.w.kind = .normal → s.w.active ≠ 0 →
    ∃ t, exec (.brk h code) s = .next t ∧ s.Trapped t 0x0C (fun _ => 0) (fun l => s.w.active.getLsbD l) (s.w.runPc + 4) ∧
      ∀ p ∈ t.w.stops, p ∈ s.w.stops ∨ p.ea = code.toNat) ∧
  (∀ (h : Hdr) (code : BitVec 16) (s : State), s.Here → s.w.kind = .normal → s.w.active ≠ 0 →
    ∃ t, exec (.trap h code) s = .next t ∧ s.Trapped t 0x0D (fun _ => 0) (fun l => s.w.active.getLsbD l) (s.w.runPc + 4) ∧
      ∀ p ∈ t.w.stops, p ∈ s.w.stops ∨ p.ea = code.toNat) ∧
  (∀ (h : Hdr) (s : State), s.Here → s.w.kind = .normal → s.flagsSettled = true →
    let hit (l : Nat) : Bool := s.w.active.getLsbD l && (s.w.rdAxf l &&& s.w.tmaskEn) != 0
    ((∀ l, l < 32 → hit l = false) → ∃ t, exec (.tfence h) s = .next t ∧ s.OnlyWarp t ∧ s.Passed t (.tfence h) ∧ t.w.still = s.w.still ∧ t.w.pend = s.w.pend) ∧
    ((∃ l, l < 32 ∧ hit l = true) → ∃ t, exec (.tfence h) s = .next t ∧ s.Stopped t 0x0B (fun l => (s.w.rdAxf l &&& s.w.tmaskEn).toNat) hit (s.w.runPc + 4) ∧
      ((∃ l, l < 32 ∧ s.w.active.getLsbD l = true ∧ hit l = false) → t.w.runPc = s.w.runPc + 4)))

/-! ### Memory access (chapter 8) -/

/-- R182 to R186, R189, R190, R196: ld, ldl and lds in a warp of an open grid, where every active lane's access may perform, or, with a probe predicate, meets a page that is not resident. Each active lane reads its
`n` bytes, least significant byte at the lowest address, of device memory at the physical address of its effective address, or of its side's scratchpad; a probe miss reads 0 and gives the probe
predicate 1. The results stand with the counted instruction. Frame: no byte of memory or scratchpad changes, no register, flag or special register changes, and no other warp.
The model's choices: an access performs as its word issues (log 7), and a byte that nothing has written reads as 0 (log 2). -/
def Obligations.Loads : Prop :=
  ∀ (i : Instr) (r : AccRow) (s : State) (c : Nat) (fs : Reads) (pops : SMap Nat) (pa : Nat → Nat) (val : Nat → Option Nat),
    loadRow i = some r → i.counter = some c → s.Here → s.w.kind = .normal → s.inDomain = false → s.w.active ≠ 0 →
    (r.n = 8 → r.d ≠ 63) → (∀ x ∈ r.regs, s.w.isWindow x = false) → s.w.readRegs r.offs [] = .ok (fs, pops) →
    (∀ l, l < 32 → s.w.active.getLsbD l = true →
      if r.spad then s.ReachesSp r.n (r.ea s.w (fs.at_ 0) l) ∧ val l = some (ofBytes ((s.grp.side s.w.twin).readN (r.ea s.w (fs.at_ 0) l) r.n))
      else (s.Reaches .load r.n l (r.ea s.w (fs.at_ 0) l) (pa l) ∧ val l = some (s.number (pa l) r.n)) ∨
        r.probe ≠ none ∧ (r.ea s.w (fs.at_ 0) l) % r.n = 0 ∧ val l = none ∧
          s.checkVa s.w.core l s.ctxNo (r.ea s.w (fs.at_ 0) l) .load (fun a => s.meetsLost a r.n) = .error 0x07) →
    let met := (lanesOf s.w.active).filter fun l => (val l).isSome
    (r.spad = false → s.TilesClear (met.map pa)) → s.NoneEarlier r.spad r.n (met.map fun l => (r.ea s.w (fs.at_ 0) l, if r.spad then r.ea s.w (fs.at_ 0) l else pa l)) →
    ∃ t, exec i s = .next t ∧ s.OthersSame t ∧ (∀ a, t.mem.read a = s.mem.read a) ∧ t.groups = s.groups ∧
      t.w.runPc = s.w.runPc + BitVec.ofNat 64 (4 * i.words) ∧ (s.w.deferred = [] → t.w.specials = s.w.specials) ∧
      (t.w.uncounted s.w).still = (s.w.freePops pops).still ∧ t.w.pend = s.w.pend ∧
      s.w.Counted t.w c (r.regs.map .v ++ (r.probe.map fun p => RegId.p p.toNat).toList) (r.results s.w.active val)

/-- R182 to R185, R189, R190: st, stl and sts in a warp of an open grid, where every active lane's access may perform. The lanes store in ascending order: a byte that several lanes store ends with the
highest one's. Frame: EVERY OTHER BYTE of device memory and of both scratchpads of every group reads as before; no register, flag or special register changes, and no other warp.
The model's choice: an access performs as its word issues (log 7). -/
def Obligations.Stores : Prop :=
  ∀ (i : Instr) (r : AccRow) (s : State) (fs : Reads) (pops : SMap Nat) (pa : Nat → Nat),
    storeRow i = some r → s.Here → s.w.kind = .normal → s.inDomain = false → s.w.active ≠ 0 → (r.n = 8 → r.d ≠ 63) →
    s.w.readRegs (r.offs ++ r.regs) [] = .ok (fs, pops) →
    let data (l : Nat) : Nat := (fs.at_ r.offs.length l).toNat + (if r.n = 8 then (fs.at_ (r.offs.length + 1) l).toNat * 2 ^ 32 else 0)
    let ea := r.ea s.w (fs.at_ 0)
    let hits (l a : Nat) : Prop := l < 32 ∧ s.w.active.getLsbD l = true ∧ pa l ≤ a ∧ a < pa l + r.n
    (∀ l, l < 32 → s.w.active.getLsbD l = true → if r.spad then s.ReachesSp r.n (ea l) ∧ pa l = ea l else s.Reaches .store r.n l (ea l) (pa l)) →
    let met := (lanesOf s.w.active).map pa
    (r.spad = false → s.TilesClear met) → s.NoneEarlier r.spad r.n ((lanesOf s.w.active).map fun l => (ea l, pa l)) →
    ∃ t, exec i s = .next t ∧ s.OthersSame t ∧ t.w.runPc = s.w.runPc + BitVec.ofNat 64 (4 * i.words) ∧ (s.w.deferred = [] → t.w.specials = s.w.specials) ∧
      (t.w.uncounted s.w).still = (s.w.freePops pops).still ∧ t.w.pend = s.w.pend ∧
      (∀ c, i.counter = some c → s.w.Counted t.w c [] []) ∧
      (r.spad = false → t.groups = s.groups ∧
        (∀ a, (∀ l, ¬ hits l a) → t.mem.read a = s.mem.read a) ∧
        (∀ l a, hits l a → (∀ k, l < k → ¬ hits k a) → t.mem.read a = BitVec.ofNat 8 (data l / 256 ^ (a - pa l)))) ∧
      (r.spad = true → (∀ a, t.mem.read a = s.mem.read a) ∧
        (∀ g, g ≠ s.w.grp → t.groupAt g = s.groupAt g) ∧ t.grp.setSide s.w.twin [] = s.grp.setSide s.w.twin [] ∧
        (∀ a, (∀ l, ¬ hits l a) → (t.grp.side s.w.twin).read a = (s.grp.side s.w.twin).read a) ∧
        (∀ l a, hits l a → (∀ k, l < k → ¬ hits k a) → (t.grp.side s.w.twin).read a = BitVec.ofNat 8 (data l / 256 ^ (a - pa l))))

/-- R192: ldk and stk act once for the strand, as the access of its lowest active lane (open grid, warp of a group, access may perform): ldk gives its k register the number read, extended to 64 bits,
and stk stores the low `n` bytes of its k register. Frame: every byte of memory outside the bytes stored reads as before, and nothing else changes.
The model's choice: an access performs as its word issues (log 7). -/
def Obligations.UniformAccesses : Prop :=
  (∀ (h : Hdr) (kd kbase : Kr) (sx : Bool) (size : ESize) (imm : BitVec 16) (dc : Dc) (s : State) (pa : Nat),
    let i := Instr.ldk h kd kbase sx size imm dc
    dc ≠ 7 → s.Here → s.w.kind = .normal → s.inDomain = false → s.w.active ≠ 0 →
    s.Reaches .load size.bytes (lowLane s.w.active) (s.w.place kbase imm) pa → s.TilesClear [pa] → s.NoneEarlier false size.bytes [(s.w.place kbase imm, pa)] →
    ∃ t, exec i s = .next t ∧ s.OthersSame t ∧ (∀ a, t.mem.read a = s.mem.read a) ∧ t.groups = s.groups ∧ t.w.runPc = s.w.runPc + BitVec.ofNat 64 (4 * i.words) ∧
      (t.w.uncounted s.w).still = s.w.still ∧ t.w.pend = s.w.pend ∧
      s.w.Counted t.w dc.toNat [.k kd.toNat]
        [⟨.k kd.toNat, [(0, if sx then (BitVec.ofNat (8 * size.bytes) (s.number pa size.bytes)).signExtend 64 else BitVec.ofNat 64 (s.number pa size.bytes))]⟩]) ∧
  (∀ (h : Hdr) (kd kbase : Kr) (size : ESize) (imm : BitVec 16) (dc : Dc) (s : State) (pa : Nat),
    let i := Instr.stk h kd kbase size imm dc
    s.Here → s.w.kind = .normal → s.inDomain = false → s.w.active ≠ 0 →
    s.Reaches .store size.bytes (lowLane s.w.active) (s.w.place kbase imm) pa → s.TilesClear [pa] → s.NoneEarlier false size.bytes [(s.w.place kbase imm, pa)] →
    ∃ t, exec i s = .next t ∧ s.OthersSame t ∧ t.groups = s.groups ∧ t.w.runPc = s.w.runPc + BitVec.ofNat 64 (4 * i.words) ∧
      (t.w.uncounted s.w).still = s.w.still ∧ t.w.pend = s.w.pend ∧ (dc ≠ 7 → s.w.Counted t.w dc.toNat [] []) ∧
      ∀ a, t.mem.read a = if pa ≤ a ∧ a < pa + size.bytes then BitVec.ofNat 8 ((s.w.rdK kd.toNat).toNat / 256 ^ (a - pa)) else s.mem.read a)

/-- R187 to R189, R266: in a warp of an open grid, a load, a store or an atomic of device memory or of the scratchpad stops exactly the active lanes whose access has a condition of Table 8.3 (misaligned: detail 0x01; out of the group's
scratchpad: 0x02; else the detail of the walk's check), with cause 0x04 and the lane's address, to be resumed at the instruction; a lane that is stopped stores nothing. (Loads here have no probe predicate.)
R188, R192, R309: the cause of ldk, stk, lock, lock.try and unlock is uniform: every active lane of the strand stops, with the one detail and address, and nothing is read or written.
The model's choice: where several conditions meet (log 23). -/
def Obligations.MemoryFaults : Prop :=
  (∀ (i : Instr) (a : LaneForm) (s : State) (fault : Nat → Option Nat), s.HasForm i a → s.Here → s.w.kind = .normal → s.inDomain = false → s.tiles = [] → s.adds = [] → s.lost = [] →
    let here (l : Nat) : Prop := l < 32 ∧ s.w.active.getLsbD l = true
    (∀ l, fault l = if a.ea l % a.n ≠ 0 then some 0x01
      else if a.spad = true then (if s.grid.ds.spl < a.ea l + a.n then some 0x02 else none)
      else match s.checkVa s.w.core l s.ctxNo (a.ea l) a.acc (fun _ => false) with | .ok _ => none | .error d => some d) →
    (∃ l, here l ∧ fault l ≠ none) →
    ∃ t, exec i s = .next t ∧ s.OthersSame t ∧
      (∀ l d, here l → fault l = some d → ∃ p ∈ t.w.stops, p.lane = l ∧ p.cause = 0x04 ∧ p.detail = d ∧ p.ea = a.ea l ∧ p.pc = s.w.runPc ∧ p.resume = s.w.runPc) ∧
      (∀ p ∈ t.w.stops, p ∈ s.w.stops ∨ (s.w.active.getLsbD p.lane = true ∧ fault p.lane ≠ none)) ∧
      (a.spad = false → t.groups = s.groups ∧ ∀ b, (∀ l x, here l → fault l = none → s.checkVa s.w.core l s.ctxNo (a.ea l) a.acc (fun _ => false) = .ok x → b < x.pa (a.ea l) ∨ x.pa (a.ea l) + a.n ≤ b) →
        t.mem.read b = s.mem.read b) ∧
      (a.spad = true → t.mem = s.mem ∧ ∀ b, (∀ l, here l → fault l = none → b < a.ea l ∨ a.ea l + a.n ≤ b) → (t.grp.side s.w.twin).read b = (s.grp.side s.w.twin).read b)) ∧
  (∀ (i : Instr) (n ea : Nat) (k : Acc) (s : State) (d : Nat), s.w.uniformForm i = some (n, ea, k) → s.Here → s.w.kind = .normal → s.inDomain = false → s.tiles = [] → s.adds = [] → s.lost = [] →
    s.w.active ≠ 0 → s.w.gotLock = false → (ea % n ≠ 0 ∧ d = 0x01 ∨ ea % n = 0 ∧ s.checkVa s.w.core (lowLane s.w.active) s.ctxNo ea k (fun _ => false) = .error d) →
    ∃ t, exec i s = .next t ∧ s.Trapped t 0x04 (fun _ => d) (fun l => s.w.active.getLsbD l) s.w.runPc ∧ ∀ p ∈ t.w.stops, p ∈ s.w.stops ∨ p.ea = ea)

/-- R193, R198: pref asks for sectors and passes, whatever its addresses: no register, flag or byte of memory changes. preq with an empty range completes at once; one whose range stays below 2^57 is held with
its core while fewer than 16 are, asks for every page of its range that is not resident, and is counted; PREQ_COMPLETE completes it once its pages are resident, adding 1 to its semaphore.
R198: PAGE_RESIDENT serves a residency request: the walk of the address then finds the same leaf with P = 1, and the request is gone. (Tables stand at multiples of 4096, as TROOT does.)
The model's choice: a page of another device or of the host is served from the same memory (log 72). -/
def Obligations.Prefetches : Prop :=
  (∀ (h : Hdr) (l2 : Bool) (kbase : Kr) (voff : Vr) (size : ESize) (imm : BitVec 16) (hint : BitVec 3) (scale : Scale) (s : State) (fs : Reads) (pops : SMap Nat),
    let i := Instr.pref h l2 kbase voff size imm hint scale
    s.Here → s.w.readRegs (if scaleTimes scale size.bytes = 0 then [] else [voff.toNat]) [] = .ok (fs, pops) →
    ∃ t, exec i s = .next t ∧ s.OthersSame t ∧ t.mem = s.mem ∧ t.groups = s.groups ∧ s.Passed t i ∧ t.w.still = (s.w.freePops pops).still ∧ t.w.pend = s.w.pend ∧
      t.cache.quires = s.cache.quires ∧ ∀ q ∈ s.cache.coh, q ∈ t.cache.coh) ∧
  (∀ (h : Hdr) (klen kbase : Kr) (sem : BitVec 6) (useSem : Bool) (imm : BitVec 16) (dc : Dc) (s : State),
    let i := Instr.preq h klen kbase sem useSem imm dc
    let len := (s.w.rdK klen.toNat).toNat
    let ea := (((s.w.rdK kbase.toNat).toNat + imm.toInt) % 2 ^ 64).toNat
    s.Here → dc ≠ 7 → (len = 0 ∨ ea + len ≤ 2 ^ 57 ∧ (s.coreAt s.w.core).preqs.length < 16) →
    ∃ t, exec i s = .next t ∧ t.mem = s.mem ∧ t.w.runPc = s.w.runPc + BitVec.ofNat 64 (4 * i.words) ∧ (t.w.uncounted s.w).still = s.w.still ∧ t.w.pend = s.w.pend ∧
      (len = 0 → s.w.Counted t.w dc.toNat [] [] ∧
        SMap.get 0 (t.grp.semsOf s.w.twin) sem.toNat = SMap.get 0 (s.grp.semsOf s.w.twin) sem.toNat + (if useSem then 1 else 0)) ∧
      (len ≠ 0 → ⟨s.w.seqNo, dc.toNat, false, [], s.w.sched, []⟩ ∈ t.w.inflight ∧ t.groups = s.groups ∧
        ∃ pages, (t.coreAt s.w.core).preqs = (s.coreAt s.w.core).preqs ++ [⟨s.cur, s.w.grp, s.w.seqNo, s.ctxNo, pages, if useSem then some sem.toNat else none⟩] ∧
          (∀ va, va ∈ pages ↔ ∃ x, (va, .ok x) ∈ s.pagesOf s.ctxNo ea len ∧ pteP x.pte = false ∧ s.pageLost x = false) ∧
          ∀ va ∈ pages, (s.ctxNo, va / 4096 * 4096) ∈ t.resReqs)) ∧
  (∀ (core idx : Nat) (q : Preq) (s : State), (s.coreAt core).preqs[idx]? = some q → s.preqReady q = true → (SMap.find s.warps q.warp).isSome = true →
    ∃ t, exec (.preqComplete core idx) s = .next t ∧ (t.coreAt core).preqs = (s.coreAt core).preqs.eraseIdx idx ∧ t.mem = s.mem ∧
      (∀ f ∈ (s.warpAt q.warp).inflight, f.seq = q.seq → { f with done := true } ∈ (t.warpAt q.warp).inflight) ∧
      ∀ n, q.sem = some n → SMap.get 0 ((t.groupAt q.grp).semsOf (s.warpAt q.warp).twin) n = SMap.get 0 ((s.groupAt q.grp).semsOf (s.warpAt q.warp).twin) n + 1) ∧
  (∀ (ctx va : Nat) (s : State) (x : Leaf),
    (ctx, va / 4096 * 4096) ∈ s.resReqs → (s.ctxAt ctx).troot % 4096 = 0 → s.walk ctx va = .ok x → pteP x.pte = false →
    ∃ t, exec (.pageResident ctx va) s = .next t ∧ t.walk ctx va = .ok { x with pte := x.pte + 2 } ∧ (ctx, va / 4096 * 4096) ∉ t.resReqs ∧ t.warps = s.warps)

/-! ### Atomics, clocks, locks and maintenance (chapters 9, 11 and 13) -/

/-- R264 to R266: atom, red and atoms in a warp of an open grid whose every active lane may perform. The lanes perform one after another in ascending order: each reads the word at its address and writes the new
value of Table 11.2, a failing cas writing nothing; atom and atoms give each lane the word it read. Frame: every byte outside the lanes' words reads as before; no register, flag or special register changes,
and no other warp.
The model's choice: an access performs as its word issues (log 7). -/
def Obligations.Atomics : Prop :=
  ∀ (i : Instr) (r : AtomRow) (s : State) (fs : Reads) (pops : SMap Nat) (pa : Nat → Nat),
    atomRow i = some r → s.Here → s.w.kind = .normal → s.inDomain = false → s.w.active ≠ 0 →
    (∀ x ∈ r.dst, x < 64 ∧ s.w.isWindow x = false) → r.vs.toNat + r.count ≤ 64 →
    s.w.readRegs (r.voff.toNat :: (List.range r.count).map (r.vs.toNat + ·)) [] = .ok (fs, pops) →
    let word (j l : Nat) : Nat := if r.n = 8 then (fs.at_ (2 * j + 1) l).toNat + (fs.at_ (2 * j + 2) l).toNat * 2 ^ 32 else (fs.at_ (j + 1) l).toNat
    let ea (l : Nat) : Nat := (((s.w.rdK r.kbase.toNat).toNat + (fs.at_ 0 l).toNat * r.n + r.imm) % 2 ^ 64).toNat
    let acts := (lanesOf s.w.active).map fun l => (l, pa l, word 0 l, word 1 l)
    (∀ l, l < 32 → s.w.active.getLsbD l = true →
      if r.spad then s.ReachesSp r.n (ea l) ∧ pa l = ea l else s.Reaches (.atomic r.scope) r.n l (ea l) (pa l)) →
    let met := (lanesOf s.w.active).map pa
    (r.spad = false → s.TilesClear met) → s.NoneEarlier r.spad r.n ((lanesOf s.w.active).map fun l => (ea l, pa l)) →
    ∃ t, exec i s = .next t ∧ s.OthersSame t ∧ t.w.runPc = s.w.runPc + BitVec.ofNat 64 (4 * i.words) ∧ (s.w.deferred = [] → t.w.specials = s.w.specials) ∧
      (t.w.uncounted s.w).still = (s.w.freePops pops).still ∧ t.w.pend = s.w.pend ∧
      (r.spad = false → t.groups = s.groups ∧ t.mem = (runAtomics r.op r.n acts s.mem).1 ∧
        (∀ c, i.counter = some c → s.w.Counted t.w c (r.dst.map .v) (r.results (runAtomics r.op r.n acts s.mem).2))) ∧
      (r.spad = true → t.mem = s.mem ∧ t.grp = s.grp.setSide s.w.twin (runAtomics r.op r.n acts (s.grp.side s.w.twin)).1 ∧
        (∀ g, g ≠ s.w.grp → t.groupAt g = s.groupAt g) ∧ (∀ c, i.counter = some c → s.w.Counted t.w c (r.dst.map .v) (r.results (runAtomics r.op r.n acts (s.grp.side s.w.twin)).2))) ∧
      ∀ a, (∀ x ∈ acts, a < x.2.1 ∨ x.2.1 + r.n ≤ a) → t.mem.read a = s.mem.read a ∧ (t.grp.side s.w.twin).read a = (s.grp.side s.w.twin).read a

/-- R268, R307: fence and clkj. A fence passes and leaves every register, flag and byte as it is. Each form of clkj sets LCLK to the clock it names, setk never going back and nb going to the next boundary;
where that is 2^64 or more it traps with collation fault 0x02 and LCLK stays. (The group has no boundary jump.) Frame: clkj changes nothing else.
The model's choice: LCLK rises word by word in group order (log 46). -/
def Obligations.ClocksAndFences : Prop :=
  (∀ (h : Hdr) (scope : Scope) (ord : Ord) (s : State), s.Here →
    ∃ t, exec (.fence h scope ord) s = .next t ∧ s.OnlyWarp t ∧ s.Passed t (.fence h scope ord) ∧ t.w.still = s.w.still ∧ t.w.pend = s.w.pend) ∧
  (∀ (i : Instr) (n : Warp → Nat → Nat) (s : State), clkjRow i = some n → s.Here →
    (n s.w s.g < 2 ^ 64 → s.w.jump = false →
      ∃ t, exec i s = .next t ∧ s.OnlyWarp t ∧ s.Passed t i ∧ t.w.still = s.w.still ∧ t.w.pend = s.w.pend ∧ t.w.lclk = n s.w s.g) ∧
    (2 ^ 64 ≤ n s.w s.g → s.w.kind = .normal → s.w.jump = false →
      ∃ t, exec i s = .next t ∧ s.Trapped t 0x08 (fun _ => 0x02) (fun l => s.w.active.getLsbD l) s.w.runPc ∧ t.w.lclk = s.w.lclk))

/-- R308 to R310: lock, lock.try and unlock on a lock word that may be reached and is in no other group's tile, in an open grid, with a nonzero owner value. A free word is taken: it holds the owner value and the predicate is
1; lock.try of a taken word writes nothing and gives 0; lock waits at a word another value holds, and traps with illegal operand 0x0E at one that holds its own value; unlock frees the word exactly when it holds
the owner value and gives whether it did. An owner value of 0 traps with 0x0D. Frame: every byte outside the lock word reads as before, and nothing else changes. A lock whose attempt has taken the word in another group's tile passes (R329).
R309, R311, R428: in a domain the word is that of the turn copies, and a release record of another warp holds a free word back. A free word is taken; lock.try of any other gives 0; lock traps with 0x0E at its own value, and else jumps:
its clock becomes the next boundary point, at which it owes its turn, none of its group's results stay under way, and its threads stand at the group's first word. No memory changes.
The model's choice: an access performs as its word issues (log 7). -/
def Obligations.Locks : Prop :=
  (∀ (i : Instr) (r : LockRow) (s : State) (pa : Nat),
    lockRow i = some r → s.Here → s.w.kind = .normal → s.inDomain = false → s.w.active ≠ 0 → s.LockAt r pa → s.TilesClear [pa] → s.NoneEarlier false 8 [(s.w.place r.kbase r.imm, pa)] → s.w.gotLock = false →
    let own := (s.w.rdK r.kval.toNat).toNat
    let old := s.number pa 8
    let unlocks := ∃ h, i = .unlock h r.p r.kbase r.kval r.imm r.dc r.scope
    let tries := ∃ h, i = .lockTry h r.p r.kbase r.kval r.imm r.dc r.scope
    let locks := ∃ h, i = .lock h r.kbase r.kval r.imm r.dc r.scope
    let passes (t : State) (ok : Bool) (new : Nat) : Prop :=
      s.OthersSame t ∧ t.groups = s.groups ∧ t.w.runPc = s.w.runPc + BitVec.ofNat 64 (4 * i.words) ∧ (t.w.uncounted s.w).still = s.w.still ∧ t.w.pend = s.w.pend ∧
      (r.dc ≠ 7 → s.w.Counted t.w r.dc.toNat [.p r.p.toNat] [⟨.p r.p.toNat, (lanesOf s.w.active).map fun l => (l, if ok then 1 else 0)⟩]) ∧
      ∀ a, t.mem.read a = if pa ≤ a ∧ a < pa + 8 then BitVec.ofNat 8 (new / 256 ^ (a - pa)) else s.mem.read a
    (own = 0 → ∃ t, exec i s = .next t ∧ s.Trapped t 0x03 (fun _ => 0x0D) (fun l => s.w.active.getLsbD l) s.w.runPc) ∧
    (own ≠ 0 → locks ∨ tries → old = 0 → ∃ t, exec i s = .next t ∧ passes t true own) ∧
    (own ≠ 0 → tries → old ≠ 0 → ∃ t, exec i s = .next t ∧ passes t false old) ∧
    (own ≠ 0 → locks → old = own → ∃ t, exec i s = .next t ∧ s.Trapped t 0x03 (fun _ => 0x0E) (fun l => s.w.active.getLsbD l) s.w.runPc) ∧
    (own ≠ 0 → locks → old ≠ own → old ≠ 0 → ∃ t, exec i s = .next t ∧ t.w = { s.w with waiting := true } ∧ t.mem = s.mem) ∧
    (own ≠ 0 → unlocks → old = own → ∃ t, exec i s = .next t ∧ passes t true 0) ∧
    (own ≠ 0 → unlocks → old ≠ own → ∃ t, exec i s = .next t ∧ passes t false old)) ∧
  (∀ (h : Hdr) (kbase kval : Kr) (imm : BitVec 16) (dc : Dc) (scope : Scope) (s : State),
    let i := Instr.lock h kbase kval imm dc scope
    s.Here → s.w.gotLock = true →
    ∃ t, exec i s = .next t ∧ s.OnlyWarp t ∧ s.Passed t i ∧ t.w.gotLock = false ∧ { (t.w.uncounted s.w) with gotLock := true }.still = s.w.still ∧ t.w.pend = s.w.pend ∧
      (dc ≠ 7 → s.w.Counted t.w dc.toNat [] [])) ∧
  (∀ (i : Instr) (r : LockRow) (s : State) (pa : Nat),
    lockRow i = some r → (∀ h p kbase kval imm dc scope, i ≠ .unlock h p kbase kval imm dc scope) → s.Here → s.w.kind = .normal → s.inDomain = true → s.w.active ≠ 0 → s.LockAt r pa → s.w.gotLock = false →
    let own := (s.w.rdK r.kval.toNat).toNat
    let dom := s.grid.pk.domain
    let old := ofBytes ((List.range 8).map fun b => s.turnByte dom (pa + b))
    let free := old = 0 ∧ ∀ x ∈ (s.domAt dom).rels, x.addr = pa → x.key.serial = (s.keyAt s.cur 0).serial ∧ x.key.gidx = (s.keyAt s.cur 0).gidx ∧ x.key.widx = (s.keyAt s.cur 0).widx
    let locks := ∃ h, i = .lock h r.kbase r.kval r.imm r.dc r.scope
    let passes (t : State) (ok : Bool) (new : Nat) : Prop :=
      s.OthersSame t ∧ t.mem = s.mem ∧ t.groups = s.groups ∧ t.w.runPc = s.w.runPc + BitVec.ofNat 64 (4 * i.words) ∧ t.w.pend = s.w.pend ∧ s.w.SameRegs t.w ∧
      (r.dc ≠ 7 → s.w.Counted t.w r.dc.toNat [.p r.p.toNat] [⟨.p r.p.toNat, (lanesOf s.w.active).map fun l => (l, if ok then 1 else 0)⟩]) ∧
      ∀ a, t.turnByte dom a = if pa ≤ a ∧ a < pa + 8 then BitVec.ofNat 8 (new / 256 ^ (a - pa)) else s.turnByte dom a
    (own = 0 → ∃ t, exec i s = .next t ∧ s.Trapped t 0x03 (fun _ => 0x0D) (fun l => s.w.active.getLsbD l) s.w.runPc) ∧
    (own ≠ 0 → free → ∃ t, exec i s = .next t ∧ passes t true own) ∧
    (own ≠ 0 → ¬ free → ¬ locks → ∃ t, exec i s = .next t ∧ passes t false old) ∧
    (own ≠ 0 → ¬ free → locks → old = own → ∃ t, exec i s = .next t ∧ s.Trapped t 0x03 (fun _ => 0x0E) (fun l => s.w.active.getLsbD l) s.w.runPc) ∧
    (own ≠ 0 → ¬ free → locks → old ≠ own → ∃ t, exec i s = .next t ∧ s.OnlyWarp t ∧ s.w.Jumped t.w s.g ∧ t.w.v = s.w.v ∧ t.w.k = s.w.k ∧ t.w.p = s.w.p ∧ t.w.axf = s.w.axf ∧ t.w.queues = s.w.queues ∧
      t.w.specials = s.w.specials ∧ t.w.stops = s.w.stops ∧ t.w.inflight = s.w.inflight ∧ t.w.deferred = [] ∧
      (∀ p ∈ t.w.pend, p ∈ s.w.pend ∧ p.at_ ≠ s.w.sched) ∧ ∀ l, l < 32 → s.w.active.getLsbD l = true → SMap.get 0 t.w.pcs l = s.w.grpPc))

/-- R233 to R238: range maintenance by a warp of an open grid. An empty range completes at once. On a range in one resident page (writable for cinv), at a scope whose point is home memory, where the quires it meets hold one sector each and the directories have room: cwb leaves the device's bytes at home memory for
every dirty sector it meets; cflu does so too and leaves no copy of any sector it meets; cinv leaves no copy, and a dirty sector wholly inside the range reads as home memory held it. cinv.zf by a maintenance grid, on an aligned range in
one resident writable page, leaves the range zero and its sectors not lost. Frame: cwb and cflu change no byte that the device reads, cinv and cinv.zf none outside the range; no register changes.
R223: where a request, a snoop or a maintenance range meets a quire in part, and two tags of its set are free, the covered sectors change as it says, and all others keep their state and their DIRTY bits, at this agent and at every other. Where every tag
of the set is taken and none can be had, the change applies to the whole quire: its uncovered sectors leave, an L2's dirty ones written to home memory.
The model's choice: a write of a unit that does not cache leaves no older copy (log 38); a home byte that nothing has written is 0 (log 2). -/
def Obligations.Maintenance : Prop :=
  (∀ (i : Instr) (op : MaintOp) (klen kbase : Kr) (scope : Scope) (imm : BitVec 16) (dc : Dc) (s : State),
    maintRow i = some (op, klen, kbase, scope, imm, dc) → s.Here → s.w.kind = .normal → s.inDomain = false → SMap.rising s.cache.quires = true →
    let ea := s.w.place kbase imm
    let len := (s.w.rdK klen.toNat).toNat
    let passes (t : State) : Prop := s.OthersSame t ∧ t.w.runPc = s.w.runPc + BitVec.ofNat 64 (4 * i.words) ∧ (t.w.uncounted s.w).still = s.w.still ∧ t.w.pend = s.w.pend ∧
      t.groups = s.groups ∧ (dc ≠ 7 → s.w.Counted t.w dc.toNat [] [])
    (len = 0 → ∃ t, exec i s = .next t ∧ passes t ∧ t.mem = s.mem ∧ t.cache = s.cache) ∧
    (∀ x, len ≠ 0 → ea + len ≤ 2 ^ 57 → s.pagesOf s.ctxNo ea len = [(ea, .ok x)] → x.va ≤ ea → ea + len ≤ x.va + x.size → pteP x.pte = true → (op = .inv → pteW x.pte = true) →
      scopeDevice scope = true → s.cache.Single (x.pa ea) len → s.cache.DirsFit →
      let met (sec : Nat) : Prop := x.pa ea / 32 ≤ sec ∧ sec * 32 < x.pa ea + len
      ∃ t, exec i s = .next t ∧ passes t ∧ (op ≠ .inv → t.mem = s.mem) ∧
        (op ≠ .inv → ∀ a, met (a / 32) → s.SectorOwed (a / 32) → t.cache.home.read a = s.mem.read a) ∧
        (op ≠ .wb → ∀ sec a, met sec → t.sectorSt a (sec / 64) (sec % 64) = .i) ∧
        (op = .inv → ∀ a, a < x.pa ea ∨ x.pa ea + len ≤ a → t.mem.read a = s.mem.read a) ∧
        (op = .inv → ∀ a, x.pa ea ≤ a / 32 * 32 → a / 32 * 32 + 32 ≤ x.pa ea + len → s.SectorOwed (a / 32) → t.mem.read a = s.cache.home.read a))) ∧
  (∀ (h : Hdr) (klen kbase : Kr) (scope : Scope) (imm : BitVec 16) (dc : Dc) (s : State),
    let i := Instr.cinv h klen kbase scope imm dc true
    let ea := s.w.place kbase imm
    let len := (s.w.rdK klen.toNat).toNat
    s.Here → s.w.kind = .normal → s.inDomain = false →
    (s.grid.ds.maint = false → ∃ t, exec i s = .next t ∧ s.Trapped t 0x03 (fun _ => 0x08) (fun l => s.w.active.getLsbD l) s.w.runPc) ∧
    (∀ x, s.grid.ds.maint = true → len ≠ 0 → ea % 32 = 0 → len % 32 = 0 → ea + len ≤ 2 ^ 57 → s.pagesOf s.ctxNo ea len = [(ea, .ok x)] → x.va ≤ ea → ea + len ≤ x.va + x.size →
      x.size % 32 = 0 → pteP x.pte = true → pteW x.pte = true →
      ∃ t, exec i s = .next t ∧ s.OthersSame t ∧ t.w.runPc = s.w.runPc + BitVec.ofNat 64 (4 * i.words) ∧ (t.w.uncounted s.w).still = s.w.still ∧ t.w.pend = s.w.pend ∧
        (∀ a, t.mem.read a = if x.pa ea ≤ a ∧ a < x.pa ea + len then 0 else s.mem.read a) ∧
        (∀ sec, x.pa ea / 32 ≤ sec → sec < (x.pa ea + len) / 32 → sec ∉ t.lost))) ∧
  (∀ (c : Caches) (m : Memory) (agent frame first last : Nat) (q : Quire) (f : Quire → Option (QState × Bool)),
    first ≤ last → q ∈ c.at_ agent → q.frame = frame → q.tracked = true → c.Apart agent → (∀ x ∈ c.at_ agent, x.overlaps frame first last = true → x = q) → c.TagsFree agent frame 2 →
    let d := c.recut m agent frame first last f
    let covered (x : Nat) : Prop := first ≤ x ∧ x ≤ last ∧ q.first ≤ x ∧ x ≤ q.last
    (∀ x, covered x → d.sectorSt agent frame x = ((f q).map Prod.fst).getD .i ∧ (d.sectorDirty agent frame x = true ↔ c.sectorDirty agent frame x = true ∧ (f q).map Prod.snd = some true)) ∧
    (∀ g x, ¬ (g = frame ∧ covered x) → d.sectorSt agent g x = c.sectorSt agent g x ∧ d.sectorDirty agent g x = c.sectorDirty agent g x) ∧
    d.home = c.home ∧ d.l2 = c.l2 ∧ ∀ a, a ≠ agent → d.at_ a = c.at_ a) ∧
  (∀ (c : Caches) (m : Memory) (agent first last : Nat) (q : Quire) (st : QState) (keep : Bool),
    q ∈ c.at_ agent → c.Apart agent → q.first < first → first ≤ q.last → first ≤ last → st ≠ q.st → c.TagsTaken agent q.frame first last →
    let d := c.recutOne m (Caches.writeBack m agent) agent first last (some (st, keep)) q
    (isL1 agent = false ∨ q.dirty = [] → ∀ x, first ≤ x → x ≤ last → x ≤ q.last → d.sectorSt agent q.frame x = st) ∧
    (∀ x, q.first ≤ x → x ≤ q.last → (x < first ∨ last < x) → d.sectorSt agent q.frame x = .i ∧
      (isL1 agent = false → x ∈ q.dirty → ∀ b, b < 32 → d.home.read ((q.frame * 64 + x) * 32 + b) = m.read ((q.frame * 64 + x) * 32 + b))))

/-! ### Barriers (chapters 11 and 13) -/

/-- R271, R272, R273: bar.arrive and bar.sync; where the arrival completes the phase, in an open grid. The strand's threads join the pending mask; when mask and exited threads cover the warp it arrives, once; an arrival below the phase's count adds 1 to it, and the one that
meets it completes the phase: C becomes C + 1, every warp parked on the phase leaves with its clock raised by the weight 1, and every bart that watches it gets p = 0. bar.sync waits for its phase: parked until it completes.
An arrival with a count above 64, or another count than the one recorded, traps with 0x0B and does not arrive. Frame: no register, flag or byte of memory changes.
R272: an arrival whose count is above 64, and one whose count is not the one its phase has recorded, stops the strand with illegal operand 0x0B at the instruction, and does not arrive. -/
def Obligations.BarrierArrivals : Prop :=
  (∀ (i : Instr) (h : Hdr) (id : BitVec 4) (kcnt : Kr) (scope : Scope) (sync : Bool) (s : State) (cnt : Nat),
    i = (if sync then .barSync h id kcnt scope else .barArrive h id kcnt scope) →
    let b := s.barrier s.w.grp id.toNat
    let ph := b.phase b.done cnt
    s.MayArrive id.toNat cnt kcnt →
    let passes (t : State) : Prop := t.mem = s.mem ∧ t.w.runPc = s.w.runPc + BitVec.ofNat 64 (4 * i.words) ∧ s.w.SameRegs t.w ∧
      ∀ l, l < 32 → s.w.active.getLsbD l = true → SMap.get 0 t.w.barLast (id.toNat * 32 + l) = b.done + 1
    (¬ s.FillsMask id.toNat →
      ∃ t, exec i s = .next t ∧ passes t ∧ t.groups = s.groups ∧ SMap.get 0 t.w.barMask id.toNat = SMap.get 0 s.w.barMask id.toNat ||| s.w.active ∧
        t.w.park = if sync then some ⟨.bar id.toNat b.done, s.w.lclk, false⟩ else none) ∧
    (s.FillsMask id.toNat → ph.arrivals + 1 < cnt →
      ∃ t, exec i s = .next t ∧ passes t ∧ SMap.get 0 t.w.barMask id.toNat = 0 ∧ SMap.get 0 t.w.barA id.toNat = b.done + 1 ∧
        (t.barrier s.w.grp id.toNat).done = b.done ∧ (t.barrier s.w.grp id.toNat).phase b.done cnt = ⟨ph.arrivals + 1, cnt, max ph.maxClk s.w.lclk⟩ ∧
        t.w.park = if sync then some ⟨.bar id.toNat b.done, s.w.lclk, false⟩ else none) ∧
    (s.inDomain = false → s.FillsMask id.toNat → ph.arrivals + 1 = cnt →
      ∃ t, exec i s = .next t ∧ passes t ∧ SMap.get 0 t.w.barMask id.toNat = 0 ∧ SMap.get 0 t.w.barA id.toNat = b.done + 1 ∧
        (t.barrier s.w.grp id.toNat).done = b.done + 1 ∧ t.w.park = none ∧
        (∀ g, s.InGroup s.w.grp g → g ≠ s.cur → ∀ p, (s.warpAt g).park = some p → p.on = .bar id.toNat b.done →
          (t.warpAt g).park = none ∧ (t.warpAt g).lclk = ((s.warpAt g).lclk + 1) % 2 ^ 64) ∧
        (∀ g, s.InGroup s.w.grp g → ∀ x ∈ (s.warpAt g).barts, x.id = id.toNat → x.phase = b.done → (∃ f ∈ (s.warpAt g).inflight, f.seq = x.seq) → (t.warpAt g).Told x false))) ∧
  (∀ (i : Instr) (h : Hdr) (id : BitVec 4) (kcnt : Kr) (scope : Scope) (s : State),
    (i = .barSync h id kcnt scope ∨ i = .barArrive h id kcnt scope) → s.Here → s.w.kind = .normal →
    let n := (s.w.rdK kcnt.toNat).toNat % 2 ^ 32
    let q := SMap.get 0 s.w.barA id.toNat
    let stops := ∃ t, exec i s = .next t ∧ s.Trapped t 0x03 (fun _ => 0x0B) (fun l => s.w.active.getLsbD l) s.w.runPc ∧ t.w.barMask = s.w.barMask ∧ t.w.barA = s.w.barA
    (64 < n → s.w.active ≠ 0 → stops) ∧
    (∀ ph, 0 < n → n ≤ 64 → SMap.get 0 s.w.barMask id.toNat &&& s.w.active = 0 → q < (s.barrier s.w.grp id.toNat).done + 4 →
      SMap.find (s.barrier s.w.grp id.toNat).opened q = some ph → ph.count ≠ n → stops))

/-- R306, R427: in a domain, when the arrival of a bar.arrive or bar.sync fills a phase, every other warp parked on it leaves with the clock 1 above the largest arrival clock of the phase, and so does the warp that fills it by bar.sync; every
bart that watches the phase gets p = 0. A warp whose first boundary point after its arrival was not published while it stood parked, and whose new clock is at or above that point, owes it, after what it may owe already; any other owes nothing new.
R306: bart in a domain waits as bar.wait does: it gives p = 0 where its phase has completed, and else parks its warp on the phase, with the weight still to come, and watches it. The last arrival at gbar gives every warp of the
grid that is parked there, itself among them, the clock 1 above the largest arrival clock. -/
def Obligations.BarrierClocks : Prop :=
  (∀ (i : Instr) (h : Hdr) (sync : Bool) (id : BitVec 4) (kcnt : Kr) (scope : Scope) (s : State) (cnt : Nat),
    i = (if sync then .barSync h id kcnt scope else .barArrive h id kcnt scope) →
    let b := s.barrier s.w.grp id.toNat
    let ph := b.phase b.done cnt
    s.MayArrive id.toNat cnt kcnt → s.inDomain = true → s.FillsMask id.toNat → ph.arrivals + 1 = cnt →
    let top := max ph.maxClk s.w.lclk + 1
    top < 2 ^ 64 →
    ∃ t, exec i s = .next t ∧ (t.barrier s.w.grp id.toNat).done = b.done + 1 ∧ t.mem = s.mem ∧ t.w.park = none ∧
      (sync = true → t.w.lclk = top) ∧
      (∀ g p, s.InGroup s.w.grp g → g ≠ s.cur → (s.warpAt g).park = some p → p.on = .bar id.toNat b.done → (s.warpAt g).lclk = p.clk → p.clk ≤ top →
        (t.warpAt g).park = none ∧ (t.warpAt g).lclk = top ∧
        (t.warpAt g).owed = if p.published = false ∧ (p.clk / s.g + 1) * s.g ≤ top then (s.warpAt g).owed <|> some ((p.clk / s.g + 1) * s.g) else (s.warpAt g).owed) ∧
      ∀ g, s.InGroup s.w.grp g → ∀ x ∈ (s.warpAt g).barts, x.id = id.toNat → x.phase = b.done → (∃ f ∈ (s.warpAt g).inflight, f.seq = x.seq) → (t.warpAt g).Told x false) ∧
  (∀ (h : Hdr) (id : BitVec 4) (ktime : Kr) (scope : Scope) (p : Pr) (dc : Dc) (s : State), s.Here → s.w.kind = .normal → s.inDomain = true → s.w.jump = false → dc ≠ 7 →
    let i := Instr.bart h id ktime scope p dc
    let ph := s.w.waitPhase id.toNat
    let done := (s.barrier s.w.grp id.toNat).done
    ∃ t, exec i s = .next t ∧ s.OnlyWarp t ∧ s.Passed t i ∧ t.w.pend = s.w.pend ∧
      (ph ≤ done → s.w.Counted t.w dc.toNat [.p p.toNat] [RegWrite.ofP p.toNat s.w.active fun _ => false] ∧ t.w.park = s.w.park ∧ t.w.barts = s.w.barts ∧ t.w.lclk = (s.w.lclk + 1) % 2 ^ 64) ∧
      (done < ph → t.w.park = some ⟨.bar id.toNat (ph - 1), s.w.lclk, false⟩ ∧ t.w.lclk = s.w.lclk % 2 ^ 64 ∧ ⟨s.w.seqNo, dc.toNat, false, [], s.w.sched, []⟩ ∈ t.w.inflight ∧
        ∃ x, t.w.barts = s.w.barts ++ [x] ∧ x.seq = s.w.seqNo ∧ x.id = id.toNat ∧ x.phase = ph - 1 ∧ x.pred = p.toNat ∧ x.mask = s.w.active)) ∧
  (∀ (h : Hdr) (s : State),
    let mine (e : Nat × Warp) : Prop := e ∈ s.warps ∧ (s.groupAt (s.warpAt e.1).grp).grid = s.grp.grid ∧ (s.warpAt e.1).kind = .normal
    s.Here → s.w.kind = .normal → s.inDomain = true → s.grid.ds.persist = true → s.grid.residFault = false → s.w.park = none → s.w.gone = false → SMap.rising s.warps = true →
    s.w.gbarArr ||| s.w.active ||| s.w.exited = 0xFFFFFFFF → (∀ r ∈ s.grid.ranges, r.2 = []) → (∀ e, mine e → e.1 ≠ s.cur → (s.warpAt e.1).atGbar = true) → (∀ e, mine e → (s.warpAt e.1).gone = false) →
    let top := max s.grid.gclk s.w.lclk + 1
    top < 2 ^ 64 →
    ∃ t, exec (.gbar h) s = .next t ∧ t.grid.gphase = s.grid.gphase + 1 ∧ t.mem = s.mem ∧ t.w.park = none ∧ t.w.lclk = top ∧
      ∀ e p, mine e → e.1 ≠ s.cur → (s.warpAt e.1).park = some p → p.on = .grid → (t.warpAt e.1).park = none ∧ (t.warpAt e.1).lclk = top)

/-- R273, R274: bar.wait and bart. A wait on a phase that has completed, or by threads that have never arrived, passes at once; any other parks the warp on the phase, and only the weight 1 is still to come. bart passes at once and makes
no arrival: it gives p = 0 where its phase has completed, p = 1 where its timeout is 0 and it has not, and else watches the phase; BART_TIMEOUT gives p = 1 once the timeout has run. Frame: nothing else changes. -/
def Obligations.BarrierWaits : Prop :=
  (∀ (h : Hdr) (id : BitVec 4) (scope : Scope) (s : State), s.Here → s.w.jump = false →
    let i := Instr.barWait h id scope
    let ph := s.w.waitPhase id.toNat
    let done := (s.barrier s.w.grp id.toNat).done
    ∃ t, exec i s = .next t ∧ s.OnlyWarp t ∧ s.Passed t i ∧ { t.w with park := s.w.park }.still = s.w.still ∧ t.w.pend = s.w.pend ∧
      (ph ≤ done → t.w.park = s.w.park ∧ (s.w.kind ≠ .handler → t.w.lclk = (s.w.lclk + 1) % 2 ^ 64)) ∧
      (done < ph → t.w.park = some ⟨.bar id.toNat (ph - 1), s.w.lclk, false⟩ ∧ t.w.lclk = s.w.lclk % 2 ^ 64)) ∧
  (∀ (h : Hdr) (id : BitVec 4) (ktime : Kr) (scope : Scope) (p : Pr) (dc : Dc) (s : State), s.Here → s.inDomain = false → dc ≠ 7 →
    let i := Instr.bart h id ktime scope p dc
    let ph := s.w.waitPhase id.toNat
    let done := (s.barrier s.w.grp id.toNat).done
    let limit := (s.w.rdK ktime.toNat).toNat
    ∃ t, exec i s = .next t ∧ s.OnlyWarp t ∧ s.Passed t i ∧ { (t.w.uncounted s.w) with barts := s.w.barts }.still = s.w.still ∧ t.w.pend = s.w.pend ∧
      (ph ≤ done → s.w.Counted t.w dc.toNat [.p p.toNat] [RegWrite.ofP p.toNat s.w.active fun _ => false]) ∧
      (done < ph → limit = 0 → (∀ f ∈ s.w.inflight, f.seq ≠ s.w.seqNo) → s.w.Counted t.w dc.toNat [.p p.toNat] [RegWrite.ofP p.toNat s.w.active fun _ => true]) ∧
      (done < ph → limit ≠ 0 → ⟨s.w.seqNo, dc.toNat, false, [], s.w.sched, []⟩ ∈ t.w.inflight ∧
        t.w.barts = s.w.barts ++ [⟨s.w.seqNo, dc.toNat, id.toNat, ph - 1, p.toNat, s.w.active, limit, s.clk⟩])) ∧
  (∀ (wp seq : Nat) (s : State) (x : BartWatch), (s.warpAt wp).barts.find? (fun t => t.seq == seq) = some x → (SMap.find s.warps wp).isSome = true →
    s.groupColl (s.warpAt wp).grp = false → x.limit ≤ nsOf (s.clk - x.since) → (∃ f ∈ (s.warpAt wp).inflight, f.seq = seq) →
    ∃ t, exec (.bartTimeout wp seq) s = .next t ∧ t.mem = s.mem ∧ (t.warpAt wp).Told x true ∧ (∀ y ∈ (t.warpAt wp).barts, y.seq ≠ seq) ∧
      (s.warpAt wp).SameRegs (t.warpAt wp) ∧ ∀ g, g ≠ wp → SMap.find t.warps g = SMap.find s.warps g)

/-- R275: gbar traps with illegal operand 0x0C in a grid that is not persistent, and with a grid-residency fault where the grid's residency has shrunk. Else the strand waits: a warp all of whose threads have come parks, and the
grid phase completes with the last warp of the grid, which sets every warp parked there free. Frame: no register, flag or byte of memory changes. -/
def Obligations.GridBarrier : Prop :=
  ∀ (h : Hdr) (s : State),
    let i := Instr.gbar h
    let came := s.w.gbarArr ||| s.w.active ||| s.w.exited
    let others := ∀ e ∈ s.warps, e.1 ≠ s.cur → (s.groupAt e.2.grp).grid = s.grp.grid → e.2.kind = .normal → (s.warpAt e.1).atGbar = true
    s.Here → s.w.kind = .normal → s.w.active ≠ 0 → s.w.park = none → s.w.gone = false → s.w.ended = false →
    (s.grid.ds.persist = false → ∃ t, exec i s = .next t ∧ s.Trapped t 0x03 (fun _ => 0x0C) (fun l => s.w.active.getLsbD l) s.w.runPc) ∧
    (s.grid.ds.persist = true → s.grid.residFault = true → ∃ t, exec i s = .next t ∧ s.Trapped t 0x09 (fun _ => 0) (fun l => s.w.active.getLsbD l) s.w.runPc) ∧
    (s.grid.ds.persist = true → s.grid.residFault = false →
      ∃ t, exec i s = .next t ∧ t.mem = s.mem ∧ t.groups = s.groups ∧ s.w.SameRegs t.w ∧
        (came ≠ 0xFFFFFFFF → t.w.park = none ∧ t.w.gbarWait = s.w.gbarWait ||| s.w.active ∧ t.w.gbarArr = s.w.gbarArr ||| s.w.active ∧ t.grid.gphase = s.grid.gphase) ∧
        (came = 0xFFFFFFFF → ¬ (others ∧ ∀ r ∈ s.grid.ranges, r.2 = []) → t.w.park = some ⟨.grid, s.w.lclk, false⟩ ∧ t.grid.gphase = s.grid.gphase) ∧
        (came = 0xFFFFFFFF → others → (∀ r ∈ s.grid.ranges, r.2 = []) → t.grid.gphase = s.grid.gphase + 1 ∧
          ∀ e ∈ s.warps, (s.groupAt e.2.grp).grid = s.grp.grid → e.2.kind = .normal → ∀ p, (t.warpAt e.1).park = some p → p.on ≠ .grid))

/-! ### Collation (chapter 13) -/

/-- R295, R296: MINIMUM_DELIVERY delivers the least of the keys of a domain: of its started warps that have not ended and are not parked, of its outstanding ordered requests, and of its groups still to start. A warp that owes nothing
offers its own key. Frame: nothing else changes, and without a key nothing does.
R300: a group of a warp of a domain whose last word raises its clock past a boundary point ends its run there, and the warp owes a boundary turn at the last boundary at or below its new clock; every active thread stands at the
next word. A group that passes none owes nothing new. -/
def Obligations.DomainClocks : Prop :=
  (∀ (dom : Nat) (s : State),
    (s.keysOf dom ≠ [] → ∃ t k, exec (.minimumDelivery dom) s = .next t ∧ t = s.setDom dom { s.domAt dom with delivered := some k } ∧ k ∈ s.keysOf dom ∧
      ∀ k' ∈ s.keysOf dom, k'.lt k = false) ∧
    (s.keysOf dom = [] → exec (.minimumDelivery dom) s = .next s) ∧
    (∀ h, (s.warpAt h).park.isSome = true ∨ (s.warpAt h).ended = true → s.minKeyOf h = none) ∧
    (∀ h, (s.warpAt h).park = none → (s.warpAt h).ended = false → (s.warpAt h).owed = none → (s.warpAt h).leaving = false → (s.warpAt h).todo = [] →
      s.minKeyOf h = some (s.keyAt h (s.warpAt h).lclk))) ∧
  (∀ (i : Instr) (s : State), s.Here → s.collated = true → s.w.jump = false → s.w.park = none → s.w.endRun = false → i.hdr.c = false →
    let c := (s.w.lclk + i.weight) % 2 ^ 64
    let t := s.retire i
    t.w.lclk = c ∧
    (s.w.grpLclk / s.g < c / s.g → s.w.owed = none →
      t.w.owed = some (c / s.g * s.g) ∧ t.w.inRun = false ∧ ∀ l, l < 32 → s.w.active.getLsbD l = true → SMap.get 0 t.w.pcs l = t.w.runPc) ∧
    (c / s.g ≤ s.w.grpLclk / s.g → t.w.owed = s.w.owed ∧ t.w.inRun = (s.w.inRun && !i.hdr.e)))

/-- R302, R303: in a domain an ordinary store to global memory changes no memory but the records of its warp's fold-spill area, and none where no entry spills: the warp's own fold buffer takes its bytes, those of a higher lane over those of a lower.
R302: in a domain an ordinary load from global memory reads each byte from its own warp's fold buffer where that holds it, and else from published memory: no turn copy, and no other warp's buffer, is ever read. It changes no memory.
The model's choice: the bytes of a spilled record are free values, and what has spilled is kept beside them (log 19). -/
def Obligations.CollatedAccesses : Prop :=
  (∀ (i : Instr) (r : AccRow) (s : State) (fs : Reads) (pops : SMap Nat) (pa : Nat → Nat),
    storeRow i = some r → r.spad = false → s.Here → s.w.kind = .normal → s.inDomain = true → s.w.active ≠ 0 → s.w.FoldOnce → s.w.waiting = false → s.openReqs s.cur = [] →
    s.w.readRegs (r.offs ++ r.regs) [] = .ok (fs, pops) → (r.n = 8 → r.d ≠ 63) →
    let ea := r.ea s.w (fs.at_ 0)
    let data (j l : Nat) : Word := fs.at_ (r.offs.length + j) l
    let value (l : Nat) : Nat := (data 0 l).toNat + if r.n = 8 then (data 1 l).toNat * 2 ^ 32 else 0
    (∀ l, l < 32 → s.w.active.getLsbD l = true → s.Reaches .store r.n l (ea l) (pa l)) → s.lost = [] →
    s.foldRoom false ((lanesOf s.w.active).map fun l => ea l / 32) = true →
    ∃ t, exec i s = .next t ∧ s.OthersSame t ∧ (t.w.spill = s.w.spill → t.mem = s.mem) ∧
      (∀ a, (∀ n x, n < t.w.spill.length → s.walk s.ctxNo (s.spillVa n) = .ok x → a < x.pa (s.spillVa n) ∨ x.pa (s.spillVa n) + 64 ≤ a) → t.mem.read a = s.mem.read a) ∧
      t.groups = s.groups ∧ s.w.v = t.w.v ∧ s.w.k = t.w.k ∧ s.w.p = t.w.p ∧ t.w.pend = s.w.pend ∧
      t.w.runPc = s.w.runPc + BitVec.ofNat 64 (4 * i.words) ∧
      (∀ a, (∀ l, l < 32 → s.w.active.getLsbD l = true → a < ea l ∨ ea l + r.n ≤ a) → t.w.foldByte false a = s.w.foldByte false a) ∧
      (∀ l b, l < 32 → s.w.active.getLsbD l = true → b < r.n → (∀ l', l < l' → l' < 32 → s.w.active.getLsbD l' = true → ea l + b < ea l' ∨ ea l' + r.n ≤ ea l + b) →
        t.w.foldByte false (ea l + b) = some (BitVec.ofNat 8 (value l / 256 ^ b))) ∧
      ∀ a, t.w.foldByte true a = s.w.foldByte true a) ∧
  (∀ (i : Instr) (r : AccRow) (s : State) (fs : Reads) (pops : SMap Nat) (pa : Nat → Nat) (c : Nat),
    loadRow i = some r → r.spad = false → s.Here → s.w.kind = .normal → s.inDomain = true → s.w.active ≠ 0 → i.counter = some c →
    (∀ x ∈ r.regs, x < 64 ∧ s.w.isWindow x = false) → s.w.readRegs r.offs [] = .ok (fs, pops) → (∀ f ∈ s.w.inflight, f.seq ≠ s.w.seqNo) → s.openReqs s.cur = [] →
    let ea := r.ea s.w (fs.at_ 0)
    (∀ l, l < 32 → s.w.active.getLsbD l = true → s.Reaches .load r.n l (ea l) (pa l)) →
    let val (l : Nat) : Nat := ofBytes ((List.range r.n).map fun b => s.ownByte (ea l + b) (pa l + b))
    ∃ t, exec i s = .next t ∧ s.OthersSame t ∧ t.mem = s.mem ∧ t.groups = s.groups ∧ t.domains = s.domains ∧ t.w.fold = s.w.fold ∧ t.w.spill = s.w.spill ∧
      t.w.runPc = s.w.runPc + BitVec.ofNat 64 (4 * i.words) ∧ t.w.pend = s.w.pend ∧
      ∃ f ∈ t.w.inflight, f.seq = s.w.seqNo ∧ f.dc = c ∧ f.done = true ∧ f.writes = r.results s.w.active (fun l => some (val l)))

/-- R298, R304: ORDERED_REQUEST_PERFORM performs the first request of a domain once the delivered minimum has reached its key. An atomic that may still perform where it was to on global memory reads and updates turn copies, in ascending lane, as an open one does memory; what
is published does not change; its results go to the warp that asked. A request above the delivered minimum stays where it is.
R309, R311: an unlock of a domain frees the turn copy of a word that holds the owner value, leaves a release record with its key that ends at the first boundary point after it, and gives 1; of any other word it changes no byte and gives 0. -/
def Obligations.OrderedRequests : Prop :=
  ∀ (dom : Nat) (s : State) (q : OrdReq) (m : Key),
    (s.domAt dom).firstReq = some q → (s.domAt dom).delivered = some m → s.duePoint dom = none →
    (m.lt q.key = true → exec (.orderedRequestPerform dom) s = .next s) ∧
    (∀ (r : AtomRow) (w : Warp) (m0 : Memory), m.lt q.key = false → atomRow q.instr = some r → r.spad = false → SMap.find s.warps q.warp = some w → w.kind = .normal →
      (s.gridAt (s.groupAt w.grp).grid).ds.coll = true → (s.gridAt (s.groupAt w.grp).grid).pk.domain = dom → (∀ a, m0.read a = s.turnByte dom a) →
      (∀ o ∈ q.ops, s.againOp q o = (o, none)) → (∀ x ∈ s.openReqs q.warp, x.seq ≠ q.seq) →
      let out := runAtomics r.op r.n (q.ops.map fun o => (o.lane, o.pa, (o.vals.headD 0).toNat, (o.vals.getD 1 0).toNat)) m0
      ∃ t, exec (.orderedRequestPerform dom) s = .next t ∧ t.mem = s.mem ∧ t.groups = s.groups ∧ (∀ x ∈ (t.domAt dom).reqs, x ∈ (s.domAt dom).reqs ∧ x ≠ q) ∧
        (∀ a, t.turnByte dom a = out.1.read a) ∧ (∀ d, d ≠ dom → t.domAt d = s.domAt d) ∧ (∀ h, h ≠ q.warp → SMap.find t.warps h = SMap.find s.warps h) ∧
        ∀ f ∈ w.inflight, f.seq = q.seq → { f with done := true, writes := f.writes ++ r.results out.2 } ∈ (t.warpAt q.warp).inflight) ∧
    (∀ (h : Hdr) (p : Pr) (kbase kval : Kr) (imm : BitVec 16) (dc : Dc) (scope : Scope) (w : Warp) (o : ReqOp), m.lt q.key = false → q.instr = .unlock h p kbase kval imm dc scope → q.ops = [o] →
      SMap.find s.warps q.warp = some w → w.kind = .normal → (s.gridAt (s.groupAt w.grp).grid).ds.coll = true → (s.gridAt (s.groupAt w.grp).grid).pk.domain = dom →
      s.againOp q o = (o, none) → (∀ x ∈ s.openReqs q.warp, x.seq ≠ q.seq) →
      let g := (s.gridAt (s.groupAt w.grp).grid).g
      let own := (o.vals.headD 0).toNat
      let ok := decide (ofBytes ((List.range 8).map fun b => s.turnByte dom (o.pa + b)) = own)
      ∃ t, exec (.orderedRequestPerform dom) s = .next t ∧ t.mem = s.mem ∧ t.groups = s.groups ∧ (∀ x ∈ (t.domAt dom).reqs, x ∈ (s.domAt dom).reqs ∧ x ≠ q) ∧
        (∀ a, t.turnByte dom a = if ok = true ∧ o.pa ≤ a ∧ a < o.pa + 8 then 0 else s.turnByte dom a) ∧
        (t.domAt dom).rels = (s.domAt dom).rels ++ (if ok then [⟨o.pa, q.key, q.key.wave, (q.key.clk / g + 1) * g⟩] else []) ∧
        ∀ f ∈ w.inflight, f.seq = q.seq → { f with done := true, writes := f.writes ++ [RegWrite.ofP p.toNat ((o.vals.getD 1 0).truncate 32) fun _ => ok] } ∈ (t.warpAt q.warp).inflight)

/-- R301: PUBLICATION publishes the first point that a domain's minimum has reached. Every turn copy replaces the published byte; every warp that owes the point has its buffer and spill area emptied and its turn completed. Where no buffer
holds global bytes, device memory is what the turn copies make of it; the one global entry of a warp goes to memory byte by byte; and a scratchpad byte takes the value of the highest identity that wrote it.
(The collective engine holds nothing; the pages of the buffers are resident.)
The model's choice: the bytes of a spilled record are free values, and what has spilled is kept beside them (log 19). -/
def Obligations.Publications : Prop :=
  ∀ (dom : Nat) (p : Nat × Nat) (s : State), s.duePoint dom = some p → SMap.rising s.warps = true → SMap.rising (s.domAt dom).turn = true → s.colls = [] →
    (∀ q, (s.domAt dom).point = some q → pointLe p q = false) →
    (∀ h e, s.OwesPoint dom p h → e ∈ (s.warpAt h).folded → e.spad = false → s.foldTarget (s.ctxOf h) e ≠ .absent) →
    ∃ t, exec (.publication dom) s = .next t ∧ (t.domAt dom).point = some p ∧ (t.domAt dom).turn = [] ∧
      (∀ h, s.OwesPoint dom p h → (t.warpAt h).folded = [] ∧ (t.warpAt h).handW = [] ∧ (t.warpAt h).handEnd = [] ∧ ((s.warpAt h).leaving = false → (s.warpAt h).park = none → (t.warpAt h).owed = none)) ∧
      ((∀ h, s.OwesPoint dom p h → (s.warpAt h).handW = [] ∧ (s.warpAt h).handEnd = [] ∧ ∀ e ∈ (s.warpAt h).folded, e.spad = true) → ∀ a, t.mem.read a = s.turnByte dom a) ∧
      (∀ h e pa lf, s.OwesPoint dom p h → (s.domAt dom).turn = [] → (s.warpAt h).folded = [e] → e.spad = false → SMap.rising e.bytes = true → s.foldTarget (s.ctxOf h) e = .ok pa lf →
        (∀ g, s.OwesPoint dom p g → (s.warpAt g).handW = [] ∧ (s.warpAt g).handEnd = [] ∧ (g ≠ h → (s.warpAt g).folded = [])) →
        ∀ a, t.mem.read a = if pa ≤ a then (SMap.find e.bytes (a - pa)).getD (s.mem.read a) else s.mem.read a) ∧
      (∀ h e b x, s.OwesPoint dom p h → (s.warpAt h).FoldOnce → e ∈ (s.warpAt h).folded → e.spad = true → b < 32 → SMap.find e.bytes b = some x → (∀ g e', e' ∈ (s.warpAt g).folded → ∀ y ∈ e'.bytes, y.1 < 32) →
        (∀ g e', s.OwesPoint dom p g → g ≠ h → (s.warpAt g).grp = (s.warpAt h).grp → (s.warpAt g).twin = (s.warpAt h).twin → e' ∈ (s.warpAt g).folded → e'.spad = true → e'.addr = e.addr →
          (s.keyAt g 0).lt (s.keyAt h 0) = true) →
        ((t.groupAt (s.warpAt h).grp).side (s.warpAt h).twin).read (e.addr * 32 + b) = x)

/-! ### Matrix instructions (chapter 7) -/

/-- R156, R160, R161, R163, R167: mma and mlut at issue. Where no check of Table 7.2 stops it, the operation enters its core's order with the register operands of all 32 lanes as they stand and the agreed format words; an unbound one takes its
place at once, a half of a pair waits for its partner. It counts on its counter. One that no fault can stop retires at once; any other stays at issue until the operation is done, and then retires.
Lanes that disagree on a format word stop the strand with format divergence. Frame: no tile, register, flag or byte of memory changes.
The model's choice: scale registers count in row 2 of Table 7.2 only with ty = fmt (log 26). -/
def Obligations.MatrixIssue : Prop :=
  (∀ (i : Instr) (r : MatRow) (s : State), matRow (s.w.bound && s.w.twin) i = some r → s.MatReady i r → s.heldOp s.cur = none → s.stoppedOp i = none → (s.w.bound = true → s.twinEnded = false) →
    ∃ t o, exec i s = .next t ∧ (t.coreAt s.w.core).matq = (s.coreAt s.w.core).matq ++ [o] ∧ o.warp = s.cur ∧ o.seq = s.w.seqNo ∧ o.instr = i ∧ o.pc = s.w.runPc ∧
      o.act = s.w.active ∧ o.done = false ∧ o.stopped = false ∧ o.num = s.w.pairSeq ∧ t.w.pairSeq = s.w.pairSeq + (if s.w.bound then 1 else 0) ∧ t.w.seqNo = s.w.seqNo + 1 ∧
      o.started = !s.w.bound ∧ o.partner = (if s.w.bound then s.twinOf s.cur else none) ∧
      (r.qa = false → o.a = (List.range r.na).map fun j => (List.range 32).map fun l => s.w.rdV (r.a.toNat + j) l) ∧
      (r.qb = false → o.b = (List.range r.nb).map fun j => (List.range 32).map fun l => s.w.rdV (r.b.toNat + j) l) ∧
      (∀ f, r.fw.head? = some f → o.fwA = s.w.format f) ∧ (s.w.bound = true ∨ r.qa = true ∨ r.qb = true → o.held = true) ∧
      t.mem = s.mem ∧ t.groups = s.groups ∧ s.w.SameRegs t.w ∧ (∀ x m n, t.cell s.w.core x m n = s.cell s.w.core x m n) ∧
      (r.dc ≠ 7 → t.w.inflight = s.w.inflight ++ [⟨s.w.seqNo, r.dc.toNat, false, [], s.w.sched, []⟩]) ∧ (r.dc = 7 → t.w.inflight = s.w.inflight) ∧
      (o.held = true → t.w.runPc = s.w.runPc ∧ t.w.waiting = true) ∧ (o.held = false → t.w.runPc = s.w.runPc + BitVec.ofNat 64 (4 * i.words))) ∧
  (∀ (i : Instr) (r : MatRow) (s : State) (o : MatOp), matRow (s.w.bound && s.w.twin) i = some r → s.Here → s.heldOp s.cur = some o → o.instr = i → o.done = true →
    ∃ t, exec i s = .next t ∧ t.w.runPc = s.w.runPc + BitVec.ofNat 64 (4 * i.words) ∧ o ∉ (t.coreAt s.w.core).matq ∧ t.mem = s.mem ∧ t.groups = s.groups ∧ s.w.SameRegs t.w ∧
      t.w.inflight = s.w.inflight ∧ t.w.dcIssued = s.w.dcIssued) ∧
  (∀ (h : Hdr) (a b : Vr) (x : Tile) (sr : Semiring) (fw sc : Vr) (z : Bool) (n : BitVec 4) (dc : Dc) (s : State),
    let i := Instr.mma h a b x sr false false fw sc .fmt z n dc
    let differs (j l : Nat) : Prop := l < 32 ∧ s.w.active.getLsbD l = true ∧ s.w.rdV (fw.toNat + j) l ≠ s.w.rdV (fw.toNat + j) (lowLane s.w.active)
    s.Here → s.w.kind = .normal → s.heldOp s.cur = none → s.stoppedOp i = none → x.toNat < s.grid.ds.acc → s.w.Plain a.toNat 16 → s.w.Plain b.toNat 16 → s.w.Plain fw.toNat 2 → sc ≠ 63 →
    ((∃ l, differs 0 l) → ∃ t, exec i s = .next t ∧ s.Trapped t 0x06 (fun _ => 1) (fun l => s.w.active.getLsbD l) s.w.runPc) ∧
    ((¬ ∃ l, differs 0 l) → (∃ l, differs 1 l) → ∃ t, exec i s = .next t ∧ s.Trapped t 0x06 (fun _ => 2) (fun l => s.w.active.getLsbD l) s.w.runPc))

/-- R164, R165, R167, R169, R177: MMA_CHUNK does the next chunk of a core's operation. Every cell of the tile becomes the chunk result of the mode from its start and the chunk's operands; a start from the identity is made in chunk 0 only; no other
tile changes. A half that meets a faulted queue entry stops before the chunk: no tile changes, no entry is popped, its warp keeps the chunk as its resume chunk, and its instruction counts no more. chunk_sum of finite terms none of which reaches below 2^(emax − 72) is their
exact sum rounded once, ties to even; a NaN, or infinities of both signs, give NaN with NV.
The model's choice: the flags of an operation stand when it is done (log 15). -/
def Obligations.MatrixChunks : Prop :=
  (∀ (core : Nat) (s : State) (o : MatOp) (x : Operands) (pops : SMap Nat) (h : Hdr) (a b : Vr) (t' : Tile) (sr : Semiring) (qa qb : Bool) (fw sc : Vr) (ty : MatType) (z : Bool) (n : BitVec 4) (dc : Dc),
    o.instr = .mma h a b t' sr qa qb fw sc ty z n dc → s.chunkHead core = some (o, none) → s.chunkRead o = .ok (x, pops) → (s.warpAt o.warp).core = core → (SMap.find s.warps o.warp).isSome = true →
    ((s.coreAt core).tile t'.toNat).length = 4096 →
    ∃ t, exec (.mmaChunk core) s = .next t ∧ t.mem = s.mem ∧ t.groups = s.groups ∧
      (∀ m k, m < 64 → k < 64 → t.cell core t'.toNat m k =
        (cellOf sr ty (if z = true ∧ o.chunk = 0 then semiIdentity sr ty else s.cell core t'.toNat m k) (rowVals ty o.fwA x.a x.sa m) (rowVals ty o.fwB x.b x.sb k)).1) ∧
      (∀ y, y ≠ t'.toNat → (t.coreAt core).tile y = (s.coreAt core).tile y) ∧
      (t.warpAt o.warp).queues = ((s.warpAt o.warp).freePops pops).queues ∧ (t.warpAt o.warp).v = (s.warpAt o.warp).v) ∧
  (∀ (core : Nat) (s : State) (o : MatOp) (x : Operands) (pops : SMap Nat) (h : Hdr) (b : Vr) (kt : Kr) (t' : Tile) (fw : Vr) (qb z : Bool) (dc : Dc) (e : BitVec 2) (neg : Bool),
    o.instr = .mlut h b kt t' fw qb z dc e neg → s.chunkHead core = some (o, none) → s.chunkRead o = .ok (x, pops) → (s.warpAt o.warp).core = core →
    ((s.coreAt core).tile t'.toNat).length = 4096 →
    let pad := (s.groupAt (s.warpAt o.warp).grp).side (s.warpAt o.warp).twin
    ∃ t, exec (.mmaChunk core) s = .next t ∧ t.mem = s.mem ∧ t.groups = s.groups ∧
      (∀ m k, m < 64 → k < 64 → t.cell core t'.toNat m k = BitVec.ofNat 32 (chunkSum
        ((if z then FVal.fin false 0 0 else f32.decode (s.cell core t'.toNat m k).toNat) ::
          (List.range 32).map fun g => (f32.decode (ofBytes (pad.readN (o.table + (g * 64 + m) * 64 + planeIdx x.b k g * 4) 4))).coef neg e.toNat)).1) ∧
      (∀ y, y ≠ t'.toNat → (t.coreAt core).tile y = (s.coreAt core).tile y)) ∧
  (∀ (core : Nat) (s : State) (o : MatOp) (q : Nat) (en : QEntry), s.chunkHead core = some (o, none) → o.held = true → s.chunkRead o = .error (.pop (.faulted q en)) → (s.warpAt o.warp).core = core →
    (SMap.find s.warps o.warp).isSome = true → (s.warpAt o.warp).kind = .normal → (s.warpAt o.warp).active ≠ 0 →
    ∃ t, exec (.mmaChunk core) s = .next t ∧ t.mem = s.mem ∧ (∀ y, (t.coreAt core).tile y = (s.coreAt core).tile y) ∧ (t.warpAt o.warp).queues = (s.warpAt o.warp).queues ∧
      (t.warpAt o.warp).resumeChunk = o.chunk ∧ (∀ f ∈ (t.warpAt o.warp).inflight, f.seq ≠ o.seq) ∧ ∃ p ∈ (t.warpAt o.warp).stops, p.cause = 0x04 ∧ p.lane = lowLane (s.warpAt o.warp).active ∧ p.aux = 128 + 16 * q + o.chunk ∧ p.resume = (s.warpAt o.warp).runPc) ∧
  (∀ (ts : List FVal), (∃ v ∈ ts, v.isNan = true) ∨ ((∃ v ∈ ts, v.isInf false = true) ∧ ∃ v ∈ ts, v.isInf true = true) → chunkSum ts = (0x7FC00000, flagNV)) ∧
  (∀ (ts : List FVal) (top : Int), (∀ v ∈ ts, ∃ neg m e, v = .fin neg m e ∧ (m = 0 ∨ top - 72 ≤ e ∧ e + (Nat.log2 m : Int) ≤ top)) → (∃ v ∈ ts, ∃ neg m e, v = .fin neg m e ∧ m ≠ 0 ∧ e + (Nat.log2 m : Int) = top) →
    chunkSum ts = f32.sum .rne false ts)

/-- R155 to R157: pairs. mpair of an unpaired group, mpair.bind of a bound warp and mpair.rel of an unbound one trap with illegal operand 0x07; else the warp parks, and MPAIR_RENDEZVOUS binds or unbinds both warps once both wait at the same form.
PAIRED_OPERATION_START starts two halves that agree, and stops both warps with a pair-mismatch trap, 0x01 for fields and 0x03 for format words, where they do not. No tile, register or byte of memory changes.
The model's choice: a half whose twin has ended traps at once (log 32). -/
def Obligations.Pairs : Prop :=
  (∀ (i : Instr) (h : Hdr) (rel : Bool) (s : State), i = (if rel then .mpairRel h else .mpairBind h) → s.Here → s.w.kind = .normal →
    (s.grid.ds.paired = false ∨ s.w.bound ≠ rel → ∃ t, exec i s = .next t ∧ s.Trapped t 0x03 (fun _ => 0x07) (fun l => s.w.active.getLsbD l) s.w.runPc) ∧
    (s.grid.ds.paired = true → s.w.bound = rel → s.twinEnded = true → ∃ t, exec i s = .next t ∧ s.Trapped t 0x07 (fun _ => 0x02) (fun l => s.w.active.getLsbD l) s.w.runPc) ∧
    (s.grid.ds.paired = true → s.w.bound = rel → s.twinEnded = false →
      ∃ t, exec i s = .next t ∧ t.w = { s.w with park := some ⟨.pair rel, s.w.lclk, false⟩, waiting := true } ∧ t.mem = s.mem ∧ s.cur ∉ (t.coreAt s.w.core).slots)) ∧
  (∀ (h : Nat) (g : Nat) (s : State) (i j : Instr) (is js : List Instr), s.twinOf h = some g → g ≠ h → s.atMpair h (s.warpAt h).bound = true → s.atMpair g (s.warpAt h).bound = true →
    (s.warpAt h).todo = i :: is → (s.warpAt g).todo = j :: js →
    ∃ t, exec (.mpairRendezvous h) s = .next t ∧ t.mem = s.mem ∧ (t.warpAt h).bound = !(s.warpAt h).bound ∧ (t.warpAt g).bound = !(s.warpAt h).bound ∧ (t.warpAt h).park = none ∧ (t.warpAt g).park = none ∧
      (t.warpAt h).runPc = (s.warpAt h).runPc + BitVec.ofNat 64 (4 * i.words) ∧ (t.warpAt g).runPc = (s.warpAt g).runPc + BitVec.ofNat 64 (4 * j.words) ∧ (s.warpAt h).SameRegs (t.warpAt h)) ∧
  (∀ (core : Nat) (s : State) (x y : MatOp), s.pairReady core = some (x, y) → x.warp ≠ y.warp → (s.warpAt x.warp).core = core → (s.warpAt y.warp).core ≠ core →
    (pairMismatch x y = none → ∃ t, exec (.pairedOperationStart core) s = .next t ∧ { x with started := true } ∈ (t.coreAt core).matq ∧ { y with started := true } ∈ (t.coreAt (s.warpAt y.warp).core).matq ∧ t.mem = s.mem) ∧
    (∀ d, pairMismatch x y = some d → (s.warpAt x.warp).kind = .normal → (s.warpAt y.warp).kind = .normal → (s.warpAt x.warp).active ≠ 0 → (s.warpAt y.warp).active ≠ 0 →
      (SMap.find s.warps x.warp).isSome = true → (SMap.find s.warps y.warp).isSome = true → s.groupColl (s.warpAt x.warp).grp = false → s.groupColl (s.warpAt y.warp).grp = false →
      ∃ t, exec (.pairedOperationStart core) s = .next t ∧ t.mem = s.mem ∧ (∀ c k, (t.coreAt c).tile k = (s.coreAt c).tile k) ∧
        (∃ p ∈ (t.warpAt x.warp).stops, p.cause = 0x07 ∧ p.detail = d) ∧ (∃ p ∈ (t.warpAt y.warp).stops, p.cause = 0x07 ∧ p.detail = d)) ∧
    (∀ d, pairMismatch x y = some d → d = 0x01 ∨ d = 0x03 ∧ (x.fwA ≠ y.fwA ∨ x.fwB ≠ y.fwB)))

/-- R170 to R172: macz fills a tile with its value, macr gives each active lane its elements of the rows named, macw puts the active lanes' registers into them; each waits while an earlier matrix operation of its core is not done. R175, R176: mlbld
writes the tables of its groups, each entry the exact sum of the activations that its index names, rounded once. Frame: no other tile, no other element, no other byte of the scratchpad and no register changes. -/
def Obligations.Accumulators : Prop :=
  (∀ (h : Hdr) (x : Tile) (val : MaczVal) (s : State), s.Here → s.matBusy = false → x.toNat < s.grid.ds.acc →
    let i := Instr.macz h x val
    ∃ t, exec i s = .next t ∧ s.OthersSame t ∧ t.mem = s.mem ∧ t.groups = s.groups ∧ t.w.runPc = s.w.runPc + 4 ∧ (t.w.uncounted s.w).still = s.w.still ∧ t.w.pend = s.w.pend ∧ s.w.Counted t.w 0 [] [] ∧
      (∀ m n, m < 64 → n < 64 → t.cell s.w.core x.toNat m n = (match val with | .zero => 0 | .pinf => 0x7F800000 | .ninf => 0xFF800000 | .smax => 0x7FFFFFFF)) ∧
      ∀ y, y ≠ x.toNat → (t.coreAt s.w.core).tile y = (s.coreAt s.w.core).tile y) ∧
  (∀ (h : Hdr) (d : Vr) (x : Tile) (row0 : BitVec 6) (hi : Bool) (cnt : BitVec 4) (dc : Dc) (s : State), s.Here → s.matBusy = false → x.toNat < s.grid.ds.acc → s.w.Plain d.toNat (cnt.toNat + 1) →
    row0.toNat + cnt.toNat ≤ 63 → dc ≠ 7 →
    let col (l : Nat) : Nat := (if hi then 32 else 0) + l
    (∃ t, exec (.macr h d x row0 hi cnt dc) s = .next t ∧ s.OnlyWarp t ∧ t.w.runPc = s.w.runPc + 8 ∧ (t.w.uncounted s.w).still = s.w.still ∧ t.w.pend = s.w.pend ∧
      s.w.Counted t.w dc.toNat ((List.range (cnt.toNat + 1)).map fun j => .v (d.toNat + j))
        ((List.range (cnt.toNat + 1)).map fun j => ⟨.v (d.toNat + j), (lanesOf s.w.active).map fun l => (l, (s.cell s.w.core x.toNat (row0.toNat + j) (col l)).zeroExtend 64)⟩)) ∧
    (((s.coreAt s.w.core).tile x.toNat).length = 4096 →
      ∃ t, exec (.macw h d x row0 hi cnt dc) s = .next t ∧ s.OthersSame t ∧ t.mem = s.mem ∧ t.groups = s.groups ∧ t.w.runPc = s.w.runPc + 8 ∧ (t.w.uncounted s.w).still = s.w.still ∧ t.w.pend = s.w.pend ∧
        s.w.Counted t.w dc.toNat [] [] ∧ (∀ y, y ≠ x.toNat → (t.coreAt s.w.core).tile y = (s.coreAt s.w.core).tile y) ∧
        (∀ j l, j ≤ cnt.toNat → l < 32 → s.w.active.getLsbD l = true → t.cell s.w.core x.toNat (row0.toNat + j) (col l) = s.w.rdV (d.toNat + j) l) ∧
        ∀ m n, m < 64 → n < 64 → (∀ j l, j ≤ cnt.toNat → l < 32 → s.w.active.getLsbD l = true → ¬ (m = row0.toNat + j ∧ n = col l)) → t.cell s.w.core x.toNat m n = s.cell s.w.core x.toNat m n)) ∧
  (∀ (h : Hdr) (a : Vr) (kt : Kr) (g0 : BitVec 5) (fw : Vr) (ty : BldType) (pm : Bool) (dc : Dc) (qa : Bool) (s : State) (vals : Reads) (pops : SMap Nat),
    let i := Instr.mlbld h a kt g0 fw ty pm dc qa
    let base := (s.w.rdK kt.toNat).toNat
    let per := if ty = .fmt then 4 else 2
    let n := if ty = .fmt then 8 else 4
    let value (c : Nat) : FVal := match ty with | .f16 => f16.decode c | .bf16 => bf16.decode c | .fmt => fwDecode (s.w.format fw.toNat) c
    let x (m k : Nat) : FVal := value (bitsAt (vals.at_ (m / 32 * 8 + k / per) (m % 32)) (32 / per * (k % per)) (32 / per))
    let at_ (g m idx : Nat) : Nat := base + ((g0.toNat + g) * 64 + m) * 64 + idx * 4
    s.Here → s.matBusy = false → (qa = false → s.w.Plain a.toNat 16) → (qa = true → s.w.isWindow a.toNat = true) →
    (ty = .fmt → s.w.active ≠ 0 ∧ s.w.Plain fw.toNat 1 ∧ s.w.Agrees fw.toNat ∧ isPlane (s.w.format fw.toNat) = false ∧ 5 ≤ fwW (s.w.format fw.toNat) ∧ fwBlk (s.w.format fw.toNat) = 0) →
    g0.toNat + n ≤ 32 → base % 64 = 0 → base + 131072 ≤ s.grid.ds.spl → dc ≠ 7 →
    s.w.readRegs (if qa then List.replicate 16 a.toNat else (List.range 16).map (a.toNat + ·)) [] = .ok (vals, pops) →
    ∃ t, exec i s = .next t ∧ s.OthersSame t ∧ t.mem = s.mem ∧ t.w.runPc = s.w.runPc + 8 ∧ { (t.w.uncounted s.w) with axf := s.w.axf }.still = (s.w.freePops pops).still ∧ t.w.pend = s.w.pend ∧
      s.w.Counted t.w dc.toNat [] [] ∧
      (∀ g m idx, g < n → m < 64 → idx < 16 → ofBytes ((t.grp.side s.w.twin).readN (at_ g m idx) 4) = (tableEntry pm ((List.range 4).map fun j => x m (4 * g + j)) idx).1 % 2 ^ 32) ∧
      (∀ b, b < base + g0.toNat * 4096 ∨ base + (g0.toNat + n) * 4096 ≤ b → (t.grp.side s.w.twin).read b = (s.grp.side s.w.twin).read b) ∧
      ∀ g, g ≠ s.w.grp → t.groupAt g = s.groupAt g)

/-- R173, R174: mdrn in an open grid, where every element may be stored. A plain drain stores element n of drained row i at base + i × pitch + n × es, converted to the element type, and no other byte changes. An add-on-store waits to be applied,
and ADD_ON_STORE_APPLY gives every element of its region the sum of what it held and the tile element, rounded to f32, in one step. A base or pitch that breaks R173 is a memory fault with detail 0x01, and nothing is written.
The model's choice: an access performs as its word issues (log 7). -/
def Obligations.Drains : Prop :=
  (∀ (h : Hdr) (x : Tile) (spad : Bool) (kbase kpitch : Kr) (add : Bool) (ety : FType) (dc : Dc) (row0 nrows : BitVec 6) (s : State) (pa : Nat → Nat),
    let i := Instr.mdrn h x spad kbase kpitch add ety dc row0 nrows
    let es := if ety = .f32 then 4 else 2
    let base := (s.w.rdK kbase.toNat).toNat
    let pitch := (s.w.rdK kpitch.toNat).toNat
    let count := 64 * (nrows.toNat + 1)
    let ea := drainAddr base pitch es
    let word (k : Nat) : Nat := (drainElem ety (s.cell s.w.core x.toNat (row0.toNat + k / 64) (k % 64))).1
    s.Here → s.w.kind = .normal → s.inDomain = false → s.w.active ≠ 0 → s.matBusy = false → x.toNat < s.grid.ds.acc → row0.toNat + nrows.toNat + 1 ≤ 64 → (add = true → ety = .f32) →
    (base % 16 ≠ 0 ∨ pitch % 16 ≠ 0 ∨ pitch < 64 * es → ∃ t, exec i s = .next t ∧ s.Trapped t 0x04 (fun _ => 0x01) (fun l => s.w.active.getLsbD l) s.w.runPc) ∧
    (base % 16 = 0 → pitch % 16 = 0 → 64 * es ≤ pitch → s.lost = [] →
      (∀ k, k < count → if spad then s.ReachesSp es (ea k) ∧ pa k = ea k else s.Reaches (if add then .atomic .device else .store) es (lowLane s.w.active) (ea k) (pa k)) →
      (spad = false → s.TilesClear ((List.range count).map pa)) → s.NoneEarlier spad es ((List.range count).map fun k => (ea k, pa k)) →
      ∃ t, exec i s = .next t ∧ s.OthersSame t ∧ t.w.runPc = s.w.runPc + 8 ∧ { (t.w.uncounted s.w) with axf := s.w.axf }.still = s.w.still ∧ t.w.pend = s.w.pend ∧
        (add = true → t.mem = s.mem ∧ t.groups = s.groups ∧ (dc ≠ 7 → ⟨s.w.seqNo, dc.toNat, false, [], s.w.sched, []⟩ ∈ t.w.inflight) ∧
          ∃ r, t.adds = s.adds ++ [r] ∧ r.warp = s.cur ∧ r.grp = s.w.grp ∧ r.instr = i ∧ r.seq = s.w.seqNo ∧
            r.ops.map (fun o => (o.pa, o.vals.headD 0)) = (List.range count).map fun k => (pa k, BitVec.ofNat 64 (word k))) ∧
        (add = false → (dc ≠ 7 → s.w.Counted t.w dc.toNat [] []) ∧
          let new (m : Nat → Byte) : Prop := ∀ k b, k < count → b < es → (∀ k', k < k' → k' < count → pa k + b < pa k' ∨ pa k' + es ≤ pa k + b) → m (pa k + b) = BitVec.ofNat 8 (word k / 256 ^ b)
          let old (m m' : Nat → Byte) : Prop := ∀ a, (∀ k, k < count → a < pa k ∨ pa k + es ≤ a) → m' a = m a
          if spad then t.mem = s.mem ∧ new (t.grp.side s.w.twin).read ∧ old (s.grp.side s.w.twin).read (t.grp.side s.w.twin).read
          else t.groups = s.groups ∧ new t.mem.read ∧ old s.mem.read t.mem.read))) ∧
  (∀ (idx : Nat) (s : State) (r : OrdReq) (h : Hdr) (x : Tile) (kbase kpitch : Kr) (dc : Dc) (row0 nrows : BitVec 6) (w : Warp),
    s.adds[idx]? = some r → r.instr = .mdrn h x false kbase kpitch true .f32 dc row0 nrows → SMap.find s.warps r.warp = some w → r.grp = w.grp → w.kind = .normal → (s.gridAt (s.groupAt w.grp).grid).ds.coll = false →
    s.tiles = [] → (∀ o ∈ r.ops, s.againOp r o = (o, none)) → (∀ y ∈ s.adds.eraseIdx idx, y.warp ≠ r.warp ∨ y.seq ≠ r.seq) →
    (r.ops.map (·.pa)).Pairwise (fun a b => a + 4 ≤ b ∨ b + 4 ≤ a) →
    ∃ t, exec (.addOnStoreApply idx) s = .next t ∧ t.adds = s.adds.eraseIdx idx ∧ t.groups = s.groups ∧
      (∀ o ∈ r.ops, t.number o.pa 4 = (f32.add 0 (s.number o.pa 4) ((o.vals.headD 0).toNat)).1 % 2 ^ 32) ∧
      (∀ a, (∀ o ∈ r.ops, a < o.pa ∨ o.pa + 4 ≤ a) → t.mem.read a = s.mem.read a) ∧
      ∀ f ∈ w.inflight, f.seq = r.seq → { f with done := true } ∈ (t.warpAt r.warp).inflight) ∧
  (∀ (idx : Nat) (s : State) (r : OrdReq) (w : Warp),
    s.adds[idx]? = some r → SMap.find s.warps r.warp = some w → r.grp = w.grp → w.kind = .normal → (s.gridAt (s.groupAt w.grp).grid).ds.coll = true → r.seq < noSeq →
    let dom := (s.gridAt (s.groupAt w.grp).grid).pk.domain
    let mine := (s.domAt dom).reqs.filter fun x => x.warp == r.warp && x.seq != noSeq
    (16 ≤ mine.length → exec (.addOnStoreApply idx) s = .next s) ∧
    (mine.length < 16 → exec (.addOnStoreApply idx) s = .next (({ s with adds := s.adds.eraseIdx idx } : State).modDom dom fun d => { d with reqs := d.reqs ++ [r] })))

/-! ### Engines (chapter 10) -/

/-- R241, R245 to R247: the access slice. aecfg copies the warp's k registers into the slice's file, empties the queues named and leaves the slice idle; aego starts it at its target; both trap with illegal operand 0x0A while it runs or is held, and
aego at a target outside the code object. aestop passes once the slice has ended. A slice ldl reads every lane, whatever the warp's strands, and its entry, with the causes of lanes that may not read, is pushed in order; a faulted entry holds
the slice at its ldl. Frame: no register, flag or byte of memory changes.
The model's choices: the slice file and pc are 0 before aecfg (log 3), and a number beyond the kernel's count is failure 0x04 (log 43). -/
def Obligations.Slices : Prop :=
  (∀ (h : Hdr) (mask : BitVec 8) (s : State), s.Here →
    let i := Instr.aecfg h mask
    (s.w.slice.st ≠ .running → s.w.slice.st ≠ .held →
      ∃ t, exec i s = .next t ∧ s.OnlyWarp t ∧ s.Passed t i ∧ { t.w with slice := s.w.slice, queues := s.w.queues }.still = s.w.still ∧ t.w.pend = s.w.pend ∧
        (∀ r : Kr, t.w.slice.rdK r = s.w.rdK r.toNat) ∧ t.w.slice.st = .idle ∧ t.w.slice.failPc = 0 ∧ t.w.slice.failDetail = 0 ∧ t.w.slice.failFetch = 0 ∧
        ∀ q, SMap.get [] t.w.queues q = if mask.getLsbD q then [] else SMap.get [] s.w.queues q) ∧
    (s.w.slice.st = .running ∨ s.w.slice.st = .held → s.w.kind = .normal →
      ∃ t, exec i s = .next t ∧ s.Trapped t 0x03 (fun _ => 0x0A) (fun l => s.w.active.getLsbD l) s.w.runPc)) ∧
  (∀ (h : Hdr) (off : BitVec 14) (s : State), s.Here → s.grid.ds.code ≤ s.w.runPc.toNat →
    let i := Instr.aego h off
    let goal := s.packet off.toInt
    let inside := s.grid.ds.code ≤ goal.toNat ∧ goal.toNat < s.grid.ds.code + s.grid.ds.codelen
    let free := s.w.slice.st ≠ .running ∧ s.w.slice.st ≠ .held
    (free → inside → ∃ t, exec i s = .next t ∧ s.OthersSame t ∧ t.mem = s.mem ∧ t.groups = s.groups ∧ (s.tiles = [] → s.adds = [] → s.OnlyWarp t) ∧ s.Passed t i ∧
      { t.w with slice := s.w.slice }.still = s.w.still ∧ t.w.pend = s.w.pend ∧ t.w.slice.st = .running ∧ t.w.slice.pc = goal ∧ t.w.slice.k = s.w.slice.k) ∧
    (¬ (free ∧ inside) → s.w.kind = .normal → ∃ t, exec i s = .next t ∧ s.Trapped t 0x03 (fun _ => 0x0A) (fun l => s.w.active.getLsbD l) s.w.runPc)) ∧
  (∀ (h : Hdr) (s : State), s.Here →
    let i := Instr.aestop h
    (s.w.slice.st ≠ .running → s.w.slice.st ≠ .held → ∃ t, exec i s = .next t ∧ s.OnlyWarp t ∧ s.Passed t i ∧ t.w.still = s.w.still ∧ t.w.pend = s.w.pend) ∧
    (s.w.slice.st = .held ∨ s.w.slice.st = .running ∧ s.w.slice.issued = [] →
      ∃ t, exec i s = .next t ∧ s.OnlyWarp t ∧ s.Passed t i ∧ { t.w with slice := s.w.slice }.still = s.w.still ∧ t.w.pend = s.w.pend ∧ t.w.slice.st = .ended) ∧
    (s.w.slice.st = .running → s.w.slice.issued ≠ [] → ∃ t, exec i s = .next t ∧ t.w = { s.w with slice := { s.w.slice with stopping := true, first := s.w.slice.loads }, waiting := true })) ∧
  (∀ (h : Hdr) (d : Vr) (kbase kstride : Kr) (size : ESize) (imm : BitVec 16) (hint : BitVec 3) (sx : Bool) (s : State) (pa : Nat → Nat) (fault : Nat → Option Nat),
    let i := Instr.sliceLdl h d kbase kstride size imm hint sx
    let x := s.w.slice
    let ea (l : Nat) : Nat := (((x.rdK kbase).toNat + l * (x.rdK kstride).toNat + imm.toInt) % 2 ^ 64).toNat
    s.Here → x.st = .running → x.stopping = false → x.issued.length < 8 → s.w.queueLoad (d.toNat - 56) < 32 → s.sliceWaits = false → s.inDomain = false → size ≠ .b8 →
    (∀ l, l < 32 → match fault l with
      | none => s.Reaches .load size.bytes l (ea l) (pa l)
      | some c => if ea l % size.bytes ≠ 0 then c = 0x01 else s.checkVa s.w.core l s.ctxNo (ea l) .load (fun a => s.meetsLost a size.bytes) = .error c) →
    s.TilesClear (((List.range 32).filter fun l => (fault l).isNone).map pa) →
    ∃ t e, exec i s = .next t ∧ s.OthersSame t ∧ t.mem = s.mem ∧ t.groups = s.groups ∧ { t.w with slice := x } = s.w ∧
      t.w.slice = { x with issued := x.issued ++ [e], loads := x.loads + 1, pc := x.pc + 8 } ∧ e.q = d.toNat - 56 ∧ e.pc = x.pc ∧ e.kfile = x.k ∧ e.ord = x.loads ∧
      (∀ l, l < 32 → fault l = none → e.vals.getD l 0 = loaded sx size.bytes (s.number (pa l) size.bytes)) ∧
      (∀ l c a, (l, c, a) ∈ e.causes ↔ l < 32 ∧ fault l = some c ∧ a = ea l)) ∧
  (∀ (wp : Nat) (s : State) (w : Warp) (e : QEntry) (rest : List QEntry), SMap.find s.warps wp = some w → w.slice.issued = e :: rest →
    ∃ t, exec (.sliceEntryPush wp) s = .next t ∧ t.mem = s.mem ∧ SMap.get [] (t.warpAt wp).queues e.q = SMap.get [] w.queues e.q ++ [e] ∧ w.SameRegs { (t.warpAt wp) with queues := w.queues } ∧
      (∀ q, q ≠ e.q → SMap.get [] (t.warpAt wp).queues q = SMap.get [] w.queues q) ∧
      (e.causes = [] → w.slice.stopping = false → (t.warpAt wp).slice = { w.slice with issued := rest }) ∧
      (e.causes = [] → w.slice.stopping = true → rest = [] → (t.warpAt wp).slice.st = .ended) ∧
      (e.causes ≠ [] → w.slice.first ≤ e.ord → w.slice.stopping = false → w.slice.st = .running →
        (t.warpAt wp).slice.st = .held ∧ (t.warpAt wp).slice.pc = e.pc ∧ (t.warpAt wp).slice.k = e.kfile ∧ (t.warpAt wp).slice.issued = []))

/-- R248 to R253: copy channels of an open grid. cpy and cpym check their operands in the order of R251 and trap or fault with no effect; an empty copy is complete at once; else every receiver's channel gets the copy and its IP rises by the
length, and a fifth pending copy waits. COPY_DELIVERY delivers the next piece, at most a sector, and WP rises by it; a page that is not resident is asked for; any other cause stops the channel. The warp is told after the last receiver's last byte.
cpyw passes once WP has reached its target, faults at a channel that stopped below it, and else waits; cpyq reads WP or IP.
The model's choices: a number beyond the kernel's count is illegal operand 0x06 (log 43), and a copy at a fault does not hold the dispatch up (log 29). -/
def Obligations.Copies : Prop :=
  (∀ (i : Instr) (r : CopyRow) (s : State), copyRow i = some r → s.Here → s.w.kind = .normal → s.inDomain = false →
    let rd (x : Kr) : Nat := (s.w.rdK x.toNat).toNat
    let glob := if r.s2g then rd r.kdst else rd r.kfrom
    let sp := if r.s2g then rd r.kfrom else rd r.kdst
    let len := rd r.klen
    let stops (cause detail : Nat) : Prop := ∃ t, exec i s = .next t ∧ s.Trapped t cause (fun _ => detail) (fun l => s.w.active.getLsbD l) s.w.runPc
    let sound := r.ch.toNat < s.grid.ds.nchan ∧ len < 2 ^ 32
    let aligned := glob % 16 = 0 ∧ len % 16 = 0 ∧ sp % 16 = 0
    let fits := sp + len ≤ s.grid.ds.spl
    let near := glob + len ≤ 2 ^ 57 ∧ glob < 2 ^ 57
    (¬ sound → stops 0x03 0x06) ∧ (sound → ¬ aligned → stops 0x04 0x01) ∧ (sound → aligned → ¬ fits → stops 0x04 0x02) ∧ (sound → aligned → fits → ¬ near → stops 0x04 0x03) ∧
    (sound → aligned → fits → near → ¬ s.MembersNamed r.mask → stops 0x03 0x06) ∧
    (sound → aligned → fits → near → s.MembersNamed r.mask →
      (len = 0 ∨ s.receivers r.mask = [] → ∃ t, exec i s = .next t ∧ s.OnlyWarp t ∧ t.w.runPc = s.w.runPc + 8 ∧ (t.w.uncounted s.w).still = s.w.still ∧ t.w.pend = s.w.pend ∧ (r.dc ≠ 7 → s.w.Counted t.w r.dc.toNat [] [])) ∧
      (len ≠ 0 → (∃ g ∈ s.receivers r.mask, 4 ≤ ((s.groupAt g).chan s.w.twin r.ch.toNat).copies.length) → ∃ t, exec i s = .next t ∧ s.OnlyWarp t ∧ t.w = { s.w with waiting := true }) ∧
      (len ≠ 0 → s.receivers r.mask ≠ [] → (∀ g ∈ s.receivers r.mask, ((s.groupAt g).chan s.w.twin r.ch.toNat).copies.length < 4) → (s.receivers r.mask).Nodup →
        let cp : Copy := { src := rd r.kfrom, dst := rd r.kdst, len := len, s2g := r.s2g, at_ := 0, got := [], warp := s.cur, seq := s.w.seqNo }
        ∃ t, exec i s = .next t ∧ s.OthersSame t ∧ t.mem = s.mem ∧ t.w.runPc = s.w.runPc + 8 ∧ (t.w.uncounted s.w).still = s.w.still ∧ t.w.pend = s.w.pend ∧
          (r.dc ≠ 7 → ⟨s.w.seqNo, r.dc.toNat, false, [], s.w.sched, []⟩ ∈ t.w.inflight) ∧
          ∀ g side c, (t.groupAt g).side side = (s.groupAt g).side side ∧ (t.groupAt g).chan side c =
            (if g ∈ s.receivers r.mask ∧ side = s.w.twin ∧ c = r.ch.toNat then
              { (s.groupAt g).chan side c with ip := ((s.groupAt g).chan side c).ip + len, copies := ((s.groupAt g).chan side c).copies ++ [cp] }
            else (s.groupAt g).chan side c)))) ∧
  (∀ (h : Hdr) (kval : Kr) (ch : BitVec 4) (s : State), s.Here → s.w.kind = .normal →
    let i := Instr.cpyw h kval ch
    let c := s.grp.chan s.w.twin ch.toNat
    let goal := (s.w.rdK kval.toNat).toNat
    (s.grid.ds.nchan ≤ ch.toNat → ∃ t, exec i s = .next t ∧ s.Trapped t 0x03 (fun _ => 0x06) (fun l => s.w.active.getLsbD l) s.w.runPc) ∧
    (ch.toNat < s.grid.ds.nchan → goal ≤ c.wp → ∃ t, exec i s = .next t ∧ s.OnlyWarp t ∧ s.Passed t i ∧ t.w.still = s.w.still ∧ t.w.pend = s.w.pend) ∧
    (ch.toNat < s.grid.ds.nchan → c.wp < goal → c.fault = none → ∃ t, exec i s = .next t ∧ t.mem = s.mem ∧ t.w = { s.w with waiting := true }) ∧
    (∀ d a, ch.toNat < s.grid.ds.nchan → c.wp < goal → c.fault = some (d, a) → ∃ t, exec i s = .next t ∧ s.Trapped t 0x04 (fun _ => d) (fun l => s.w.active.getLsbD l) s.w.runPc)) ∧
  (∀ (h : Hdr) (kd : Kr) (ch : BitVec 4) (ip : Bool) (dc : Dc) (s : State), s.Here → ch.toNat < s.grid.ds.nchan → dc ≠ 7 →
    let c := s.grp.chan s.w.twin ch.toNat
    ∃ t, exec (.cpyq h kd ch ip dc) s = .next t ∧ s.OnlyWarp t ∧ t.w.runPc = s.w.runPc + 8 ∧ (t.w.uncounted s.w).still = s.w.still ∧ t.w.pend = s.w.pend ∧
      s.w.Counted t.w dc.toNat [.k kd.toNat] [⟨.k kd.toNat, [(0, BitVec.ofNat 64 (if ip then c.ip else c.wp))]⟩]) ∧
  (∀ (grp side ch : Nat) (s : State) (cp : Copy) (rest : List Copy) (x : Except Nat Leaf),
    let sd := side != 0
    let g := s.groupAt grp
    let c := g.chan sd ch
    let glob := (if cp.s2g then cp.dst else cp.src) + cp.at_
    let sp := (if cp.s2g then cp.src else cp.dst) + cp.at_
    let n := min (cp.len - cp.at_) (32 - glob % 32)
    c.copies = cp :: rest → c.fault = none → cp.got = [] → s.tiles = [] → s.lost = [] → (s.gridAt (s.groupAt (s.warpAt cp.warp).grp).grid).ds.coll = false → (SMap.find s.warps cp.warp).isSome = true →
    s.checkVa (g.coreOf sd) 0 (s.gridAt g.grid).ctx glob (if cp.s2g then .store else .load) (fun _ => false) = x →
    ∃ t, exec (.copyDelivery grp side ch) s = .next t ∧ t.cur = s.cur ∧ (∀ w, w ≠ cp.warp → SMap.find t.warps w = SMap.find s.warps w) ∧
      (x = .error 0x07 → t.mem = s.mem ∧ t.groups = s.groups ∧ ((s.gridAt g.grid).ctx, glob / 4096 * 4096) ∈ t.resReqs) ∧
      (∀ d, x = .error d → d ≠ 0x07 → t.mem = s.mem ∧ (t.groupAt grp).chan sd ch = { c with fault := some (d, glob) } ∧ (t.groupAt grp).side sd = g.side sd) ∧
      (∀ lf, x = .ok lf →
        (t.groupAt grp).chan sd ch = { c with wp := c.wp + n, copies := if cp.len ≤ cp.at_ + n then rest else { cp with at_ := cp.at_ + n } :: rest } ∧
        (∀ a, t.mem.read a = if cp.s2g = true ∧ lf.pa glob ≤ a ∧ a < lf.pa glob + n then (g.side sd).read (sp + (a - lf.pa glob)) else s.mem.read a) ∧
        (∀ a, ((t.groupAt grp).side sd).read a = if cp.s2g = false ∧ sp ≤ a ∧ a < sp + n then s.mem.read (lf.pa glob + (a - sp)) else (g.side sd).read a) ∧
        (cp.len ≤ cp.at_ + n → (∀ y ∈ t.allChans, ∀ z ∈ y.copies, z.warp ≠ cp.warp ∨ z.seq ≠ cp.seq) →
          ∀ f ∈ (s.warpAt cp.warp).inflight, f.seq = cp.seq → { f with done := true } ∈ (t.warpAt cp.warp).inflight)))

/-- R248, R255: semset gives a semaphore of the warp's side of its group the value, semadd adds it modulo 2^32, and semwait passes once the semaphore less the value, read as signed, is not negative; a number beyond the kernel's count traps with
illegal operand 0x06. Frame: no other semaphore, and nothing else, changes.
The model's choice: a number beyond the kernel's count is illegal operand 0x06 (log 43). -/
def Obligations.Semaphores : Prop :=
  ∀ (h : Hdr) (sm : BitVec 6) (ka : Kr) (imm : BitVec 6) (s : State), s.Here → s.w.kind = .normal →
    let old := SMap.get 0 (s.grp.semsOf s.w.twin) sm.toNat
    let v := s.w.semWord ka imm
    let sets (i : Instr) (new : Word) : Prop := ∃ t, exec i s = .next t ∧ s.OthersSame t ∧ t.mem = s.mem ∧ t.w.runPc = s.w.runPc + 4 ∧ t.w.still = s.w.still ∧ t.w.pend = s.w.pend ∧
      (∀ n, SMap.get 0 (t.grp.semsOf s.w.twin) n = if n = sm.toNat then new else SMap.get 0 (s.grp.semsOf s.w.twin) n) ∧ t.grp.semsOf (!s.w.twin) = s.grp.semsOf (!s.w.twin) ∧
      t.grp.spad = s.grp.spad ∧ t.grp.spadF = s.grp.spadF ∧ ∀ g, g ≠ s.w.grp → t.groupAt g = s.groupAt g
    let stops (i : Instr) : Prop := ∃ t, exec i s = .next t ∧ s.Trapped t 0x03 (fun _ => 0x06) (fun l => s.w.active.getLsbD l) s.w.runPc
    (sm.toNat < s.grid.ds.nsem → sets (.semset h sm ka imm) v ∧ sets (.semadd h sm ka imm) (old + v)) ∧
    (sm.toNat < s.grid.ds.nsem → 0 ≤ (old - v).toInt →
      ∃ t, exec (.semwait h sm ka imm) s = .next t ∧ s.OnlyWarp t ∧ s.Passed t (.semwait h sm ka imm) ∧ t.w.still = s.w.still ∧ t.w.pend = s.w.pend) ∧
    (sm.toNat < s.grid.ds.nsem → (old - v).toInt < 0 → ∃ t, exec (.semwait h sm ka imm) s = .next t ∧ t.mem = s.mem ∧ t.groups = s.groups ∧ t.w = { s.w with waiting := true }) ∧
    (s.grid.ds.nsem ≤ sm.toNat → stops (.semset h sm ka imm) ∧ stops (.semadd h sm ka imm) ∧ stops (.semwait h sm ka imm))

/-- R257 to R260: collectives of an open grid. coll hands its descriptor to the engine and counts: its result is the communicator's issue count after it; while the engine holds 64 it waits. collw passes once the completion count has reached its
number. COLLECTIVE_COMPLETE of a sound descriptor with which every rank agrees writes the receive buffer, and nothing but it and the status; the completion count rises by 1 and the instruction's counter is released.
All-gather joins the ranks' blocks in rank order, all-to-all takes block r of each, broadcast the root's, the one rank whose send buffer it reads; an integer sum is taken modulo 2^32.
R261, R428: in a domain collw waits likewise, and then jumps to the next boundary point, at which the bytes received by its domain's collectives of that communicator up to its number are to be published.
The model's choices: a descriptor that cannot be read is issued and fails (log 34), and the bytes of other ranks come with the event (log 71). -/
def Obligations.Collectives : Prop :=
  (∀ (h : Hdr) (kdesc kd : Kr) (dc : Dc) (s : State) (bs : List Byte), s.Here → s.inDomain = false → dc ≠ 7 →
    let va := (s.w.rdK kdesc.toNat).toNat
    let c := (collDescOf bs).comm
    (64 ≤ (s.colls.filter fun c => !c.done).length → ∃ t, exec (.coll h kdesc kd dc) s = .next t ∧ t.mem = s.mem ∧ t.w = { s.w with waiting := true }) ∧
    ((s.colls.filter fun c => !c.done).length < 64 → s.peekVa s.ctxNo va 64 = .ok bs →
      ∃ t, exec (.coll h kdesc kd dc) s = .next t ∧ s.OthersSame t ∧ t.mem = s.mem ∧ t.groups = s.groups ∧ t.w.runPc = s.w.runPc + BitVec.ofNat 64 (4 * (Instr.coll h kdesc kd dc).words) ∧
        (t.w.uncounted s.w).still = s.w.still ∧ t.w.pend = s.w.pend ∧ t.comm c = { s.comm c with issued := (s.comm c).issued + 1 } ∧
        ⟨s.w.seqNo, dc.toNat, false, [⟨.k kd.toNat, [(0, BitVec.ofNat 64 ((s.comm c).issued + 1))]⟩], s.w.sched, []⟩ ∈ t.w.inflight ∧
        ∃ r, t.colls = s.colls ++ [r] ∧ r.comm = c ∧ r.warp = s.cur ∧ r.seq = s.w.seqNo ∧ r.num = (s.comm c).issued + 1 ∧ r.desc = va ∧ r.ctx = s.ctxNo ∧ r.collated = none ∧ r.done = false)) ∧
  (∀ (h : Hdr) (kcomm kseq : Kr) (s : State), s.Here → s.collated = false →
    let i := Instr.collw h kcomm kseq
    let done := (s.comm (s.w.rdK kcomm.toNat).toNat).completed
    ((s.w.rdK kseq.toNat).toNat ≤ done → ∃ t, exec i s = .next t ∧ s.OnlyWarp t ∧ s.Passed t i ∧ t.w.still = s.w.still ∧ t.w.pend = s.w.pend) ∧
    (done < (s.w.rdK kseq.toNat).toNat → ∃ t, exec i s = .next t ∧ t.mem = s.mem ∧ t.w = { s.w with waiting := true })) ∧
  (∀ (h : Hdr) (kcomm kseq : Kr) (s : State), s.Here → s.collated = true → h.c = false → s.w.owed = none → 0 < s.g →
    let i := Instr.collw h kcomm kseq
    let c := (s.w.rdK kcomm.toNat).toNat
    let n := (s.w.rdK kseq.toNat).toNat
    ((s.comm c).completed < n → ∃ t, exec i s = .next t ∧ t.mem = s.mem ∧ t.w = { s.w with waiting := true }) ∧
    (n ≤ (s.comm c).completed → ∃ t, exec i s = .next t ∧ s.OthersSame t ∧ t.mem = s.mem ∧ t.groups = s.groups ∧ s.w.Jumped t.w s.g ∧ s.w.SameRegs t.w ∧ t.w.inflight = s.w.inflight ∧
      (∀ l, l < 32 → s.w.active.getLsbD l = true → SMap.get 0 t.w.pcs l = s.w.runPc + BitVec.ofNat 64 (4 * i.words)) ∧
      let mine (x : Coll) : Prop := x.comm = c ∧ x.num ≤ n ∧ x.collated = some s.grid.pk.domain ∧ x.due = none
      ∀ x ∈ s.colls, (mine x → { x with due := some (s.w.wave, (s.w.grpLclk / s.g + 1) * s.g) } ∈ t.colls) ∧ (¬ mine x → x ∈ t.colls))) ∧
  (∀ (comm : Nat) (peers : List (List Byte)) (s : State) (c : Coll) (bs own : List Byte) (to_ st : List Nat),
    let d := collDescOf bs
    let n := (s.comm comm).ranks
    let rank := (s.comm comm).rank
    let sends := (List.range n).map fun j => if j = rank then own else (peers.getD j []).drop 64
    s.colls.find? (fun c => c.comm == comm && !c.done) = some c → c.collated = none → s.lost = [] → c.desc % 64 = 0 → s.peekVa c.ctx c.desc 64 = .ok bs → d.ok n = true →
    (∀ j, j < n → j ≠ rank → peers.getD j [] = [] ∨ d.agrees (collDescOf (peers.getD j [])) = true) →
    (if d.op = 4 ∧ rank ≠ d.root then own = [] else s.peekVa c.ctx d.send (d.sendLen n) = .ok own) → s.placeVa c.ctx d.recv (d.recvLen n) true = .ok to_ → s.placeVa c.ctx (c.desc + 36) 4 true = .ok st →
    to_.Nodup → (∀ a ∈ st, a ∉ to_) → to_.length ≤ (d.result rank sends).length →
    ∃ t, exec (.collectiveComplete comm peers 0) s = .next t ∧ t.groups = s.groups ∧ t.comm comm = { s.comm comm with completed := (s.comm comm).completed + 1 } ∧ c ∉ t.colls ∧
      (∀ j, j < to_.length → t.mem.read (to_.getD j 0) = (d.result rank sends).getD j 0) ∧ (∀ a, a ∉ to_ → a ∉ st → t.mem.read a = s.mem.read a) ∧
      ∀ f ∈ (s.warpAt c.warp).inflight, f.seq = c.seq → (SMap.find s.warps c.warp).isSome = true → { f with done := true } ∈ (t.warpAt c.warp).inflight) ∧
  (∀ (d : CollDesc) (rank : Nat) (sends : List (List Byte)),
    (d.op = 2 → d.result rank sends = (sends.map fun x => x.take d.block).flatten) ∧
    (d.op = 3 → d.result rank sends = (sends.map fun x => (x.drop (rank * d.block)).take d.block).flatten) ∧
    (d.op = 4 → d.result rank sends = (sends.getD d.root []).take d.block) ∧
    (d.op = 0 → d.type = 3 ∨ d.type = 4 → d.redop = 0 → ∀ i, i < d.count →
      ofBytes (((d.result rank sends).drop (4 * i)).take 4) = ((sends.map fun x => ofBytes ((x.drop (4 * i)).take 4)).sum) % 2 ^ 32))

/-! ### Negotiated tiles (chapter 15) -/

/-- R326 to R328, R332, R336, R337, in an open grid. tclaim stops on a malformed geometry, an unknown routine, a base off 2 KiB and a region past 2^57, in that order; else its status says what the spine found: already held, frame conflict, free and granted in the
lowest free slot, no slot, directory full, held (try) or busy, and a claim on another group's tile waits in its recall queue. trel marks the tile as given up, and waits while a routine runs; tquery reads the directory; tsurr traps outside the surrender slot,
and there ends the routine: with the tile surrendered, or with a refusal that counts, of which one at the limit is a forced surrender; a surrender waits for what its holder has issued until then. Frame: no byte of memory changes.
The model's choices: refusals (log 36), and an access into another group's tile waits in its queue (log 44). -/
def Obligations.TileInstructions : Prop :=
  (∀ (h : Hdr) (kd kbase kgeo karg : Kr) (routine : BitVec 3) (keep : Bool) (dc : Dc) (tryit : Bool) (s : State),
    let i := Instr.tclaim h kd kbase kgeo karg routine keep dc tryit
    let base := (s.w.rdK kbase.toNat).toNat
    let geo := (s.w.rdK kgeo.toNat).toNat
    let stops (cause detail : Nat) : Prop := ∃ t, exec i s = .next t ∧ s.Trapped t cause (fun _ => detail) (fun l => s.w.active.getLsbD l) s.w.runPc
    let gives (word : Nat) (t : State) : Prop := exec i s = .next t ∧ s.OthersSame t ∧ t.mem = s.mem ∧ (∀ g b, (t.groupAt g).side b = (s.groupAt g).side b) ∧ t.w.runPc = s.w.runPc + 8 ∧ (t.w.uncounted s.w).still = s.w.still ∧
      t.w.pend = s.w.pend ∧ s.w.Counted t.w dc.toNat [.k kd.toNat] [⟨.k kd.toNat, [(0, BitVec.ofNat 64 word)]⟩]
    s.Here → s.w.kind = .normal → s.inDomain = false → dc ≠ 7 → s.w.FreshSeq → SMap.get (0, false) s.grp.refusals s.cur = (0, false) →
    (geoBad geo = true → stops 0x03 0x11) ∧
    (geoBad geo = false → s.grid.ds.nsurr ≤ routine.toNat → stops 0x03 0x12) ∧
    (geoBad geo = false → routine.toNat < s.grid.ds.nsurr → base % 2048 ≠ 0 → stops 0x04 0x01) ∧
    (geoBad geo = false → routine.toNat < s.grid.ds.nsurr → base % 2048 = 0 → 2 ^ 57 < geoEnd base geo → stops 0x04 0x03) ∧
    (∀ x frames, s.claimChecks base geo routine.toNat = .ok x frames →
      (∀ e, SMap.find s.tiles x = some e → e.hold.grp = s.w.grp → e.result = none → ∃ t, gives (statusWord 9 0 0 0) t ∧ t.tiles = s.tiles) ∧
      ((∀ e, SMap.find s.tiles x = some e → e.hold.grp ≠ s.w.grp) → s.FrameTaken x frames → ∃ t, gives (statusWord 6 0 0 0) t ∧ t.tiles = s.tiles) ∧
      (SMap.find s.tiles x = none → ¬ s.FrameTaken x frames →
        (s.freeSlot s.w.core = none → ∃ t, gives (statusWord 7 0 0 0) t ∧ t.tiles = s.tiles) ∧
        (∀ slot, s.freeSlot s.w.core = some slot → 65536 ≤ s.tiles.length → ∃ t, gives (statusWord 8 0 0 0) t ∧ t.tiles = s.tiles) ∧
        (∀ slot, s.freeSlot s.w.core = some slot → s.tiles.length < 65536 → ∃ t e, gives (statusWord 0 slot 0 0) t ∧ SMap.find t.tiles x = some e ∧ (∀ y, y ≠ x → SMap.find t.tiles y = SMap.find s.tiles y) ∧
          e.frames = frames ∧ e.queue = [] ∧ e.refusals = 0 ∧ e.running = none ∧ e.hold.grp = s.w.grp ∧ e.hold.core = s.w.core ∧ e.hold.slot = slot ∧ e.hold.base = base ∧ e.hold.geo = geo ∧ e.hold.keep = keep ∧
          e.hold.arg = s.w.rdK karg.toNat ∧ SMap.find (t.coreAt s.w.core).tslots slot = some x ∧
          ∀ r, s.grid.ds.surr[routine.toNat]? = some r → e.hold.budget = r.budget ∧ e.hold.limit = r.refuse ∧ e.hold.entry = s.grid.ds.code + r.entry)) ∧
      (∀ e, SMap.find s.tiles x = some e → e.hold.grp ≠ s.w.grp → ¬ s.FrameTaken x frames →
        (tryit = true → ∃ t, gives (statusWord 5 0 0 0) t ∧ t.tiles = s.tiles) ∧
        (tryit = false → s.freeSlot s.w.core = none → ∃ t, gives (statusWord 7 0 0 0) t ∧ t.tiles = s.tiles) ∧
        (∀ slot, tryit = false → s.freeSlot s.w.core = some slot → 16 ≤ e.queue.length → ∃ t, gives (statusWord 4 0 0 0) t ∧ t.tiles = s.tiles) ∧
        (∀ slot, tryit = false → s.freeSlot s.w.core = some slot → e.queue.length < 16 → ∃ t c d, exec i s = .next t ∧ t.mem = s.mem ∧ t.w.runPc = s.w.runPc + 8 ∧ ⟨s.w.seqNo, dc.toNat, false, [], s.w.sched, []⟩ ∈ t.w.inflight ∧
          SMap.find t.tiles x = some { e with queue := e.queue ++ [.claim c], due := d } ∧ c.warp = s.cur ∧ c.grp = s.w.grp ∧ c.slot = slot ∧ c.kd = kd.toNat ∧ c.base = base ∧ c.geo = geo ∧ c.frames = frames ∧
          SMap.find (t.coreAt s.w.core).tslots slot = some x)))) ∧
  (∀ (h : Hdr) (kbase : Kr) (dc : Dc) (s : State),
    let i := Instr.trel h kbase dc
    let base := (s.w.rdK kbase.toNat).toNat
    s.Here → s.w.kind = .normal →
    (base % 2048 ≠ 0 → ∃ t, exec i s = .next t ∧ s.Trapped t 0x04 (fun _ => 0x01) (fun l => s.w.active.getLsbD l) s.w.runPc) ∧
    (base % 2048 = 0 → (∀ e ∈ s.tiles, e.2.hold.grp ≠ s.w.grp ∨ e.2.hold.base ≠ base) → ∃ t, exec i s = .next t ∧ s.Trapped t 0x03 (fun _ => 0x0F) (fun l => s.w.active.getLsbD l) s.w.runPc) ∧
    (∀ x e, base % 2048 = 0 → SMap.rising s.tiles = true → s.tiles.find? (fun e => e.2.hold.grp == s.w.grp && e.2.hold.base == base) = some (x, e) → SMap.find s.tiles x = some e →
      (e.running.isSome = true ∨ e.surrendered.isSome = true → ∃ t, exec i s = .next t ∧ t.tiles = s.tiles ∧ t.w = { s.w with waiting := true }) ∧
      (e.running = none → e.surrendered = none → ∃ t, exec i s = .next t ∧ s.OthersSame t ∧ t.mem = s.mem ∧ t.groups = s.groups ∧ t.w.runPc = s.w.runPc + 8 ∧ (t.w.uncounted s.w).still = s.w.still ∧ t.w.pend = s.w.pend ∧
        (dc ≠ 7 → ⟨s.w.seqNo, dc.toNat, false, [], s.w.sched, []⟩ ∈ t.w.inflight) ∧
        SMap.find t.tiles x = some { e with surrendered := some (0, 0), rel := some (s.cur, s.w.seqNo), waitR := s.issuedBy (s.openHead e) s.w.grp, waitC := s.copiesBy s.w.grp, due := 0 } ∧
        ∀ y, y ≠ x → SMap.find t.tiles y = SMap.find s.tiles y))) ∧
  (∀ (h : Hdr) (kdelay : Kr) (outcome : TOutcome) (s : State), s.Here →
    (s.w.kind = .normal → ∃ t, exec (.tsurr h kdelay outcome) s = .next t ∧ s.Trapped t 0x03 (fun _ => 0x10) (fun l => s.w.active.getLsbD l) s.w.runPc) ∧
    (∀ e, s.w.kind = .surrender → SMap.find s.tiles s.w.tile = some e →
      ∃ t e', exec (.tsurr h kdelay outcome) s = .next t ∧ SMap.find t.tiles s.w.tile = some e' ∧ SMap.find t.warps s.cur = none ∧ e'.hold = e.hold ∧ e'.frames = e.frames ∧ e'.running = none ∧
        (outcome = .finish → e'.surrendered = some (1, 0) ∧ t.mem = s.mem) ∧ (outcome = .summary → e'.surrendered = some (2, 0) ∧ t.mem = s.mem) ∧
        (outcome = .refuse → e.hold.limit = e.refusals → e'.surrendered = some (3, 1)) ∧
        (outcome ≠ .refuse ∨ e.hold.limit = e.refusals → e'.waitR = s.issuedBy (s.openHead e) e.hold.grp ∧ e'.waitC = s.copiesBy e.hold.grp) ∧
        (outcome = .refuse → e.hold.limit ≠ e.refusals → (∀ c rest, e.queue = .claim c :: rest → s.groupColl c.grp = false) →
          e'.refusals = min 7 (e.refusals + 1) ∧ e'.surrendered = e.surrendered ∧ e'.delay = some (s.clkAfter (s.w.rdK kdelay.toNat).toNat) ∧ t.mem = s.mem))) ∧
  (∀ (h : Hdr) (kd kbase : Kr) (dc : Dc) (s : State) (pa : Nat), s.Here → s.inDomain = false → dc ≠ 7 →
    let base := (s.w.rdK kbase.toNat).toNat
    (base % 2048 ≠ 0 → s.w.kind = .normal → ∃ t, exec (.tquery h kd kbase dc) s = .next t ∧ s.Trapped t 0x04 (fun _ => 0x01) (fun l => s.w.active.getLsbD l) s.w.runPc) ∧
    (base % 2048 = 0 → (∃ x, s.checkVa s.w.core (lowLane s.w.active) s.ctxNo base .load (fun _ => false) = .ok x ∧ pa = x.pa base) →
      ∃ t n, exec (.tquery h kd kbase dc) s = .next t ∧ s.OnlyWarp t ∧ t.w.runPc = s.w.runPc + 8 ∧ (t.w.uncounted s.w).still = s.w.still ∧ t.w.pend = s.w.pend ∧
        s.w.Counted t.w dc.toNat [.k kd.toNat] [⟨.k kd.toNat, [(0, BitVec.ofNat 64 n)]⟩] ∧ (SMap.find s.tiles pa = none → n = 0) ∧
        ∀ e, SMap.find s.tiles pa = some e → e.refusals < 8 → e.queue.length < 32 → e.hold.slot < 8 →
          n % 2 = (if e.hold.grp = s.w.grp then 1 else 0) ∧ n / 2 % 2 = (if e.hold.grp = s.w.grp ∨ e.hold.grp = noGroup then 0 else 1) ∧ n / 4 % 2 = (if e.running.isSome then 1 else 0) ∧
          n / 8 % 32 = e.queue.length ∧ n / 256 % 8 = e.refusals ∧ n / 2048 % 2 = (if e.hold.keep then 1 else 0) ∧ n / 4096 = (if e.hold.grp = s.w.grp then e.hold.slot else 0)))

/-- R330, R332, R334, R335: recalls and handover. RECALL_START starts the holder's routine in its core's surrender slot: one strand of 32 lanes at the routine's entry, with the argument, base, geometry and recall word in k1 to k4 and every other register zero.
RECALL_DELAY_EXPIRY lets the next recall start once a refusal's delay has run. SURRENDER_COMPLETE takes the tile from its holder once nothing of the holder's is on its way: its slot is free, a waiting trel is complete, and a tile with no queue leaves the
directory. TILE_GRANT makes the claim at the head of the queue the new holder, of the frames of its own region, with the surrender's status; an access at the head performs on the free tile.
The model's choices: refusals (log 36), what a surrender waits for (log 37), and a claim at the head of whose frames one has come to belong to another tile, which ends with status 6 (log 79). -/
def Obligations.Recalls : Prop :=
  (∀ (x : Nat) (s : State) (e : TileEntry), SMap.find s.tiles x = some e → s.recallReady e = true → s.holderSaved e = false →
    ∃ t n w, exec (.recallStart x) s = .next t ∧ t.mem = s.mem ∧ t.groups = s.groups ∧ SMap.find s.warps n = none ∧ SMap.find t.warps n = some w ∧ (∀ m, m ≠ n → SMap.find t.warps m = SMap.find s.warps m) ∧
      SMap.find t.tiles x = some { e with running := some n, due := 0 } ∧ (t.coreAt e.hold.core).surrender = some n ∧
      w.kind = .surrender ∧ w.grp = e.hold.grp ∧ w.core = e.hold.core ∧ w.tile = x ∧ w.budget = e.hold.budget ∧ w.exited = 0 ∧ (∀ l, l < 32 → SMap.get 0 w.pcs l = BitVec.ofNat 64 e.hold.entry) ∧
      w.rdK 1 = e.hold.arg ∧ w.rdK 2 = BitVec.ofNat 64 e.hold.base ∧ w.rdK 3 = BitVec.ofNat 64 e.hold.geo ∧
      w.rdK 4 = BitVec.ofNat 64 (e.refusals + (if e.refusals = e.hold.limit then 8 else 0) + (match e.queue with | .claim _ :: _ => 16 | _ => 0) + 32 * e.hold.slot) ∧
      (∀ r, 5 ≤ r → w.rdK r = 0) ∧ (∀ r l, w.rdV r l = 0) ∧ w.specials = Warp.idle.specials ∧ ∀ l, w.rdAxf l = 0) ∧
  (∀ (x : Nat) (s : State) (e : TileEntry) (d : Nat), SMap.find s.tiles x = some e → e.delay = some d →
    (d ≤ s.clk → ∃ t, exec (.recallDelayExpiry x) s = .next t ∧ t = s.setTile x { e with delay := none }) ∧ (s.clk < d → ∃ t, exec (.recallDelayExpiry x) s = .next t ∧ SMap.find t.tiles x = some { e with due := 0 } ∧ t.mem = s.mem)) ∧
  (∀ (x : Nat) (s : State) (e : TileEntry) (v : Nat × Nat), SMap.find s.tiles x = some e → e.surrendered = some v → s.tileBusy e = false → s.holderSaved e = false →
    ∃ t, exec (.surrenderComplete x) s = .next t ∧ t.mem = s.mem ∧ SMap.find (t.coreAt e.hold.core).tslots e.hold.slot = none ∧
      (e.queue = [] → SMap.find t.tiles x = none) ∧
      (e.queue ≠ [] → ∃ e', SMap.find t.tiles x = some e' ∧ e'.handing = some v ∧ e'.surrendered = none ∧ e'.queue = e.queue ∧ e'.frames = e.frames ∧ e'.hold.grp = noGroup) ∧
      ∀ h n f, e.rel = some (h, n) → f ∈ (s.warpAt h).inflight → f.seq = n → (SMap.find s.warps h).isSome = true → { f with done := true } ∈ (t.warpAt h).inflight) ∧
  (∀ (x : Nat) (s : State) (e : TileEntry) (status cause : Nat), SMap.find s.tiles x = some e → e.handing = some (status, cause) →
    (∀ c rest, e.queue = .claim c :: rest → s.groupColl c.grp = false → ¬ s.FrameTaken x c.frames →
      ∃ t e', exec (.tileGrant x) s = .next t ∧ t.mem = s.mem ∧ t.groups = s.groups ∧ SMap.find t.tiles x = some e' ∧ e'.hold = c ∧ e'.queue = rest ∧ e'.frames = c.frames ∧ e'.refusals = 0 ∧ e'.handing = none ∧
        SMap.find (t.coreAt c.core).tslots c.slot = some x ∧
        ∀ f ∈ (s.warpAt c.warp).inflight, f.seq = c.seq → (SMap.find s.warps c.warp).isSome = true →
          { f with done := true, writes := f.writes ++ [⟨.k c.kd, [(0, BitVec.ofNat 64 (statusWord status c.slot c.refused cause))]⟩] } ∈ (t.warpAt c.warp).inflight) ∧
    (∀ c rest, e.queue = .claim c :: rest → s.groupColl c.grp = false → s.FrameTaken x c.frames →
      ∃ t e', exec (.tileGrant x) s = .next t ∧ t.mem = s.mem ∧ t.groups = s.groups ∧ SMap.find t.tiles x = some e' ∧ e'.hold = e.hold ∧ e'.queue = rest ∧ e'.frames = e.frames ∧ e'.handing = some (status, cause) ∧
        SMap.find (t.coreAt c.core).tslots c.slot = none ∧
        ∀ f ∈ (s.warpAt c.warp).inflight, f.seq = c.seq → (SMap.find s.warps c.warp).isSome = true →
          { f with done := true, writes := f.writes ++ [⟨.k c.kd, [(0, BitVec.ofNat 64 (statusWord 6 0 c.refused 0))]⟩] } ∈ (t.warpAt c.warp).inflight) ∧
    (∀ r, e.queue = [.access r] → exec (.tileGrant x) s = .next ((s.dropTile x).letThrough [r])))

/-! ### Launch and the scheduler (chapter 17) -/

/-- R345 to R350, R354, R356: the command processor. A valid TAIL write moves TAIL and an invalid one raises 0x0D; QCTL and QERR are written as their tables say. A packet at the head of a ring that can be served is asked for where its page is absent, raises 0x0F and
stays where it cannot be read, and is consumed otherwise: a nop without effect, an accepted launch as a new grid with the context's next launch number, a refused one with its code in QERR. A ring that an error has stopped is not ready until ERR is cleared.
MAINT of the queue does not reach a packet that a grid without MAINT has posted. Frame: no warp changes.
The model's choices: a packet with lost data takes code 0x0F (log 49), and QERR names the latest error (log 81). -/
def Obligations.CommandQueues : Prop :=
  (∀ (q p v : Nat) (s : State), s.mgmt.boot = .recovery → exec (.tailWrite q p v) s = .next s ∧ exec (.qctlEnWrite q v) s = .next s ∧ exec (.qerrErrClear q) s = .next s) ∧
  (∀ (q p v : Nat) (s : State), q < 64 → p < 4 → s.mgmt.boot ≠ .recovery →
    let x := s.queueAt q
    let n : Nat := v % 2 ^ 32
    let off (base : Nat) : Int := ((n : Int) - base) % 2 ^ 32
    (off (x.headOf p) ≤ 2 ^ SMap.get 4 x.logn p → off (x.tailOf p) ≤ 2 ^ SMap.get 4 x.logn p →
      ∃ t, exec (.tailWrite q p v) s = .next t ∧ t = s.setQueue q { x with tail := SMap.put x.tail p n }) ∧
    (¬ (off (x.headOf p) ≤ 2 ^ SMap.get 4 x.logn p ∧ off (x.tailOf p) ≤ 2 ^ SMap.get 4 x.logn p) →
      ∃ t, exec (.tailWrite q p v) s = .next t ∧ t = s.setQueue q { x with err := true, idx := n % 65536, prio := p, code := 0x0D, stopped := x.stopping p })) ∧
  (∀ (q v : Nat) (s : State), q < 64 → s.mgmt.boot ≠ .recovery →
    exec (.qctlEnWrite q v) s = .next (s.setQueue q { s.queueAt q with ctx := v / 256 % 64, maint := decide (v / 2 % 2 = 1), en := decide (v % 2 = 1) }) ∧
    exec (.qerrErrClear q) s = .next (s.setQueue q { s.queueAt q with err := false, stopped := [] })) ∧
  (∀ (q p : Nat) (s : State), s.ringReady q p = true →
    let x := s.queueAt q
    let i := x.headOf p
    let va := SMap.get 0 x.base p + 128 * (i % 2 ^ SMap.get 4 x.logn p)
    let maint := x.maint && !x.posted.contains (p, i)
    ∃ t, exec (.packetService q p) s = .next t ∧ t.warps = s.warps ∧ t.groups = s.groups ∧
      (s.peekVa x.ctx va 128 = .error 0x07 → t.queueAt q = x ∧ (x.ctx, va / 4096 * 4096) ∈ t.resReqs ∧ t.mem = s.mem) ∧
      (∀ d, s.peekVa x.ctx va 128 = .error d → d ≠ 0x07 → t.queueAt q = { x with err := true, idx := i % 65536, prio := p, code := 0x0F, stopped := x.stopping p } ∧ t.grids = s.grids) ∧
      (∀ b, s.peekVa x.ctx va 128 = .ok b →
        (s.checkPacket x.ctx maint (packetOf b) = .ok none → t.queueAt q = { x with head := SMap.put x.head p ((i + 1) % 2 ^ 32), posted := x.posted.filter (· != (p, i)) } ∧ t.grids = s.grids ∧ t.mem = s.mem) ∧
        (∀ a, s.checkPacket x.ctx maint (packetOf b) = .ok (some a) →
          t.mem = s.mem ∧ (t.queueAt q).headOf p = (i + 1) % 2 ^ 32 ∧ (t.ctxAt x.ctx).nextLaunch = (s.ctxAt x.ctx).nextLaunch + 1 ∧
          ∃ n g, SMap.find s.grids n = none ∧ SMap.find t.grids n = some g ∧ (∀ m, m ≠ n → SMap.find t.grids m = SMap.find s.grids m) ∧
            g.launch = (s.ctxAt x.ctx).nextLaunch ∧ g.ctx = x.ctx ∧ g.queue = q ∧ g.prio = p ∧ g.st = .held ∧ g.pk = a.pk ∧ g.ds = a.ds) ∧
        (∀ c, s.checkPacket x.ctx maint (packetOf b) = .error c → (packetOf b).done = 0 →
          t.queueAt q =
            { x with head := SMap.put x.head p ((i + 1) % 2 ^ 32), posted := x.posted.filter (· != (p, i)), err := true, idx := i % 65536, prio := p, code := c, stopped := x.stopping p } ∧ t.grids = s.grids ∧ t.mem = s.mem))) ∧
  (∀ (q p : Nat) (s : State), p ∈ (s.queueAt q).stopped ∨ s.mgmt.boot ≠ .done → s.ringReady q p = false ∧ exec (.packetService q p) s = .next s) ∧
  (∀ (ctx : Nat) (m : Bool) (p : Packet) (s : State),
    (p.type = 0 → s.checkPacket ctx m p = .ok none) ∧ (2 ≤ p.type ∨ p.type = 1 ∧ (p.resv ≠ 0 ∨ 2 ≤ p.flags ∨ p.gang = 0 ∨ 8 < p.gang) → s.checkPacket ctx m p = .error 0x01))

/-- R371 to R374: lnch, lnwait, qpost and lmap of an open grid, on a packet that may be read. lnch gives the launch number of a new grid, or 2^63 plus the code; lnwait gives 2, 3 or the status of a launch that is over, and else waits for its completion without
holding the warp, in a domain at issue, and a status of 0 then jumps to the next boundary point (R375, R428); qpost copies the packet into the ring's next place, noting it where its grid has no MAINT, and gives its index, or 2^63 plus 0x0B or 0x0C; lmap reads the tables: the maps bit by bit, and its two core maps are inverse. Frame: nothing but what is named changes.
The model's choices: a nop, a refused lnch and the order of qpost's answers (log 48). -/
def Obligations.LaunchInstructions : Prop :=
  (∀ (h : Hdr) (kd ka : Kr) (dc : Dc) (s : State) (x : Leaf),
    let i := Instr.lnch h kd ka dc
    let va := (s.w.rdK ka.toNat).toNat
    let pk := packetOf ((List.range 128).map fun j => s.mem.read (x.pa va + j))
    let gives (t : State) (n : Nat) : Prop := exec i s = .next t ∧ s.OthersSame t ∧ t.mem = s.mem ∧ t.groups = s.groups ∧ t.w.runPc = s.w.runPc + BitVec.ofNat 64 (4 * i.words) ∧ (t.w.uncounted s.w).still = s.w.still ∧ t.w.pend = s.w.pend ∧
      s.w.Counted t.w dc.toNat [.k kd.toNat] [⟨.k kd.toNat, [(0, BitVec.ofNat 64 n)]⟩]
    s.Here → s.inDomain = false → dc ≠ 7 → va % 128 = 0 → s.lost = [] → s.checkVa s.w.core (lowLane s.w.active) s.ctxNo va .load (fun _ => false) = .ok x →
    (s.checkPacket s.ctxNo s.grid.ds.maint pk = .ok none → ∃ t, gives t 0 ∧ t.grids = s.grids) ∧
    (∀ a, s.checkPacket s.ctxNo s.grid.ds.maint pk = .ok (some a) → ∃ t n g, gives t (s.ctxAt s.ctxNo).nextLaunch ∧ (t.ctxAt s.ctxNo).nextLaunch = (s.ctxAt s.ctxNo).nextLaunch + 1 ∧
      SMap.find s.grids n = none ∧ SMap.find t.grids n = some g ∧ g.launch = (s.ctxAt s.ctxNo).nextLaunch ∧ g.ctx = s.ctxNo ∧ g.queue = s.grid.queue ∧ g.st = .held ∧ g.inRing = false ∧ g.pk = a.pk ∧ g.ds = a.ds) ∧
    (∀ c, s.checkPacket s.ctxNo s.grid.ds.maint pk = .error c → pk.done = 0 → ∃ t, gives t (2 ^ 63 + c) ∧ t.grids = s.grids)) ∧
  (∀ (h : Hdr) (kd ka : Kr) (dc : Dc) (s : State), s.Here → s.collated = false → s.w.jump = false → dc ≠ 7 →
    let i := Instr.lnwait h kd ka dc
    let n := (s.w.rdK ka.toNat).toNat
    let next := (s.ctxAt s.ctxNo).nextLaunch
    let open_ := ∃ e ∈ s.grids, e.2.ctx = s.ctxNo ∧ e.2.launch = n
    let gives (x : Nat) : Prop := ∃ t, exec i s = .next t ∧ s.OnlyWarp t ∧ t.w.runPc = s.w.runPc + BitVec.ofNat 64 (4 * i.words) ∧ (t.w.uncounted s.w).still = s.w.still ∧ t.w.pend = s.w.pend ∧
      s.w.Counted t.w dc.toNat [.k kd.toNat] [⟨.k kd.toNat, [(0, BitVec.ofNat 64 x)]⟩]
    (n = 0 ∨ next ≤ n → gives 2) ∧ (n ≠ 0 → n + 65536 < next → gives 3) ∧
    (n ≠ 0 → n < next → next ≤ n + 65536 → ¬ open_ → gives (SMap.get 0 (s.ctxAt s.ctxNo).statuses n)) ∧
    (n ≠ 0 → n < next → next ≤ n + 65536 → open_ → ∃ t, exec i s = .next t ∧ s.OnlyWarp t ∧ t.w.runPc = s.w.runPc + BitVec.ofNat 64 (4 * i.words) ∧ ⟨s.w.seqNo, dc.toNat, false, [], s.w.sched, []⟩ ∈ t.w.inflight ∧
      t.w.lnwaits = s.w.lnwaits ++ [(s.w.seqNo, n, kd.toNat)] ∧ s.w.SameRegs t.w)) ∧
  (∀ (h : Hdr) (kd ka : Kr) (dc : Dc) (s : State), s.Here → s.collated = true → s.w.jump = false → s.w.owed = none → h.c = false → 0 < s.g → dc ≠ 7 →
    let i := Instr.lnwait h kd ka dc
    let n := (s.w.rdK ka.toNat).toNat
    let next := (s.ctxAt s.ctxNo).nextLaunch
    let open_ := ∃ e ∈ s.grids, e.2.ctx = s.ctxNo ∧ e.2.launch = n
    let gives (x : Nat) : Prop := ∃ t, exec i s = .next t ∧ s.OnlyWarp t ∧ t.w.runPc = s.w.runPc + BitVec.ofNat 64 (4 * i.words) ∧ s.w.SameRegs t.w ∧
      s.w.Counted t.w dc.toNat [.k kd.toNat] [⟨.k kd.toNat, [(0, BitVec.ofNat 64 x)]⟩] ∧ (x = 0 → s.w.Jumped t.w s.g) ∧ (x ≠ 0 → t.w.lclk = (s.w.lclk + i.weight) % 2 ^ 64)
    (n = 0 ∨ next ≤ n → gives 2) ∧ (n ≠ 0 → n + 65536 < next → gives 3) ∧
    (n ≠ 0 → n < next → next ≤ n + 65536 → ¬ open_ → gives (SMap.get 0 (s.ctxAt s.ctxNo).statuses n)) ∧
    (n ≠ 0 → n < next → next ≤ n + 65536 → open_ → ∃ t, exec i s = .next t ∧ t.mem = s.mem ∧ t.w = { s.w with waiting := true })) ∧
  (∀ (h : Hdr) (kd ka : Kr) (q : BitVec 6) (prio : BitVec 2) (dc : Dc) (s : State) (x : Leaf),
    let i := Instr.qpost h kd ka q prio dc
    let va := (s.w.rdK ka.toNat).toNat
    let y := s.queueAt q.toNat
    let p := prio.toNat
    let size := 2 ^ SMap.get 4 y.logn p
    let gives (t : State) (n : Nat) : Prop := exec i s = .next t ∧ s.OthersSame t ∧ t.groups = s.groups ∧ t.grids = s.grids ∧ t.w.runPc = s.w.runPc + BitVec.ofNat 64 (4 * i.words) ∧ (t.w.uncounted s.w).still = s.w.still ∧ t.w.pend = s.w.pend ∧
      s.w.Counted t.w dc.toNat [.k kd.toNat] [⟨.k kd.toNat, [(0, BitVec.ofNat 64 n)]⟩]
    s.Here → s.inDomain = false → dc ≠ 7 → va % 128 = 0 → s.lost = [] → s.checkVa s.w.core (lowLane s.w.active) s.ctxNo va .load (fun _ => false) = .ok x →
    (y.en = false ∨ y.ctx ≠ s.ctxNo → ∃ t, gives t (2 ^ 63 + 0x0C) ∧ t.mem = s.mem ∧ t.queues = s.queues) ∧
    (y.en = true → y.ctx = s.ctxNo → size ≤ sub32 (y.tailOf p) (y.headOf p) → ∃ t, gives t (2 ^ 63 + 0x0B) ∧ t.mem = s.mem ∧ t.queues = s.queues) ∧
    (∀ l, y.en = true → y.ctx = s.ctxNo → sub32 (y.tailOf p) (y.headOf p) < size → s.placeVa s.ctxNo (SMap.get 0 y.base p + 128 * (y.tailOf p % size)) 128 true = .ok l → l.Nodup → l.length = 128 →
      ∃ t, gives t (y.tailOf p % size) ∧ t.queueAt q.toNat = { y with tail := SMap.put y.tail p ((y.tailOf p + 1) % 2 ^ 32), posted := y.posted.filter (· != (p, y.tailOf p)) ++ (if s.grid.ds.maint then [] else [(p, y.tailOf p)]) } ∧
        (∀ j, j < 128 → t.mem.read (l.getD j 0) = s.mem.read (x.pa va + j)) ∧ ∀ a, a ∉ l → t.mem.read a = s.mem.read a)) ∧
  (∀ (h : Hdr) (kd ka : Kr) (which : MapSel) (dc : Dc) (s : State), s.Here → dc ≠ 7 →
    let i := Instr.lmap h kd ka which dc
    let x := (s.w.rdK ka.toNat).toNat
    ∃ t n, exec i s = .next t ∧ s.OnlyWarp t ∧ t.w.runPc = s.w.runPc + BitVec.ofNat 64 (4 * i.words) ∧ (t.w.uncounted s.w).still = s.w.still ∧ t.w.pend = s.w.pend ∧
      s.w.Counted t.w dc.toNat [.k kd.toNat] [⟨.k kd.toNat, [(0, BitVec.ofNat 64 n)]⟩] ∧
      (which = .emapLo → ∀ b, b < 64 → n.testBit b = (decide (x < 24) && !(s.dieAt x).harvested.testBit b && !(s.dieAt x).fenced.testBit b)) ∧
      (which = .emapHi → ∀ b, b < 64 → n.testBit b = (decide (x < 24) && decide (b < 32) && !(s.dieAt x).harvested.testBit (b + 64) && !(s.dieAt x).fenced.testBit (b + 64))) ∧
      (which = .hmapLo → ∀ b, b < 64 → n.testBit b = (decide (x < 24) && (s.dieAt x).harvested.testBit b)) ∧
      (which = .hmapHi → ∀ b, b < 64 → n.testBit b = (decide (x < 24) && decide (b < 32) && (s.dieAt x).harvested.testBit (b + 64))) ∧
      (which = .l2p → (s.logical s.ctxNo).length ≤ x → n = 2 ^ 64 - 1) ∧ (which = .p2l → x ∉ s.logical s.ctxNo → n = 2 ^ 64 - 1) ∧
      (which = .l2p → x < (s.logical s.ctxNo).length → n ∈ s.logical s.ctxNo ∧ s.mapValue .p2l n = x) ∧
      (which = .resid → n = s.grid.resid) ∧ (which = .clus → n = if x < 24 then (s.ctxAt s.ctxNo).partition / 2 ^ (12 * x) % 2 ^ 12 else 0) ∧
      (which = .count → n % 2 ^ 32 = (s.logical s.ctxNo).length % 2 ^ 32))

/-- R76, R351, R357 to R359, R364, R365, R372: the life of a grid. GRID_RELEASE starts a held grid that nothing holds back; dealing loses and repeats no gang; GANG_START places the next gang of a cluster and starts its warps as R357 says; GANG_STEAL takes the upper
half of the longest range of a sibling cluster; WARP_END ends a warp whose threads have exited and whose counters are zero, its slice with it, and with the last of them the group; END_EDGE_STEP follows the last group, and GRID_COMPLETE writes the completion word, keeps the status and
ends every lnwait of the grid.
The model's choices: a DONE page that is absent is waited for (log 47), which grid a cluster serves first (log 51), a persistent grid starts whole (log 52), and that what no counter counts goes on after its group, and holds END_EDGE_STEP up (log 42). -/
def Obligations.Grids : Prop :=
  (∀ (g : Nat) (s : State) (x : Grid), SMap.find s.grids g = some x → s.mayRelease g = true → x.sedge.ranges = [] → x.ds.persist = false →
    ∃ t, exec (.gridRelease g) s = .next t ∧ t.mem = s.mem ∧ t.warps = s.warps ∧ (t.gridAt g).st = .running ∧ ∀ m, m ≠ g → SMap.find t.grids m = SMap.find s.grids m) ∧
  (∀ (gangs weights : List Nat), weights.sum ≠ 0 → (dealOut gangs weights).flatten = gangs ∧ (dealOut gangs weights).length = weights.length ∧
    ∀ c, c < weights.length → ((dealOut gangs weights).getD c []).length = gangs.length * (weights.take (c + 1)).sum / weights.sum - gangs.length * (weights.take c).sum / weights.sum) ∧
  (∀ (cluster g : Nat) (s : State) (x : Grid) (j c : Nat) (rest : List Nat), SMap.rising s.warps = true → SMap.rising s.groups = true →
    s.grids.find? (fun e => (s.tryGang e.1 cluster).isSome) = some (g, x) → s.gridAt g = x → x.ds.paired = false → x.ds.coll = false → x.nextWave ≠ 0 → x.pk.gang = 1 → j < x.pk.ngroups → SMap.get [] x.ranges cluster = j :: rest →
    (s.units false cluster).find? (fun c => decide (0 < s.roomAt g c)) = some c →
    ∃ t n gr, exec (.gangStart cluster) s = .next t ∧ t.mem = s.mem ∧ SMap.find s.groups n = none ∧ SMap.find t.groups n = some gr ∧ (∀ m, m ≠ n → SMap.find t.groups m = SMap.find s.groups m) ∧
      gr.grid = g ∧ gr.gidx = j ∧ gr.core = c ∧ gr.follower = none ∧ gr.spad = [] ∧ gr.sems = [] ∧ gr.bars = [] ∧ gr.chans = [] ∧ (t.coreAt c).grid = some g ∧ SMap.get [] (t.gridAt g).ranges cluster = rest ∧
      (∀ h w, SMap.find s.warps h = some w → SMap.find t.warps h = some w) ∧
      (∀ m, m < x.ds.warps → ∃ h w, SMap.find s.warps h = none ∧ SMap.find t.warps h = some w ∧ w.grp = n ∧ w.widx = m ∧ w.core = c ∧ w.kind = .normal) ∧
      (∀ h w, SMap.find s.warps h = none → SMap.find t.warps h = some w →
        (∀ l, l < 32 → SMap.get 0 w.pcs l = BitVec.ofNat 64 (x.ds.code + x.ds.entry)) ∧ (∀ r l, w.rdV r l = 0) ∧ (∀ r l, r < 62 → w.rdP r l = false) ∧ w.exited = 0 ∧ w.lclk = 0 ∧ w.specials = Warp.idle.specials ∧
        w.rdK 1 = BitVec.ofNat 64 x.launch ∧ w.rdK 2 = BitVec.ofNat 64 x.pk.priv ∧ w.rdK 3 = BitVec.ofNat 64 x.pk.privsz ∧ (∀ a, a < 6 → w.rdK (4 + a) = BitVec.ofNat 64 (x.pk.args.getD a 0)) ∧ ∀ r, 10 ≤ r → w.rdK r = 0)) ∧
  (∀ (cluster g v : Nat) (s : State) (r : SMap (List Nat)) (l : List Nat),
    s.grids.findSome? (fun e => (s.stealRanges e.1 cluster).map fun r => (e.1, r)) = some (g, r) → longest ((s.gridAt g).ranges.filter fun r => r.1 / 12 == cluster / 12 && r.1 != cluster) = some (v, l) → (SMap.find s.grids g).isSome = true →
    ∃ t, exec (.gangSteal cluster) s = .next t ∧ t.mem = s.mem ∧ t.warps = s.warps ∧ 2 ≤ l.length ∧ (∀ e ∈ (s.gridAt g).ranges, e.1 / 12 = cluster / 12 → e.1 ≠ cluster → e.2.length ≤ l.length) ∧
      SMap.get [] (t.gridAt g).ranges v = l.take (l.length - l.length / 2) ∧ SMap.get [] (t.gridAt g).ranges cluster = l.drop (l.length - l.length / 2) ∧
      ∀ k, k ≠ v → k ≠ cluster → SMap.get [] (t.gridAt g).ranges k = SMap.get [] (s.gridAt g).ranges k) ∧
  (∀ (h : Nat) (s : State) (w : Warp), SMap.find s.warps h = some w → s.warpDone h = true → s.twinOf h = none → (s.gridAt (s.groupAt w.grp).grid).ds.persist = false → s.tiles = [] → SMap.rising s.warps = true →
    w.exited = 0xFFFFFFFF ∧
    (1 < (s.groupAt w.grp).warpsLeft → ∃ t, exec (.warpEnd h) s = .next t ∧ t.mem = s.mem ∧ SMap.find t.warps h = some { w with ended := true, slice := { w.slice with st := .ended, stopping := false, issued := [] } } ∧ (∀ g, g ≠ h → SMap.find t.warps g = SMap.find s.warps g) ∧
      h ∉ (t.coreAt w.core).slots ∧ t.groupAt w.grp = { s.groupAt w.grp with warpsLeft := (s.groupAt w.grp).warpsLeft - 1 }) ∧
    ((s.groupAt w.grp).warpsLeft = 1 → s.groupDone w.grp = true → (SMap.find s.grids (s.groupAt w.grp).grid).isSome = true →
      ∃ t, exec (.warpEnd h) s = .next t ∧ t.mem = s.mem ∧ (t.gridAt (s.groupAt w.grp).grid).ended = (s.gridAt (s.groupAt w.grp).grid).ended + 1 ∧
        (s.groupBusy w.grp = false → SMap.find t.groups w.grp = none ∧ ∀ g v, SMap.find t.warps g = some v → v.grp ≠ w.grp) ∧
        (s.groupBusy w.grp = true → SMap.find t.groups w.grp = some { s.groupAt w.grp with warpsLeft := 0 } ∧ (∀ g, g ≠ h → SMap.find t.warps g = SMap.find s.warps g)))) ∧
  (∀ (g : Nat) (s : State) (x : Grid), SMap.find s.grids g = some x → x.st = .running → x.killed = false →
    (x.pk.ngroups ≤ x.ended → (∀ e ∈ s.groups, e.2.grid = g → s.groupBusy e.1 = false) → x.eedge.ranges = [] →
      ∃ t, exec (.endEdgeStep g) s = .next t ∧ SMap.find t.grids g = some { x with st := .ending } ∧ t.mem = s.mem ∧ t.warps = s.warps) ∧
    (x.ended < x.pk.ngroups ∨ (∃ e ∈ s.groups, e.2.grid = g ∧ s.groupBusy e.1 = true) → exec (.endEdgeStep g) s = .next s)) ∧
  (∀ (g : Nat) (s : State) (x : Grid) (l : List Nat), SMap.find s.grids g = some x → x.killed = true ∨ x.st = .ending → SMap.rising s.grids = true → (∀ e ∈ s.groups, e.2.grid ≠ g) → x.pk.done ≠ 0 → s.placeVa x.ctx x.pk.done 8 true = .ok l → l.Nodup → l.length = 8 → s.lost = [] →
    let status := if x.killed then 1 else 0
    ∃ t, exec (.gridComplete g) s = .next t ∧ SMap.find t.grids g = none ∧ t.groups = s.groups ∧ (∀ j, j < 8 → t.mem.read (l.getD j 0) = BitVec.ofNat 8 ((x.launch * 256 + status) / 256 ^ j)) ∧ (∀ a, a ∉ l → t.mem.read a = s.mem.read a) ∧
      (x.launch < (s.ctxAt x.ctx).nextLaunch → (s.ctxAt x.ctx).nextLaunch ≤ x.launch + 65536 → SMap.rising (s.ctxAt x.ctx).statuses = true → SMap.get 9 (t.ctxAt x.ctx).statuses x.launch = status) ∧
      ∀ h w n kd, SMap.find s.warps h = some w → (s.gridAt (s.groupAt w.grp).grid).ctx = x.ctx → (s.groupAt w.grp).grid ≠ g → w.lnwaits = [(n, x.launch, kd)] → ∀ f ∈ w.inflight, f.seq = n →
        { f with done := true, writes := f.writes ++ [⟨.k kd, [(0, BitVec.ofNat 64 status)]⟩] } ∈ (t.warpAt h).inflight ∧ (t.warpAt h).lnwaits = [])

/-! ### Traps, handlers, special registers (chapter 19) -/

/-- R381, R383 to R387: TRAP_DISPATCH and HANDLER_WAVE_START. A warp whose run is over and whose counters are zero has its stopped thread dispatched: every result of it is in place, its record stands in the ring at index HEAD with LIVE = 1, and HEAD is 1 higher. Under DBG
the record is then left to the host; with a trap vector the thread joins a wave of its grid on its die; with neither the grid is killed. Nothing is dispatched while the next slot is live. A wave that is due starts in the free handler context of the lowest enabled core of the
partition, its lanes at the trap vector in the state of Table 19.4. Frame: memory outside the record, and every other warp, stay as they are.
The model's choices: which wave starts first (log 55), and a thread without vector and DBG still has its record (log 58). -/
def Obligations.TrapDelivery : Prop :=
  (∀ (wp : Nat) (s : State) (st : Stop),
    let w := s.warpAt wp
    let grid := (s.groupAt w.grp).grid
    let y := s.gridAt grid
    let ctx := s.ctxOf wp
    let c := s.ctxAt ctx
    let idx := c.trhead % 2 ^ c.trlogn
    let va := c.trbase * 64 + 64 * idx
    (SMap.find s.warps wp).isSome = true → s.mayDispatch wp = true → (w.stops.filter fun t => !t.dispatched) = [st] →
    ((∃ r ∈ c.live, r.idx = idx) → ∃ t, exec (.trapDispatch wp) s = .next t ∧ t.mem = s.mem ∧ t.ctxs = s.ctxs ∧ t.grids = s.grids ∧ (t.warpAt wp).stops = w.stops ∧ ∀ g, g ≠ wp → SMap.find t.warps g = SMap.find s.warps g) ∧
    (∀ x, (∀ r ∈ c.live, r.idx ≠ idx) → va < 2 ^ 57 → s.walk ctx va = .ok x → s.pageLost x = false → pteP x.pte = true → pteW x.pte = true → s.homeFailed (x.pa va) = false →
      let pa := x.pa va
      let vec := y.ds.trapv ≠ 0xFFFFFFFF
      (c.dbg = true ∨ vec → ∃ t, exec (.trapDispatch wp) s = .next t ∧ t.grids = s.grids ∧ (∀ g, g ≠ wp → SMap.find t.warps g = SMap.find s.warps g) ∧ (t.warpAt wp).pend = [] ∧ (t.warpAt wp).active = w.active ∧
        (t.warpAt wp).stops = (w.stops.map fun q => if q.lane = st.lane then { q with dispatched := true, recIdx := idx } else q) ∧
        (t.ctxAt ctx).trhead = (c.trhead + 1) % 2 ^ 32 ∧ (t.ctxAt ctx).live = c.live ++ [⟨idx, wp, st.lane, !c.dbg⟩] ∧
        (∀ a, a < pa ∨ pa + 64 ≤ a → t.mem.read a = s.mem.read a) ∧
        t.number pa 8 = ((if y.ds.coll then y.pk.domain else 0) * 2 ^ 58 + y.serial * 2 ^ 42 + (s.groupAt w.grp).gidx % 2 ^ 24 * 2 ^ 18 + w.widx % 32 * 2 ^ 13 + st.lane * 2 ^ 8 + st.cause) % 2 ^ 64 ∧
        t.number (pa + 8) 8 = st.pc.toNat ∧ t.number (pa + 16) 8 = st.ea % 2 ^ 64 ∧ t.number (pa + 24) 1 = st.detail % 256 ∧ t.number (pa + 25) 1 = st.aux % 256 ∧
        t.number (pa + 26) 1 = (if w.twin then 3 else 2) ∧ t.number (pa + 27) 1 = 0 ∧ t.number (pa + 28) 4 = st.mask.toNat ∧ t.number (pa + 32) 4 = st.axf.toNat ∧
        t.number (pa + 36) 4 = w.tmaskVal % 2 ^ 32 ∧ t.number (pa + 40) 8 = y.launch % 2 ^ 64 ∧ t.number (pa + 48) 8 = c.trhead % 2 ^ 64 ∧ t.number (pa + 56) 8 = 0 ∧
        (c.dbg = true → t.dies = s.dies) ∧
        (c.dbg = false → ∃ v ∈ (t.dieAt (coreDie w.core)).gathers ++ (t.dieAt (coreDie w.core)).waves, v.grid = grid ∧ (wp, st.lane, idx) ∈ v.members)) ∧
      (c.dbg = false → ¬ vec → (SMap.find s.grids grid).isSome = true → y.killed = false →
        ∃ t, exec (.trapDispatch wp) s = .next t ∧ (t.gridAt grid).killed = true ∧ SMap.find t.warps wp = none ∧ ∀ r ∈ (t.ctxAt ctx).live, r.warp ≠ wp))) ∧
  (∀ (die : Nat) (s : State) (g : Gather) (core : Nat),
    let d := s.dieAt die
    let due := d.gathers.filter fun x => decide (x.since + 64 ≤ s.clk)
    let ctx := (s.gridAt g.grid).ctx
    let y := s.gridAt g.grid
    let c := s.ctxAt ctx
    (d.waves ++ due).find? (fun x => s.waveMayStart x) = some g → s.handlerCore ctx die = some core → g.members.length ≤ 32 →
    (∃ t h w, exec (.handlerWaveStart die) s = .next t ∧ t.mem = s.mem ∧ t.groups = s.groups ∧ SMap.find s.warps h = none ∧ SMap.find t.warps h = some w ∧ (∀ n, n ≠ h → SMap.find t.warps n = SMap.find s.warps n) ∧
      (t.coreAt core).handler = some h ∧ (t.dieAt die).waves = (d.waves ++ due).filter (· != g) ∧ w.kind = .handler ∧ w.core = core ∧ w.lclk = 0 ∧ w.tmaskHold = true ∧ w.stops = [] ∧
      (∀ l, l < 32 → w.exited.getLsbD l = decide (g.members.length ≤ l)) ∧ w.rdK 1 = BitVec.ofNat 64 g.members.length ∧ w.rdK 2 = BitVec.ofNat 64 (c.trbase * 64) ∧ w.rdK 3 = BitVec.ofNat 64 y.launch ∧
      (∀ a, a < 6 → w.rdK (4 + a) = BitVec.ofNat 64 (y.pk.args.getD a 0)) ∧
      ∀ l o r n, g.members[l]? = some (o, r, n) → SMap.get 0 w.pcs l = BitVec.ofNat 64 (y.ds.code + y.ds.trapv) ∧ SMap.find w.origins l = some ⟨o, r, n⟩ ∧
        ∀ st, (s.warpAt o).stops.find? (fun q => q.lane == r) = some st →
          (w.rdV 0 l).toNat + (w.rdV 1 l).toNat * 2 ^ 32 = s.tagOf o r st.cause % 2 ^ 64 ∧ (w.rdV 2 l).toNat % 2 ^ 8 = st.detail % 2 ^ 8 ∧ (w.rdV 3 l).toNat + (w.rdV 4 l).toNat * 2 ^ 32 = st.ea % 2 ^ 64 ∧
          (w.rdV 5 l).toNat + (w.rdV 6 l).toNat * 2 ^ 32 = st.pc.toNat ∧ w.rdV 7 l = st.mask ∧ w.rdV 8 l = st.axf.zeroExtend 32 ∧ w.rdV 9 l = BitVec.ofNat 32 n) ∧
    s.coreEnabled core = true ∧ s.inPartition ctx (core / 8) = true ∧ (s.coreAt core).handler = none ∧ core / 96 = die ∧
    ∀ k, die * 96 ≤ k → k < core → ¬ (s.coreEnabled k = true ∧ s.inPartition ctx (k / 8) = true ∧ (s.coreAt k).handler = none))

/-- R392, R398, R399: what a handler does to its origins. rft outside a handler wave, and orgr and orgw there, trap with illegal operand 0x14. rft by one handler lane ends that lane and disposes of its origin thread: its record is no longer live, its marks are gone; resumed it stands
at its resume point, skipped after the trapping instruction, or it has exited; abort kills the grid. orgr gives each lane its origin's register, orgw puts a lane's value into it, a k register by halves, k0 and the constant predicates not at all. Frame: rft changes no byte of
memory but the record's FLAGS; orgr and orgw change none, and no other register.
The model's choice: a copy at a fault is retried by any resume of its thread (log 31). -/
def Obligations.HandlerInstructions : Prop :=
  (∀ (i : Instr) (s : State),
    ((∃ h m, i = .rft h m) ∨ (∃ h d n c dc, i = .orgr h d n c dc) ∨ (∃ h a n c dc, i = .orgw h a n c dc)) → s.Here → s.w.kind = .normal →
    ∃ t, exec i s = .next t ∧ s.Trapped t 0x03 (fun _ => 0x14) (fun l => s.w.active.getLsbD l) s.w.runPc) ∧
  (∀ (h : Hdr) (mode : RftMode) (s : State) (l : Nat) (o : Origin) (v : Warp) (st : Stop),
    s.Here → s.w.kind = .handler → lanesOf s.w.active = [l] → SMap.find s.w.origins l = some o → o.warp ≠ s.cur → SMap.find s.warps o.warp = some v → v.kind = .normal →
    v.stops.find? (fun q => q.lane == o.lane) = some st → st.late = none → s.groupColl v.grp = false →
    (mode ≠ .abort → ∃ t, exec (.rft h mode) s = .next t ∧ s.Disposed t o.warp o.lane o.recIdx mode v st ∧ t.w.exited = s.w.exited ||| s.w.active) ∧
    (mode = .abort → (SMap.find s.grids (s.groupAt v.grp).grid).isSome = true → (s.gridAt (s.groupAt v.grp).grid).killed = false →
      ∃ t, exec (.rft h mode) s = .next t ∧ (t.gridAt (s.groupAt v.grp).grid).killed = true ∧ SMap.find t.warps o.warp = none)) ∧
  (∀ (h : Hdr) (vd : Vr) (n : BitVec 6) (cls : OrgClass) (dc : Dc) (s : State), s.Here → s.w.kind = .handler → dc ≠ 7 →
    let i := Instr.orgr h vd n cls dc
    let value (l : Nat) : Word := match SMap.find s.w.origins l with
      | some o =>
        let v := s.warpAt o.warp
        match cls with
        | .v => v.rdV n.toNat o.lane
        | .k => BitVec.ofNat 32 ((v.rdK n.toNat).toNat % 2 ^ 32)
        | .kh => BitVec.ofNat 32 ((v.rdK n.toNat).toNat / 2 ^ 32)
        | .p => if v.rdP n.toNat o.lane then 1 else 0
        | .axf => BitVec.ofNat 32 (v.rdAxf o.lane).toNat
        | .fpc => BitVec.ofNat 32 v.fpc.toNat
      | none => 0
    ∃ t, exec i s = .next t ∧ s.OnlyWarp t ∧ s.Passed t i ∧ (t.w.uncounted s.w).still = s.w.still ∧ t.w.pend = s.w.pend ∧
      s.w.Counted t.w dc.toNat [.v vd.toNat] [⟨.v vd.toNat, (lanesOf s.w.active).map fun l => (l, (value l).zeroExtend 64)⟩]) ∧
  (∀ (h : Hdr) (va : Vr) (n : BitVec 6) (cls : OrgClass) (dc : Dc) (s : State) (l : Nat) (o : Origin) (v : Warp),
    s.Here → s.w.kind = .handler → lanesOf s.w.active = [l] → SMap.find s.w.origins l = some o → o.warp ≠ s.cur → SMap.find s.warps o.warp = some v →
    let i := Instr.orgw h va n cls dc
    let x := s.w.rdV va.toNat l
    ∃ t v', exec i s = .next t ∧ t.mem = s.mem ∧ t.groups = s.groups ∧ SMap.find t.warps o.warp = some v' ∧ (∀ g, g ≠ s.cur → g ≠ o.warp → SMap.find t.warps g = SMap.find s.warps g) ∧ t.w.runPc = s.w.runPc + BitVec.ofNat 64 (4 * i.words) ∧
      (t.w.uncounted s.w).still = s.w.still ∧ t.w.pend = s.w.pend ∧ v'.pcs = v.pcs ∧ v'.stops = v.stops ∧
      (∀ r m, m < 32 → o.lane < 32 → v'.rdV r m = if cls = .v ∧ r = n.toNat ∧ m = o.lane then x else v.rdV r m) ∧
      (∀ r, v'.rdK r = if r = n.toNat ∧ r ≠ 0 ∧ cls = .k then BitVec.ofNat 64 ((v.rdK r).toNat / 2 ^ 32 * 2 ^ 32 + x.toNat)
        else if r = n.toNat ∧ r ≠ 0 ∧ cls = .kh then BitVec.ofNat 64 (x.toNat * 2 ^ 32 + (v.rdK r).toNat % 2 ^ 32) else v.rdK r) ∧
      (∀ r m, m < 32 → o.lane < 32 → v'.rdP r m = if cls = .p ∧ r = n.toNat ∧ m = o.lane ∧ r ≠ 62 ∧ r ≠ 63 then x.getLsbD 0 else v.rdP r m) ∧
      (∀ m, v'.rdAxf m = if cls = .axf ∧ m = o.lane then BitVec.ofNat 6 x.toNat else v.rdAxf m) ∧ v'.fpc = if cls = .fpc then BitVec.ofNat 4 x.toNat else v.fpc)

/-- R139, R394 to R397: gets gives a special register's value of Table 19.6 two counts later: to each active lane its own, to a k register that of the lowest active lane. sets AXF changes the flags of the active lanes at once, each its own
from a v register, all alike from a k register; a sets of a register that is not writable traps with illegal operand 0x13. tmr writes the die's counter, or t + TOFF + floor(t × RATE ÷ 2^32) modulo 2^64, on its counter. (A warp of a group.) Frame: nothing else changes.
The model's choices: AXF stands as a word issues (log 15), the die's counter runs at 5/9 of a clk (log 11), and HOLD keeps its value through sets (log 67). -/
def Obligations.SpecialRegisters : Prop :=
  (∀ (h : Hdr) (r : BitVec 6) (sr : SReg) (rk : Bool) (s : State), s.Here → s.w.kind = .normal → (sr = .axf → s.flagsSettled = true) →
    let i := Instr.gets h r sr rk
    let goes (t : State) : Prop := exec i s = .next t ∧ s.OnlyWarp t ∧ s.Passed t i ∧ t.w.still = s.w.still
    (rk = true → ∃ t, goes t ∧ s.w.GivesK t.w 2 r.toNat (BitVec.ofNat 64 (s.specialReg sr (lowLane s.w.active))) ∧ s.w.OnlyResults t.w [.k r.toNat]) ∧
    (rk = false → s.w.isWindow r.toNat = false → ∃ t, goes t ∧ s.w.Gives t.w 2 (.v r.toNat) (fun l => BitVec.ofNat 64 (s.specialReg sr l % 2 ^ 32)) ∧ s.w.OnlyResults t.w [.v r.toNat]) ∧
    (rk = false → s.w.isWindow r.toNat = true → ∃ t, exec i s = .next t ∧ s.Trapped t 0x03 (fun _ => 0x05) (fun l => s.w.active.getLsbD l) s.w.runPc)) ∧
  (∀ (h : Hdr) (r : BitVec 6) (rk : Bool) (s : State) (fs : Reads) (pops : SMap Nat), s.Here → s.w.readRegs (if rk then [] else [r.toNat]) [] = .ok (fs, pops) →
    let i := Instr.sets h r .axf rk
    let value (l : Nat) : Nat := if rk then (s.w.rdK r.toNat).toNat else (fs.at_ 0 l).toNat
    ∃ t, exec i s = .next t ∧ s.OnlyWarp t ∧ s.Passed t i ∧ { t.w with axf := s.w.axf }.still = (s.w.freePops pops).still ∧ t.w.pend = s.w.pend ∧
      ∀ l, l < 32 → t.w.rdAxf l = if s.w.active.getLsbD l then BitVec.ofNat 6 (value l) else s.w.rdAxf l) ∧
  (∀ (h : Hdr) (r : BitVec 6) (sr : SReg) (rk : Bool) (s : State), s.Here → s.w.kind = .normal →
    sr ≠ .fpc → sr ≠ .axf → sr ≠ .tmask → sr ≠ .bx1 → sr ≠ .bx2 → sr ≠ .bx3 →
    ∃ t, exec (.sets h r sr rk) s = .next t ∧ s.Trapped t 0x03 (fun _ => 0x13) (fun l => s.w.active.getLsbD l) s.w.runPc) ∧
  (∀ (h : Hdr) (kd : Kr) (master : Bool) (dc : Dc) (s : State), s.Here → dc ≠ 7 →
    let i := Instr.tmr h kd master dc
    let d := s.dieAt (coreDie s.w.core)
    let n : Nat := match d.released with
      | some r => nsOf (s.clk - r) % 2 ^ 64
      | none => 0
    let x : DWord := if master then BitVec.ofInt 64 (n + d.toff + (n * d.trate).fdiv (2 ^ 32)) else BitVec.ofNat 64 n
    ∃ t, exec i s = .next t ∧ s.OnlyWarp t ∧ s.Passed t i ∧ (t.w.uncounted s.w).still = s.w.still ∧ t.w.pend = s.w.pend ∧ s.w.Counted t.w dc.toNat [.k kd.toNat] [⟨.k kd.toNat, [(0, x)]⟩])

/-! ### Contexts, fencing, management (chapters 19 and 22) -/

/-- R200, R231, R257, R275, R354, R366 to R369, R382, R385, R400 to R406, R423, R425: a context's pre-emption from its request to its restore, and what the management plane does to units and tables. A request for pre-emption starts the drain, a request for a restore the restore, each only in the states of
Table 19.11; at the deadline the save begins; the cut takes every halted warp off its core with its registers, and puts each core's segments, with their sequence numbers and CRCs, into the core's shadow store; the image is whole, or at its deadline the grids are killed; a restore of an image that passes its check puts warps on enabled cores of the partition without groups, with registers, scratchpad and tiles from the segments. A fence of a core, cluster, die, HBM row or lane sets the fenced bits, raises the table
version and asks the contexts on the unit for a save; it waits while one is being saved; sectors its caches held alone, or that HBM cannot give, are lost; a failed core loses those sectors and the groups on it; the watchdog pre-empts, kills and fences in turn. Frame: what is not named stays as it is.
The model's choices: how the payloads of segments are packed, and when an image is staged (log 13), ranks out of range (log 80), where a restore puts the images (log 53), how a fence deals gangs again (log 54), the unit numbers of error records (log 64), and the size of a returned page (log 66). -/
def Obligations.Contexts : Prop :=
  (∀ (c v idx : Nat) (s : State), s.mgmt.boot = .recovery →
    exec (.ctxctlPrq c) s = .next s ∧ exec (.ctxctlRsq c) s = .next s ∧ exec (.ctxpasidWrite c v) s = .next s ∧ exec (.trresWrite c idx) s = .next s) ∧
  (∀ (c : Nat) (s : State), c < 64 → s.mgmt.boot ≠ .recovery →
    let x := s.ctxAt c
    (x.restoring = false → x.draining = false → x.saving = false → x.saved = false →
      exec (.ctxctlPrq c) s = .next (s.setCtx c { x with draining := true, incomplete := false, prqAt := s.clk, forFence := false })) ∧
    (x.restoring = true → ∃ t, exec (.ctxctlPrq c) s = .next t ∧ (t.ctxAt c).heldPrq = true ∧ (t.ctxAt c).draining = x.draining ∧ t.warps = s.warps) ∧
    (x.restoring = false → x.draining = false → x.saving = false → x.saved = true → exec (.ctxctlPrq c) s = .next s ∧
      ∃ t, exec (.ctxctlRsq c) s = .next t ∧ t.ctxAt c = { x with restoring := true } ∧ t.mem = s.mem ∧ t.warps = s.warps ∧ t.groups = s.groups ∧
        (∀ k y, SMap.find s.shadow k = some y → SMap.find t.shadow k = some y) ∧
        ∀ k im, SMap.find s.shadow k = none → x.image = some im →
          (∀ m, im.cores.filter (fun m => m.core == k) = [m] → SMap.find t.shadow k = (s.savedSegs c m.logical 2240 0).map fun segs => { ctx := c, logical := m.logical, slots := segs, staged := true, out := none }) ∧
          ((∀ m ∈ im.cores, m.core ≠ k) → SMap.find t.shadow k = none)) ∧
    (x.saved = false → exec (.ctxctlRsq c) s = exec (.errorRecord ⟨0x000B, 1, c, 0, 0xFFFFFFFF, 1, 0, x.st⟩) s)) ∧
  (∀ (c : Nat) (s : State), let x := s.ctxAt c
    x.draining = true → x.saving = false → (∀ e ∈ s.groups, (s.gridAt e.2.grid).ctx ≠ c) ∨ x.prqAt + 1800 * x.pdl ≤ s.clk → exec (.preemptDeadline c) s = .next (s.setCtx c { x with saving := true, saveAt := s.clk })) ∧
  (∀ (c v : Nat) (s : State), c < 64 → s.mgmt.boot ≠ .recovery →
    let taken := v.testBit 31 = true ∧ ∃ e ∈ s.ctxs, e.1 ≠ c ∧ e.2.bound = true ∧ e.2.pasid = v % 2 ^ 20
    (taken → exec (.ctxpasidWrite c v) s = .next s) ∧ (¬ taken → exec (.ctxpasidWrite c v) s = .next (s.setCtx c { s.ctxAt c with bound := v.testBit 31, pasid := v % 2 ^ 20 }))) ∧
  (∀ (c idx : Nat) (s : State) (r : LiveRec) (b : Byte) (mode : RftMode) (v : Warp) (st : Stop),
    let x := s.ctxAt c
    s.mgmt.boot ≠ .recovery → x.live.find? (fun r => r.idx == idx && !r.served) = some r → s.peekVa c (x.trbase * 64 + 64 * idx + 27) 1 = .ok [b] → RftMode.ofNat? (b.toNat % 4) = some mode → mode ≠ .abort →
    SMap.find s.warps r.warp = some v → v.kind = .normal → s.ctxOf r.warp = c → v.stops.find? (fun q => q.lane == r.lane) = some st → st.late = none → s.groupColl v.grp = false →
    ∃ t, exec (.trresWrite c idx) s = .next t ∧ s.Disposed t r.warp r.lane idx mode v st) ∧
  (∀ (c : Nat) (s : State), (s.ctxAt c).saving = true → (s.ctxAt c).image = none → s.allHalted c = true → SMap.rising s.warps = true →
    let of (v : Warp) : Prop := (s.gridAt (s.groupAt v.grp).grid).ctx = c
    ∃ t im, exec (.segmentCut c) s = .next t ∧ (t.ctxAt c).image = some im ∧
      (∀ a, a < (s.ctxAt c).savebase * 2 ^ 21 → (∀ e ∈ s.shadow, a < (s.ctxAt e.2.ctx).savebase * 2 ^ 21) → t.mem.read a = s.mem.read a) ∧
      ((∀ e ∈ s.shadow, e.2.ctx = c) → (∀ m ∈ im.cores, (s.segments c m).length ≤ 2240) → t.mem = s.mem) ∧
      (∀ m ∈ im.cores, ∃ x, SMap.find t.shadow m.core = some x ∧ x.ctx = c ∧ x.logical = m.logical ∧ 2 ≤ x.slots.length ∧ ∀ i b, x.slots[i]? = some b → b.length = 4096 ∧ segOk b i = true) ∧
      (∀ h v, SMap.find s.warps h = some v → of v → ∃ v', SMap.find t.warps h = some v' ∧ v'.halted = true ∧ v'.v = v.v ∧ v'.k = v.k ∧ v'.p = v.p ∧ v'.pcs = v.pcs ∧ v'.axf = v.axf ∧ v'.specials = v.specials ∧ v'.lclk = v.lclk) ∧
      (∀ h v, SMap.find s.warps h = some v → of v → ∀ k, h ∉ (t.coreAt k).slots) ∧
      (∀ g x, SMap.find s.groups g = some x → (s.gridAt x.grid).ctx = c → (∃ m ∈ im.cores, m.core = x.core) ∧ ((SMap.find s.cores x.core).isSome = true → (t.coreAt x.core).grid = none)) ∧
      ∀ g x, SMap.find s.grids g = some x → SMap.find t.grids g = some (if x.ctx = c then { x with saved := true } else x)) ∧
  (∀ (c : Nat) (s : State), let x := s.ctxAt c
    x.saving = true →
    (x.image ≠ none → ∃ t, exec (.saveComplete c) s = .next t ∧ t.ctxAt c = { x with saving := false, draining := false, saved := true, restoring := x.forFence, forFence := false } ∧ t.mem = s.mem ∧ t.warps = s.warps) ∧
    (x.image = none → x.saveAt + 1800 * x.sdl ≤ s.clk → ∃ t, exec (.saveDeadline c) s = .next t ∧ (t.ctxAt c).incomplete = true ∧ (t.ctxAt c).saved = false ∧ (t.ctxAt c).saving = false ∧
      ∀ g y, SMap.find s.grids g = some y → y.ctx = c → (t.gridAt g).killed = true)) ∧
  (∀ (c : Nat) (s : State), let x := s.ctxAt c
    x.restoring = true →
    (x.image = none ∨ (∃ im, x.image = some im ∧ s.imageOk c im = false) → ∃ t, exec (.restoreComplete c) s = .next t ∧ (t.ctxAt c).incomplete = true ∧ (t.ctxAt c).restoring = false ∧
      ∀ g y, SMap.find s.grids g = some y → y.ctx = c → (t.gridAt g).killed = true) ∧
    (∀ im to_ u, x.image = some im → s.imageOk c im = true → s.placeImages c im.cores [] = some to_ → s.putImages c im.cores to_ = some u → x.heldPrq = false → SMap.rising s.warps = true → SMap.rising s.groups = true →
      (im.cores.map (·.core)).Nodup →
      (∀ e ∈ to_, s.coreEnabled e.2 = true ∧ s.inPartition c (e.2 / 8) = true ∧ s.residents e.2 = 0) ∧
      ∃ t, exec (.restoreComplete c) s = .next t ∧ t.mem = s.mem ∧ (t.ctxAt c).saved = false ∧ (t.ctxAt c).restoring = false ∧ (t.ctxAt c).image = none ∧
        ∀ m ∈ im.cores,
          let field (kind at_ n : Nat) : Nat := ofBytes (((s.kindBytes c m kind 2560 0).drop at_).take n)
          (∀ j h v, (s.imageWarps c m.core)[j]? = some (h, v) → v.marks = [] →
            let u0 := Warp.idle.uregBytes.length * j
            ∃ v', SMap.find t.warps h = some v' ∧ v'.halted = false ∧ v'.core = (SMap.find to_ v.core).getD v.core ∧ v'.pcs = v.pcs ∧ v'.stops = v.stops ∧ v'.axf = v.axf ∧ v'.runWords = 0 ∧
              (∀ r l, r < 64 → l < 32 → (v'.rdV r l).toNat = field 2 (8192 * j + 128 * r + 4 * l) 4) ∧ (∀ r, 0 < r → r < 64 → (v'.rdK r).toNat = field 3 (u0 + 8 * r) 8) ∧
              (∀ r l, r < 48 → l < 32 → v'.rdP r l = (field 3 (u0 + 512 + 4 * r) 4).testBit l)) ∧
          (∀ pre g side post, s.imageSides c m.core = pre ++ (g, side) :: post → ∀ a, a < s.splOf g →
            ((t.groupAt g).side side).read a = (s.kindBytes c m 4 2560 0).getD ((pre.map fun e => s.splOf e.1).sum + a) 0) ∧
          (∀ d, SMap.find to_ m.core = some d → (∀ m' ∈ im.cores, m'.core ≠ m.core → SMap.find to_ m'.core ≠ some d) →
            ∀ x i, x < (s.gridAt m.grid).ds.acc → i < 4096 → (t.cell d x (i / 64) (i % 64)).toNat = field 5 (16384 * x + 4 * i) 4))) ∧
  (∀ (sec : Bool) (u : FUnit) (s : State),
    let cores := unitCores u
    let ok := s.mgmt.session = false ∨ sec = true
    (¬ ok ∨ unitOk u = false → exec (.fenceUnit sec u) s = .next s) ∧
    (ok → unitOk u = true → s.fenceWaits cores = true → u ∉ s.mgmt.fences → exec (.fenceUnit sec u) s = .next (s.modMgmt fun m => { m with fences := m.fences ++ [u] })) ∧
    (ok → unitOk u = true → s.fenceWaits cores = false → s.Calm →
      ∃ t, exec (.fenceUnit sec u) s = .next t ∧ t.groups = s.groups ∧ u ∉ t.mgmt.fences ∧ t.mgmt.version = (s.mgmt.version + 1) % 65536 ∧
        (∀ d b, (t.dieAt d).fenced.testBit b = ((s.dieAt d).fenced.testBit b || decide (96 * d + b ∈ cores ∧ b < 96))) ∧
        (∀ e ∈ s.warps, e.2.core ∈ cores → e.2.halted = false → let c := s.ctxOf e.1; (s.ctxAt c).saved = false → (t.ctxAt c).draining = true ∧ (t.ctxAt c).forFence = true) ∧
        (∀ a ∈ unitAgents u, t.quires a = []) ∧ (∀ n, u = .core n → ∀ f x, s.Alone n f x → t.Lost (f * 64 + x)) ∧
        (∀ d bank frames, u = .hbm d bank frames → (∀ f ∈ frames, ∀ x, x < 64 → Config.hbmUnreadable (f * 64 + x) = true → t.Lost (f * 64 + x)) ∧
          ∀ y ∈ t.lost, y ∈ s.lost ∨ Config.hbmUnreadable y = true ∧ y / 64 ∈ frames) ∧
        ∀ p l, u = .lane p l → t.ports = (s.loseLane p).ports)) ∧
  (∀ (n : Nat) (s : State),
    ∃ t, exec (.agentFailure (.core n)) s = .next t ∧ t.quires n = [] ∧
      (s.Calm → (∀ e ∈ s.ctxs, e.2.live = []) → (∀ e ∈ s.warps, e.2.handEnd = []) → ∀ f x, s.Alone n f x → t.Lost (f * 64 + x)) ∧
      ∀ g x, SMap.find s.groups g = some x → x.core = n ∨ x.follower = some n → (SMap.find s.grids x.grid).isSome = true → (s.gridAt x.grid).saved = false → (t.gridAt x.grid).killed = true) ∧
  (∀ (q : Nat) (s : State) (t0 : Nat),
    let x := s.queueAt q
    let pre := x.qwd % 2 ^ 12
    let kill := x.qwd / 2 ^ 12 % 2 ^ 10
    let fence := x.qwd / 2 ^ 22 % 2 ^ 10
    x.wdSince = some t0 →
    (pre ≠ 0 → x.wdStep = 0 → t0 + 1800000 * pre ≤ s.clk → ∃ t, exec (.watchdogPreempt q) s = .next t ∧ t.warps = s.warps ∧ t.mem = s.mem ∧ (t.queueAt q).wdStep = 1 ∧
      ∀ g y, SMap.find s.grids g = some y → y.queue = q → y.st ≠ .held → y.saved = false → (s.ctxAt y.ctx).restoring = false → (s.ctxAt y.ctx).saving = false → (s.ctxAt y.ctx).saved = false → (t.ctxAt y.ctx).draining = true) ∧
    (kill ≠ 0 → x.wdStep = 1 → t0 + 1800000 * (pre + kill) ≤ s.clk → (∀ e ∈ s.grids, (s.ctxAt (s.gridAt e.1).ctx).saving = false) → ∃ t, exec (.watchdogKill q) s = .next t ∧ (t.queueAt q).wdStep = 2 ∧
      ∀ g y, SMap.find s.grids g = some y → y.queue = q → y.st ≠ .held → y.saved = false → (t.gridAt g).killed = true) ∧
    (fence ≠ 0 → x.wdStep = 2 → t0 + 1800000 * (pre + kill + fence) ≤ s.clk → ∃ t, exec (.watchdogFence q) s = .next t ∧ (t.queueAt q).wdStep = 3 ∧
      ∀ e ∈ s.warps, let y := s.gridAt (s.groupAt e.2.grp).grid; y.killed = true → y.queue = q → (t.dieAt (e.2.core / 96)).fenced.testBit (e.2.core % 96) = true ∨ FUnit.core e.2.core ∈ t.mgmt.fences)) ∧
  (∀ (sec : Bool) (c mask dom comm ranks rank : Nat) (s : State),
    let x := s.ctxAt c
    let m := mask % 2 ^ 288
    let ok := s.mgmt.session = false ∨ sec = true
    (¬ ok → exec (.assignPartition sec c mask) s = .next s ∧ exec (.assignDomain sec dom c) s = .next s ∧ exec (.setCommunicator sec comm ranks rank) s = .next s) ∧
    (ok → c < 64 → (∀ e ∈ s.ctxs, e.1 ≠ c → e.2.partition &&& m = 0) → (∀ e ∈ s.grids, e.2.ctx ≠ c) → x.image = none → m ≠ x.partition →
      exec (.assignPartition sec c mask) s = .next ((s.setCtx c { x with partition := m }).modMgmt fun y => { y with version := (y.version + 1) % 65536 })) ∧
    (∀ e ∈ s.ctxs, e.1 ≠ c → e.2.partition &&& m ≠ 0 → exec (.assignPartition sec c mask) s = .next s) ∧
    (ok → dom < 64 → c < 64 → exec (.assignDomain sec dom c) s = .next (s.setDom dom { s.domAt dom with owner := some c })) ∧
    (ok → comm < 256 → 0 < ranks → ranks ≤ 512 → rank < ranks → exec (.setCommunicator sec comm ranks rank) s = .next { s with comms := SMap.put s.comms comm { ranks := ranks, rank := rank, issued := 0, completed := 0 } }) ∧
    (256 ≤ comm ∨ ranks = 0 ∨ 512 < ranks ∨ ranks ≤ rank → exec (.setCommunicator sec comm ranks rank) s = .next s)) ∧
  (∀ (sec : Bool) (page : Nat) (s : State), s.mgmt.session = false ∨ sec = true → page ∈ s.lostPages →
    ∃ t n, exec (.returnLostPage sec page) s = .next t ∧ ((∀ e, s.pageLeaf page = some e → n = tierSize (pteTier e)) ∧ (s.pageLeaf page = none → n = 4096)) ∧ (∀ a, t.mem.read a = if page ≤ a ∧ a < page + n then 0 else s.mem.read a) ∧ page ∉ t.lostPages ∧ t.warps = s.warps ∧
      (∀ p ∈ s.lostPages, p ≠ page → p ∈ t.lostPages) ∧ ∀ x, x ∈ t.lost ↔ x ∈ s.lost ∧ (x * 32 < page ∨ page + n ≤ x * 32))

/-- R28, R204, R286, R287, R396, R416 to R422, R424, R426: the management plane, the links and the host. PWRLIM is kept within 1600 to 4000 W. ERRACK moves only up to ERRHEAD, reading ERRLOST clears it, and a record of a type of Table 22.9 goes to the ring in host memory in the layout of Table 22.8 while it is enabled and has room, else to the buffer of 256, else it is counted.
A register write does what the register's own event does, and one of a part keeps the rest; a read gives what the register or log holds; in recovery state all but Table 22.1 and the logs is absent. PACKAGE_RESET keeps memory, the harvested cores and the image; a start-up step logs its unit and releases its die or takes the alternative of Table 22.4.
Each SPDM request gets one answer, measurements hold the blocks of R422, signed once algorithms are negotiated. A bubble is scheduled at least 20 µs ahead, cancelled 2 µs before its start without every acknowledgement, and else halts and resumes each die by its master time. Flits are taken in order, again from the first unacknowledged one after a bad CRC; a spare takes the place of a failed lane, then the port narrows to 4;
the writes of a stream perform once each, a release-ordered one after all before it, a relaxed one under those of later numbers; a host access performs at memory, with the bias of a page that has one at the host. Frame: what is not named stays as it is.
The model's choices: the unit numbers of start-up (log 60), the order of SPDM requests (log 61, PRESUMED), what its functions give (log 9), the end of a bubble (log 62), lanes (logs 3, 63), physical addresses (log 12), streams (log 65), what PACKAGE_RESET keeps (log 59), register writes of a part (log 70). -/
def Obligations.ManagementAndHost : Prop :=
  (∀ (v : Nat) (sec : Bool) (s : State),
    let limited := s.modMgmt fun m => { m with pwrlim := min 4000 (max 1600 (v % 2 ^ 12)) }
    exec (.pwrlimWrite v) s = .next limited ∧ exec (.registerWrite 0x08 v 4) s = .next limited ∧
    (s.mgmt.session = false ∨ sec = true → exec (.setPowerLimit sec v) s = .next limited) ∧ (s.mgmt.session = true → exec (.setPowerLimit false v) s = .next s) ∧
    (s.mgmt.boot = .recovery → exec (.errackWrite v) s = .next s ∧ exec (.errbaseWrite v) s = .next s ∧ exec .errlostRead s = .next s ∧ ∀ off size, off + size ≤ 0x08 ∨ 0x0C ≤ off → exec (.registerWrite off v size) s = .next s) ∧
    (s.mgmt.boot ≠ .recovery →
      let n : Nat := v % 2 ^ 32
      let from_ (x : Nat) : Int := ((x : Int) - s.mgmt.errAck) % 2 ^ 32
      (from_ n ≤ from_ s.mgmt.errHead → s.mgmt.errBuf = [] → exec (.errackWrite v) s = .next (s.modMgmt fun m => { m with errAck := n })) ∧
      (¬ from_ n ≤ from_ s.mgmt.errHead → exec (.errackWrite v) s = .next s) ∧
      (s.mgmt.errBuf = [] → exec (.errbaseWrite v) s = .next (s.modMgmt fun m =>
        { m with errBase := v / 2 ^ 12 % 2 ^ 52, errLogn := if 6 ≤ v / 2 % 2 ^ 5 ∧ v / 2 % 2 ^ 5 ≤ 16 then v / 2 % 2 ^ 5 else 6, errEn := v.testBit 0 })) ∧
      exec .errlostRead s = .next (s.modMgmt fun m => { m with hostReads := m.hostReads ++ [m.errLost], errLost := 0 }) ∧
      (∀ q p, q < 64 → p < 4 → exec (.registerWrite (0x100000 + 256 * q + 0x1C + 16 * p) v 4) s = exec (.tailWrite q p v) s) ∧
      (∀ q, q < 64 → exec (.registerWrite (0x100000 + 256 * q) v 4) s = exec (.qctlEnWrite q v) s ∧ (v.testBit 31 = true → exec (.registerWrite (0x100000 + 256 * q + 4) v 4) s = exec (.qerrErrClear q) s) ∧
        (v.testBit 31 = false → exec (.registerWrite (0x100000 + 256 * q + 4) v 4) s = .next s)) ∧
      (∀ c, c < 64 → exec (.registerWrite (0x200000 + 64 * c + 0x30) v 4) s = exec (.ctxpasidWrite c v) s ∧ exec (.registerWrite (0x200000 + 64 * c + 0x18) v 4) s = exec (.trresWrite c (v % 2 ^ 32)) s ∧
        exec (.registerWrite (0x200000 + 64 * c + 0x10) v 4) s = .next (s.setCtx c { s.ctxAt c with pdl := v % 2 ^ 20 }) ∧
        exec (.registerWrite (0x200000 + 64 * c + 0x11) v 1) s = .next (s.setCtx c { s.ctxAt c with pdl := ((s.ctxAt c).pdl % 2 ^ 8 + v % 2 ^ 8 * 2 ^ 8 + (s.ctxAt c).pdl / 2 ^ 16 * 2 ^ 16) % 2 ^ 20 })) ∧
      (∀ c, c < 64 → exec (.registerWrite (0x200000 + 64 * c + 0x28) v 8) s = .next (s.setCtx c { s.ctxAt c with troot := v / 2 ^ 12 % 2 ^ 40 * 2 ^ 12 })))) ∧
  (∀ s : State,
    s.barRead 0x00 8 = s.inv % 2 ^ 64 ∧ s.barRead 0x08 4 = s.mgmt.pwrlim % 2 ^ 32 ∧
    (s.mgmt.boot = .recovery → ∀ off, 0x0C ≤ off → off + 4 ≤ 0x1000 ∨ max 0x3000 (0x2000 + 16 * s.mgmt.prevLog.length) ≤ off → s.barRead off 4 = 0) ∧
    (let entry (off : Nat) (e : BootEntry) : Prop := s.barRead off 2 = e.step % 2 ^ 16 ∧ s.barRead (off + 2) 2 = e.unit % 2 ^ 16 ∧ s.barRead (off + 4) 4 = e.result % 2 ^ 8 ∧ s.barRead (off + 8) 8 = e.time % 2 ^ 64
     (∀ j e, j < 256 → s.mgmt.log[j]? = some e → entry (0x1000 + 16 * j) e) ∧ (∀ j e, j < 0xFE00 → s.mgmt.prevLog[j]? = some e → entry (0x2000 + 16 * j) e)) ∧
    (s.mgmt.boot ≠ .recovery →
      s.barRead 0x18 4 = s.mgmt.errHead % 2 ^ 32 ∧ s.barRead 0x20 4 = s.mgmt.errLost % 2 ^ 32 ∧
      (∀ q p, q < 64 → p < 4 → s.barRead (0x100000 + 256 * q + 0x1C + 16 * p) 4 = (s.queueAt q).tailOf p % 2 ^ 32 ∧ s.barRead (0x100000 + 256 * q + 0x18 + 16 * p) 4 = (s.queueAt q).headOf p % 2 ^ 32) ∧
      ∀ c, c < 64 → s.barRead (0x200000 + 64 * c + 0x18) 4 = 0 ∧ s.barRead (0x200000 + 64 * c + 0x0C) 4 = (if (s.ctxAt c).dbg then 4 else 0) ∧ s.barRead (0x200000 + 64 * c + 0x1C) 4 = (s.ctxAt c).st)) ∧
  (∀ (r : ErrRec) (s : State),
    let m := s.mgmt
    let a := (m.errBase * 4096 + 64 * (m.errHead % 2 ^ m.errLogn)) % 2 ^ 64
    let listed := 1 ≤ r.type ∧ r.type ≤ 12
    let open_ := m.errEn = true ∧ (((m.errHead : Int) - m.errAck) % 2 ^ 32) < 2 ^ m.errLogn
    (¬ listed → exec (.errorRecord r) s = .next s) ∧
    (listed → 256 ≤ m.errBuf.length → exec (.errorRecord r) s = .next (s.modMgmt fun m => { m with errLost := min (m.errLost + 1) 0xFFFFFFFF })) ∧
    (listed → m.errBuf = [] → m.errAck < 2 ^ 32 → m.errHead < 2 ^ 32 → open_ →
      ∃ t, exec (.errorRecord r) s = .next t ∧ t.mgmt = { m with errHead := (m.errHead + 1) % 2 ^ 32, errSeq := m.errSeq + 1 } ∧ t.warps = s.warps ∧ t.mem = s.mem ∧
        let field (o n : Nat) : Nat := ofBytes (t.hostMem.readN (a + o) n)
        (∀ x, x < a ∨ a + 64 ≤ x → t.hostMem.read x = s.hostMem.read x) ∧ field 0 2 = r.type % 2 ^ 16 ∧ field 2 1 = r.plane % 2 ^ 8 ∧ field 3 1 = r.ctx % 2 ^ 8 ∧ field 4 4 = 0 ∧ field 8 8 = m.errSeq % 2 ^ 64 ∧
        field 16 8 = s.masterTime 24 ∧ field 24 8 = r.launch % 2 ^ 64 ∧ field 32 4 = r.unit % 2 ^ 32 ∧ field 36 4 = r.code % 2 ^ 32 ∧ field 40 8 = r.addr % 2 ^ 64 ∧ field 48 16 = r.data % 2 ^ 128) ∧
    (listed → m.errBuf = [] → m.errAck < 2 ^ 32 → m.errHead < 2 ^ 32 → ¬ open_ → exec (.errorRecord r) s = .next (s.modMgmt fun m => { m with errBuf := [(m.errSeq, s.masterTime 24, r)], errSeq := m.errSeq + 1 }))) ∧
  (∀ s : State, ∃ t, exec .packageReset s = .next t ∧ t.mem = s.mem ∧ t.hostMem = s.hostMem ∧ t.warps = [] ∧ t.groups = [] ∧ t.grids = [] ∧ t.ctxs = [] ∧ t.queues = [] ∧ t.cache = { Caches.reset with home := s.mem } ∧
    t.mgmt = { Mgmt.reset with prevLog := s.mgmt.log, image := s.mgmt.image, imageVer := s.mgmt.imageVer, fuseVer := s.mgmt.fuseVer } ∧
    (∀ d, t.dieAt d = { Die.reset with harvested := (s.dieAt d).harvested }) ∧
    ∀ n, t.portOf n = { Port.start n with speed := (s.portOf n).speed, lanes := if (s.portOf n).lanes = 0 then 0 else (Port.start n).lanes }) ∧
  (∀ (unit sub step k : Nat) (passed : Bool) (s : State), s.mgmt.boot = .starting step → 0 < step → step ≤ 6 →
    let num := if step = 3 then (if sub = 0 then unit else 0x8000 + unit * 12 + (sub - 1)) else unit
    let units := if step = 3 then 24 * 13 else if step = 4 then 8 else if step = 5 then 16 else if step = 6 then 2 else 1
    (s.mgmt.log.filter fun e => e.step == step).length = k → (if step = 3 then unit * 13 + sub else unit) = k → (step = 3 → sub < 13) → k < units →
    let failed := ∃ e ∈ s.mgmt.prevLog, e.step = step ∧ e.unit = num ∧ e.result = 1
    let off := step = 3 ∧ sub ≠ 0 ∧ (∃ e ∈ s.mgmt.log, e.step = 3 ∧ e.unit = unit ∧ e.result ≠ 0) ∨ step = 5 ∧ (s.portOf k).lanes = 0
    let fit := passed = true ∧ (step = 1 → s.mgmt.fuseVer ≤ s.mgmt.imageVer)
    ∃ t, exec (.startUpStep unit sub passed) s = .next t ∧
      let logged (result : Nat) : Prop := t.mgmt.log = s.mgmt.log ++ [⟨step, num, result, t.rawTime 0⟩]
      let on_ := t.mgmt.boot = if k + 1 < units then Boot.starting step else if step = 6 then .done else .starting (step + 1)
      let ends := t.mgmt.boot = .recovery ∧ t.mgmt.secure = false
      let up := (step = 1 → t.mgmt.secure = true) ∧ (step = 2 → (t.dieAt 24).released = some s.clk) ∧ (step = 3 → sub = 0 → (t.dieAt unit).released = some s.clk) ∧ (step = 4 → (t.dieAt (25 + unit)).released = some s.clk)
      let down := (step = 3 → ∀ c, (if sub = 0 then c / 96 = unit else c / 8 = unit * 12 + (sub - 1)) → (t.dieAt (c / 96)).fenced.testBit (c % 96) = true) ∧ (step = 4 → t.failedHomes = s.failedHomes ++ [Config.homeRange unit]) ∧
        (step = 5 → let p := s.portOf k; t.portOf k = if p.speed < 3 then { p with speed := p.speed + 1 } else { p with lanes := 0 }) ∧ (step = 6 → let p := s.portOf (16 + k); t.portOf (16 + k) = { p with speed := min 3 (p.speed + 1) })
      (off → logged 2 ∧ on_ ∧ t.dies = s.dies ∧ t.ports = s.ports) ∧
      (¬ off → failed → (step ≤ 2 → logged 2 ∧ ends) ∧ (step = 3 ∨ step = 4 → logged 3 ∧ on_ ∧ down)) ∧
      (¬ off → ¬ failed ∨ 5 ≤ step → (fit → on_ ∧ up ∧ (failed → logged 3) ∧ (¬ failed → logged 0)) ∧ (¬ fit → logged 1 ∧ down ∧ (step ≤ 2 → ends) ∧ (3 ≤ step → on_)))) ∧
  (∀ (i : Instr) (kind need : Nat) (next : Option Nat) (content : List Byte) (s : State),
    let digest := Config.shake256
    let signed (bs : List Byte) : List Byte := if s.mgmt.algs then bs ++ Config.falcon1024 (digest bs) else bs
    let blocks := s.mgmt.image ++ toBytes 8 s.inv ++ ((List.range 24).flatMap fun d => toBytes 12 (s.dieAt d).harvested) ++ digest (s.mgmt.log.flatMap fun e => toBytes 2 e.step ++ toBytes 2 e.unit ++ toBytes 1 e.result ++ toBytes 3 0 ++ toBytes 8 e.time)
    let row (j : Instr) (k n : Nat) (x : Option Nat) (c : List Byte) : Prop := i = j ∧ kind = k ∧ need = n ∧ next = x ∧ content = c
    row .getVersion 0 0 (some 1) [] ∨ row .getCapabilities 1 1 (some 2) [] ∨ row .negotiateAlgorithms 2 2 (some 3) [] ∨ row .getDigests 3 3 none (digest Config.certChain) ∨ row .getCertificate 4 3 none (signed Config.certChain) ∨
      (∃ n, row (.challenge n) 5 3 none (signed (toBytes 32 n ++ digest Config.certChain ++ digest blocks))) ∨ row .getMeasurements 6 3 none (signed blocks) →
    let answers (m : Mgmt) (k : Nat) (c : List Byte) : Mgmt := { m with spdmOut := m.spdmOut ++ [Config.spdmAnswer k m.spdmOut.length c] }
    exec i s = .next (s.modMgmt fun m => if need ≤ m.spdm then { answers m kind content with spdm := next.getD m.spdm, algs := m.algs || decide (kind = 2) } else answers m 255 [])) ∧
  (∀ (len stamp die : Nat) (s : State), s.mgmt.bubble = none →
    (s.masterTime 24 + 20000 ≤ stamp → ∃ t, exec (.bubbleSchedule len stamp) s = .next t ∧ t.mgmt = { s.mgmt with bubble := some ⟨len, stamp⟩ } ∧ (∀ d, d < 33 → (t.dieAt d).acked = false ∧ (t.dieAt d).halted = (s.dieAt d).halted) ∧ t.warps = s.warps) ∧
    (stamp < s.masterTime 24 + 20000 → exec (.bubbleSchedule len stamp) s = .next s) ∧ exec (.bubbleAck die) s = .next s) ∧
  (∀ (die : Nat) (s : State) (b : Bubble), s.mgmt.bubble = some b → die < 33 →
    let all := ∀ d, d < 33 → (s.dieAt d).acked = true
    let ends := b.start + b.len * 5 / 9
    exec (.bubbleAck die) s = .next (s.setDie die { s.dieAt die with acked := true }) ∧
    (b.start ≤ s.masterTime 24 + 2000 → ¬ all → exec .bubbleCancel s = .next (s.modMgmt fun m => { m with bubble := none })) ∧ (s.masterTime 24 + 2000 < b.start ∨ all → exec .bubbleCancel s = .next s) ∧
    (all → b.start ≤ s.masterTime die → s.masterTime die < ends → (s.dieAt die).halted = false → exec (.bubbleStart die) s = .next (s.setDie die { s.dieAt die with halted := true })) ∧
    (¬ all ∨ s.masterTime die < b.start → exec (.bubbleStart die) s = .next s) ∧
    ((s.dieAt die).halted = true → ends ≤ s.masterTime die → ∃ t, exec (.bubbleEnd die) s = .next t ∧ (t.dieAt die).halted = false ∧ t.warps = s.warps ∧
      (t.mgmt.bubble = none ↔ ∀ d, d < 33 → d = die ∨ (s.dieAt d).halted = false ∧ ends ≤ s.masterTime d)) ∧
    ((s.dieAt die).halted = true → s.masterTime die < ends → exec (.bubbleEnd die) s = .next s)) ∧
  (∀ (die : Nat) (off rate : Int) (s : State), die = 24 ∨ 33 ≤ die → exec (.timeMasterUpdate die off rate) s = .next s) ∧
  (∀ (die : Nat) (off rate : Int) (s : State), die < 33 → die ≠ 24 →
    let n : Nat := match (s.dieAt die).released with
      | some r => (s.clk - r) * 5 / 9 % 2 ^ 64
      | none => 0
    let time (o r : Int) : Int := (n + o + (n * r).fdiv (2 ^ 32)) % 2 ^ 64
    (time (s.dieAt die).toff (s.dieAt die).trate ≤ time off rate → exec (.timeMasterUpdate die off rate) s = .next (s.setDie die { s.dieAt die with toff := off, trate := rate })) ∧
    (time off rate < time (s.dieAt die).toff (s.dieAt die).trate → exec (.timeMasterUpdate die off rate) s = .next s)) ∧
  (∀ (port lane seq : Nat) (f : Flit) (s : State),
    let p := s.portOf port
    let becomes (o : Host.Outcome State Fault Refusal) (x : Port) : Prop := o = .next { s with ports := SMap.put s.ports port x }
    let takes := { p with rxSeq := p.rxSeq + 1, unacked := p.unacked ++ [f], resend := none }
    (port < 16 →
      becomes (exec (.flitReceive port f false) s) { p with resend := some (match p.unacked with | [] => p.rxSeq | x :: _ => x.seq) } ∧
      (p.resend = none → becomes (exec (.flitReceive port f true) s) (if f.seq = p.rxSeq then takes else p)) ∧
      (∀ n, p.resend = some n → becomes (exec (.flitReceive port f true) s) (if f.seq = n ∧ n < p.rxSeq then { p with resend := some (n + 1) } else if f.seq = n ∧ n = p.rxSeq then takes else p)) ∧
      (∀ x rest, p.unacked = x :: rest → becomes (exec (.flitAck port seq) s) (if x.seq = seq then { p with unacked := rest } else p)) ∧ (p.unacked = [] → becomes (exec (.flitAck port seq) s) p) ∧
      (lane < 9 → p.spare = true → becomes (exec (.laneFailure port lane) s) { p with spare := false }) ∧
      (lane < 9 → p.spare = false → p.lanes = 8 → ∃ t, exec (.laneFailure port lane) s = .next t ∧ t.portOf port = { p with lanes := 4 } ∧ t.warps = s.warps ∧ (s.mgmt.errBuf.length < 256 → t.mgmt.errSeq = s.mgmt.errSeq + 1))) ∧
    (16 ≤ port → port < 18 → lane < 16 → p.spare = false → p.lanes = 16 → becomes (exec (.laneFailure port lane) s) { p with lanes := 8 })) ∧
  (∀ (src cls num pa : Nat) (rel : Bool) (bytes : List Byte) (s : State),
    let key := src * 2 + cls % 2
    let x := SMap.get ⟨0, [], []⟩ s.streams key
    let i := Instr.streamWriteAccept src cls num rel pa bytes
    let later (a : Nat) : Prop := rel = false ∧ ∃ e ∈ x.early, num < e.1 ∧ e.2.1 ≤ a ∧ a < e.2.1 + e.2.2
    let done (t : State) : Prop := t.warps = s.warps ∧ ∀ a, (pa ≤ a → a < pa + bytes.length → ¬ later a → t.mem.read a = bytes.getD (a - pa) 0) ∧ (a < pa ∨ pa + bytes.length ≤ a ∨ later a → t.mem.read a = s.mem.read a)
    let seen (x : Stream) : Prop := num < x.low ∨ (∃ e ∈ x.early, e.1 = num)
    (seen x ∨ (∃ h ∈ x.held, h.1 = num) → exec i s = .next s) ∧
    (¬ seen x → x.held = [] → pa + bytes.length ≤ 2 ^ 52 → rel = false ∨ num = x.low → ∃ t, exec i s = .next t ∧ done t ∧ seen (SMap.get ⟨0, [], []⟩ t.streams key)) ∧
    (x.low < num → (∀ e ∈ x.early, e.1 ≠ num) → x.held = [] → pa + bytes.length ≤ 2 ^ 52 → rel = true → exec i s = .next { s with streams := SMap.put s.streams key { x with held := [(num, pa, bytes)] } })) ∧
  (∀ (pa : Nat) (bytes : List Byte) (s : State),
    let flips (t : State) : Prop := ∀ j e, j < bytes.length → s.pageLeaf ((pa + j) / 4096 * 4096) = some e → biased e = true → ∃ b ∈ t.bias, b.1 ≤ (pa + j) / 4096 * 4096 ∧ (pa + j) / 4096 * 4096 < b.1 + b.2
    (2 ^ 52 < pa + bytes.length → ∀ store, exec (.hostCxlMemAccess pa store bytes) s = .fault .noSuchAddress) ∧
    (pa + bytes.length ≤ 2 ^ 52 → s.mgmt.boot = .recovery → ∀ store, exec (.hostCxlMemAccess pa store bytes) s = .next s) ∧
    (pa + bytes.length ≤ 2 ^ 52 → s.mgmt.boot ≠ .recovery →
      (∃ t, exec (.hostCxlMemAccess pa true bytes) s = .next t ∧ t.warps = s.warps ∧ (∀ a, t.mem.read a = if pa ≤ a ∧ a < pa + bytes.length then bytes.getD (a - pa) 0 else s.mem.read a) ∧ flips t) ∧
      (∃ t, exec (.hostCxlMemAccess pa false bytes) s = .next t ∧ t.warps = s.warps ∧ t.mem = s.mem ∧ t.mgmt = { s.mgmt with hostReads := s.mgmt.hostReads ++ [s.number pa bytes.length] } ∧ flips t)))

/-! ### Coherence and invalidations (chapters 8 and 9) -/

/-- R204, R206, R214, R216, R220 to R227, R232, R418: coherence traffic. No message, fill, write-back, bias flip or back-invalidation changes a byte that the device reads, or a warp (R221). A request stands at the directory until its grant. Granted to an L1 that holds nothing, M leaves
its sectors in M with every dirty bit and in no other tracked copy, and a read grant leaves E where no other agent has a tracked copy of the range, else S, and turns M and E elsewhere into O and S. SnpShare does that to the agent snooped, SnpInv leaves it nothing but write-backs under way
and its dirty data with the request that waits; a write-back brings its sectors to their home and its quire goes when it is acknowledged; an agent that has absorbed a snoop passes its data to the requester without a write to memory. A probed peer of the same die with the sectors gives an
untracked copy. A back-invalidation of a page the host keeps coherent leaves no copy; one that meets a write-back is answered as a snoop is, and the host asks for the data; a flip of a page's bias to the host leaves no copy in the whole page. The directories follow every change, and where they have room no copy leaves for it. An invalidation removes every cached translation that it meets, and every
last-page register, and a request that waits is translated again; a failed home takes its sectors out of every cache.
The model's choices: units that do not cache write home at once (log 38), a snooped write-back of a read request goes to the home slice (log 18), a victim is the oldest quire (log 39), where data of another die passes (log 75), and what the directories hold (log 76). -/
def Obligations.CoherenceTraffic : Prop :=
  (∀ (i : Instr) (s : State),
    ((∃ a f x y q, i = .quireFill a f x y q) ∨ (∃ a f x y, i = .getm a f x y ∨ i = .getsRequest a f x y ∨ i = .upg a f x y ∨ i = .coherenceGrant a f x y ∨ i = .putm a f x y ∨ i = .writeBackAcknowledgement a f x y ∨ i = .puts a f x y ∨
      i = .snpShare a f x y ∨ i = .snpInv a f x y ∨ i = .inFlightReply a f x y ∨ i = .absorbedAck a f x y ∨ i = .snoopReply a f x y) ∨ (∃ c k f x y, i = .peerForwardProbe c k f x y) ∨ (∃ f x y, i = .backInvalidation f x y) ∨ (∃ p b, i = .biasFlip p b)) →
    ∃ t, exec i s = .next t ∧ t.mem = s.mem ∧ t.lost = s.lost ∧ t.warps = s.warps ∧ t.groups = s.groups) ∧
  (∀ (c old : Caches) (m : Memory), (∀ e ∈ (c.recordFrom old).homeDirs, e.2.length ≤ (c.recordFrom old).homeCap) → (c.recordFrom old).spineDir.length ≤ (c.recordFrom old).spineCap →
    (c.follow old m).quires = c.quires ∧ (c.follow old m).home = c.home ∧ (c.follow old m).coh = c.coh) ∧
  (∀ (agent frame first last : Nat) (s : State), first ≤ last → last ≤ 63 → (∀ q ∈ s.cache.coh, q.agent ≠ agent ∨ q.frame ≠ frame ∨ q.first ≠ first ∨ q.last ≠ last) →
    let asks (i : Instr) (own upg : Bool) : Prop := exec i s = .next { s with cache := { s.cache with coh := s.cache.coh ++
      [{ agent := agent, frame := frame, first := first, last := last, own := own, upg := upg, granted := true, pred := 0, probe := false, supplied := [], acc := [] }] } }
    let held := ∀ x, first ≤ x → x ≤ last → s.sectorSt agent frame x = .s ∨ s.sectorSt agent frame x = .o
    asks (.getm agent frame first last) true false ∧ asks (.getsRequest agent frame first last) false false ∧ (held → asks (.upg agent frame first last) true true) ∧ (¬ held → asks (.upg agent frame first last) true false)) ∧
  (∀ (s : State) (q : CohReq), s.cache.Alone q →
    let inside (x : Nat) : Prop := q.first ≤ x ∧ x ≤ q.last
    let owns (d : Caches) : Prop := q ∉ d.coh ∧ ∀ x, inside x → d.sectorSt q.agent q.frame x = .m ∧
      (∀ a, a ≠ q.agent → ∀ y ∈ d.at_ a, y.tracked = true → y.overlaps q.frame x x = false) ∧
      ((∃ a, s.sectorDirty a q.frame x = true) ∨ x ∈ q.supplied → d.sectorDirty q.agent q.frame x = true)
    let shares (d : Caches) : Prop := q ∉ d.coh ∧ (∀ x, inside x → ((∃ a, a ≠ q.agent ∧ ∃ y ∈ s.quires a, y.tracked = true ∧ y.overlaps q.frame q.first q.last = true) → d.sectorSt q.agent q.frame x = .s) ∧
        ((∀ a, a ≠ q.agent → ∀ y ∈ s.quires a, y.tracked = true → y.overlaps q.frame q.first q.last = false) → d.sectorSt q.agent q.frame x = .e)) ∧
      ∀ a x, a ≠ q.agent → inside x → s.cache.SingleIn q.frame q.first q.last → s.cache.Tracks a →
        d.sectorSt a q.frame x = sharedOf (s.sectorSt a q.frame x) ∧ d.sectorDirty a q.frame x = s.sectorDirty a q.frame x
    (q.granted = true → q ∈ s.cache.coh → ∃ t d, exec (.coherenceGrant q.agent q.frame q.first q.last) s = .next t ∧ s.CachesGo t d ∧ (q.own = true → owns d) ∧ (q.own = false → shares d)) ∧
    (∀ qs, qs = .m ∨ qs = .o → q ∈ s.cache.coh → ∃ t d, exec (.quireFill q.agent q.frame q.first q.last qs) s = .next t ∧ s.CachesGo t d ∧ owns d) ∧
    (∀ qs, qs = .e ∨ qs = .s → q ∈ s.cache.coh → ∃ t d, exec (.quireFill q.agent q.frame q.first q.last qs) s = .next t ∧ s.CachesGo t d ∧ (q.own = true → owns d) ∧ (q.own = false → shares d)) ∧
    (∀ qs, qs = .i ∨ qs = .wbp → exec (.quireFill q.agent q.frame q.first q.last qs) s = .next s)) ∧
  (∀ (agent frame first last : Nat) (s : State), first ≤ last → last ≤ 63 → s.cache.SingleIn frame first last → s.cache.Tracks agent →
    let inside (f x : Nat) : Prop := f = frame ∧ first ≤ x ∧ x ≤ last
    (∃ t d, exec (.snpShare agent frame first last) s = .next t ∧ s.CachesGo t d ∧ ∀ f x, d.sectorDirty agent f x = s.sectorDirty agent f x ∧
      (inside f x → d.sectorSt agent f x = sharedOf (s.sectorSt agent f x)) ∧ (¬ inside f x → d.sectorSt agent f x = s.sectorSt agent f x)) ∧
    (agent < 4096 → ∃ t d, exec (.snpInv agent frame first last) s = .next t ∧ s.CachesGo t d ∧
      (∀ f x, inside f x → d.sectorSt agent f x = if s.sectorSt agent f x = .wbp then .wbp else .i) ∧
      ((∀ x, first ≤ x → x ≤ last → s.sectorDirty agent frame x = true → ∃ q, s.cache.coh.find? (fun q => q.agent != agent && q.meets frame x x) = some q ∧ q.own = true) → ∀ f x, ¬ inside f x → d.sectorSt agent f x = s.sectorSt agent f x) ∧
      ∀ q, s.cache.coh = [q] → q.agent ≠ agent → q.own = true → q.frame = frame → q.first ≤ first → last ≤ q.last → ∀ x, first ≤ x → x ≤ last → s.sectorDirty agent frame x = true → s.sectorSt agent frame x ≠ .wbp → ∃ y ∈ d.coh, y.agent = q.agent ∧ x ∈ y.supplied) ∧
    ((∀ q ∈ s.quires agent, q.overlaps frame first last = true → q.dirty = [] ∧ (q.st = .s ∨ q.st = .e)) →
      ∃ t d, exec (.puts agent frame first last) s = .next t ∧ s.CachesGo t d ∧ ∀ f x, (inside f x → d.sectorSt agent f x = .i) ∧ (¬ inside f x → d.sectorSt agent f x = s.sectorSt agent f x))) ∧
  (∀ (agent frame first last : Nat) (s : State), first ≤ last → last ≤ 63 →
    ((∀ r ∈ s.cache.absorbed, ¬ (r.agent = agent ∧ r.meets frame first last = true)) → ∃ t d, exec (.putm agent frame first last) s = .next t ∧ s.CachesGo t d ∧
      ∀ q ∈ s.quires agent, q.st = .wbp → q.overlaps frame first last = true → { q with dirty := [] } ∈ d.at_ agent ∧
        ∀ x ∈ q.dirty, ∀ b, b < 32 → d.pointByte (decide (4096 ≤ agent)) (agent / 96) ((q.frame * 64 + x) * 32 + b) = s.mem.read ((q.frame * 64 + x) * 32 + b)) ∧
    (∃ t d, exec (.writeBackAcknowledgement agent frame first last) s = .next t ∧ s.CachesGo t d ∧ ∀ q, q ∈ d.at_ agent ↔ q ∈ s.quires agent ∧ ¬ (q.st = .wbp ∧ q.dirty = [] ∧ q.overlaps frame first last = true)) ∧
    ((∃ q ∈ s.quires agent, q.st = .wbp ∧ q.overlaps frame first last = true) → (∀ r ∈ s.cache.absorbed, ¬ (r.agent = agent ∧ r.meets frame first last = true)) →
      exec (.inFlightReply agent frame first last) s = .next { s with cache := { s.cache with absorbed := s.cache.absorbed ++
        [{ agent := agent, frame := frame, first := first, last := last, own := false, upg := false, granted := false, pred := 0, probe := false, supplied := [], acc := [] }] } }) ∧
    (∀ q, s.cache.coh.find? (fun q => q.agent != agent && q.meets frame first last) = some q → ∃ t, exec (.snoopReply agent frame first last) s = .next t ∧
      { q with granted := !q.probe } ∈ t.cache.coh ∧ t.cache.quires = s.cache.quires) ∧
    (∀ r q, s.cache.absorbed.find? (fun r => r.agent == agent && r.meets frame first last) = some r → s.cache.coh.find? (fun q => q.agent != agent && q.meets frame first last) = some q → q.own = true → q.first ≤ first → last ≤ q.last → q.last ≤ 63 →
      q.agent < 4096 → s.quires q.agent = [] → s.cache.SingleIn frame q.first q.last → s.cache.Tracks agent → s.cache.Tidy agent →
      ∃ t d, exec (.absorbedAck agent frame first last) s = .next t ∧ s.CachesGo t d ∧ d.home = s.cache.home ∧ d.absorbed = s.cache.absorbed.filter (· != r) ∧ q ∉ d.coh ∧
        (∀ x, q.first ≤ x → x ≤ q.last → d.sectorSt q.agent q.frame x = .m ∧ d.sectorSt agent q.frame x = .i) ∧
        ∀ y ∈ s.quires agent, y.st = .wbp → y.overlaps frame first last = true → ∀ z ∈ y.dirty, d.sectorDirty q.agent q.frame z = true)) ∧
  (∀ (core cluster frame first last ctx : Nat) (s : State), first ≤ last → last ≤ 63 → cluster < 12 → s.readOnlyGlobal core frame = some ctx →
    let peer := ∃ c, c / 8 = core / 96 * 12 + cluster ∧ c ≠ core ∧ ∀ x, first ≤ x → x ≤ last → s.sectorSt c frame x = .s ∨ s.sectorSt c frame x = .e
    let asked (r : CohReq) : Prop := r.agent = core ∧ r.probe = true ∧ r.meets frame first last = true
    (peer → core < 4096 → s.quires core = [] → ∃ t d, exec (.peerForwardProbe core cluster frame first last) s = .next t ∧ s.CachesGo t d ∧ (∀ r ∈ d.coh, r ∈ s.cache.coh ∧ ¬ asked r) ∧
      ∀ x, first ≤ x → x ≤ last → ∃ y ∈ d.at_ core, y.overlaps frame x x = true ∧ y.st = .s ∧ y.fwd = some ctx) ∧
    (¬ peer → (∀ r ∈ s.cache.coh, ¬ asked r) → exec (.peerForwardProbe core cluster frame first last) s = exec (.getsRequest core frame first last) s) ∧
    (¬ peer → ∀ r ∈ s.cache.coh, asked r → ∃ t, exec (.peerForwardProbe core cluster frame first last) s = .next t ∧ { r with probe := false } ∈ t.cache.coh ∧ t.cache.quires = s.cache.quires)) ∧
  (∀ (core cluster frame first last : Nat) (s : State), s.readOnlyGlobal core frame = none → exec (.peerForwardProbe core cluster frame first last) s = .next s) ∧
  (∀ (frame first last page : Nat) (s : State), first ≤ last → last ≤ 63 → s.cache.DirsFit →
    let gone (t : State) (sec : Nat) : Prop := (∀ a, t.sectorSt a (sec / 64) (sec % 64) = .i) ∧ (s.SectorOwed sec → ∀ b, b < 32 → t.cache.home.read (sec * 32 + b) = s.mem.read (sec * 32 + b))
    (∀ e, s.pageLeaf (frame * 2048 / 4096 * 4096) = some e → hostCoherent e = true → s.cache.SingleIn frame first last →
      let crossed (x : Nat) : Prop := ∃ a ∈ s.agents, ∃ q ∈ s.quires a, q.st = .wbp ∧ q.overlaps frame x x = true
      ((∀ x, first ≤ x → x ≤ last → ¬ crossed x) → ∃ t, exec (.backInvalidation frame first last) s = .next t ∧ ∀ sec, frame * 64 + first ≤ sec → sec ≤ frame * 64 + last → gone t sec) ∧
      ((∀ x, first ≤ x → x ≤ last → crossed x) → (∀ r ∈ s.cache.coh, r.agent ≠ 8192) → ∃ t, exec (.backInvalidation frame first last) s = .next t ∧ t.cache.home = s.cache.home ∧
        { agent := 8192, frame := frame, first := first, last := last, own := true, upg := false, granted := true, pred := 0, probe := false, supplied := [], acc := [] } ∈ t.cache.coh ∧
        ∀ a ∈ s.agents, (∃ q ∈ s.quires a, q.st = .wbp ∧ q.overlaps frame first last = true) → ∃ r ∈ t.cache.absorbed, r.agent = a ∧ r.meets frame first last = true)) ∧
    (∀ e, s.pageLeaf (page * 4096) = some e → biased e = true →
      let base := if pteTier e = 3 then ptePfn e * 4096 else ptePfn e / 16 * 16 * 4096
      let size := if pteTier e = 3 then 2 ^ 21 else 65536
      (s.cache.Single base size → ∃ t, exec (.biasFlip page true) s = .next t ∧ t.bias = (base, size) :: s.bias.filter (fun p => p.1 != base) ∧ ∀ sec, base ≤ sec * 32 → sec * 32 < base + size → gone t sec) ∧
      exec (.biasFlip page false) s = .next { s with bias := s.bias.filter fun p => p.1 != base }) ∧
    ((∀ e, s.pageLeaf (page * 4096) = some e → biased e = false) → ∀ b, exec (.biasFlip page b) s = .next s)) ∧
  (∀ (va len idx : Nat) (pasid : Option Nat) (s : State),
    let named (c : Nat) : Prop := ∀ p, pasid = some p → (s.ctxAt c).bound = true ∧ (s.ctxAt c).pasid = p
    let hits (e : Nat × Leaf) : Prop := named e.1 ∧ e.2.va < va + len ∧ va < e.2.va + e.2.size
    (s.Calm → ∃ t, exec (.atsInvalidation va len pasid) s = .next t ∧ t.mem = s.mem ∧ t.warps = s.warps ∧ t.invals = s.invals ++ [⟨va, len, pasid⟩] ∧
      (∀ c e, e ∈ (t.coreAt c).tlb ↔ e ∈ (s.coreAt c).tlb ∧ ¬ hits e) ∧ (∀ d e, e ∈ (t.dieAt d).tlb ↔ e ∈ (s.dieAt d).tlb ∧ ¬ hits e) ∧ ∀ c, (t.coreAt c).lanes = []) ∧
    (∀ dom d r o, s.tiles = [] → s.adds = [] → s.domains = [(dom, d)] → d.reqs = [r] → r.ops = [o] → (r.paOf o).isSome = true → o.miss = false → s.lost = [] →
      let c := (s.gridAt (s.groupAt r.grp).grid).ctx
      (named c → va < o.va + accBytes r.instr → o.va < va + len → ∃ t, exec (.atsInvalidation va len pasid) s = .next t ∧
        ∀ x, t.checkVa (s.warpAt r.warp).core o.lane c o.va (accOf r.instr) (fun _ => false) = .ok x → t.mem = s.mem ∧ t.warps = s.warps ∧ (t.domAt dom).reqs = [{ r with ops := [{ o with pa := x.pa o.va }] }]) ∧
      (¬ (named c ∧ va < o.va + accBytes r.instr ∧ o.va < va + len) → ∃ t, exec (.atsInvalidation va len pasid) s = .next t ∧ t.mem = s.mem ∧ t.warps = s.warps ∧ (t.domAt dom).reqs = [r])) ∧
    exec (.invalidationCompletion idx) s = .next { s with invals := s.invals.eraseIdx idx }) ∧
  (∀ (home base len : Nat) (s : State),
    let within (f x : Nat) : Prop := base ≤ f * 2048 + x * 32 ∧ f * 2048 + x * 32 < base + len
    (∃ t, exec (.homeFailure home base len) s = .next t ∧ t.failedHomes = s.failedHomes ++ [(base, len)] ∧ t.warps = s.warps) ∧
    ((∀ a, ∀ q ∈ s.quires a, ∀ x ∈ q.dirty, ¬ within q.frame x) → (∀ a, ∀ q ∈ s.quires a, ∀ x, q.first ≤ x → x ≤ q.last → within q.frame x → q.first = q.last) → s.cache.DirsFit →
      ∃ t, exec (.homeFailure home base len) s = .next t ∧ t.mem = s.mem ∧ ∀ a f x, within f x → t.sectorSt a f x = .i))

/-! ### Issue (chapter 2) -/

/-- R42, R43, R53 to R58, R61: how a run opens, how a counter is released, and what an illegal group does. SLOT_FILL gives, at the start of a clk, one free slot to a warp that no ready warp comes before, and the strand with the lowest lane above the last one opens its run, else the first strand; a strand is the live threads that stand at one address and do not wait at gbar.
COUNTER_RELEASE writes the results of the oldest instruction on a counter once that is complete, in place of what earlier words of its group have under way and under what later ones have written, and takes it off the counter; a result bound for an exited thread is discarded. ILLEGAL_INSTRUCTION_WORD stops every active lane at the group with cause 0x01 and its detail. Frame: no memory and no other warp changes.
The model's choices: which agent acts next (log 1) and that readiness leaves the instruction cache out (log 25). -/
def Obligations.IssueEvents : Prop :=
  (∀ (core h lo : Nat) (m : Word) (pc : DWord) (s : State) (w : Warp),
    s.turnCore = 0 → s.chosen core = some h → (s.inSlots core).length < 4 → SMap.find s.warps h = some w → w.inRun = false → w.nextStrand = some (lo, m, pc) →
    (∃ t, exec (.slotFill core) s = .next t ∧ t.mem = s.mem ∧ (∀ g, g ≠ h → SMap.find t.warps g = SMap.find s.warps g) ∧ (t.coreAt core).slots = s.inSlots core ++ [h] ∧
      (t.warpAt h).inRun = true ∧ (t.warpAt h).active = m ∧ (t.warpAt h).runPc = pc ∧ (t.warpAt h).runWords = 0 ∧ (t.warpAt h).lastLow = some lo ∧ (t.warpAt h).v = w.v ∧ (t.warpAt h).k = w.k ∧ (t.warpAt h).p = w.p ∧ (t.warpAt h).pcs = w.pcs) ∧
    (∀ l, l < 32 → m.getLsbD l = (w.live.getLsbD l && !w.gbarWait.getLsbD l && SMap.get 0 w.pcs l == pc)) ∧ m.getLsbD lo = true ∧ (∀ l, l < lo → m.getLsbD l = false) ∧
    (∀ k, w.lastLow = some k → (∃ x ∈ w.strands, k < x.1) → k < lo ∧ ∀ x ∈ w.strands, k < x.1 → lo ≤ x.1) ∧
    ((w.lastLow = none ∨ ∃ k, w.lastLow = some k ∧ ∀ x ∈ w.strands, x.1 ≤ k) → ∀ x ∈ w.strands, lo ≤ x.1)) ∧
  (∀ (core h : Nat) (s : State), s.chosen core = some h →
    ∃ w, (h, w) ∈ s.warps ∧ w.core = core ∧ s.ready h = true ∧ h ∉ s.inSlots core ∧ ∀ e ∈ s.warps, e.2.core = core → e.1 ∉ s.inSlots core → s.ready e.1 = true → s.before e.1 h = false) ∧
  (∀ (core : Nat) (s : State), s.turnCore ≠ 0 ∨ s.chosen core = none ∨ 4 ≤ (s.inSlots core).length → exec (.slotFill core) s = .next s) ∧
  (∀ (wp r : Nat) (dc : Dc) (s : State) (w : Warp) (f : Inflight) (rest : List Inflight), SMap.find s.warps wp = some w → (w.inflight.filter fun x => x.dc == dc.toNat) = f :: rest →
    (f.done = false → ∃ t, exec (.counterRelease wp dc) s = .next t ∧ SMap.find t.warps wp = some w ∧ t.mem = s.mem) ∧
    (∀ vals : List (Nat × DWord), f.done = true → f.writes = [⟨.v r, vals⟩] → (vals.map (·.1)).Nodup → (∀ x ∈ vals, x.1 < 32) →
      ∃ t w', exec (.counterRelease wp dc) s = .next t ∧ t.mem = s.mem ∧ (∀ g, g ≠ wp → SMap.find t.warps g = SMap.find s.warps g) ∧ SMap.find t.warps wp = some w' ∧ w'.inflight = w.inflight.filter (fun x => x.seq != f.seq) ∧
        let ceded (l : Nat) : Bool := f.ceded.any fun o => o.1 == .v r && o.2.getLsbD l
        { w' with v := w.v, inflight := w.inflight, pend := w.pend } = w ∧
        w'.pend = (w.pend.map fun p => if p.at_ = f.at_ ∧ p.res.reg = .v r then { p with res := { p.res with vals := p.res.vals.filter fun e => !(vals.any fun y => y.1 == e.1 && !ceded y.1) } } else p) ∧
        (∀ x ∈ vals, w'.rdV r x.1 = if w.exited.getLsbD x.1 || ceded x.1 then w.rdV r x.1 else x.2.truncate 32) ∧
        ∀ q l, l < 32 → (q ≠ r ∨ ∀ x ∈ vals, x.1 ≠ l) → w'.rdV q l = w.rdV q l)) ∧
  (∀ (detail : Nat) (s : State), s.Here → s.w.kind = .normal →
    ∃ t, exec (.illegalInstructionWord detail) s = .next t ∧ s.Trapped t 0x01 (fun _ => detail) (fun l => s.w.active.getLsbD l) s.w.runPc)

/-! ### The machine as a whole -/

/-- R37, R42, R43, R74: a step runs what is decoded. A word of the group being issued runs as it is: step is exec of it. When nothing else is due, and the group at the pc of the warp whose turn it is holds one word that decodes to `i` and meets no condition of Table 2.4, and nothing holds the group, step is exec of `i` at the state
in which results due are visible and the group stands at issue, or, where the word would wait, the group waits as a whole; a group that meets conditions runs ILLEGAL_INSTRUCTION_WORD with the least of them. A word is the four bytes at its address, least significant first, where its page allows the fetch. An event from outside runs when it comes. (A warp of an open grid, without hazard checks.)
The model's choices: which agent acts next (log 1), how far an illegal group is fetched (log 20), and the order of a group's checks (log 21). -/
def Obligations.StepRunsDecoded : Prop :=
  (∀ (s : State) (i : Instr) (rest : List Instr), s.w.todo = i :: rest → s.w.waiting = false → s.w.kind = .normal → s.ordersWait i = false → step s = exec i s) ∧
  (∀ (s : State) (e : Instr) (rest : List Instr), s.w.todo = [] → s.inputs = e :: rest → e.external = true → overLink e = false ∨ (s.dieAt 24).halted = false → step s = exec e { s with inputs := rest }) ∧
  (∀ (s : State) (h w pl : Nat), s.w.todo = [] → s.nextInput = none → s.afterEvent exec = none → s.pick = some h → (SMap.find s.warps h).isSome = true → (s.warpAt h).todo = [] → (s.warpAt h).kind = .normal → (s.warpAt h).chk = .off →
    let u := ({ s with cur := h, turnCore := max s.turnCore ((s.warpAt h).core + 1) }).modW Warp.commit
    let g := u.modW Warp.atGroup
    let a := u.w.runPc.toNat
    u.inDomain = false → u.fetchWord a = .word w → w < 2 ^ 31 → (u.wordPos a ≠ 2 → wordCount w = 2 → u.fetchWord (a + 4) = .word pl) → (u.wordPos a = 2 ∨ wordCount w = 1 → pl = 0) →
    (∀ i, decodeWord w pl = .ok i → u.groupCode u.w.runWords [(u.wordPos a, w, pl)] = none → g.badTarget i = false → g.w.blocksOk [i] = true → g.w.countersFull [i] = false → g.waits i = false → g.claimGate i = none →
      let t := g.beginGroup [i]
      (State.stuckWord exec t 3 t = none → step s = exec i t) ∧ (∀ x, State.stuckWord exec t 3 t = some x → step s = .next (State.groupWaits exec t (s.warpAt h).earliest x))) ∧
    (∀ i, decodeWord w pl = .ok i → u.groupCode u.w.runWords [(u.wordPos a, w, pl)] = none → g.badTarget i = true → step s = exec (.illegalInstructionWord 0x0B) (g.beginGroup [.illegalInstructionWord 0x0B])) ∧
    (∀ d, u.groupCode u.w.runWords [(u.wordPos a, w, pl)] = some d → step s = exec (.illegalInstructionWord d) (g.beginGroup [.illegalInstructionWord d]))) ∧
  (∀ (s : State) (a : Nat) (x : Leaf), s.inCode a = true → a < 2 ^ 57 → s.walk s.ctxNo a = .ok x → s.pageLost x = false → pteP x.pte = true → s.meetsLost (x.pa a) 4 = false → s.homeFailed (x.pa a) = false → pteX x.pte = true →
    s.fetchWord a = .word (s.number (x.pa a) 4))

/-- R31 to R35, R42 and the field tables: decoding and encoding agree. Every well-formed instruction word is decoded from its own encoding, with every operand (a slice load as slice code); and every word that decodes is the encoding of what it decodes to, so that no bit of it is dropped. Reserved majors and major 0x7F decode to nothing. -/
def Obligations.EncodeDecode : Prop :=
  (∀ (i : Instr), i.wf = true → i.hdr?.isSome = true →
    let e := encode i
    let w := e.getD 0 0
    let pl := e.getD 1 0
    e.length = i.words ∧ e.length = wordCount w ∧ (∀ x ∈ e, x < 2 ^ 32) ∧
    ((∀ h d kb ks sz imm hint sx, i ≠ .sliceLdl h d kb ks sz imm hint sx) → decodeWord w pl = .ok i) ∧ ((∃ h d kb ks sz imm hint sx, i = .sliceLdl h d kb ks sz imm hint sx) → decodeSliceWord w pl = .ok i)) ∧
  (∀ (w pl : Nat) (i : Instr), w < 2 ^ 32 → pl < 2 ^ 32 → decodeWord w pl = .ok i → encode i = (if wordCount w = 2 then [w, pl] else [w]) ∧ i.fieldsOk = true ∧ i.predsOk = true ∧ i.hdr?.isSome = true) ∧
  (∀ (w pl : Nat), isReservedMajor (w / 2 ^ 20 % 2 ^ 7) = true ∨ w / 2 ^ 20 % 2 ^ 7 = 0x7F → ∀ i, decodeWord w pl ≠ .ok i)

/-- The words of the spec's own examples, one of nearly every chapter, decode to the instructions that stand beside them there (R69, R77, R83, R91, R98, R107, R141, R153, R165, R185, R233, R248, R255, R264, R272, R307, R309, R326, R370, R394, R398). -/
def Obligations.DecodeSamples : Prop :=
  decodeWord 0x4020BFFD 0 = .ok (.brp ⟨false, true, 0⟩ 2 0x3FFD) ∧
  decodeWord 0x00B48003 0 = .ok (.dwait ⟨false, false, 0⟩ 0b0100100 3) ∧
  decodeWord 0x01E18643 0 = .ok (.shri ⟨false, false, 0⟩ 6 6 3) ∧
  decodeWord 0x02510200 0x00010C08 = .ok (.bfx ⟨false, false, 0⟩ 4 2 0 8 12 true) ∧
  decodeWord 0x0301C001 0x80000000 = .ok (.kset ⟨false, false, 0⟩ 7 .zext 0x80000000) ∧
  decodeWord 0x03C28B06 0 = .ok (.wshx ⟨false, false, 0⟩ 10 11 1 .down) ∧
  decodeWord 0x04310108 0 = .ok (.ffma ⟨false, false, 0⟩ 4 1 2 0) ∧
  decodeWord 0x058E3903 0x00133EA8 = .ok (.mma ⟨false, false, 0⟩ 56 57 0 .plusTimes true true 40 58 .fmt false 3 1) ∧
  decodeWord 0x0621C40D 0xFFE022C1 = .ok (.ldl ⟨false, false, 0⟩ 7 4 3 .b2 0xFFE0 1 5 4 .sz true) ∧
  decodeWord 0x06914482 0x00001000 = .ok (.cinv ⟨false, false, 0⟩ 5 4 .device 0 0 true) ∧
  decodeWord 0x07728825 0x00000F23 = .ok (.cpym ⟨false, false, 0⟩ 10 8 9 3 1 0x0F) ∧
  decodeWord 0x06C1440E 0x1A5C2000 = .ok (.atom ⟨false, false, 0⟩ 5 4 3 .w4 6 .cas .ar .device 1 0) ∧
  decodeWord 0x07034020 0 = .ok (.barArrive ⟨false, false, 0⟩ 3 0 .group) ∧
  decodeWord 0x07303FFC 0 = .ok (.clkjAdd ⟨false, false, 0⟩ 4095) ∧
  decodeWord 0x0741041A 0x00005000 = .ok (.unlock ⟨false, false, 0⟩ 4 4 6 0 2 .device) ∧
  decodeWord 0x07A28824 0x0000060B = .ok (.tclaim ⟨false, false, 0⟩ 10 8 9 11 0 true 1 false) ∧
  decodeWord 0x07B30802 0x00002045 = .ok (.qpost ⟨false, false, 0⟩ 12 8 5 1 1) ∧
  decodeWord 0x07D18116 0 = .ok (.tmr ⟨false, false, 0⟩ 6 true 2) ∧
  decodeWord 0x07E2C09D 0 = .ok (.orgw ⟨false, false, 0⟩ 11 0 .axf 7)

/-- Every byte memory is in canonical form right after reset, and nothing but what reset leaves is there: no warp, group or grid, PWRLIM at 4000 and LOGN of the error ring at 6 (R416, R420, R426). That memory lists nothing is the model's own choice (log 2).
So are the values of log 3, of which this states none. -/
def Obligations.ResetIsCanonical : Prop :=
  State.reset.Canonical ∧ State.reset.warps = [] ∧ State.reset.groups = [] ∧ State.reset.grids = [] ∧ State.reset.mgmt.pwrlim = 4000 ∧ State.reset.mgmt.errLogn = 6 ∧ State.reset.mgmt.errEn = false ∧ State.reset.mgmt.secure = false ∧
  State.reset.mgmt.boot = .starting 1 ∧ ∀ a, State.reset.mem.read a = 0

/-- Every step keeps the canonical form of device memory, of the host memory it has written, of the home memory and of both scratchpads of every group: addresses strictly rising, no entry that an unlisted address would read the same. So equal memories are equal data after any run. -/
def Obligations.StepKeepsCanonical : Prop :=
  ∀ (s t : State), s.Canonical → step s = .next t → t.Canonical
end

