-- ==== Sys2Proof/Laws/Map.lean ====
section
/-! SUPPORT. Laws of sparse maps and byte memories: reading after writing, and every memory operation keeps the canonical form. -/

namespace Sys2Proof

variable {α : Type}

@[simp] theorem SMap.get_nil (d : α) (k : Nat) : SMap.get d [] k = d := rfl
@[simp] theorem SMap.find_nil (k : Nat) : SMap.find ([] : SMap α) k = none := rfl

theorem SMap.get_eq_find (d : α) (m : SMap α) (k : Nat) : SMap.get d m k = (SMap.find m k).getD d := by
  induction m with
  | nil => rfl
  | cons e t ih => simp only [SMap.get, SMap.find]; split <;> simp [ih]

theorem SMap.find_put (m : SMap α) (k j : Nat) (v : α) :
    SMap.find (SMap.put m k v) j = if j = k then some v else SMap.find m j := by
  induction m with
  | nil => by_cases h : j = k <;> simp [SMap.put, SMap.find, h]
  | cons e t ih =>
    obtain ⟨a, x⟩ := e
    by_cases h1 : k = a
    · subst h1
      by_cases h : j = k <;> simp [SMap.put, SMap.find, h]
    · by_cases h2 : k < a
      · by_cases h : j = k <;> simp [SMap.put, SMap.find, h1, h2, h]
      · by_cases h : j = a
        · subst h
          have : ¬ j = k := fun e => h1 e.symm
          simp [SMap.put, SMap.find, h1, h2, this]
        · simp [SMap.put, SMap.find, h1, h2, h, ih]

@[simp] theorem SMap.find_put_same (m : SMap α) (k : Nat) (v : α) : SMap.find (SMap.put m k v) k = some v := by
  simp [SMap.find_put]

theorem SMap.find_put_other (m : SMap α) {k j : Nat} (v : α) (h : j ≠ k) :
    SMap.find (SMap.put m k v) j = SMap.find m j := by simp [SMap.find_put, h]

theorem SMap.get_put (d : α) (m : SMap α) (k j : Nat) (v : α) :
    SMap.get d (SMap.put m k v) j = if j = k then v else SMap.get d m j := by
  simp only [SMap.get_eq_find, SMap.find_put]; split <;> simp

@[simp] theorem SMap.get_put_same (d : α) (m : SMap α) (k : Nat) (v : α) : SMap.get d (SMap.put m k v) k = v := by
  simp [SMap.get_put]

theorem SMap.get_put_other (d : α) (m : SMap α) {k j : Nat} (v : α) (h : j ≠ k) :
    SMap.get d (SMap.put m k v) j = SMap.get d m j := by simp [SMap.get_put, h]

theorem SMap.put_put (m : SMap α) (k : Nat) (u v : α) : SMap.put (SMap.put m k u) k v = SMap.put m k v := by
  induction m with
  | nil => simp [SMap.put]
  | cons e t ih =>
    obtain ⟨a, x⟩ := e
    by_cases h1 : k = a
    · subst h1; simp [SMap.put]
    · by_cases h2 : k < a
      · simp [SMap.put, h1, h2]
      · simp [SMap.put, h1, h2, ih]

theorem SMap.find_erase (m : SMap α) (k j : Nat) :
    SMap.find (SMap.erase m k) j = if j = k then none else SMap.find m j := by
  induction m with
  | nil => simp [SMap.erase, SMap.find]
  | cons e t ih =>
    obtain ⟨a, x⟩ := e
    simp only [SMap.erase] at ih ⊢
    by_cases h1 : a = k
    · subst h1
      by_cases h : j = a
      · subst h; simpa using ih
      · simp [SMap.find, h, ih]
    · by_cases h : j = a
      · subst h; simp [SMap.find, h1]
      · simp [SMap.find, h1, h, ih]

theorem SMap.get_erase (d : α) (m : SMap α) (k j : Nat) :
    SMap.get d (SMap.erase m k) j = if j = k then d else SMap.get d m j := by
  simp only [SMap.get_eq_find, SMap.find_erase]; split <;> simp

/-! ### The canonical form -/

/-- A map whose keys rise has every later key above its first. -/
theorem SMap.rising_cons {a : Nat} {x : α} {t : SMap α} :
    SMap.rising ((a, x) :: t) = true ↔ SMap.rising t = true ∧ ∀ e ∈ t, a < e.1 := by
  induction t generalizing a x with
  | nil => simp [SMap.rising]
  | cons e t ih =>
    obtain ⟨b, y⟩ := e
    simp only [SMap.rising, Bool.and_eq_true, decide_eq_true_eq, List.mem_cons, forall_eq_or_imp]
    constructor
    · rintro ⟨hab, ht⟩
      refine ⟨ht, hab, fun e he => ?_⟩
      exact lt_trans hab ((ih.mp ht).2 e he)
    · rintro ⟨ht, hab, -⟩
      exact ⟨hab, ht⟩

theorem SMap.mem_put {m : SMap α} {k : Nat} {v : α} {e : Nat × α} (h : e ∈ SMap.put m k v) : e = (k, v) ∨ e ∈ m := by
  induction m with
  | nil => simpa [SMap.put] using h
  | cons f t ih =>
    obtain ⟨a, x⟩ := f
    simp only [SMap.put] at h
    split at h
    · rcases List.mem_cons.mp h with h | h
      · exact .inl h
      · exact .inr (List.mem_cons_of_mem _ h)
    · split at h
      · rcases List.mem_cons.mp h with h | h
        · exact .inl h
        · exact .inr h
      · rcases List.mem_cons.mp h with h | h
        · exact .inr (by simp [h])
        · rcases ih h with h | h
          · exact .inl h
          · exact .inr (List.mem_cons_of_mem _ h)

theorem SMap.rising_put {m : SMap α} (h : SMap.rising m = true) (k : Nat) (v : α) : SMap.rising (SMap.put m k v) = true := by
  induction m with
  | nil => rfl
  | cons f t ih =>
    obtain ⟨a, x⟩ := f
    obtain ⟨ht, ha⟩ := SMap.rising_cons.mp h
    simp only [SMap.put]
    split
    · rename_i e; subst e
      exact SMap.rising_cons.mpr ⟨ht, ha⟩
    · split
      · rename_i h1 h2
        refine SMap.rising_cons.mpr ⟨h, fun e he => ?_⟩
        rcases List.mem_cons.mp he with he | he
        · simp [he, h2]
        · exact lt_trans h2 (ha e he)
      · rename_i h1 h2
        refine SMap.rising_cons.mpr ⟨ih ht, fun e he => ?_⟩
        rcases SMap.mem_put he with he | he
        · simp only [he]; omega
        · exact ha e he

theorem SMap.rising_filter {m : SMap α} (h : SMap.rising m = true) (p : Nat × α → Bool) : SMap.rising (m.filter p) = true := by
  induction m with
  | nil => rfl
  | cons f t ih =>
    obtain ⟨a, x⟩ := f
    obtain ⟨ht, ha⟩ := SMap.rising_cons.mp h
    simp only [List.filter_cons]
    split
    · exact SMap.rising_cons.mpr ⟨ih ht, fun e he => ha e (List.mem_of_mem_filter he)⟩
    · exact ih ht

theorem SMap.rising_erase {m : SMap α} (h : SMap.rising m = true) (k : Nat) : SMap.rising (SMap.erase m k) = true :=
  SMap.rising_filter h _

theorem Memory.wf_nil : Memory.wf [] = true := rfl

theorem Memory.wf_iff (m : Memory) : m.wf = true ↔ SMap.rising m = true ∧ ∀ e ∈ m, e.2 ≠ Memory.blank := by
  simp [Memory.wf, List.all_eq_true]

/-- Writing a byte keeps the canonical form. -/
theorem Memory.wf_write {m : Memory} (h : m.wf = true) (a : Nat) (b : Byte) : (m.write a b).wf = true := by
  obtain ⟨hr, hb⟩ := (Memory.wf_iff m).mp h
  simp only [Memory.write]
  split
  · exact (Memory.wf_iff _).mpr ⟨SMap.rising_erase hr a, fun e he => hb e (List.mem_of_mem_filter he)⟩
  · rename_i hne
    refine (Memory.wf_iff _).mpr ⟨SMap.rising_put hr a b, fun e he => ?_⟩
    rcases SMap.mem_put he with he | he
    · simp [he, hne]
    · exact hb e he

/-- Writing several bytes keeps the canonical form. -/
theorem Memory.wf_writeN {m : Memory} (h : m.wf = true) (a : Nat) (bs : List Byte) : (m.writeN a bs).wf = true := by
  induction bs generalizing m a with
  | nil => exact h
  | cons b bs ih => exact ih (Memory.wf_write h a b) (a + 1)

/-- A byte reads as what was written to it, and every other byte as before. -/
theorem Memory.read_write (m : Memory) (a j : Nat) (b : Byte) : (m.write a b).read j = if j = a then b else m.read j := by
  simp only [Memory.read, Memory.write]
  split
  · rename_i h; rw [SMap.get_erase, h]
  · rw [SMap.get_put]

theorem Memory.read_write_same (m : Memory) (a : Nat) (b : Byte) : (m.write a b).read a = b := by simp [Memory.read_write]

theorem Memory.read_write_other (m : Memory) {a j : Nat} (b : Byte) (h : j ≠ a) : (m.write a b).read j = m.read j := by
  simp [Memory.read_write, h]

/-- After writing bytes from `a` up, a byte reads as the one written to it, and any other as before. -/
theorem Memory.read_writeN (m : Memory) (a j : Nat) (bs : List Byte) :
    (m.writeN a bs).read j = if a ≤ j ∧ j < a + bs.length then bs.getD (j - a) 0 else m.read j := by
  induction bs generalizing m a with
  | nil =>
    simp only [Memory.writeN, List.length_nil, Nat.add_zero]
    rw [if_neg (by omega)]
  | cons b bs ih =>
    simp only [Memory.writeN, ih, List.length_cons, Memory.read_write]
    by_cases h1 : j = a
    · subst h1; simp
    · by_cases h2 : a + 1 ≤ j ∧ j < a + 1 + bs.length
      · have h3 : a ≤ j ∧ j < a + (bs.length + 1) := by omega
        have h4 : j - a = j - (a + 1) + 1 := by omega
        simp [h2, h3, h4]
      · have h3 : ¬ (a ≤ j ∧ j < a + (bs.length + 1)) := by omega
        rw [if_neg h2, if_neg h3, if_neg h1]

theorem Memory.read_writeN_outside (m : Memory) (a j : Nat) (bs : List Byte) (h : j < a ∨ a + bs.length ≤ j) :
    (m.writeN a bs).read j = m.read j := by rw [Memory.read_writeN, if_neg (by omega)]

theorem Memory.readN_length (m : Memory) (a n : Nat) : (m.readN a n).length = n := by
  induction n generalizing a with
  | zero => rfl
  | succ n ih => simp [Memory.readN, ih]

theorem Memory.readN_getD (m : Memory) (a n i : Nat) (h : i < n) : (m.readN a n).getD i 0 = m.read (a + i) := by
  induction n generalizing a i with
  | zero => omega
  | succ n ih =>
    cases i with
    | zero => simp [Memory.readN]
    | succ i =>
      simp only [Memory.readN, List.getD_cons_succ]
      rw [ih (a + 1) i (by omega)]
      congr 1
      omega

/-- Two memories in canonical form that read the same are the same data. -/
theorem Memory.ext {m n : Memory} (hm : m.wf = true) (hn : n.wf = true) (h : ∀ a, m.read a = n.read a) : m = n := by
  induction m generalizing n with
  | nil =>
    cases n with
    | nil => rfl
    | cons e t =>
      obtain ⟨a, x⟩ := e
      have h0 := h a
      have hx := ((Memory.wf_iff _).mp hn).2 (a, x) (by simp)
      simp [Memory.read, SMap.get] at h0
      exact absurd h0.symm hx
  | cons e t ih =>
    obtain ⟨a, x⟩ := e
    have hmw := (Memory.wf_iff _).mp hm
    obtain ⟨hrt, hat⟩ := SMap.rising_cons.mp hmw.1
    have hx := hmw.2 (a, x) (by simp)
    cases n with
    | nil =>
      have h0 := h a
      simp [Memory.read, SMap.get] at h0
      exact absurd h0 hx
    | cons f u =>
      obtain ⟨b, y⟩ := f
      have hnw := (Memory.wf_iff _).mp hn
      obtain ⟨hru, hbu⟩ := SMap.rising_cons.mp hnw.1
      have hy := hnw.2 (b, y) (by simp)
      have below (l : Memory) (c : Nat) (hl : ∀ e ∈ l, c < e.1) (k : Nat) (hk : k ≤ c) : SMap.get Memory.blank l k = Memory.blank := by
        induction l with
        | nil => rfl
        | cons g l ihl =>
          obtain ⟨d, z⟩ := g
          have hd := hl (d, z) (by simp)
          simp only [SMap.get]
          rw [if_neg (by simp at hd; omega)]
          exact ihl fun e he => hl e (by simp [he])
      have hab : a = b := by
        rcases lt_trichotomy a b with hlt | heq | hgt
        · have h0 := h a
          simp only [Memory.read, SMap.get, if_true] at h0
          rw [if_neg (by omega), below u b hbu a (by omega)] at h0
          exact absurd h0 hx
        · exact heq
        · have h0 := h b
          simp only [Memory.read, SMap.get, if_true] at h0
          rw [if_neg (by omega), below t a hat b (by omega)] at h0
          exact absurd h0.symm hy
      subst hab
      have hxy : x = y := by simpa [Memory.read, SMap.get] using h a
      subst hxy
      congr 1
      refine ih ((Memory.wf_iff _).mpr ⟨hrt, fun e he => hmw.2 e (by simp [he])⟩) ((Memory.wf_iff _).mpr ⟨hru, fun e he => hnw.2 e (by simp [he])⟩) fun k => ?_
      by_cases hk : k = a
      · subst hk
        simp only [Memory.read]
        rw [below t k hat k (le_refl _), below u k hbu k (le_refl _)]
      · have h0 := h k
        simp only [Memory.read, SMap.get, if_neg hk] at h0
        exact h0

end Sys2Proof
end

