-- ==== Sys2Proof/Laws/State.lean ====
section
/-! SUPPORT. What each update of the state leaves in each field: one lemma per field and update, so that no proof unfolds a record update. -/

namespace Sys2Proof.Machine

/-! ### setW -/

@[simp] theorem State.setW_warps (s : State) (w : Warp) : (s.setW w).warps = SMap.put s.warps s.cur w := rfl
@[simp] theorem State.setW_cur (s : State) (w : Warp) : (s.setW w).cur = s.cur := rfl
@[simp] theorem State.setW_groups (s : State) (w : Warp) : (s.setW w).groups = s.groups := rfl
@[simp] theorem State.setW_grids (s : State) (w : Warp) : (s.setW w).grids = s.grids := rfl
@[simp] theorem State.setW_cores (s : State) (w : Warp) : (s.setW w).cores = s.cores := rfl
@[simp] theorem State.setW_dies (s : State) (w : Warp) : (s.setW w).dies = s.dies := rfl
@[simp] theorem State.setW_ctxs (s : State) (w : Warp) : (s.setW w).ctxs = s.ctxs := rfl
@[simp] theorem State.setW_queues (s : State) (w : Warp) : (s.setW w).queues = s.queues := rfl
@[simp] theorem State.setW_domains (s : State) (w : Warp) : (s.setW w).domains = s.domains := rfl
@[simp] theorem State.setW_mem (s : State) (w : Warp) : (s.setW w).mem = s.mem := rfl
@[simp] theorem State.setW_cache (s : State) (w : Warp) : (s.setW w).cache = s.cache := rfl
@[simp] theorem State.setW_lost (s : State) (w : Warp) : (s.setW w).lost = s.lost := rfl
@[simp] theorem State.setW_lostPages (s : State) (w : Warp) : (s.setW w).lostPages = s.lostPages := rfl
@[simp] theorem State.setW_salvBase (s : State) (w : Warp) : (s.setW w).salvBase = s.salvBase := rfl
@[simp] theorem State.setW_salvOff (s : State) (w : Warp) : (s.setW w).salvOff = s.salvOff := rfl
@[simp] theorem State.setW_salvSeq (s : State) (w : Warp) : (s.setW w).salvSeq = s.salvSeq := rfl
@[simp] theorem State.setW_failedHomes (s : State) (w : Warp) : (s.setW w).failedHomes = s.failedHomes := rfl
@[simp] theorem State.setW_bias (s : State) (w : Warp) : (s.setW w).bias = s.bias := rfl
@[simp] theorem State.setW_invals (s : State) (w : Warp) : (s.setW w).invals = s.invals := rfl
@[simp] theorem State.setW_resReqs (s : State) (w : Warp) : (s.setW w).resReqs = s.resReqs := rfl
@[simp] theorem State.setW_tiles (s : State) (w : Warp) : (s.setW w).tiles = s.tiles := rfl
@[simp] theorem State.setW_comms (s : State) (w : Warp) : (s.setW w).comms = s.comms := rfl
@[simp] theorem State.setW_colls (s : State) (w : Warp) : (s.setW w).colls = s.colls := rfl
@[simp] theorem State.setW_ports (s : State) (w : Warp) : (s.setW w).ports = s.ports := rfl
@[simp] theorem State.setW_streams (s : State) (w : Warp) : (s.setW w).streams = s.streams := rfl
@[simp] theorem State.setW_adds (s : State) (w : Warp) : (s.setW w).adds = s.adds := rfl
@[simp] theorem State.setW_mgmt (s : State) (w : Warp) : (s.setW w).mgmt = s.mgmt := rfl
@[simp] theorem State.setW_inputs (s : State) (w : Warp) : (s.setW w).inputs = s.inputs := rfl
@[simp] theorem State.setW_clk (s : State) (w : Warp) : (s.setW w).clk = s.clk := rfl
@[simp] theorem State.setW_turnCore (s : State) (w : Warp) : (s.setW w).turnCore = s.turnCore := rfl
@[simp] theorem State.setW_freeCount (s : State) (w : Warp) : (s.setW w).freeCount = s.freeCount := rfl
@[simp] theorem State.setW_lastQueue (s : State) (w : Warp) : (s.setW w).lastQueue = s.lastQueue := rfl
@[simp] theorem State.setW_dones (s : State) (w : Warp) : (s.setW w).dones = s.dones := rfl
@[simp] theorem State.setW_hostMem (s : State) (w : Warp) : (s.setW w).hostMem = s.hostMem := rfl
@[simp] theorem State.setW_unlives (s : State) (w : Warp) : (s.setW w).unlives = s.unlives := rfl
@[simp] theorem State.setW_shadow (s : State) (w : Warp) : (s.setW w).shadow = s.shadow := rfl

/-! ### setWarp -/

@[simp] theorem State.setWarp_warps (s : State) (h : Nat) (w : Warp) : (s.setWarp h w).warps = SMap.put s.warps h w := rfl
@[simp] theorem State.setWarp_cur (s : State) (h : Nat) (w : Warp) : (s.setWarp h w).cur = s.cur := rfl
@[simp] theorem State.setWarp_groups (s : State) (h : Nat) (w : Warp) : (s.setWarp h w).groups = s.groups := rfl
@[simp] theorem State.setWarp_grids (s : State) (h : Nat) (w : Warp) : (s.setWarp h w).grids = s.grids := rfl
@[simp] theorem State.setWarp_cores (s : State) (h : Nat) (w : Warp) : (s.setWarp h w).cores = s.cores := rfl
@[simp] theorem State.setWarp_dies (s : State) (h : Nat) (w : Warp) : (s.setWarp h w).dies = s.dies := rfl
@[simp] theorem State.setWarp_ctxs (s : State) (h : Nat) (w : Warp) : (s.setWarp h w).ctxs = s.ctxs := rfl
@[simp] theorem State.setWarp_queues (s : State) (h : Nat) (w : Warp) : (s.setWarp h w).queues = s.queues := rfl
@[simp] theorem State.setWarp_domains (s : State) (h : Nat) (w : Warp) : (s.setWarp h w).domains = s.domains := rfl
@[simp] theorem State.setWarp_mem (s : State) (h : Nat) (w : Warp) : (s.setWarp h w).mem = s.mem := rfl
@[simp] theorem State.setWarp_cache (s : State) (h : Nat) (w : Warp) : (s.setWarp h w).cache = s.cache := rfl
@[simp] theorem State.setWarp_lost (s : State) (h : Nat) (w : Warp) : (s.setWarp h w).lost = s.lost := rfl
@[simp] theorem State.setWarp_lostPages (s : State) (h : Nat) (w : Warp) : (s.setWarp h w).lostPages = s.lostPages := rfl
@[simp] theorem State.setWarp_salvBase (s : State) (h : Nat) (w : Warp) : (s.setWarp h w).salvBase = s.salvBase := rfl
@[simp] theorem State.setWarp_salvOff (s : State) (h : Nat) (w : Warp) : (s.setWarp h w).salvOff = s.salvOff := rfl
@[simp] theorem State.setWarp_salvSeq (s : State) (h : Nat) (w : Warp) : (s.setWarp h w).salvSeq = s.salvSeq := rfl
@[simp] theorem State.setWarp_failedHomes (s : State) (h : Nat) (w : Warp) : (s.setWarp h w).failedHomes = s.failedHomes := rfl
@[simp] theorem State.setWarp_bias (s : State) (h : Nat) (w : Warp) : (s.setWarp h w).bias = s.bias := rfl
@[simp] theorem State.setWarp_invals (s : State) (h : Nat) (w : Warp) : (s.setWarp h w).invals = s.invals := rfl
@[simp] theorem State.setWarp_resReqs (s : State) (h : Nat) (w : Warp) : (s.setWarp h w).resReqs = s.resReqs := rfl
@[simp] theorem State.setWarp_tiles (s : State) (h : Nat) (w : Warp) : (s.setWarp h w).tiles = s.tiles := rfl
@[simp] theorem State.setWarp_comms (s : State) (h : Nat) (w : Warp) : (s.setWarp h w).comms = s.comms := rfl
@[simp] theorem State.setWarp_colls (s : State) (h : Nat) (w : Warp) : (s.setWarp h w).colls = s.colls := rfl
@[simp] theorem State.setWarp_ports (s : State) (h : Nat) (w : Warp) : (s.setWarp h w).ports = s.ports := rfl
@[simp] theorem State.setWarp_streams (s : State) (h : Nat) (w : Warp) : (s.setWarp h w).streams = s.streams := rfl
@[simp] theorem State.setWarp_adds (s : State) (h : Nat) (w : Warp) : (s.setWarp h w).adds = s.adds := rfl
@[simp] theorem State.setWarp_mgmt (s : State) (h : Nat) (w : Warp) : (s.setWarp h w).mgmt = s.mgmt := rfl
@[simp] theorem State.setWarp_inputs (s : State) (h : Nat) (w : Warp) : (s.setWarp h w).inputs = s.inputs := rfl
@[simp] theorem State.setWarp_clk (s : State) (h : Nat) (w : Warp) : (s.setWarp h w).clk = s.clk := rfl
@[simp] theorem State.setWarp_turnCore (s : State) (h : Nat) (w : Warp) : (s.setWarp h w).turnCore = s.turnCore := rfl
@[simp] theorem State.setWarp_freeCount (s : State) (h : Nat) (w : Warp) : (s.setWarp h w).freeCount = s.freeCount := rfl
@[simp] theorem State.setWarp_lastQueue (s : State) (h : Nat) (w : Warp) : (s.setWarp h w).lastQueue = s.lastQueue := rfl
@[simp] theorem State.setWarp_dones (s : State) (h : Nat) (w : Warp) : (s.setWarp h w).dones = s.dones := rfl
@[simp] theorem State.setWarp_hostMem (s : State) (h : Nat) (w : Warp) : (s.setWarp h w).hostMem = s.hostMem := rfl
@[simp] theorem State.setWarp_unlives (s : State) (h : Nat) (w : Warp) : (s.setWarp h w).unlives = s.unlives := rfl
@[simp] theorem State.setWarp_shadow (s : State) (h : Nat) (w : Warp) : (s.setWarp h w).shadow = s.shadow := rfl

/-! ### setGroup -/

@[simp] theorem State.setGroup_warps (s : State) (g : Nat) (x : Group) : (s.setGroup g x).warps = s.warps := rfl
@[simp] theorem State.setGroup_cur (s : State) (g : Nat) (x : Group) : (s.setGroup g x).cur = s.cur := rfl
@[simp] theorem State.setGroup_groups (s : State) (g : Nat) (x : Group) : (s.setGroup g x).groups = SMap.put s.groups g x := rfl
@[simp] theorem State.setGroup_grids (s : State) (g : Nat) (x : Group) : (s.setGroup g x).grids = s.grids := rfl
@[simp] theorem State.setGroup_cores (s : State) (g : Nat) (x : Group) : (s.setGroup g x).cores = s.cores := rfl
@[simp] theorem State.setGroup_dies (s : State) (g : Nat) (x : Group) : (s.setGroup g x).dies = s.dies := rfl
@[simp] theorem State.setGroup_ctxs (s : State) (g : Nat) (x : Group) : (s.setGroup g x).ctxs = s.ctxs := rfl
@[simp] theorem State.setGroup_queues (s : State) (g : Nat) (x : Group) : (s.setGroup g x).queues = s.queues := rfl
@[simp] theorem State.setGroup_domains (s : State) (g : Nat) (x : Group) : (s.setGroup g x).domains = s.domains := rfl
@[simp] theorem State.setGroup_mem (s : State) (g : Nat) (x : Group) : (s.setGroup g x).mem = s.mem := rfl
@[simp] theorem State.setGroup_cache (s : State) (g : Nat) (x : Group) : (s.setGroup g x).cache = s.cache := rfl
@[simp] theorem State.setGroup_lost (s : State) (g : Nat) (x : Group) : (s.setGroup g x).lost = s.lost := rfl
@[simp] theorem State.setGroup_lostPages (s : State) (g : Nat) (x : Group) : (s.setGroup g x).lostPages = s.lostPages := rfl
@[simp] theorem State.setGroup_salvBase (s : State) (g : Nat) (x : Group) : (s.setGroup g x).salvBase = s.salvBase := rfl
@[simp] theorem State.setGroup_salvOff (s : State) (g : Nat) (x : Group) : (s.setGroup g x).salvOff = s.salvOff := rfl
@[simp] theorem State.setGroup_salvSeq (s : State) (g : Nat) (x : Group) : (s.setGroup g x).salvSeq = s.salvSeq := rfl
@[simp] theorem State.setGroup_failedHomes (s : State) (g : Nat) (x : Group) : (s.setGroup g x).failedHomes = s.failedHomes := rfl
@[simp] theorem State.setGroup_bias (s : State) (g : Nat) (x : Group) : (s.setGroup g x).bias = s.bias := rfl
@[simp] theorem State.setGroup_invals (s : State) (g : Nat) (x : Group) : (s.setGroup g x).invals = s.invals := rfl
@[simp] theorem State.setGroup_resReqs (s : State) (g : Nat) (x : Group) : (s.setGroup g x).resReqs = s.resReqs := rfl
@[simp] theorem State.setGroup_tiles (s : State) (g : Nat) (x : Group) : (s.setGroup g x).tiles = s.tiles := rfl
@[simp] theorem State.setGroup_comms (s : State) (g : Nat) (x : Group) : (s.setGroup g x).comms = s.comms := rfl
@[simp] theorem State.setGroup_colls (s : State) (g : Nat) (x : Group) : (s.setGroup g x).colls = s.colls := rfl
@[simp] theorem State.setGroup_ports (s : State) (g : Nat) (x : Group) : (s.setGroup g x).ports = s.ports := rfl
@[simp] theorem State.setGroup_streams (s : State) (g : Nat) (x : Group) : (s.setGroup g x).streams = s.streams := rfl
@[simp] theorem State.setGroup_adds (s : State) (g : Nat) (x : Group) : (s.setGroup g x).adds = s.adds := rfl
@[simp] theorem State.setGroup_mgmt (s : State) (g : Nat) (x : Group) : (s.setGroup g x).mgmt = s.mgmt := rfl
@[simp] theorem State.setGroup_inputs (s : State) (g : Nat) (x : Group) : (s.setGroup g x).inputs = s.inputs := rfl
@[simp] theorem State.setGroup_clk (s : State) (g : Nat) (x : Group) : (s.setGroup g x).clk = s.clk := rfl
@[simp] theorem State.setGroup_turnCore (s : State) (g : Nat) (x : Group) : (s.setGroup g x).turnCore = s.turnCore := rfl
@[simp] theorem State.setGroup_freeCount (s : State) (g : Nat) (x : Group) : (s.setGroup g x).freeCount = s.freeCount := rfl
@[simp] theorem State.setGroup_lastQueue (s : State) (g : Nat) (x : Group) : (s.setGroup g x).lastQueue = s.lastQueue := rfl
@[simp] theorem State.setGroup_dones (s : State) (g : Nat) (x : Group) : (s.setGroup g x).dones = s.dones := rfl
@[simp] theorem State.setGroup_hostMem (s : State) (g : Nat) (x : Group) : (s.setGroup g x).hostMem = s.hostMem := rfl
@[simp] theorem State.setGroup_unlives (s : State) (g : Nat) (x : Group) : (s.setGroup g x).unlives = s.unlives := rfl
@[simp] theorem State.setGroup_shadow (s : State) (g : Nat) (x : Group) : (s.setGroup g x).shadow = s.shadow := rfl

/-! ### setGrid -/

@[simp] theorem State.setGrid_warps (s : State) (g : Nat) (x : Grid) : (s.setGrid g x).warps = s.warps := rfl
@[simp] theorem State.setGrid_cur (s : State) (g : Nat) (x : Grid) : (s.setGrid g x).cur = s.cur := rfl
@[simp] theorem State.setGrid_groups (s : State) (g : Nat) (x : Grid) : (s.setGrid g x).groups = s.groups := rfl
@[simp] theorem State.setGrid_grids (s : State) (g : Nat) (x : Grid) : (s.setGrid g x).grids = SMap.put s.grids g x := rfl
@[simp] theorem State.setGrid_cores (s : State) (g : Nat) (x : Grid) : (s.setGrid g x).cores = s.cores := rfl
@[simp] theorem State.setGrid_dies (s : State) (g : Nat) (x : Grid) : (s.setGrid g x).dies = s.dies := rfl
@[simp] theorem State.setGrid_ctxs (s : State) (g : Nat) (x : Grid) : (s.setGrid g x).ctxs = s.ctxs := rfl
@[simp] theorem State.setGrid_queues (s : State) (g : Nat) (x : Grid) : (s.setGrid g x).queues = s.queues := rfl
@[simp] theorem State.setGrid_domains (s : State) (g : Nat) (x : Grid) : (s.setGrid g x).domains = s.domains := rfl
@[simp] theorem State.setGrid_mem (s : State) (g : Nat) (x : Grid) : (s.setGrid g x).mem = s.mem := rfl
@[simp] theorem State.setGrid_cache (s : State) (g : Nat) (x : Grid) : (s.setGrid g x).cache = s.cache := rfl
@[simp] theorem State.setGrid_lost (s : State) (g : Nat) (x : Grid) : (s.setGrid g x).lost = s.lost := rfl
@[simp] theorem State.setGrid_lostPages (s : State) (g : Nat) (x : Grid) : (s.setGrid g x).lostPages = s.lostPages := rfl
@[simp] theorem State.setGrid_salvBase (s : State) (g : Nat) (x : Grid) : (s.setGrid g x).salvBase = s.salvBase := rfl
@[simp] theorem State.setGrid_salvOff (s : State) (g : Nat) (x : Grid) : (s.setGrid g x).salvOff = s.salvOff := rfl
@[simp] theorem State.setGrid_salvSeq (s : State) (g : Nat) (x : Grid) : (s.setGrid g x).salvSeq = s.salvSeq := rfl
@[simp] theorem State.setGrid_failedHomes (s : State) (g : Nat) (x : Grid) : (s.setGrid g x).failedHomes = s.failedHomes := rfl
@[simp] theorem State.setGrid_bias (s : State) (g : Nat) (x : Grid) : (s.setGrid g x).bias = s.bias := rfl
@[simp] theorem State.setGrid_invals (s : State) (g : Nat) (x : Grid) : (s.setGrid g x).invals = s.invals := rfl
@[simp] theorem State.setGrid_resReqs (s : State) (g : Nat) (x : Grid) : (s.setGrid g x).resReqs = s.resReqs := rfl
@[simp] theorem State.setGrid_tiles (s : State) (g : Nat) (x : Grid) : (s.setGrid g x).tiles = s.tiles := rfl
@[simp] theorem State.setGrid_comms (s : State) (g : Nat) (x : Grid) : (s.setGrid g x).comms = s.comms := rfl
@[simp] theorem State.setGrid_colls (s : State) (g : Nat) (x : Grid) : (s.setGrid g x).colls = s.colls := rfl
@[simp] theorem State.setGrid_ports (s : State) (g : Nat) (x : Grid) : (s.setGrid g x).ports = s.ports := rfl
@[simp] theorem State.setGrid_streams (s : State) (g : Nat) (x : Grid) : (s.setGrid g x).streams = s.streams := rfl
@[simp] theorem State.setGrid_adds (s : State) (g : Nat) (x : Grid) : (s.setGrid g x).adds = s.adds := rfl
@[simp] theorem State.setGrid_mgmt (s : State) (g : Nat) (x : Grid) : (s.setGrid g x).mgmt = s.mgmt := rfl
@[simp] theorem State.setGrid_inputs (s : State) (g : Nat) (x : Grid) : (s.setGrid g x).inputs = s.inputs := rfl
@[simp] theorem State.setGrid_clk (s : State) (g : Nat) (x : Grid) : (s.setGrid g x).clk = s.clk := rfl
@[simp] theorem State.setGrid_turnCore (s : State) (g : Nat) (x : Grid) : (s.setGrid g x).turnCore = s.turnCore := rfl
@[simp] theorem State.setGrid_freeCount (s : State) (g : Nat) (x : Grid) : (s.setGrid g x).freeCount = s.freeCount := rfl
@[simp] theorem State.setGrid_lastQueue (s : State) (g : Nat) (x : Grid) : (s.setGrid g x).lastQueue = s.lastQueue := rfl
@[simp] theorem State.setGrid_dones (s : State) (g : Nat) (x : Grid) : (s.setGrid g x).dones = s.dones := rfl
@[simp] theorem State.setGrid_hostMem (s : State) (g : Nat) (x : Grid) : (s.setGrid g x).hostMem = s.hostMem := rfl
@[simp] theorem State.setGrid_unlives (s : State) (g : Nat) (x : Grid) : (s.setGrid g x).unlives = s.unlives := rfl
@[simp] theorem State.setGrid_shadow (s : State) (g : Nat) (x : Grid) : (s.setGrid g x).shadow = s.shadow := rfl

/-! ### setCtx -/

@[simp] theorem State.setCtx_warps (s : State) (c : Nat) (x : Ctx) : (s.setCtx c x).warps = s.warps := rfl
@[simp] theorem State.setCtx_cur (s : State) (c : Nat) (x : Ctx) : (s.setCtx c x).cur = s.cur := rfl
@[simp] theorem State.setCtx_groups (s : State) (c : Nat) (x : Ctx) : (s.setCtx c x).groups = s.groups := rfl
@[simp] theorem State.setCtx_grids (s : State) (c : Nat) (x : Ctx) : (s.setCtx c x).grids = s.grids := rfl
@[simp] theorem State.setCtx_cores (s : State) (c : Nat) (x : Ctx) : (s.setCtx c x).cores = s.cores := rfl
@[simp] theorem State.setCtx_dies (s : State) (c : Nat) (x : Ctx) : (s.setCtx c x).dies = s.dies := rfl
@[simp] theorem State.setCtx_ctxs (s : State) (c : Nat) (x : Ctx) : (s.setCtx c x).ctxs = SMap.put s.ctxs c x := rfl
@[simp] theorem State.setCtx_queues (s : State) (c : Nat) (x : Ctx) : (s.setCtx c x).queues = s.queues := rfl
@[simp] theorem State.setCtx_domains (s : State) (c : Nat) (x : Ctx) : (s.setCtx c x).domains = s.domains := rfl
@[simp] theorem State.setCtx_mem (s : State) (c : Nat) (x : Ctx) : (s.setCtx c x).mem = s.mem := rfl
@[simp] theorem State.setCtx_cache (s : State) (c : Nat) (x : Ctx) : (s.setCtx c x).cache = s.cache := rfl
@[simp] theorem State.setCtx_lost (s : State) (c : Nat) (x : Ctx) : (s.setCtx c x).lost = s.lost := rfl
@[simp] theorem State.setCtx_lostPages (s : State) (c : Nat) (x : Ctx) : (s.setCtx c x).lostPages = s.lostPages := rfl
@[simp] theorem State.setCtx_salvBase (s : State) (c : Nat) (x : Ctx) : (s.setCtx c x).salvBase = s.salvBase := rfl
@[simp] theorem State.setCtx_salvOff (s : State) (c : Nat) (x : Ctx) : (s.setCtx c x).salvOff = s.salvOff := rfl
@[simp] theorem State.setCtx_salvSeq (s : State) (c : Nat) (x : Ctx) : (s.setCtx c x).salvSeq = s.salvSeq := rfl
@[simp] theorem State.setCtx_failedHomes (s : State) (c : Nat) (x : Ctx) : (s.setCtx c x).failedHomes = s.failedHomes := rfl
@[simp] theorem State.setCtx_bias (s : State) (c : Nat) (x : Ctx) : (s.setCtx c x).bias = s.bias := rfl
@[simp] theorem State.setCtx_invals (s : State) (c : Nat) (x : Ctx) : (s.setCtx c x).invals = s.invals := rfl
@[simp] theorem State.setCtx_resReqs (s : State) (c : Nat) (x : Ctx) : (s.setCtx c x).resReqs = s.resReqs := rfl
@[simp] theorem State.setCtx_tiles (s : State) (c : Nat) (x : Ctx) : (s.setCtx c x).tiles = s.tiles := rfl
@[simp] theorem State.setCtx_comms (s : State) (c : Nat) (x : Ctx) : (s.setCtx c x).comms = s.comms := rfl
@[simp] theorem State.setCtx_colls (s : State) (c : Nat) (x : Ctx) : (s.setCtx c x).colls = s.colls := rfl
@[simp] theorem State.setCtx_ports (s : State) (c : Nat) (x : Ctx) : (s.setCtx c x).ports = s.ports := rfl
@[simp] theorem State.setCtx_streams (s : State) (c : Nat) (x : Ctx) : (s.setCtx c x).streams = s.streams := rfl
@[simp] theorem State.setCtx_adds (s : State) (c : Nat) (x : Ctx) : (s.setCtx c x).adds = s.adds := rfl
@[simp] theorem State.setCtx_mgmt (s : State) (c : Nat) (x : Ctx) : (s.setCtx c x).mgmt = s.mgmt := rfl
@[simp] theorem State.setCtx_inputs (s : State) (c : Nat) (x : Ctx) : (s.setCtx c x).inputs = s.inputs := rfl
@[simp] theorem State.setCtx_clk (s : State) (c : Nat) (x : Ctx) : (s.setCtx c x).clk = s.clk := rfl
@[simp] theorem State.setCtx_turnCore (s : State) (c : Nat) (x : Ctx) : (s.setCtx c x).turnCore = s.turnCore := rfl
@[simp] theorem State.setCtx_freeCount (s : State) (c : Nat) (x : Ctx) : (s.setCtx c x).freeCount = s.freeCount := rfl
@[simp] theorem State.setCtx_lastQueue (s : State) (c : Nat) (x : Ctx) : (s.setCtx c x).lastQueue = s.lastQueue := rfl
@[simp] theorem State.setCtx_dones (s : State) (c : Nat) (x : Ctx) : (s.setCtx c x).dones = s.dones := rfl
@[simp] theorem State.setCtx_hostMem (s : State) (c : Nat) (x : Ctx) : (s.setCtx c x).hostMem = s.hostMem := rfl
@[simp] theorem State.setCtx_unlives (s : State) (c : Nat) (x : Ctx) : (s.setCtx c x).unlives = s.unlives := rfl
@[simp] theorem State.setCtx_shadow (s : State) (c : Nat) (x : Ctx) : (s.setCtx c x).shadow = s.shadow := rfl

/-! ### setCore -/

@[simp] theorem State.setCore_warps (s : State) (c : Nat) (x : Core) : (s.setCore c x).warps = s.warps := rfl
@[simp] theorem State.setCore_cur (s : State) (c : Nat) (x : Core) : (s.setCore c x).cur = s.cur := rfl
@[simp] theorem State.setCore_groups (s : State) (c : Nat) (x : Core) : (s.setCore c x).groups = s.groups := rfl
@[simp] theorem State.setCore_grids (s : State) (c : Nat) (x : Core) : (s.setCore c x).grids = s.grids := rfl
@[simp] theorem State.setCore_cores (s : State) (c : Nat) (x : Core) : (s.setCore c x).cores = SMap.put s.cores c x := rfl
@[simp] theorem State.setCore_dies (s : State) (c : Nat) (x : Core) : (s.setCore c x).dies = s.dies := rfl
@[simp] theorem State.setCore_ctxs (s : State) (c : Nat) (x : Core) : (s.setCore c x).ctxs = s.ctxs := rfl
@[simp] theorem State.setCore_queues (s : State) (c : Nat) (x : Core) : (s.setCore c x).queues = s.queues := rfl
@[simp] theorem State.setCore_domains (s : State) (c : Nat) (x : Core) : (s.setCore c x).domains = s.domains := rfl
@[simp] theorem State.setCore_mem (s : State) (c : Nat) (x : Core) : (s.setCore c x).mem = s.mem := rfl
@[simp] theorem State.setCore_cache (s : State) (c : Nat) (x : Core) : (s.setCore c x).cache = s.cache := rfl
@[simp] theorem State.setCore_lost (s : State) (c : Nat) (x : Core) : (s.setCore c x).lost = s.lost := rfl
@[simp] theorem State.setCore_lostPages (s : State) (c : Nat) (x : Core) : (s.setCore c x).lostPages = s.lostPages := rfl
@[simp] theorem State.setCore_salvBase (s : State) (c : Nat) (x : Core) : (s.setCore c x).salvBase = s.salvBase := rfl
@[simp] theorem State.setCore_salvOff (s : State) (c : Nat) (x : Core) : (s.setCore c x).salvOff = s.salvOff := rfl
@[simp] theorem State.setCore_salvSeq (s : State) (c : Nat) (x : Core) : (s.setCore c x).salvSeq = s.salvSeq := rfl
@[simp] theorem State.setCore_failedHomes (s : State) (c : Nat) (x : Core) : (s.setCore c x).failedHomes = s.failedHomes := rfl
@[simp] theorem State.setCore_bias (s : State) (c : Nat) (x : Core) : (s.setCore c x).bias = s.bias := rfl
@[simp] theorem State.setCore_invals (s : State) (c : Nat) (x : Core) : (s.setCore c x).invals = s.invals := rfl
@[simp] theorem State.setCore_resReqs (s : State) (c : Nat) (x : Core) : (s.setCore c x).resReqs = s.resReqs := rfl
@[simp] theorem State.setCore_tiles (s : State) (c : Nat) (x : Core) : (s.setCore c x).tiles = s.tiles := rfl
@[simp] theorem State.setCore_comms (s : State) (c : Nat) (x : Core) : (s.setCore c x).comms = s.comms := rfl
@[simp] theorem State.setCore_colls (s : State) (c : Nat) (x : Core) : (s.setCore c x).colls = s.colls := rfl
@[simp] theorem State.setCore_ports (s : State) (c : Nat) (x : Core) : (s.setCore c x).ports = s.ports := rfl
@[simp] theorem State.setCore_streams (s : State) (c : Nat) (x : Core) : (s.setCore c x).streams = s.streams := rfl
@[simp] theorem State.setCore_adds (s : State) (c : Nat) (x : Core) : (s.setCore c x).adds = s.adds := rfl
@[simp] theorem State.setCore_mgmt (s : State) (c : Nat) (x : Core) : (s.setCore c x).mgmt = s.mgmt := rfl
@[simp] theorem State.setCore_inputs (s : State) (c : Nat) (x : Core) : (s.setCore c x).inputs = s.inputs := rfl
@[simp] theorem State.setCore_clk (s : State) (c : Nat) (x : Core) : (s.setCore c x).clk = s.clk := rfl
@[simp] theorem State.setCore_turnCore (s : State) (c : Nat) (x : Core) : (s.setCore c x).turnCore = s.turnCore := rfl
@[simp] theorem State.setCore_freeCount (s : State) (c : Nat) (x : Core) : (s.setCore c x).freeCount = s.freeCount := rfl
@[simp] theorem State.setCore_lastQueue (s : State) (c : Nat) (x : Core) : (s.setCore c x).lastQueue = s.lastQueue := rfl
@[simp] theorem State.setCore_dones (s : State) (c : Nat) (x : Core) : (s.setCore c x).dones = s.dones := rfl
@[simp] theorem State.setCore_hostMem (s : State) (c : Nat) (x : Core) : (s.setCore c x).hostMem = s.hostMem := rfl
@[simp] theorem State.setCore_unlives (s : State) (c : Nat) (x : Core) : (s.setCore c x).unlives = s.unlives := rfl
@[simp] theorem State.setCore_shadow (s : State) (c : Nat) (x : Core) : (s.setCore c x).shadow = s.shadow := rfl

/-! ### setDie -/

@[simp] theorem State.setDie_warps (s : State) (d : Nat) (x : Die) : (s.setDie d x).warps = s.warps := rfl
@[simp] theorem State.setDie_cur (s : State) (d : Nat) (x : Die) : (s.setDie d x).cur = s.cur := rfl
@[simp] theorem State.setDie_groups (s : State) (d : Nat) (x : Die) : (s.setDie d x).groups = s.groups := rfl
@[simp] theorem State.setDie_grids (s : State) (d : Nat) (x : Die) : (s.setDie d x).grids = s.grids := rfl
@[simp] theorem State.setDie_cores (s : State) (d : Nat) (x : Die) : (s.setDie d x).cores = s.cores := rfl
@[simp] theorem State.setDie_dies (s : State) (d : Nat) (x : Die) : (s.setDie d x).dies = SMap.put s.dies d x := rfl
@[simp] theorem State.setDie_ctxs (s : State) (d : Nat) (x : Die) : (s.setDie d x).ctxs = s.ctxs := rfl
@[simp] theorem State.setDie_queues (s : State) (d : Nat) (x : Die) : (s.setDie d x).queues = s.queues := rfl
@[simp] theorem State.setDie_domains (s : State) (d : Nat) (x : Die) : (s.setDie d x).domains = s.domains := rfl
@[simp] theorem State.setDie_mem (s : State) (d : Nat) (x : Die) : (s.setDie d x).mem = s.mem := rfl
@[simp] theorem State.setDie_cache (s : State) (d : Nat) (x : Die) : (s.setDie d x).cache = s.cache := rfl
@[simp] theorem State.setDie_lost (s : State) (d : Nat) (x : Die) : (s.setDie d x).lost = s.lost := rfl
@[simp] theorem State.setDie_lostPages (s : State) (d : Nat) (x : Die) : (s.setDie d x).lostPages = s.lostPages := rfl
@[simp] theorem State.setDie_salvBase (s : State) (d : Nat) (x : Die) : (s.setDie d x).salvBase = s.salvBase := rfl
@[simp] theorem State.setDie_salvOff (s : State) (d : Nat) (x : Die) : (s.setDie d x).salvOff = s.salvOff := rfl
@[simp] theorem State.setDie_salvSeq (s : State) (d : Nat) (x : Die) : (s.setDie d x).salvSeq = s.salvSeq := rfl
@[simp] theorem State.setDie_failedHomes (s : State) (d : Nat) (x : Die) : (s.setDie d x).failedHomes = s.failedHomes := rfl
@[simp] theorem State.setDie_bias (s : State) (d : Nat) (x : Die) : (s.setDie d x).bias = s.bias := rfl
@[simp] theorem State.setDie_invals (s : State) (d : Nat) (x : Die) : (s.setDie d x).invals = s.invals := rfl
@[simp] theorem State.setDie_resReqs (s : State) (d : Nat) (x : Die) : (s.setDie d x).resReqs = s.resReqs := rfl
@[simp] theorem State.setDie_tiles (s : State) (d : Nat) (x : Die) : (s.setDie d x).tiles = s.tiles := rfl
@[simp] theorem State.setDie_comms (s : State) (d : Nat) (x : Die) : (s.setDie d x).comms = s.comms := rfl
@[simp] theorem State.setDie_colls (s : State) (d : Nat) (x : Die) : (s.setDie d x).colls = s.colls := rfl
@[simp] theorem State.setDie_ports (s : State) (d : Nat) (x : Die) : (s.setDie d x).ports = s.ports := rfl
@[simp] theorem State.setDie_streams (s : State) (d : Nat) (x : Die) : (s.setDie d x).streams = s.streams := rfl
@[simp] theorem State.setDie_adds (s : State) (d : Nat) (x : Die) : (s.setDie d x).adds = s.adds := rfl
@[simp] theorem State.setDie_mgmt (s : State) (d : Nat) (x : Die) : (s.setDie d x).mgmt = s.mgmt := rfl
@[simp] theorem State.setDie_inputs (s : State) (d : Nat) (x : Die) : (s.setDie d x).inputs = s.inputs := rfl
@[simp] theorem State.setDie_clk (s : State) (d : Nat) (x : Die) : (s.setDie d x).clk = s.clk := rfl
@[simp] theorem State.setDie_turnCore (s : State) (d : Nat) (x : Die) : (s.setDie d x).turnCore = s.turnCore := rfl
@[simp] theorem State.setDie_freeCount (s : State) (d : Nat) (x : Die) : (s.setDie d x).freeCount = s.freeCount := rfl
@[simp] theorem State.setDie_lastQueue (s : State) (d : Nat) (x : Die) : (s.setDie d x).lastQueue = s.lastQueue := rfl
@[simp] theorem State.setDie_dones (s : State) (d : Nat) (x : Die) : (s.setDie d x).dones = s.dones := rfl
@[simp] theorem State.setDie_hostMem (s : State) (d : Nat) (x : Die) : (s.setDie d x).hostMem = s.hostMem := rfl
@[simp] theorem State.setDie_unlives (s : State) (d : Nat) (x : Die) : (s.setDie d x).unlives = s.unlives := rfl
@[simp] theorem State.setDie_shadow (s : State) (d : Nat) (x : Die) : (s.setDie d x).shadow = s.shadow := rfl

/-! ### setQueue -/

@[simp] theorem State.setQueue_warps (s : State) (q : Nat) (x : Queue) : (s.setQueue q x).warps = s.warps := rfl
@[simp] theorem State.setQueue_cur (s : State) (q : Nat) (x : Queue) : (s.setQueue q x).cur = s.cur := rfl
@[simp] theorem State.setQueue_groups (s : State) (q : Nat) (x : Queue) : (s.setQueue q x).groups = s.groups := rfl
@[simp] theorem State.setQueue_grids (s : State) (q : Nat) (x : Queue) : (s.setQueue q x).grids = s.grids := rfl
@[simp] theorem State.setQueue_cores (s : State) (q : Nat) (x : Queue) : (s.setQueue q x).cores = s.cores := rfl
@[simp] theorem State.setQueue_dies (s : State) (q : Nat) (x : Queue) : (s.setQueue q x).dies = s.dies := rfl
@[simp] theorem State.setQueue_ctxs (s : State) (q : Nat) (x : Queue) : (s.setQueue q x).ctxs = s.ctxs := rfl
@[simp] theorem State.setQueue_queues (s : State) (q : Nat) (x : Queue) : (s.setQueue q x).queues = SMap.put s.queues q x := rfl
@[simp] theorem State.setQueue_domains (s : State) (q : Nat) (x : Queue) : (s.setQueue q x).domains = s.domains := rfl
@[simp] theorem State.setQueue_mem (s : State) (q : Nat) (x : Queue) : (s.setQueue q x).mem = s.mem := rfl
@[simp] theorem State.setQueue_cache (s : State) (q : Nat) (x : Queue) : (s.setQueue q x).cache = s.cache := rfl
@[simp] theorem State.setQueue_lost (s : State) (q : Nat) (x : Queue) : (s.setQueue q x).lost = s.lost := rfl
@[simp] theorem State.setQueue_lostPages (s : State) (q : Nat) (x : Queue) : (s.setQueue q x).lostPages = s.lostPages := rfl
@[simp] theorem State.setQueue_salvBase (s : State) (q : Nat) (x : Queue) : (s.setQueue q x).salvBase = s.salvBase := rfl
@[simp] theorem State.setQueue_salvOff (s : State) (q : Nat) (x : Queue) : (s.setQueue q x).salvOff = s.salvOff := rfl
@[simp] theorem State.setQueue_salvSeq (s : State) (q : Nat) (x : Queue) : (s.setQueue q x).salvSeq = s.salvSeq := rfl
@[simp] theorem State.setQueue_failedHomes (s : State) (q : Nat) (x : Queue) : (s.setQueue q x).failedHomes = s.failedHomes := rfl
@[simp] theorem State.setQueue_bias (s : State) (q : Nat) (x : Queue) : (s.setQueue q x).bias = s.bias := rfl
@[simp] theorem State.setQueue_invals (s : State) (q : Nat) (x : Queue) : (s.setQueue q x).invals = s.invals := rfl
@[simp] theorem State.setQueue_resReqs (s : State) (q : Nat) (x : Queue) : (s.setQueue q x).resReqs = s.resReqs := rfl
@[simp] theorem State.setQueue_tiles (s : State) (q : Nat) (x : Queue) : (s.setQueue q x).tiles = s.tiles := rfl
@[simp] theorem State.setQueue_comms (s : State) (q : Nat) (x : Queue) : (s.setQueue q x).comms = s.comms := rfl
@[simp] theorem State.setQueue_colls (s : State) (q : Nat) (x : Queue) : (s.setQueue q x).colls = s.colls := rfl
@[simp] theorem State.setQueue_ports (s : State) (q : Nat) (x : Queue) : (s.setQueue q x).ports = s.ports := rfl
@[simp] theorem State.setQueue_streams (s : State) (q : Nat) (x : Queue) : (s.setQueue q x).streams = s.streams := rfl
@[simp] theorem State.setQueue_adds (s : State) (q : Nat) (x : Queue) : (s.setQueue q x).adds = s.adds := rfl
@[simp] theorem State.setQueue_mgmt (s : State) (q : Nat) (x : Queue) : (s.setQueue q x).mgmt = s.mgmt := rfl
@[simp] theorem State.setQueue_inputs (s : State) (q : Nat) (x : Queue) : (s.setQueue q x).inputs = s.inputs := rfl
@[simp] theorem State.setQueue_clk (s : State) (q : Nat) (x : Queue) : (s.setQueue q x).clk = s.clk := rfl
@[simp] theorem State.setQueue_turnCore (s : State) (q : Nat) (x : Queue) : (s.setQueue q x).turnCore = s.turnCore := rfl
@[simp] theorem State.setQueue_freeCount (s : State) (q : Nat) (x : Queue) : (s.setQueue q x).freeCount = s.freeCount := rfl
@[simp] theorem State.setQueue_lastQueue (s : State) (q : Nat) (x : Queue) : (s.setQueue q x).lastQueue = s.lastQueue := rfl
@[simp] theorem State.setQueue_dones (s : State) (q : Nat) (x : Queue) : (s.setQueue q x).dones = s.dones := rfl
@[simp] theorem State.setQueue_hostMem (s : State) (q : Nat) (x : Queue) : (s.setQueue q x).hostMem = s.hostMem := rfl
@[simp] theorem State.setQueue_unlives (s : State) (q : Nat) (x : Queue) : (s.setQueue q x).unlives = s.unlives := rfl
@[simp] theorem State.setQueue_shadow (s : State) (q : Nat) (x : Queue) : (s.setQueue q x).shadow = s.shadow := rfl

/-! ### setDom -/

@[simp] theorem State.setDom_warps (s : State) (d : Nat) (x : Domain) : (s.setDom d x).warps = s.warps := rfl
@[simp] theorem State.setDom_cur (s : State) (d : Nat) (x : Domain) : (s.setDom d x).cur = s.cur := rfl
@[simp] theorem State.setDom_groups (s : State) (d : Nat) (x : Domain) : (s.setDom d x).groups = s.groups := rfl
@[simp] theorem State.setDom_grids (s : State) (d : Nat) (x : Domain) : (s.setDom d x).grids = s.grids := rfl
@[simp] theorem State.setDom_cores (s : State) (d : Nat) (x : Domain) : (s.setDom d x).cores = s.cores := rfl
@[simp] theorem State.setDom_dies (s : State) (d : Nat) (x : Domain) : (s.setDom d x).dies = s.dies := rfl
@[simp] theorem State.setDom_ctxs (s : State) (d : Nat) (x : Domain) : (s.setDom d x).ctxs = s.ctxs := rfl
@[simp] theorem State.setDom_queues (s : State) (d : Nat) (x : Domain) : (s.setDom d x).queues = s.queues := rfl
@[simp] theorem State.setDom_domains (s : State) (d : Nat) (x : Domain) : (s.setDom d x).domains = SMap.put s.domains d x := rfl
@[simp] theorem State.setDom_mem (s : State) (d : Nat) (x : Domain) : (s.setDom d x).mem = s.mem := rfl
@[simp] theorem State.setDom_cache (s : State) (d : Nat) (x : Domain) : (s.setDom d x).cache = s.cache := rfl
@[simp] theorem State.setDom_lost (s : State) (d : Nat) (x : Domain) : (s.setDom d x).lost = s.lost := rfl
@[simp] theorem State.setDom_lostPages (s : State) (d : Nat) (x : Domain) : (s.setDom d x).lostPages = s.lostPages := rfl
@[simp] theorem State.setDom_salvBase (s : State) (d : Nat) (x : Domain) : (s.setDom d x).salvBase = s.salvBase := rfl
@[simp] theorem State.setDom_salvOff (s : State) (d : Nat) (x : Domain) : (s.setDom d x).salvOff = s.salvOff := rfl
@[simp] theorem State.setDom_salvSeq (s : State) (d : Nat) (x : Domain) : (s.setDom d x).salvSeq = s.salvSeq := rfl
@[simp] theorem State.setDom_failedHomes (s : State) (d : Nat) (x : Domain) : (s.setDom d x).failedHomes = s.failedHomes := rfl
@[simp] theorem State.setDom_bias (s : State) (d : Nat) (x : Domain) : (s.setDom d x).bias = s.bias := rfl
@[simp] theorem State.setDom_invals (s : State) (d : Nat) (x : Domain) : (s.setDom d x).invals = s.invals := rfl
@[simp] theorem State.setDom_resReqs (s : State) (d : Nat) (x : Domain) : (s.setDom d x).resReqs = s.resReqs := rfl
@[simp] theorem State.setDom_tiles (s : State) (d : Nat) (x : Domain) : (s.setDom d x).tiles = s.tiles := rfl
@[simp] theorem State.setDom_comms (s : State) (d : Nat) (x : Domain) : (s.setDom d x).comms = s.comms := rfl
@[simp] theorem State.setDom_colls (s : State) (d : Nat) (x : Domain) : (s.setDom d x).colls = s.colls := rfl
@[simp] theorem State.setDom_ports (s : State) (d : Nat) (x : Domain) : (s.setDom d x).ports = s.ports := rfl
@[simp] theorem State.setDom_streams (s : State) (d : Nat) (x : Domain) : (s.setDom d x).streams = s.streams := rfl
@[simp] theorem State.setDom_adds (s : State) (d : Nat) (x : Domain) : (s.setDom d x).adds = s.adds := rfl
@[simp] theorem State.setDom_mgmt (s : State) (d : Nat) (x : Domain) : (s.setDom d x).mgmt = s.mgmt := rfl
@[simp] theorem State.setDom_inputs (s : State) (d : Nat) (x : Domain) : (s.setDom d x).inputs = s.inputs := rfl
@[simp] theorem State.setDom_clk (s : State) (d : Nat) (x : Domain) : (s.setDom d x).clk = s.clk := rfl
@[simp] theorem State.setDom_turnCore (s : State) (d : Nat) (x : Domain) : (s.setDom d x).turnCore = s.turnCore := rfl
@[simp] theorem State.setDom_freeCount (s : State) (d : Nat) (x : Domain) : (s.setDom d x).freeCount = s.freeCount := rfl
@[simp] theorem State.setDom_lastQueue (s : State) (d : Nat) (x : Domain) : (s.setDom d x).lastQueue = s.lastQueue := rfl
@[simp] theorem State.setDom_dones (s : State) (d : Nat) (x : Domain) : (s.setDom d x).dones = s.dones := rfl
@[simp] theorem State.setDom_hostMem (s : State) (d : Nat) (x : Domain) : (s.setDom d x).hostMem = s.hostMem := rfl
@[simp] theorem State.setDom_unlives (s : State) (d : Nat) (x : Domain) : (s.setDom d x).unlives = s.unlives := rfl
@[simp] theorem State.setDom_shadow (s : State) (d : Nat) (x : Domain) : (s.setDom d x).shadow = s.shadow := rfl

/-! ### modMgmt -/

@[simp] theorem State.modMgmt_warps (s : State) (f : Mgmt → Mgmt) : (s.modMgmt f).warps = s.warps := rfl
@[simp] theorem State.modMgmt_cur (s : State) (f : Mgmt → Mgmt) : (s.modMgmt f).cur = s.cur := rfl
@[simp] theorem State.modMgmt_groups (s : State) (f : Mgmt → Mgmt) : (s.modMgmt f).groups = s.groups := rfl
@[simp] theorem State.modMgmt_grids (s : State) (f : Mgmt → Mgmt) : (s.modMgmt f).grids = s.grids := rfl
@[simp] theorem State.modMgmt_cores (s : State) (f : Mgmt → Mgmt) : (s.modMgmt f).cores = s.cores := rfl
@[simp] theorem State.modMgmt_dies (s : State) (f : Mgmt → Mgmt) : (s.modMgmt f).dies = s.dies := rfl
@[simp] theorem State.modMgmt_ctxs (s : State) (f : Mgmt → Mgmt) : (s.modMgmt f).ctxs = s.ctxs := rfl
@[simp] theorem State.modMgmt_queues (s : State) (f : Mgmt → Mgmt) : (s.modMgmt f).queues = s.queues := rfl
@[simp] theorem State.modMgmt_domains (s : State) (f : Mgmt → Mgmt) : (s.modMgmt f).domains = s.domains := rfl
@[simp] theorem State.modMgmt_mem (s : State) (f : Mgmt → Mgmt) : (s.modMgmt f).mem = s.mem := rfl
@[simp] theorem State.modMgmt_cache (s : State) (f : Mgmt → Mgmt) : (s.modMgmt f).cache = s.cache := rfl
@[simp] theorem State.modMgmt_lost (s : State) (f : Mgmt → Mgmt) : (s.modMgmt f).lost = s.lost := rfl
@[simp] theorem State.modMgmt_lostPages (s : State) (f : Mgmt → Mgmt) : (s.modMgmt f).lostPages = s.lostPages := rfl
@[simp] theorem State.modMgmt_salvBase (s : State) (f : Mgmt → Mgmt) : (s.modMgmt f).salvBase = s.salvBase := rfl
@[simp] theorem State.modMgmt_salvOff (s : State) (f : Mgmt → Mgmt) : (s.modMgmt f).salvOff = s.salvOff := rfl
@[simp] theorem State.modMgmt_salvSeq (s : State) (f : Mgmt → Mgmt) : (s.modMgmt f).salvSeq = s.salvSeq := rfl
@[simp] theorem State.modMgmt_failedHomes (s : State) (f : Mgmt → Mgmt) : (s.modMgmt f).failedHomes = s.failedHomes := rfl
@[simp] theorem State.modMgmt_bias (s : State) (f : Mgmt → Mgmt) : (s.modMgmt f).bias = s.bias := rfl
@[simp] theorem State.modMgmt_invals (s : State) (f : Mgmt → Mgmt) : (s.modMgmt f).invals = s.invals := rfl
@[simp] theorem State.modMgmt_resReqs (s : State) (f : Mgmt → Mgmt) : (s.modMgmt f).resReqs = s.resReqs := rfl
@[simp] theorem State.modMgmt_tiles (s : State) (f : Mgmt → Mgmt) : (s.modMgmt f).tiles = s.tiles := rfl
@[simp] theorem State.modMgmt_comms (s : State) (f : Mgmt → Mgmt) : (s.modMgmt f).comms = s.comms := rfl
@[simp] theorem State.modMgmt_colls (s : State) (f : Mgmt → Mgmt) : (s.modMgmt f).colls = s.colls := rfl
@[simp] theorem State.modMgmt_ports (s : State) (f : Mgmt → Mgmt) : (s.modMgmt f).ports = s.ports := rfl
@[simp] theorem State.modMgmt_streams (s : State) (f : Mgmt → Mgmt) : (s.modMgmt f).streams = s.streams := rfl
@[simp] theorem State.modMgmt_adds (s : State) (f : Mgmt → Mgmt) : (s.modMgmt f).adds = s.adds := rfl
@[simp] theorem State.modMgmt_mgmt (s : State) (f : Mgmt → Mgmt) : (s.modMgmt f).mgmt = f s.mgmt := rfl
@[simp] theorem State.modMgmt_inputs (s : State) (f : Mgmt → Mgmt) : (s.modMgmt f).inputs = s.inputs := rfl
@[simp] theorem State.modMgmt_clk (s : State) (f : Mgmt → Mgmt) : (s.modMgmt f).clk = s.clk := rfl
@[simp] theorem State.modMgmt_turnCore (s : State) (f : Mgmt → Mgmt) : (s.modMgmt f).turnCore = s.turnCore := rfl
@[simp] theorem State.modMgmt_freeCount (s : State) (f : Mgmt → Mgmt) : (s.modMgmt f).freeCount = s.freeCount := rfl
@[simp] theorem State.modMgmt_lastQueue (s : State) (f : Mgmt → Mgmt) : (s.modMgmt f).lastQueue = s.lastQueue := rfl
@[simp] theorem State.modMgmt_dones (s : State) (f : Mgmt → Mgmt) : (s.modMgmt f).dones = s.dones := rfl
@[simp] theorem State.modMgmt_hostMem (s : State) (f : Mgmt → Mgmt) : (s.modMgmt f).hostMem = s.hostMem := rfl
@[simp] theorem State.modMgmt_unlives (s : State) (f : Mgmt → Mgmt) : (s.modMgmt f).unlives = s.unlives := rfl
@[simp] theorem State.modMgmt_shadow (s : State) (f : Mgmt → Mgmt) : (s.modMgmt f).shadow = s.shadow := rfl

/-! ### The current warp -/

/-- Replacing the current warp makes it the current warp. -/
@[simp] theorem State.setW_w (s : State) (w : Warp) : (s.setW w).w = w := by simp [State.w]

/-- Changing the current warp, when there is one. -/
theorem State.modW_eq {s : State} (h : (SMap.find s.warps s.cur).isSome) (f : Warp → Warp) : s.modW f = s.setW (f s.w) := by
  obtain ⟨w, hw⟩ := Option.isSome_iff_exists.mp h
  simp [State.modW, State.w, SMap.get_eq_find, hw]

theorem State.modW_w {s : State} (h : (SMap.find s.warps s.cur).isSome) (f : Warp → Warp) : (s.modW f).w = f s.w := by
  rw [State.modW_eq h, State.setW_w]

/-- Without a current warp nothing changes. -/
theorem State.modW_none {s : State} (h : SMap.find s.warps s.cur = none) (f : Warp → Warp) : s.modW f = s := by
  simp [State.modW, h]

/-- A changed current warp is still there. -/
theorem State.modW_isSome {s : State} (h : (SMap.find s.warps s.cur).isSome) (f : Warp → Warp) :
    (SMap.find (s.modW f).warps (s.modW f).cur).isSome := by
  rw [State.modW_eq h]; simp

/-- No other warp is touched. -/
theorem State.modW_other (s : State) (f : Warp → Warp) {h : Nat} (hh : h ≠ s.cur) :
    SMap.find (s.modW f).warps h = SMap.find s.warps h := by
  unfold State.modW
  split
  · simp [SMap.find_put_other _ _ hh]
  · rfl

/-- Two changes of the current warp are one. -/
theorem State.modW_modW (s : State) (f g : Warp → Warp) : (s.modW f).modW g = s.modW fun w => g (f w) := by
  cases h : SMap.find s.warps s.cur with
  | none => simp [State.modW, h]
  | some w =>
    have hs : (SMap.find s.warps s.cur).isSome := by simp [h]
    rw [State.modW_eq (State.modW_isSome hs f), State.modW_w hs, State.modW_eq hs, State.modW_eq hs]
    simp [State.setW, SMap.put_put]

/-! ### modW -/

@[simp] theorem State.modW_cur (s : State) (f : Warp → Warp) : (s.modW f).cur = s.cur := by unfold State.modW; split <;> rfl
@[simp] theorem State.modW_groups (s : State) (f : Warp → Warp) : (s.modW f).groups = s.groups := by unfold State.modW; split <;> rfl
@[simp] theorem State.modW_grids (s : State) (f : Warp → Warp) : (s.modW f).grids = s.grids := by unfold State.modW; split <;> rfl
@[simp] theorem State.modW_cores (s : State) (f : Warp → Warp) : (s.modW f).cores = s.cores := by unfold State.modW; split <;> rfl
@[simp] theorem State.modW_dies (s : State) (f : Warp → Warp) : (s.modW f).dies = s.dies := by unfold State.modW; split <;> rfl
@[simp] theorem State.modW_ctxs (s : State) (f : Warp → Warp) : (s.modW f).ctxs = s.ctxs := by unfold State.modW; split <;> rfl
@[simp] theorem State.modW_queues (s : State) (f : Warp → Warp) : (s.modW f).queues = s.queues := by unfold State.modW; split <;> rfl
@[simp] theorem State.modW_domains (s : State) (f : Warp → Warp) : (s.modW f).domains = s.domains := by unfold State.modW; split <;> rfl
@[simp] theorem State.modW_mem (s : State) (f : Warp → Warp) : (s.modW f).mem = s.mem := by unfold State.modW; split <;> rfl
@[simp] theorem State.modW_cache (s : State) (f : Warp → Warp) : (s.modW f).cache = s.cache := by unfold State.modW; split <;> rfl
@[simp] theorem State.modW_lost (s : State) (f : Warp → Warp) : (s.modW f).lost = s.lost := by unfold State.modW; split <;> rfl
@[simp] theorem State.modW_lostPages (s : State) (f : Warp → Warp) : (s.modW f).lostPages = s.lostPages := by unfold State.modW; split <;> rfl
@[simp] theorem State.modW_salvBase (s : State) (f : Warp → Warp) : (s.modW f).salvBase = s.salvBase := by unfold State.modW; split <;> rfl
@[simp] theorem State.modW_salvOff (s : State) (f : Warp → Warp) : (s.modW f).salvOff = s.salvOff := by unfold State.modW; split <;> rfl
@[simp] theorem State.modW_salvSeq (s : State) (f : Warp → Warp) : (s.modW f).salvSeq = s.salvSeq := by unfold State.modW; split <;> rfl
@[simp] theorem State.modW_failedHomes (s : State) (f : Warp → Warp) : (s.modW f).failedHomes = s.failedHomes := by unfold State.modW; split <;> rfl
@[simp] theorem State.modW_bias (s : State) (f : Warp → Warp) : (s.modW f).bias = s.bias := by unfold State.modW; split <;> rfl
@[simp] theorem State.modW_invals (s : State) (f : Warp → Warp) : (s.modW f).invals = s.invals := by unfold State.modW; split <;> rfl
@[simp] theorem State.modW_resReqs (s : State) (f : Warp → Warp) : (s.modW f).resReqs = s.resReqs := by unfold State.modW; split <;> rfl
@[simp] theorem State.modW_tiles (s : State) (f : Warp → Warp) : (s.modW f).tiles = s.tiles := by unfold State.modW; split <;> rfl
@[simp] theorem State.modW_comms (s : State) (f : Warp → Warp) : (s.modW f).comms = s.comms := by unfold State.modW; split <;> rfl
@[simp] theorem State.modW_colls (s : State) (f : Warp → Warp) : (s.modW f).colls = s.colls := by unfold State.modW; split <;> rfl
@[simp] theorem State.modW_ports (s : State) (f : Warp → Warp) : (s.modW f).ports = s.ports := by unfold State.modW; split <;> rfl
@[simp] theorem State.modW_streams (s : State) (f : Warp → Warp) : (s.modW f).streams = s.streams := by unfold State.modW; split <;> rfl
@[simp] theorem State.modW_adds (s : State) (f : Warp → Warp) : (s.modW f).adds = s.adds := by unfold State.modW; split <;> rfl
@[simp] theorem State.modW_mgmt (s : State) (f : Warp → Warp) : (s.modW f).mgmt = s.mgmt := by unfold State.modW; split <;> rfl
@[simp] theorem State.modW_inputs (s : State) (f : Warp → Warp) : (s.modW f).inputs = s.inputs := by unfold State.modW; split <;> rfl
@[simp] theorem State.modW_clk (s : State) (f : Warp → Warp) : (s.modW f).clk = s.clk := by unfold State.modW; split <;> rfl
@[simp] theorem State.modW_turnCore (s : State) (f : Warp → Warp) : (s.modW f).turnCore = s.turnCore := by unfold State.modW; split <;> rfl
@[simp] theorem State.modW_freeCount (s : State) (f : Warp → Warp) : (s.modW f).freeCount = s.freeCount := by unfold State.modW; split <;> rfl
@[simp] theorem State.modW_lastQueue (s : State) (f : Warp → Warp) : (s.modW f).lastQueue = s.lastQueue := by unfold State.modW; split <;> rfl
@[simp] theorem State.modW_dones (s : State) (f : Warp → Warp) : (s.modW f).dones = s.dones := by unfold State.modW; split <;> rfl
@[simp] theorem State.modW_hostMem (s : State) (f : Warp → Warp) : (s.modW f).hostMem = s.hostMem := by unfold State.modW; split <;> rfl
@[simp] theorem State.modW_unlives (s : State) (f : Warp → Warp) : (s.modW f).unlives = s.unlives := by unfold State.modW; split <;> rfl
@[simp] theorem State.modW_shadow (s : State) (f : Warp → Warp) : (s.modW f).shadow = s.shadow := by unfold State.modW; split <;> rfl

end Sys2Proof.Machine
end

