-- ==== Sys2Proof/Laws/Ops.lean ====
section
/-! SUPPORT. What the shared operations can do, once each: results under way, retiring, holding, stopping. -/

namespace Sys2Proof

/-! ### Lanes -/

theorem mem_lanesOf (m : Word) (l : Nat) : l ∈ lanesOf m ↔ l < 32 ∧ m.getLsbD l = true := by
  simp [lanesOf, lanes]

theorem lanesOf_nodup (m : Word) : (lanesOf m).Nodup := List.Nodup.filter _ List.nodup_range

/-- Writing a value for each of some lanes. -/
theorem get_foldl_put {α : Type} (d : α) (f : Nat → α) (ls : List Nat) (m : SMap α) (l : Nat) :
    SMap.get d (ls.foldl (fun m l => SMap.put m l (f l)) m) l = if l ∈ ls then f l else SMap.get d m l := by
  induction ls generalizing m with
  | nil => simp
  | cons a t ih =>
    simp only [List.foldl_cons, ih, List.mem_cons]
    by_cases h1 : l ∈ t
    · simp [h1]
    · by_cases h2 : l = a
      · subst h2; simp [h1]
      · simp [h1, h2, SMap.get_put]

namespace Machine

/-! ### Results under way (R60) -/

theorem mem_insertPend (p x : PendWrite) (l : List PendWrite) : x ∈ insertPend p l ↔ x = p ∨ x ∈ l := by
  induction l with
  | nil => simp [insertPend]
  | cons q t ih =>
    simp only [insertPend]
    split
    · simp
    · simp only [List.mem_cons, ih]; tauto

/-- A result that a selection leaves out does not change what it selects. -/
theorem filter_insertPend (q : PendWrite → Bool) (p : PendWrite) (l : List PendWrite) (h : q p = false) : (insertPend p l).filter q = l.filter q := by
  induction l with
  | nil => simp [insertPend, h]
  | cons x t ih =>
    simp only [insertPend]
    split
    · simp [h]
    · simp only [List.filter_cons, ih]

theorem PendWrite.yield_at (p : PendWrite) (sched vis : Nat) (r : RegWrite) : (p.yield sched vis r).at_ = p.at_ := by unfold PendWrite.yield; split <;> rfl
theorem PendWrite.yield_reg (p : PendWrite) (sched vis : Nat) (r : RegWrite) : (p.yield sched vis r).res.reg = p.res.reg := by
  unfold PendWrite.yield; split <;> rfl

/-- A result of another register, or of another group, yields nothing. -/
theorem PendWrite.yield_other (p : PendWrite) (sched vis : Nat) (r : RegWrite) (h : p.at_ ≠ sched ∨ p.res.reg ≠ r.reg) : p.yield sched vis r = p := by
  unfold PendWrite.yield
  rw [if_neg]
  rintro ⟨h1, h2, -⟩
  rcases h with h | h
  · exact h h1
  · exact h h2

@[simp] theorem Warp.push_sched (w : Warp) (lat : Nat) (r : RegWrite) : (w.push lat r).sched = w.sched := rfl
@[simp] theorem Warp.push_specials (w : Warp) (lat : Nat) (r : RegWrite) : (w.push lat r).specials = w.specials := rfl
@[simp] theorem Warp.push_deferred (w : Warp) (lat : Nat) (r : RegWrite) : (w.push lat r).deferred = w.deferred := rfl
@[simp] theorem Warp.push_runPc (w : Warp) (lat : Nat) (r : RegWrite) : (w.push lat r).runPc = w.runPc := rfl
@[simp] theorem Warp.push_active (w : Warp) (lat : Nat) (r : RegWrite) : (w.push lat r).active = w.active := rfl

theorem Warp.push_pend (w : Warp) (lat : Nat) (r : RegWrite) :
    (w.push lat r).pend = insertPend ⟨r, w.sched, w.sched + lat⟩ (w.pend.map fun p => p.yield w.sched (w.sched + lat) r) := rfl

/-- What counted instructions lose to a later word of their group is no part of what stays. -/
theorem Warp.overrule_still (w : Warp) (r : RegId) (m : Word) : (w.overrule r m).still = w.still := by
  have : (w.overrule r m).inflight.map Inflight.bare = w.inflight.map Inflight.bare := by
    simp only [Warp.overrule, List.map_map]
    refine List.map_congr_left fun f _ => ?_
    simp only [Function.comp]
    split <;> rfl
  unfold Warp.still
  rw [this]
  rfl

@[simp] theorem Warp.push_still (w : Warp) (lat : Nat) (r : RegWrite) : (w.push lat r).still = w.still := w.overrule_still r.reg _

/-- A result for one register leaves what other registers, and other groups, have under way. -/
theorem Warp.under_push (w : Warp) (lat : Nat) (r : RegWrite) (reg : RegId) (n : Nat) (h : n ≠ w.sched ∨ reg ≠ r.reg) :
    (w.push lat r).under reg n = w.under reg n := by
  have hq : ∀ p : PendWrite, (p.at_ == n && p.res.reg == reg) = true → p.yield w.sched (w.sched + lat) r = p := fun p hp => by
    simp only [Bool.and_eq_true, beq_iff_eq] at hp
    refine p.yield_other _ _ _ ?_
    rcases h with h | h
    · exact .inl (by rw [hp.1]; exact h)
    · exact .inr (by rw [hp.2]; exact h)
  unfold Warp.under
  rw [Warp.push_pend, filter_insertPend]
  · induction w.pend with
    | nil => rfl
    | cons p t ih =>
      by_cases hp : (p.at_ == n && p.res.reg == reg) = true
      · simp only [List.map_cons, hq p hp, List.filter_cons, hp, if_true, ih]
      · have : ((p.yield w.sched (w.sched + lat) r).at_ == n && (p.yield w.sched (w.sched + lat) r).res.reg == reg) = false := by
          rw [PendWrite.yield_at, PendWrite.yield_reg]; simpa using hp
        simp only [List.map_cons, List.filter_cons, this, hp, ih]
        rfl
  · simp only [Bool.and_eq_false_imp, beq_iff_eq, beq_eq_false_iff_ne]
    rintro rfl
    exact fun e => (h.resolve_left (· rfl)) e.symm

/-- A result for another register keeps one that is under way. -/
theorem Warp.mem_push (w : Warp) (lat : Nat) (r : RegWrite) (p : PendWrite) (h : p.res.reg ≠ r.reg) (hp : p ∈ w.pend) : p ∈ (w.push lat r).pend := by
  rw [Warp.push_pend, mem_insertPend]
  exact .inr (List.mem_map.mpr ⟨p, hp, p.yield_other _ _ _ (.inr h)⟩)

/-- A result that is sent is sent as `Sends` says. -/
theorem Warp.push_sends (w : Warp) (lat : Nat) (r : RegWrite) : w.Sends (w.push lat r) lat r := by
  refine ⟨by rw [Warp.push_pend, mem_insertPend]; exact .inl rfl, fun p hp => ?_⟩
  obtain ⟨h1, h2⟩ := List.mem_filter.mp hp
  rw [Warp.push_pend, mem_insertPend] at h1
  rcases h1 with h1 | h1
  · exact .inl h1
  · obtain ⟨q, hq, rfl⟩ := List.mem_map.mp h1
    rw [PendWrite.yield_at, PendWrite.yield_reg] at h2
    exact .inr ⟨q, List.mem_filter.mpr ⟨hq, h2⟩, rfl⟩

/-- Several results of different registers: each is sent, and nothing else changes. -/
theorem Warp.pushAll_spec (w : Warp) (lat : Nat) (rs : List RegWrite) (h : (rs.map (·.reg)).Nodup) :
    (∀ r ∈ rs, w.Sends (w.pushAll lat rs) lat r) ∧
    w.OnlyResults (w.pushAll lat rs) (rs.map (·.reg)) ∧
    (w.pushAll lat rs).still = w.still ∧ (w.pushAll lat rs).specials = w.specials ∧ (w.pushAll lat rs).deferred = w.deferred ∧
    (w.pushAll lat rs).runPc = w.runPc ∧ (w.pushAll lat rs).sched = w.sched ∧ (w.pushAll lat rs).active = w.active ∧
    ∀ p ∈ w.pend, p.res.reg ∉ rs.map (·.reg) → p ∈ (w.pushAll lat rs).pend := by
  induction rs generalizing w with
  | nil => simp [Warp.pushAll, Warp.OnlyResults]
  | cons r t ih =>
    have hn := List.nodup_cons.mp (by simpa using h : (r.reg :: t.map (·.reg)).Nodup)
    obtain ⟨h1, h2, h3, h4, h5, h6, h7, h8, h9⟩ := ih (w.push lat r) hn.2
    have he : w.pushAll lat (r :: t) = (w.push lat r).pushAll lat t := rfl
    rw [he]
    refine ⟨fun x hx => ?_, ?_, h3.trans (w.push_still lat r), h4, h5, h6, h7, h8, fun p hp hr => ?_⟩
    · rcases List.mem_cons.mp hx with rfl | hx
      · obtain ⟨a, b⟩ := w.push_sends lat x
        refine ⟨h9 _ a hn.1, fun p hp => b p ?_⟩
        rwa [h2 x.reg w.sched (.inr hn.1)] at hp
      · obtain ⟨a, b⟩ := h1 x hx
        refine ⟨a, fun p hp => ?_⟩
        have hxr : x.reg ≠ r.reg := fun e => hn.1 (e ▸ List.mem_map_of_mem hx)
        rw [← w.under_push lat r x.reg w.sched (.inr hxr)]
        exact b p hp
    · intro reg n hr
      have e1 : (n ≠ w.sched ∨ reg ∉ t.map (·.reg)) := hr.imp id fun hr hm => hr (List.mem_cons_of_mem _ hm)
      have e2 : (n ≠ w.sched ∨ reg ≠ r.reg) := hr.imp id fun hr e => hr (by simp [e])
      exact (h2 reg n e1).trans (w.under_push lat r reg n e2)
    · simp only [List.map_cons, List.mem_cons, not_or] at hr
      exact h9 p (w.mem_push lat r p hr.1 hp) hr.2

/-! ### Retiring (R38 to R40, R54) -/

theorem Warp.applySpecial_still (w : Warp) (x : SpecialWrite) : (w.applySpecial x).still = w.still := by
  unfold Warp.applySpecial
  split <;> rfl

theorem Warp.applySpecial_pend (w : Warp) (x : SpecialWrite) : (w.applySpecial x).pend = w.pend := by
  unfold Warp.applySpecial
  split <;> rfl

/-- Applying special-register writes changes special registers alone. -/
theorem Warp.applySpecials_spec (w : Warp) (xs : List SpecialWrite) :
    (xs.foldl Warp.applySpecial w).still = w.still ∧ (xs.foldl Warp.applySpecial w).pend = w.pend ∧
    (xs.foldl Warp.applySpecial w).runPc = w.runPc ∧ (xs.foldl Warp.applySpecial w).pcs = w.pcs ∧ (xs.foldl Warp.applySpecial w).inRun = w.inRun ∧
    (xs.foldl Warp.applySpecial w).active = w.active ∧ (xs.foldl Warp.applySpecial w).sched = w.sched ∧ (xs.foldl Warp.applySpecial w).grpS = w.grpS ∧
    (xs.foldl Warp.applySpecial w).lclk = w.lclk ∧ (xs.foldl Warp.applySpecial w).runWords = w.runWords ∧ (xs.foldl Warp.applySpecial w).endRun = w.endRun ∧
    (xs.foldl Warp.applySpecial w).earliest = w.earliest ∧ (xs.foldl Warp.applySpecial w).owed = w.owed := by
  induction xs generalizing w with
  | nil => simp
  | cons x t ih =>
    have h := ih (w.applySpecial x)
    simp only [List.foldl_cons]
    have hx : ∀ w : Warp, (w.applySpecial x).runPc = w.runPc ∧ (w.applySpecial x).pcs = w.pcs ∧ (w.applySpecial x).inRun = w.inRun ∧
        (w.applySpecial x).active = w.active ∧ (w.applySpecial x).sched = w.sched ∧ (w.applySpecial x).grpS = w.grpS ∧
        (w.applySpecial x).lclk = w.lclk ∧ (w.applySpecial x).runWords = w.runWords ∧ (w.applySpecial x).endRun = w.endRun ∧
        (w.applySpecial x).earliest = w.earliest ∧ (w.applySpecial x).owed = w.owed := by
      intro w
      unfold Warp.applySpecial
      split <;> simp
    obtain ⟨a1, a2, a3, a4, a5, a6, a7, a8, a9, a10, a11, a12, a13⟩ := h
    obtain ⟨b1, b2, b3, b4, b5, b6, b7, b8, b9, b10, b11⟩ := hx w
    refine ⟨a1.trans (Warp.applySpecial_still w x), a2.trans (Warp.applySpecial_pend w x), ?_⟩
    simp [*]

/-- Special-register writes leave the same special registers in warps that had the same. -/
theorem Warp.applySpecials_congr (xs : List SpecialWrite) (u v : Warp) (h : u.specials = v.specials) :
    (xs.foldl Warp.applySpecial u).specials = (xs.foldl Warp.applySpecial v).specials := by
  induction xs generalizing u v with
  | nil => simpa using h
  | cons x t ih =>
    refine ih _ _ ?_
    simp only [Warp.specials, Prod.mk.injEq] at h ⊢
    obtain ⟨e1, e2, e3, e4, e5, ⟨e6, e7⟩, e8, e9⟩ := h
    unfold Warp.applySpecial
    split <;> simp [*]

/-- A crossing changes what the warp owes and whether its run ends, and nothing else. -/
theorem Warp.crossed_eq (w : Warp) (coll : Bool) (g : Nat) : ∃ o e, w.crossed coll g = { w with owed := o, endRun := e } ∧ (coll = false → o = w.owed ∧ e = w.endRun) := by
  unfold Warp.crossed
  split
  · rename_i h
    exact ⟨_, _, rfl, fun hc => by simp [hc] at h⟩
  · exact ⟨w.owed, w.endRun, rfl, fun _ => ⟨rfl, rfl⟩⟩

theorem Warp.parkMid_eq (w : Warp) (coll : Bool) (g : Nat) : ∃ o e l n, w.parkMid coll g = { w with owed := o, endRun := e, grpLclk := l, grpW := n } := by
  unfold Warp.parkMid
  split
  · obtain ⟨o, e, h, -⟩ := w.crossed_eq coll g
    exact ⟨o, e, w.lclk, 0, by rw [h]⟩
  · exact ⟨w.owed, w.endRun, w.grpLclk, w.grpW, rfl⟩

/-- The end of a group: waiting special writes apply, the schedule moves, and nothing else of the warp changes but what `still` leaves out. -/
theorem Warp.closeGroup_spec (w : Warp) (coll : Bool) (g clk : Nat) :
    (w.closeGroup coll g clk).still = w.still ∧ (w.closeGroup coll g clk).pend = w.pend ∧ (w.closeGroup coll g clk).deferred = [] ∧
    (w.closeGroup coll g clk).todo = [] ∧ (w.closeGroup coll g clk).sched = w.sched + 1 + w.grpS ∧
    (w.closeGroup coll g clk).earliest = max clk w.earliest + 1 + w.grpS ∧ (w.closeGroup coll g clk).runPc = w.runPc ∧
    (w.closeGroup coll g clk).pcs = w.pcs ∧ (w.closeGroup coll g clk).inRun = w.inRun ∧ (w.closeGroup coll g clk).active = w.active ∧
    (w.closeGroup coll g clk).runWords = w.runWords ∧
    (w.deferred = [] → (w.closeGroup coll g clk).specials = w.specials) ∧
    (w.jump = false → (w.closeGroup coll g clk).lclk = w.lclk) ∧
    (coll = false → (w.closeGroup coll g clk).endRun = w.endRun ∧ (w.closeGroup coll g clk).owed = w.owed) ∧
    (w.closeGroup coll g clk).specials = ((w.deferred.foldl Warp.applySpecial w).specials) := by
  have key : ∀ (l : Nat) (j : Bool) (x : Warp), x = { w with lclk := l, jump := j } → ∀ o e, x.crossed coll g = { x with owed := o, endRun := e } →
      (coll = false → o = x.owed ∧ e = x.endRun) →
      let y := (x.crossed coll g).deferred.foldl Warp.applySpecial (x.crossed coll g)
      y.still = w.still ∧ y.pend = w.pend ∧ y.runPc = w.runPc ∧ y.pcs = w.pcs ∧ y.inRun = w.inRun ∧ y.active = w.active ∧ y.sched = w.sched ∧ y.grpS = w.grpS ∧
        y.lclk = l ∧ y.runWords = w.runWords ∧ y.earliest = w.earliest ∧ (coll = false → y.endRun = w.endRun ∧ y.owed = w.owed) ∧
        (w.deferred = [] → y.specials = w.specials) ∧ y.specials = (w.deferred.foldl Warp.applySpecial w).specials := by
    intro l j x hx o e hc hn y
    obtain ⟨g1, g2, g3, g4, g5, g6, g7, g8, g9, g10, g11, g12, g13⟩ := Warp.applySpecials_spec (x.crossed coll g) (x.crossed coll g).deferred
    have hd : (x.crossed coll g).deferred = w.deferred := by rw [hc, hx]
    have hs : (x.crossed coll g).specials = w.specials := by rw [hc, hx]; rfl
    have hy : y.specials = (w.deferred.foldl Warp.applySpecial w).specials := by
      show (List.foldl Warp.applySpecial (x.crossed coll g) (x.crossed coll g).deferred).specials = _
      rw [hd]
      exact Warp.applySpecials_congr _ _ _ hs
    refine ⟨g1.trans (by rw [hc, hx]; rfl), g2.trans (by rw [hc, hx]), g3.trans (by rw [hc, hx]), g4.trans (by rw [hc, hx]), g5.trans (by rw [hc, hx]),
      g6.trans (by rw [hc, hx]), g7.trans (by rw [hc, hx]), g8.trans (by rw [hc, hx]), g9.trans (by rw [hc, hx]), g10.trans (by rw [hc, hx]),
      g12.trans (by rw [hc, hx]), fun hf => ?_, fun he => ?_, hy⟩
    · obtain ⟨ho, he⟩ := hn hf
      exact ⟨g11.trans (by rw [hc, he, hx]), g13.trans (by rw [hc, ho, hx])⟩
    · rw [hy, he]; rfl
  have fin : ∀ y : Warp, y.still = w.still → ({ y with deferred := [], todo := [], sched := y.sched + 1 + y.grpS, earliest := max clk y.earliest + 1 + y.grpS, grpS := 0, grpW := 0 } : Warp).still = w.still :=
    fun y h => Eq.trans (by simp [Warp.still]) h
  by_cases hj : w.jump = true
  · obtain ⟨o, e, hc, hn⟩ := ({ w with lclk := (w.grpLclk / g + 1) * g, jump := false } : Warp).crossed_eq coll g
    obtain ⟨k1, k2, k3, k4, k5, k6, k7, k8, k9, k10, k11, k12, k13, k14⟩ := key _ _ _ rfl o e hc hn
    unfold Warp.closeGroup
    rw [if_pos hj]
    exact ⟨fin _ k1, k2, rfl, rfl, by simp only [k7, k8], by simp only [k11, k8], k3, k4, k5, k6, k10, k13, fun h => by simp [hj] at h, k12, k14⟩
  · obtain ⟨o, e, hc, hn⟩ := w.crossed_eq coll g
    obtain ⟨k1, k2, k3, k4, k5, k6, k7, k8, k9, k10, k11, k12, k13, k14⟩ := key w.lclk w.jump w rfl o e hc hn
    unfold Warp.closeGroup
    rw [if_neg hj]
    exact ⟨fin _ k1, k2, rfl, rfl, by simp only [k7, k8], by simp only [k11, k8], k3, k4, k5, k6, k10, k13, fun _ => k9, k12, k14⟩

@[simp] theorem Warp.endRunAt_still (w : Warp) (tgt : Nat → DWord) : (w.endRunAt tgt).still = w.still := rfl

/-- What a retiring word leaves: no register, flag or result of the warp changes. -/
theorem Warp.retireTo_spec (w : Warp) (coll : Bool) (g clk : Nat) (h : Hdr) (words weight : Nat) (tgt : Nat → DWord) :
    (w.retireTo coll g clk h words weight tgt).still = w.still ∧ (w.retireTo coll g clk h words weight tgt).pend = w.pend ∧
    (w.retireTo coll g clk h words weight tgt).runPc = w.runPc + BitVec.ofNat 64 (4 * words) ∧
    (w.deferred = [] → (w.retireTo coll g clk h words weight tgt).specials = w.specials) := by
  unfold Warp.retireTo
  obtain ⟨u, hu⟩ : ∃ u : Warp, u = { w with
      runPc := w.runPc + BitVec.ofNat 64 (4 * words)
      runWords := w.runWords + words
      lclk := (w.lclk + weight) % 2 ^ 64
      grpW := w.grpW + weight
      grpS := max w.grpS h.s.toNat
      todo := w.todo.drop 1 } := ⟨_, rfl⟩
  have e1 : u.still = w.still := by rw [hu]; rfl
  have e2 : u.pend = w.pend := by rw [hu]
  have e3 : u.runPc = w.runPc + BitVec.ofNat 64 (4 * words) := by rw [hu]
  have e4 : u.deferred = w.deferred := by rw [hu]
  have e5 : u.specials = w.specials := by rw [hu]; rfl
  rw [← hu]
  by_cases hc : h.c = true
  · obtain ⟨o, e, l, n, hp⟩ := u.parkMid_eq coll g
    simp only [hc, if_true, hp]
    exact ⟨e1, e2, e3, fun _ => e5⟩
  · obtain ⟨c1, c2, -, -, -, -, c7, -, -, -, -, c12, -⟩ := Warp.closeGroup_spec u coll g clk
    have r : ∀ x : Warp, x.still = (u.closeGroup coll g clk).still → x.pend = (u.closeGroup coll g clk).pend → x.runPc = (u.closeGroup coll g clk).runPc →
        x.specials = (u.closeGroup coll g clk).specials →
        x.still = w.still ∧ x.pend = w.pend ∧ x.runPc = w.runPc + BitVec.ofNat 64 (4 * words) ∧ (w.deferred = [] → x.specials = w.specials) := by
      intro x h1 h2 h3 h4
      exact ⟨h1.trans (c1.trans e1), h2.trans (c2.trans e2), h3.trans (c7.trans e3), fun hd => h4.trans ((c12 (e4.trans hd)).trans e5)⟩
    rw [if_neg hc]
    by_cases he : (h.e || (u.closeGroup coll g clk).endRun) = true
    · simp only [he, if_true]
      exact r _ rfl rfl rfl rfl
    · simp only [he]
      exact r _ rfl rfl rfl rfl

/-- Retiring changes the current warp alone: it goes past the word, and results, registers and flags stay. -/
theorem State.retireTo_spec {s : State} (h : s.Here) (i : Instr) (tgt : Nat → DWord) :
    s.OnlyWarp (s.retireTo i tgt) ∧ s.Passed (s.retireTo i tgt) i ∧ (s.retireTo i tgt).w.still = s.w.still ∧ (s.retireTo i tgt).w.pend = s.w.pend := by
  have hw : (s.retireTo i tgt).w = s.w.retireTo s.collated s.g s.clk i.hdr i.words (s.weightOf i) tgt := State.modW_w h _
  obtain ⟨r1, r2, r3, r4⟩ := Warp.retireTo_spec s.w s.collated s.g s.clk i.hdr i.words (s.weightOf i) tgt
  refine ⟨⟨?_, fun h' hh => State.modW_other s _ hh⟩, ⟨by rw [hw, r3], by rw [hw]; exact r4⟩, by rw [hw, r1], by rw [hw, r2]⟩
  show { s.modW _ with warps := s.warps } = s
  rw [State.modW_eq h]
  rfl

theorem State.retire_eq {s : State} (h : s.Here) (i : Instr) :
    s.retire i = s.retireTo i fun _ => s.w.runPc + BitVec.ofNat 64 (4 * i.words) := by
  simp only [State.retire, State.retireTo, State.modW_eq h]

theorem State.retire_spec {s : State} (h : s.Here) (i : Instr) :
    s.OnlyWarp (s.retire i) ∧ s.Passed (s.retire i) i ∧ (s.retire i).w.still = s.w.still ∧ (s.retire i).w.pend = s.w.pend := by
  rw [State.retire_eq h]
  exact State.retireTo_spec h i _

/-- A word that changes its warp and then retires. -/
theorem State.modW_retire_spec {s : State} (h : s.Here) (f : Warp → Warp) (i : Instr)
    (hpc : (f s.w).runPc = s.w.runPc) (hd : (f s.w).deferred = s.w.deferred) (hs : (f s.w).specials = s.w.specials) :
    s.OnlyWarp ((s.modW f).retire i) ∧ s.Passed ((s.modW f).retire i) i ∧ ((s.modW f).retire i).w.still = (f s.w).still ∧
      ((s.modW f).retire i).w.pend = (f s.w).pend := by
  have hh : (s.modW f).Here := State.modW_isSome h f
  have hw := State.modW_w h f
  obtain ⟨⟨r1, r1'⟩, ⟨r2, r2'⟩, r3, r4⟩ := State.retire_spec hh i
  rw [hw] at r2 r2' r3 r4
  refine ⟨⟨?_, fun k hk => ?_⟩, ⟨by rw [r2, hpc], fun he => ?_⟩, r3, r4⟩
  · have e : (s.modW f) = s.setW (f s.w) := State.modW_eq h f
    rw [e] at r1
    have : ∀ t u : State, { t with warps := (s.setW (f s.w)).warps } = s.setW (f s.w) → { t with warps := s.warps } = s := by
      intro t _ ht
      have := congrArg (fun x : State => { x with warps := s.warps }) ht
      exact this
    exact e ▸ this _ s r1
  · rw [r1' k (by simpa using hk)]
    exact State.modW_other s f hk
  · rw [r2' (by rw [hd, he]), hs]

end Machine
end Sys2Proof
end

