-- ==== Sys2Proof/Laws/Operands.lean ====
section
/-! SUPPORT. What the operand forms can do, once each: blocks, reads, and the four shapes of an instruction with register results. -/

namespace Sys2Proof.Machine

/-! ### Blocks (R81) -/

theorem mem_blockRegs (rc : Nat × Nat) (o r : Nat) : r ∈ blockRegs rc o ↔ ∃ m n, m < rc.1 ∧ n < rc.2 ∧ r = o + 8 * m + n := by
  simp only [blockRegs, List.mem_flatMap, List.mem_map, List.mem_range]
  constructor
  · rintro ⟨m, hm, n, hn, rfl⟩; exact ⟨m, n, hm, hn, rfl⟩
  · rintro ⟨m, n, hm, hn, rfl⟩; exact ⟨m, hm, n, hn, rfl⟩

theorem blockRegs_length (rc : Nat × Nat) (o : Nat) : (blockRegs rc o).length = rc.1 * rc.2 := by
  simp [blockRegs, List.length_flatMap]

theorem blockOk_iff (rc : Nat × Nat) (o : Nat) : blockOk rc o = true ↔ o / 8 + rc.1 ≤ 8 ∧ o % 8 + rc.2 ≤ 8 := by
  simp [blockOk]

theorem blockRegs_nodup {rc : Nat × Nat} {o : Nat} (h : blockOk rc o = true) : (blockRegs rc o).Nodup := by
  obtain ⟨h1, h2⟩ := (blockOk_iff rc o).mp h
  unfold blockRegs
  rw [List.nodup_flatMap]
  refine ⟨fun m _ => ?_, ?_⟩
  · exact List.Nodup.map (fun a b hab => by simpa using hab) List.nodup_range
  · refine List.Pairwise.imp_of_mem ?_ List.nodup_range
    intro m n _ _ hmn
    simp only [Function.onFun, List.disjoint_left, List.mem_map, List.mem_range]
    rintro r ⟨i, hi, rfl⟩ ⟨j, hj, hij⟩
    omega

/-- Element `m`, `n` of a block. -/
theorem blockRegs_getD (rc : Nat × Nat) (o m n : Nat) (hm : m < rc.1) (hn : n < rc.2) :
    (blockRegs rc o).getD (m * rc.2 + n) 0 = o + 8 * m + n := by
  obtain ⟨R, C⟩ := rc
  simp only at hm hn ⊢
  have key : ∀ R' : Nat, m < R' → ((List.range R').flatMap fun i => (List.range C).map fun j => o + 8 * i + j)[m * C + n]? = some (o + 8 * m + n) := by
    intro R'
    induction R' with
    | zero => omega
    | succ k ih =>
      intro hmk
      rw [List.range_succ, List.flatMap_append]
      have hl : ((List.range k).flatMap fun i => (List.range C).map fun j => o + 8 * i + j).length = k * C := by
        simp [List.length_flatMap]
      by_cases h : m < k
      · rw [List.getElem?_append_left]
        · exact ih h
        · rw [hl]
          calc m * C + n < m * C + C := by omega
            _ = (m + 1) * C := by rw [Nat.succ_mul]
            _ ≤ k * C := Nat.mul_le_mul_right C h
      · have hmk' : m = k := by omega
        subst hmk'
        rw [List.getElem?_append_right (by rw [hl]; omega), hl]
        have : m * C + n - m * C = n := by omega
        rw [this]
        simp [hn]
  have := key R hm
  unfold blockRegs
  rw [List.getD_eq_getElem?_getD, this]
  rfl

theorem Warp.extent_pos (w : Warp) (x : Bx) : 0 < (w.extent x).1 ∧ 0 < (w.extent x).2 := by simp [Warp.extent]

/-! ### Reading sources (R244, R245) -/

/-- Reading without windows pops nothing. -/
theorem Warp.readRegs_plain (w : Warp) (regs : List Nat) (cur : SMap Nat) (h : ∀ r ∈ regs, w.isWindow r = false) :
    w.readRegs regs cur = .ok (regs.map fun r l => w.rdV r l, cur) := by
  induction regs with
  | nil => rfl
  | cons r t ih =>
    have h1 := h r (by simp)
    have h2 := ih fun x hx => h x (by simp [hx])
    simp [Warp.readRegs, h1, h2]

/-- The state an instruction acts on once its pops are known. -/
def State.popped (s : State) (pops : SMap Nat) : State := if pops.isEmpty then s else s.modW fun w => w.freePops pops

theorem State.withSrcs_ok {s : State} {regs : List Nat} {vals : List (Nat → Word)} {pops : SMap Nat} (i : Instr)
    (h : s.w.readRegs regs [] = .ok (vals, pops)) (k : List (Nat → Word) → State → State) :
    s.withSrcs i regs k = k vals (s.popped pops) := by simp [State.withSrcs, h, State.popped]

theorem Warp.freePops_nil (w : Warp) : w.freePops [] = w := rfl

/-- A change after the pops is one change of the warp. -/
theorem State.popped_modW (s : State) (pops : SMap Nat) (f : Warp → Warp) : (s.popped pops).modW f = s.modW fun w => f (w.freePops pops) := by
  unfold State.popped
  split
  · rename_i he
    have : pops = [] := by simpa using he
    subst this
    rfl
  · rw [State.modW_modW]

theorem State.popped_w {s : State} (h : s.Here) (pops : SMap Nat) : (s.popped pops).w = s.w.freePops pops := by
  unfold State.popped
  split
  · rename_i he
    have : pops = [] := by simpa using he
    subst this
    rfl
  · exact State.modW_w h _

/-! ### The four shapes -/

/-- What holds after a word that sends results `rs` with latency `lat` and retires: the shape of every instruction with register results. -/
theorem State.results_spec {s : State} (h : s.Here) (i : Instr) (pops : SMap Nat) (lat : Nat) (rs : List RegWrite) (hn : (rs.map (·.reg)).Nodup) :
    let t := ((s.popped pops).modW fun w => w.pushAll lat rs).retire i
    s.OnlyWarp t ∧ s.Passed t i ∧ t.w.still = (s.w.freePops pops).still ∧
      (∀ r ∈ rs, s.w.Sends t.w lat r) ∧ s.w.OnlyResults t.w (rs.map (·.reg)) := by
  intro t
  obtain ⟨p1, p2, p3, p4, p5, p6, p7, p8, -⟩ := Warp.pushAll_spec (s.w.freePops pops) lat rs hn
  have ht : t = (s.modW fun w => (w.freePops pops).pushAll lat rs).retire i := by
    show ((s.popped pops).modW _).retire i = _
    rw [State.popped_modW]
  obtain ⟨a, b, c, d⟩ := State.modW_retire_spec h (fun w => (w.freePops pops).pushAll lat rs) i p6 p5 p4
  rw [← ht] at a b c d
  have hu : ∀ r n, t.w.under r n = ((s.w.freePops pops).pushAll lat rs).under r n := fun r n => by simp only [Warp.under, d]
  refine ⟨a, b, c.trans p3, fun r hr => ?_, fun r n hr => ?_⟩
  · obtain ⟨q1, q2⟩ := p1 r hr
    exact ⟨by rw [d]; exact q1, fun p hp => q2 p (hu _ _ ▸ hp)⟩
  · rw [hu]; exact p2 r n hr

/-- The lane-wise instruction over blocks. -/
theorem State.lanewise_spec {s : State} (h : s.Here) (i : Instr) (lat : Nat) (x : Bx) (d : Vr) (srcs : List Vr) (f : List Word → Word)
    {vals : List (Nat → Word)} {pops : SMap Nat}
    (hf : ∀ r ∈ d :: srcs, blockOk (s.w.extent x) r.toNat = true) (hw : ∀ r ∈ blockRegs (s.w.extent x) d.toNat, s.w.isWindow r = false)
    (hr : s.w.readRegs (srcs.flatMap fun r => blockRegs (s.w.extent x) r.toNat) [] = .ok (vals, pops)) :
    let t := s.lanewise i lat x d srcs f
    s.OnlyWarp t ∧ s.Passed t i ∧ t.w.still = (s.w.freePops pops).still ∧
      (∀ m n, m < (s.w.extent x).1 → n < (s.w.extent x).2 →
        s.w.Gives t.w lat (.v (d.toNat + 8 * m + n)) fun l =>
          (f ((List.range srcs.length).map fun j => vals.getD (j * ((s.w.extent x).1 * (s.w.extent x).2) + (m * (s.w.extent x).2 + n)) (fun _ => 0) l)).zeroExtend 64) ∧
      s.w.OnlyResults t.w ((blockRegs (s.w.extent x) d.toNat).map .v) := by
  intro t
  obtain ⟨R, C, hRC⟩ : ∃ R C, s.w.extent x = (R, C) := ⟨_, _, rfl⟩
  rw [hRC] at hf hw hr ⊢
  simp only
  have hd := hf d (by simp)
  have hpw : (s.popped pops).w = s.w.freePops pops := State.popped_w h pops
  let rs := (List.range (R * C)).map fun e => RegWrite.ofV ((blockRegs (R, C) d.toNat).getD e 0) s.w.active fun l =>
        f ((List.range srcs.length).map fun j => vals.getD (j * (R * C) + e) (fun _ => 0) l)
  have hregs : rs.map (·.reg) = (blockRegs (R, C) d.toNat).map .v := by
    simp only [rs, List.map_map]
    apply List.ext_getElem
    · simp [blockRegs_length]
    · intro n h1 h2
      simp only [List.length_map, blockRegs_length] at h2
      simp [RegWrite.ofV, blockRegs_length, h2]
  have ht : t = ((s.popped pops).modW fun w => w.pushAll lat rs).retire i := by
    show s.lanewise i lat x d srcs f = _
    unfold State.lanewise
    simp only [hRC]
    rw [if_neg, if_neg, State.withSrcs_ok i hr]
    · simp only [hpw]; rfl
    · simp only [Bool.not_eq_true, List.any_eq_false]
      exact fun r hr => by simp [hw r hr]
    · simp only [Bool.not_eq_true', Bool.not_eq_false, Bool.and_eq_true, List.all_eq_true]
      exact ⟨hd, fun r hr => hf r (by simp [hr])⟩
  have hn : (rs.map (·.reg)).Nodup := by
    rw [hregs]
    exact List.Nodup.map (fun a b hab => by simpa using hab) (blockRegs_nodup hd)
  obtain ⟨a, b, c, e, g⟩ := State.results_spec h i pops lat rs hn
  rw [← ht] at a b c e g
  refine ⟨a, b, c, fun m n hm hn => ?_, by rw [← hregs]; exact g⟩
  have hlt : m * C + n < R * C := by
    calc m * C + n < m * C + C := by omega
      _ = (m + 1) * C := by rw [Nat.succ_mul]
      _ ≤ R * C := Nat.mul_le_mul_right C hm
  have hin : (RegWrite.ofV ((blockRegs (R, C) d.toNat).getD (m * C + n) 0) s.w.active fun l =>
        f ((List.range srcs.length).map fun j => vals.getD (j * (R * C) + (m * C + n)) (fun _ => 0) l)) ∈ rs :=
    List.mem_map.mpr ⟨m * C + n, List.mem_range.mpr hlt, rfl⟩
  have := e _ hin
  rw [blockRegs_getD (R, C) d.toNat m n hm hn] at this
  exact this

/-- An instruction with one v result that may depend on several lanes. -/
theorem State.crosslane_spec {s : State} (h : s.Here) (i : Instr) (lat : Nat) (d : Vr) (srcs : List Vr) (f : List (Nat → Word) → Nat → Word)
    {vals : List (Nat → Word)} {pops : SMap Nat} (hw : s.w.isWindow d.toNat = false) (hr : s.w.readRegs (srcs.map (·.toNat)) [] = .ok (vals, pops)) :
    let t := s.crosslane i lat d srcs f
    s.OnlyWarp t ∧ s.Passed t i ∧ t.w.still = (s.w.freePops pops).still ∧
      (s.w.Gives t.w lat (.v d.toNat) fun l => (f vals l).zeroExtend 64) ∧ s.w.OnlyResults t.w [.v d.toNat] := by
  intro t
  have ht : t = ((s.popped pops).modW fun w => w.pushAll lat [RegWrite.ofV d.toNat s.w.active (f vals)]).retire i := by
    show s.crosslane i lat d srcs f = _
    unfold State.crosslane
    rw [if_neg (by simp [hw]), State.withSrcs_ok i hr, State.popped_modW, State.popped_modW, State.modW_eq h, State.modW_eq h]
    rfl
  obtain ⟨a, b, c, e, g⟩ := State.results_spec h i pops lat [RegWrite.ofV d.toNat s.w.active (f vals)] (by simp)
  rw [← ht] at a b c e g
  exact ⟨a, b, c, e _ (List.mem_singleton.mpr rfl), g⟩

/-- A uniform result after the pops of its sources. -/
theorem State.uniform_spec {s : State} (h : s.Here) (i : Instr) (pops : SMap Nat) (lat : Nat) (kd : Kr) (x : DWord) :
    let t := (s.popped pops).uniform i lat kd x
    s.OnlyWarp t ∧ s.Passed t i ∧ t.w.still = (s.w.freePops pops).still ∧ s.w.GivesK t.w lat kd.toNat x ∧ s.w.OnlyResults t.w [.k kd.toNat] := by
  intro t
  obtain ⟨a, b, c, e, g⟩ := State.results_spec h i pops lat [RegWrite.ofK kd.toNat x] (by simp)
  exact ⟨a, b, c, e _ (List.mem_singleton.mpr rfl), g⟩

/-- A predicate result after the pops of its sources. -/
theorem State.predicate_spec {s : State} (h : s.Here) (i : Instr) (pops : SMap Nat) (lat : Nat) (p : Pr) (f : Nat → Bool) :
    let t := (s.popped pops).predicate i lat p f
    s.OnlyWarp t ∧ s.Passed t i ∧ t.w.still = (s.w.freePops pops).still ∧ (s.w.Gives t.w lat (.p p.toNat) fun l => if f l then 1 else 0) ∧
      s.w.OnlyResults t.w [.p p.toNat] := by
  intro t
  have ht : t = ((s.popped pops).modW fun w => w.pushAll lat [RegWrite.ofP p.toNat s.w.active f]).retire i := by
    show (s.popped pops).predicate i lat p f = _
    unfold State.predicate
    rw [State.popped_modW, State.popped_modW, State.modW_eq h, State.modW_eq h]
    rfl
  obtain ⟨a, b, c, e, g⟩ := State.results_spec h i pops lat [RegWrite.ofP p.toNat s.w.active f] (by simp)
  rw [← ht] at a b c e g
  exact ⟨a, b, c, e _ (List.mem_singleton.mpr rfl), g⟩

end Sys2Proof.Machine
end

