-- ==== Sys2Proof/Laws/PerInstr.lean ====
section
/-! SUPPORT. Facts about each instruction as syntax: how many words its encoding has (R35). -/

namespace Sys2Proof.Laws.EncodedLength

/-- The encoding of an instruction word has as many words as the instruction (R35); an operation or event of the device has none. -/
def Statement (i : Instr) : Prop := (encode i).length = if i.hdr?.isSome then i.words else 0

theorem nop (h : Hdr) : Statement (.nop h) := rfl
theorem bra (h : Hdr) (off : BitVec 14) : Statement (.bra h off) := rfl
theorem brp (h : Hdr) (p : Pr) (off : BitVec 14) : Statement (.brp h p off) := rfl
theorem brn (h : Hdr) (p : Pr) (off : BitVec 14) : Statement (.brn h p off) := rfl
theorem bru (h : Hdr) (k : Kr) (off : BitVec 14) : Statement (.bru h k off) := rfl
theorem bruz (h : Hdr) (k : Kr) (off : BitVec 14) : Statement (.bruz h k off) := rfl
theorem jmpx (h : Hdr) (ka : Kr) : Statement (.jmpx h ka) := rfl
theorem call (h : Hdr) (k : Kr) (off : BitVec 14) : Statement (.call h k off) := rfl
theorem callx (h : Hdr) (kd : Kr) (ka : Kr) : Statement (.callx h kd ka) := rfl
theorem ret (h : Hdr) (ka : Kr) : Statement (.ret h ka) := rfl
theorem exit (h : Hdr) : Statement (.exit h) := rfl
theorem dwait (h : Hdr) (mask : BitVec 7) (n : BitVec 6) : Statement (.dwait h mask n) := rfl
theorem chkm (h : Hdr) (mode : CheckMode) : Statement (.chkm h mode) := rfl
theorem brk (h : Hdr) (code : BitVec 16) : Statement (.brk h code) := rfl
theorem iadd (h : Hdr) (d : Vr) (a : Vr) (b : Vr) (x : Bx) : Statement (.iadd h d a b x) := rfl
theorem isub (h : Hdr) (d : Vr) (a : Vr) (b : Vr) (x : Bx) : Statement (.isub h d a b x) := rfl
theorem imul (h : Hdr) (d : Vr) (a : Vr) (b : Vr) (x : Bx) : Statement (.imul h d a b x) := rfl
theorem imulhS (h : Hdr) (d : Vr) (a : Vr) (b : Vr) (x : Bx) : Statement (.imulhS h d a b x) := rfl
theorem imulhN (h : Hdr) (d : Vr) (a : Vr) (b : Vr) (x : Bx) : Statement (.imulhN h d a b x) := rfl
theorem imad (h : Hdr) (d : Vr) (a : Vr) (b : Vr) (x : Bx) : Statement (.imad h d a b x) := rfl
theorem iaddi (h : Hdr) (d : Vr) (a : Vr) (imm : BitVec 8) : Statement (.iaddi h d a imm) := rfl
theorem iminS (h : Hdr) (d : Vr) (a : Vr) (b : Vr) (x : Bx) : Statement (.iminS h d a b x) := rfl
theorem iminN (h : Hdr) (d : Vr) (a : Vr) (b : Vr) (x : Bx) : Statement (.iminN h d a b x) := rfl
theorem imaxS (h : Hdr) (d : Vr) (a : Vr) (b : Vr) (x : Bx) : Statement (.imaxS h d a b x) := rfl
theorem imaxN (h : Hdr) (d : Vr) (a : Vr) (b : Vr) (x : Bx) : Statement (.imaxN h d a b x) := rfl
theorem shl (h : Hdr) (d : Vr) (a : Vr) (b : Vr) (x : Bx) : Statement (.shl h d a b x) := rfl
theorem shr (h : Hdr) (d : Vr) (a : Vr) (b : Vr) (x : Bx) : Statement (.shr h d a b x) := rfl
theorem sar (h : Hdr) (d : Vr) (a : Vr) (b : Vr) (x : Bx) : Statement (.sar h d a b x) := rfl
theorem shli (h : Hdr) (d : Vr) (a : Vr) (n : BitVec 5) : Statement (.shli h d a n) := rfl
theorem shri (h : Hdr) (d : Vr) (a : Vr) (n : BitVec 5) : Statement (.shri h d a n) := rfl
theorem sari (h : Hdr) (d : Vr) (a : Vr) (n : BitVec 5) : Statement (.sari h d a n) := rfl
theorem roti (h : Hdr) (d : Vr) (a : Vr) (n : BitVec 5) : Statement (.roti h d a n) := rfl
theorem and (h : Hdr) (d : Vr) (a : Vr) (b : Vr) (x : Bx) : Statement (.and h d a b x) := rfl
theorem or (h : Hdr) (d : Vr) (a : Vr) (b : Vr) (x : Bx) : Statement (.or h d a b x) := rfl
theorem xor (h : Hdr) (d : Vr) (a : Vr) (b : Vr) (x : Bx) : Statement (.xor h d a b x) := rfl
theorem andn (h : Hdr) (d : Vr) (a : Vr) (b : Vr) (x : Bx) : Statement (.andn h d a b x) := rfl
theorem andi (h : Hdr) (d : Vr) (a : Vr) (imm : BitVec 6) : Statement (.andi h d a imm) := rfl
theorem ori (h : Hdr) (d : Vr) (a : Vr) (imm : BitVec 6) : Statement (.ori h d a imm) := rfl
theorem xori (h : Hdr) (d : Vr) (a : Vr) (imm : BitVec 6) : Statement (.xori h d a imm) := rfl
theorem not (h : Hdr) (d : Vr) (a : Vr) (x : Bx) : Statement (.not h d a x) := rfl
theorem popc (h : Hdr) (d : Vr) (a : Vr) (x : Bx) : Statement (.popc h d a x) := rfl
theorem clz (h : Hdr) (d : Vr) (a : Vr) (x : Bx) : Statement (.clz h d a x) := rfl
theorem brev (h : Hdr) (d : Vr) (a : Vr) (x : Bx) : Statement (.brev h d a x) := rfl
theorem iabs (h : Hdr) (d : Vr) (a : Vr) (x : Bx) : Statement (.iabs h d a x) := rfl
theorem ineg (h : Hdr) (d : Vr) (a : Vr) (x : Bx) : Statement (.ineg h d a x) := rfl
theorem bfx (h : Hdr) (d : Vr) (a : Vr) (x : Bx) (pos : BitVec 5) (len : BitVec 6) (sx : Bool) : Statement (.bfx h d a x pos len sx) := rfl
theorem bfi (h : Hdr) (d : Vr) (a : Vr) (x : Bx) (pos : BitVec 5) (len : BitVec 6) : Statement (.bfi h d a x pos len) := rfl
theorem lea (h : Hdr) (d : Vr) (a : Vr) (b : Vr) (x : Bx) (sh : BitVec 5) (disp : BitVec 16) : Statement (.lea h d a b x sh disp) := rfl
theorem icmp (h : Hdr) (p : Pr) (a : Vr) (b : Vr) (cond : ICond) (comb : Comb) (q : Pr) : Statement (.icmp h p a b cond comb q) := rfl
theorem sel (h : Hdr) (d : Vr) (a : Vr) (b : Vr) (x : Bx) (p : Pr) : Statement (.sel h d a b x p) := rfl
theorem movi (h : Hdr) (d : Vr) (x : Bx) (imm : BitVec 32) : Statement (.movi h d x imm) := rfl
theorem movk (h : Hdr) (d : Vr) (ka : Kr) (hi : Bool) (x : Bx) : Statement (.movk h d ka hi x) := rfl
theorem idot4 (h : Hdr) (d : Vr) (a : Vr) (b : Vr) (mode : DotMode) : Statement (.idot4 h d a b mode) := rfl
theorem kadd (h : Hdr) (kd : Kr) (ka : Kr) (kb : Kr) : Statement (.kadd h kd ka kb) := rfl
theorem ksub (h : Hdr) (kd : Kr) (ka : Kr) (kb : Kr) : Statement (.ksub h kd ka kb) := rfl
theorem kmul (h : Hdr) (kd : Kr) (ka : Kr) (kb : Kr) : Statement (.kmul h kd ka kb) := rfl
theorem kand (h : Hdr) (kd : Kr) (ka : Kr) (kb : Kr) : Statement (.kand h kd ka kb) := rfl
theorem kor (h : Hdr) (kd : Kr) (ka : Kr) (kb : Kr) : Statement (.kor h kd ka kb) := rfl
theorem kxor (h : Hdr) (kd : Kr) (ka : Kr) (kb : Kr) : Statement (.kxor h kd ka kb) := rfl
theorem kshl (h : Hdr) (kd : Kr) (ka : Kr) (kb : Kr) : Statement (.kshl h kd ka kb) := rfl
theorem kshr (h : Hdr) (kd : Kr) (ka : Kr) (kb : Kr) : Statement (.kshr h kd ka kb) := rfl
theorem kaddi (h : Hdr) (kd : Kr) (ka : Kr) (imm : BitVec 8) : Statement (.kaddi h kd ka imm) := rfl
theorem kset (h : Hdr) (kd : Kr) (f : KsetMode) (imm : BitVec 32) : Statement (.kset h kd f imm) := rfl
theorem kcmp (h : Hdr) (kd : Kr) (ka : Kr) (kb : Kr) (cond : KCond) : Statement (.kcmp h kd ka kb cond) := rfl
theorem kmov (h : Hdr) (kd : Kr) (ka : Kr) : Statement (.kmov h kd ka) := rfl
theorem kfromv (h : Hdr) (kd : Kr) (va : Vr) (lane : BitVec 6) (f : KfvMode) : Statement (.kfromv h kd va lane f) := rfl
theorem pand (h : Hdr) (p : Pr) (a : Pr) (b : Pr) : Statement (.pand h p a b) := rfl
theorem por (h : Hdr) (p : Pr) (a : Pr) (b : Pr) : Statement (.por h p a b) := rfl
theorem pxor (h : Hdr) (p : Pr) (a : Pr) (b : Pr) : Statement (.pxor h p a b) := rfl
theorem pandn (h : Hdr) (p : Pr) (a : Pr) (b : Pr) : Statement (.pandn h p a b) := rfl
theorem pclr (h : Hdr) (p : Pr) : Statement (.pclr h p) := rfl
theorem pset (h : Hdr) (p : Pr) : Statement (.pset h p) := rfl
theorem pnot (h : Hdr) (p : Pr) (a : Pr) : Statement (.pnot h p a) := rfl
theorem pmov (h : Hdr) (p : Pr) (a : Pr) : Statement (.pmov h p a) := rfl
theorem ptov (h : Hdr) (vd : Vr) (a : Pr) : Statement (.ptov h vd a) := rfl
theorem vtop (h : Hdr) (p : Pr) (va : Vr) : Statement (.vtop h p va) := rfl
theorem qswp (h : Hdr) (d : Vr) (a : Vr) (dir : QDir) : Statement (.qswp h d a dir) := rfl
theorem qbc (h : Hdr) (d : Vr) (a : Vr) (n : BitVec 2) : Statement (.qbc h d a n) := rfl
theorem qhlp (h : Hdr) (mode : HelperMode) : Statement (.qhlp h mode) := rfl
theorem wshf (h : Hdr) (d : Vr) (a : Vr) (b : Vr) : Statement (.wshf h d a b) := rfl
theorem wshx (h : Hdr) (d : Vr) (a : Vr) (n : BitVec 5) (mode : ShuffleMode) : Statement (.wshx h d a n mode) := rfl
theorem wvote (h : Hdr) (d : Vr) (a : Vr) (mode : VoteMode) : Statement (.wvote h d a mode) := rfl
theorem wred (h : Hdr) (d : Vr) (a : Vr) (op : RedOp) : Statement (.wred h d a op) := rfl
theorem fadd (h : Hdr) (d : Vr) (a : Vr) (b : Vr) (x : Bx) : Statement (.fadd h d a b x) := rfl
theorem fsub (h : Hdr) (d : Vr) (a : Vr) (b : Vr) (x : Bx) : Statement (.fsub h d a b x) := rfl
theorem fmul (h : Hdr) (d : Vr) (a : Vr) (b : Vr) (x : Bx) : Statement (.fmul h d a b x) := rfl
theorem ffma (h : Hdr) (d : Vr) (a : Vr) (b : Vr) (x : Bx) : Statement (.ffma h d a b x) := rfl
theorem fmin (h : Hdr) (d : Vr) (a : Vr) (b : Vr) (x : Bx) : Statement (.fmin h d a b x) := rfl
theorem fmax (h : Hdr) (d : Vr) (a : Vr) (b : Vr) (x : Bx) : Statement (.fmax h d a b x) := rfl
theorem fabs (h : Hdr) (d : Vr) (a : Vr) (x : Bx) : Statement (.fabs h d a x) := rfl
theorem fneg (h : Hdr) (d : Vr) (a : Vr) (x : Bx) : Statement (.fneg h d a x) := rfl
theorem frcp (h : Hdr) (d : Vr) (a : Vr) (x : Bx) : Statement (.frcp h d a x) := rfl
theorem frsq (h : Hdr) (d : Vr) (a : Vr) (x : Bx) : Statement (.frsq h d a x) := rfl
theorem fsqrt (h : Hdr) (d : Vr) (a : Vr) (x : Bx) : Statement (.fsqrt h d a x) := rfl
theorem fex2 (h : Hdr) (d : Vr) (a : Vr) (x : Bx) : Statement (.fex2 h d a x) := rfl
theorem flg2 (h : Hdr) (d : Vr) (a : Vr) (x : Bx) : Statement (.flg2 h d a x) := rfl
theorem fsin (h : Hdr) (d : Vr) (a : Vr) (x : Bx) : Statement (.fsin h d a x) := rfl
theorem fcos (h : Hdr) (d : Vr) (a : Vr) (x : Bx) : Statement (.fcos h d a x) := rfl
theorem fcmp (h : Hdr) (p : Pr) (a : Vr) (b : Vr) (cond : FCond) (comb : Comb) (q : Pr) : Statement (.fcmp h p a b cond comb q) := rfl
theorem fdot2 (h : Hdr) (d : Vr) (a : Vr) (b : Vr) (bf : Bool) : Statement (.fdot2 h d a b bf) := rfl
theorem hadd2 (h : Hdr) (d : Vr) (a : Vr) (b : Vr) (bf : Bool) : Statement (.hadd2 h d a b bf) := rfl
theorem hmul2 (h : Hdr) (d : Vr) (a : Vr) (b : Vr) (bf : Bool) : Statement (.hmul2 h d a b bf) := rfl
theorem hfma2 (h : Hdr) (d : Vr) (a : Vr) (b : Vr) (bf : Bool) : Statement (.hfma2 h d a b bf) := rfl
theorem frnd (h : Hdr) (d : Vr) (a : Vr) (mode : Rm) : Statement (.frnd h d a mode) := rfl
theorem fsetm (h : Hdr) (d : Vr) (mask : BitVec 4) (value : BitVec 4) : Statement (.fsetm h d mask value) := rfl
theorem fcvt (h : Hdr) (d : Vr) (a : Vr) (dty : FType) (sty : FType) (shalf : Bool) (dhalf : Bool) (rnd : Rm5) : Statement (.fcvt h d a dty sty shalf dhalf rnd) := rfl
theorem fcvti (h : Hdr) (d : Vr) (a : Vr) (it : IType) (ft : FType) (rnd : Rm) : Statement (.fcvti h d a it ft rnd) := rfl
theorem icvtf (h : Hdr) (d : Vr) (a : Vr) (it : IType) (ft : FType) (rnd : Rm) : Statement (.icvtf h d a it ft rnd) := rfl
theorem fpack (h : Hdr) (d : Vr) (a : Vr) (b : Vr) (pos : BitVec 2) (kseed : Kr) : Statement (.fpack h d a b pos kseed) := rfl
theorem funpk (h : Hdr) (d : Vr) (a : Vr) (b : Vr) (pos : BitVec 2) (c : Vr) (sc : Bool) : Statement (.funpk h d a b pos c sc) := rfl
theorem fscl (h : Hdr) (d : Vr) (a : Vr) (b : Vr) (sf : ScaleFmt) : Statement (.fscl h d a b sf) := rfl
theorem fsca (h : Hdr) (d : Vr) (a : Vr) (b : Vr) (c : Vr) : Statement (.fsca h d a b c) := rfl
theorem fzct (h : Hdr) (d : Vr) (peek : Bool) : Statement (.fzct h d peek) := rfl
theorem mma (h : Hdr) (a : Vr) (b : Vr) (t : Tile) (sr : Semiring) (qa : Bool) (qb : Bool) (fw : Vr) (sc : Vr) (ty : MatType) (z : Bool) (n : BitVec 4) (dc : Dc) : Statement (.mma h a b t sr qa qb fw sc ty z n dc) := rfl
theorem mlut (h : Hdr) (b : Vr) (kt : Kr) (t : Tile) (fw : Vr) (qb : Bool) (z : Bool) (dc : Dc) (e : BitVec 2) (neg : Bool) : Statement (.mlut h b kt t fw qb z dc e neg) := rfl
theorem mlbld (h : Hdr) (a : Vr) (kt : Kr) (g0 : BitVec 5) (fw : Vr) (ty : BldType) (pm : Bool) (dc : Dc) (qa : Bool) : Statement (.mlbld h a kt g0 fw ty pm dc qa) := rfl
theorem macz (h : Hdr) (t : Tile) (val : MaczVal) : Statement (.macz h t val) := rfl
theorem macr (h : Hdr) (d : Vr) (t : Tile) (row0 : BitVec 6) (hi : Bool) (cnt : BitVec 4) (dc : Dc) : Statement (.macr h d t row0 hi cnt dc) := rfl
theorem macw (h : Hdr) (d : Vr) (t : Tile) (row0 : BitVec 6) (hi : Bool) (cnt : BitVec 4) (dc : Dc) : Statement (.macw h d t row0 hi cnt dc) := rfl
theorem mdrn (h : Hdr) (t : Tile) (spad : Bool) (kbase : Kr) (kpitch : Kr) (add : Bool) (ety : FType) (dc : Dc) (row0 : BitVec 6) (nrows : BitVec 6) : Statement (.mdrn h t spad kbase kpitch add ety dc row0 nrows) := rfl
theorem mpairBind (h : Hdr) : Statement (.mpairBind h) := rfl
theorem mpairRel (h : Hdr) : Statement (.mpairRel h) := rfl
theorem ld (h : Hdr) (d : Vr) (kbase : Kr) (voff : Vr) (size : ESize) : Statement (.ld h d kbase voff size) := rfl
theorem st (h : Hdr) (d : Vr) (kbase : Kr) (voff : Vr) (size : ESize) : Statement (.st h d kbase voff size) := rfl
theorem ldl (h : Hdr) (d : Vr) (kbase : Kr) (voff : Vr) (size : ESize) (imm : BitVec 16) (dc : Dc) (probe : Pr) (hint : BitVec 3) (scale : Scale) (sx : Bool) : Statement (.ldl h d kbase voff size imm dc probe hint scale sx) := rfl
theorem stl (h : Hdr) (d : Vr) (kbase : Kr) (voff : Vr) (size : ESize) (imm : BitVec 16) (dc : Dc) (hint : BitVec 3) (scale : Scale) : Statement (.stl h d kbase voff size imm dc hint scale) := rfl
theorem lds (h : Hdr) (d : Vr) (kbase : Kr) (voff : Vr) (size : ESize) : Statement (.lds h d kbase voff size) := rfl
theorem sts (h : Hdr) (d : Vr) (kbase : Kr) (voff : Vr) (size : ESize) : Statement (.sts h d kbase voff size) := rfl
theorem ldk (h : Hdr) (kd : Kr) (kbase : Kr) (sx : Bool) (size : ESize) (imm : BitVec 16) (dc : Dc) : Statement (.ldk h kd kbase sx size imm dc) := rfl
theorem stk (h : Hdr) (kd : Kr) (kbase : Kr) (size : ESize) (imm : BitVec 16) (dc : Dc) : Statement (.stk h kd kbase size imm dc) := rfl
theorem pref (h : Hdr) (l2 : Bool) (kbase : Kr) (voff : Vr) (size : ESize) (imm : BitVec 16) (hint : BitVec 3) (scale : Scale) : Statement (.pref h l2 kbase voff size imm hint scale) := rfl
theorem cwb (h : Hdr) (klen : Kr) (kbase : Kr) (scope : Scope) (imm : BitVec 16) (dc : Dc) : Statement (.cwb h klen kbase scope imm dc) := rfl
theorem cflu (h : Hdr) (klen : Kr) (kbase : Kr) (scope : Scope) (imm : BitVec 16) (dc : Dc) : Statement (.cflu h klen kbase scope imm dc) := rfl
theorem cinv (h : Hdr) (klen : Kr) (kbase : Kr) (scope : Scope) (imm : BitVec 16) (dc : Dc) (zf : Bool) : Statement (.cinv h klen kbase scope imm dc zf) := rfl
theorem preq (h : Hdr) (klen : Kr) (kbase : Kr) (sem : BitVec 6) (useSem : Bool) (imm : BitVec 16) (dc : Dc) : Statement (.preq h klen kbase sem useSem imm dc) := rfl
theorem atom (h : Hdr) (d : Vr) (kbase : Kr) (voff : Vr) (size : ASize) (vs : Vr) (op : AtomOp) (ord : Ord) (scope : Scope) (dc : Dc) (imm : BitVec 13) : Statement (.atom h d kbase voff size vs op ord scope dc imm) := rfl
theorem red (h : Hdr) (kbase : Kr) (voff : Vr) (size : ASize) (vs : Vr) (op : AtomOp) (ord : Ord) (scope : Scope) (dc : Dc) (imm : BitVec 13) : Statement (.red h kbase voff size vs op ord scope dc imm) := rfl
theorem atoms (h : Hdr) (d : Vr) (kbase : Kr) (voff : Vr) (size : ASize) (vs : Vr) (op : AtomOp) (ord : Ord) (scope : Scope) (dc : Dc) (imm : BitVec 13) : Statement (.atoms h d kbase voff size vs op ord scope dc imm) := rfl
theorem fence (h : Hdr) (scope : Scope) (ord : Ord) : Statement (.fence h scope ord) := rfl
theorem barSync (h : Hdr) (id : BitVec 4) (kcnt : Kr) (scope : Scope) : Statement (.barSync h id kcnt scope) := rfl
theorem barArrive (h : Hdr) (id : BitVec 4) (kcnt : Kr) (scope : Scope) : Statement (.barArrive h id kcnt scope) := rfl
theorem barWait (h : Hdr) (id : BitVec 4) (scope : Scope) : Statement (.barWait h id scope) := rfl
theorem bart (h : Hdr) (id : BitVec 4) (ktime : Kr) (scope : Scope) (p : Pr) (dc : Dc) : Statement (.bart h id ktime scope p dc) := rfl
theorem gbar (h : Hdr) : Statement (.gbar h) := rfl
theorem clkjAdd (h : Hdr) (imm : BitVec 12) : Statement (.clkjAdd h imm) := rfl
theorem clkjAddk (h : Hdr) (ka : Kr) : Statement (.clkjAddk h ka) := rfl
theorem clkjSetk (h : Hdr) (ka : Kr) : Statement (.clkjSetk h ka) := rfl
theorem clkjNb (h : Hdr) : Statement (.clkjNb h) := rfl
theorem lock (h : Hdr) (kbase : Kr) (kval : Kr) (imm : BitVec 16) (dc : Dc) (scope : Scope) : Statement (.lock h kbase kval imm dc scope) := rfl
theorem lockTry (h : Hdr) (p : Pr) (kbase : Kr) (kval : Kr) (imm : BitVec 16) (dc : Dc) (scope : Scope) : Statement (.lockTry h p kbase kval imm dc scope) := rfl
theorem unlock (h : Hdr) (p : Pr) (kbase : Kr) (kval : Kr) (imm : BitVec 16) (dc : Dc) (scope : Scope) : Statement (.unlock h p kbase kval imm dc scope) := rfl
theorem aecfg (h : Hdr) (mask : BitVec 8) : Statement (.aecfg h mask) := rfl
theorem aego (h : Hdr) (off : BitVec 14) : Statement (.aego h off) := rfl
theorem aestop (h : Hdr) : Statement (.aestop h) := rfl
theorem qbind (h : Hdr) (mask : BitVec 8) : Statement (.qbind h mask) := rfl
theorem sliceLdl (h : Hdr) (d : Vr) (kbase : Kr) (kstride : Kr) (size : ESize) (imm : BitVec 16) (hint : BitVec 3) (sx : Bool) : Statement (.sliceLdl h d kbase kstride size imm hint sx) := rfl
theorem cpy (h : Hdr) (kdst : Kr) (kfrom : Kr) (klen : Kr) (ch : BitVec 4) (s2g : Bool) (dc : Dc) : Statement (.cpy h kdst kfrom klen ch s2g dc) := rfl
theorem cpym (h : Hdr) (kdst : Kr) (kfrom : Kr) (klen : Kr) (ch : BitVec 4) (dc : Dc) (gmask : BitVec 8) : Statement (.cpym h kdst kfrom klen ch dc gmask) := rfl
theorem cpyw (h : Hdr) (kval : Kr) (ch : BitVec 4) : Statement (.cpyw h kval ch) := rfl
theorem cpyq (h : Hdr) (kd : Kr) (ch : BitVec 4) (ip : Bool) (dc : Dc) : Statement (.cpyq h kd ch ip dc) := rfl
theorem semset (h : Hdr) (sm : BitVec 6) (ka : Kr) (imm : BitVec 6) : Statement (.semset h sm ka imm) := rfl
theorem semadd (h : Hdr) (sm : BitVec 6) (ka : Kr) (imm : BitVec 6) : Statement (.semadd h sm ka imm) := rfl
theorem semwait (h : Hdr) (sm : BitVec 6) (ka : Kr) (imm : BitVec 6) : Statement (.semwait h sm ka imm) := rfl
theorem coll (h : Hdr) (kdesc : Kr) (kd : Kr) (dc : Dc) : Statement (.coll h kdesc kd dc) := rfl
theorem collw (h : Hdr) (kcomm : Kr) (kseq : Kr) : Statement (.collw h kcomm kseq) := rfl
theorem tclaim (h : Hdr) (kd : Kr) (kbase : Kr) (kgeo : Kr) (karg : Kr) (routine : BitVec 3) (keep : Bool) (dc : Dc) (try_ : Bool) : Statement (.tclaim h kd kbase kgeo karg routine keep dc try_) := rfl
theorem trel (h : Hdr) (kbase : Kr) (dc : Dc) : Statement (.trel h kbase dc) := rfl
theorem tsurr (h : Hdr) (kdelay : Kr) (outcome : TOutcome) : Statement (.tsurr h kdelay outcome) := rfl
theorem tquery (h : Hdr) (kd : Kr) (kbase : Kr) (dc : Dc) : Statement (.tquery h kd kbase dc) := rfl
theorem lnch (h : Hdr) (kd : Kr) (ka : Kr) (dc : Dc) : Statement (.lnch h kd ka dc) := rfl
theorem lnwait (h : Hdr) (kd : Kr) (ka : Kr) (dc : Dc) : Statement (.lnwait h kd ka dc) := rfl
theorem qpost (h : Hdr) (kd : Kr) (ka : Kr) (q : BitVec 6) (prio : BitVec 2) (dc : Dc) : Statement (.qpost h kd ka q prio dc) := rfl
theorem lmap (h : Hdr) (kd : Kr) (ka : Kr) (which : MapSel) (dc : Dc) : Statement (.lmap h kd ka which dc) := rfl
theorem trap (h : Hdr) (code : BitVec 16) : Statement (.trap h code) := rfl
theorem tfence (h : Hdr) : Statement (.tfence h) := rfl
theorem rft (h : Hdr) (mode : RftMode) : Statement (.rft h mode) := rfl
theorem tmask (h : Hdr) (en : BitVec 6) (m : BitVec 6) (ho : HoldOp) : Statement (.tmask h en m ho) := rfl
theorem gets (h : Hdr) (r : BitVec 6) (sr : SReg) (rk : Bool) : Statement (.gets h r sr rk) := rfl
theorem sets (h : Hdr) (r : BitVec 6) (sr : SReg) (rk : Bool) : Statement (.sets h r sr rk) := rfl
theorem tmr (h : Hdr) (kd : Kr) (master : Bool) (dc : Dc) : Statement (.tmr h kd master dc) := rfl
theorem orgr (h : Hdr) (vd : Vr) (n : BitVec 6) (cls : OrgClass) (dc : Dc) : Statement (.orgr h vd n cls dc) := rfl
theorem orgw (h : Hdr) (va : Vr) (n : BitVec 6) (cls : OrgClass) (dc : Dc) : Statement (.orgw h va n cls dc) := rfl
theorem slotFill (core : Nat) : Statement (.slotFill core) := rfl
theorem counterRelease (wp : Nat) (dc : Dc) : Statement (.counterRelease wp dc) := rfl
theorem trapDispatch (wp : Nat) : Statement (.trapDispatch wp) := rfl
theorem handlerWaveStart (die : Nat) : Statement (.handlerWaveStart die) := rfl
theorem warpEnd (wp : Nat) : Statement (.warpEnd wp) := rfl
theorem pairedOperationStart (core : Nat) : Statement (.pairedOperationStart core) := rfl
theorem mpairRendezvous (wp : Nat) : Statement (.mpairRendezvous wp) := rfl
theorem mmaChunk (core : Nat) : Statement (.mmaChunk core) := rfl
theorem addOnStoreApply (idx : Nat) : Statement (.addOnStoreApply idx) := rfl
theorem getm (agent : Nat) (frame : Nat) (first : Nat) (last : Nat) : Statement (.getm agent frame first last) := rfl
theorem putm (agent : Nat) (frame : Nat) (first : Nat) (last : Nat) : Statement (.putm agent frame first last) := rfl
theorem coherenceGrant (agent : Nat) (frame : Nat) (first : Nat) (last : Nat) : Statement (.coherenceGrant agent frame first last) := rfl
theorem absorbedAck (agent : Nat) (frame : Nat) (first : Nat) (last : Nat) : Statement (.absorbedAck agent frame first last) := rfl
theorem invalidationCompletion (idx : Nat) : Statement (.invalidationCompletion idx) := rfl
theorem preqComplete (core : Nat) (idx : Nat) : Statement (.preqComplete core idx) := rfl
theorem sliceEntryPush (wp : Nat) : Statement (.sliceEntryPush wp) := rfl
theorem copyDelivery (grp : Nat) (side : Nat) (ch : Nat) : Statement (.copyDelivery grp side ch) := rfl
theorem bartTimeout (wp : Nat) (seq : Nat) : Statement (.bartTimeout wp seq) := rfl
theorem minimumDelivery (dom : Nat) : Statement (.minimumDelivery dom) := rfl
theorem orderedRequestPerform (dom : Nat) : Statement (.orderedRequestPerform dom) := rfl
theorem publication (dom : Nat) : Statement (.publication dom) := rfl
theorem tileGrant (tile : Nat) : Statement (.tileGrant tile) := rfl
theorem recallStart (tile : Nat) : Statement (.recallStart tile) := rfl
theorem recallDelayExpiry (tile : Nat) : Statement (.recallDelayExpiry tile) := rfl
theorem surrenderComplete (tile : Nat) : Statement (.surrenderComplete tile) := rfl
theorem packetService (q : Nat) (p : Nat) : Statement (.packetService q p) := rfl
theorem gridRelease (grid : Nat) : Statement (.gridRelease grid) := rfl
theorem gangStart (cluster : Nat) : Statement (.gangStart cluster) := rfl
theorem gangSteal (cluster : Nat) : Statement (.gangSteal cluster) := rfl
theorem endEdgeStep (grid : Nat) : Statement (.endEdgeStep grid) := rfl
theorem gridComplete (grid : Nat) : Statement (.gridComplete grid) := rfl
theorem watchdogPreempt (q : Nat) : Statement (.watchdogPreempt q) := rfl
theorem watchdogKill (q : Nat) : Statement (.watchdogKill q) := rfl
theorem watchdogFence (q : Nat) : Statement (.watchdogFence q) := rfl
theorem preemptDeadline (c : Nat) : Statement (.preemptDeadline c) := rfl
theorem segmentCut (c : Nat) : Statement (.segmentCut c) := rfl
theorem saveComplete (c : Nat) : Statement (.saveComplete c) := rfl
theorem saveDeadline (c : Nat) : Statement (.saveDeadline c) := rfl
theorem restoreComplete (c : Nat) : Statement (.restoreComplete c) := rfl
theorem fenceUnit (sec : Bool) (u : FUnit) : Statement (.fenceUnit sec u) := rfl
theorem bubbleCancel : Statement (.bubbleCancel) := rfl
theorem bubbleStart (die : Nat) : Statement (.bubbleStart die) := rfl
theorem bubbleEnd (die : Nat) : Statement (.bubbleEnd die) := rfl
theorem getsRequest (agent : Nat) (frame : Nat) (first : Nat) (last : Nat) : Statement (.getsRequest agent frame first last) := rfl
theorem writeBackAcknowledgement (agent : Nat) (frame : Nat) (first : Nat) (last : Nat) : Statement (.writeBackAcknowledgement agent frame first last) := rfl
theorem illegalInstructionWord (detail : Nat) : Statement (.illegalInstructionWord detail) := rfl
theorem quireFill (agent : Nat) (frame : Nat) (first : Nat) (last : Nat) (qs : QState) : Statement (.quireFill agent frame first last qs) := rfl
theorem upg (agent : Nat) (frame : Nat) (first : Nat) (last : Nat) : Statement (.upg agent frame first last) := rfl
theorem puts (agent : Nat) (frame : Nat) (first : Nat) (last : Nat) : Statement (.puts agent frame first last) := rfl
theorem snpShare (agent : Nat) (frame : Nat) (first : Nat) (last : Nat) : Statement (.snpShare agent frame first last) := rfl
theorem snpInv (agent : Nat) (frame : Nat) (first : Nat) (last : Nat) : Statement (.snpInv agent frame first last) := rfl
theorem inFlightReply (agent : Nat) (frame : Nat) (first : Nat) (last : Nat) : Statement (.inFlightReply agent frame first last) := rfl
theorem peerForwardProbe (core : Nat) (cluster : Nat) (frame : Nat) (first : Nat) (last : Nat) : Statement (.peerForwardProbe core cluster frame first last) := rfl
theorem backInvalidation (frame : Nat) (first : Nat) (last : Nat) : Statement (.backInvalidation frame first last) := rfl
theorem biasFlip (page : Nat) (toHost : Bool) : Statement (.biasFlip page toHost) := rfl
theorem atsInvalidation (va : Nat) (len : Nat) (pasid : Option Nat) : Statement (.atsInvalidation va len pasid) := rfl
theorem agentFailure (u : FUnit) : Statement (.agentFailure u) := rfl
theorem homeFailure (home : Nat) (base : Nat) (len : Nat) : Statement (.homeFailure home base len) := rfl
theorem pageResident (ctx : Nat) (va : Nat) : Statement (.pageResident ctx va) := rfl
theorem collectiveComplete (comm : Nat) (peers : List (List Byte)) (fault : Nat) : Statement (.collectiveComplete comm peers fault) := rfl
theorem streamWriteAccept (src : Nat) (cls : Nat) (num : Nat) (rel : Bool) (pa : Nat) (bytes : List Byte) : Statement (.streamWriteAccept src cls num rel pa bytes) := rfl
theorem tailWrite (q : Nat) (p : Nat) (v : Nat) : Statement (.tailWrite q p v) := rfl
theorem qctlEnWrite (q : Nat) (v : Nat) : Statement (.qctlEnWrite q v) := rfl
theorem qerrErrClear (q : Nat) : Statement (.qerrErrClear q) := rfl
theorem ctxctlPrq (c : Nat) : Statement (.ctxctlPrq c) := rfl
theorem ctxctlRsq (c : Nat) : Statement (.ctxctlRsq c) := rfl
theorem trresWrite (c : Nat) (idx : Nat) : Statement (.trresWrite c idx) := rfl
theorem ctxpasidWrite (c : Nat) (v : Nat) : Statement (.ctxpasidWrite c v) := rfl
theorem packageReset : Statement (.packageReset) := rfl
theorem startUpStep (unit : Nat) (sub : Nat) (passed : Bool) : Statement (.startUpStep unit sub passed) := rfl
theorem pwrlimWrite (v : Nat) : Statement (.pwrlimWrite v) := rfl
theorem errackWrite (v : Nat) : Statement (.errackWrite v) := rfl
theorem errbaseWrite (v : Nat) : Statement (.errbaseWrite v) := rfl
theorem errlostRead : Statement (.errlostRead) := rfl
theorem errorRecord (r : ErrRec) : Statement (.errorRecord r) := rfl
theorem registerWrite (off : Nat) (v : Nat) (size : Nat) : Statement (.registerWrite off v size) := rfl
theorem assignDomain (sec : Bool) (dom : Nat) (c : Nat) : Statement (.assignDomain sec dom c) := rfl
theorem setCommunicator (sec : Bool) (comm : Nat) (ranks : Nat) (rank : Nat) : Statement (.setCommunicator sec comm ranks rank) := rfl
theorem returnLostPage (sec : Bool) (page : Nat) : Statement (.returnLostPage sec page) := rfl
theorem assignPartition (sec : Bool) (c : Nat) (mask : Nat) : Statement (.assignPartition sec c mask) := rfl
theorem setPowerLimit (sec : Bool) (v : Nat) : Statement (.setPowerLimit sec v) := rfl
theorem getVersion : Statement (.getVersion) := rfl
theorem getCapabilities : Statement (.getCapabilities) := rfl
theorem negotiateAlgorithms : Statement (.negotiateAlgorithms) := rfl
theorem getDigests : Statement (.getDigests) := rfl
theorem getCertificate : Statement (.getCertificate) := rfl
theorem challenge (nonce : Nat) : Statement (.challenge nonce) := rfl
theorem getMeasurements : Statement (.getMeasurements) := rfl
theorem bubbleSchedule (len : Nat) (t : Nat) : Statement (.bubbleSchedule len t) := rfl
theorem bubbleAck (die : Nat) : Statement (.bubbleAck die) := rfl
theorem timeMasterUpdate (die : Nat) (off : Int) (rate : Int) : Statement (.timeMasterUpdate die off rate) := rfl
theorem flitReceive (port : Nat) (flit : Flit) (crcOk : Bool) : Statement (.flitReceive port flit crcOk) := rfl
theorem flitAck (port : Nat) (seq : Nat) : Statement (.flitAck port seq) := rfl
theorem laneFailure (port : Nat) (lane : Nat) : Statement (.laneFailure port lane) := rfl
theorem snoopReply (agent : Nat) (frame : Nat) (first : Nat) (last : Nat) : Statement (.snoopReply agent frame first last) := rfl
theorem hostCxlMemAccess (pa : Nat) (store : Bool) (bytes : List Byte) : Statement (.hostCxlMemAccess pa store bytes) := rfl

end Sys2Proof.Laws.EncodedLength
end

