-- ==== Sys2Proof/Tests/Slice0.lean ====
section
/-! SUPPORT. The model's own tests: words of every instruction form against the decoder, ill-formed terms against the well-formedness check,
single instructions against values worked out from the specification, and for every statement with hypotheses a state and operands that meet them. -/

namespace Sys2Proof.Tests

open Sys2Proof Sys2Proof.Machine

set_option Elab.async false

/-! ### Decoding: words written from the encodings of the specification (Tables 2.1 to 2.6 and the field tables of each chapter) -/

theorem test_decode_control :
    decodeWord 0x00000000 0 = .ok (.nop ⟨false, false, 0⟩) ∧
    decodeWord 0x40A00000 0 = .ok (.exit ⟨false, true, 0⟩) ∧
    decodeWord 0x40D01234 0 = .ok (.brk ⟨false, true, 0⟩ 0x1234) ∧
    decodeWord 0x4020bffd 0 = .ok (.brp ⟨false, true, 0⟩ 2 0x3ffd) ∧
    decodeWord 0x4030bffd 0 = .ok (.brn ⟨false, true, 0⟩ 2 0x3ffd) ∧
    decodeWord 0x40414001 0 = .ok (.bru ⟨false, true, 0⟩ 5 1) ∧
    decodeWord 0x40514001 0 = .ok (.bruz ⟨false, true, 0⟩ 5 1) ∧
    decodeWord 0x40100001 0 = .ok (.bra ⟨false, true, 0⟩ 1) ∧
    decodeWord 0x40704005 0 = .ok (.call ⟨false, true, 0⟩ 1 5) ∧
    decodeWord 0x40804600 0 = .ok (.callx ⟨false, true, 0⟩ 1 6) ∧
    decodeWord 0x40900100 0 = .ok (.ret ⟨false, true, 0⟩ 1) ∧
    decodeWord 0x40600600 0 = .ok (.jmpx ⟨false, true, 0⟩ 6) ∧
    decodeWord 0x00b08000 0 = .ok (.dwait ⟨false, false, 0⟩ 4 0) ∧
    decodeWord 0x00c00000 0 = .ok (.chkm ⟨false, false, 0⟩ .off) := by
  decide

theorem test_decode_integer_1 :
    decodeWord 0x0100C108 0 = .ok (.iadd ⟨false, false, 0⟩ 3 1 2 0) ∧
    decodeWord 0x0110C109 0 = .ok (.isub ⟨false, false, 0⟩ 3 1 2 1) ∧
    decodeWord 0x0120C10A 0 = .ok (.imul ⟨false, false, 0⟩ 3 1 2 2) ∧
    decodeWord 0x0130C108 0 = .ok (.imulhS ⟨false, false, 0⟩ 3 1 2 0) ∧
    decodeWord 0x0140C108 0 = .ok (.imulhN ⟨false, false, 0⟩ 3 1 2 0) ∧
    decodeWord 0x0150C108 0 = .ok (.imad ⟨false, false, 0⟩ 3 1 2 0) ∧
    decodeWord 0x016087F0 0 = .ok (.iaddi ⟨false, false, 0⟩ 2 7 0xF0) ∧
    decodeWord 0x0170C108 0 = .ok (.iminS ⟨false, false, 0⟩ 3 1 2 0) ∧
    decodeWord 0x0180C108 0 = .ok (.iminN ⟨false, false, 0⟩ 3 1 2 0) ∧
    decodeWord 0x0190C108 0 = .ok (.imaxS ⟨false, false, 0⟩ 3 1 2 0) ∧
    decodeWord 0x01A0C108 0 = .ok (.imaxN ⟨false, false, 0⟩ 3 1 2 0) ∧
    decodeWord 0x01B0C108 0 = .ok (.shl ⟨false, false, 0⟩ 3 1 2 0) ∧
    decodeWord 0x01C0C108 0 = .ok (.shr ⟨false, false, 0⟩ 3 1 2 0) ∧
    decodeWord 0x01D0C10B 0 = .ok (.sar ⟨false, false, 0⟩ 3 1 2 3) := by
  decide

theorem test_decode_integer_2 :
    decodeWord 0x01E18683 0 = .ok (.sari ⟨false, false, 0⟩ 6 6 3) ∧
    decodeWord 0x01E186C3 0 = .ok (.roti ⟨false, false, 0⟩ 6 6 3) ∧
    decodeWord 0x01F0C108 0 = .ok (.and ⟨false, false, 0⟩ 3 1 2 0) ∧
    decodeWord 0x0200C108 0 = .ok (.or ⟨false, false, 0⟩ 3 1 2 0) ∧
    decodeWord 0x0210C108 0 = .ok (.xor ⟨false, false, 0⟩ 3 1 2 0) ∧
    decodeWord 0x0220C108 0 = .ok (.andn ⟨false, false, 0⟩ 3 1 2 0) ∧
    decodeWord 0x023087B0 0 = .ok (.xori ⟨false, false, 0⟩ 2 7 48) ∧
    decodeWord 0x0240C900 0 = .ok (.not ⟨false, false, 0⟩ 3 9 0) ∧
    decodeWord 0x0240C90C 0 = .ok (.brev ⟨false, false, 0⟩ 3 9 0) ∧
    decodeWord 0x0240C910 0 = .ok (.iabs ⟨false, false, 0⟩ 3 9 0) ∧
    decodeWord 0x0240C914 0 = .ok (.ineg ⟨false, false, 0⟩ 3 9 0) ∧
    decodeWord 0x02610200 0x00000C08 = .ok (.bfi ⟨false, false, 0⟩ 4 2 0 8 12) ∧
    decodeWord 0x02714108 0xFFF80002 = .ok (.lea ⟨false, false, 0⟩ 5 1 2 0 2 0xFFF8) ∧
    decodeWord 0x0290C108 0x00000005 = .ok (.sel ⟨false, false, 0⟩ 3 1 2 0 5) := by
  decide

theorem test_decode_integer_3 :
    decodeWord 0x02A0C000 0xDEADBEEF = .ok (.movi ⟨false, false, 0⟩ 3 0 0xDEADBEEF) ∧
    decodeWord 0x02B0C904 0 = .ok (.movk ⟨false, false, 0⟩ 3 9 true 0) ∧
    decodeWord 0x02C0C10A 0 = .ok (.idot4 ⟨false, false, 0⟩ 3 1 2 .sn) ∧
    decodeWord 0x02D08311 0 = .ok (.ksub ⟨false, false, 0⟩ 2 3 4) ∧
    decodeWord 0x02D08312 0 = .ok (.kmul ⟨false, false, 0⟩ 2 3 4) ∧
    decodeWord 0x02E08310 0 = .ok (.kor ⟨false, false, 0⟩ 2 3 4) ∧
    decodeWord 0x02E08311 0 = .ok (.kxor ⟨false, false, 0⟩ 2 3 4) ∧
    decodeWord 0x02E08312 0 = .ok (.kshl ⟨false, false, 0⟩ 2 3 4) ∧
    decodeWord 0x03208300 0 = .ok (.kmov ⟨false, false, 0⟩ 2 3) ∧
    decodeWord 0x03314681 0 = .ok (.kfromv ⟨false, false, 0⟩ 5 6 32 .sext) ∧
    decodeWord 0x0340C108 0 = .ok (.pand ⟨false, false, 0⟩ 3 1 2) ∧
    decodeWord 0x0340C109 0 = .ok (.por ⟨false, false, 0⟩ 3 1 2) ∧
    decodeWord 0x0340C10A 0 = .ok (.pxor ⟨false, false, 0⟩ 3 1 2) ∧
    decodeWord 0x0340C10B 0 = .ok (.pandn ⟨false, false, 0⟩ 3 1 2) := by
  decide

theorem test_decode_integer_4 :
    decodeWord 0x0350C000 0 = .ok (.pclr ⟨false, false, 0⟩ 3) ∧
    decodeWord 0x0350C001 0 = .ok (.pset ⟨false, false, 0⟩ 3) ∧
    decodeWord 0x0350C102 0 = .ok (.pnot ⟨false, false, 0⟩ 3 1) ∧
    decodeWord 0x0350C103 0 = .ok (.pmov ⟨false, false, 0⟩ 3 1) ∧
    decodeWord 0x03650300 0 = .ok (.ptov ⟨false, false, 0⟩ 20 3) ∧
    decodeWord 0x0360C901 0 = .ok (.vtop ⟨false, false, 0⟩ 3 9) ∧
    decodeWord 0x03930D02 0 = .ok (.qbc ⟨false, false, 0⟩ 12 13 2) ∧
    decodeWord 0x03A00001 0 = .ok (.qhlp ⟨false, false, 0⟩ .zero) ∧
    decodeWord 0x03B0C108 0 = .ok (.wshf ⟨false, false, 0⟩ 3 1 2) ∧
    decodeWord 0x03D0C103 0 = .ok (.wvote ⟨false, false, 0⟩ 3 1 .count) ∧
    decodeWord 0x03E0C110 0 = .ok (.wred ⟨false, false, 0⟩ 3 1 .maxN) ∧
    decodeWord 0x01e18603 0 = .ok (.shli ⟨false, false, 0⟩ 6 6 3) ∧
    decodeWord 0x01e18643 0 = .ok (.shri ⟨false, false, 0⟩ 6 6 3) ∧
    decodeWord 0x02308730 0 = .ok (.andi ⟨false, false, 0⟩ 2 7 48) := by
  decide

theorem test_decode_integer_5 :
    decodeWord 0x02308770 0 = .ok (.ori ⟨false, false, 0⟩ 2 7 48) ∧
    decodeWord 0x0240c904 0 = .ok (.popc ⟨false, false, 0⟩ 3 9 0) ∧
    decodeWord 0x0240c908 0 = .ok (.clz ⟨false, false, 0⟩ 3 9 0) ∧
    decodeWord 0x02510200 0x00000c08 = .ok (.bfx ⟨false, false, 0⟩ 4 2 0 8 12 false) ∧
    decodeWord 0x0280c108 0x00000002 = .ok (.icmp ⟨false, false, 0⟩ 3 1 2 .ltS .only 0) ∧
    decodeWord 0x0301c000 0x80000000 = .ok (.kset ⟨false, false, 0⟩ 7 .sext 0x80000000) ∧
    decodeWord 0x03830d00 0 = .ok (.qswp ⟨false, false, 0⟩ 12 13 .h) ∧
    decodeWord 0x03c28b04 0 = .ok (.wshx ⟨false, false, 0⟩ 10 11 1 .xor) ∧
    decodeWord 0x0af20801 0 = .ok (.kaddi ⟨false, false, 1⟩ 8 8 1) ∧
    decodeWord 0x0ad1841b 0 = .ok (.kand ⟨false, false, 1⟩ 6 4 6) ∧
    decodeWord 0x0b169465 0 = .ok (.kcmp ⟨false, false, 1⟩ 26 20 25 .ne) ∧
    decodeWord 0x0ae30c37 0 = .ok (.kshr ⟨false, false, 1⟩ 12 12 13) ∧
    decodeWord 0x0ad3842c 0 = .ok (.kadd ⟨false, false, 1⟩ 14 4 11) := by
  decide

theorem test_decode_float_1 :
    decodeWord 0x0400C108 0 = .ok (.fadd ⟨false, false, 0⟩ 3 1 2 0) ∧
    decodeWord 0x0420C108 0 = .ok (.fmul ⟨false, false, 0⟩ 3 1 2 0) ∧
    decodeWord 0x0461460C 0 = .ok (.frsq ⟨false, false, 0⟩ 5 6 0) ∧
    decodeWord 0x04614614 0 = .ok (.fex2 ⟨false, false, 0⟩ 5 6 0) ∧
    decodeWord 0x04614618 0 = .ok (.flg2 ⟨false, false, 0⟩ 5 6 0) ∧
    decodeWord 0x0461461C 0 = .ok (.fsin ⟨false, false, 0⟩ 5 6 0) ∧
    decodeWord 0x04614620 0 = .ok (.fcos ⟨false, false, 0⟩ 5 6 0) ∧
    decodeWord 0x04A0C109 0 = .ok (.hmul2 ⟨false, false, 0⟩ 3 1 2 true) ∧
    decodeWord 0x04B0C108 0 = .ok (.hfma2 ⟨false, false, 0⟩ 3 1 2 false) ∧
    decodeWord 0x04C14602 0 = .ok (.frnd ⟨false, false, 0⟩ 5 6 .rdn) ∧
    decodeWord 0x04D0C076 0 = .ok (.fsetm ⟨false, false, 0⟩ 3 7 6) ∧
    decodeWord 0x04121060 0 = .ok (.fsub ⟨false, false, 0⟩ 8 16 24 0) ∧
    decodeWord 0x04310108 0 = .ok (.ffma ⟨false, false, 0⟩ 4 1 2 0) ∧
    decodeWord 0x04410108 0 = .ok (.fmin ⟨false, false, 0⟩ 4 1 2 0) := by
  decide

theorem test_decode_float_2 :
    decodeWord 0x04510108 0 = .ok (.fmax ⟨false, false, 0⟩ 4 1 2 0) ∧
    decodeWord 0x04614600 0 = .ok (.fabs ⟨false, false, 0⟩ 5 6 0) ∧
    decodeWord 0x04614604 0 = .ok (.fneg ⟨false, false, 0⟩ 5 6 0) ∧
    decodeWord 0x04614608 0 = .ok (.frcp ⟨false, false, 0⟩ 5 6 0) ∧
    decodeWord 0x04614610 0 = .ok (.fsqrt ⟨false, false, 0⟩ 5 6 0) ∧
    decodeWord 0x0470c108 0x00000002 = .ok (.fcmp ⟨false, false, 0⟩ 3 1 2 .lt .only 0) ∧
    decodeWord 0x04828414 0 = .ok (.fdot2 ⟨false, false, 0⟩ 10 4 5 false) ∧
    decodeWord 0x0490c108 0 = .ok (.hadd2 ⟨false, false, 0⟩ 3 1 2 false) := by
  decide

theorem test_decode_formats :
    decodeWord 0x0566165C 0x0000001E = .ok (.fsca ⟨false, false, 0⟩ 24 22 23 30) ∧
    decodeWord 0x05724001 0 = .ok (.fzct ⟨false, false, 0⟩ 9 true) ∧
    decodeWord 0x05010200 0x00000042 = .ok (.fcvt ⟨false, false, 0⟩ 4 2 .bf16 .f32 false false .rtz) ∧
    decodeWord 0x05114680 0 = .ok (.fcvti ⟨false, false, 0⟩ 5 6 .s32 .f32 .rne) ∧
    decodeWord 0x0521c7a0 0 = .ok (.icvtf ⟨false, false, 0⟩ 7 7 .n32 .f32 .rne) ∧
    decodeWord 0x05350078 0x00000009 = .ok (.fpack ⟨false, false, 0⟩ 20 0 30 0 9) ∧
    decodeWord 0x05421478 0 = .ok (.funpk ⟨false, false, 0⟩ 8 20 30 0 0 false) ∧
    decodeWord 0x0555407c 0 = .ok (.fscl ⟨false, false, 0⟩ 21 0 31 .e8m0) := by
  decide

theorem test_decode_matrix :
    decodeWord 0x05B30000 0 = .ok (.macz ⟨false, false, 0⟩ 3 .zero) ∧
    decodeWord 0x05f00000 0 = .ok (.mpairBind ⟨false, false, 0⟩) ∧
    decodeWord 0x05f00001 0 = .ok (.mpairRel ⟨false, false, 0⟩) ∧
    decodeWord 0x05801020 0x00102000 = .ok (.mma ⟨false, false, 0⟩ 0 16 2 .plusTimes false false 0 0 .bf16 false 0 1) ∧
    decodeWord 0x05c00400 0x00002348 = .ok (.macr ⟨false, false, 0⟩ 0 1 8 true 3 2) ∧
    decodeWord 0x05d00400 0x00002348 = .ok (.macw ⟨false, false, 0⟩ 0 1 8 true 3 2) ∧
    decodeWord 0x05e00824 0x0001f810 = .ok (.mdrn ⟨false, false, 0⟩ 0 false 8 9 false .f32 4 0 63) ∧
    decodeWord 0x05a00600 0x00000640 = .ok (.mlbld ⟨false, false, 0⟩ 0 6 0 0 .bf16 false 3 false) ∧
    decodeWord 0x05920600 0x0000039e = .ok (.mlut ⟨false, false, 0⟩ 8 6 0 30 false true 3 0 false) := by
  decide

theorem test_decode_ordering :
    decodeWord 0x07130620 0x00000044 = .ok (.bart ⟨false, false, 0⟩ 3 6 .group 4 1) ∧
    decodeWord 0x07200000 0 = .ok (.gbar ⟨false, false, 0⟩) ∧
    decodeWord 0x06c1440e 0x18042000 = .ok (.atom ⟨false, false, 0⟩ 5 4 3 .w4 6 .add .rlx .device 1 0) ∧
    decodeWord 0x06d0040e 0x1a96e000 = .ok (.red ⟨false, false, 0⟩ 4 3 .w4 6 .fadd .rel .system 7 0) ∧
    decodeWord 0x06e1420e 0x18014000 = .ok (.atoms ⟨false, false, 0⟩ 5 2 3 .w4 6 .add .rlx .group 2 0) ∧
    decodeWord 0x06f00021 0 = .ok (.fence ⟨false, false, 0⟩ .device .acq) ∧
    decodeWord 0x07030020 0 = .ok (.barSync ⟨false, false, 0⟩ 3 0 .group) ∧
    decodeWord 0x07034020 0 = .ok (.barArrive ⟨false, false, 0⟩ 3 0 .group) ∧
    decodeWord 0x07038020 0 = .ok (.barWait ⟨false, false, 0⟩ 3 .group) := by
  decide

theorem test_decode_engines :
    decodeWord 0x07600001 0x00000004 = .ok (.aego ⟨false, false, 0⟩ 4) ∧
    decodeWord 0x07601000 0 = .ok (.aecfg ⟨false, false, 0⟩ 1) ∧
    decodeWord 0x07600002 0 = .ok (.aestop ⟨false, false, 0⟩) ∧
    decodeWord 0x07601003 0 = .ok (.qbind ⟨false, false, 0⟩ 1) ∧
    decodeWord 0x07728824 0x00000023 = .ok (.cpy ⟨false, false, 0⟩ 10 8 9 3 false 1) ∧
    decodeWord 0x07728825 0x00000f23 = .ok (.cpym ⟨false, false, 0⟩ 10 8 9 3 1 15) ∧
    decodeWord 0x07700b02 0x000000e3 = .ok (.cpyw ⟨false, false, 0⟩ 11 3) ∧
    decodeWord 0x07730003 0x00000043 = .ok (.cpyq ⟨false, false, 0⟩ 12 3 false 2) ∧
    decodeWord 0x07814000 0 = .ok (.semset ⟨false, false, 0⟩ 5 0 0) ∧
    decodeWord 0x07814005 0 = .ok (.semadd ⟨false, false, 0⟩ 5 0 1) ∧
    decodeWord 0x07814702 0 = .ok (.semwait ⟨false, false, 0⟩ 5 7 0) ∧
    decodeWord 0x07934e00 0x00004000 = .ok (.coll ⟨false, false, 0⟩ 13 14 2) ∧
    decodeWord 0x0793ce01 0x0000e000 = .ok (.collw ⟨false, false, 0⟩ 15 14) := by
  decide

theorem test_decode_traps :
    decodeWord 0x07C000A8 0 = .ok (.trap ⟨false, false, 0⟩ 0x2A) ∧
    decodeWord 0x07C00001 0 = .ok (.tfence ⟨false, false, 0⟩) ∧
    decodeWord 0x07C00006 0 = .ok (.rft ⟨false, false, 0⟩ .skip) ∧
    decodeWord 0x07C00107 0 = .ok (.tmask ⟨false, false, 0⟩ 1 1 .keep) ∧
    decodeWord 0x07d04404 0 = .ok (.gets ⟨false, false, 0⟩ 1 .widx true) ∧
    decodeWord 0x07d14b05 0 = .ok (.sets ⟨false, false, 0⟩ 5 .fpc true) ∧
    decodeWord 0x07d18016 0 = .ok (.tmr ⟨false, false, 0⟩ 6 false 2) ∧
    decodeWord 0x07e0c504 0 = .ok (.orgr ⟨false, false, 0⟩ 3 5 .v 1) ∧
    decodeWord 0x07e2851d 0 = .ok (.orgw ⟨false, false, 0⟩ 10 5 .v 7) := by
  decide

theorem test_decode_memory :
    decodeWord 0x0601c40e 0 = .ok (.ld ⟨false, false, 0⟩ 7 4 3 .b4) ∧
    decodeWord 0x0611c40e 0 = .ok (.st ⟨false, false, 0⟩ 7 4 3 .b4) ∧
    decodeWord 0x0641c20e 0 = .ok (.lds ⟨false, false, 0⟩ 7 2 3 .b4) ∧
    decodeWord 0x0651c20e 0 = .ok (.sts ⟨false, false, 0⟩ 7 2 3 .b4) ∧
    decodeWord 0x0621c40e 0x00401f00 = .ok (.ldl ⟨false, false, 0⟩ 7 4 3 .b4 64 0 62 0 .sz false) ∧
    decodeWord 0x0631c40e 0x00401f00 = .ok (.stl ⟨false, false, 0⟩ 7 4 3 .b4 64 0 0 .sz) ∧
    decodeWord 0x06624403 0x00100000 = .ok (.ldk ⟨false, false, 0⟩ 9 4 false .b8 16 0) ∧
    decodeWord 0x06724403 0x00100000 = .ok (.stk ⟨false, false, 0⟩ 9 4 .b8 16 0) ∧
    decodeWord 0x0680040e 0x0000ff00 = .ok (.pref ⟨false, false, 0⟩ false 4 3 .b4 0 0 .sz) ∧
    decodeWord 0x06a14400 0x00006000 = .ok (.preq ⟨false, false, 0⟩ 5 4 0 false 0 3) := by
  decide

theorem test_decode_maintenance :
    decodeWord 0x06914480 0 = .ok (.cwb ⟨false, false, 0⟩ 5 4 .device 0 0) ∧
    decodeWord 0x06914481 0x00006000 = .ok (.cflu ⟨false, false, 0⟩ 5 4 .device 0 3) ∧
    decodeWord 0x06914482 0 = .ok (.cinv ⟨false, false, 0⟩ 5 4 .device 0 0 false) := by
  decide

theorem test_decode_collation :
    decodeWord 0x07300190 0 = .ok (.clkjAdd ⟨false, false, 0⟩ 100) ∧
    decodeWord 0x07314001 0 = .ok (.clkjAddk ⟨false, false, 0⟩ 5) ∧
    decodeWord 0x07314002 0 = .ok (.clkjSetk ⟨false, false, 0⟩ 5) ∧
    decodeWord 0x07300003 0 = .ok (.clkjNb ⟨false, false, 0⟩) ∧
    decodeWord 0x074f8418 0x00003000 = .ok (.lock ⟨false, false, 0⟩ 4 6 0 1 .device) ∧
    decodeWord 0x0740c419 0x00003000 = .ok (.lockTry ⟨false, false, 0⟩ 3 4 6 0 1 .device) ∧
    decodeWord 0x074f841a 0x0000f000 = .ok (.unlock ⟨false, false, 0⟩ 62 4 6 0 7 .device) := by
  decide

theorem test_decode_tiles :
    decodeWord 0x07a28824 0x0000040b = .ok (.tclaim ⟨false, false, 0⟩ 10 8 9 11 0 false 1 false) ∧
    decodeWord 0x07a00801 0x00000800 = .ok (.trel ⟨false, false, 0⟩ 8 2) ∧
    decodeWord 0x07a30803 0x00000c00 = .ok (.tquery ⟨false, false, 0⟩ 12 8 3) ∧
    decodeWord 0x47a00002 0 = .ok (.tsurr ⟨false, true, 0⟩ 0 .finish) := by
  decide

theorem test_decode_launch :
    decodeWord 0x07b28800 0x00002000 = .ok (.lnch ⟨false, false, 0⟩ 10 8 1) ∧
    decodeWord 0x07b2ca01 0x00004000 = .ok (.lnwait ⟨false, false, 0⟩ 11 10 2) ∧
    decodeWord 0x07b30802 0x00002045 = .ok (.qpost ⟨false, false, 0⟩ 12 8 5 1 1) ∧
    decodeWord 0x07b34603 0x00006004 = .ok (.lmap ⟨false, false, 0⟩ 13 6 .l2p 3) := by
  decide

/-- R240: in slice code major 0x62 is the slice load (the words of chapter 12's program). -/
theorem test_decode_slice : decodeSliceWord 0x062E1432 0x0000FF00 = .ok (.sliceLdl ⟨false, false, 0⟩ 56 20 12 .b4 0 0 false) ∧
    decodeSliceWord 0x07600002 0 = .ok (.aestop ⟨false, false, 0⟩) ∧ decodeWord 0x062E1432 0x0000FF00 = .error .reservedField := by
  decide

/-- The header of Table 2.1: chain, end of run and stall count. -/
theorem test_decode_header : decodeWord 0x9900C108 0 = .ok (.iadd ⟨true, false, 3⟩ 3 1 2 0) ∧ decodeWord 0x7100C108 0 = .ok (.iadd ⟨false, true, 6⟩ 3 1 2 0) := by
  decide

/-- Table 2.4: reserved majors (0x01), the word that is always illegal (0x02), reserved fields (0x03), reserved predicates (0x0C). -/
theorem test_decode_rejects : decodeWord 0x00E00000 0 = .error .reservedMajor ∧ decodeWord 0x07500000 0 = .error .reservedMajor ∧ decodeWord 0x07F00000 0 = .error .alwaysIllegal ∧ decodeWord 0x0240C924 0 = .error .reservedField ∧
    decodeWord 0x0290C108 0x00000030 = .error .reservedPredicate ∧ decodeWord 0x00B00003 0 = .error .reservedField := by
  decide

/-- R35: a form of two words takes eight bytes, least significant first. -/
theorem test_decode_bytes : decode [0x08, 0x41, 0x71, 0x02, 0x02, 0x00, 0xF8, 0xFF, 0xAA] = .ok (.lea ⟨false, false, 0⟩ 5 1 2 0 2 0xFFF8, [0xAA]) ∧
    decode [0x08, 0x41, 0x71, 0x02] = .error .truncated := by
  decide

/-! ### Well-formedness: one ill-formed term for each check -/

/-- The field conditions (detail 0x03). -/
theorem test_wf_fields :
    (Instr.dwait ⟨false, false, 0⟩ 0 0).wf = false ∧ (Instr.bfx ⟨false, false, 0⟩ 4 2 0 8 25 false).wf = false ∧ (Instr.bfi ⟨false, false, 0⟩ 4 2 0 8 0).wf = false ∧
    (Instr.icmp ⟨false, false, 0⟩ 3 1 2 .eq .only 1).wf = false ∧ (Instr.kfromv ⟨false, false, 0⟩ 5 6 33 .zext).wf = false ∧ (Instr.fcmp ⟨false, false, 0⟩ 3 1 2 .eq .only 1).wf = false ∧
    (Instr.fcvt ⟨false, false, 0⟩ 4 2 .f32 .f16 false true .rne).wf = false ∧ (Instr.fcvt ⟨false, false, 0⟩ 4 2 .f16 .f32 true false .rne).wf = false ∧
    (Instr.macr ⟨false, false, 0⟩ 0 1 8 true 3 7).wf = false ∧ (Instr.mdrn ⟨false, false, 0⟩ 0 false 8 9 true .f16 4 0 63).wf = false ∧ (Instr.fence ⟨false, false, 0⟩ .device .rlx).wf = false := by
  decide

/-- The field conditions of the matrix forms: windows, one window for both sides, a count without windows, a type its mode does not take, a format register without format words. -/
theorem test_wf_matrix :
    (Instr.mma ⟨false, false, 0⟩ 55 57 0 .plusTimes true true 40 58 .fmt false 0 1).wf = false ∧ (Instr.mma ⟨false, false, 0⟩ 0 55 0 .plusTimes false true 40 58 .fmt false 0 1).wf = false ∧
    (Instr.mma ⟨false, false, 0⟩ 56 56 0 .plusTimes true true 40 58 .fmt false 0 1).wf = false ∧ (Instr.mma ⟨false, false, 0⟩ 0 57 0 .plusTimes false true 40 58 .fmt false 1 1).wf = false ∧
    (Instr.mma ⟨false, false, 0⟩ 0 16 2 .minPlus false false 0 0 .bf16 false 0 1).wf = false ∧ (Instr.mma ⟨false, false, 0⟩ 0 16 2 .plusTimes false false 1 0 .bf16 false 0 1).wf = false ∧
    (Instr.mlut ⟨false, false, 0⟩ 8 6 0 30 true true 3 0 false).wf = false ∧ (Instr.mlbld ⟨false, false, 0⟩ 0 6 0 0 .bf16 false 3 true).wf = false := by
  decide

/-- The field conditions of the memory and ordering forms. -/
theorem test_wf_memory :
    (Instr.ldl ⟨false, false, 0⟩ 7 4 3 .b4 64 0 63 0 .sz false).wf = false ∧ (Instr.ldl ⟨false, false, 0⟩ 7 4 3 .b4 64 0 62 0 .sz true).wf = false ∧
    (Instr.ldl ⟨false, false, 0⟩ 7 4 3 .b4 64 7 62 0 .sz false).wf = false ∧ (Instr.ldk ⟨false, false, 0⟩ 9 4 true .b8 16 0).wf = false ∧ (Instr.ldk ⟨false, false, 0⟩ 9 4 false .b8 16 7).wf = false ∧
    (Instr.preq ⟨false, false, 0⟩ 5 4 1 false 0 3).wf = false ∧ (Instr.atom ⟨false, false, 0⟩ 5 4 3 .w8 6 .fadd .rlx .device 1 0).wf = false ∧ (Instr.atom ⟨false, false, 0⟩ 5 4 3 .w4 6 .add .rlx .device 7 0).wf = false ∧
    (Instr.red ⟨false, false, 0⟩ 4 3 .w4 6 .cas .rlx .device 1 0).wf = false ∧ (Instr.red ⟨false, false, 0⟩ 4 3 .w4 6 .add .acq .device 1 0).wf = false ∧
    (Instr.atoms ⟨false, false, 0⟩ 5 2 3 .w4 6 .add .rlx .device 2 0).wf = false ∧ (Instr.barSync ⟨false, false, 0⟩ 3 0 .warp).wf = false ∧ (Instr.barArrive ⟨false, false, 0⟩ 3 0 .fabric).wf = false ∧
    (Instr.barWait ⟨false, false, 0⟩ 3 .system).wf = false ∧ (Instr.bart ⟨false, false, 0⟩ 3 6 .group 4 7).wf = false ∧ (Instr.lock ⟨false, false, 0⟩ 4 6 0 1 .warp).wf = false ∧
    (Instr.lockTry ⟨false, false, 0⟩ 62 4 6 0 1 .device).wf = false ∧ (Instr.unlock ⟨false, false, 0⟩ 3 4 6 0 7 .device).wf = false := by
  decide

/-- The field conditions of the engine, tile, launch and trap forms. -/
theorem test_wf_engines :
    (Instr.sliceLdl ⟨false, false, 0⟩ 55 20 12 .b4 0 0 false).wf = false ∧ (Instr.sliceLdl ⟨false, false, 0⟩ 56 20 12 .b8 0 0 false).wf = false ∧ (Instr.sliceLdl ⟨false, false, 0⟩ 56 20 12 .b4 0 0 true).wf = false ∧
    (Instr.cpym ⟨false, false, 0⟩ 10 8 9 3 1 0).wf = false ∧ (Instr.cpyq ⟨false, false, 0⟩ 12 3 false 7).wf = false ∧ (Instr.coll ⟨false, false, 0⟩ 13 14 7).wf = false ∧
    (Instr.tclaim ⟨false, false, 0⟩ 10 8 9 11 0 false 7 false).wf = false ∧ (Instr.tsurr ⟨false, false, 0⟩ 1 .finish).wf = false ∧ (Instr.tquery ⟨false, false, 0⟩ 12 8 7).wf = false ∧
    (Instr.lnch ⟨false, false, 0⟩ 10 8 7).wf = false ∧ (Instr.lnwait ⟨false, false, 0⟩ 11 10 7).wf = false ∧ (Instr.qpost ⟨false, false, 0⟩ 12 8 5 1 7).wf = false ∧ (Instr.lmap ⟨false, false, 0⟩ 13 6 .l2p 7).wf = false ∧
    (Instr.tmr ⟨false, false, 0⟩ 6 false 7).wf = false ∧ (Instr.orgr ⟨false, false, 0⟩ 3 5 .v 7).wf = false ∧ (Instr.orgr ⟨false, false, 0⟩ 3 1 .axf 1).wf = false ∧ (Instr.orgw ⟨false, false, 0⟩ 3 1 .fpc 1).wf = false := by
  decide

/-- Reserved predicates (detail 0x0C). -/
theorem test_wf_predicates :
    (Instr.brp ⟨false, true, 0⟩ 48 0).wf = false ∧ (Instr.brn ⟨false, true, 0⟩ 61 0).wf = false ∧ (Instr.icmp ⟨false, false, 0⟩ 3 1 2 .eq .and 48).wf = false ∧ (Instr.sel ⟨false, false, 0⟩ 3 1 2 0 48).wf = false ∧
    (Instr.pand ⟨false, false, 0⟩ 3 1 48).wf = false ∧ (Instr.por ⟨false, false, 0⟩ 3 48 1).wf = false ∧ (Instr.pxor ⟨false, false, 0⟩ 48 1 1).wf = false ∧ (Instr.pandn ⟨false, false, 0⟩ 3 1 61).wf = false ∧
    (Instr.pclr ⟨false, false, 0⟩ 48).wf = false ∧ (Instr.pset ⟨false, false, 0⟩ 48).wf = false ∧ (Instr.pnot ⟨false, false, 0⟩ 3 48).wf = false ∧ (Instr.pmov ⟨false, false, 0⟩ 48 3).wf = false ∧
    (Instr.ptov ⟨false, false, 0⟩ 20 48).wf = false ∧ (Instr.vtop ⟨false, false, 0⟩ 48 9).wf = false ∧ (Instr.fcmp ⟨false, false, 0⟩ 48 1 2 .eq .and 1).wf = false ∧
    (Instr.ldl ⟨false, false, 0⟩ 7 4 3 .b4 64 0 50 0 .sz false).wf = false ∧ (Instr.bart ⟨false, false, 0⟩ 3 6 .group 48 1).wf = false ∧ (Instr.lockTry ⟨false, false, 0⟩ 48 4 6 0 1 .device).wf = false ∧
    (Instr.unlock ⟨false, false, 0⟩ 48 4 6 0 1 .device).wf = false ∧ (Instr.orgr ⟨false, false, 0⟩ 3 48 .p 1).wf = false ∧ (Instr.orgw ⟨false, false, 0⟩ 3 48 .p 1).wf = false := by
  decide

/-- R37, R41: a transfer without E, and E beside C. -/
theorem test_wf_header : (Instr.bra ⟨false, false, 0⟩ 1).wf = false ∧ (Instr.exit ⟨false, false, 0⟩).wf = false ∧ (Instr.nop ⟨true, true, 0⟩).wf = false := by
  decide

/-! ### A small machine -/

/-- Four levels of tables to one level-1 table at 0x5000 with these leaves by page; the leaf of page 8 allows fetches, page 16 allows everything, page 17 is not resident, page 18 allows no writes; a second 2 MiB of addresses lie in one page of HBM. -/
def tables : Memory :=
  [(0x1000, 0x01), (0x1001, 0x20), (0x2000, 0x01), (0x2001, 0x30), (0x3000, 0x01), (0x3001, 0x40), (0x4000, 0x01), (0x4001, 0x50),
   (0x4008, 0x77), (0x4009, 0x0C), (0x400A, 0x20),
   (0x5040, 0x1B), (0x5041, 0x3C), (0x5042, 0x08), (0x5080, 0x1F), (0x5081, 0x0C), (0x5082, 0x08),
   (0x5088, 0x15), (0x5089, 0x1C), (0x508A, 0x08), (0x5090, 0x1B), (0x5091, 0x2C), (0x5092, 0x08)]

/-- A kernel of two warps: 4 channels, 8 semaphores, one surrender routine, 4 tiles, 256 KiB of scratchpad, code at 0x8000. -/
def kernel : Desc := { Desc.none_ with code := 0x8000, codelen := 0x300, shape := 2 + 4 * 2 ^ 10 + 8 * 2 ^ 15 + 2 ^ 22, part := 1 + 4 * 2 ^ 13, spl := 0x40000, surr := [⟨0x30, 2, 1⟩] }

/-- Its grid of one group, running. -/
def plainGrid : Grid := { Grid.none_ with launch := 1, pk := { Packet.none_ with type := 1, ngroups := 1 }, ds := kernel, st := .running, resid := 1 }

/-- Its group on core 0. -/
def plainGroup : Group := { Group.none_ with warpsLeft := 2 }

/-- A warp whose lanes 0 to 3 are the strand being run, at 0x8000: v1 holds 1 to 4 and v3 holds 0 to 3 by lane, k4 points to page 16 and k6 holds 7. -/
def strand : Warp :=
  { Warp.idle with
    inRun := true, active := 0xF, runPc := 0x8000, pcs := (List.range 32).map fun l => (l, 0x8000)
    v := (List.range 4).map (fun l => (32 + l, BitVec.ofNat 32 (l + 1))) ++ (List.range 4).map (fun l => (96 + l, BitVec.ofNat 32 l))
    k := [(4, 0x10000), (6, 7)] }

/-- The machine with this warp, group and grid. -/
def machine (w : Warp) (g : Group) (x : Grid) : State :=
  { State.reset with
    warps := [(0, w)], groups := [(0, g)], grids := [(0, x)], cores := [(0, { Core.reset with slots := [0], grid := some 0 })]
    ctxs := [(0, { Ctx.reset with troot := 0x1000, nextLaunch := 2, partition := 1 })], mem := tables }

/-- The machine as it stands. -/
def bench : State := machine strand plainGroup plainGrid

/-- What `readRegs` gives for registers of the bench. -/
def readsOf (w : Warp) (regs : List Nat) : Reads := match w.readRegs regs [] with | .ok (v, _) => v | .error _ => []

/-- A header without chain, end or stall. -/
abbrev H : Hdr := ⟨false, false, 0⟩
/-- A header that ends the run. -/
abbrev E : Hdr := ⟨false, true, 0⟩

/-- The state after an instruction of the bench. -/
def after (i : Instr) (s : State := bench) : State := match exec i s with | .next t => t | _ => s

/-- The value on its way to register `r` in lane `l`. -/
def result (s : State) (r : RegId) (l : Nat) : Option DWord := (s.w.pend.find? fun p => p.res.reg == r).bind fun p => SMap.find p.res.vals l

/-- The leaf of page 16. -/
def leaf16 : Leaf := ⟨0x10000, 0x1000, 0x80C1F⟩


/-- Where no access of the current warp waits, none touches what a new one does. -/
theorem noneEarlier {s : State} {spad : Bool} {n : Nat} {as : List (Nat × Nat)} (h : s.openReqs s.cur = []) : s.NoneEarlier spad n as := by
  intro q hq; rw [h] at hq; cases hq

/-! ### States that meet the hypotheses of the statements, and what single instructions do -/

theorem witness_IntegerResults : ∃ r, intRow (.imad H 5 1 3 0) = some r ∧ (Instr.imad H 5 1 3 0).fieldsOk = true ∧ bench.Here ∧ bench.w.Fits r.x r.d r.srcs ∧ bench.w.NoWindow r.x r.d ∧
    bench.w.readRegs (bench.w.sourceRegs r.x r.srcs) [] = .ok (readsOf bench.w (bench.w.sourceRegs r.x r.srcs), []) :=
  ⟨_, rfl, rfl, rfl, by unfold Warp.Fits InPlane; decide, by unfold Warp.NoWindow; decide, rfl⟩

/-- With a block of 2 rows and 2 columns. -/
def blocks : State := machine { strand with bx1 := 0b001001, qbind := 1 } plainGroup plainGrid

theorem witness_IntegerResults_block : ∃ r, intRow (.iadd H 5 1 3 1) = some r ∧ blocks.w.extent r.x = (2, 2) ∧ blocks.Here ∧ blocks.w.Fits r.x r.d r.srcs ∧ blocks.w.NoWindow r.x r.d ∧
    ∃ vals, blocks.w.readRegs (blocks.w.sourceRegs r.x r.srcs) [] = .ok (vals, []) :=
  ⟨_, rfl, by decide, rfl, by unfold Warp.Fits InPlane; decide, by unfold Warp.NoWindow; decide, _, rfl⟩

theorem witness_BlockTraps_plane : ∃ r, intRow (.iadd H 7 1 3 1) = some r ∧ blocks.Here ∧ blocks.w.kind = .normal ∧ ¬ blocks.w.Fits r.x r.d r.srcs :=
  ⟨_, rfl, rfl, rfl, by unfold Warp.Fits InPlane; decide⟩

theorem witness_BlockTraps_window : ∃ r, floatRow (.fadd H 56 1 3 0) = some r ∧ blocks.Here ∧ blocks.w.kind = .normal ∧ blocks.w.Fits r.x r.d r.srcs ∧ ¬ blocks.w.NoWindow r.x r.d :=
  ⟨_, rfl, rfl, rfl, by unfold Warp.Fits InPlane; decide, by unfold Warp.NoWindow; decide⟩

theorem witness_UniformAndPredicateResults : (∃ r vals, uniRow (.kfromv H 5 1 2 .sext) = some r ∧ bench.Here ∧ bench.w.readRegs (r.srcs.map (·.toNat)) [] = .ok (vals, [])) ∧
    ∃ r vals, predRow (.icmp H 3 1 3 .ltS .xor 63) = some r ∧ bench.Here ∧ bench.w.readRegs (r.srcs.map (·.toNat)) [] = .ok (vals, []) :=
  ⟨⟨_, _, rfl, rfl, rfl⟩, _, _, rfl, rfl, rfl⟩

theorem witness_ExchangeResults : ∃ r vals, crossRow (.wshx H 5 1 1 .xor) = some r ∧ bench.Here ∧ bench.w.isWindow r.d.toNat = false ∧ bench.w.readRegs (r.srcs.map (·.toNat)) [] = .ok (vals, []) :=
  ⟨_, _, rfl, rfl, rfl, rfl⟩

/-- One entry of queue 0, with a value for each lane. -/
def entry : QEntry := { q := 0, vals := List.replicate 32 9, causes := [], pc := 0x8000, kfile := [], effs := 0, gather := 0, ord := 0 }

/-- A warp with queue 0 bound and one entry in it, and queue 1 bound and empty. -/
def windows : Warp := { strand with qbind := 3, queues := [(0, [entry])] }

theorem witness_WindowReads : windows.isWindow 56 = true ∧ (SMap.get [] windows.queues (56 - 56))[SMap.get 0 ([] : SMap Nat) (56 - 56)]? = some entry ∧ entry.causes = [] ∧
    windows.isWindow 57 = true ∧ (SMap.get [] windows.queues (57 - 56))[SMap.get 0 ([] : SMap Nat) (57 - 56)]? = none ∧ ∀ r ∈ [1, 3], windows.isWindow r = false := by
  decide

/-- A warp at schedule count 5 with a v, a p and a k result due and one that is not. -/
def due : Warp :=
  { strand with sched := 5, pend := [⟨⟨.v 9, [(0, 7), (1, 8)]⟩, 3, 5⟩, ⟨⟨.p 2, [(3, 1)]⟩, 3, 5⟩, ⟨⟨.k 8, [(0, 77)]⟩, 3, 5⟩, ⟨⟨.v 10, [(0, 7)]⟩, 3, 7⟩] }

theorem witness_ResultsBecomeVisible : (∀ p ∈ due.pend, ∀ e ∈ p.res.vals, e.1 < 32) ∧
    (∃ p ∈ due.pend, p.vis ≤ due.sched ∧ p.res.reg = .v 9 ∧ (1, 8) ∈ p.res.vals ∧ (∀ e ∈ p.res.vals, e.1 = 1 → e.2 = 8) ∧ ∀ q ∈ due.pend, q ≠ p → q.vis ≤ due.sched → q.res.reg ≠ .v 9) ∧
    (∃ p ∈ due.pend, p.vis ≤ due.sched ∧ p.res.reg = .p 2 ∧ (3, 1) ∈ p.res.vals ∧ (∀ e ∈ p.res.vals, e.1 = 3 → e.2 = 1) ∧ ∀ q ∈ due.pend, q ≠ p → q.vis ≤ due.sched → q.res.reg ≠ .p 2) ∧
    (∃ p ∈ due.pend, p.vis ≤ due.sched ∧ p.res = ⟨.k 8, [(0, 77)]⟩ ∧ ∀ q ∈ due.pend, q ≠ p → q.vis ≤ due.sched → q.res.reg ≠ .k 8) ∧
    ∀ p ∈ due.pend, p.vis ≤ due.sched → p.res.reg ≠ .v 10 ∧ p.res.reg ≠ .k 9 := by
  decide

/-- R60: the due results can be read, the other not yet. -/
theorem test_commit : due.commit.rdV 9 1 = 8 ∧ due.commit.rdV 10 0 = 0 ∧ due.commit.rdP 2 3 = true ∧ due.commit.rdK 8 = 77 ∧ due.commit.pend.length = 1 := by
  decide

theorem witness_RetireRule : bench.Here ∧ bench.w.kind = .normal ∧ bench.w.jump = false ∧ bench.w.endRun = false ∧ bench.grid.ds.coll = false ∧
    (Instr.nop ⟨true, false, 0⟩).hdr.c = true ∧ (Instr.nop E).hdr.c = false ∧ (Instr.nop E).hdr.e = true ∧ (Instr.nop H).hdr.e = false := by
  unfold State.Here; decide

/-- Table 4.3: imad wraps; the source that is also the destination is read first. -/
theorem test_imad : result (after (.imad H 1 1 3 0)) (.v 1) 3 = some 16 ∧ result (after (.imad H 5 1 3 0)) (.v 5) 4 = none := by
  decide +kernel

/-- R86: subtraction wraps to 2^32 − 1. -/
theorem test_isub : result (after (.isub H 5 3 1 0)) (.v 5) 0 = some 0xFFFFFFFF := by
  decide +kernel

/-- R98: kcmp reads 7 as less than 0x10000 in both orders. -/
theorem test_kcmp : result (after (.kcmp H 8 6 4 .ltS)) (.k 8) 0 = some 1 ∧ result (after (.kcmp H 8 4 6 .ltN)) (.k 8) 0 = some 0 := by
  decide +kernel

/-- R107: a shuffle from a lane that is not active gives a lane its own value. -/
theorem test_wshx : result (after (.wshx H 5 1 1 .xor)) (.v 5) 0 = some 2 ∧ result (after (.wshx H 5 1 4 .xor)) (.v 5) 0 = some 1 := by
  decide +kernel

/-- R109: the reduction is over the active lanes. -/
theorem test_wred : result (after (.wred H 5 1 .add)) (.v 5) 2 = some 10 ∧ result (after (.wred H 5 1 .maxN)) (.v 5) 0 = some 4 := by
  decide +kernel


/-- A faulted entry: lane 2 met a page that is not resident. -/
def faulty : QEntry := { entry with causes := [(2, 0x07, 0x11008)] }

/-- The machine whose warp reads its window of queue 1, which is empty, with its slice in this state; of queue 2, a faulted entry. -/
def popping (st : SliceSt) : State :=
  machine { strand with qbind := 6, queues := [(2, [faulty])], slice := { Slice.start with st := st, pc := 0x8000 } } plainGroup plainGrid

theorem witness_WindowReads_stops : ∃ r r', intRow (.iadd H 5 57 3 0) = some r ∧ intRow (.iadd H 5 58 3 0) = some r' ∧
    ∀ st ∈ [SliceSt.running, .held, .idle, .ended, .failed], (popping st).Here ∧ (popping st).w.kind = .normal ∧ (popping st).w.Fits r.x r.d r.srcs ∧ (popping st).w.NoWindow r.x r.d ∧
      (popping st).w.readRegs ((popping st).w.sourceRegs r.x r.srcs) [] = .error .empty ∧ (popping st).w.heldEntry = some (2, faulty) ∧
      (popping st).w.readRegs ((popping st).w.sourceRegs r'.x r'.srcs) [] = .error (.faulted 2 faulty) := by
  refine ⟨_, _, rfl, rfl, ?_⟩
  intro st hst
  simp only [List.mem_cons, List.not_mem_nil, or_false] at hst
  rcases hst with rfl | rfl | rfl | rfl | rfl <;> exact ⟨rfl, rfl, by unfold Warp.Fits InPlane; decide, by unfold Warp.NoWindow; decide, rfl, by decide, rfl⟩

/-- R245, R246: an empty queue of an idle slice is an illegal operand with detail 0x09, of a held one the memory fault of its entry; of a running one it is waited for. -/
theorem test_pops : ((after (.iadd H 5 57 3 0) (popping .idle)).w.stops.map fun p => (p.cause, p.detail)) = [(3, 9), (3, 9), (3, 9), (3, 9)] ∧
    ((after (.iadd H 5 57 3 0) (popping .held)).w.stops.map fun p => (p.cause, p.detail, p.aux)) = [(4, 7, 160), (4, 7, 160), (4, 7, 160), (4, 7, 160)] ∧
    (after (.iadd H 5 57 3 0) (popping .running)).w.waiting = true := by
  decide +kernel

/-- Two results of one register are due: the one issued last stands behind the other. -/
theorem witness_ResultsBecomeVisible_last : ∃ w : Warp, ∃ p, (∃ xs ys, w.pend = xs ++ p :: ys ∧ xs ≠ [] ∧ ∀ q ∈ ys, q.vis ≤ w.sched → q.res.reg ≠ p.res.reg) ∧ (∀ q ∈ w.pend, ∀ e ∈ q.res.vals, e.1 < 32) ∧
    p.vis ≤ w.sched ∧ p.res.reg = .v 9 ∧ (1, 8) ∈ p.res.vals ∧ w.pend.length = 3 :=
  ⟨{ strand with sched := 5, pend := [⟨⟨.v 9, [(1, 7)]⟩, 2, 5⟩, ⟨⟨.v 9, [(1, 8)]⟩, 3, 5⟩, ⟨⟨.v 9, [(1, 9)]⟩, 4, 6⟩] }, ⟨⟨.v 9, [(1, 8)]⟩, 3, 5⟩,
    ⟨[⟨⟨.v 9, [(1, 7)]⟩, 2, 5⟩], [⟨⟨.v 9, [(1, 9)]⟩, 4, 6⟩], rfl, by decide, by decide⟩, by decide, by decide, rfl, by decide, rfl⟩
/-- With format words in v30: e4m3 in lanes 0 and 1, e2m1 in lanes 2 and 3; two format words alike in v40 and v41. -/
def formats : State :=
  machine { strand with v := strand.v ++ [(960, 0x5075C), (961, 0x5075C), (962, 0x6014A), (963, 0x6014A)] ++ (List.range 4).map (fun l => (1280 + l, 0x5075C)) ++ (List.range 4).map (fun l => (1312 + l, 0x5075C)) }
    plainGroup plainGrid

theorem witness_FloatResults : (∃ r, floatRow (.fadd H 5 1 3 0) = some r ∧ bench.Here ∧ bench.w.Fits r.x r.d r.srcs ∧ bench.w.NoWindow r.x r.d ∧ (Instr.fadd H 5 1 3 0).latency ≠ .dc ∧
      ∃ vals, bench.w.readRegs (bench.w.sourceRegs r.x r.srcs) [] = .ok (vals, [])) ∧
    ∃ r, floatRow (.frcp H 5 1 0) = some r ∧ bench.Here ∧ bench.w.Fits r.x r.d r.srcs ∧ bench.w.NoWindow r.x r.d ∧ (Instr.frcp H 5 1 0).latency = .dc ∧
      ∃ vals, bench.w.readRegs (bench.w.sourceRegs r.x r.srcs) [] = .ok (vals, []) :=
  ⟨⟨_, rfl, rfl, by unfold Warp.Fits InPlane; decide, by unfold Warp.NoWindow; decide, by decide, _, rfl⟩,
    _, rfl, rfl, by unfold Warp.Fits InPlane; decide, by unfold Warp.NoWindow; decide, by decide, _, rfl⟩

theorem witness_FloatCompare : bench.Here ∧ ∃ vals, bench.w.readRegs [(1 : Vr).toNat, (3 : Vr).toNat] [] = .ok (vals, []) :=
  ⟨rfl, _, rfl⟩

theorem witness_PackedConversions_fpack : formats.Here ∧ formats.w.isWindow 20 = false ∧ formats.w.readRegs [30] [] = .ok (readsOf formats.w [30], []) ∧ fwBad true formats.w.active ((readsOf formats.w [30]).at_ 0) = [] ∧
    (lanesOf formats.w.active).foldl (fun k l => max k (fwCount ((readsOf formats.w [30]).at_ 0 l).toNat)) 0 = 8 ∧ 0 + 8 ≤ 64 ∧
    ∃ vals, (formats.w.freePops []).readRegs ((List.range 8).map fun j => 0 + j) [] = .ok (vals, []) :=
  ⟨rfl, rfl, rfl, by decide +kernel, by decide +kernel, by decide, _, rfl⟩

theorem witness_PackedConversions_funpk : formats.Here ∧ formats.w.readRegs ([30] ++ [24] ++ [20]) [] = .ok (readsOf formats.w [30, 24, 20], []) ∧
    fwBad true formats.w.active ((readsOf formats.w [30, 24, 20]).at_ 0) = [] ∧ 8 + (lanesOf formats.w.active).foldl (fun k l => max k (fwCount ((readsOf formats.w [30, 24, 20]).at_ 0 l).toNat)) 0 ≤ 64 ∧
    ∀ j, j < 8 → formats.w.isWindow (8 + j) = false :=
  ⟨rfl, rfl, by decide +kernel, by decide +kernel, by decide +kernel⟩

theorem witness_PackedConversions_fsca : formats.Here ∧ formats.w.isWindow 24 = false ∧ formats.w.readRegs [30, 22, 23] [] = .ok (readsOf formats.w [30, 22, 23], []) ∧
    fwBad true formats.w.active ((readsOf formats.w [30, 22, 23]).at_ 0) = [] :=
  ⟨rfl, rfl, rfl, by decide +kernel⟩

theorem witness_CountsAndModes : bench.Here ∧ bench.w.isWindow (9 : Vr).toNat = false := ⟨rfl, rfl⟩

theorem witness_SpecialWritesWait : bench.Here ∧ bench.w.deferred = [] ∧ (Instr.sets ⟨true, false, 0⟩ 1 .bx1 false).hdr.c = true ∧ (Instr.sets H 1 .bx1 false).hdr.c = false ∧
    (∃ r vals, specialRow (.sets H 1 .bx1 false) = some r ∧ bench.w.readRegs (r.srcs.map (·.toNat)) [] = .ok (vals, []) ∧ ∀ h d m v, Instr.sets H 1 .bx1 false = .fsetm h d m v → bench.w.isWindow d.toNat = false) ∧
    ∃ r vals, specialRow (.fsetm H 3 7 6) = some r ∧ bench.w.readRegs (r.srcs.map (·.toNat)) [] = .ok (vals, []) ∧ ∀ h d m v, Instr.fsetm H 3 7 6 = .fsetm h d m v → bench.w.isWindow d.toNat = false :=
  ⟨rfl, rfl, rfl, rfl, ⟨_, _, rfl, rfl, by intros; contradiction⟩, _, _, rfl, rfl, by rintro _ _ _ _ ⟨⟩; rfl⟩

theorem witness_RoundingIsCorrect : FType.f16 ≠ .f32 ∧ 0x3C00 < 2 ^ 16 ∧ ∀ sig, (ftypeFmt .f16).decode 0x3C00 ≠ .nan sig := by
  decide +kernel

/-- R127: 1/3 in bf16 toward zero and to nearest. -/
theorem test_fcvt : (fcvtOf .bf16 .f32 false false .rtz 0x3EAAAAAB 0).1 = 0x3EAA ∧ (fcvtOf .bf16 .f32 false false .rne 0x3EAAAAAB 0).1 = 0x3EAB ∧ (fcvtOf .bf16 .f32 false false .rne 0x3EAAAAAB 0).2 = flagNX := by
  decide +kernel

/-- Table 6.4: 1 + 1 is 2 without flags; 1 ÷ 0 is infinite with DZ; the square root of −1 is NaN with NV. -/
theorem test_float : f32.add 0 0x3F800000 0x3F800000 = (0x40000000, 0) ∧ (frcpOf 0 0).1 = 0x7F800000 ∧ (frcpOf 0 0).2 = flagDZ ∧ (fsqrtOf 0 0xBF800000) = (0x7FC00000, flagNV) := by
  decide +kernel

/-- R119: the largest e4m3 value is 448, code 0x7E. -/
theorem test_fwDecode : fwDecode 0x5075C 0x7E = .fin false 14 5 ∨ fwDecode 0x5075C 0x7E = .fin false 7 6 ∨ fwDecode 0x5075C 0x7E = .fin false 448 0 := by
  decide +kernel


/-- A value below the normal range, one beyond the largest, and one between. -/
theorem witness_RoundingIsCorrect_ranges :
    ((roundAt .rne false 1 (-140) (-140 + Nat.log2 1 - 23) false).1 : ℚ) * 2 ^ (-140 + Nat.log2 1 - 23 : Int) < 2 ^ (-126 : Int) ∧
    (2 : ℚ) ^ 128 ≤ ((roundAt .rne false 1 130 (max (130 + Nat.log2 1 - 23) (-149)) false).1 : ℚ) * 2 ^ (max (130 + Nat.log2 1 - 23) (-149) : Int) ∧
    ((roundAt .rne false 3 0 (max (0 + Nat.log2 3 - 23) (-149)) false).1 : ℚ) * 2 ^ (max (0 + Nat.log2 3 - 23) (-149) : Int) < 2 ^ 128 := by
  refine ⟨?_, ?_, ?_⟩ <;> decide +kernel

/-- Operands of each kind of sum and product: finite, infinite of one and of both signs, NaN. -/
theorem witness_RoundingIsCorrect_operands :
    ((f32.input false 0x3F800000).1.isFin = true ∧ (f32.input false 0x40000000).1.isFin = true ∧ (f32.input false 0x3F800000).1.num + (f32.input false 0x40000000).1.num ≠ 0 ∧
      (f32.input false 0x3F800000).1.num * (f32.input false 0x40000000).1.num ≠ 0 ∧ (f32.input false 0x3F800000).1.num + (f32.input false 0xBF800000).1.num = 0 ∧ (f32.input false 0).1.num = 0) ∧
    (f32.input false 0x7F800000).1 = .inf false ∧ (f32.input false 0xFF800000).1 = .inf (!false) ∧ (f32.input false 0x7FC00000).1.isNan = true ∧
    (f32.input false 0).1.isFin = true ∧ ((f32.input false 0x3F800000).1.mul (f32.input false 0x7F800000).1).1 = .inf false := by
  refine ⟨⟨rfl, rfl, ?_, ?_, ?_, ?_⟩, rfl, rfl, rfl, rfl, rfl⟩ <;> decide +kernel
/-- With k5 at the second packet of the code object. -/
def jumps : State := machine { strand with k := [(4, 0x10000), (5, 0x800C), (6, 7)] } plainGroup plainGrid

theorem witness_Transfers : (∃ f, branchRow (.brp E 2 0x3FFD) = some (f, 0x3FFD)) ∧ (Instr.brp E 2 0x3FFD).headerOk = true ∧ jumps.Here ∧ jumps.grid.ds.code ≤ jumps.w.runPc.toNat ∧
    jumpRow (.callx E 1 5) = some (5, some 1) ∧ (Instr.callx E 1 5).headerOk = true ∧ jumps.PacketStart (jumps.w.rdK 5).toNat ∧ jumps.w.kind = .normal ∧ ¬ jumps.PacketStart (jumps.w.rdK 6).toNat ∧
    jumpRow (.ret E 6) = some (6, none) ∧ (Instr.call E 1 5).headerOk = true := by
  refine ⟨⟨_, rfl⟩, rfl, rfl, by decide, rfl, rfl, ?_, rfl, ?_, rfl, rfl⟩ <;> (unfold State.PacketStart; decide)

/-- R36: a branch three packets back, and its lanes. -/
theorem test_bra : (after (.bra E 2)).w.inRun = false ∧ SMap.get 0 (after (.bra E 2)).w.pcs 3 = 0x8018 ∧ SMap.get 0 (after (.bra E 2)).w.pcs 4 = 0x8000 := by
  decide +kernel

/-- R72: callx gives its link the next packet and goes to the address its source held. -/
theorem test_callx : (result (after (.callx E 1 5) jumps) (.k 1) 0 = some 0x800C) ∧ SMap.get 0 (after (.callx E 1 5) jumps).w.pcs 0 = 0x800C := by
  decide +kernel

/-- Two instructions on dc2, one on dc3, the first complete; a mark of each. -/
def counted : State :=
  machine { strand with seqNo := 3, dcIssued := [(2, 2), (3, 1)], inflight := [⟨0, 2, true, [], 0, []⟩, ⟨1, 2, false, [], 0, []⟩, ⟨2, 3, false, [], 0, []⟩], marks := [⟨.v 9, 2, 1⟩, ⟨.v 10, 2, 2⟩, ⟨.v 11, 3, 1⟩] } plainGroup plainGrid

theorem witness_WaitsForCounters : counted.Here ∧
    (∀ c, c < 7 → (4 : BitVec 7).getLsbD c = true → (counted.w.inflight.filter fun f => f.dc == c).length ≤ (2 : BitVec 6).toNat) ∧
    ¬ (∀ c, c < 7 → (4 : BitVec 7).getLsbD c = true → (counted.w.inflight.filter fun f => f.dc == c).length ≤ (1 : BitVec 6).toNat) ∧ counted.copyFault 4 = none := by
  refine ⟨rfl, ?_, ?_, rfl⟩ <;> decide

/-- R77: dwait with two left to come passes and keeps every mark; with one it waits. -/
theorem test_dwait : (after (.dwait H 4 2) counted).w.marks.length = 3 ∧ (after (.dwait H 4 1) counted).w.waiting = true ∧ (after (.dwait H 4 1) counted).w.runPc = 0x8000 := by
  decide +kernel

theorem witness_ExitEndsThreads : bench.Here ∧ bench.w.kind = .normal ∧ (Instr.exit E).headerOk = true := ⟨rfl, rfl, rfl⟩

/-- R75: the strand's threads have exited and the others have not. -/
theorem test_exit : (after (.exit E)).w.exited = 0xF := by
  decide +kernel

/-- With the NX flag of lane 1 raised and enabled. -/
def flagged : State := machine { strand with axf := [(1, 16)], tmaskEn := 16 } plainGroup plainGrid

theorem witness_AskedTraps : bench.Here ∧ bench.w.kind = .normal ∧ bench.w.active ≠ 0 ∧ bench.flagsSettled = true ∧
    (∀ l, l < 32 → (bench.w.active.getLsbD l && (bench.w.rdAxf l &&& bench.w.tmaskEn) != 0) = false) ∧
    flagged.Here ∧ flagged.w.kind = .normal ∧ flagged.flagsSettled = true ∧ ∃ l, l < 32 ∧ (flagged.w.active.getLsbD l && (flagged.w.rdAxf l &&& flagged.w.tmaskEn) != 0) = true := by
  refine ⟨rfl, rfl, by decide, rfl, ?_, rfl, rfl, rfl, 1, by decide, by decide⟩; decide

/-- R380: the record of a brk has cause 0x0C, the code as its value, and goes on at the next word. -/
theorem test_brk : ((after (.brk E 0x1234)).w.stops.map fun p => (p.lane, p.cause, p.ea, p.resume)) = [(0, 0x0C, 0x1234, 0x8004), (1, 0x0C, 0x1234, 0x8004), (2, 0x0C, 0x1234, 0x8004), (3, 0x0C, 0x1234, 0x8004)] := by
  decide +kernel


/-- A copy of the warp stands at a fault, and dc2 covers it. -/
def halted : State :=
  machine { strand with seqNo := 3, inflight := [⟨1, 2, false, [], 0, []⟩] }
    { plainGroup with chans := [(3, { Chan.empty with ip := 64, copies := [{ src := 0x11000, dst := 0, len := 64, s2g := false, at_ := 0, got := [], warp := 0, seq := 1 }], fault := some (0x08, 0x11000) })] } plainGrid

theorem witness_WaitsForCounters_fault : halted.Here ∧ halted.w.kind = .normal ∧ halted.FaultedCopy 4 (0, false, 3) 0x08 0x11000 ∧
    ¬ (∀ c, c < 7 → (4 : BitVec 7).getLsbD c = true → (halted.w.inflight.filter fun f => f.dc == c).length ≤ (0 : BitVec 6).toNat) ∧ ∀ c d a, ¬ counted.FaultedCopy 4 c d a := by
  refine ⟨rfl, rfl, ⟨_, _, _, [], List.mem_singleton.2 rfl, List.mem_singleton.2 rfl, rfl, rfl, rfl, _, List.mem_singleton.2 rfl, rfl, by decide, by decide⟩, by decide, ?_⟩
  rintro ⟨g, sd, n⟩ d a ⟨x, y, cp, rest, hg, hx, _⟩
  have hg : (g, x) = (0, plainGroup) := by simpa [counted, machine] using hg
  obtain ⟨-, rfl⟩ := Prod.mk.inj hg
  cases sd <;> simp [plainGroup, Group.none_] at hx

/-- R253: dwait faults with the copy's detail and address. -/
theorem test_dwait_fault : ((after (.dwait H 4 0) halted).w.stops.map fun p => (p.lane, p.cause, p.detail, p.ea, p.aux)).head? = some (0, 4, 8, 0x11000, 3) := by
  decide +kernel
/-- The lanes of the strand are 0 to 3. -/
theorem lanes_of_strand {P : Nat → Prop} (h0 : P 0) (h1 : P 1) (h2 : P 2) (h3 : P 3) : ∀ l, l < 32 → (0xF#32).getLsbD l = true → P l := by
  intro l hl ha
  have : l < 4 := by
    by_contra hge
    have : (0xF#32).getLsbD l = false := by
      have := (by decide : ∀ l, l < 32 → ¬ l < 4 → (0xF#32).getLsbD l = false) l hl hge
      exact this
    simp_all
  interval_cases l <;> assumption

theorem witness_Loads : ∃ r, loadRow (.ld H 7 4 3 .b4) = some r ∧ (Instr.ld H 7 4 3 .b4).counter = some 0 ∧ bench.Here ∧ bench.w.kind = .normal ∧ bench.inDomain = false ∧ bench.w.active ≠ 0 ∧
    (r.n = 8 → r.d ≠ 63) ∧ (∀ x ∈ r.regs, bench.w.isWindow x = false) ∧ bench.w.readRegs r.offs [] = .ok (readsOf bench.w [3], []) ∧ r.spad = false ∧
    (∀ l, l < 32 → bench.w.active.getLsbD l = true → bench.Reaches .load r.n l (r.ea bench.w ((readsOf bench.w [3]).at_ 0) l) (0x80000 + 4 * l)) ∧ bench.TilesClear [0x80000] ∧ bench.NoneEarlier false r.n [(0x10000, 0x80000), (0x10004, 0x80004), (0x10008, 0x80008), (0x1000C, 0x8000C)] :=
  ⟨_, rfl, rfl, rfl, rfl, rfl, by decide, by decide, by decide, rfl, rfl, lanes_of_strand ⟨rfl, _, rfl, rfl⟩ ⟨rfl, _, rfl, rfl⟩ ⟨rfl, _, rfl, rfl⟩ ⟨rfl, _, rfl, rfl⟩, by unfold State.TilesClear; decide, noneEarlier rfl⟩

/-- With k4 at page 17, which is not resident, and k5 at page 18, which allows no writes; an offset of 0x100 in k2. -/
def faults : State := machine { strand with k := [(2, 0x100), (4, 0x11000), (5, 0x12000)] } plainGroup plainGrid

theorem witness_Loads_probe : ∃ r, loadRow (.ldl H 7 4 3 .b4 0 1 5 0 .sz false) = some r ∧ (Instr.ldl H 7 4 3 .b4 0 1 5 0 .sz false).counter = some 1 ∧ faults.Here ∧ r.probe ≠ none ∧
    ∀ l, l < 32 → faults.w.active.getLsbD l = true → (r.ea faults.w ((readsOf faults.w [3]).at_ 0) l) % r.n = 0 ∧
      faults.checkVa faults.w.core l faults.ctxNo (r.ea faults.w ((readsOf faults.w [3]).at_ 0) l) .load (fun a => faults.meetsLost a r.n) = .error 0x07 :=
  ⟨_, rfl, rfl, rfl, by decide, lanes_of_strand ⟨rfl, rfl⟩ ⟨rfl, rfl⟩ ⟨rfl, rfl⟩ ⟨rfl, rfl⟩⟩

theorem witness_Loads_scratchpad : ∃ r, loadRow (.lds H 7 2 3 .b8) = some r ∧ r.spad = true ∧ (Instr.lds H 7 2 3 .b8).counter = some 0 ∧ faults.Here ∧ (r.n = 8 → r.d ≠ 63) ∧
    ∀ l, l < 32 → faults.w.active.getLsbD l = true → faults.ReachesSp r.n (r.ea faults.w ((readsOf faults.w [3]).at_ 0) l) :=
  ⟨_, rfl, rfl, rfl, rfl, by decide, lanes_of_strand ⟨rfl, by decide⟩ ⟨rfl, by decide⟩ ⟨rfl, by decide⟩ ⟨rfl, by decide⟩⟩

theorem witness_Stores : ∃ r, storeRow (.st H 1 4 3 .b4) = some r ∧ bench.Here ∧ bench.w.kind = .normal ∧ bench.inDomain = false ∧ bench.w.active ≠ 0 ∧ (r.n = 8 → r.d ≠ 63) ∧
    bench.w.readRegs (r.offs ++ r.regs) [] = .ok (readsOf bench.w [3, 1], []) ∧ r.spad = false ∧
    (∀ l, l < 32 → bench.w.active.getLsbD l = true → bench.Reaches .store r.n l (r.ea bench.w ((readsOf bench.w [3, 1]).at_ 0) l) (0x80000 + 4 * l)) ∧ bench.TilesClear [0x80000] ∧ bench.NoneEarlier false r.n [(0x10000, 0x80000), (0x10004, 0x80004), (0x10008, 0x80008), (0x1000C, 0x8000C)] :=
  ⟨_, rfl, rfl, rfl, rfl, by decide, by decide, rfl, rfl, lanes_of_strand ⟨rfl, _, rfl, rfl⟩ ⟨rfl, _, rfl, rfl⟩ ⟨rfl, _, rfl, rfl⟩ ⟨rfl, _, rfl, rfl⟩, by unfold State.TilesClear; decide, noneEarlier rfl⟩

theorem witness_Stores_scratchpad : ∃ r, storeRow (.sts H 1 2 3 .b4) = some r ∧ r.spad = true ∧ faults.Here ∧ faults.w.readRegs (r.offs ++ r.regs) [] = .ok (readsOf faults.w [3, 1], []) ∧
    ∀ l, l < 32 → faults.w.active.getLsbD l = true → faults.ReachesSp r.n (r.ea faults.w ((readsOf faults.w [3, 1]).at_ 0) l) :=
  ⟨_, rfl, rfl, rfl, rfl, lanes_of_strand ⟨rfl, by decide⟩ ⟨rfl, by decide⟩ ⟨rfl, by decide⟩ ⟨rfl, by decide⟩⟩

/-- R182: lanes 0 to 3 store their bytes least significant first; a byte outside stays. -/
theorem test_st : ((after (.st H 1 4 3 .b4)).mem.read 0x80004, (after (.st H 1 4 3 .b4)).mem.read 0x80005, (after (.st H 1 4 3 .b4)).mem.read 0x8000C) = (2, 0, 4) := by
  decide +kernel

theorem witness_UniformAccesses : bench.Here ∧ bench.w.kind = .normal ∧ bench.inDomain = false ∧ bench.w.active ≠ 0 ∧
    bench.Reaches .load 8 (lowLane bench.w.active) (((bench.w.rdK 4).toNat + (16 : BitVec 16).toInt) % 2 ^ 64).toNat 0x80010 ∧
    bench.Reaches .store 8 (lowLane bench.w.active) (((bench.w.rdK 4).toNat + (16 : BitVec 16).toInt) % 2 ^ 64).toNat 0x80010 ∧ bench.TilesClear [0x80010] ∧ bench.NoneEarlier false 8 [(0x10010, 0x80010)] :=
  ⟨rfl, rfl, rfl, by decide, ⟨rfl, _, rfl, rfl⟩, ⟨rfl, _, rfl, rfl⟩, by unfold State.TilesClear; decide, noneEarlier rfl⟩

theorem witness_MemoryFaults : ∃ r, storeRow (.st H 1 5 3 .b4) = some r ∧ faults.w.readRegs (r.offs ++ r.regs) [] = .ok (readsOf faults.w [3, 1], []) ∧ r.spad = false ∧ faults.Here ∧ faults.w.kind = .normal ∧
    faults.inDomain = false ∧ faults.tiles = [] ∧ faults.adds = [] ∧ faults.lost = [] ∧ (r.n = 8 → r.d ≠ 63) ∧ (0 : Nat) < 32 ∧ faults.w.active.getLsbD 0 = true ∧
    r.ea faults.w ((readsOf faults.w [3, 1]).at_ 0) 0 % r.n = 0 ∧ faults.checkVa faults.w.core 0 faults.ctxNo (r.ea faults.w ((readsOf faults.w [3, 1]).at_ 0) 0) .store (fun _ => false) = .error 0x08 :=
  ⟨_, rfl, rfl, rfl, rfl, rfl, rfl, rfl, rfl, rfl, by decide, by decide, rfl, rfl, rfl⟩

theorem witness_MemoryFaults_load : ∃ r, loadRow (.ld H 7 4 3 .b4) = some r ∧ r.probe = none ∧ (∀ x ∈ r.regs, faults.w.isWindow x = false) ∧ faults.w.readRegs r.offs [] = .ok (readsOf faults.w [3], []) ∧
    faults.checkVa faults.w.core 0 faults.ctxNo (r.ea faults.w ((readsOf faults.w [3]).at_ 0) 0) .load (fun _ => false) = .error 0x07 :=
  ⟨_, rfl, rfl, by decide, rfl, rfl⟩

/-- R187: a store to a page without W stops its lanes with cause 0x04 and detail 0x08. -/
theorem test_store_fault : ((after (.st H 1 5 3 .b4) faults).w.stops.map fun p => (p.lane, p.cause, p.detail, p.ea)) = [(0, 4, 8, 0x12000), (1, 4, 8, 0x12004), (2, 4, 8, 0x12008), (3, 4, 8, 0x1200C)] := by
  decide +kernel

theorem witness_Prefetches_pref : bench.Here ∧ ∃ vals, bench.w.readRegs (if scaleTimes .sz (ESize.b4).bytes = 0 then [] else [(3 : Vr).toNat]) [] = .ok (vals, []) := ⟨rfl, _, rfl⟩

theorem witness_Prefetches_preq : faults.Here ∧ (faults.w.rdK 2).toNat ≠ 0 ∧ 0x11000 + (faults.w.rdK 2).toNat ≤ 2 ^ 57 ∧ (faults.coreAt faults.w.core).preqs.length < 16 ∧ (faults.w.rdK 9).toNat = 0 ∧
    ∃ va x, (va, .ok x) ∈ faults.pagesOf faults.ctxNo 0x11000 0x100 ∧ pteP x.pte = false ∧ faults.pageLost x = false :=
  ⟨rfl, by decide, by decide, by decide, rfl, 0x11000, ⟨0x11000, 0x1000, 0x81C15⟩, by decide +kernel, by decide, by decide⟩

/-- A preq of resident pages that signals semaphore 1, and a request for the page that is not resident. -/
def asking : State :=
  { bench with cores := [(0, { Core.reset with slots := [0], preqs := [⟨0, 0, 5, 0, [0x10000], some 1⟩] })], resReqs := [(0, 0x11000)] }

theorem witness_Prefetches_events : (∃ q, (asking.coreAt 0).preqs[0]? = some q ∧ asking.preqReady q = true ∧ (SMap.find asking.warps q.warp).isSome = true) ∧
    (0, 0x11008 / 4096 * 4096) ∈ asking.resReqs ∧ (asking.ctxAt 0).troot % 4096 = 0 ∧ asking.walk 0 0x11008 = .ok ⟨0x11000, 0x1000, 0x81C15⟩ ∧ pteP 0x81C15 = false :=
  ⟨⟨_, rfl, by decide +kernel, rfl⟩, by decide, by decide, by decide +kernel, by decide⟩


theorem witness_MemoryFaults_forms : (∃ a, faults.HasForm (.sts H 1 4 3 .b4) a ∧ a.spad = true ∧ faults.grid.ds.spl < 0x40000 + a.n) ∧
    (∃ a, faults.HasForm (.atom H 5 5 3 .w4 1 .add .rlx .device 1 0) a ∧ a.spad = false ∧ a.ea 0 % a.n = 0 ∧ faults.checkVa faults.w.core 0 faults.ctxNo (a.ea 0) a.acc (fun _ => false) = .error 0x08) ∧
    (∃ a, faults.HasForm (.atoms H 5 2 3 .w8 8 .cas .rlx .group 2 0) a ∧ a.spad = true) ∧ ∃ a, faults.HasForm (.lds H 7 2 3 .b4) a ∧ a.spad = true :=
  ⟨⟨_, .inr (.inl ⟨_, _, _, rfl, by decide, rfl, rfl⟩), rfl, by decide⟩,
    ⟨_, .inr (.inr ⟨_, _, _, rfl, by decide, by decide, rfl, rfl⟩), rfl, rfl, rfl⟩,
    ⟨_, .inr (.inr ⟨_, _, _, rfl, by decide, by decide, rfl, rfl⟩), rfl⟩, _, .inl ⟨_, _, _, rfl, rfl, by decide, by decide, rfl, rfl⟩, rfl⟩

theorem witness_MemoryFaults_uniform : faults.Here ∧ faults.w.kind = .normal ∧ faults.inDomain = false ∧ faults.tiles = [] ∧ faults.adds = [] ∧ faults.lost = [] ∧ faults.w.active ≠ 0 ∧ faults.w.gotLock = false ∧
    (∃ n ea k, faults.w.uniformForm (.stk H 2 5 .b8 0 0) = some (n, ea, k) ∧ ea % n = 0 ∧ faults.checkVa faults.w.core (lowLane faults.w.active) faults.ctxNo ea k (fun _ => false) = .error 0x08) ∧
    (∃ n ea k, faults.w.uniformForm (.lock H 4 2 0 1 .device) = some (n, ea, k) ∧ ea % n = 0 ∧ faults.checkVa faults.w.core (lowLane faults.w.active) faults.ctxNo ea k (fun _ => false) = .error 0x07) ∧
    ∃ n ea k, faults.w.uniformForm (.ldk H 8 4 false .b4 2 0) = some (n, ea, k) ∧ ea % n ≠ 0 :=
  ⟨rfl, rfl, rfl, rfl, rfl, rfl, by decide, rfl, ⟨_, _, _, rfl, by decide, by decide⟩, ⟨_, _, _, rfl, by decide, by decide⟩, _, _, _, rfl, by decide⟩

/-- R189, R192: a scratchpad store beyond the group's scratchpad, and a uniform load of an odd address. -/
theorem test_other_faults : ((after (.sts H 1 6 3 .b4) (machine { strand with k := [(6, 0x3FFF8)] } plainGroup plainGrid)).w.stops.map fun p => (p.lane, p.cause, p.detail, p.ea)) = [(2, 4, 2, 0x40000), (3, 4, 2, 0x40004)] ∧
    ((after (.ldk H 8 4 false .b4 2 0)).w.stops.map fun p => (p.cause, p.detail, p.ea)).head? = some (4, 1, 0x10002) := by
  decide +kernel
theorem witness_Atomics : ∃ r, atomRow (.atom H 5 4 3 .w4 1 .add .rlx .device 1 0) = some r ∧ bench.Here ∧ bench.w.kind = .normal ∧ bench.inDomain = false ∧ bench.w.active ≠ 0 ∧
    (∀ x ∈ r.dst, x < 64 ∧ bench.w.isWindow x = false) ∧ r.vs.toNat + r.count ≤ 64 ∧ bench.w.readRegs (r.voff.toNat :: (List.range r.count).map (r.vs.toNat + ·)) [] = .ok (readsOf bench.w [3, 1], []) ∧
    (∀ l, l < 32 → bench.w.active.getLsbD l = true →
      bench.Reaches (.atomic r.scope) r.n l (((bench.w.rdK r.kbase.toNat).toNat + ((readsOf bench.w [3, 1]).at_ 0 l).toNat * r.n + r.imm) % 2 ^ 64).toNat (0x80000 + 4 * l)) ∧
    r.spad = false ∧ bench.TilesClear [0x80000] ∧ bench.NoneEarlier false r.n [(0x10000, 0x80000), (0x10004, 0x80004), (0x10008, 0x80008), (0x1000C, 0x8000C)] ∧ (Instr.atom H 5 4 3 .w4 1 .add .rlx .device 1 0).counter = some 1 :=
  ⟨_, rfl, rfl, rfl, rfl, by decide, by decide, by decide, rfl, lanes_of_strand ⟨rfl, _, rfl, rfl⟩ ⟨rfl, _, rfl, rfl⟩ ⟨rfl, _, rfl, rfl⟩ ⟨rfl, _, rfl, rfl⟩, rfl, by unfold State.TilesClear; decide, noneEarlier rfl, rfl⟩

theorem witness_Atomics_scratchpad : ∃ r, atomRow (.atoms H 5 2 3 .w8 8 .cas .rlx .group 2 0) = some r ∧ r.spad = true ∧ faults.Here ∧ r.vs.toNat + r.count ≤ 64 ∧ (∀ x ∈ r.dst, x < 64 ∧ faults.w.isWindow x = false) ∧
    ∀ l, l < 32 → faults.w.active.getLsbD l = true → faults.ReachesSp r.n (((faults.w.rdK r.kbase.toNat).toNat + ((readsOf faults.w [3]).at_ 0 l).toNat * r.n + r.imm) % 2 ^ 64).toNat :=
  ⟨_, rfl, rfl, rfl, by decide, by decide, lanes_of_strand ⟨rfl, by decide⟩ ⟨rfl, by decide⟩ ⟨rfl, by decide⟩ ⟨rfl, by decide⟩⟩

/-- Table 11.2: an add of 1 to 4 by lanes on words that hold 0, and what the lanes read on one word. -/
theorem test_atom_add : (after (.atom H 5 4 3 .w4 1 .add .rlx .device 1 0)).mem.read 0x80008 = 3 ∧ (after (.atom H 5 4 9 .w4 1 .add .rlx .device 1 0)).mem.read 0x80000 = 10 ∧
    (((after (.atom H 5 4 9 .w4 1 .add .rlx .device 1 0)).w.inflight.map (·.writes)) = [[⟨.v 5, [(0, 0), (1, 1), (2, 3), (3, 6)]⟩]]) := by
  decide +kernel

/-- A failing cas writes nothing; one that succeeds writes its swap value. -/
theorem test_newValue : newValue .cas 4 5 6 9 = none ∧ newValue .cas 4 5 5 9 = some 9 ∧ newValue .minS 4 1 0xFFFFFFFF 0 = some 0xFFFFFFFF ∧ newValue .minN 4 1 0xFFFFFFFF 0 = some 1 := by
  decide +kernel

/-- With the clock 5 below 2^64 and 9 in k2. -/
def late : State := machine { strand with lclk := 2 ^ 64 - 5, grpLclk := 2 ^ 64 - 5, k := [(2, 9)] } plainGroup plainGrid

theorem witness_ClocksAndFences : (∃ n, clkjRow (.clkjAddk H 2) = some n ∧ late.Here ∧ late.w.jump = false ∧ late.w.kind = .normal ∧ 2 ^ 64 ≤ n late.w late.g) ∧
    (∃ n, clkjRow (.clkjAdd H 4) = some n ∧ n late.w late.g < 2 ^ 64) ∧ ∃ n, clkjRow (.clkjNb H) = some n ∧ bench.Here ∧ bench.w.jump = false ∧ n bench.w bench.g < 2 ^ 64 :=
  ⟨⟨_, rfl, rfl, rfl, rfl, by decide⟩, ⟨_, rfl, by decide⟩, _, rfl, rfl, rfl, by decide⟩

/-- The bench with a lock word at 0x80000 that holds `n`. -/
def locked (n : Byte) : State := { bench with mem := tables ++ [(0x80000, n)] }

theorem witness_Locks : (∃ r, lockRow (.lock H 4 6 0 1 .device) = some r ∧ bench.Here ∧ bench.w.kind = .normal ∧ bench.inDomain = false ∧ bench.w.active ≠ 0 ∧ bench.LockAt r 0x80000 ∧ bench.TilesClear [0x80000] ∧ bench.NoneEarlier false 8 [(0x10000, 0x80000)] ∧
      (bench.w.rdK r.kval.toNat).toNat ≠ 0 ∧ bench.number 0x80000 8 = 0 ∧ ∃ h, Instr.lock H 4 6 0 1 .device = .lock h r.kbase r.kval r.imm r.dc r.scope) ∧
    (∃ r, lockRow (.lock H 4 9 0 1 .device) = some r ∧ bench.LockAt r 0x80000 ∧ (bench.w.rdK r.kval.toNat).toNat = 0) ∧
    (∃ r, lockRow (.lockTry H 3 4 6 0 1 .device) = some r ∧ (locked 9).Here ∧ (locked 9).LockAt r 0x80000 ∧ (locked 9).TilesClear [0x80000] ∧ ((locked 9).w.rdK r.kval.toNat).toNat ≠ 0 ∧ (locked 9).number 0x80000 8 = 9 ∧
      ∃ h, Instr.lockTry H 3 4 6 0 1 .device = .lockTry h r.p r.kbase r.kval r.imm r.dc r.scope) ∧
    (∃ r, lockRow (.unlock H 3 4 6 0 1 .device) = some r ∧ (locked 7).Here ∧ (locked 7).LockAt r 0x80000 ∧ ((locked 7).w.rdK r.kval.toNat).toNat = 7 ∧ (locked 7).number 0x80000 8 = 7 ∧
      ∃ h, Instr.unlock H 3 4 6 0 1 .device = .unlock h r.p r.kbase r.kval r.imm r.dc r.scope) :=
  ⟨⟨_, rfl, rfl, rfl, rfl, by decide, ⟨rfl, _, rfl, rfl⟩, by unfold State.TilesClear; decide, noneEarlier rfl, by decide, by decide +kernel, _, rfl⟩,
    ⟨_, rfl, ⟨rfl, _, rfl, rfl⟩, by decide⟩,
    ⟨_, rfl, rfl, ⟨rfl, _, rfl, rfl⟩, by unfold State.TilesClear; decide, by decide, by decide +kernel, _, rfl⟩,
    ⟨_, rfl, rfl, ⟨rfl, _, rfl, rfl⟩, by decide, by decide +kernel, _, rfl⟩⟩

/-- R308, R309: lock takes a free word; it waits at another's; at its own it stops with illegal operand 0x0E. -/
theorem test_lock : (after (.lock H 4 6 0 1 .device)).mem.read 0x80000 = 7 ∧ (after (.lock H 4 6 0 1 .device) (locked 9)).w.waiting = true ∧
    ((after (.lock H 4 6 0 1 .device) (locked 7)).w.stops.map fun p => (p.cause, p.detail)) = [(3, 0x0E), (3, 0x0E), (3, 0x0E), (3, 0x0E)] := by
  decide +kernel

/-- Two sectors dirty in the L1 of core 0; 64 in k6. -/
def dirty : State :=
  { machine { strand with k := [(4, 0x10000), (6, 64)] } plainGroup { plainGrid with ds := { kernel with shape := kernel.shape + 2 ^ 9 } } with
    cache := { Caches.reset with home := [(0x80000, 5)], quires := [(0, [⟨256, 0, 0, .m, [0], 0, 0, 0, 0, none⟩, ⟨256, 1, 1, .m, [1], 0, 1, 1, 0, none⟩])] } }

/-- The quires of any agent, where one agent alone has some. -/
theorem at_two (h : Nat) (c : Caches) {l : List Quire} (hc : c.quires = [(h, l)]) : ∀ a, ∀ q ∈ c.at_ a, q ∈ l := by
  intro a q hq
  unfold Caches.at_ at hq
  rw [hc] at hq
  by_cases e : a = h <;> simp_all [SMap.get]

theorem witness_Maintenance : maintRow (.cinv H 6 4 .device 0 0 false) = some (.inv, 6, 4, .device, 0, 0) ∧ dirty.Here ∧ dirty.inDomain = false ∧ SMap.rising dirty.cache.quires = true ∧ dirty.cache.Single 0x80000 64 ∧ dirty.cache.DirsFit ∧ (dirty.w.rdK 6).toNat = 64 ∧
    (dirty.w.rdK 9).toNat = 0 ∧ dirty.w.place 4 0 + 64 ≤ 2 ^ 57 ∧ dirty.pagesOf dirty.ctxNo (dirty.w.place 4 0) 64 = [(0x10000, .ok ⟨0x10000, 0x1000, 0x80C1F⟩)] ∧ pteP 0x80C1F = true ∧ pteW 0x80C1F = true ∧
    scopeDevice .device = true ∧ dirty.SectorOwed (0x80000 / 32) ∧ dirty.grid.ds.maint = true ∧ dirty.w.place 4 0 % 32 = 0 ∧ (0x1000 : Nat) % 32 = 0 ∧ bench.grid.ds.maint = false ∧ bench.w.kind = .normal := by
  refine ⟨rfl, rfl, rfl, by decide, ?_, by unfold Caches.DirsFit; decide, by decide, rfl, by decide, by decide +kernel, by decide, by decide, rfl, ?_, rfl, by decide, by decide, rfl, rfl⟩
  · intro a q hq _
    have := at_two 0 dirty.cache rfl a q hq
    simp only [List.mem_cons, List.not_mem_nil, or_false] at this
    rcases this with rfl | rfl <;> rfl
  · unfold State.SectorOwed; decide +kernel

/-- A domain's grid whose warp stands at a lock word at 0x80000, with the domain's turn copies and release records. -/
def lockDomain (turn : List (Nat × Byte)) (rels : List RelRec) : State :=
  { machine { strand with lclk := 5, grpLclk := 5 } plainGroup { plainGrid with ds := { kernel with shape := kernel.shape + 128, log2g := 6, wave := 1 }, nextWave := 1 } with
    domains := [(0, { Domain.empty with owner := some 0, grids := [0], point := some (0, 0), turn := turn, rels := rels })] }

/-- A release of the word by another warp. -/
def release : RelRec := ⟨0x80000, ⟨0, 4, 1, 0, 1⟩, 0, 64⟩

theorem witness_Locks_domain : bench.w.gotLock = false ∧ (locked 9).w.gotLock = false ∧ ({ bench with warps := [(0, { strand with gotLock := true })] } : State).w.gotLock = true ∧
    ∃ r, lockRow (.lock H 4 6 0 1 .device) = some r ∧ (lockDomain [] []).Here ∧ (lockDomain [] []).w.kind = .normal ∧ (lockDomain [] []).inDomain = true ∧ (lockDomain [] []).w.active ≠ 0 ∧ (lockDomain [] []).LockAt r 0x80000 ∧
      (lockDomain [] []).w.gotLock = false ∧ ((lockDomain [] []).w.rdK r.kval.toNat).toNat = 7 ∧ ((lockDomain [] []).domAt 0).rels = [] ∧
      ofBytes ((List.range 8).map fun b => (lockDomain [] []).turnByte 0 (0x80000 + b)) = 0 ∧ ofBytes ((List.range 8).map fun b => (lockDomain [(0x80000, 7)] []).turnByte 0 (0x80000 + b)) = 7 ∧
      ofBytes ((List.range 8).map fun b => (lockDomain [(0x80000, 9)] []).turnByte 0 (0x80000 + b)) = 9 ∧ release.key.widx ≠ ((lockDomain [] [release]).keyAt 0 0).widx :=
  ⟨rfl, rfl, rfl, _, rfl, rfl, rfl, rfl, by decide, ⟨rfl, _, rfl, rfl⟩, rfl, rfl, rfl, by decide +kernel, by decide +kernel, by decide +kernel, by decide⟩

/-- R311: in a domain a lock takes a free turn copy; at another's word, or a word another has released before the point, it jumps to the boundary, and lock.try answers 0. -/
theorem test_lock_domain : (after (.lock H 4 6 0 1 .device) (lockDomain [] [])).turnByte 0 0x80000 = 7 ∧ (after (.lock H 4 6 0 1 .device) (lockDomain [] [])).mem.read 0x80000 = 0 ∧
    (after (.lock H 4 6 0 1 .device) (lockDomain [(0x80000, 9)] [])).w.owed = some 64 ∧ (after (.lock H 4 6 0 1 .device) (lockDomain [] [release])).w.lclk = 64 ∧
    ((after (.lock H 4 6 0 1 .device) (lockDomain [(0x80000, 7)] [])).w.stops.map fun p => (p.cause, p.detail)) = [(3, 0x0E), (3, 0x0E), (3, 0x0E), (3, 0x0E)] ∧
    ((after (.lockTry H 3 4 6 0 1 .device) (lockDomain [] [release])).w.inflight.map fun f => f.writes.map (·.vals)) = [[[(0, 0), (1, 0), (2, 0), (3, 0)]]] := by
  decide +kernel

/-- Core 0's L1 holds sectors 0 to 3 of frame 256 in one quire, dirty at sector 1. -/
def wide : Caches := { Caches.reset with quires := [(0, [⟨256, 0, 3, .m, [1], 0, 0, 0, 0, none⟩])] }

/-- All eight tags of a set taken by quires of one frame. -/
def crowded : Caches := { Caches.reset with quires := [(0, ⟨0, 0, 1, .m, [], 0, 0, 0, 0, none⟩ :: (List.range 7).map fun n => ⟨0, n + 2, n + 2, .m, [], 0, 0, 0, 0, none⟩)] }

theorem witness_Maintenance_split : wide.at_ 0 = [⟨256, 0, 3, .m, [1], 0, 0, 0, 0, none⟩] ∧ wide.Apart 0 ∧ wide.TagsFree 0 256 2 ∧ crowded.Apart 0 ∧ crowded.TagsTaken 0 0 1 10 ∧ QState.s ≠ QState.m := by
  unfold Caches.Apart Caches.TagsFree Caches.TagsTaken
  refine ⟨rfl, ?_, by decide, ?_, by decide, by decide⟩
  · intro x hx y hy _ _
    rw [List.mem_singleton.mp (show x ∈ [_] from hx), List.mem_singleton.mp (show y ∈ [_] from hy)]
  · intro x hx y hy _ h
    obtain ⟨n, h⟩ := h
    have hx' : x ∈ crowded.at_ 0 := hx
    simp only [Caches.at_, crowded, SMap.get, List.range, List.range.loop, List.map] at hx hy
    simp only [if_true, List.mem_cons, List.not_mem_nil, or_false] at hx hy
    rcases hx with rfl | rfl | rfl | rfl | rfl | rfl | rfl | rfl <;> rcases hy with rfl | rfl | rfl | rfl | rfl | rfl | rfl | rfl <;> first | rfl | (simp only at h; omega)

/-- R223: with tags free, the two covered sectors change and the others keep their state and DIRTY bits; with none to be had, the whole quire changes. -/
theorem test_split : let d := wide.recut tables 0 256 2 3 (fun _ => some (.s, false))
    (d.sectorSt 0 256 1, d.sectorDirty 0 256 1, d.sectorSt 0 256 2, d.sectorSt 0 256 3) = (.m, true, .s, .s) ∧
    let e := crowded.recutOne tables (Caches.writeBack tables 0) 0 1 10 (some (.s, false)) ⟨0, 0, 1, .m, [], 0, 0, 0, 0, none⟩
    (e.sectorSt 0 0 0, e.sectorSt 0 0 1) = (.i, .s) := by
  decide +kernel
/-- A second warp of the group, parked at phase 0 of barrier 3 with arrival clock 9, and a bart that watches that phase. -/
def parked : Warp :=
  { Warp.idle with
    widx := 1, lclk := 9, barA := [(3, 1)], barLast := (List.range 32).map fun l => (96 + l, 1), park := some ⟨.bar 3 0, 9, false⟩
    seqNo := 1, inflight := [⟨0, 1, false, [], 0, []⟩], barts := [⟨0, 1, 3, 0, 4, 1, 100, 0⟩] }

/-- Two warps; the first runs 4 lanes, or all that have not exited. Barrier 3 of their group has the given phases open. -/
def duo (exited : Word) (opened : SMap Phase) (shape : Nat) : State :=
  { machine { strand with exited := exited } { plainGroup with bars := [(3, ⟨0, opened⟩)] } { plainGrid with ds := { kernel with shape := kernel.shape + shape, log2g := 6, wave := 1 } } with
    warps := [(0, { strand with exited := exited }), (1, parked)] }

/-- Only phase 0 is open. -/
theorem one_phase (p : Phase) : ∀ q, q ≠ 0 → SMap.find [(0, p)] q = none := by
  intro q hq; simp [SMap.find, hq]

theorem witness_BarrierArrivals_part : (duo 0 [(0, ⟨0, 2, 0⟩)] 0).MayArrive 3 2 0 ∧ (duo 0 [(0, ⟨0, 2, 0⟩)] 0).inDomain = false ∧ ¬ (duo 0 [(0, ⟨0, 2, 0⟩)] 0).FillsMask 3 := by
  refine ⟨⟨by decide, rfl, rfl, rfl, by decide, rfl, .inl (by decide), by decide, rfl, one_phase _, by decide, by decide, by decide +kernel⟩, rfl, by unfold State.FillsMask; decide⟩

theorem witness_BarrierArrivals_early : (duo 0xFFFFFFF0 [(0, ⟨0, 2, 0⟩)] 0).MayArrive 3 2 0 ∧ (duo 0xFFFFFFF0 [(0, ⟨0, 2, 0⟩)] 0).FillsMask 3 ∧
    (((duo 0xFFFFFFF0 [(0, ⟨0, 2, 0⟩)] 0).barrier 0 3).phase 0 2).arrivals + 1 < 2 := by
  refine ⟨⟨by decide, rfl, rfl, rfl, by decide, rfl, .inl (by decide), by decide, rfl, one_phase _, by decide, by decide, by decide +kernel⟩, by unfold State.FillsMask; decide, by decide⟩

theorem witness_BarrierArrivals_last : (duo 0xFFFFFFF0 [(0, ⟨1, 2, 9⟩)] 0).MayArrive 3 2 0 ∧ (duo 0xFFFFFFF0 [(0, ⟨1, 2, 9⟩)] 0).FillsMask 3 ∧
    (((duo 0xFFFFFFF0 [(0, ⟨1, 2, 9⟩)] 0).barrier 0 3).phase 0 2).arrivals + 1 = 2 ∧ (duo 0xFFFFFFF0 [(0, ⟨1, 2, 9⟩)] 0).InGroup 0 1 ∧
    ((duo 0xFFFFFFF0 [(0, ⟨1, 2, 9⟩)] 0).warpAt 1).park = some ⟨.bar 3 0, 9, false⟩ ∧
    ∃ x ∈ ((duo 0xFFFFFFF0 [(0, ⟨1, 2, 9⟩)] 0).warpAt 1).barts, x.id = 3 ∧ x.phase = 0 ∧ ∃ f ∈ ((duo 0xFFFFFFF0 [(0, ⟨1, 2, 9⟩)] 0).warpAt 1).inflight, f.seq = x.seq := by
  refine ⟨⟨by decide, rfl, rfl, rfl, by decide, rfl, .inl (by decide), by decide, rfl, one_phase _, by decide, by decide, by decide +kernel⟩, by unfold State.FillsMask; decide, by decide, ⟨_, rfl, rfl, rfl⟩, rfl, by decide⟩

/-- With 65 in k2 and 3 in k5, and barrier 3 open with count 2. -/
def counts : State := machine { strand with k := [(2, 65), (5, 3)] } { plainGroup with bars := [(3, ⟨0, [(0, ⟨1, 2, 0⟩)]⟩)] } plainGrid

theorem witness_BarrierArrivals_counts : counts.Here ∧ counts.w.kind = .normal ∧ 64 < (counts.w.rdK 2).toNat % 2 ^ 32 ∧ counts.w.active ≠ 0 ∧ 0 < (counts.w.rdK 5).toNat % 2 ^ 32 ∧ (counts.w.rdK 5).toNat % 2 ^ 32 ≤ 64 ∧
    SMap.get 0 counts.w.barMask 3 &&& counts.w.active = 0 ∧ SMap.get 0 counts.w.barA 3 < (counts.barrier 0 3).done + 4 ∧ SMap.find (counts.barrier 0 3).opened (SMap.get 0 counts.w.barA 3) = some ⟨1, 2, 0⟩ := by
  refine ⟨rfl, rfl, ?_⟩; decide

theorem witness_BarrierClocks : (duo 0xFFFFFFF0 [(0, ⟨1, 2, 9⟩)] 128).MayArrive 3 2 0 ∧ (duo 0xFFFFFFF0 [(0, ⟨1, 2, 9⟩)] 128).inDomain = true ∧ (duo 0xFFFFFFF0 [(0, ⟨1, 2, 9⟩)] 128).FillsMask 3 ∧
    (((duo 0xFFFFFFF0 [(0, ⟨1, 2, 9⟩)] 128).barrier 0 3).phase 0 2).arrivals + 1 = 2 ∧ (duo 0xFFFFFFF0 [(0, ⟨1, 2, 9⟩)] 128).InGroup 0 1 ∧
    ((duo 0xFFFFFFF0 [(0, ⟨1, 2, 9⟩)] 128).warpAt 1).park = some ⟨.bar 3 0, 9, false⟩ ∧ ((duo 0xFFFFFFF0 [(0, ⟨1, 2, 9⟩)] 128).warpAt 1).lclk = 9 := by
  refine ⟨⟨by decide, rfl, rfl, rfl, by decide, rfl, .inl (by decide), by decide, rfl, one_phase _, by decide, by decide, by decide +kernel⟩, rfl, by unfold State.FillsMask; decide, by decide, ⟨_, rfl, rfl, rfl⟩, rfl, rfl⟩

/-- R272, R273: the second of two arrivals completes the phase and sets the parked warp free, with the bart told. -/
theorem test_barArrive : let t := after (.barArrive H 3 0 .group) (duo 0xFFFFFFF0 [(0, ⟨1, 2, 9⟩)] 0)
    (t.barrier 0 3).done = 1 ∧ (t.warpAt 1).park = none ∧ (t.warpAt 1).lclk = 10 ∧ (t.warpAt 1).inflight.map (·.done) = [true] := by
  decide +kernel

/-- R306: in a domain the parked warp leaves one above the largest arrival clock. -/
theorem test_barArrive_domain : ((after (.barArrive H 3 0 .group) (duo 0xFFFFFFF0 [(0, ⟨1, 2, 70⟩)] 128)).warpAt 1).lclk = 71 ∧
    ((after (.barArrive H 3 0 .group) (duo 0xFFFFFFF0 [(0, ⟨1, 2, 70⟩)] 128)).warpAt 1).owed = some 64 := by
  decide +kernel

/-- A strand whose lane 2 has arrived at phase 0 of barrier 3, which is not complete, with a timeout of 500 in k2; a bart whose time is over. -/
def waits : State :=
  { machine { strand with barLast := [(98, 1)], k := [(2, 500)], seqNo := 2, inflight := [⟨1, 1, false, [], 0, []⟩], barts := [⟨1, 1, 3, 0, 4, 1, 500, 0⟩] } plainGroup plainGrid with clk := 900 }

theorem witness_BarrierWaits : bench.Here ∧ bench.w.jump = false ∧ bench.w.waitPhase 3 ≤ (bench.barrier 0 3).done ∧ bench.w.kind ≠ .handler ∧
    waits.Here ∧ waits.w.jump = false ∧ (waits.barrier waits.w.grp 3).done < waits.w.waitPhase 3 ∧ waits.inDomain = false ∧ (waits.w.rdK 9).toNat = 0 ∧ (waits.w.rdK 2).toNat ≠ 0 ∧ (∀ f ∈ waits.w.inflight, f.seq ≠ waits.w.seqNo) ∧
    ∃ x, (waits.warpAt 0).barts.find? (fun t => t.seq == 1) = some x ∧ (SMap.find waits.warps 0).isSome = true ∧ waits.groupColl (waits.warpAt 0).grp = false ∧ x.limit ≤ nsOf (waits.clk - x.since) ∧
      ∃ f ∈ (waits.warpAt 0).inflight, f.seq = 1 := by
  refine ⟨rfl, rfl, by decide, by decide, rfl, rfl, by decide, rfl, by decide, by decide, by decide, _, rfl, rfl, rfl, by decide, by decide⟩

/-- R274: a bart with a timeout of 0 gives 1 at once. -/
theorem test_bart : ((after (.bart H 3 9 .group 4 1) waits).w.inflight.map fun f => (f.seq, f.done)) = [(1, false), (2, true)] ∧ (after (.bart H 3 2 .group 4 1) waits).w.barts.length = 2 := by
  decide +kernel

/-- A persistent grid whose warp runs all its threads that have not exited, or four of them. -/
def resident (exited : Word) (shrunk : Bool) : State :=
  machine { strand with exited := exited } { plainGroup with warpsLeft := 1 } { plainGrid with ds := { kernel with shape := kernel.shape + 256 }, residFault := shrunk }

theorem witness_GridBarrier : bench.Here ∧ bench.w.kind = .normal ∧ bench.w.active ≠ 0 ∧ bench.w.park = none ∧ bench.w.gone = false ∧ bench.w.ended = false ∧ bench.grid.ds.persist = false ∧
    (resident 0 true).grid.ds.persist = true ∧ (resident 0 true).grid.residFault = true ∧ (resident 0 false).grid.residFault = false ∧
    (resident 0 false).w.gbarArr ||| (resident 0 false).w.active ||| (resident 0 false).w.exited ≠ 0xFFFFFFFF ∧
    (resident 0xFFFFFFF0 false).w.gbarArr ||| (resident 0xFFFFFFF0 false).w.active ||| (resident 0xFFFFFFF0 false).w.exited = 0xFFFFFFFF ∧
    (∀ e ∈ (resident 0xFFFFFFF0 false).warps, e.1 = (resident 0xFFFFFFF0 false).cur) ∧ ∀ r ∈ (resident 0xFFFFFFF0 false).grid.ranges, r.2 = [] := by
  refine ⟨rfl, rfl, ?_⟩; decide +kernel

/-- R275: the last warp of the grid completes its phase. -/
theorem test_gbar : (after (.gbar H) (resident 0xFFFFFFF0 false)).grid.gphase = 1 ∧ (after (.gbar H) (resident 0 false)).grid.gphase = 0 ∧ (after (.gbar H) (resident 0 false)).w.gbarWait = 0xF := by
  decide +kernel


/-- A collated, persistent grid of two warps: the first runs all its threads that have not exited, or four of them; the second stands parked at gbar with clock 9. -/
def gathered (exited : Word) (last : SMap Nat) : State :=
  { machine { strand with exited := exited, barLast := last } plainGroup { plainGrid with ds := { kernel with shape := kernel.shape + 128 + 256, log2g := 6, wave := 1 }, gclk := 9 } with
    warps := [(0, { strand with exited := exited, barLast := last, lclk := 5 }), (1, { Warp.idle with widx := 1, lclk := 9, gbarArr := 0xFFFFFFFF, park := some ⟨.grid, 9, false⟩ })] }

theorem witness_BarrierClocks_bart : (gathered 0 []).Here ∧ (gathered 0 []).w.kind = .normal ∧ (gathered 0 []).inDomain = true ∧ (gathered 0 []).w.jump = false ∧
    (gathered 0 []).w.waitPhase 3 ≤ ((gathered 0 []).barrier (gathered 0 []).w.grp 3).done ∧ ((gathered 0 [(98, 1)]).barrier (gathered 0 [(98, 1)]).w.grp 3).done < (gathered 0 [(98, 1)]).w.waitPhase 3 := by
  refine ⟨rfl, rfl, rfl, rfl, ?_⟩; decide

theorem witness_BarrierClocks_gbar : let s := gathered 0xFFFFFFF0 []
    s.Here ∧ s.w.kind = .normal ∧ s.inDomain = true ∧ s.grid.ds.persist = true ∧ s.grid.residFault = false ∧ s.w.park = none ∧ s.w.gone = false ∧ SMap.rising s.warps = true ∧
      s.w.gbarArr ||| s.w.active ||| s.w.exited = 0xFFFFFFFF ∧ (∀ r ∈ s.grid.ranges, r.2 = []) ∧ (∀ e ∈ s.warps, e.1 ≠ s.cur → (s.warpAt e.1).atGbar = true) ∧ (∀ e ∈ s.warps, (s.warpAt e.1).gone = false) ∧
      max s.grid.gclk s.w.lclk + 1 < 2 ^ 64 ∧ (s.warpAt 1).park = some ⟨.grid, 9, false⟩ := by
  refine ⟨rfl, rfl, rfl, rfl, rfl, rfl, rfl, ?_⟩; decide +kernel

/-- R306: bart in a domain parks its warp on the phase; the last warp at gbar gives the grid's warps the clock above the largest arrival clock. -/
theorem test_domain_waits : ((after (.bart H 3 9 .group 4 1) (gathered 0 [(98, 1)])).w.park.map fun p => p.clk) = some 5 ∧ (after (.bart H 3 9 .group 4 1) (gathered 0 [])).w.lclk = 6 ∧
    ((after (.gbar H) (gathered 0xFFFFFFF0 [])).w.lclk, ((after (.gbar H) (gathered 0xFFFFFFF0 [])).warpAt 1).lclk, (after (.gbar H) (gathered 0xFFFFFFF0 [])).grid.gphase) = (10, 10, 1) := by
  decide +kernel
/-- A collated grid of gathering length 64 in domain 0, with its warp at `clk`, a point it owes, its fold buffer, and the domain as given. -/
def domain0 (clk : Nat) (owed : Option Nat) (fold : List FoldEntry) (d : Domain) : State :=
  { machine { strand with lclk := clk, grpLclk := clk, owed := owed, fold := fold } plainGroup { plainGrid with ds := { kernel with shape := kernel.shape + 128, log2g := 6, wave := 1 }, nextWave := 1 } with domains := [(0, d)] }

/-- Domain 0 with grid 0, published up to the first boundary. -/
def dom0 : Domain := { Domain.empty with owner := some 0, grids := [0], point := some (0, 0) }

theorem witness_DomainClocks : (domain0 5 none [] dom0).keysOf 0 ≠ [] ∧ (domain0 5 none [] Domain.empty).keysOf 0 = [] ∧
    (domain0 5 none [] dom0).Here ∧ (domain0 63 none [] dom0).collated = true ∧ (domain0 63 none [] dom0).w.jump = false ∧ (domain0 63 none [] dom0).w.park = none ∧ (domain0 63 none [] dom0).w.endRun = false ∧
    (domain0 63 none [] dom0).w.ended = false ∧ (domain0 63 none [] dom0).w.owed = none ∧ (domain0 63 none [] dom0).w.leaving = false ∧ (domain0 63 none [] dom0).w.todo = [] ∧ (Instr.nop H).hdr.c = false ∧
    (domain0 63 none [] dom0).w.grpLclk / (domain0 63 none [] dom0).g < (((domain0 63 none [] dom0).w.lclk + (Instr.nop H).weight) % 2 ^ 64) / (domain0 63 none [] dom0).g ∧
    (((domain0 5 none [] dom0).w.lclk + (Instr.nop H).weight) % 2 ^ 64) / (domain0 5 none [] dom0).g ≤ (domain0 5 none [] dom0).w.grpLclk / (domain0 5 none [] dom0).g := by
  unfold State.Here; decide +kernel

/-- R300: a group that crosses a boundary ends the run and owes the boundary. -/
theorem test_crossing : (after (.nop H) (domain0 63 none [] dom0)).w.owed = some 64 ∧ (after (.nop H) (domain0 63 none [] dom0)).w.inRun = false ∧ (after (.nop H) (domain0 5 none [] dom0)).w.inRun = true := by
  decide +kernel

theorem witness_CollatedAccesses : ∃ r q, storeRow (.st H 1 4 3 .b4) = some r ∧ loadRow (.ld H 7 4 3 .b4) = some q ∧ r.spad = false ∧ q.spad = false ∧ (domain0 5 none [] dom0).Here ∧ (domain0 5 none [] dom0).w.kind = .normal ∧
    (domain0 5 none [] dom0).inDomain = true ∧ (domain0 5 none [] dom0).w.active ≠ 0 ∧ (domain0 5 none [] dom0).w.FoldOnce ∧ (domain0 5 none [] dom0).w.waiting = false ∧ (domain0 5 none [] dom0).openReqs 0 = [] ∧
    (domain0 5 none [] dom0).w.readRegs (r.offs ++ r.regs) [] = .ok (readsOf strand [3, 1], []) ∧ (domain0 5 none [] dom0).w.readRegs q.offs [] = .ok (readsOf strand [3], []) ∧ (r.n = 8 → r.d ≠ 63) ∧
    (∀ l, l < 32 → (domain0 5 none [] dom0).w.active.getLsbD l = true → (domain0 5 none [] dom0).Reaches .store r.n l (r.ea (domain0 5 none [] dom0).w ((readsOf strand [3, 1]).at_ 0) l) (0x80000 + 4 * l)) ∧
    (∀ l, l < 32 → (domain0 5 none [] dom0).w.active.getLsbD l = true → (domain0 5 none [] dom0).Reaches .load q.n l (q.ea (domain0 5 none [] dom0).w ((readsOf strand [3]).at_ 0) l) (0x80000 + 4 * l)) ∧
    (domain0 5 none [] dom0).lost = [] ∧ (domain0 5 none [] dom0).foldRoom false ((lanesOf (domain0 5 none [] dom0).w.active).map fun l => r.ea (domain0 5 none [] dom0).w ((readsOf strand [3, 1]).at_ 0) l / 32) = true ∧
    (∀ x ∈ q.regs, x < 64 ∧ (domain0 5 none [] dom0).w.isWindow x = false) ∧ (Instr.ld H 7 4 3 .b4).counter = some 0 ∧ ∀ f ∈ (domain0 5 none [] dom0).w.inflight, f.seq ≠ (domain0 5 none [] dom0).w.seqNo :=
  ⟨_, _, rfl, rfl, rfl, rfl, rfl, rfl, rfl, by decide, by unfold Warp.FoldOnce; decide, rfl, rfl, rfl, rfl, by decide, lanes_of_strand ⟨rfl, _, rfl, rfl⟩ ⟨rfl, _, rfl, rfl⟩ ⟨rfl, _, rfl, rfl⟩ ⟨rfl, _, rfl, rfl⟩,
    lanes_of_strand ⟨rfl, _, rfl, rfl⟩ ⟨rfl, _, rfl, rfl⟩ ⟨rfl, _, rfl, rfl⟩ ⟨rfl, _, rfl, rfl⟩, rfl, by decide +kernel, by decide, rfl, by decide⟩

/-- R302: a store of a domain stands in its warp's fold buffer and not in memory; the warp's own load sees it. -/
theorem test_fold : (after (.st H 1 4 3 .b4) (domain0 5 none [] dom0)).mem.read 0x80004 = 0 ∧ (after (.st H 1 4 3 .b4) (domain0 5 none [] dom0)).w.foldByte false 0x10004 = some 2 ∧
    ((after (.ld H 7 4 3 .b4) (after (.st H 1 4 3 .b4) (domain0 5 none [] dom0))).w.inflight.map fun f => f.writes.map (·.vals)) = [[], [[(0, 1), (1, 2), (2, 3), (3, 4)]]] := by
  decide +kernel

/-- An ordered atomic of warp 0 with clock 5. -/
def ask : OrdReq := { key := ⟨0, 5, 1, 0, 0⟩, warp := 0, grp := 0, seq := 0, instr := .atom H 5 4 3 .w4 1 .add .rlx .device 1 0, pc := 0x8000, act := 3, regs := [.v 5], ops := [⟨0, 0x10000, 0x80000, [1], false⟩, ⟨1, 0x10000, 0x80000, [2], false⟩] }

/-- The domain with that request, its minimum delivered at `clk`. -/
def asked (clk : Nat) : State := domain0 6 none [] { dom0 with reqs := [ask], delivered := some ⟨0, clk, 1, 0, 0⟩ }

theorem witness_OrderedRequests : ((asked 6).domAt 0).firstReq = some ask ∧ ((asked 6).domAt 0).delivered = some ⟨0, 6, 1, 0, 0⟩ ∧ (asked 6).duePoint 0 = none ∧ (⟨0, 6, 1, 0, 0⟩ : Key).lt ask.key = false ∧
    (⟨0, 4, 1, 0, 0⟩ : Key).lt ask.key = true ∧ (asked 4).duePoint 0 = none ∧ (∃ r, atomRow ask.instr = some r ∧ r.spad = false) ∧ (∃ w, SMap.find (asked 6).warps 0 = some w ∧ w.kind = .normal) ∧
    ((asked 6).gridAt ((asked 6).groupAt 0).grid).ds.coll = true ∧ ((asked 6).gridAt ((asked 6).groupAt 0).grid).pk.domain = 0 ∧ (∀ a, (asked 6).mem.read a = (asked 6).turnByte 0 a) ∧
    (∀ o ∈ ask.ops, (asked 6).againOp ask o = (o, none)) ∧ ∀ x ∈ (asked 6).openReqs ask.warp, x.seq ≠ ask.seq := by
  refine ⟨rfl, rfl, by decide +kernel, by decide, by decide, by decide +kernel, ⟨_, rfl, rfl⟩, ⟨_, rfl, rfl⟩, rfl, rfl, fun _ => rfl, by decide +kernel, by decide +kernel⟩

/-- R298, R304: below its key nothing happens; at it the atomic reads and writes the turn copy, not memory. -/
theorem test_ordered : ((after (.orderedRequestPerform 0) (asked 4)).domAt 0).reqs.length = 1 ∧ (after (.orderedRequestPerform 0) (asked 6)).turnByte 0 0x80000 = 3 ∧ (after (.orderedRequestPerform 0) (asked 6)).mem.read 0x80000 = 0 := by
  decide +kernel

/-- A warp that owes boundary 64, with a global or a scratchpad entry in its fold buffer. -/
def owing (spad : Bool) (addr : Nat) : State := domain0 70 (some 64) [⟨spad, addr, [(3, 9)], false⟩] dom0

theorem witness_Publications : (owing false 0x800).duePoint 0 = some (0, 64) ∧ SMap.rising (owing false 0x800).warps = true ∧ SMap.rising ((owing false 0x800).domAt 0).turn = true ∧ (owing false 0x800).colls = [] ∧
    pointLe (0, 64) (0, 0) = false ∧ (owing false 0x800).OwesPoint 0 (0, 64) 0 ∧ ((owing false 0x800).warpAt 0).folded = [⟨false, 0x800, [(3, 9)], false⟩] ∧
    (∃ lf, (owing false 0x800).foldTarget ((owing false 0x800).ctxOf 0) ⟨false, 0x800, [(3, 9)], false⟩ = .ok 0x80000 lf) ∧ ((owing false 0x800).domAt 0).turn = [] ∧ ((owing false 0x800).warpAt 0).handW = [] ∧
    (owing true 2).duePoint 0 = some (0, 64) ∧ (owing true 2).OwesPoint 0 (0, 64) 0 ∧ ((owing true 2).warpAt 0).FoldOnce ∧ SMap.find [(3, (9 : Byte))] 3 = some 9 := by
  refine ⟨by decide +kernel, rfl, rfl, rfl, by decide, ?_, rfl, ⟨none, by decide +kernel⟩, rfl, rfl, by decide +kernel, ?_, by unfold Warp.FoldOnce; decide, rfl⟩ <;> (unfold State.OwesPoint; decide +kernel)

/-- R301: publication puts the byte at its place and completes the turn. -/
theorem test_publication : (after (.publication 0) (owing false 0x800)).mem.read 0x80003 = 9 ∧ (after (.publication 0) (owing false 0x800)).w.owed = none ∧ ((after (.publication 0) (owing true 2)).groupAt 0).spad.read 67 = 9 := by
  decide +kernel


/-- An unlock with owner value 7, of warp 0 with clock 5, to predicate 3 of lanes 0 to 3. -/
def freeing : OrdReq :=
  { key := ⟨0, 5, 1, 0, 0⟩, warp := 0, grp := 0, seq := 0, instr := .unlock H 3 4 6 0 1 .device, pc := 0x8000, act := 0xF, regs := [.p 3], ops := [⟨0, 0x10000, 0x80000, [7, 0xF], false⟩] }

/-- The domain with that request at a word that holds `n`. -/
def held (n : Byte) : State := domain0 6 none [] { dom0 with reqs := [freeing], turn := [(0x80000, n)], delivered := some ⟨0, 6, 1, 0, 0⟩ }

theorem witness_OrderedRequests_unlock : ((held 7).domAt 0).firstReq = some freeing ∧ (held 7).duePoint 0 = none ∧ (⟨0, 6, 1, 0, 0⟩ : Key).lt freeing.key = false ∧ (∃ w, SMap.find (held 7).warps 0 = some w ∧ w.kind = .normal) ∧
    ((held 7).gridAt ((held 7).groupAt 0).grid).ds.coll = true ∧ ((held 7).gridAt ((held 7).groupAt 0).grid).pk.domain = 0 ∧ (held 7).againOp freeing ⟨0, 0x10000, 0x80000, [7, 0xF], false⟩ = (⟨0, 0x10000, 0x80000, [7, 0xF], false⟩, none) ∧
    (∀ x ∈ (held 7).openReqs freeing.warp, x.seq ≠ freeing.seq) ∧ ((owing false 0x800).warpAt 0).handEnd = [] := by
  refine ⟨rfl, by decide +kernel, by decide, ⟨_, rfl, rfl⟩, rfl, rfl, by decide +kernel, by decide +kernel, rfl⟩

/-- R309, R311: the unlock frees a word that holds its value and leaves a release record until the boundary; another's word stays. -/
theorem test_unlock_domain : let t := after (.orderedRequestPerform 0) (held 7)
    (t.turnByte 0 0x80000, (t.domAt 0).rels, (t.domAt 0).reqs) = (0, [⟨0x80000, freeing.key, 0, 64⟩], []) ∧
    (after (.orderedRequestPerform 0) (held 9)).turnByte 0 0x80000 = 9 ∧ ((after (.orderedRequestPerform 0) (held 9)).domAt 0).rels = [] := by
  decide +kernel
/-- An operation of warp 0 as it stands in its core's order. -/
def operation (i : Instr) (started held done : Bool) : MatOp :=
  { warp := 0, seq := 0, instr := i, pc := 0x8000, num := 0, partner := none, started := started, stopped := false, held := held, done := done, chunk := 0, act := 0xF, fwA := 0, fwB := 0, table := 0
    a := List.replicate 16 (List.replicate 32 0x3F803F80), b := List.replicate 16 (List.replicate 32 0x3F803F80), sa := [], sb := [], axf := 0 }

/-- A state with these operations in core 0. -/
def withOps (s : State) (l : List MatOp) : State := { s with cores := [(0, { Core.reset with slots := [0], grid := some 0, matq := l })] }

/-- A bf16 product into tile 2, and one that takes A from a window. -/
def product : Instr := .mma H 0 16 2 .plusTimes false false 0 0 .bf16 false 0 1
/-- The same with A from window v56. -/
def fromWindow : Instr := .mma H 56 16 2 .plusTimes true false 0 0 .bf16 false 0 1
/-- The bench with queue 0 bound, holding one faulted entry. -/
def faulted : State := machine { strand with qbind := 1, queues := [(0, [{ entry with causes := [(2, 0x04, 0x20000)] }])] } plainGroup plainGrid

theorem witness_MatrixIssue : (∃ r, matRow (bench.w.bound && bench.w.twin) product = some r ∧ bench.MatReady product r) ∧ bench.heldOp bench.cur = none ∧ bench.stoppedOp product = none ∧ (bench.w.bound = true → bench.twinEnded = false) := by
  refine ⟨⟨_, rfl, rfl, rfl, by decide, by decide, fun _ _ => ?_, by decide, fun _ => ?_, by decide, ?_, ?_⟩, rfl, rfl, by decide⟩
  · unfold Warp.Plain; decide +kernel
  · unfold Warp.Plain; decide +kernel
  · intro f hf; exact absurd hf (by simp)
  · intro h; exact absurd h (by decide)

theorem witness_MatrixIssue_window : ∃ r, matRow (faulted.w.bound && faulted.w.twin) fromWindow = some r ∧ faulted.MatReady fromWindow r := by
  refine ⟨_, rfl, rfl, rfl, by decide, by decide, fun h => absurd h (by decide), fun _ => rfl, fun _ => ?_, by decide, ?_, ?_⟩
  · unfold Warp.Plain; decide +kernel
  · intro f hf; exact absurd hf (by simp)
  · intro h; exact absurd h (by decide)

/-- A product of narrow operands with format words in v40 and v41. -/
def narrow (fw : Vr) : Instr := .mma H 0 16 0 .plusTimes false false fw 44 .fmt false 0 1

theorem witness_MatrixIssue_formats : ∃ r, matRow (formats.w.bound && formats.w.twin) (narrow 40) = some r ∧ formats.MatReady (narrow 40) r := by
  refine ⟨_, rfl, rfl, rfl, by decide, by decide, fun _ _ => ?_, by decide, fun _ => ?_, by decide, ?_, ?_⟩
  · unfold Warp.Plain; decide +kernel
  · unfold Warp.Plain; decide +kernel
  · unfold Warp.Plain Warp.Agrees; decide +kernel
  · intro _; exact ⟨by decide, by decide +kernel⟩

/-- The window product is done and its word still at issue. -/
def finished : State := withOps faulted [operation fromWindow true true true]

theorem witness_MatrixIssue_done : (∃ r, matRow (finished.w.bound && finished.w.twin) fromWindow = some r) ∧ finished.Here ∧ finished.heldOp finished.cur = some (operation fromWindow true true true) ∧
    (operation fromWindow true true true).done = true := ⟨⟨_, rfl⟩, rfl, by decide +kernel, rfl⟩

theorem witness_MatrixIssue_divergence : formats.Here ∧ formats.w.kind = .normal ∧ formats.heldOp formats.cur = none ∧ formats.stoppedOp (narrow 30) = none ∧ formats.w.Plain 0 16 ∧ formats.w.Plain 16 16 ∧ formats.w.Plain 30 2 ∧ formats.w.Plain 29 2 ∧ (44 : Vr) ≠ 63 ∧
    (∃ l, l < 32 ∧ formats.w.active.getLsbD l = true ∧ formats.w.rdV 30 l ≠ formats.w.rdV 30 (lowLane formats.w.active)) ∧
    (¬ ∃ l, l < 32 ∧ formats.w.active.getLsbD l = true ∧ formats.w.rdV 29 l ≠ formats.w.rdV 29 (lowLane formats.w.active)) := by
  refine ⟨rfl, rfl, rfl, rfl, ?_, ?_, ?_, ?_, by decide, ⟨2, by decide, by decide, by decide +kernel⟩, ?_⟩ <;> (try (unfold Warp.Plain; decide +kernel))
  decide +kernel

/-- Lanes that hold different format words stop with format divergence. -/
theorem test_divergence : ((after (narrow 30) formats).w.stops.map fun p => (p.cause, p.detail)) = [(6, 1), (6, 1), (6, 1), (6, 1)] := by
  decide +kernel

/-- The array works on the product. -/
def working : State := withOps bench [operation product true false false]
/-- The array works on a lookup. -/
def lookup : State := withOps bench [operation (.mlut H 8 6 0 30 false true 3 0 false) true false false]
/-- The array comes to the faulted entry. -/
def stopping : State := withOps faulted [operation fromWindow true true false]

theorem witness_MatrixChunks : working.chunkHead 0 = some (operation product true false false, none) ∧ (∃ x pops, working.chunkRead (operation product true false false) = .ok (x, pops)) ∧ (working.warpAt 0).core = 0 ∧
    (SMap.find working.warps 0).isSome = true ∧ ((working.coreAt 0).tile 2).length = 4096 :=
  ⟨by decide +kernel, ⟨_, _, rfl⟩, rfl, rfl, by decide +kernel⟩

theorem witness_MatrixChunks_lookup : lookup.chunkHead 0 = some (operation (.mlut H 8 6 0 30 false true 3 0 false) true false false, none) ∧
    (∃ x pops, lookup.chunkRead (operation (.mlut H 8 6 0 30 false true 3 0 false) true false false) = .ok (x, pops)) ∧ (lookup.warpAt 0).core = 0 ∧ ((lookup.coreAt 0).tile 0).length = 4096 :=
  ⟨by decide +kernel, ⟨_, _, rfl⟩, rfl, by decide +kernel⟩

theorem witness_MatrixChunks_faulted : stopping.chunkHead 0 = some (operation fromWindow true true false, none) ∧ (operation fromWindow true true false).held = true ∧
    stopping.chunkRead (operation fromWindow true true false) = .error (.pop (.faulted 0 { entry with causes := [(2, 0x04, 0x20000)] })) ∧ (stopping.warpAt 0).core = 0 ∧ (SMap.find stopping.warps 0).isSome = true ∧
    (stopping.warpAt 0).kind = .normal ∧ (stopping.warpAt 0).active ≠ 0 :=
  ⟨by decide +kernel, rfl, rfl, rfl, rfl, rfl, by decide⟩

theorem witness_MatrixChunks_sums : (∃ v ∈ [FVal.inf false, .inf true], v.isInf false = true) ∧ (∃ v ∈ [FVal.inf false, .inf true], v.isInf true = true) ∧
    (∀ v ∈ [FVal.fin false 3 0, .fin true 1 (-70)], ∃ neg m e, v = .fin neg m e ∧ (m = 0 ∨ (1 : Int) - 72 ≤ e ∧ e + (Nat.log2 m : Int) ≤ 1)) ∧
    ∃ v ∈ [FVal.fin false 3 0, .fin true 1 (-70)], ∃ neg m e, v = FVal.fin neg m e ∧ m ≠ 0 ∧ e + (Nat.log2 m : Int) = 1 := by
  refine ⟨by decide, by decide, ?_, ⟨_, List.mem_cons_self .., _, _, _, rfl, by decide, by decide +kernel⟩⟩
  intro v hv
  simp only [List.mem_cons, List.not_mem_nil, or_false] at hv
  rcases hv with rfl | rfl
  · exact ⟨_, _, _, rfl, .inr (by decide +kernel)⟩
  · exact ⟨_, _, _, rfl, .inr (by decide +kernel)⟩

/-- R164: 32 products of 1 and 1 are 32 in every cell. -/
theorem test_chunkSum : chunkSum (List.replicate 32 (FVal.fin false 1 0)) = (0x42000000, 0) ∧ chunkSum [.inf false, .inf true] = (0x7FC00000, flagNV) := by
  decide +kernel

/-- A paired group: leader warp 0 on core 0, follower warp 1 on core 1. -/
def pair (w v : Warp) (a b : List MatOp) : State :=
  { machine w { plainGroup with follower := some 1 } { plainGrid with ds := { kernel with shape := kernel.shape + 64 } } with
    warps := [(0, w), (1, { v with twin := true, core := 1 })]
    cores := [(0, { Core.reset with slots := [0], matq := a }), (1, { Core.reset with slots := [1], matq := b })] }

/-- A warp parked at mpair.bind. -/
def atBind : Warp := { strand with park := some ⟨.pair false, 0, false⟩, todo := [.mpairBind H], waiting := true }

theorem witness_Pairs_forms : bench.Here ∧ bench.w.kind = .normal ∧ bench.grid.ds.paired = false ∧ (pair strand strand [] []).Here ∧ (pair strand strand [] []).w.kind = .normal ∧ (pair strand strand [] []).grid.ds.paired = true ∧
    (pair strand strand [] []).w.bound = false ∧ (pair strand strand [] []).twinEnded = false ∧ (pair strand { strand with ended := true } [] []).twinEnded = true ∧ (pair strand { strand with ended := true } [] []).Here := by
  refine ⟨rfl, rfl, ?_⟩; unfold State.Here; decide

theorem witness_Pairs_rendezvous : (pair atBind atBind [] []).twinOf 0 = some 1 ∧ (pair atBind atBind [] []).atMpair 0 ((pair atBind atBind [] []).warpAt 0).bound = true ∧
    (pair atBind atBind [] []).atMpair 1 ((pair atBind atBind [] []).warpAt 0).bound = true ∧ ((pair atBind atBind [] []).warpAt 0).todo = [.mpairBind H] ∧ ((pair atBind atBind [] []).warpAt 1).todo = [.mpairBind H] := by
  decide +kernel

/-- R155: a group with an mpair issues, and its warp waits for the partner: it is not one that waits as a whole. -/
theorem test_mpair_issues : let t := pair { strand with todo := [.mpairBind H] } strand [] []
    (State.stuckWord exec t 3 t).isNone = true ∧ (match exec (.mpairBind H) t with | .next u => u.w.waiting && u.w.park.isSome | _ => false) = true := by
  decide +kernel

/-- The two halves of an operation, the second with format word `f`. -/
def halves (f : Nat) : State :=
  let w := { strand with bound := true }
  pair w w [{ operation product false true false with partner := some 1 }] [{ operation product false true false with warp := 1, partner := some 0, fwA := f }]

theorem witness_Pairs_start : (∃ x y, (halves 0).pairReady 0 = some (x, y) ∧ x.warp ≠ y.warp ∧ ((halves 0).warpAt x.warp).core = 0 ∧ ((halves 0).warpAt y.warp).core ≠ 0 ∧ pairMismatch x y = none) ∧
    ∃ x y, (halves 1).pairReady 0 = some (x, y) ∧ x.warp ≠ y.warp ∧ ((halves 1).warpAt x.warp).core = 0 ∧ ((halves 1).warpAt y.warp).core ≠ 0 ∧ pairMismatch x y = some 0x03 ∧ ((halves 1).warpAt x.warp).kind = .normal ∧
      ((halves 1).warpAt y.warp).kind = .normal ∧ ((halves 1).warpAt x.warp).active ≠ 0 ∧ ((halves 1).warpAt y.warp).active ≠ 0 ∧ (SMap.find (halves 1).warps x.warp).isSome = true ∧ (SMap.find (halves 1).warps y.warp).isSome = true ∧
      (halves 1).groupColl ((halves 1).warpAt x.warp).grp = false ∧ (halves 1).groupColl ((halves 1).warpAt y.warp).grp = false :=
  ⟨⟨_, _, rfl, by decide, rfl, by decide, by decide +kernel⟩, _, _, rfl, by decide, rfl, by decide, by decide +kernel, rfl, rfl, by decide, by decide, rfl, rfl, rfl, rfl⟩

/-- R157: format words that differ stop both warps with cause 0x07, detail 0x03. -/
theorem test_pair_mismatch : ((after (.pairedOperationStart 0) (halves 1)).warpAt 1).stops.map (fun p => (p.cause, p.detail)) = [(7, 3), (7, 3), (7, 3), (7, 3)] := by
  decide +kernel

theorem witness_Accumulators : bench.Here ∧ bench.matBusy = false ∧ (3 : Tile).toNat < bench.grid.ds.acc ∧ bench.w.Plain 0 4 ∧ (8 : BitVec 6).toNat + (3 : BitVec 4).toNat ≤ 63 ∧ ((bench.coreAt 0).tile 3).length = 4096 := by
  refine ⟨rfl, rfl, by decide, ?_, by decide, by decide +kernel⟩; unfold Warp.Plain; decide

theorem witness_Accumulators_mlbld : bench.Here ∧ bench.matBusy = false ∧ bench.w.Plain 0 16 ∧ (0 : BitVec 5).toNat + 4 ≤ 32 ∧ (bench.w.rdK 9).toNat % 64 = 0 ∧ (bench.w.rdK 9).toNat + 131072 ≤ bench.grid.ds.spl ∧
    (∃ vals, bench.w.readRegs ((List.range 16).map (0 + ·)) [] = .ok (vals, [])) ∧ formats.w.active ≠ 0 ∧ formats.w.Plain 40 1 ∧ formats.w.Agrees 40 ∧ isPlane (formats.w.format 40) = false ∧ 5 ≤ fwW (formats.w.format 40) ∧
    fwBlk (formats.w.format 40) = 0 ∧ (24 : BitVec 5).toNat + 8 ≤ 32 := by
  refine ⟨rfl, rfl, ?_, by decide, by decide, by decide, ⟨_, rfl⟩, by decide, ?_, ?_, by decide +kernel, by decide +kernel, by decide +kernel, by decide⟩
  · unfold Warp.Plain; decide +kernel
  · unfold Warp.Plain; decide
  · unfold Warp.Agrees; decide +kernel

/-- R171, R172: macz gives every cell its value; macw puts one register of the strand into row 8 from column 32. -/
theorem test_macz : (after (.macz H 3 .pinf)).cell 0 3 63 63 = 0x7F800000 := by
  decide +kernel
theorem test_macw : (after (.macw H 1 3 8 true 0 2)).cell 0 3 8 33 = 2 ∧ (after (.macw H 1 3 8 true 0 2)).cell 0 3 8 1 = 0 := by
  decide +kernel

/-- With a pitch of 256 in k2 and one of 8 in k5. -/
def drains : State := machine { strand with k := [(2, 256), (4, 0x10000), (5, 8)] } plainGroup plainGrid

theorem witness_Drains : drains.Here ∧ drains.w.kind = .normal ∧ drains.inDomain = false ∧ drains.w.active ≠ 0 ∧ drains.matBusy = false ∧ (0 : Tile).toNat < drains.grid.ds.acc ∧ (5 : BitVec 6).toNat + (0 : BitVec 6).toNat + 1 ≤ 64 ∧
    (drains.w.rdK 5).toNat % 16 ≠ 0 ∧ (drains.w.rdK 4).toNat % 16 = 0 ∧ (drains.w.rdK 2).toNat % 16 = 0 ∧ 64 * 4 ≤ (drains.w.rdK 2).toNat ∧ drains.lost = [] ∧
    (∀ k, k < 64 → drains.Reaches .store 4 (lowLane drains.w.active) (drainAddr 0x10000 256 4 k) (0x80000 + 4 * k)) ∧
    (∀ k, k < 64 → drains.Reaches (.atomic .device) 4 (lowLane drains.w.active) (drainAddr 0x10000 256 4 k) (0x80000 + 4 * k)) ∧ drains.TilesClear ((List.range 64).map fun k => 0x80000 + 4 * k) ∧ drains.NoneEarlier false 4 ((List.range 64).map fun k => (drainAddr 0x10000 256 4 k, 0x80000 + 4 * k)) ∧
    (∀ k, k < 64 → drains.ReachesSp 4 (drainAddr 0 256 4 k)) := by
  have a : ∀ k, k < 64 → drainAddr 0x10000 256 4 k % 4 = 0 ∧ drains.checkVa drains.w.core (lowLane drains.w.active) drains.ctxNo (drainAddr 0x10000 256 4 k) .store (fun a => drains.meetsLost a 4) = .ok leaf16 ∧
      drains.checkVa drains.w.core (lowLane drains.w.active) drains.ctxNo (drainAddr 0x10000 256 4 k) (.atomic .device) (fun a => drains.meetsLost a 4) = .ok leaf16 ∧ 0x80000 + 4 * k = leaf16.pa (drainAddr 0x10000 256 4 k) := by
    decide +kernel
  refine ⟨rfl, rfl, rfl, by decide, rfl, by decide, by decide, by decide, by decide, by decide, by decide, rfl, fun k h => ⟨(a k h).1, leaf16, (a k h).2.1, (a k h).2.2.2⟩, fun k h => ⟨(a k h).1, leaf16, (a k h).2.2.1, (a k h).2.2.2⟩, ?_, noneEarlier rfl, ?_⟩
  · unfold State.TilesClear; decide
  · unfold State.ReachesSp; decide +kernel

/-- An add-on-store of two elements that waits. -/
def adding : State :=
  { bench with adds := [{ ask with instr := .mdrn H 0 false 4 2 true .f32 1 0 0, ops := [⟨0, 0x10000, 0x80000, [0x3F800000], false⟩, ⟨0, 0x10004, 0x80004, [0x40000000], false⟩] }] }

theorem witness_Drains_add : (∃ r, adding.adds[0]? = some r ∧ r.instr = .mdrn H 0 false 4 2 true .f32 1 0 0 ∧ (r.ops.map (·.pa)).Pairwise (fun a b => a + 4 ≤ b ∨ b + 4 ≤ a) ∧ ∃ w, SMap.find adding.warps r.warp = some w ∧ w.kind = .normal ∧
    (adding.gridAt (adding.groupAt w.grp).grid).ds.coll = false ∧ (∀ o ∈ r.ops, adding.againOp r o = (o, none)) ∧ ∀ y ∈ adding.adds.eraseIdx 0, y.warp ≠ r.warp ∨ y.seq ≠ r.seq) ∧ adding.tiles = [] :=
  ⟨⟨_, rfl, rfl, by decide, _, rfl, rfl, rfl, by decide +kernel, by decide⟩, rfl⟩

/-- R174: 1 added to 0 is 1 in f32. -/
theorem test_addOnStore : (after (.addOnStoreApply 0) adding).number 0x80000 4 = 0x3F800000 ∧ (after (.addOnStoreApply 0) adding).adds = [] := by
  decide +kernel


/-- The same add-on-store asked by a warp of a domain, which has `n` ordered requests. -/
def addingDomain (n : Nat) : State := { domain0 5 none [] { dom0 with reqs := List.replicate n ask } with adds := adding.adds }

theorem witness_Drains_domain : ∃ r, (addingDomain 0).adds[0]? = some r ∧ (SMap.find (addingDomain 0).warps r.warp).isSome = true ∧ r.grp = ((addingDomain 0).warpAt r.warp).grp ∧ ((addingDomain 0).warpAt r.warp).kind = .normal ∧
    ((addingDomain 0).gridAt ((addingDomain 0).groupAt r.grp).grid).ds.coll = true ∧ r.seq < noSeq ∧ (((addingDomain 16).domAt 0).reqs.filter fun x => x.warp == r.warp && x.seq != noSeq).length = 16 :=
  ⟨_, rfl, rfl, rfl, rfl, rfl, by decide, by decide +kernel⟩

/-- R174, R304: the add-on-store of a domain becomes an ordered request, unless its warp has 16. -/
theorem test_addOnStore_domain : ((after (.addOnStoreApply 0) (addingDomain 0)).adds.length, ((after (.addOnStoreApply 0) (addingDomain 0)).domAt 0).reqs.length) = (0, 1) ∧ (after (.addOnStoreApply 0) (addingDomain 16)).adds.length = 1 := by
  decide +kernel
/-- The bench with its slice in a state, with loads under way. -/
def sliced (st : SliceSt) (issued : List QEntry) : State :=
  machine { strand with slice := { Slice.start with st := st, pc := 0x8018, k := [(20, 0x10000), (12, 4)], issued := issued }, qbind := 1 } plainGroup plainGrid

theorem witness_Slices : bench.Here ∧ bench.w.slice.st ≠ .running ∧ bench.w.slice.st ≠ .held ∧ bench.w.kind = .normal ∧ (sliced .running []).Here ∧ (sliced .running []).w.slice.st = .running ∧ (sliced .running []).w.kind = .normal ∧
    bench.grid.ds.code ≤ bench.w.runPc.toNat ∧ bench.grid.ds.code ≤ (bench.packet 4).toNat ∧ (bench.packet 4).toNat < bench.grid.ds.code + bench.grid.ds.codelen ∧
    ¬ (bench.packet 100).toNat < bench.grid.ds.code + bench.grid.ds.codelen ∧ (sliced .running []).w.slice.issued = [] ∧ (sliced .running [entry]).w.slice.issued ≠ [] := by
  unfold State.Here; decide +kernel

theorem witness_Slices_load : (sliced .running []).Here ∧ (sliced .running []).w.slice.st = .running ∧ (sliced .running []).w.slice.stopping = false ∧ (sliced .running []).w.slice.issued.length < 8 ∧
    (sliced .running []).w.queueLoad ((56 : Vr).toNat - 56) < 32 ∧ (sliced .running []).sliceWaits = false ∧ (sliced .running []).inDomain = false ∧ ESize.b4 ≠ .b8 ∧ (sliced .running []).TilesClear ((List.range 32).map (0x80000 + 4 * ·)) ∧
    (sliced .running []).checkVa 0 3 0 0x11000 .load (fun a => (sliced .running []).meetsLost a 4) = .error 0x07 ∧
    ∀ l, l < 32 → (sliced .running []).Reaches .load 4 l ((((sliced .running []).w.slice.rdK 20).toNat + l * ((sliced .running []).w.slice.rdK 12).toNat + (0 : Int)) % 2 ^ 64).toNat (0x80000 + 4 * l) := by
  have a : ∀ l, l < 32 → let ea := ((((sliced .running []).w.slice.rdK 20).toNat + l * ((sliced .running []).w.slice.rdK 12).toNat + (0 : Int)) % 2 ^ 64).toNat
      ea % 4 = 0 ∧ (sliced .running []).checkVa (sliced .running []).w.core l (sliced .running []).ctxNo ea .load (fun a => (sliced .running []).meetsLost a 4) = .ok leaf16 ∧ 0x80000 + 4 * l = leaf16.pa ea := by decide +kernel
  exact ⟨rfl, rfl, rfl, by decide, by decide, by decide +kernel, rfl, by decide, by unfold State.TilesClear; decide, by decide +kernel, fun l h => ⟨(a l h).1, leaf16, (a l h).2⟩⟩

theorem witness_Slices_push : ∃ w, SMap.find (sliced .running [entry]).warps 0 = some w ∧ w.slice.issued = entry :: [] ∧ entry.causes = [] ∧ w.slice.stopping = false ∧
    ∃ v, SMap.find (sliced .running [{ entry with causes := [(1, 4, 0)] }]).warps 0 = some v ∧ v.slice.issued = { entry with causes := [(1, 4, 0)] } :: [] ∧ v.slice.st = .running ∧ v.slice.first ≤ entry.ord :=
  ⟨_, rfl, rfl, rfl, rfl, _, rfl, rfl, rfl, by decide⟩

/-- R246: a faulted entry holds the slice at the load that made it. -/
theorem test_slice_push : let t := after (.sliceEntryPush 0) (sliced .running [{ entry with causes := [(1, 4, 0)] }])
    t.w.slice.st = .held ∧ t.w.slice.pc = 0x8000 ∧ (SMap.get [] t.w.queues 0).length = 1 := by
  decide +kernel

/-- Copy operands: 64 bytes from page 16 to scratchpad 0x100 in k9, k8, k10; others that break one rule each. -/
def copies (ch : Chan) : State :=
  machine { strand with k := [(8, 0x10000), (9, 64), (10, 0x100), (11, 8), (12, 0x40000), (13, 2 ^ 57)], seqNo := 1, inflight := [⟨0, 1, false, [], 0, []⟩] } { plainGroup with chans := [(3, ch)] } plainGrid

/-- A copy of 64 bytes from an address to scratchpad 0x100. -/
def copy (src : Nat) : Copy := { src := src, dst := 0x100, len := 64, s2g := false, at_ := 0, got := [], warp := 0, seq := 0 }
/-- A channel that waits for 64 bytes from an address. -/
def busy (src : Nat) (fault : Option (Nat × Nat)) : Chan := { Chan.empty with ip := 64, copies := [copy src], fault := fault }

theorem witness_Copies : (∃ r, copyRow (.cpy H 10 8 9 3 false 1) = some r) ∧ (copies Chan.empty).Here ∧ (copies Chan.empty).w.kind = .normal ∧ (copies Chan.empty).inDomain = false ∧
    (3 : BitVec 4).toNat < (copies Chan.empty).grid.ds.nchan ∧ ¬ (4 : BitVec 4).toNat < (copies Chan.empty).grid.ds.nchan ∧ 64 < 2 ^ 32 ∧ 0x10000 % 16 = 0 ∧ 64 % 16 = 0 ∧ 0x100 % 16 = 0 ∧ ¬ 8 % 16 = 0 ∧
    0x100 + 64 ≤ (copies Chan.empty).grid.ds.spl ∧ ¬ 0x40000 + 64 ≤ (copies Chan.empty).grid.ds.spl ∧ 0x10000 + 64 ≤ 2 ^ 57 ∧ ¬ 2 ^ 57 + 64 ≤ 2 ^ 57 ∧ (copies Chan.empty).receivers none = [0] ∧
    ((copies Chan.empty).groupAt 0).chan false 3 = Chan.empty ∧ 4 ≤ (((copies { Chan.empty with copies := List.replicate 4 (copy 0x10000) }).groupAt 0).chan false 3).copies.length ∧
    (copies Chan.empty).grp.gangSize = 1 ∧ ((copies Chan.empty).w.rdK 20).toNat = 0 ∧
    [8, 9, 10, 11, 12, 13].map (fun r => ((copies Chan.empty).w.rdK r).toNat) = [0x10000, 64, 0x100, 8, 0x40000, 2 ^ 57] :=
  ⟨⟨_, rfl⟩, rfl, rfl, rfl, by decide +kernel⟩

theorem witness_Copies_members : (copies Chan.empty).MembersNamed (some 1) ∧ ¬ (copies Chan.empty).MembersNamed (some 2) := by
  constructor
  · intro m hm j hj; injection hm with hm; subst hm; revert j; decide
  · intro h; exact absurd (h 2 rfl 1 (by decide) (by decide)) (by decide)

theorem witness_Copies_waits : (copies (busy 0x10000 none)).Here ∧ (copies (busy 0x10000 none)).w.kind = .normal ∧ ((copies (busy 0x10000 none)).grp.chan false 3).wp < ((copies (busy 0x10000 none)).w.rdK 9).toNat ∧
    ((copies (busy 0x10000 none)).grp.chan false 3).fault = none ∧ ((copies (busy 0x20000 (some (4, 0x20000)))).grp.chan false 3).fault = some (4, 0x20000) ∧ ((copies (busy 0x10000 none)).w.rdK 20).toNat ≤ 0 ∧
    (copies (busy 0x10000 none)).grid.ds.nchan ≤ (4 : BitVec 4).toNat := by
  unfold State.Here; decide +kernel

/-- What a delivery needs, for copies from the resident page, from the absent one and from no page. -/
theorem witness_Copies_delivery : (((copies (busy 0x10000 none)).groupAt 0).chan false 3).copies = [copy 0x10000] ∧ (copies (busy 0x10000 none)).tiles = [] ∧ (copies (busy 0x10000 none)).lost = [] ∧
    ((copies (busy 0x10000 none)).gridAt ((copies (busy 0x10000 none)).groupAt ((copies (busy 0x10000 none)).warpAt 0).grp).grid).ds.coll = false ∧ (SMap.find (copies (busy 0x10000 none)).warps 0).isSome = true ∧
    (copies (busy 0x10000 none)).checkVa 0 0 0 0x10000 .load (fun _ => false) = .ok leaf16 ∧ (copies (busy 0x11000 none)).checkVa 0 0 0 0x11000 .load (fun _ => false) = .error 0x07 ∧
    (copies (busy 0x20000 none)).checkVa 0 0 0 0x20000 .load (fun _ => false) = .error 0x04 ∧
    let t := after (.copyDelivery 0 0 3) (copies { busy 0x10000 none with copies := [{ copy 0x10000 with at_ := 32 }] })
    t.allChans.all (fun y => y.copies.isEmpty) = true ∧ t.w.inflight.map (·.done) = [true] := by
  decide +kernel

theorem witness_Semaphores : bench.Here ∧ bench.w.kind = .normal ∧ (5 : BitVec 6).toNat < bench.grid.ds.nsem ∧ bench.grid.ds.nsem ≤ (8 : BitVec 6).toNat ∧ 0 ≤ (SMap.get 0 (bench.grp.semsOf false) 5 - bench.w.semWord 9 0).toInt ∧
    (SMap.get 0 (bench.grp.semsOf false) 5 - bench.w.semWord 9 1).toInt < 0 := by
  unfold State.Here; decide +kernel

/-- R255: −1 is added modulo 2^32, and semwait compares by the signed difference. -/
theorem test_sem : SMap.get 0 (after (.semadd H 5 0 63)).grp.sems 5 = 0xFFFFFFFF ∧ (after (.semwait H 5 0 1)).w.waiting = true ∧ (after (.semwait H 5 0 63)).w.waiting = false := by
  decide +kernel

/-- An all-gather of 4 naturals over 2 ranks: its 64 bytes. -/
def gatherDesc : List Byte := [2, 4, 0, 0, 0, 0, 0, 0, 4, 0, 0, 0, 0, 0, 0, 0, 0x00, 0x01, 0x01, 0, 0, 0, 0, 0, 0x00, 0x02, 0x01] ++ List.replicate 37 0

/-- The bench with that descriptor at 0x10000, communicator 0 of two ranks, and `n` collectives in the engine. -/
def collecting (n : Nat) : State :=
  { machine { strand with seqNo := 1, inflight := [⟨0, 2, false, [], 0, []⟩] } plainGroup plainGrid with
    mem := tables ++ [(0x80000, 2), (0x80001, 4), (0x80008, 4), (0x80011, 1), (0x80012, 1), (0x80019, 2), (0x8001A, 1), (0x80100, 7)], comms := [(0, ⟨2, 0, 1, 0⟩)]
    colls := List.replicate n { comm := 0, warp := 0, seq := 0, num := 1, desc := 0x10000, ctx := 0, collated := none, bytes := [], done := false, due := none } }

theorem witness_Collectives : (collecting 1).Here ∧ (collecting 1).inDomain = false ∧ (collecting 1).collated = false ∧ ((collecting 1).colls.filter fun c => !c.done).length < 64 ∧ 64 ≤ ((collecting 64).colls.filter fun c => !c.done).length ∧
    (collecting 1).peekVa (collecting 1).ctxNo ((collecting 1).w.rdK 4).toNat 64 = .ok gatherDesc ∧ ((collecting 1).w.rdK 9).toNat ≤ ((collecting 1).comm ((collecting 1).w.rdK 9).toNat).completed ∧
    ((collecting 1).comm ((collecting 1).w.rdK 9).toNat).completed < ((collecting 1).w.rdK 6).toNat := by
  refine ⟨rfl, rfl, rfl, ?_⟩; decide +kernel

/-- The data of the two ranks. -/
def peerBytes : List (List Byte) := [[], gatherDesc ++ List.replicate 16 5]

theorem witness_Collectives_complete : let d := collDescOf gatherDesc
    (∃ c, (collecting 1).colls.find? (fun c => c.comm == 0 && !c.done) = some c ∧ c.collated = none ∧ c.desc % 64 = 0 ∧ (collecting 1).peekVa c.ctx c.desc 64 = .ok gatherDesc ∧
      (∃ own, (collecting 1).peekVa c.ctx d.send (d.sendLen 2) = .ok own ∧ 32 ≤ (d.result 0 ((List.range 2).map fun j => if j = 0 then own else (peerBytes.getD j []).drop 64)).length) ∧
      (collecting 1).placeVa c.ctx d.recv (d.recvLen 2) true = .ok ((List.range 32).map (0x80200 + ·)) ∧ (collecting 1).placeVa c.ctx (c.desc + 36) 4 true = .ok ((List.range 4).map (0x80024 + ·))) ∧
    (collecting 1).lost = [] ∧ d.ok ((collecting 1).comm 0).ranks = true ∧ (∀ j, j < 2 → j ≠ 0 → peerBytes.getD j [] = [] ∨ d.agrees (collDescOf (peerBytes.getD j [])) = true) ∧ ((List.range 32).map (0x80200 + ·)).Nodup ∧
    (∀ a ∈ (List.range 4).map (0x80024 + ·), a ∉ (List.range 32).map (0x80200 + ·)) ∧ d.op = 2 :=
  ⟨⟨_, rfl, rfl, rfl, by decide +kernel, ⟨[7, 0, 0, 0, 0, 0, 0, 0, 0, 0, 0, 0, 0, 0, 0, 0], by decide +kernel, by decide +kernel⟩, by decide +kernel, by decide +kernel⟩, by decide +kernel⟩

/-- R259: the ranks' blocks in rank order. -/
theorem test_allGather : let t := after (.collectiveComplete 0 peerBytes 0) (collecting 1)
    t.mem.read 0x80200 = 7 ∧ t.mem.read 0x80201 = 0 ∧ t.mem.read 0x80210 = 5 ∧ t.mem.read 0x8021F = 5 ∧ (t.comm 0).completed = 1 := by
  decide +kernel


/-- A warp of a domain with clock 5, 7 in k6, and a collective of its domain that is its communicator's number 3, of which `n` are complete. -/
def gathering (n : Nat) : State :=
  { domain0 5 none [] dom0 with comms := [(0, ⟨2, 0, 7, n⟩)], colls := [{ comm := 0, warp := 0, seq := 0, num := 3, desc := 0x10000, ctx := 0, collated := some 0, bytes := [], done := true, due := none }] }

theorem witness_Collectives_domain : (gathering 7).Here ∧ (gathering 7).collated = true ∧ (H : Hdr).c = false ∧ (gathering 7).w.owed = none ∧ 0 < (gathering 7).g ∧ ((gathering 7).w.rdK 6).toNat ≤ ((gathering 7).comm ((gathering 7).w.rdK 9).toNat).completed ∧
    ((gathering 2).comm ((gathering 2).w.rdK 9).toNat).completed < ((gathering 2).w.rdK 6).toNat ∧ (∃ x ∈ (gathering 7).colls, x.comm = 0 ∧ x.num ≤ 7 ∧ x.collated = some (gathering 7).grid.pk.domain ∧ x.due = none) := by
  refine ⟨rfl, ?_⟩; decide +kernel

/-- R261, R428: collw of a domain jumps to the boundary, where the received bytes are to be published. -/
theorem test_collw_domain : let t := after (.collw H 9 6) (gathering 7)
    (t.w.lclk, t.w.owed, t.colls.map (·.due)) = (64, some 64, [some (0, 64)]) ∧ (after (.collw H 9 6) (gathering 2)).w.waiting = true := by
  decide +kernel
/-- A holding of group `g` at 0x200000, one frame of 64 sectors, in slot 0 of core 0. -/
def holding (g : Nat) : Claim :=
  { warp := 0, grp := g, core := 0, slot := 0, seq := 0, kd := 10, refused := 0, base := 0x200000, geo := 0x3F00, entry := 0x8030, arg := 0x55, budget := 2, limit := 1, keep := false, frames := [1024] }

/-- A directory entry of such a tile. -/
def tile (g : Nat) : TileEntry := { frames := [1024], hold := holding g, refusals := 0, queue := [], running := none, delay := none, surrendered := none, rel := none, handing := none, result := none, due := 0, waitR := [], waitC := [] }

/-- A strand with tile operands: the base in k8, the geometry in k9, the argument in k11, others that break a rule in k12 to k14; a claim waits on dc1. -/
def tiler : Warp := { strand with k := [(8, 0x200000), (9, 0x3F00), (11, 0x55), (12, 0x200004), (13, 2 ^ 57), (14, 2 ^ 60)], seqNo := 1, inflight := [⟨0, 1, false, [], 0, []⟩] }

/-- The bench with this strand, these tiles and these slots taken. -/
def tiled (w : Warp) (tiles : SMap TileEntry) (slots : SMap Nat) : State :=
  { machine w plainGroup plainGrid with tiles := tiles, cores := [(0, { Core.reset with slots := [0], grid := some 0, tslots := slots })] }

/-- All eight slots taken. -/
def allSlots : SMap Nat := (List.range 8).map fun i => (i, 0x200000)

theorem find_replicate {α : Type} (n k x : Nat) (v : α) (h : x ≠ k) : SMap.find (List.replicate n (k, v)) x = none := by
  induction n with
  | zero => rfl
  | succ n ih => simp [List.replicate_succ, SMap.find, h, ih]

theorem witness_TileInstructions_claim : (tiled tiler [] []).Here ∧ (tiled tiler [] []).w.kind = .normal ∧ (tiled tiler [] []).inDomain = false ∧ (tiled tiler [] []).w.FreshSeq ∧ SMap.get (0, false) (tiled tiler [] []).grp.refusals (tiled tiler [] []).cur = (0, false) ∧
    geoBad ((tiled tiler [] []).w.rdK 14).toNat = true ∧ geoBad ((tiled tiler [] []).w.rdK 9).toNat = false ∧ (tiled tiler [] []).grid.ds.nsurr ≤ (1 : BitVec 3).toNat ∧ (0 : BitVec 3).toNat < (tiled tiler [] []).grid.ds.nsurr ∧
    ((tiled tiler [] []).w.rdK 12).toNat % 2048 ≠ 0 ∧ ((tiled tiler [] []).w.rdK 13).toNat % 2048 = 0 ∧ 2 ^ 57 < geoEnd ((tiled tiler [] []).w.rdK 13).toNat ((tiled tiler [] []).w.rdK 9).toNat ∧
    (tiled tiler [] []).claimChecks 0x200000 0x3F00 0 = .ok 0x200000 [1024] ∧ SMap.find (tiled tiler [] []).tiles 0x200000 = none ∧ ¬ (tiled tiler [] []).FrameTaken 0x200000 [1024] ∧ (tiled tiler [] []).freeSlot 0 = some 0 ∧
    (tiled tiler [] []).tiles.length < 65536 ∧ (tiled tiler [] allSlots).freeSlot 0 = none ∧ (tiled tiler [] []).grid.ds.surr[(0 : BitVec 3).toNat]? = some ⟨0x30, 2, 1⟩ := by
  refine ⟨rfl, rfl, rfl, ?_, rfl, by decide +kernel, by decide +kernel, by decide, by decide, by decide, by decide, by decide +kernel, rfl, rfl, ?_, rfl, by decide, rfl, rfl⟩
  · unfold Warp.FreshSeq; decide
  · unfold State.FrameTaken; decide

theorem witness_TileInstructions_held : (tiled tiler [(0x200000, tile 0)] []).claimChecks 0x200000 0x3F00 0 = .ok 0x200000 [1024] ∧ SMap.find (tiled tiler [(0x200000, tile 0)] []).tiles 0x200000 = some (tile 0) ∧ (tile 0).hold.grp = 0 ∧
    (tile 0).result = none ∧ (tiled tiler [(0x300000, tile 5)] []).claimChecks 0x200000 0x3F00 0 = .ok 0x200000 [1024] ∧ (tiled tiler [(0x300000, tile 5)] []).FrameTaken 0x200000 [1024] ∧
    SMap.find (tiled tiler [(0x300000, tile 5)] []).tiles 0x200000 = none ∧ SMap.find (tiled tiler [(0x200000, tile 5)] []).tiles 0x200000 = some (tile 5) ∧ (tile 5).hold.grp ≠ 0 ∧
    ¬ (tiled tiler [(0x200000, tile 5)] []).FrameTaken 0x200000 [1024] ∧ (tiled tiler [(0x200000, tile 5)] allSlots).freeSlot 0 = none ∧ (tiled tiler [(0x200000, tile 5)] []).freeSlot 0 = some 0 ∧ (tile 5).queue.length < 16 ∧
    16 ≤ ({ tile 5 with queue := List.replicate 16 (.claim (holding 6)) } : TileEntry).queue.length ∧ (tiled tiler [(0x200000, tile 5)] []).claimChecks 0x200000 0x3F00 0 = .ok 0x200000 [1024] := by
  refine ⟨rfl, rfl, rfl, rfl, rfl, ?_, rfl, rfl, by decide, ?_, rfl, rfl, by decide, by decide, rfl⟩ <;> (unfold State.FrameTaken; decide)

/-- A full directory, of tiles of one other frame. -/
def full : State := tiled tiler (List.replicate 65536 (7, { tile 5 with frames := [9] })) []

theorem witness_TileInstructions_full : SMap.find full.tiles 0x200000 = none ∧ ¬ full.FrameTaken 0x200000 [1024] ∧ full.freeSlot 0 = some 0 ∧ 65536 ≤ full.tiles.length := by
  refine ⟨find_replicate _ _ _ _ (by decide), ?_, rfl, (List.length_replicate ..).ge⟩
  rintro ⟨e, he, _, f, hf, hm⟩
  have := List.eq_of_mem_replicate he
  subst this
  simp at hf hm; omega

theorem witness_TileInstructions_trel : (tiled tiler [] []).Here ∧ ((tiled tiler [] []).w.rdK 12).toNat % 2048 ≠ 0 ∧ ((tiled tiler [] []).w.rdK 8).toNat % 2048 = 0 ∧
    (∀ e ∈ (tiled tiler [] []).tiles, e.2.hold.grp ≠ (tiled tiler [] []).w.grp ∨ e.2.hold.base ≠ 0x200000) ∧
    (tiled tiler [(0x200000, tile 0)] []).tiles.find? (fun e => e.2.hold.grp == 0 && e.2.hold.base == 0x200000) = some (0x200000, tile 0) ∧ (tile 0).running = none ∧ (tile 0).surrendered = none ∧
    ({ tile 0 with running := some 3 } : TileEntry).running.isSome = true ∧ SMap.rising (tiled tiler [(0x200000, tile 0)] []).tiles = true := by
  unfold State.Here; decide

/-- A surrender routine of the tile of group 5, its delay in k8. -/
def routine : Warp := { strand with kind := .surrender, tile := 0x200000, k := [(8, 100)], grp := 5 }

theorem witness_TileInstructions_tsurr : (tiled tiler [] []).Here ∧ (tiled tiler [] []).w.kind = .normal ∧ (tiled routine [(0x200000, tile 5)] []).Here ∧ (tiled routine [(0x200000, tile 5)] []).w.kind = .surrender ∧
    SMap.find (tiled routine [(0x200000, tile 5)] []).tiles (tiled routine [(0x200000, tile 5)] []).w.tile = some (tile 5) ∧ (tile 5).hold.limit ≠ (tile 5).refusals ∧
    (∀ c rest, (tile 5).queue = .claim c :: rest → (tiled routine [(0x200000, tile 5)] []).groupColl c.grp = false) ∧ ({ tile 5 with refusals := 1 } : TileEntry).hold.limit = ({ tile 5 with refusals := 1 } : TileEntry).refusals :=
  ⟨rfl, rfl, rfl, rfl, rfl, by decide, fun _ _ h => (by cases h), by decide⟩

theorem witness_TileInstructions_tquery : (tiled tiler [(0x200000, tile 0)] []).Here ∧ (tiled tiler [(0x200000, tile 0)] []).inDomain = false ∧ ((tiled tiler [(0x200000, tile 0)] []).w.rdK 12).toNat % 2048 ≠ 0 ∧
    (∃ x, (tiled tiler [(0x200000, tile 0)] []).checkVa 0 (lowLane (tiled tiler [(0x200000, tile 0)] []).w.active) (tiled tiler [(0x200000, tile 0)] []).ctxNo 0x200000 .load (fun _ => false) = .ok x ∧ 0x200000 = x.pa 0x200000) ∧
    SMap.find (tiled tiler [(0x200000, tile 0)] []).tiles 0x200000 = some (tile 0) ∧ (tile 0).refusals < 8 ∧ (tile 0).queue.length < 32 ∧ (tile 0).hold.slot < 8 ∧ SMap.find (tiled tiler [] []).tiles 0x200000 = none :=
  ⟨rfl, rfl, by decide, ⟨⟨0x200000, 0x200000, 0x200C77⟩, by decide +kernel, by decide +kernel⟩, rfl, by decide, by decide, by decide, rfl⟩

/-- R328: the claim of a free tile is granted in the lowest slot; a claim on a held one waits in its queue. -/
theorem test_tclaim : ((after (.tclaim H 10 8 9 11 0 false 1 false) (tiled tiler [] [])).tiles.map fun e => (e.1, e.2.hold.grp, e.2.hold.slot)) = [(0x200000, 0, 0)] ∧
    ((after (.tclaim H 10 8 9 11 0 false 1 false) (tiled tiler [(0x200000, tile 5)] [])).tiles.map fun e => e.2.queue.length) = [1] := by
  decide +kernel

/-- The tile of group 0 with a claim of group 6 in its queue. -/
def wanted : TileEntry := { tile 0 with queue := [.claim (holding 6)] }

theorem witness_Recalls : SMap.find (tiled tiler [(0x200000, wanted)] []).tiles 0x200000 = some wanted ∧ (tiled tiler [(0x200000, wanted)] []).recallReady wanted = true ∧ (tiled tiler [(0x200000, wanted)] []).holderSaved wanted = false ∧
    SMap.find (tiled tiler [(0x200000, { wanted with delay := some 5 })] []).tiles 0x200000 = some { wanted with delay := some 5 } ∧ ({ wanted with delay := some 5 } : TileEntry).delay = some 5 ∧
    ¬ 5 ≤ (tiled tiler [(0x200000, { wanted with delay := some 5 })] []).clk ∧ 0 ≤ (tiled tiler [(0x200000, { wanted with delay := some 0 })] []).clk ∧
    ({ wanted with surrendered := some (0, 0), rel := some (0, 0) } : TileEntry).surrendered = some (0, 0) ∧ (tiled tiler [(0x200000, { wanted with surrendered := some (0, 0), rel := some (0, 0) })] []).tileBusy { wanted with surrendered := some (0, 0), rel := some (0, 0) } = false ∧
    (∃ f ∈ ((tiled tiler [(0x200000, { wanted with surrendered := some (0, 0), rel := some (0, 0) })] []).warpAt 0).inflight, f.seq = 0) ∧
    ({ wanted with handing := some (1, 0) } : TileEntry).handing = some (1, 0) ∧ (tiled tiler [(0x200000, { wanted with handing := some (1, 0) })] []).groupColl (holding 6).grp = false ∧
    ({ wanted with handing := some (1, 0), queue := [.access ask] } : TileEntry).queue = [.access ask] := by
  decide +kernel

theorem witness_Recalls_frames : ¬ (tiled tiler [(0x200000, { wanted with handing := some (1, 0) })] []).FrameTaken 0x200000 (holding 6).frames ∧
    (tiled tiler [(0x200000, { wanted with handing := some (1, 0) }), (0x300000, tile 5)] []).FrameTaken 0x200000 (holding 6).frames := by
  constructor <;> (unfold State.FrameTaken; decide)

/-- R330: the routine starts at its entry with the tile's base in k2. -/
theorem test_recall : let t := after (.recallStart 0x200000) (tiled tiler [(0x200000, wanted)] [])
    (t.warpAt 1).kind = .surrender ∧ (t.warpAt 1).rdK 2 = 0x200000 ∧ (t.warpAt 1).rdK 1 = 0x55 ∧ SMap.get 0 (t.warpAt 1).pcs 31 = 0x8030 ∧ (t.coreAt 0).surrender = some 1 := by
  decide +kernel

/-- R334: the claim at the head becomes the holder, with status 1 in its register. -/
theorem test_tileGrant : ((after (.tileGrant 0x200000) (tiled tiler [(0x200000, { wanted with handing := some (1, 0) })] [])).w.inflight.map fun f => (f.done, f.writes)) = [(true, [⟨.k 10, [(0, 1)]⟩])] := by
  decide +kernel

/-- An outcome of a packet check that accepts. -/
def accepts (r : Except Nat (Option Accepted)) : Bool := match r with | .ok (some _) => true | _ => false

theorem accepted {r : Except Nat (Option Accepted)} (h : accepts r = true) : ∃ a, r = .ok (some a) := by
  unfold accepts at h; split at h
  · exact ⟨_, rfl⟩
  · cases h

/-- A launch packet of type `t` at 0x10000, a kernel descriptor at 0x10080 with two warps in 4 register units, no trap vector. -/
def packetBytes (t : Byte) : Memory :=
  [(0x80000, t), (0x80003, 1), (0x80004, 1), (0x80008, 0x80), (0x8000A, 1),
   (0x80081, 0x80), (0x80089, 3), (0x80090, 0x24), (0x80091, 0x80), (0x80094, 2), (0x800A4, 0xFF), (0x800A5, 0xFF), (0x800A6, 0xFF), (0x800A7, 0xFF)]

/-- A queue of context 0 whose ring 1 stands at `base` with one packet. -/
def queue (base : Nat) : Queue := { Queue.reset with en := true, base := [(1, base)], tail := [(1, 1)] }

/-- The bench with that packet, queue 5, and the number of the context's next launch. -/
def launching (t : Byte) (base next : Nat) : State :=
  { bench with
    mgmt := { State.reset.mgmt with boot := .done }
    mem := tables ++ (if t = 0 then [] else packetBytes t), queues := [(5, queue base)]
    ctxs := [(0, { Ctx.reset with troot := 0x1000, nextLaunch := next, partition := 3, statuses := [(2, 7)] })] }

theorem witness_CommandQueues : ((1 : Nat) - (queue 0).headOf 0 : Int) % 2 ^ 32 ≤ 2 ^ SMap.get 4 (queue 0).logn 0 ∧ ((1 : Nat) - (queue 0).tailOf 0 : Int) % 2 ^ 32 ≤ 2 ^ SMap.get 4 (queue 0).logn 0 ∧
    ¬ ((17 : Nat) - (queue 0).headOf 0 : Int) % 2 ^ 32 ≤ 2 ^ SMap.get 4 (queue 0).logn 0 ∧ (launching 0 0x10000 2).ringReady 5 1 = true ∧ (launching 0 0x11000 2).ringReady 5 1 = true ∧
    (launching 0 0x11000 2).peekVa 0 0x11000 128 = .error 0x07 ∧ (launching 0 0x20000 2).peekVa 0 0x20000 128 = .error 0x04 ∧ (launching 0 0x10000 2).peekVa 0 0x10000 128 = .ok (List.replicate 128 0) ∧
    (packetOf (List.replicate 128 0)).type = 0 ∧
    1 ∈ (({ launching 0 0x10000 2 with queues := [(5, { queue 0x10000 with stopped := [1] })] } : State).queueAt 5).stopped ∧ (launching 0 0 2).mgmt.boot ≠ .recovery := by
  decide +kernel

theorem witness_CommandQueues_packets : (launching 1 0x10000 2).ringReady 5 1 = true ∧
    (∃ b, (launching 1 0x10000 2).peekVa 0 0x10000 128 = .ok b ∧ ∃ a, (launching 1 0x10000 2).checkPacket 0 false (packetOf b) = .ok (some a)) ∧
    (∃ b, (launching 2 0x10000 2).peekVa 0 0x10000 128 = .ok b ∧ (launching 2 0x10000 2).checkPacket 0 false (packetOf b) = .error 0x01 ∧ (packetOf b).done = 0) ∧
    (∃ b, (launching 0 0x10000 2).peekVa 0 0x10000 128 = .ok b ∧ (launching 0 0x10000 2).checkPacket 0 false (packetOf b) = .ok none) :=
  ⟨by decide +kernel, ⟨_, rfl, accepted (by decide +kernel)⟩, ⟨_, rfl, rfl, by decide +kernel⟩, _, rfl, rfl⟩

/-- R349, R356: the packet becomes a held grid with the next launch number, and HEAD is past it. -/
theorem test_packet : let t := after (.packetService 5 1) (launching 1 0x10000 2)
    (t.queueAt 5).headOf 1 = 1 ∧ (t.ctxAt 0).nextLaunch = 3 ∧ (t.grids.map fun g => (g.2.launch, g.2.ds.warps)) = [(1, 2), (2, 2)] := by
  decide +kernel

theorem witness_LaunchInstructions_lnch : (launching 1 0 2).Here ∧ (launching 1 0 2).inDomain = false ∧ ((launching 1 0 2).w.rdK 4).toNat % 128 = 0 ∧ (launching 1 0 2).lost = [] ∧
    (launching 1 0 2).checkVa 0 0 0 0x10000 .load (fun _ => false) = .ok leaf16 ∧ (launching 0 0 2).checkVa 0 0 0 0x10000 .load (fun _ => false) = .ok leaf16 ∧ (launching 2 0 2).checkVa 0 0 0 0x10000 .load (fun _ => false) = .ok leaf16 ∧
    (launching 0 0 2).checkPacket 0 false (packetOf ((List.range 128).map fun j => (launching 0 0 2).mem.read (leaf16.pa 0x10000 + j))) = .ok none ∧
    (∃ a, (launching 1 0 2).checkPacket 0 false (packetOf ((List.range 128).map fun j => (launching 1 0 2).mem.read (leaf16.pa 0x10000 + j))) = .ok (some a)) ∧
    (launching 2 0 2).checkPacket 0 false (packetOf ((List.range 128).map fun j => (launching 2 0 2).mem.read (leaf16.pa 0x10000 + j))) = .error 0x01 ∧
    (packetOf ((List.range 128).map fun j => (launching 2 0 2).mem.read (leaf16.pa 0x10000 + j))).done = 0 :=
  ⟨rfl, rfl, by decide, rfl, by decide +kernel, by decide +kernel, by decide +kernel, rfl, accepted (by decide +kernel), rfl, by decide +kernel⟩

/-- With launch numbers 1, 2 and 9 in k2, k5 and k7. -/
def waiter (next : Nat) : State :=
  { launching 0 0 next with warps := [(0, { strand with k := [(2, 1), (4, 0x10000), (5, 2), (7, 9)] })] }

theorem witness_LaunchInstructions_lnwait : (waiter 3).Here ∧ (waiter 3).collated = false ∧ (waiter 3).w.jump = false ∧ ((waiter 3).w.rdK 9).toNat = 0 ∧ ((waiter 3).ctxAt (waiter 3).ctxNo).nextLaunch ≤ ((waiter 3).w.rdK 7).toNat ∧
    ((waiter 70000).w.rdK 2).toNat ≠ 0 ∧ ((waiter 70000).w.rdK 2).toNat + 65536 < ((waiter 70000).ctxAt (waiter 70000).ctxNo).nextLaunch ∧ ((waiter 3).w.rdK 5).toNat < 3 ∧ 3 ≤ ((waiter 3).w.rdK 5).toNat + 65536 ∧
    (¬ ∃ e ∈ (waiter 3).grids, e.2.ctx = 0 ∧ e.2.launch = ((waiter 3).w.rdK 5).toNat) ∧ ∃ e ∈ (waiter 3).grids, e.2.ctx = 0 ∧ e.2.launch = ((waiter 3).w.rdK 2).toNat := by
  refine ⟨rfl, rfl, ?_⟩; decide +kernel

/-- The same of a warp of a domain, with clock 5. -/
def waiterDomain (next : Nat) : State :=
  { waiter next with
    warps := [(0, { strand with lclk := 5, grpLclk := 5, k := [(2, 1), (4, 0x10000), (5, 2), (7, 9)] })], domains := [(0, { Domain.empty with owner := some 0, grids := [0], point := some (0, 0) })]
    grids := [(0, { plainGrid with ds := { kernel with shape := kernel.shape + 128, log2g := 6, wave := 1 }, nextWave := 1 })], ctxs := [(0, { (launching 0 0 next).ctxAt 0 with statuses := [] })] }

theorem witness_LaunchInstructions_domain : (waiterDomain 3).Here ∧ (waiterDomain 3).collated = true ∧ (waiterDomain 3).w.jump = false ∧ (waiterDomain 3).w.owed = none ∧ (H : Hdr).c = false ∧ 0 < (waiterDomain 3).g ∧
    ((waiterDomain 3).ctxAt (waiterDomain 3).ctxNo).nextLaunch ≤ ((waiterDomain 3).w.rdK 7).toNat ∧ ((waiterDomain 70000).w.rdK 2).toNat + 65536 < ((waiterDomain 70000).ctxAt (waiterDomain 70000).ctxNo).nextLaunch ∧
    ((waiterDomain 3).w.rdK 5).toNat ≠ 0 ∧ ((waiterDomain 3).w.rdK 5).toNat < 3 ∧ SMap.get 0 ((waiterDomain 3).ctxAt 0).statuses 2 = 0 ∧
    (¬ ∃ e ∈ (waiterDomain 3).grids, e.2.ctx = 0 ∧ e.2.launch = ((waiterDomain 3).w.rdK 5).toNat) ∧ ∃ e ∈ (waiterDomain 3).grids, e.2.ctx = 0 ∧ e.2.launch = ((waiterDomain 3).w.rdK 2).toNat := by
  refine ⟨rfl, ?_⟩; decide +kernel

/-- R375, R428: in a domain lnwait jumps to the boundary after a launch that ended with status 0, and waits for one that is open. -/
theorem test_lnwait_domain : (after (.lnwait H 8 5 1) (waiterDomain 3)).w.owed = some 64 ∧ (after (.lnwait H 8 7 1) (waiterDomain 3)).w.lclk = 9 ∧ (after (.lnwait H 8 2 1) (waiterDomain 3)).w.waiting = true := by
  decide +kernel

/-- R372: 2 for a number not given out, 3 for one too old, the status of one that is over; an open one waits. -/
theorem test_lnwait : let v (i : Instr) (s : State) := (after i s).w.inflight.map fun f => (f.done, f.writes.map fun x => SMap.get 99 x.vals 0)
    v (.lnwait H 8 7 1) (waiter 3) = [(true, [2])] ∧ v (.lnwait H 8 2 1) (waiter 70000) = [(true, [3])] ∧ v (.lnwait H 8 5 1) (waiter 3) = [(true, [7])] ∧ v (.lnwait H 8 2 1) (waiter 3) = [(false, [])] := by
  decide +kernel

/-- Ring 1 of queue 5 in page 16, with `n` packets. -/
def posting (n : Nat) : State := { launching 0 0 2 with queues := [(5, { queue 0x10800 with tail := [(1, n)] })] }

theorem witness_LaunchInstructions_qpost : (posting 1).Here ∧ ((posting 1).w.rdK 4).toNat % 128 = 0 ∧ (posting 1).checkVa 0 0 0 0x10000 .load (fun _ => false) = .ok leaf16 ∧ ((posting 1).queueAt 6).en = false ∧
    ((posting 1).queueAt 5).en = true ∧ ((posting 1).queueAt 5).ctx = (posting 1).ctxNo ∧ 2 ^ SMap.get 4 ((posting 16).queueAt 5).logn 1 ≤ sub32 (((posting 16).queueAt 5).tailOf 1) (((posting 16).queueAt 5).headOf 1) ∧
    sub32 (((posting 1).queueAt 5).tailOf 1) (((posting 1).queueAt 5).headOf 1) < 16 ∧ (posting 1).placeVa 0 (0x10800 + 128 * (1 % 16)) 128 true = .ok ((List.range 128).map (0x80880 + ·)) ∧ ((List.range 128).map (0x80880 + ·)).Nodup ∧
    ((List.range 128).map (0x80880 + ·)).length = 128 := by
  refine ⟨rfl, ?_⟩; decide +kernel

theorem witness_LaunchInstructions_lmap : (launching 0 0 2).Here ∧ ((launching 0 0 2).w.rdK 6).toNat < ((launching 0 0 2).logical (launching 0 0 2).ctxNo).length ∧
    ((launching 0 0 2).logical (launching 0 0 2).ctxNo).length ≤ ((launching 0 0 2).w.rdK 4).toNat ∧ ((launching 0 0 2).w.rdK 4).toNat ∉ (launching 0 0 2).logical (launching 0 0 2).ctxNo := by
  refine ⟨rfl, ?_⟩; decide +kernel

/-- A grid dealt to clusters. -/
def dealt (st : GridSt) (ranges : SMap (List Nat)) (ended : Nat) (killed : Bool) (done : Nat) : Grid :=
  { plainGrid with st := st, ranges := ranges, nextWave := 1, ended := ended, killed := killed, pk := { plainGrid.pk with ngroups := 4, done := done }, ds := { kernel with part := 4 + 4 * 2 ^ 5 } }

/-- Grid 1 beside the bench, or alone. -/
def twoGrids (x : Grid) : State :=
  { launching 0 0 3 with
    grids := [(0, plainGrid), (1, { x with launch := 2 })]
    warps := [(0, { strand with seqNo := 1, inflight := [⟨0, 1, false, [], 0, []⟩], lnwaits := [(0, 2, 8)] })] }

theorem witness_Grids_release : SMap.find (twoGrids (dealt .held [] 0 false 0)).grids 1 = some { dealt .held [] 0 false 0 with launch := 2 } ∧ (twoGrids (dealt .held [] 0 false 0)).mayRelease 1 = true ∧
    (dealt .held [] 0 false 0).sedge.ranges = [] ∧ (dealt .held [] 0 false 0).ds.persist = false ∧ [3, 1].sum ≠ 0 ∧ dealOut (List.range 4) [3, 1] = [[0, 1, 2], [3]] := by
  decide +kernel

theorem witness_Grids_start : SMap.rising (twoGrids (dealt .running [(0, [2, 3])] 0 false 0)).warps = true ∧ SMap.rising (twoGrids (dealt .running [(0, [2, 3])] 0 false 0)).groups = true ∧
    (twoGrids (dealt .running [(0, [2, 3])] 0 false 0)).grids.find? (fun e => ((twoGrids (dealt .running [(0, [2, 3])] 0 false 0)).tryGang e.1 0).isSome) = some (1, { dealt .running [(0, [2, 3])] 0 false 0 with launch := 2 }) ∧
    (dealt .running [(0, [2, 3])] 0 false 0).ds.paired = false ∧ (dealt .running [(0, [2, 3])] 0 false 0).ds.coll = false ∧ (dealt .running [(0, [2, 3])] 0 false 0).nextWave ≠ 0 ∧ (dealt .running [(0, [2, 3])] 0 false 0).pk.gang = 1 ∧
    SMap.get [] (dealt .running [(0, [2, 3])] 0 false 0).ranges 0 = 2 :: [3] ∧ 2 < (dealt .running [(0, [2, 3])] 0 false 0).pk.ngroups ∧
    ((twoGrids (dealt .running [(0, [2, 3])] 0 false 0)).units false 0).find? (fun c => decide (0 < (twoGrids (dealt .running [(0, [2, 3])] 0 false 0)).roomAt 1 c)) = some 1 := by
  decide +kernel

/-- R357, R360: core 0 holds another grid, so the group starts on core 1, with two warps. -/
theorem test_gangStart : let t := after (.gangStart 0) (twoGrids (dealt .running [(0, [2, 3])] 0 false 0))
    (t.groups.map fun g => (g.2.gidx, g.2.core)) = [(0, 0), (2, 1)] ∧ t.warps.length = 3 ∧ (t.warpAt 1).rdK 1 = 2 ∧ SMap.get 0 (t.warpAt 2).pcs 31 = 0x8000 ∧ (t.gridAt 1).ranges = [(0, [3])] := by
  decide +kernel

theorem witness_Grids_steal : (∃ r, (twoGrids (dealt .running [(0, []), (1, [0, 1, 2])] 0 false 0)).grids.findSome? (fun e => ((twoGrids (dealt .running [(0, []), (1, [0, 1, 2])] 0 false 0)).stealRanges e.1 0).map fun r => (e.1, r)) = some (1, r)) ∧
    longest (((twoGrids (dealt .running [(0, []), (1, [0, 1, 2])] 0 false 0)).gridAt 1).ranges.filter fun r => r.1 / 12 == 0 / 12 && r.1 != 0) = some (1, [0, 1, 2]) ∧
    (SMap.find (twoGrids (dealt .running [(0, []), (1, [0, 1, 2])] 0 false 0)).grids 1).isSome = true :=
  ⟨⟨[(0, [2]), (1, [0, 1])], by decide +kernel⟩, by decide +kernel, rfl⟩

/-- A warp all of whose threads have exited, in a group with `n` warps left. -/
def spent (n : Nat) : State := machine { strand with exited := 0xFFFFFFFF, active := 0, inRun := false } { plainGroup with warpsLeft := n } plainGrid

theorem witness_Grids_end : (∃ w, SMap.find (spent 2).warps 0 = some w) ∧ (spent 2).warpDone 0 = true ∧ (spent 2).twinOf 0 = none ∧ ((spent 2).gridAt ((spent 2).groupAt 0).grid).ds.persist = false ∧ (spent 2).tiles = [] ∧
    SMap.rising (spent 2).warps = true ∧ 1 < ((spent 2).groupAt 0).warpsLeft ∧ (spent 1).warpDone 0 = true ∧ ((spent 1).groupAt 0).warpsLeft = 1 ∧ (spent 1).groupDone 0 = true ∧ (SMap.find (spent 1).grids ((spent 1).groupAt 0).grid).isSome = true ∧
    (dealt .running [] 4 false 0).pk.ngroups ≤ (dealt .running [] 4 false 0).ended ∧ (dealt .running [] 4 false 0).eedge.ranges = [] ∧ (dealt .running [] 3 false 0).ended < (dealt .running [] 3 false 0).pk.ngroups ∧
    SMap.find (twoGrids (dealt .running [] 4 false 0)).grids 1 = some { dealt .running [] 4 false 0 with launch := 2 } := by
  refine ⟨⟨_, rfl⟩, ?_⟩; decide +kernel

theorem witness_Grids_complete : let s := twoGrids (dealt .ending [] 4 false 0x10040)
    SMap.find s.grids 1 = some { dealt .ending [] 4 false 0x10040 with launch := 2 } ∧ SMap.rising s.grids = true ∧ (∀ e ∈ s.groups, e.2.grid ≠ 1) ∧ s.placeVa 0 0x10040 8 true = .ok ((List.range 8).map (0x80040 + ·)) ∧
      ((List.range 8).map (0x80040 + ·)).Nodup ∧ s.lost = [] ∧ 2 < (s.ctxAt 0).nextLaunch ∧ (s.ctxAt 0).nextLaunch ≤ 2 + 65536 ∧ SMap.rising (s.ctxAt 0).statuses = true ∧
      (s.warpAt 0).lnwaits = [(0, 2, 8)] ∧ (s.groupAt (s.warpAt 0).grp).grid ≠ 1 ∧ (s.gridAt (s.groupAt (s.warpAt 0).grp).grid).ctx = 0 ∧ ∃ f ∈ (s.warpAt 0).inflight, f.seq = 0 := by
  decide +kernel

/-- The last warp of a group as it ends, beside a copy that counts on none of its counters. -/
def ghost : State := { spent 1 with groups := [(0, { plainGroup with warpsLeft := 1, chans := [(0, { Chan.empty with copies := [{ src := 0x10000, dst := 0, len := 64, s2g := false, at_ := 0, got := [], warp := 0, seq := 0 }] })] })] }

theorem witness_Grids_busy : (spent 1).groupBusy 0 = false ∧ ghost.groupBusy 0 = true ∧ ghost.warpDone 0 = true ∧ ghost.groupDone 0 = true := by
  decide +kernel

/-- R76: the group ends with its last warp, and what no counter counts goes on after it. -/
theorem test_warpEnd_busy : (after (.warpEnd 0) ghost).grid.ended = 1 ∧ ((after (.warpEnd 0) ghost).groupAt 0).warpsLeft = 0 ∧ (after (.warpEnd 0) ghost).groups.length = 1 ∧ (after (.warpEnd 0) (spent 1)).groups = [] := by
  decide +kernel

/-- R365: the completion word is the launch number times 256 plus the status, and lnwait gets the status. -/
theorem test_gridComplete : let t := after (.gridComplete 1) (twoGrids (dealt .ending [] 4 false 0x10040))
    t.number 0x80040 8 = 0x200 ∧ SMap.find t.grids 1 = none ∧ SMap.get 9 (t.ctxAt 0).statuses 2 = 0 ∧ (t.w.inflight.map fun f => (f.done, f.writes)) = [(true, [⟨.k 8, [(0, 0)]⟩])] := by
  decide +kernel

/-- Lane 2 of warp `h` stopped by a brk at 0x8000. -/
def stopped : Stop := { lane := 2, cause := 0x0C, detail := 0, pc := 0x8000, resume := 0x8004, skip := 0x8004, ea := 0x1234, aux := 0, mask := 4, axf := 0, dispatched := false, recIdx := 0, copy := none, seq := 0, note := none, late := none }

/-- A warp with that thread stopped and no run open, its context's ring at 0x10000 with `live` records, its kernel with or without a trap vector at 0x60. -/
def trapped (dbg vec : Bool) (live : List LiveRec) : State :=
  { machine { strand with inRun := false, active := 0, stops := [stopped] } plainGroup { plainGrid with ds := { kernel with trapv := if vec then 0x60 else 0xFFFFFFFF } } with
    ctxs := [(0, { Ctx.reset with troot := 0x1000, nextLaunch := 2, partition := 1, trbase := 0x400, dbg := dbg, live := live })] }

theorem witness_TrapDelivery : (SMap.find (trapped false true []).warps 0).isSome = true ∧ (trapped false true []).mayDispatch 0 = true ∧ (trapped true false []).mayDispatch 0 = true ∧ (trapped false false []).mayDispatch 0 = true ∧
    (((trapped false true []).warpAt 0).stops.filter fun t => !t.dispatched) = [stopped] ∧ (∃ r ∈ ((trapped false true [⟨0, 7, 7, true⟩]).ctxAt 0).live, r.idx = 0) ∧ (trapped false true [⟨0, 7, 7, true⟩]).mayDispatch 0 = true ∧
    (∀ r ∈ ((trapped false true []).ctxAt 0).live, r.idx ≠ 0) ∧ (trapped false true []).walk 0 0x10000 = .ok leaf16 ∧ (trapped false true []).pageLost leaf16 = false ∧ pteP leaf16.pte = true ∧ pteW leaf16.pte = true ∧
    (trapped false true []).homeFailed (leaf16.pa 0x10000) = false ∧ ((trapped true false []).ctxAt 0).dbg = true ∧ ((trapped false true []).gridAt 0).ds.trapv ≠ 0xFFFFFFFF ∧ ((trapped false false []).gridAt 0).ds.trapv = 0xFFFFFFFF ∧
    (SMap.find (trapped false false []).grids 0).isSome = true ∧ ((trapped false false []).gridAt 0).killed = false := by
  decide +kernel

/-- R383, R384: the record's cause, address, value and flags in the ring, and HEAD. -/
theorem test_dispatch : let t := after (.trapDispatch 0) (trapped true false [])
    t.number 0x80000 1 = 0x0C ∧ t.number 0x80001 1 = 2 ∧ t.number 0x80008 8 = 0x8000 ∧ t.number 0x80010 8 = 0x1234 ∧ t.number 0x8001A 1 = 2 ∧ (t.ctxAt 0).trhead = 1 := by
  decide +kernel

/-- The dispatched thread's wave, due on die 0. -/
def waved : State :=
  { trapped false true [⟨0, 0, 2, true⟩] with
    warps := [(0, { strand with inRun := false, active := 0, stops := [{ stopped with dispatched := true }] })], dies := [(0, { Die.reset with gathers := [⟨0, 0, [(0, 2, 0)]⟩] })], clk := 64 }

theorem witness_TrapDelivery_wave : ((waved.dieAt 0).waves ++ (waved.dieAt 0).gathers.filter fun x => decide (x.since + 64 ≤ waved.clk)).find? (fun x => waved.waveMayStart x) = some ⟨0, 0, [(0, 2, 0)]⟩ ∧
    waved.handlerCore 0 0 = some 0 ∧ ([(0, 2, 0)] : List (Nat × Nat × Nat)).length ≤ 32 ∧ (waved.warpAt 0).stops.find? (fun q => q.lane == 2) = some { stopped with dispatched := true } := by
  decide +kernel

/-- R386: one lane at the trap vector, with the record's detail, value and address in its registers. -/
theorem test_handler_start : let t := after (.handlerWaveStart 0) waved
    (t.warpAt 1).kind = .handler ∧ (t.warpAt 1).exited = 0xFFFFFFFE ∧ SMap.get 0 (t.warpAt 1).pcs 0 = 0x8060 ∧ (t.warpAt 1).rdV 3 0 = 0x1234 ∧ (t.warpAt 1).rdV 5 0 = 0x8000 ∧ (t.warpAt 1).rdK 2 = 0x10000 := by
  decide +kernel

/-- A handler wave whose lane 0 serves lane 2 of warp 1. -/
def handling : State :=
  { trapped false true [⟨0, 1, 2, true⟩] with
    warps := [(0, { strand with kind := .handler, active := 1, exited := 0xFFFFFFFE, origins := [(0, ⟨1, 2, 0⟩)] }), (1, { strand with inRun := false, active := 0, stops := [{ stopped with dispatched := true }] })] }

theorem witness_HandlerInstructions : bench.Here ∧ bench.w.kind = .normal ∧ handling.Here ∧ handling.w.kind = .handler ∧ lanesOf handling.w.active = [0] ∧ SMap.find handling.w.origins 0 = some ⟨1, 2, 0⟩ ∧ 1 ≠ handling.cur ∧
    (∃ v, SMap.find handling.warps 1 = some v ∧ v.kind = .normal ∧ v.stops.find? (fun q => q.lane == 2) = some { stopped with dispatched := true } ∧ stopped.late = none ∧ handling.groupColl v.grp = false ∧
      (SMap.find handling.grids (handling.groupAt v.grp).grid).isSome = true ∧ (handling.gridAt (handling.groupAt v.grp).grid).killed = false) := by
  refine ⟨rfl, rfl, rfl, rfl, by decide, rfl, by decide, _, rfl, rfl, rfl, rfl, rfl, rfl, rfl⟩

/-- R392: the skipped thread stands after its instruction and its record is not live. -/
theorem test_rft : let t := after (.rft H .skip) handling
    SMap.get 0 (t.warpAt 1).pcs 2 = 0x8004 ∧ (t.warpAt 1).stops.length = 0 ∧ (t.ctxAt 0).live.length = 0 ∧ t.w.exited = 0xFFFFFFFF := by
  decide +kernel

/-- R398: orgw writes the high half of the origin's k6. -/
theorem test_orgw : ((after (.orgw H 1 6 .kh 1) handling).warpAt 1).rdK 6 = 0x100000007 ∧ ((after (.orgr H 9 6 .k 1) handling).w.inflight.map (·.writes)) = [[⟨.v 9, [(0, 7)]⟩]] := by
  decide +kernel

theorem witness_SpecialRegisters : bench.Here ∧ bench.w.kind = .normal ∧ bench.flagsSettled = true ∧ bench.w.isWindow 1 = false ∧ blocks.Here ∧ blocks.w.kind = .normal ∧ blocks.w.isWindow (56 : BitVec 6).toNat = true ∧
    bench.w.readRegs [1] [] = .ok (readsOf bench.w [1], []) ∧ SReg.lclk ≠ .fpc ∧ SReg.lclk ≠ .axf ∧ SReg.lclk ≠ .tmask ∧ SReg.lclk ≠ .bx1 ∧ SReg.lclk ≠ .bx2 ∧ SReg.lclk ≠ .bx3 ∧ (1 : Dc) ≠ 7 :=
  ⟨rfl, rfl, rfl, rfl, rfl, rfl, rfl, rfl, by decide⟩

/-- Table 19.6: LANE of each lane, and WIDX; R395: a write of LCLK is not permitted. -/
theorem test_gets : result (after (.gets H 5 .lane false)) (.v 5) 3 = some 3 ∧ result (after (.gets H 5 .ngrp true)) (.k 5) 0 = some 1 ∧ ((after (.sets H 5 .lclk true)).w.stops.map fun p => (p.cause, p.detail)) = [(3, 0x13), (3, 0x13), (3, 0x13), (3, 0x13)] := by
  decide +kernel


/-! ### Contexts (chapters 19 and 22) -/

/-- The bench with context 0 as given, the warp's run closed. -/
def inCtx (x : Ctx) : State := { machine { strand with inRun := false, active := 0 } plainGroup plainGrid with ctxs := [(0, x)], clk := 4000000 }
/-- A context of the bench. -/
def ctx0 : Ctx := { Ctx.reset with troot := 0x1000, nextLaunch := 2, partition := 1 }
/-- The image of core 0. -/
def image0 : Image := ⟨[{ core := 0, logical := 0, grid := 0, part := 0, acc := [], matq := [], handler := none }]⟩
/-- An END segment as the only one, its CRC right or wrong. -/
def onlyEnd (ok : Bool) : List Byte := segBytes 0xFF 0 0 4 (if ok then [1, 0, 0, 0] else [2, 0, 0, 0])

/-- CRC32C of the nine digits is the check value of that CRC. -/
theorem test_crc32c : crc32c [0x31, 0x32, 0x33, 0x34, 0x35, 0x36, 0x37, 0x38, 0x39] = 0xE3069283 := by
  decide +kernel

theorem witness_Contexts_requests : let free := (inCtx ctx0).ctxAt 0; let x := (inCtx { ctx0 with restoring := true }).ctxAt 0; let y := (inCtx { ctx0 with saved := true }).ctxAt 0; let d := inCtx { ctx0 with draining := true, prqAt := 4 }
    free.restoring = false ∧ free.draining = false ∧ free.saving = false ∧ free.saved = false ∧ x.restoring = true ∧ y.restoring = false ∧ y.draining = false ∧ y.saving = false ∧ y.saved = true ∧
    (d.ctxAt 0).draining = true ∧ (d.ctxAt 0).saving = false ∧ (d.ctxAt 0).prqAt + 1800 * (d.ctxAt 0).pdl ≤ d.clk := by
  decide +kernel

theorem witness_Contexts_pasid : let s := { bench with ctxs := [(0, ctx0), (1, { ctx0 with bound := true, pasid := 9 })] }
    ((0x80000009 : Nat).testBit 31 = true ∧ ∃ e ∈ s.ctxs, e.1 ≠ 0 ∧ e.2.bound = true ∧ e.2.pasid = 0x80000009 % 2 ^ 20) ∧ ¬ ((0x80000008 : Nat).testBit 31 = true ∧ ∃ e ∈ s.ctxs, e.1 ≠ 0 ∧ e.2.bound = true ∧ e.2.pasid = 0x80000008 % 2 ^ 20) := by
  decide +kernel

/-- A stopped thread whose record the host holds, its DISP skip. -/
def hostHeld : State :=
  { trapped true false [⟨0, 0, 2, false⟩] with
    mem := tables ++ [(0x8001B, 1)], warps := [(0, { strand with inRun := false, active := 0, stops := [{ stopped with dispatched := true }] })] }

theorem witness_Contexts_release : (hostHeld.ctxAt 0).live.find? (fun r => r.idx == 0 && !r.served) = some ⟨0, 0, 2, false⟩ ∧ hostHeld.peekVa 0 ((hostHeld.ctxAt 0).trbase * 64 + 64 * 0 + 27) 1 = .ok [1] ∧
    RftMode.ofNat? ((1 : Byte).toNat % 4) = some .skip ∧ RftMode.skip ≠ .abort ∧ (hostHeld.warpAt 0).kind = .normal ∧ hostHeld.ctxOf 0 = 0 ∧ (SMap.find hostHeld.warps 0).isSome = true ∧
    (hostHeld.warpAt 0).stops.find? (fun q => q.lane == 2) = some { stopped with dispatched := true } ∧ stopped.late = none ∧ hostHeld.groupColl (hostHeld.warpAt 0).grp = false := by
  decide +kernel

/-- R385: DISP 1 resumes the thread after its instruction. -/
theorem test_trres : let t := after (.trresWrite 0 0) hostHeld
    SMap.get 0 (t.warpAt 0).pcs 2 = 0x8004 ∧ (t.ctxAt 0).live.length = 0 := by
  decide +kernel

theorem witness_Contexts_save : let s := inCtx { ctx0 with saving := true, draining := true, saveAt := 4 }; let d := inCtx { ctx0 with saving := true, draining := true, image := some image0 }
    (s.ctxAt 0).saving = true ∧ (s.ctxAt 0).image = none ∧ s.allHalted 0 = true ∧ SMap.rising s.warps = true ∧ (s.gridAt (s.groupAt (s.warpAt 0).grp).grid).ctx = 0 ∧ (s.ctxAt 0).saveAt + 1800 * (s.ctxAt 0).sdl ≤ s.clk ∧
      (d.ctxAt 0).saving = true ∧ (d.ctxAt 0).image ≠ none ∧ 5 < ((inCtx { ctx0 with savebase := 1, saving := true }).ctxAt 0).savebase * 2 ^ 21 ∧ s.shadow = [] ∧ ∀ m ∈ ([] : List CoreImage), (s.segments 0 m).length ≤ 2240 := by
  refine ⟨?_, ?_, ?_, ?_, ?_, ?_, ?_, ?_, ?_, rfl, by simp⟩ <;> decide +kernel

/-- R401, R402: the cut takes the warp off its core, and keeps its registers. -/
theorem test_segmentCut : let t := after (.segmentCut 0) (inCtx { ctx0 with saving := true, draining := true })
    (t.coreAt 0).slots = [] ∧ (t.coreAt 0).grid = none ∧ (t.warpAt 0).halted = true ∧ (t.warpAt 0).rdV 1 2 = 3 ∧ (t.gridAt 0).saved = true := by
  decide +kernel

/-- The context saved whole (or broken), its core empty, and a restore under way. -/
def restoring (ok : Bool) : State :=
  { inCtx { ctx0 with saved := true, restoring := true, image := some image0 } with
    warps := [(0, { strand with inRun := false, active := 0, halted := true })], cores := [(0, Core.reset)], grids := [(0, { plainGrid with saved := true })], shadow := [(0, { ctx := 0, logical := 0, slots := [onlyEnd ok], staged := false, out := none })] }

theorem witness_Contexts_restore : let x := (restoring false).ctxAt 0; let y := (restoring true).ctxAt 0
    x.restoring = true ∧ (∃ im, x.image = some im ∧ (restoring false).imageOk 0 im = false) ∧ y.restoring = true ∧ y.image = some image0 ∧ (restoring true).imageOk 0 image0 = true ∧ (restoring true).placeImages 0 image0.cores [] = some [(0, 0)] ∧
      ((restoring true).putImages 0 image0.cores [(0, 0)]).isSome = true ∧ y.heldPrq = false ∧ SMap.rising (restoring true).warps = true ∧ ((restoring true).warpAt 0).marks = [] := by
  refine ⟨rfl, ⟨_, rfl, by decide +kernel⟩, rfl, rfl, ?_⟩; decide +kernel

theorem test_restore : let t := after (.restoreComplete 0) (restoring true)
    (t.ctxAt 0).st = 0 ∧ (t.warpAt 0).halted = false ∧ (t.coreAt 0).grid = some 0 ∧ (after (.restoreComplete 0) (restoring false)).ctxAt 0 = { ctx0 with incomplete := true } := by
  decide +kernel

theorem witness_Contexts_restore_segments : (restoring true).placeImages 0 image0.cores [] = some [(0, 0)] ∧ SMap.rising (restoring true).groups = true ∧ (image0.cores.map (·.core)).Nodup ∧
    (∃ v, (restoring true).imageWarps 0 0 = [(0, v)] ∧ v.marks = []) ∧ (restoring true).imageSides 0 0 = [] ++ (0, false) :: [] ∧ 0 < (restoring true).splOf 0 ∧ 0 < ((restoring true).gridAt 0).ds.acc := by
  refine ⟨by decide +kernel, rfl, by decide, ⟨_, rfl, rfl⟩, rfl, by decide +kernel, by decide +kernel⟩

/-- R403, R405: a restore takes register v0 of lane 0 from the image's segment of vector registers. -/
theorem test_restore_segment : let s := { restoring true with shadow := [(0, { ctx := 0, logical := 0, slots := [segBytes 2 0 0 4 [5, 0, 0, 0], segBytes 0xFF 1 0 4 [2, 0, 0, 0]], staged := true, out := none })] }
    s.imageOk 0 image0 = true ∧ ((after (.restoreComplete 0) s).warpAt 0).rdV 0 0 = 5 ∧ ((after (.restoreComplete 0) s).warpAt 0).rdV 0 1 = 0 := by
  decide +kernel

theorem witness_Contexts_staging : let s := inCtx { ctx0 with saved := true, image := some image0 }; let r := { bench with mgmt := { bench.mgmt with boot := .recovery } }
    (s.ctxAt 0).restoring = false ∧ (s.ctxAt 0).draining = false ∧ (s.ctxAt 0).saving = false ∧ (s.ctxAt 0).saved = true ∧ SMap.find s.shadow 0 = none ∧ (s.ctxAt 0).image = some image0 ∧
      (∃ m, image0.cores.filter (fun m => m.core == 0) = [m]) ∧ (∀ m ∈ image0.cores, m.core ≠ 1) ∧ s.mgmt.boot ≠ .recovery ∧ r.mgmt.boot = .recovery := by
  refine ⟨rfl, rfl, rfl, rfl, rfl, rfl, ⟨_, rfl⟩, ?_⟩; decide

/-- Sectors 0 to 3 of frame 256 in core 0's L1 alone, dirty at sector 1. -/
def ownedSectors : State := { bench with cache := { Caches.reset with quires := [(0, [⟨0x100, 0, 3, .m, [1], 0, 0, 3, 0, none⟩])] } }

theorem witness_Contexts_units : ownedSectors.Calm ∧ ownedSectors.Alone 0 0x100 2 ∧ (∀ e ∈ ownedSectors.ctxs, e.2.live = []) ∧ (∀ e ∈ ownedSectors.warps, e.2.handEnd = []) ∧
    (∀ u ∈ [FUnit.core 0, .cluster 0, .die 0, .hbm 0 0 [0x100], .lane 0 0], unitOk u = true ∧ ownedSectors.fenceWaits (unitCores u) = false) := by
  refine ⟨⟨rfl, rfl, by decide⟩, ⟨⟨_, .head _, rfl, .inl rfl, rfl, by decide, by decide⟩, ?_⟩, by decide, by decide, by decide +kernel⟩
  intro a ha q hq _
  exact absurd hq (by simp [State.quires, Caches.at_, ownedSectors, SMap.get, ha])

/-- R229, R368: what the fenced core's L1 held alone is lost; a fence of the cluster drains the context of its cores as well. -/
theorem test_fence_units : (after (.fenceUnit false (.core 0)) ownedSectors).lost = [0x4000, 0x4001, 0x4002, 0x4003] ∧ ((after (.fenceUnit false (.cluster 0)) bench).dieAt 0).fenced = 0xFF ∧
    ((after (.fenceUnit false (.cluster 0)) bench).ctxAt 0).draining = true := by
  decide +kernel

theorem witness_Contexts_fence : let inSession := bench.modMgmt fun m => { m with session := true }; let d := inCtx { ctx0 with draining := true }
    inSession.mgmt.session = true ∧ d.mgmt.session = false ∧ d.fenceWaits [0] = true ∧ FUnit.core 0 ∉ d.mgmt.fences ∧ bench.fenceWaits [0] = false ∧ bench.w.core = 0 ∧ bench.w.halted = false ∧ (bench.ctxAt 0).saved = false := by
  decide +kernel

/-- R366, R368: fencing core 0 sets its bit and drains the context on it. -/
theorem test_fence : let t := after (.fenceUnit false (.core 0)) bench
    (t.dieAt 0).fenced = 1 ∧ t.mgmt.version = 1 ∧ (t.ctxAt 0).draining = true ∧ (t.ctxAt 0).forFence = true := by
  decide +kernel

/-- Queue 0, whose timer started at clk 0, at a step of its watchdog with 1 ms for each. -/
def timed (step : Nat) : State := { bench with queues := [(0, { Queue.reset with qwd := 1 + 2 ^ 12 + 2 ^ 22, wdSince := some 0, wdStep := step })], grids := [(0, { plainGrid with killed := step == 2 })], clk := 5400000 }

theorem witness_Contexts_watchdog : let x (n : Nat) := (timed n).queueAt 0
    (∀ n, n < 3 → (x n).wdSince = some 0 ∧ (x n).wdStep = n ∧ (x n).qwd % 2 ^ 12 = 1 ∧ (x n).qwd / 2 ^ 12 % 2 ^ 10 = 1 ∧ (x n).qwd / 2 ^ 22 % 2 ^ 10 = 1 ∧ 0 + 1800000 * (1 + 1 + 1) ≤ (timed n).clk) ∧
      (∀ e ∈ (timed 1).grids, ((timed 1).ctxAt ((timed 1).gridAt e.1).ctx).saving = false) ∧ ((timed 0).gridAt 0).queue = 0 ∧ ((timed 0).gridAt 0).saved = false ∧ ((timed 0).ctxAt 0).st = 0 ∧ ((timed 2).gridAt 0).killed = true := by
  decide +kernel

theorem test_watchdog : ((after (.watchdogPreempt 0) (timed 0)).ctxAt 0).draining = true ∧ ((after (.watchdogKill 0) (timed 1)).gridAt 0).killed = true ∧ ((after (.watchdogFence 0) (timed 2)).dieAt 0).fenced = 1 := by
  decide +kernel

theorem witness_Contexts_tables : let s := { bench with grids := [] }; let two := { s with ctxs := [(0, ctx0), (1, { ctx0 with partition := 6 })] }; let inSession := bench.modMgmt fun m => { m with session := true }
    ¬ (inSession.mgmt.session = false ∨ false = true) ∧ s.mgmt.session = false ∧ (∀ e ∈ two.ctxs, e.1 ≠ 0 → e.2.partition &&& (8 % 2 ^ 288) = 0) ∧ (∀ e ∈ s.grids, e.2.ctx ≠ 0) ∧ (s.ctxAt 0).image = none ∧ 8 % 2 ^ 288 ≠ (s.ctxAt 0).partition ∧
      (∃ e ∈ two.ctxs, e.1 ≠ 0 ∧ e.2.partition &&& (4 % 2 ^ 288) ≠ 0) ∧ 0x80000 ∈ ({ bench with lostPages := [0x80000] } : State).lostPages := by
  decide +kernel

theorem witness_Contexts_failure : let s := { bench with cache := { Caches.reset with quires := [(0, [⟨0x100, 0, 3, .m, [1], 0, 0, 3, 0, none⟩])] } }
    (s.quires 0).length = 1 ∧ (s.groupAt 0).core = 0 ∧ (SMap.find s.grids 0).isSome = true ∧ (s.gridAt 0).saved = false := by
  decide +kernel

/-! ### The management plane, links and the host (chapter 22) -/

/-- A management plane out of reset, its error ring at 0x80000 open or closed, with `n` records in the ring. -/
def plane (en : Bool) (n : Nat) : Mgmt := { Mgmt.reset with secure := true, boot := .done, errBase := 0x80, errEn := en, errHead := n, errLost := 3 }
/-- The bench with it. -/
def managed (m : Mgmt) : State := { bench with mgmt := m }

theorem witness_ManagementAndHost_registers : let r := managed { plane true 2 with boot := .recovery }; let s := managed (plane true 2)
    r.mgmt.boot = .recovery ∧ ((0x04 : Nat) + 4 ≤ 0x08 ∨ (0x1C : Nat) ≤ 0x0C) ∧ ((0x1C : Nat) + 4 ≤ 0x08 ∨ 0x0C ≤ (0x1C : Nat)) ∧ s.mgmt.session = false ∧ (managed { plane true 2 with session := true }).mgmt.session = true ∧ s.mgmt.boot ≠ .recovery ∧ ((1 : Nat) - s.mgmt.errAck : Int) % 2 ^ 32 ≤ ((s.mgmt.errHead : Nat) - s.mgmt.errAck : Int) % 2 ^ 32 ∧
      ¬ ((3 : Nat) - s.mgmt.errAck : Int) % 2 ^ 32 ≤ ((s.mgmt.errHead : Nat) - s.mgmt.errAck : Int) % 2 ^ 32 ∧ s.mgmt.errBuf = [] ∧ (0x80000000 : Nat).testBit 31 = true ∧ (0x7FFFFFFF : Nat).testBit 31 = false := by
  decide +kernel

/-- R416, R426: PWRLIM is clamped on either side, and reading ERRLOST clears it. -/
theorem test_registers : let p v := (after (.registerWrite 0x08 v 4) bench).mgmt.pwrlim; let t := after .errlostRead (managed (plane true 2))
    p 100 = 1600 ∧ p 2000 = 2000 ∧ p 4095 = 4000 ∧ t.mgmt.errLost = 0 ∧ t.mgmt.hostReads = [3] ∧ (after (.errackWrite 1) (managed (plane true 2))).mgmt.errAck = 1 ∧ (after (.registerWrite 0x200010 77 4) bench).ctxAt 0 = { bench.ctxAt 0 with pdl := 77 } := by
  decide +kernel

/-- R6, R7, R426: reads of read-write, read-only and write-only registers, and a write of one byte of PDL, which keeps the others. -/
theorem test_barRead : let s := { managed (plane true 2) with ctxs := [(0, { Ctx.reset with pdl := 0x12345, troot := 0x1000, dbg := true })] }; let t := after (.registerWrite 0x200011 0xAB 1) s
    [s.barRead 0x08 4, s.barRead 0x18 4, s.barRead 0x20 4, s.barRead 0x200018 4, s.barRead 0x20000C 4, s.barRead 0x200010 4, s.barRead 0x200011 1, s.barRead 0x200028 8] = [4000, 2, 3, 0, 4, 0x12345, 0x23, 0x1000] ∧
      (t.ctxAt 0).pdl = 0x1AB45 ∧ t.mgmt = s.mgmt := by
  decide +kernel

theorem witness_ManagementAndHost_reads : let r := managed { plane true 2 with boot := .recovery }
    r.mgmt.boot = .recovery ∧ (managed (plane true 2)).mgmt.boot ≠ .recovery ∧ ((0x0C : Nat) ≤ 0x0C ∧ 0x0C + 4 ≤ 0x1000) ∧ (0x3000 : Nat) ≤ 0x3000 := by
  decide +kernel

theorem witness_ManagementAndHost_records : let s := managed (plane true 2); let f := managed (plane true 64); let b := managed { plane false 0 with errBuf := List.replicate 256 (0, 0, ⟨1, 0, 0, 0, 0, 0, 0, 0⟩) }
    256 ≤ b.mgmt.errBuf.length ∧ s.mgmt.errBuf = [] ∧ s.mgmt.errAck < 2 ^ 32 ∧ s.mgmt.errHead < 2 ^ 32 ∧ (s.mgmt.errEn = true ∧ ((s.mgmt.errHead : Int) - s.mgmt.errAck) % 2 ^ 32 < 2 ^ s.mgmt.errLogn) ∧
      ¬ (f.mgmt.errEn = true ∧ ((f.mgmt.errHead : Int) - f.mgmt.errAck) % 2 ^ 32 < 2 ^ f.mgmt.errLogn) := by
  decide +kernel

theorem witness_ManagementAndHost_logs : let e : BootEntry := ⟨3, 0x8001, 1, 77⟩; let s := managed { plane true 2 with log := [e], prevLog := List.replicate 300 e }
    s.mgmt.log[0]? = some e ∧ s.mgmt.prevLog[299]? = some e ∧ (s.barRead 0x1002 2, s.barRead 0x1004 4, s.barRead (0x2000 + 16 * 299 + 2) 2, s.barRead (0x2000 + 16 * 299 + 8) 8) = (0x8001, 1, 0x8001, 77) ∧
      (1 ≤ (3 : Nat) ∧ (3 : Nat) ≤ 12) ∧ ¬ (1 ≤ (13 : Nat) ∧ (13 : Nat) ≤ 12) := by
  decide +kernel

/-- Table 22.8: a record's type, plane, unit and code at its slot. -/
theorem test_record : let t := after (.errorRecord ⟨0x0003, 1, 5, 9, 0x777, 4, 0x1234, 0x55⟩) (managed (plane true 2))
    let n (a k : Nat) := ofBytes (t.hostMem.readN a k)
    n 0x80080 4 = 0x05010003 ∧ n 0x80098 8 = 9 ∧ n 0x800A0 8 = 0x400000777 ∧ n 0x800A8 8 = 0x1234 ∧ t.mgmt.errHead = 3 ∧ t.mem = bench.mem := by
  decide +kernel

/-- At step `n` of start-up. -/
def starting (n : Nat) : State := managed { Mgmt.reset with boot := .starting n }

theorem witness_ManagementAndHost_start : ((∀ step, 0 < step → step ≤ 6 → (starting step).mgmt.boot = .starting step ∧ ((starting step).mgmt.log.filter fun e => e.step == step).length = 0)) ∧ (∀ e ∈ (starting 3).mgmt.prevLog, ¬ (e.step = 3 ∧ e.unit = 0 ∧ e.result = 1)) ∧
    ∀ e ∈ (starting 3).mgmt.log, e.step = 3 → e.unit = 0 → e.result = 0 :=
  ⟨fun _ _ _ => ⟨rfl, rfl⟩, by decide, by decide⟩

/-- At step `n` of start-up, the same unit having failed in the start-up before, and the unit's die off. -/
def restarting (n : Nat) : State :=
  managed { Mgmt.reset with boot := .starting n, prevLog := [⟨n, if n = 3 then 0x8000 else 0, 1, 0⟩], log := if n = 3 then [⟨3, 0, 1, 0⟩] else [], imageVer := 1, fuseVer := if n = 1 then 2 else 0 }

theorem witness_ManagementAndHost_restart : (∃ e ∈ (restarting 2).mgmt.prevLog, e.step = 2 ∧ e.unit = 0 ∧ e.result = 1) ∧ (∃ e ∈ (restarting 3).mgmt.log, e.step = 3 ∧ e.unit = 0 ∧ e.result ≠ 0) ∧ ((restarting 3).mgmt.log.filter fun e => e.step == 3).length = 0 * 13 + 1 ∧
    ¬ (restarting 1).mgmt.fuseVer ≤ (restarting 1).mgmt.imageVer ∧ (restarting 4).mgmt.fuseVer ≤ (restarting 4).mgmt.imageVer ∧ (∃ e ∈ (restarting 4).mgmt.prevLog, e.step = 4 ∧ e.unit = 0 ∧ e.result = 1) ∧
    (({ restarting 5 with ports := [(0, { Port.reset with lanes := 0 })] } : State).portOf 0).lanes = 0 ∧ ((restarting 5).portOf 0).speed < 3 := by
  decide +kernel

/-- R420: a step 2 that failed before is skipped and start-up ends in recovery; a cluster of a die that is off is left out; a link that trains at a lower speed works; an image older than the counter fails. -/
theorem test_restart : ((after (.startUpStep 0 0 true) (restarting 2)).mgmt.boot, (after (.startUpStep 0 0 true) (restarting 2)).mgmt.log.map (·.result)) = (.recovery, [2]) ∧
    (after (.startUpStep 0 1 true) (restarting 3)).mgmt.log.map (·.result) = [1, 2] ∧ ((after (.startUpStep 0 0 false) (restarting 5)).portOf 0).speed = 1 ∧
    (after (.startUpStep 0 0 true) ({ starting 1 with mgmt := { (starting 1).mgmt with fuseVer := 2, imageVer := 1 } })).mgmt.boot = .recovery := by
  decide +kernel

/-- R420, R421, Table 22.4: step 1 raises INV_SECURE, a failure of it is recovery state, a failed die is fenced. -/
theorem test_startUp : (after (.startUpStep 0 0 true) (starting 1)).mgmt.boot = .starting 2 ∧ (after (.startUpStep 0 0 true) (starting 1)).mgmt.secure = true ∧ (after (.startUpStep 0 0 false) (starting 1)).mgmt.boot = .recovery ∧
    ((after (.startUpStep 0 0 false) (starting 3)).dieAt 0).fenced = 2 ^ 96 - 1 ∧ ((after (.startUpStep 0 0 false) (starting 3)).mgmt.log.map fun e => (e.step, e.unit, e.result)) = [(3, 0, 1)] := by
  decide +kernel

theorem witness_ManagementAndHost_attestation : Instr.getVersion = .getVersion ∧ (0 : Nat) ≤ bench.mgmt.spdm ∧ ¬ 3 ≤ bench.mgmt.spdm := by decide

/-- R422: GET_VERSION opens the order of messages, algorithms stay negotiated, and a message before its turn gets the error answer. -/
theorem test_spdm : (after .getVersion bench).mgmt.spdm = 1 ∧ (after .negotiateAlgorithms (managed { plane true 0 with spdm := 2 })).mgmt.algs = true ∧ (after .getMeasurements bench).mgmt.spdm = 0 ∧ (after .getMeasurements bench).mgmt.spdmOut.length = 1 := by
  decide +kernel

/-- A bubble of 900 clk (500 ns) at `b`, on dies that have all acknowledged or not; die 3 halted or not; the master time 40000 ns. -/
def bubbling (b : Nat) (ack halted : Bool) : State :=
  { managed { plane true 0 with bubble := some ⟨900, b⟩ } with
    clk := 72000, dies := (List.range 33).map fun d => (d, { Die.reset with released := some 0, acked := ack, halted := halted && d == 3 }) }

theorem witness_ManagementAndHost_bubble : let all (s : State) := ∀ d, d < 33 → (s.dieAt d).acked = true
    bench.mgmt.bubble = none ∧ bench.masterTime 24 + 20000 ≤ 30000 ∧ 10000 < bench.masterTime 24 + 20000 ∧ (bubbling 41000 false false).mgmt.bubble = some ⟨900, 41000⟩ ∧ 41000 ≤ (bubbling 41000 false false).masterTime 24 + 2000 ∧ ¬ all (bubbling 41000 false false) ∧
      (bubbling 43000 false false).masterTime 24 + 2000 < 43000 ∧ all (bubbling 40000 true false) ∧ 40000 ≤ (bubbling 40000 true false).masterTime 3 ∧ (bubbling 40000 true false).masterTime 3 < 40000 + 900 * 5 / 9 ∧
      ((bubbling 40000 true false).dieAt 3).halted = false ∧ (bubbling 41000 true false).masterTime 3 < 41000 ∧ ((bubbling 39500 true true).dieAt 3).halted = true ∧ 39500 + 900 * 5 / 9 ≤ (bubbling 39500 true true).masterTime 3 ∧
      ((bubbling 40000 true true).dieAt 3).halted = true ∧ (bubbling 40000 true true).masterTime 3 < 40000 + 900 * 5 / 9 := by
  decide +kernel

theorem test_bubble : ((after (.bubbleStart 3) (bubbling 40000 true false)).dieAt 3).halted = true ∧ ((after (.bubbleEnd 3) (bubbling 39500 true true)).dieAt 3).halted = false ∧ (after (.bubbleEnd 3) (bubbling 39500 true true)).mgmt.bubble = none := by
  decide +kernel

theorem witness_ManagementAndHost_time : let n : Nat := match ((bubbling 0 true false).dieAt 3).released with | some r => ((bubbling 0 true false).clk - r) * 5 / 9 % 2 ^ 64 | none => 0
    let time (o r : Int) : Int := (n + o + (n * r).fdiv (2 ^ 32)) % 2 ^ 64
    time ((bubbling 0 true false).dieAt 3).toff ((bubbling 0 true false).dieAt 3).trate ≤ time 5 1 ∧ time (-5) 0 < time ((bubbling 0 true false).dieAt 3).toff ((bubbling 0 true false).dieAt 3).trate := by
  decide +kernel

/-- Port 2 as given. -/
def linked (p : Port) : State := { bench with ports := [(2, p)] }

/-- A flit of the first channel with a sequence number. -/
def flit (n : Nat) : Flit := ⟨n, .request⟩

theorem witness_ManagementAndHost_links : let p := { Port.reset with rxSeq := 7, unacked := [flit 5, flit 6] }
    (flit 7).seq = p.rxSeq ∧ (flit 8).seq ≠ p.rxSeq ∧ p.resend = none ∧ { p with resend := some 6 }.resend = some 6 ∧ (flit 6).seq = 6 ∧ 6 < p.rxSeq ∧ p.unacked = flit 5 :: [flit 6] ∧ p.spare = true ∧ { p with spare := false }.lanes = 8 ∧
      (Port.start 16).spare = false ∧ (Port.start 16).lanes = 16 := by
  decide

/-- R419: a flit in order is taken, one with a bad CRC asks for all from the first that no one has acknowledged, and these come again without being taken twice. -/
theorem test_flits : let p := { Port.reset with rxSeq := 7, unacked := [flit 5, flit 6] }; let q (t : State) := t.portOf 2
    (q (after (.flitReceive 2 (flit 7) true) (linked p))).rxSeq = 8 ∧ (q (after (.flitReceive 2 (flit 7) false) (linked p))).resend = some 5 ∧
      (q (after (.flitReceive 2 (flit 5) true) (linked { p with resend := some 5 }))) = { p with resend := some 6 } ∧ (q (after (.flitReceive 2 (flit 7) true) (linked { p with resend := some 5 }))).rxSeq = 7 := by
  decide +kernel

/-- R419: the spare first, then 4 lanes. -/
theorem test_lanes : let t := after (.laneFailure 2 3) (linked Port.reset)
    SMap.get Port.reset t.ports 2 = { Port.reset with spare := false } ∧ SMap.get Port.reset (after (.laneFailure 2 4) t).ports 2 = { Port.reset with spare := false, lanes := 4 } := by
  decide +kernel

/-- Stream 3 of class 1 has accepted every write below 4, and write 6 of one byte. -/
def streaming : State := { bench with streams := [(7, ⟨4, [(6, 0x80000, 1)], []⟩)] }

theorem witness_ManagementAndHost_streams : let x := SMap.get ⟨0, [], []⟩ streaming.streams (3 * 2 + 1 % 2)
    3 < x.low ∧ (∃ e ∈ x.early, e.1 = 6) ∧ ¬ (4 < x.low ∨ ∃ e ∈ x.early, e.1 = 4) ∧ x.held = [] ∧ 0x80000 + [(1 : Byte)].length ≤ 2 ^ 52 ∧ 4 = x.low ∧ x.low < 5 ∧ (∀ e ∈ x.early, e.1 ≠ 5) ∧
      (false = false ∧ ∃ e ∈ x.early, 4 < e.1 ∧ e.2.1 ≤ 0x80000 ∧ 0x80000 < e.2.1 + e.2.2) ∧ ¬ (∃ e ∈ x.early, 4 < e.1 ∧ e.2.1 ≤ 0x80001 ∧ 0x80001 < e.2.1 + e.2.2) ∧ (∃ h ∈ [(5, 0x80000, [(9 : Byte)])], h.1 = 5) := by
  decide +kernel

/-- R286: release-ordered write 5 waits for write 4; relaxed write 4 leaves the byte of write 6 alone. -/
theorem test_streams : let t := after (.streamWriteAccept 3 1 5 true 0x80001 [9]) streaming
    t.mem.readN 0x80000 2 = [0, 0] ∧ (after (.streamWriteAccept 3 1 4 false 0x80000 [8, 7]) t).mem.readN 0x80000 2 = [0, 9] := by
  decide +kernel

/-- The bench with the second 2 MiB of addresses host-bias (CC 1) in HBM. -/
def biasedPage : State := { managed (plane true 0) with mem := tables.map fun e => if e.1 = 0x4009 then (e.1, 0x05) else e }

theorem witness_ManagementAndHost_host : (managed { plane true 0 with boot := .recovery }).mgmt.boot = .recovery ∧ biasedPage.mgmt.boot ≠ .recovery ∧ 2 ^ 52 < (2 ^ 52 - 1) + [(1 : Byte), 2].length ∧ (2 ^ 52 - 2) + [(1 : Byte), 2].length ≤ 2 ^ 52 ∧ biasedPage.pageLeaf ((0x200FFF + 1) / 4096 * 4096) = some 0x200577 ∧ biased 0x200577 = true := by
  decide +kernel

/-- R204, R287: a host access takes the bias of its page. -/
theorem test_hostBias : (after (.hostCxlMemAccess 0x200FFF false [0, 0]) biasedPage).bias = [(0x200000, 0x200000)] ∧ (after (.hostCxlMemAccess 0x80000 false [0]) biasedPage).bias = [] := by
  decide +kernel

/-! ### Coherence traffic (chapters 8 and 9) -/

/-- A quire of sector 1 of frame 0x100. -/
def quire (st : QState) (dirty : List Nat) : Quire := ⟨0x100, 1, 1, st, dirty, 0, 1, 1, 0, none⟩
/-- The bench with caches, outstanding requests and absorbed snoops. -/
def cached (cs : SMap (List Quire)) (rs ab : List CohReq) : State := { bench with cache := { Caches.reset with quires := cs, coh := rs, absorbed := ab }, mem := tables ++ [(0x80021, 7)] }
/-- A request of an agent for that quire. -/
def req (agent : Nat) (own granted probe : Bool) : CohReq := ⟨agent, 0x100, 1, 1, own, false, granted, 0, probe, [], []⟩

/-- What holds of every listed quire holds of every agent's. -/
theorem atAgents {c : Caches} {P : Quire → Prop} (h : ∀ e ∈ c.quires, ∀ q ∈ e.2, P q) (a : Nat) : ∀ q ∈ c.at_ a, P q := by
  unfold Caches.at_
  generalize c.quires = m at h
  induction m with
  | nil => intro q hq; cases hq
  | cons e t ih =>
    obtain ⟨k, v⟩ := e
    simp only [SMap.get]
    split
    · exact h _ (.head _)
    · exact ih fun x hx => h x (.tail _ hx)

/-- Caches of single-sector quires, as the premises ask. -/
theorem singles {c : Caches} (h : ∀ e ∈ c.quires, ∀ q ∈ e.2, q.first = q.last ∧ q.tracked = true ∧ ∀ x ∈ q.dirty, q.first ≤ x ∧ x ≤ q.last) :
    (∀ pa n, c.Single pa n) ∧ (∀ a, c.Tracks a) ∧ ∀ a, c.Tidy a :=
  ⟨fun _ _ a q hq _ => (atAgents h a q hq).1, fun a q hq => (atAgents h a q hq).2.1, fun a q hq => (atAgents h a q hq).2.2⟩

theorem witness_CoherenceTraffic_requests : (∀ q ∈ (cached [] [] []).cache.coh, q.agent ≠ 1 ∨ q.frame ≠ 0x100 ∨ q.first ≠ 1 ∨ q.last ≠ 1) ∧ (∀ x, 1 ≤ x → x ≤ 1 → (cached [(1, [quire .s []])] [] []).sectorSt 1 0x100 x = .s) ∧
    ¬ (cached [] [] []).sectorSt 1 0x100 1 = .s ∧ let c := (cached [(1, [quire .s []])] [] []).cache
    (∀ e ∈ (c.recordFrom Caches.reset).homeDirs, e.2.length ≤ (c.recordFrom Caches.reset).homeCap) ∧ (c.recordFrom Caches.reset).spineDir.length ≤ (c.recordFrom Caches.reset).spineCap := by
  refine ⟨by decide, fun x h h' => ?_, by decide, by decide +kernel⟩
  rw [Nat.le_antisymm h' h]; decide

/-- Core 0 holds the sector in M and dirty, core 1 asks for it; and core 1 asks alone. -/
def contended (own : Bool) : State := cached [(0, [quire .m [1]])] [req 1 own true false] []

theorem witness_CoherenceTraffic_grant : ∀ own : Bool, let s := contended own; let q := req 1 own true false
    s.cache.Alone q ∧ q.granted = true ∧ q ∈ s.cache.coh ∧ (∃ y ∈ s.quires 0, y.tracked = true ∧ y.overlaps 0x100 1 1 = true) ∧ s.sectorDirty 0 0x100 1 = true ∧ s.cache.SingleIn 0x100 1 1 ∧ s.cache.Tracks 0 ∧ q.own = own := by
  intro own
  have h := singles (c := (contended own).cache) (by cases own <;> decide)
  exact ⟨⟨(by decide : (1 : Nat) < 4096), rfl, Nat.le_refl 1, (by decide : (1 : Nat) ≤ 63), by cases own <;> decide, h.2.2, by cases own <;> decide⟩, rfl, .head _, ⟨_, .head _, rfl, rfl⟩, rfl, h.1 _ _, h.2.1 0, rfl⟩

theorem witness_CoherenceTraffic_alone : let s := cached [] [req 1 false true false] []
    s.cache.Alone (req 1 false true false) ∧ ∀ a, a ≠ 1 → ∀ y ∈ s.quires a, y.tracked = true → y.overlaps 0x100 1 1 = false :=
  ⟨⟨by decide, rfl, by decide, by decide, rfl, (fun a q h => by cases h), by decide⟩, fun a _ y h => by cases h⟩

/-- R222, R223: M moves with its dirty bit; a read grant turns M elsewhere into O; alone, a read is granted E. -/
theorem test_grant : let t := after (.coherenceGrant 1 0x100 1 1) (contended true); let u := after (.coherenceGrant 1 0x100 1 1) (contended false)
    t.sectorSt 1 0x100 1 = .m ∧ t.sectorSt 0 0x100 1 = .i ∧ t.sectorDirty 1 0x100 1 = true ∧ u.sectorSt 1 0x100 1 = .s ∧ u.sectorSt 0 0x100 1 = .o ∧ (after (.coherenceGrant 1 0x100 1 1) (cached [] [req 1 false true false] [])).sectorSt 1 0x100 1 = .e := by
  decide +kernel

theorem witness_CoherenceTraffic_snoops : let s := contended true; let n := cached [(0, [quire .e []])] [] []
    s.cache.SingleIn 0x100 1 1 ∧ s.cache.Tracks 0 ∧ s.cache.coh = [req 1 true true false] ∧ s.sectorDirty 0 0x100 1 = true ∧ s.sectorSt 0 0x100 1 ≠ .wbp ∧ n.cache.SingleIn 0x100 1 1 ∧ n.cache.Tracks 0 ∧
      ∀ q ∈ n.quires 0, q.overlaps 0x100 1 1 = true → q.dirty = [] ∧ (q.st = .s ∨ q.st = .e) := by
  have h := singles (c := (contended true).cache) (by decide)
  have n := singles (c := (cached [(0, [quire .e []])] [] []).cache) (by decide)
  exact ⟨h.1 _ _, h.2.1 0, rfl, rfl, by decide, n.1 _ _, n.2.1 0, by decide⟩

theorem witness_CoherenceTraffic_owed : ∀ x, 1 ≤ x → x ≤ 1 → (contended true).sectorDirty 0 0x100 x = true → ∃ q, (contended true).cache.coh.find? (fun q => q.agent != 0 && q.meets 0x100 x x) = some q ∧ q.own = true := by
  intro x h h' _; rw [Nat.le_antisymm h' h]; exact ⟨_, rfl, rfl⟩

/-- R218, R222: snooped dirty data goes with the request that waits for it, and home where none does. -/
theorem test_snpInv : let t := after (.snpInv 0 0x100 1 1) (contended true); let u := after (.snpInv 4096 0x100 1 1) (cached [(4096, [quire .m [1]])] [] [])
    t.sectorSt 0 0x100 1 = .i ∧ (t.cache.coh.map (·.supplied)) = [[1]] ∧ u.cache.home.read 0x80021 = 7 ∧ u.sectorSt 4096 0x100 1 = .i := by
  decide +kernel

/-- An agent whose write-back of the sector is under way, with a request that has met it. -/
def writingBack (ab : List CohReq) : State := cached [(0, [quire .wbp [1]])] [req 1 true false false] ab

theorem witness_CoherenceTraffic_writeBacks : let a := req 0 false false false; let s := writingBack []; let x := writingBack [a]
    (∀ r ∈ s.cache.absorbed, ¬ (r.agent = 0 ∧ r.meets 0x100 1 1 = true)) ∧ (∃ q ∈ s.quires 0, q.st = .wbp ∧ q.overlaps 0x100 1 1 = true) ∧ s.cache.coh.find? (fun q => q.agent != 0 && q.meets 0x100 1 1) = some (req 1 true false false) ∧
      x.cache.absorbed.find? (fun r => r.agent == 0 && r.meets 0x100 1 1) = some a ∧ x.cache.coh.find? (fun q => q.agent != 0 && q.meets 0x100 1 1) = some (req 1 true false false) ∧ x.quires 1 = [] ∧
      x.cache.SingleIn 0x100 1 1 ∧ x.cache.Tracks 0 ∧ x.cache.Tidy 0 := by
  have h := singles (c := (writingBack [req 0 false false false]).cache) (by decide)
  exact ⟨by decide, ⟨_, .head _, rfl, rfl⟩, rfl, rfl, rfl, rfl, h.1 _ _, h.2.1 0, h.2.2 0⟩

/-- R225: an absorbed write-back goes to the requester and not to memory; one that no snoop met reaches the slice of its die. -/
theorem test_writeBacks : let t := after (.absorbedAck 0 0x100 1 1) (writingBack [req 0 false false false]); let u := after (.putm 0 0x100 1 1) (writingBack [])
    t.sectorSt 1 0x100 1 = .m ∧ t.sectorDirty 1 0x100 1 = true ∧ t.sectorSt 0 0x100 1 = .i ∧ t.cache.home.read 0x80021 = 0 ∧ u.cache.pointByte false 0 0x80021 = 7 ∧ ((after (.writeBackAcknowledgement 0 0x100 1 1) u).quires 0).length = 0 := by
  decide +kernel

/-- Core 0 has reached the frame through a read-only-global page (CC 3) of context 0. -/
def readOnly (cs : SMap (List Quire)) (rs : List CohReq) : State := { cached cs rs [] with cores := [(0, { bench.coreAt 0 with tlb := [(0, ⟨0x10000, 0x1000, 0x80B1B⟩)] })] }

theorem witness_CoherenceTraffic_peer : (∀ cs rs, (readOnly cs rs).readOnlyGlobal 0 0x100 = some 0) ∧ (∃ c, c / 8 = 0 / 96 * 12 + 0 ∧ c ≠ 0 ∧ ∀ x, 1 ≤ x → x ≤ 1 → (readOnly [(1, [quire .e []])] []).sectorSt c 0x100 x = .s ∨ (readOnly [(1, [quire .e []])] []).sectorSt c 0x100 x = .e) ∧
    (readOnly [(1, [quire .e []])] []).quires 0 = [] ∧ (∀ rs, ¬ ∃ c, c / 8 = 0 / 96 * 12 + 1 ∧ c ≠ 0 ∧ ∀ x, 1 ≤ x → x ≤ 1 → (readOnly [] rs).sectorSt c 0x100 x = .s ∨ (readOnly [] rs).sectorSt c 0x100 x = .e) ∧
    (∀ r ∈ (readOnly [] []).cache.coh, ¬ (r.agent = 0 ∧ r.probe = true ∧ r.meets 0x100 1 1 = true)) ∧ (∃ r ∈ (readOnly [] [req 0 false false true]).cache.coh, r.agent = 0 ∧ r.probe = true ∧ r.meets 0x100 1 1 = true) ∧ bench.readOnlyGlobal 0 0x100 = none := by
  refine ⟨fun _ _ => rfl, ⟨1, rfl, by decide, fun x h h' => ?_⟩, rfl, ?_, by decide, ⟨_, .head _, rfl, rfl, rfl⟩, rfl⟩
  · rw [Nat.le_antisymm h' h]; exact .inr (by decide)
  · rintro rs ⟨c, -, -, h⟩
    have e : (readOnly [] rs).sectorSt c 0x100 1 = .i := rfl
    have := h 1 (Nat.le_refl 1) (Nat.le_refl 1)
    rw [e] at this; rcases this with h | h <;> cases h

/-- R226: the copy is untracked, and belongs to context 0; where no peer has it the request goes to the directory. -/
theorem test_peer : let t := after (.peerForwardProbe 0 0 0x100 1 1) (readOnly [(1, [quire .e []])] []); let u := after (.peerForwardProbe 0 1 0x100 1 1) (readOnly [] [req 0 false false true])
    (t.quires 0).map (fun q => (q.first, q.last, q.st, q.fwd)) = [(1, 1, .s, some 0)] ∧ t.sectorSt 1 0x100 1 = .e ∧ u.cache.coh.map (·.probe) = [false] := by
  decide +kernel

/-- Core 0 holds a sector of a page with CC 1 in HBM, modified. -/
def biasedHeld : State := { biasedPage with cache := { Caches.reset with quires := [(0, [{ quire .m [1] with frame := 0x400 }])] } }

theorem witness_CoherenceTraffic_pages : (contended true).pageLeaf (0x100 * 2048 / 4096 * 4096) = some 0x80C1F ∧ hostCoherent 0x80C1F = true ∧ (contended true).cache.SingleIn 0x100 1 1 ∧ (contended true).cache.DirsFit ∧ (contended true).SectorOwed (0x100 * 64 + 1) ∧
    biasedHeld.pageLeaf (0x200 * 4096) = some 0x200577 ∧ biased 0x200577 = true ∧ biasedHeld.cache.Single (0x200 * 4096) (2 ^ 21) ∧ pteTier 0x200577 = 3 ∧ ptePfn 0x200577 * 4096 = 0x200000 ∧ biasedHeld.cache.DirsFit ∧ ∀ e, (contended true).pageLeaf (0x80 * 4096) = some e → biased e = false := by
  have l : (contended true).pageLeaf (0x80 * 4096) = some 0x80C1F := by decide +kernel
  refine ⟨by decide +kernel, by decide, (singles (by decide)).1 _ _, ⟨by decide, by decide, by decide⟩, ⟨0, by decide, by decide⟩, by decide +kernel, by decide, (singles (by decide)).1 _ _, by decide, by decide, ⟨by decide, by decide, by decide⟩, fun e h => ?_⟩
  rw [l] at h; injection h with h; subst h; rfl

/-- R204, R227: the device's copy goes home before the host has the sector, or the page. -/
theorem test_pages : let t := after (.backInvalidation 0x100 1 1) (contended true); let u := after (.biasFlip 0x200 true) biasedHeld
    t.sectorSt 0 0x100 1 = .i ∧ t.cache.home.read 0x80021 = 7 ∧ u.sectorSt 0 0x400 1 = .i ∧ u.bias = [(0x200000, 0x200000)] ∧ (after (.biasFlip 0x80 true) (contended true)).bias = [] := by
  decide +kernel

theorem witness_CoherenceTraffic_crossed : let s := writingBack []
    s.pageLeaf (0x100 * 2048 / 4096 * 4096) = some 0x80C1F ∧ s.cache.SingleIn 0x100 1 1 ∧ s.cache.DirsFit ∧ (∀ x, 1 ≤ x → x ≤ 1 → ∃ a ∈ s.agents, ∃ q ∈ s.quires a, q.st = .wbp ∧ q.overlaps 0x100 x x = true) ∧ ∀ r ∈ s.cache.coh, r.agent ≠ 8192 := by
  refine ⟨by decide +kernel, (singles (by decide)).1 _ _, ⟨by decide, by decide, by decide⟩, fun x h h' => ?_, by decide⟩
  rw [Nat.le_antisymm h' h]; exact ⟨0, by decide +kernel, _, .head _, rfl, rfl⟩

/-- R225, R418: a back-invalidation that meets a write-back leaves memory alone, and the write-back goes to the host, which asks for it. -/
theorem test_crossed : let t := after (.backInvalidation 0x100 1 1) (writingBack [])
    t.cache.home.read 0x80021 = 0 ∧ t.cache.absorbed.map (·.agent) = [0] ∧ (t.cache.coh.map fun r => (r.agent, r.own)) = [(1, true), (8192, true)] := by
  decide +kernel

/-- A domain's unlock that waits with an address translated before its page moved, and an invalidation of the page. -/
def retranslated : State := domain0 6 none [] { dom0 with reqs := [{ freeing with ops := [⟨0, 0x10000, 0x90000, [7, 0xF], false⟩] }] }

theorem witness_CoherenceTraffic_again : ∃ d r o, retranslated.Calm = False ∧ retranslated.tiles = [] ∧ retranslated.adds = [] ∧ retranslated.domains = [(0, d)] ∧ d.reqs = [r] ∧ r.ops = [o] ∧ (r.paOf o).isSome = true ∧ o.miss = false ∧ retranslated.lost = [] ∧
    0x10000 < o.va + accBytes r.instr ∧ o.va < 0x10000 + 0x1000 ∧ ¬ (0x20000 < o.va + accBytes r.instr) ∧ bench.Calm :=
  ⟨_, _, _, by simp [State.Calm, retranslated, domain0], rfl, rfl, rfl, rfl, rfl, by decide, rfl, rfl, by decide, by decide, by decide, rfl, rfl, by decide⟩

/-- R206: it is translated again. -/
theorem test_again : ((after (.atsInvalidation 0x10000 0x1000 none) retranslated).domAt 0).reqs.map (fun r => r.ops.map (·.pa)) = [[0x80000]] ∧
    ((after (.atsInvalidation 0x20000 0x1000 none) retranslated).domAt 0).reqs.map (fun r => r.ops.map (·.pa)) = [[0x90000]] := by
  decide +kernel

/-- A page translated in core 0's L1, its last-page registers set; an invalidation under way. -/
def cachedTlb : State := { bench with cores := [(0, { bench.coreAt 0 with tlb := [(0, leaf16)] })], invals := [⟨0x10000, 0x1000, none⟩] }

theorem witness_CoherenceTraffic_invalidation : (0, leaf16) ∈ (cachedTlb.coreAt 0).tlb ∧ leaf16.va < 0x10000 + 0x1000 ∧ 0x10000 < leaf16.va + leaf16.size ∧ cachedTlb.invals[0]? = some ⟨0x10000, 0x1000, none⟩ := by
  decide +kernel

/-- R206: the cached translation is gone, where it overlaps. -/
theorem test_invalidation : ((after (.atsInvalidation 0x10FFF 2 none) cachedTlb).coreAt 0).tlb = [] ∧ ((after (.atsInvalidation 0x11000 2 none) cachedTlb).coreAt 0).tlb.length = 1 := by
  decide +kernel

theorem witness_CoherenceTraffic_home : let s := cached [(0, [quire .s []])] [] []
    (∀ a, ∀ q ∈ s.quires a, ∀ x ∈ q.dirty, ¬ (0x80000 ≤ q.frame * 2048 + x * 32 ∧ q.frame * 2048 + x * 32 < 0x80000 + 0x1000)) ∧ (∀ a, ∀ q ∈ s.quires a, ∀ x, q.first ≤ x → x ≤ q.last → 0x80000 ≤ q.frame * 2048 + x * 32 ∧ q.frame * 2048 + x * 32 < 0x80000 + 0x1000 → q.first = q.last) ∧
      s.cache.DirsFit := by
  have h : ∀ a, ∀ q ∈ (cached [(0, [quire .s []])] [] []).quires a, q.dirty = [] ∧ q.first = q.last := atAgents (by decide)
  exact ⟨(fun a q hq x hx => by rw [(h a q hq).1] at hx; cases hx), fun a q hq _ _ _ _ => (h a q hq).2, by decide, by decide, by decide⟩

/-- R232: a dirty sector of a failed home goes to the salvage area, and its copy goes. -/
theorem test_homeFailure : let t := after (.homeFailure 3 0x80000 0x1000) { contended true with salvBase := 0x90000 }
    t.sectorSt 0 0x100 1 = .i ∧ t.mem.readN 0x90000 10 = [0, 0, 8, 0, 0, 0, 0, 0, 1, 1] ∧ t.mem.read 0x90021 = 7 ∧ t.failedHomes = [(0x80000, 0x1000)] := by
  decide +kernel

/-! ### Issue, and the machine as a whole (chapter 2) -/

/-- The bench's warp off its slot, lanes 0 and 2 at 0x8000, lane 1 at 0x8010, lane 3 waiting at gbar, the others exited; the strand that ran last began at lane `k`. -/
def waitingWarp (k : Option Nat) : State :=
  { machine { strand with inRun := false, active := 0, exited := 0xFFFFFFF0, gbarWait := 8, lastLow := k, pcs := [(0, 0x8000), (1, 0x8010), (2, 0x8000), (3, 0x8000)] } plainGroup plainGrid with
    cores := [(0, { Core.reset with grid := some 0 })] }

theorem witness_IssueEvents_slot : (waitingWarp none).turnCore = 0 ∧ (waitingWarp none).chosen 0 = some 0 ∧ ((waitingWarp none).inSlots 0).length < 4 ∧ (SMap.find (waitingWarp none).warps 0).isSome = true ∧ ((waitingWarp none).warpAt 0).inRun = false ∧ ((waitingWarp none).warpAt 0).nextStrand = some (0, 5, 0x8000) ∧
    ((waitingWarp (some 0)).warpAt 0).nextStrand = some (1, 2, 0x8010) ∧ (∃ x ∈ ((waitingWarp (some 0)).warpAt 0).strands, 0 < x.1) ∧ (∀ x ∈ ((waitingWarp (some 1)).warpAt 0).strands, x.1 ≤ 1) ∧ bench.chosen 0 = none := by
  decide +kernel

/-- R55: the strand after the last one's lowest lane, then round again. -/
theorem test_slotFill : let o k := ((after (.slotFill 0) (waitingWarp k)).warpAt 0); ((o none).active, (o none).runPc) = (5, 0x8000) ∧ ((o (some 0)).active, (o (some 0)).runPc) = (2, 0x8010) ∧ ((o (some 1)).active, (o (some 1)).runPc) = (5, 0x8000) := by
  decide +kernel

/-- Two instructions on counter 1, the first complete or not, with a value for v9 in lanes 0 and 1; lane 1 has exited. -/
def underWay (ok : Bool) : State := machine { strand with exited := 2, inflight := [⟨0, 1, ok, [⟨.v 9, [(0, 70), (1, 71)]⟩], 0, []⟩, ⟨1, 1, true, [], 0, []⟩] } plainGroup plainGrid

theorem witness_IssueEvents_counter : (∀ ok, SMap.find (underWay ok).warps 0 = some (underWay ok).w ∧ ((underWay ok).w.inflight.filter fun x => x.dc == (1 : Dc).toNat) = ⟨0, 1, ok, [⟨.v 9, [(0, 70), (1, 71)]⟩], 0, []⟩ :: [⟨1, 1, true, [], 0, []⟩]) ∧
    ([(0, 70), (1, 71)].map (·.1) : List Nat).Nodup ∧ (∀ x ∈ ([(0, 70), (1, 71)] : List (Nat × DWord)), x.1 < 32) := by
  decide +kernel

/-- R61: in order, and nothing for the thread that has exited. -/
theorem test_release : let t := after (.counterRelease 0 1) (underWay true)
    t.w.rdV 9 0 = 70 ∧ t.w.rdV 9 1 = 0 ∧ t.w.inflight.map (·.seq) = [1] ∧ (after (.counterRelease 0 1) (underWay false)).w.inflight.length = 2 := by
  decide +kernel

theorem witness_IssueEvents_illegal : bench.Here ∧ bench.w.kind = .normal := ⟨rfl, rfl⟩

/-- Table 2.4: cause 0x01 with the detail, at the group, in every active lane. -/
theorem test_illegal : ((after (.illegalInstructionWord 9) bench).w.stops.map fun p => (p.lane, p.cause, p.detail, p.pc)) = [(0, 1, 9, 0x8000), (1, 1, 9, 0x8000), (2, 1, 9, 0x8000), (3, 1, 9, 0x8000)] := by
  decide +kernel

/-- The bench with one word at its pc. -/
def coded (w : Nat) : State := { bench with mem := tables ++ (toBytes 8 w).zipIdx.filterMap fun e => if e.1 = 0 then none else some (0x83000 + e.2, e.1) }
/-- The word of `shri v6, v6, 3` (R83's own example), and of a reserved major. -/
abbrev shriWord : Nat := 0x01E18643

theorem witness_StepRunsDecoded_within : let s := (bench.modW fun w => { w with todo := [.shri H 6 6 3, .nop H] }); let e := { bench with inputs := [.errlostRead] }
    s.w.todo = .shri H 6 6 3 :: [.nop H] ∧ s.w.waiting = false ∧ s.w.kind = .normal ∧ s.ordersWait (.shri H 6 6 3) = false ∧ e.w.todo = [] ∧ e.inputs = .errlostRead :: [] ∧ Instr.errlostRead.external = true ∧ (s.dieAt 24).halted = false ∧ overLink (.startUpStep 0 0 true) = false := by
  decide +kernel

/-- The state in which the bench's warp, with one word at its pc, issues its group: before the group and at it. -/
def issuing (w : Nat) : State := ({ coded w with cur := 0, turnCore := max (coded w).turnCore (((coded w).warpAt 0).core + 1) }).modW Warp.commit
def issued (w : Nat) : State := (issuing w).modW Warp.atGroup
/-- A jump through k6, which holds 7 and so no packet start. -/
abbrev jmpxWord : Nat := (encode (.jmpx E 6)).getD 0 0

theorem witness_StepRunsDecoded_fetch : ∀ w ∈ [shriWord, 0x7F00000, jmpxWord], let s := coded w
    s.w.todo = [] ∧ s.nextInput = none ∧ (s.afterEvent exec).isNone = true ∧ s.pick = some 0 ∧ (SMap.find s.warps 0).isSome = true ∧ (s.warpAt 0).todo = [] ∧ (s.warpAt 0).kind = .normal ∧ (s.warpAt 0).chk = .off ∧
    (issuing w).inDomain = false ∧ (issuing w).fetchWord (issuing w).w.runPc.toNat = .word w ∧ w < 2 ^ 31 ∧ wordCount w = 1 := by
  decide +kernel

theorem witness_StepRunsDecoded_decoded : let c w := (issuing w).groupCode (issuing w).w.runWords [((issuing w).wordPos (issuing w).w.runPc.toNat, w, 0)]; let g := issued shriWord; let i : Instr := .shri H 6 6 3
    decodeWord shriWord 0 = .ok i ∧ c shriWord = none ∧ g.badTarget i = false ∧ g.w.blocksOk [i] = true ∧ g.w.countersFull [i] = false ∧ g.waits i = false ∧ (g.claimGate i).isNone = true ∧
      decodeWord jmpxWord 0 = .ok (.jmpx E 6) ∧ c jmpxWord = none ∧ (issued jmpxWord).badTarget (.jmpx E 6) = true ∧ c 0x7F00000 = some 2 := by
  refine ⟨rfl, ?_⟩; decide +kernel

/-- A semwait of semaphore 5 that has to wait. -/
abbrev semwaitWord : Nat := (encode (.semwait E 5 0 1)).getD 0 0

theorem witness_StepRunsDecoded_waits : let g w i := (issued w).beginGroup [i]
    (State.stuckWord exec (g shriWord (.shri H 6 6 3)) 3 (g shriWord (.shri H 6 6 3))).isNone = true ∧ decodeWord semwaitWord 0 = .ok (.semwait E 5 0 1) ∧
      ((State.stuckWord exec (g semwaitWord (.semwait E 5 0 1)) 3 (g semwaitWord (.semwait E 5 0 1))).map (·.2)) = some 0x8000 := by
  decide +kernel

/-- R38, R56: a group with a word that has to wait has not issued: nothing of it is done, and the core's turn goes on. -/
theorem test_step_waits : (match step (coded semwaitWord) with | .next t => (t.w.todo.length, t.w.runPc, t.turnCore, t.w.lclk) | _ => (9, 0, 0, 0)) = (0, 0x8000, 1, 0) := by
  decide +kernel

theorem witness_StepRunsDecoded_word : bench.inCode 0x8000 = true ∧ bench.walk bench.ctxNo 0x8000 = .ok ⟨0x8000, 0x1000, 0x83C1B⟩ ∧ bench.pageLost ⟨0x8000, 0x1000, 0x83C1B⟩ = false ∧ pteP 0x83C1B = true ∧ bench.meetsLost 0x83000 4 = false ∧ bench.homeFailed 0x83000 = false ∧ pteX 0x83C1B = true := by
  decide +kernel

/-- A step of the whole machine: v2 gets v1 shifted right by 1, and the run stands at the next word. -/
theorem test_step : (match step (coded 0x01E08141) with | .next t => (result t (.v 2) 3, t.w.runPc) | _ => (none, 0)) = (some 2, 0x8004) := by
  decide +kernel

theorem witness_EncodeDecode : (Instr.shri H 6 6 3).wf = true ∧ (Instr.shri H 6 6 3).hdr?.isSome = true ∧ shriWord < 2 ^ 32 ∧ decodeWord shriWord 0 = .ok (.shri H 6 6 3) ∧ (∀ h d kb ks sz imm hint sx, Instr.shri H 6 6 3 ≠ .sliceLdl h d kb ks sz imm hint sx) ∧
    (Instr.sliceLdl H 56 2 3 .b4 0 0 false).wf = true ∧ isReservedMajor 0x7E = false ∧ (∃ w, w < 2 ^ 32 ∧ isReservedMajor (w / 2 ^ 20 % 2 ^ 7) = true) ∧ 0x7F00000 / 2 ^ 20 % 2 ^ 7 = 0x7F := by
  refine ⟨by decide, rfl, by decide, rfl, (fun _ _ _ _ _ _ _ _ h => by cases h), by decide, by decide, ⟨0x00100000 * 0x0E, by decide⟩, by decide⟩

/-- Canonical memory, and a step that goes on. -/
theorem witness_StepKeepsCanonical : (coded shriWord).Canonical ∧ (coded shriWord).goesOn := by
  refine ⟨by unfold State.Canonical; decide +kernel, ?_⟩
  have h : (match step (coded shriWord) with | .next _ => true | _ => false) = true := by decide +kernel
  unfold State.goesOn
  cases e : step (coded shriWord) <;> simp_all
end Sys2Proof.Tests
end

section
/-! A host access and the bias of the page it meets (R204, R287): the page flipped is the one of the leaf's tier, and a leaf at the level of another tier is larger (R202). -/

namespace Sys2Proof.Machine

/-! ### What a host access does to biases -/

/-- A flip to the host lists the span of the page and drops every entry of the same base. -/
theorem State.flipBias_toHost_bias (s : State) (pa : Nat) :
    (s.flipBias pa true).bias = s.pageSpan pa :: s.bias.filter fun x => x.1 != (s.pageSpan pa).1 := rfl

/-- The span of a page that a leaf maps is the one of the leaf's tier, whatever the level of the leaf. -/
theorem State.pageSpan_of_leaf {s : State} {page e : Nat} (leaf : s.pageLeaf (page * 4096) = some e) :
    s.pageSpan (page * 4096) = ((⟨0, 4096, e⟩ : Leaf).pageBase, tierSize (pteTier e)) := by
  have base : page * 4096 / 4096 * 4096 = page * 4096 := by omega
  simp only [State.pageSpan, base, leaf]

/-- With every bias at the device, the host takes the span of a page with a bias. -/
theorem State.hostTakes_bias_of_biased {s : State} {page e : Nat} (leaf : s.pageLeaf (page * 4096) = some e)
    (bulk : biased e = true) (device : s.bias = []) : (s.hostTakes page).bias = [s.pageSpan (page * 4096)] := by
  simp [State.hostTakes, leaf, bulk, device, State.flipBias_toHost_bias]

/-- A host load of one byte takes the bias of the byte's page, then reads. -/
theorem exec_hostCxlMemAccess_loadByte {s : State} {pa : Nat} (b : Byte) (exists_ : pa + 1 ≤ 2 ^ 52) (open_ : s.mgmt.boot ≠ .recovery) :
    exec (.hostCxlMemAccess pa false [b]) s =
      .next ((s.hostTakes (pa / 4096)).hostRead (ofBytes ((s.hostTakes (pa / 4096)).mem.readN pa 1))) := by
  have cxl : HostFeature.cxlMem ∈ s.hostFeatures := by
    rw [State.hostFeatures, if_neg open_]; decide
  change execHostCxlMemAccess pa false [b] s = _
  rw [execHostCxlMemAccess, if_neg (by simpa using exists_)]
  simp [cxl, List.range_one, List.eraseDups_cons]

/-! ### A leaf larger than the page of its tier -/

/-- Four tables, the last with one level-2 leaf: 2 MiB from 0x200000 on, host-bias, of the LPDDR-6 tier, whose pages are 64 KiB. -/
def largeLeafTables : Memory :=
  [(0x1000, 0x01), (0x1001, 0x20), (0x2000, 0x01), (0x2001, 0x30), (0x3000, 0x01), (0x3001, 0x40), (0x4000, 0x37), (0x4001, 0x05), (0x4002, 0x20)]

/-- A machine out of reset whose context 0 has these tables. -/
def largeLpddrLeaf : State :=
  { State.reset with
    ctxs := [(0, { Ctx.reset with troot := 0x1000 })], mem := largeLeafTables, cache := { Caches.reset with home := largeLeafTables } }

/-- The host brings the machine there from reset: it stores the tables, and writes TROOT. -/
theorem largeLpddrLeaf_fromReset :
    ([.hostCxlMemAccess 0x1000 true [0x01, 0x20], .hostCxlMemAccess 0x2000 true [0x01, 0x30], .hostCxlMemAccess 0x3000 true [0x01, 0x40],
      .hostCxlMemAccess 0x4000 true [0x37, 0x05, 0x20], .registerWrite 0x200028 0x1000 8] : List Instr).foldl (fun s i => s.orNext (exec i s)) State.reset =
      largeLpddrLeaf := by
  decide +kernel

/-- R202: a walk stops at the leaf, whose tier does not fit its level. -/
theorem largeLpddrLeaf_walk : largeLpddrLeaf.walk 0 0x10000 = .error 0x06 := by decide +kernel

/-- To the host's side the leaf maps the second 64 KiB all the same. -/
theorem largeLpddrLeaf_pageLeaf : largeLpddrLeaf.pageLeaf (0x210 * 4096) = some 0x200537 := by decide +kernel

/-- The page flipped for an address of the second 64 KiB is the first 64 KiB. -/
theorem largeLpddrLeaf_pageSpan : largeLpddrLeaf.pageSpan (0x210 * 4096) = (0x200000, 0x10000) :=
  (State.pageSpan_of_leaf largeLpddrLeaf_pageLeaf).trans (by decide)

/-- Refutes O53, in its last clause: a host access to a page with a bias need not leave a bias entry at the host that covers the page. The clause asks it of every leaf that
`State.pageLeaf` finds, and that takes in a level-2 leaf of a 64 KiB tier, which a walk refuses (R202, detail 0x06: `largeLpddrLeaf_walk`) and which the host can write into a table (`largeLpddrLeaf_fromReset`).
The flip covers the page of the leaf's tier, here 0x200000 to 0x20FFFF, and the host reads at 0x210000. -/
theorem not_managementAndHost : ¬ Obligations.ManagementAndHost := by
  unfold Obligations.ManagementAndHost
  intro h
  obtain ⟨-, -, -, -, -, -, -, -, -, -, -, -, host⟩ := h
  obtain ⟨-, -, performs⟩ := host 0x210000 [0] largeLpddrLeaf
  have open_ : largeLpddrLeaf.mgmt.boot ≠ .recovery := by decide
  obtain ⟨-, t, next, -, -, -, flips⟩ := performs (by decide) open_
  have bias : t.bias = [(0x200000, 0x10000)] := by
    rw [exec_hostCxlMemAccess_loadByte 0 (by decide) open_] at next
    injection next with state
    rw [← state, ← largeLpddrLeaf_pageSpan]
    exact State.hostTakes_bias_of_biased largeLpddrLeaf_pageLeaf (by decide) rfl
  obtain ⟨b, listed, -, above⟩ := flips 0 0x200537 (by decide) largeLpddrLeaf_pageLeaf (by decide)
  rw [bias, List.mem_singleton] at listed
  subst listed
  exact absurd above (by decide)

end Sys2Proof.Machine
end

section
/-! SUPPORT. Instruction words as numbers: reading a field of packed fields, and when a word is packed from its own fields (R31 to R35). -/

namespace Sys2Proof

theorem fld_lt (w lo n : Nat) : fld w lo n < 2 ^ n := Nat.mod_lt _ (by positivity)

theorem fld_zero_of_lt {v n : Nat} (h : v < 2 ^ n) : fld v 0 n = v := by simp [fld, Nat.mod_eq_of_lt h]

theorem fld_mul_add_low (v r k lo n : Nat) (h : lo + n ≤ k) : fld (v * 2 ^ k + r) lo n = fld r lo n := by
  obtain ⟨m, rfl⟩ := Nat.exists_eq_add_of_le h
  have : v * 2 ^ (lo + n + m) = 2 ^ lo * (2 ^ n * (v * 2 ^ m)) := by ring
  rw [fld, fld, this, Nat.mul_add_div (by positivity), Nat.mul_add_mod]

theorem fld_mul_add_high (v r k lo n : Nat) (h : k ≤ lo) (hr : r < 2 ^ k) : fld (v * 2 ^ k + r) lo n = fld v (lo - k) n := by
  obtain ⟨m, rfl⟩ := Nat.exists_eq_add_of_le h
  have : (v * 2 ^ k + r) / 2 ^ (k + m) = v / 2 ^ m := by
    rw [pow_add, ← Nat.div_div_eq_div_mul, Nat.mul_comm, Nat.mul_add_div (by positivity), Nat.div_eq_of_lt hr, Nat.add_zero]
  rw [fld, fld, this, Nat.add_sub_cancel_left]

theorem bitAt_eq_fld (w i : Nat) : bitAt w i = (fld w i 1 == 1) := by simp [bitAt, fld]

@[simp] theorem toNat_bitAt (w i : Nat) : (bitAt w i).toNat = fld w i 1 := by
  rw [bitAt_eq_fld]
  have := fld_lt w i 1
  interval_cases fld w i 1 <;> rfl

@[simp] theorem beq_toNat_one (b : Bool) : (b.toNat == 1) = b := by cases b <;> rfl

@[simp] theorem fld_mod {w lo n m : Nat} (h : 2 ^ n = m) : fld w lo n % m = fld w lo n := by
  rw [← h, Nat.mod_eq_of_lt (fld_lt w lo n)]

/-- The value goes into a field of `n` bits. -/
def Fits (v n : Nat) : Prop := v < 2 ^ n

theorem Fits.mono {v m n : Nat} (h : Fits v m) (hn : m ≤ n) : Fits v n :=
  Nat.lt_of_lt_of_le h (Nat.pow_le_pow_right (by omega) hn)

/-- A value of at most `m` bits: whether it fits is settled by the width alone, or else by the value. -/
theorem fits_iff {v m n : Nat} (h : v < 2 ^ m) : Fits v n ↔ m ≤ n ∨ v < 2 ^ n :=
  ⟨.inr, fun h' => h'.elim (Fits.mono h) id⟩

@[simp] theorem fits_one {n : Nat} : Fits 1 n ↔ 1 < 2 ^ n := Iff.rfl

@[simp] theorem fits_ofNat {v n : Nat} [v.AtLeastTwo] : Fits ofNat(v) n ↔ ofNat(v) < 2 ^ n := Iff.rfl

@[simp] theorem fits_toNat {m n : Nat} (x : BitVec m) : Fits x.toNat n ↔ m ≤ n ∨ x.toNat < 2 ^ n := fits_iff x.isLt

@[simp] theorem fits_boolToNat {n : Nat} (x : Bool) : Fits x.toNat n ↔ 1 ≤ n ∨ x.toNat < 2 ^ n := fits_iff (m := 1) x.toNat_lt

@[simp] theorem fld_of_fits {v n : Nat} (h : Fits v n) : fld v 0 n = v := fld_zero_of_lt h

@[simp] theorem fld_above_of_fits {v k n : Nat} (h : Fits v k) : fld v k n = 0 := by simp [fld, Nat.div_eq_of_lt h]

/-- The fields stand below bit `k`, from the highest to the lowest, each within the bits up to the one before it. -/
def Below : Nat → List (Nat × Nat) → Prop
  | _, [] => True
  | k, (v, lo) :: t => lo ≤ k ∧ Fits v (k - lo) ∧ Below lo t

@[simp] theorem below_nil (k : Nat) : Below k [] := trivial

@[simp] theorem below_cons {k v lo : Nat} {t : List (Nat × Nat)} :
    Below k ((v, lo) :: t) ↔ lo ≤ k ∧ Fits v (k - lo) ∧ Below lo t := Iff.rfl

theorem Below.pack_lt : ∀ {k : Nat} {fs : List (Nat × Nat)}, Below k fs → pack fs < 2 ^ k
  | _, [], _ => by simp [pack]
  | _, (v, lo) :: t, ⟨h, hv, ht⟩ => by
    obtain ⟨m, rfl⟩ := Nat.exists_eq_add_of_le h
    have := ht.pack_lt
    rw [Nat.add_sub_cancel_left, Fits] at hv
    rw [pack, pow_add]
    nlinarith

@[simp] theorem fld_pack_nil (lo n : Nat) : fld (pack []) lo n = 0 := by simp [fld, pack]

@[simp] theorem fld_pack_low {v k lo n : Nat} {t : List (Nat × Nat)} (h : lo + n ≤ k) :
    fld (pack ((v, k) :: t)) lo n = fld (pack t) lo n := fld_mul_add_low v _ k lo n h

@[simp] theorem fld_pack_high {v k lo n : Nat} {t : List (Nat × Nat)} (h : k ≤ lo) (ht : Below k t) :
    fld (pack ((v, k) :: t)) lo n = fld v (lo - k) n := fld_mul_add_high v _ k lo n h ht.pack_lt

/-- An instruction's first word is its header bits, its major and its fields below bit 20 (R32). -/
theorem headWord_split (h : Hdr) (op : Nat) (fs : List (Nat × Nat)) :
    headWord h op fs = (((h.c.toNat * 2 + h.e.toNat) * 2 ^ 3 + h.s.toNat) * 2 ^ 7 + op) * 2 ^ 20 + pack fs := by
  rw [headWord]; ring

@[simp] theorem fld_headWord {h : Hdr} {op : Nat} {fs : List (Nat × Nat)} {lo n : Nat} (hl : lo + n ≤ 20) :
    fld (headWord h op fs) lo n = fld (pack fs) lo n := by
  rw [headWord_split, fld_mul_add_low _ _ _ _ _ hl]

@[simp] theorem opOf_headWord {h : Hdr} {op : Nat} {fs : List (Nat × Nat)} (ho : op < 2 ^ 7) (hf : Below 20 fs) :
    opOf (headWord h op fs) = op := by
  rw [opOf, headWord_split, fld_mul_add_high _ _ _ _ _ le_rfl hf.pack_lt, Nat.sub_self, fld_mul_add_low _ _ _ 0 7 (by omega),
    fld_zero_of_lt ho]

/-- The fields above the major are read from the header bits alone. -/
theorem fld_headWord_header {h : Hdr} {op : Nat} {fs : List (Nat × Nat)} {lo n : Nat} (ho : op < 2 ^ 7) (hf : Below 20 fs) (hl : 27 ≤ lo) :
    fld (headWord h op fs) lo n = fld ((h.c.toNat * 2 + h.e.toNat) * 2 ^ 3 + h.s.toNat) (lo - 27) n := by
  rw [headWord_split, fld_mul_add_high _ _ _ _ _ (by omega) hf.pack_lt, fld_mul_add_high _ _ _ _ _ (by omega) ho, Nat.sub_sub]

@[simp] theorem hdrOf_headWord {h : Hdr} {op : Nat} {fs : List (Nat × Nat)} (ho : op < 2 ^ 7) (hf : Below 20 fs) :
    hdrOf (headWord h op fs) = h := by
  obtain ⟨c, e, s⟩ := h
  have hs := s.isLt
  have he := e.toNat_lt
  have hc : fld (c.toNat * 2 + e.toNat) 1 1 = c.toNat := by have := c.toNat_lt; simp only [fld]; omega
  have he : fld (c.toNat * 2 + e.toNat) 0 1 = e.toNat := by simp only [fld]; omega
  simp only [hdrOf, bitAt_eq_fld, Hdr.mk.injEq, fld_headWord_header ho hf, Nat.reduceLeDiff, Nat.reduceSub]
  refine ⟨?_, ?_, ?_⟩
  · rw [fld_mul_add_high _ _ _ _ _ (by omega) hs, hc, beq_toNat_one]
  · rw [fld_mul_add_high _ _ _ _ _ (by omega) hs, he, beq_toNat_one]
  · rw [fld_mul_add_low _ _ _ _ _ (by omega), fld_zero_of_lt hs, BitVec.ofNat_toNat, BitVec.setWidth_eq]

/-- A number of 32 bits. -/
def IsWord (x : Nat) : Prop := x < 2 ^ 32

@[simp] theorem isWord_headWord {h : Hdr} {op : Nat} {fs : List (Nat × Nat)} (ho : op < 2 ^ 7) (hf : Below 20 fs) :
    IsWord (headWord h op fs) := by
  have := hf.pack_lt
  have := h.s.isLt
  have := h.e.toNat_lt
  have := h.c.toNat_lt
  rw [IsWord, headWord]
  omega

@[simp] theorem isWord_pack {fs : List (Nat × Nat)} (hf : Below 32 fs) : IsWord (pack fs) := hf.pack_lt

/-- The bits of `w` from bit `k` up. -/
def bitsAbove (w k : Nat) : Nat := w / 2 ^ k * 2 ^ k

theorem bitsAbove_add_fld (w lo n : Nat) : bitsAbove w (lo + n) + fld w lo n * 2 ^ lo = bitsAbove w lo := by
  have := Nat.div_add_mod (w / 2 ^ lo) (2 ^ n)
  rw [Nat.div_div_eq_div_mul, ← pow_add] at this
  rw [bitsAbove, bitsAbove, fld, pow_add, ← mul_assoc, mul_right_comm, ← add_mul, mul_comm (_ / _) (2 ^ n), ← pow_add, this]

theorem bitsAbove_of_lt {w k : Nat} (h : w < 2 ^ k) : bitsAbove w k = 0 := by simp [bitsAbove, Nat.div_eq_of_lt h]

/-- The fields are all the bits that `w` has below bit `k`. -/
def Spells (w k : Nat) (fs : List (Nat × Nat)) : Prop := bitsAbove w k + pack fs = w

@[simp] theorem spells_zero (w : Nat) : Spells w 0 [] := by simp [Spells, bitsAbove, pack]

theorem spells_cons (w lo n : Nat) (t : List (Nat × Nat)) : Spells w (lo + n) ((fld w lo n, lo) :: t) ↔ Spells w lo t := by
  rw [Spells, Spells, pack, ← add_assoc, bitsAbove_add_fld]

@[simp] theorem spells_fld {w lo n k : Nat} {t : List (Nat × Nat)} (h : lo + n = k) :
    Spells w k ((fld w lo n, lo) :: t) ↔ Spells w lo t := by
  rw [← h, spells_cons]

@[simp] theorem spells_cons_zero (w k lo : Nat) (t : List (Nat × Nat)) : Spells w k ((0, lo) :: t) ↔ Spells w k t := by
  simp [Spells, pack]

/-- What a word has in a field, as a rule that takes the field off a list of fields which spells the word. -/
theorem fld_eq_iff_spells {w lo n v : Nat} : fld w lo n = v ↔ ∀ t, Spells w (lo + n) ((v, lo) :: t) ↔ Spells w lo t := by
  refine ⟨fun h t => by rw [← h, spells_cons], fun h => ?_⟩
  have ht : Spells w lo [(fld w 0 lo, 0)] := (spells_fld (Nat.zero_add lo)).2 (spells_zero w)
  have hv := (h _).2 ht
  have hf := (spells_cons w lo n _).2 ht
  simp only [Spells, pack] at hv hf
  have : fld w lo n * 2 ^ lo = v * 2 ^ lo := by omega
  exact Nat.eq_of_mul_eq_mul_right (by positivity) this

theorem pack_eq_iff_spells {w : Nat} {fs : List (Nat × Nat)} (h : IsWord w) : pack fs = w ↔ Spells w 32 fs := by
  rw [Spells, bitsAbove_of_lt h, Nat.zero_add]

theorem headWord_eq_iff_spells {w op : Nat} {fs : List (Nat × Nat)} (h : IsWord w) (ho : opOf w = op) :
    headWord (hdrOf w) op fs = w ↔ Spells w 20 fs := by
  have h31 := bitsAbove_add_fld w 31 1
  have h30 := bitsAbove_add_fld w 30 1
  have h27 := bitsAbove_add_fld w 27 3
  have h20 := bitsAbove_add_fld w 20 7
  rw [bitsAbove_of_lt h, Nat.zero_add] at h31
  rw [opOf] at ho
  rw [ho] at h20
  simp only [headWord, hdrOf, Spells, toNat_bitAt, BitVec.toNat_ofNat, fld_mod, h31, h30, h27, h20]

end Sys2Proof
end

section
/-! SUPPORT. Codes of the operands: every code is read back as its operand, and fits its field (the tables of R31 to R35). -/

namespace Sys2Proof

@[simp] theorem CheckMode.code_spec (x : CheckMode) : CheckMode.ofNat? x.code = some x ∧ ∀ n, Fits x.code n ↔ 2 ≤ n ∨ x.code < 2 ^ n :=
  ⟨by cases x <;> rfl, fun _ => fits_iff (m := 2) (by cases x <;> decide)⟩

@[simp] theorem ICond.code_spec (x : ICond) : ICond.ofNat? x.code = some x ∧ ∀ n, Fits x.code n ↔ 4 ≤ n ∨ x.code < 2 ^ n :=
  ⟨by cases x <;> rfl, fun _ => fits_iff (m := 4) (by cases x <;> decide)⟩

@[simp] theorem Comb.code_spec (x : Comb) : Comb.ofNat? x.code = some x ∧ ∀ n, Fits x.code n ↔ 2 ≤ n ∨ x.code < 2 ^ n :=
  ⟨by cases x <;> rfl, fun _ => fits_iff (m := 2) (by cases x <;> decide)⟩

@[simp] theorem DotMode.code_spec (x : DotMode) : DotMode.ofNat? x.code = some x ∧ ∀ n, Fits x.code n ↔ 2 ≤ n ∨ x.code < 2 ^ n :=
  ⟨by cases x <;> rfl, fun _ => fits_iff (m := 2) (by cases x <;> decide)⟩

@[simp] theorem KsetMode.code_spec (x : KsetMode) : KsetMode.ofNat? x.code = some x ∧ ∀ n, Fits x.code n ↔ 2 ≤ n ∨ x.code < 2 ^ n :=
  ⟨by cases x <;> rfl, fun _ => fits_iff (m := 2) (by cases x <;> decide)⟩

@[simp] theorem KfvMode.code_spec (x : KfvMode) : KfvMode.ofNat? x.code = some x ∧ ∀ n, Fits x.code n ↔ 2 ≤ n ∨ x.code < 2 ^ n :=
  ⟨by cases x <;> rfl, fun _ => fits_iff (m := 2) (by cases x <;> decide)⟩

@[simp] theorem KCond.code_spec (x : KCond) : KCond.ofNat? x.code = some x ∧ ∀ n, Fits x.code n ↔ 2 ≤ n ∨ x.code < 2 ^ n :=
  ⟨by cases x <;> rfl, fun _ => fits_iff (m := 2) (by cases x <;> decide)⟩

@[simp] theorem QDir.code_spec (x : QDir) : QDir.ofNat? x.code = some x ∧ ∀ n, Fits x.code n ↔ 2 ≤ n ∨ x.code < 2 ^ n :=
  ⟨by cases x <;> rfl, fun _ => fits_iff (m := 2) (by cases x <;> decide)⟩

@[simp] theorem HelperMode.code_spec (x : HelperMode) : HelperMode.ofNat? x.code = some x ∧ ∀ n, Fits x.code n ↔ 2 ≤ n ∨ x.code < 2 ^ n :=
  ⟨by cases x <;> rfl, fun _ => fits_iff (m := 2) (by cases x <;> decide)⟩

@[simp] theorem ShuffleMode.code_spec (x : ShuffleMode) : ShuffleMode.ofNat? x.code = some x ∧ ∀ n, Fits x.code n ↔ 2 ≤ n ∨ x.code < 2 ^ n :=
  ⟨by cases x <;> rfl, fun _ => fits_iff (m := 2) (by cases x <;> decide)⟩

@[simp] theorem VoteMode.code_spec (x : VoteMode) : VoteMode.ofNat? x.code = some x ∧ ∀ n, Fits x.code n ↔ 2 ≤ n ∨ x.code < 2 ^ n :=
  ⟨by cases x <;> rfl, fun _ => fits_iff (m := 2) (by cases x <;> decide)⟩

@[simp] theorem RedOp.code_spec (x : RedOp) : RedOp.ofNat? x.code = some x ∧ ∀ n, Fits x.code n ↔ 3 ≤ n ∨ x.code < 2 ^ n :=
  ⟨by cases x <;> rfl, fun _ => fits_iff (m := 3) (by cases x <;> decide)⟩

@[simp] theorem FCond.code_spec (x : FCond) : FCond.ofNat? x.code = some x ∧ ∀ n, Fits x.code n ↔ 3 ≤ n ∨ x.code < 2 ^ n :=
  ⟨by cases x <;> rfl, fun _ => fits_iff (m := 3) (by cases x <;> decide)⟩

@[simp] theorem Rm.code_spec (x : Rm) : Rm.ofNat? x.code = some x ∧ ∀ n, Fits x.code n ↔ 2 ≤ n ∨ x.code < 2 ^ n :=
  ⟨by cases x <;> rfl, fun _ => fits_iff (m := 2) (by cases x <;> decide)⟩

@[simp] theorem Rm5.code_spec (x : Rm5) : Rm5.ofNat? x.code = some x ∧ ∀ n, Fits x.code n ↔ 3 ≤ n ∨ x.code < 2 ^ n :=
  ⟨by cases x <;> rfl, fun _ => fits_iff (m := 3) (by cases x <;> decide)⟩

@[simp] theorem FType.code_spec (x : FType) : FType.ofNat? x.code = some x ∧ ∀ n, Fits x.code n ↔ 2 ≤ n ∨ x.code < 2 ^ n :=
  ⟨by cases x <;> rfl, fun _ => fits_iff (m := 2) (by cases x <;> decide)⟩

@[simp] theorem IType.code_spec (x : IType) : IType.ofNat? x.code = some x ∧ ∀ n, Fits x.code n ↔ 3 ≤ n ∨ x.code < 2 ^ n :=
  ⟨by cases x <;> rfl, fun _ => fits_iff (m := 3) (by cases x <;> decide)⟩

@[simp] theorem ScaleFmt.code_spec (x : ScaleFmt) : ScaleFmt.ofNat? x.code = some x ∧ ∀ n, Fits x.code n ↔ 2 ≤ n ∨ x.code < 2 ^ n :=
  ⟨by cases x <;> rfl, fun _ => fits_iff (m := 2) (by cases x <;> decide)⟩

@[simp] theorem Semiring.code_spec (x : Semiring) : Semiring.ofNat? x.code = some x ∧ ∀ n, Fits x.code n ↔ 2 ≤ n ∨ x.code < 2 ^ n :=
  ⟨by cases x <;> rfl, fun _ => fits_iff (m := 2) (by cases x <;> decide)⟩

@[simp] theorem MatType.code_spec (x : MatType) : MatType.ofNat? x.code = some x ∧ ∀ n, Fits x.code n ↔ 3 ≤ n ∨ x.code < 2 ^ n :=
  ⟨by cases x <;> rfl, fun _ => fits_iff (m := 3) (by cases x <;> decide)⟩

@[simp] theorem BldType.code_spec (x : BldType) : BldType.ofNat? x.code = some x ∧ ∀ n, Fits x.code n ↔ 2 ≤ n ∨ x.code < 2 ^ n :=
  ⟨by cases x <;> rfl, fun _ => fits_iff (m := 2) (by cases x <;> decide)⟩

@[simp] theorem MaczVal.code_spec (x : MaczVal) : MaczVal.ofNat? x.code = some x ∧ ∀ n, Fits x.code n ↔ 2 ≤ n ∨ x.code < 2 ^ n :=
  ⟨by cases x <;> rfl, fun _ => fits_iff (m := 2) (by cases x <;> decide)⟩

@[simp] theorem ESize.code_spec (x : ESize) : ESize.ofNat? x.code = some x ∧ ∀ n, Fits x.code n ↔ 2 ≤ n ∨ x.code < 2 ^ n :=
  ⟨by cases x <;> rfl, fun _ => fits_iff (m := 2) (by cases x <;> decide)⟩

@[simp] theorem Scale.code_spec (x : Scale) : Scale.ofNat? x.code = some x ∧ ∀ n, Fits x.code n ↔ 3 ≤ n ∨ x.code < 2 ^ n :=
  ⟨by cases x <;> rfl, fun _ => fits_iff (m := 3) (by cases x <;> decide)⟩

@[simp] theorem Scope.code_spec (x : Scope) : Scope.ofNat? x.code = some x ∧ ∀ n, Fits x.code n ↔ 3 ≤ n ∨ x.code < 2 ^ n :=
  ⟨by cases x <;> rfl, fun _ => fits_iff (m := 3) (by cases x <;> decide)⟩

@[simp] theorem AtomOp.code_spec (x : AtomOp) : AtomOp.ofNat? x.code = some x ∧ ∀ n, Fits x.code n ↔ 4 ≤ n ∨ x.code < 2 ^ n :=
  ⟨by cases x <;> rfl, fun _ => fits_iff (m := 4) (by cases x <;> decide)⟩

@[simp] theorem Ord.code_spec (x : Ord) : Ord.ofNat? x.code = some x ∧ ∀ n, Fits x.code n ↔ 3 ≤ n ∨ x.code < 2 ^ n :=
  ⟨by cases x <;> rfl, fun _ => fits_iff (m := 3) (by cases x <;> decide)⟩

@[simp] theorem TOutcome.code_spec (x : TOutcome) : TOutcome.ofNat? x.code = some x ∧ ∀ n, Fits x.code n ↔ 2 ≤ n ∨ x.code < 2 ^ n :=
  ⟨by cases x <;> rfl, fun _ => fits_iff (m := 2) (by cases x <;> decide)⟩

@[simp] theorem MapSel.code_spec (x : MapSel) : MapSel.ofNat? x.code = some x ∧ ∀ n, Fits x.code n ↔ 4 ≤ n ∨ x.code < 2 ^ n :=
  ⟨by cases x <;> rfl, fun _ => fits_iff (m := 4) (by cases x <;> decide)⟩

@[simp] theorem RftMode.code_spec (x : RftMode) : RftMode.ofNat? x.code = some x ∧ ∀ n, Fits x.code n ↔ 2 ≤ n ∨ x.code < 2 ^ n :=
  ⟨by cases x <;> rfl, fun _ => fits_iff (m := 2) (by cases x <;> decide)⟩

@[simp] theorem HoldOp.code_spec (x : HoldOp) : HoldOp.ofNat? x.code = some x ∧ ∀ n, Fits x.code n ↔ 2 ≤ n ∨ x.code < 2 ^ n :=
  ⟨by cases x <;> rfl, fun _ => fits_iff (m := 2) (by cases x <;> decide)⟩

@[simp] theorem SReg.code_spec (x : SReg) : SReg.ofNat? x.code = some x ∧ ∀ n, Fits x.code n ↔ 5 ≤ n ∨ x.code < 2 ^ n :=
  ⟨by cases x <;> rfl, fun _ => fits_iff (m := 5) (by cases x <;> decide)⟩

@[simp] theorem OrgClass.code_spec (x : OrgClass) : OrgClass.ofNat? x.code = some x ∧ ∀ n, Fits x.code n ↔ 3 ≤ n ∨ x.code < 2 ^ n :=
  ⟨by cases x <;> rfl, fun _ => fits_iff (m := 3) (by cases x <;> decide)⟩

@[simp] theorem ASize.code_spec (x : ASize) : ASize.ofNat? x.code = some x ∧ ∀ n, Fits x.code n ↔ 2 ≤ n ∨ x.code < 2 ^ n :=
  ⟨by cases x <;> rfl, fun _ => fits_iff (m := 2) (by cases x <;> decide)⟩

@[simp] theorem drainCode_spec (x : FType) : drainType? (drainCode x) = some x ∧ ∀ n, Fits (drainCode x) n ↔ 2 ≤ n ∨ drainCode x < 2 ^ n :=
  ⟨by cases x <;> rfl, fun _ => fits_iff (m := 2) (by cases x <;> decide)⟩

theorem CheckMode.ofNat?_eq_some {n : Nat} {x : CheckMode} : CheckMode.ofNat? n = some x ↔ x.code = n := by
  refine ⟨fun h => ?_, fun h => h ▸ x.code_spec.1⟩
  unfold CheckMode.ofNat? at h
  split at h <;> cases h <;> rfl

theorem ICond.ofNat?_eq_some {n : Nat} {x : ICond} : ICond.ofNat? n = some x ↔ x.code = n := by
  refine ⟨fun h => ?_, fun h => h ▸ x.code_spec.1⟩
  unfold ICond.ofNat? at h
  split at h <;> cases h <;> rfl

theorem Comb.ofNat?_eq_some {n : Nat} {x : Comb} : Comb.ofNat? n = some x ↔ x.code = n := by
  refine ⟨fun h => ?_, fun h => h ▸ x.code_spec.1⟩
  unfold Comb.ofNat? at h
  split at h <;> cases h <;> rfl

theorem DotMode.ofNat?_eq_some {n : Nat} {x : DotMode} : DotMode.ofNat? n = some x ↔ x.code = n := by
  refine ⟨fun h => ?_, fun h => h ▸ x.code_spec.1⟩
  unfold DotMode.ofNat? at h
  split at h <;> cases h <;> rfl

theorem KsetMode.ofNat?_eq_some {n : Nat} {x : KsetMode} : KsetMode.ofNat? n = some x ↔ x.code = n := by
  refine ⟨fun h => ?_, fun h => h ▸ x.code_spec.1⟩
  unfold KsetMode.ofNat? at h
  split at h <;> cases h <;> rfl

theorem KfvMode.ofNat?_eq_some {n : Nat} {x : KfvMode} : KfvMode.ofNat? n = some x ↔ x.code = n := by
  refine ⟨fun h => ?_, fun h => h ▸ x.code_spec.1⟩
  unfold KfvMode.ofNat? at h
  split at h <;> cases h <;> rfl

theorem KCond.ofNat?_eq_some {n : Nat} {x : KCond} : KCond.ofNat? n = some x ↔ x.code = n := by
  refine ⟨fun h => ?_, fun h => h ▸ x.code_spec.1⟩
  unfold KCond.ofNat? at h
  split at h <;> cases h <;> rfl

theorem QDir.ofNat?_eq_some {n : Nat} {x : QDir} : QDir.ofNat? n = some x ↔ x.code = n := by
  refine ⟨fun h => ?_, fun h => h ▸ x.code_spec.1⟩
  unfold QDir.ofNat? at h
  split at h <;> cases h <;> rfl

theorem HelperMode.ofNat?_eq_some {n : Nat} {x : HelperMode} : HelperMode.ofNat? n = some x ↔ x.code = n := by
  refine ⟨fun h => ?_, fun h => h ▸ x.code_spec.1⟩
  unfold HelperMode.ofNat? at h
  split at h <;> cases h <;> rfl

theorem ShuffleMode.ofNat?_eq_some {n : Nat} {x : ShuffleMode} : ShuffleMode.ofNat? n = some x ↔ x.code = n := by
  refine ⟨fun h => ?_, fun h => h ▸ x.code_spec.1⟩
  unfold ShuffleMode.ofNat? at h
  split at h <;> cases h <;> rfl

theorem VoteMode.ofNat?_eq_some {n : Nat} {x : VoteMode} : VoteMode.ofNat? n = some x ↔ x.code = n := by
  refine ⟨fun h => ?_, fun h => h ▸ x.code_spec.1⟩
  unfold VoteMode.ofNat? at h
  split at h <;> cases h <;> rfl

theorem RedOp.ofNat?_eq_some {n : Nat} {x : RedOp} : RedOp.ofNat? n = some x ↔ x.code = n := by
  refine ⟨fun h => ?_, fun h => h ▸ x.code_spec.1⟩
  unfold RedOp.ofNat? at h
  split at h <;> cases h <;> rfl

theorem FCond.ofNat?_eq_some {n : Nat} {x : FCond} : FCond.ofNat? n = some x ↔ x.code = n := by
  refine ⟨fun h => ?_, fun h => h ▸ x.code_spec.1⟩
  unfold FCond.ofNat? at h
  split at h <;> cases h <;> rfl

theorem Rm.ofNat?_eq_some {n : Nat} {x : Rm} : Rm.ofNat? n = some x ↔ x.code = n := by
  refine ⟨fun h => ?_, fun h => h ▸ x.code_spec.1⟩
  unfold Rm.ofNat? at h
  split at h <;> cases h <;> rfl

theorem Rm5.ofNat?_eq_some {n : Nat} {x : Rm5} : Rm5.ofNat? n = some x ↔ x.code = n := by
  refine ⟨fun h => ?_, fun h => h ▸ x.code_spec.1⟩
  unfold Rm5.ofNat? at h
  split at h <;> cases h <;> rfl

theorem FType.ofNat?_eq_some {n : Nat} {x : FType} : FType.ofNat? n = some x ↔ x.code = n := by
  refine ⟨fun h => ?_, fun h => h ▸ x.code_spec.1⟩
  unfold FType.ofNat? at h
  split at h <;> cases h <;> rfl

theorem IType.ofNat?_eq_some {n : Nat} {x : IType} : IType.ofNat? n = some x ↔ x.code = n := by
  refine ⟨fun h => ?_, fun h => h ▸ x.code_spec.1⟩
  unfold IType.ofNat? at h
  split at h <;> cases h <;> rfl

theorem ScaleFmt.ofNat?_eq_some {n : Nat} {x : ScaleFmt} : ScaleFmt.ofNat? n = some x ↔ x.code = n := by
  refine ⟨fun h => ?_, fun h => h ▸ x.code_spec.1⟩
  unfold ScaleFmt.ofNat? at h
  split at h <;> cases h <;> rfl

theorem Semiring.ofNat?_eq_some {n : Nat} {x : Semiring} : Semiring.ofNat? n = some x ↔ x.code = n := by
  refine ⟨fun h => ?_, fun h => h ▸ x.code_spec.1⟩
  unfold Semiring.ofNat? at h
  split at h <;> cases h <;> rfl

theorem MatType.ofNat?_eq_some {n : Nat} {x : MatType} : MatType.ofNat? n = some x ↔ x.code = n := by
  refine ⟨fun h => ?_, fun h => h ▸ x.code_spec.1⟩
  unfold MatType.ofNat? at h
  split at h <;> cases h <;> rfl

theorem BldType.ofNat?_eq_some {n : Nat} {x : BldType} : BldType.ofNat? n = some x ↔ x.code = n := by
  refine ⟨fun h => ?_, fun h => h ▸ x.code_spec.1⟩
  unfold BldType.ofNat? at h
  split at h <;> cases h <;> rfl

theorem MaczVal.ofNat?_eq_some {n : Nat} {x : MaczVal} : MaczVal.ofNat? n = some x ↔ x.code = n := by
  refine ⟨fun h => ?_, fun h => h ▸ x.code_spec.1⟩
  unfold MaczVal.ofNat? at h
  split at h <;> cases h <;> rfl

theorem ESize.ofNat?_eq_some {n : Nat} {x : ESize} : ESize.ofNat? n = some x ↔ x.code = n := by
  refine ⟨fun h => ?_, fun h => h ▸ x.code_spec.1⟩
  unfold ESize.ofNat? at h
  split at h <;> cases h <;> rfl

theorem Scale.ofNat?_eq_some {n : Nat} {x : Scale} : Scale.ofNat? n = some x ↔ x.code = n := by
  refine ⟨fun h => ?_, fun h => h ▸ x.code_spec.1⟩
  unfold Scale.ofNat? at h
  split at h <;> cases h <;> rfl

theorem Scope.ofNat?_eq_some {n : Nat} {x : Scope} : Scope.ofNat? n = some x ↔ x.code = n := by
  refine ⟨fun h => ?_, fun h => h ▸ x.code_spec.1⟩
  unfold Scope.ofNat? at h
  split at h <;> cases h <;> rfl

theorem AtomOp.ofNat?_eq_some {n : Nat} {x : AtomOp} : AtomOp.ofNat? n = some x ↔ x.code = n := by
  refine ⟨fun h => ?_, fun h => h ▸ x.code_spec.1⟩
  unfold AtomOp.ofNat? at h
  split at h <;> cases h <;> rfl

theorem Ord.ofNat?_eq_some {n : Nat} {x : Ord} : Ord.ofNat? n = some x ↔ x.code = n := by
  refine ⟨fun h => ?_, fun h => h ▸ x.code_spec.1⟩
  unfold Ord.ofNat? at h
  split at h <;> cases h <;> rfl

theorem TOutcome.ofNat?_eq_some {n : Nat} {x : TOutcome} : TOutcome.ofNat? n = some x ↔ x.code = n := by
  refine ⟨fun h => ?_, fun h => h ▸ x.code_spec.1⟩
  unfold TOutcome.ofNat? at h
  split at h <;> cases h <;> rfl

theorem MapSel.ofNat?_eq_some {n : Nat} {x : MapSel} : MapSel.ofNat? n = some x ↔ x.code = n := by
  refine ⟨fun h => ?_, fun h => h ▸ x.code_spec.1⟩
  unfold MapSel.ofNat? at h
  split at h <;> cases h <;> rfl

theorem RftMode.ofNat?_eq_some {n : Nat} {x : RftMode} : RftMode.ofNat? n = some x ↔ x.code = n := by
  refine ⟨fun h => ?_, fun h => h ▸ x.code_spec.1⟩
  unfold RftMode.ofNat? at h
  split at h <;> cases h <;> rfl

theorem HoldOp.ofNat?_eq_some {n : Nat} {x : HoldOp} : HoldOp.ofNat? n = some x ↔ x.code = n := by
  refine ⟨fun h => ?_, fun h => h ▸ x.code_spec.1⟩
  unfold HoldOp.ofNat? at h
  split at h <;> cases h <;> rfl

theorem SReg.ofNat?_eq_some {n : Nat} {x : SReg} : SReg.ofNat? n = some x ↔ x.code = n := by
  refine ⟨fun h => ?_, fun h => h ▸ x.code_spec.1⟩
  unfold SReg.ofNat? at h
  split at h <;> cases h <;> rfl

theorem OrgClass.ofNat?_eq_some {n : Nat} {x : OrgClass} : OrgClass.ofNat? n = some x ↔ x.code = n := by
  refine ⟨fun h => ?_, fun h => h ▸ x.code_spec.1⟩
  unfold OrgClass.ofNat? at h
  split at h <;> cases h <;> rfl

theorem ASize.ofNat?_eq_some {n : Nat} {x : ASize} : ASize.ofNat? n = some x ↔ x.code = n := by
  refine ⟨fun h => ?_, fun h => h ▸ x.code_spec.1⟩
  unfold ASize.ofNat? at h
  split at h <;> cases h <;> rfl

theorem drainType?_eq_some {n : Nat} {x : FType} : drainType? n = some x ↔ drainCode x = n := by
  refine ⟨fun h => ?_, fun h => h ▸ (drainCode_spec x).1⟩
  unfold drainType? at h
  split at h <;> cases h <;> rfl

end Sys2Proof
end

section
/-! SUPPORT. From instructions to words: every instruction is read back from its own encoding. One theorem per chapter of the opcode map (R33).
The decoder's match on the major is evaluated once for each major, in the `rawDecode_` theorems; everything after them cites those. -/

namespace Sys2Proof

/-- The instruction whose fields an encoding holds. -/
def rawReread : List Nat → Option Instr
  | [w] => rawDecode w 0
  | [w, pl] => rawDecode w pl
  | _ => none

theorem rawDecode_of_rawReread {i : Instr} : ∀ {e : List Nat}, rawReread e = some i → rawDecode (e.getD 0 0) (e.getD 1 0) = some i
  | [_], h => h
  | [_, _], h => h

/-- The encoding is made of words, and the fields of those words are the instruction's. -/
def RoundTrips (i : Instr) : Prop := (∀ x ∈ encode i, IsWord x) ∧ rawReread (encode i) = some i

theorem rawDecode_control (w pl : Nat) :
    (opOf w = 0x00 → rawDecode w pl = rawNop w) ∧
    (opOf w = 0x01 → rawDecode w pl = rawBra w) ∧
    (opOf w = 0x02 → rawDecode w pl = rawBrp w) ∧
    (opOf w = 0x03 → rawDecode w pl = rawBrn w) ∧
    (opOf w = 0x04 → rawDecode w pl = rawBru w) ∧
    (opOf w = 0x05 → rawDecode w pl = rawBruz w) ∧
    (opOf w = 0x06 → rawDecode w pl = rawJmpx w) ∧
    (opOf w = 0x07 → rawDecode w pl = rawCall w) ∧
    (opOf w = 0x08 → rawDecode w pl = rawCallx w) ∧
    (opOf w = 0x09 → rawDecode w pl = rawRet w) ∧
    (opOf w = 0x0A → rawDecode w pl = rawExit w) ∧
    (opOf w = 0x0B → rawDecode w pl = rawDwait w) ∧
    (opOf w = 0x0C → rawDecode w pl = rawChkm w) ∧
    (opOf w = 0x0D → rawDecode w pl = rawBrk w) := by
  and_intros <;> intro h <;> (rw [rawDecode.eq_def, h]; rfl)

theorem roundTrips_control :
    (∀ h, RoundTrips (.nop h)) ∧
    (∀ h off, RoundTrips (.bra h off)) ∧
    (∀ h p off, RoundTrips (.brp h p off)) ∧
    (∀ h p off, RoundTrips (.brn h p off)) ∧
    (∀ h k off, RoundTrips (.bru h k off)) ∧
    (∀ h k off, RoundTrips (.bruz h k off)) ∧
    (∀ h ka, RoundTrips (.jmpx h ka)) ∧
    (∀ h k off, RoundTrips (.call h k off)) ∧
    (∀ h kd ka, RoundTrips (.callx h kd ka)) ∧
    (∀ h ka, RoundTrips (.ret h ka)) ∧
    (∀ h, RoundTrips (.exit h)) ∧
    (∀ h mask n, RoundTrips (.dwait h mask n)) ∧
    (∀ h mode, RoundTrips (.chkm h mode)) ∧
    (∀ h code, RoundTrips (.brk h code)) := by
  simp [RoundTrips, rawReread, encode.eq_def, rawDecode_control, rawNop, rawBra, rawBrp, rawBrn, rawBru, rawBruz, rawJmpx, rawCall, rawCallx, rawRet, rawExit,
    rawDwait, rawChkm, rawBrk]

theorem rawDecode_arithmetic (w pl : Nat) :
    (opOf w = 0x10 → rawDecode w pl = rawIadd w) ∧
    (opOf w = 0x11 → rawDecode w pl = rawIsub w) ∧
    (opOf w = 0x12 → rawDecode w pl = rawImul w) ∧
    (opOf w = 0x13 → rawDecode w pl = rawImulhS w) ∧
    (opOf w = 0x14 → rawDecode w pl = rawImulhN w) ∧
    (opOf w = 0x15 → rawDecode w pl = rawImad w) ∧
    (opOf w = 0x16 → rawDecode w pl = rawIaddi w) ∧
    (opOf w = 0x17 → rawDecode w pl = rawIminS w) ∧
    (opOf w = 0x18 → rawDecode w pl = rawIminN w) ∧
    (opOf w = 0x19 → rawDecode w pl = rawImaxS w) ∧
    (opOf w = 0x1A → rawDecode w pl = rawImaxN w) ∧
    (opOf w = 0x1B → rawDecode w pl = rawShl w) ∧
    (opOf w = 0x1C → rawDecode w pl = rawShr w) ∧
    (opOf w = 0x1D → rawDecode w pl = rawSar w) ∧
    (opOf w = 0x1E → rawDecode w pl = (rawShli w <|> rawShri w <|> rawSari w <|> rawRoti w)) := by
  and_intros <;> intro h <;> (rw [rawDecode.eq_def, h]; rfl)

theorem roundTrips_arithmetic :
    (∀ h d a b x, RoundTrips (.iadd h d a b x)) ∧
    (∀ h d a b x, RoundTrips (.isub h d a b x)) ∧
    (∀ h d a b x, RoundTrips (.imul h d a b x)) ∧
    (∀ h d a b x, RoundTrips (.imulhS h d a b x)) ∧
    (∀ h d a b x, RoundTrips (.imulhN h d a b x)) ∧
    (∀ h d a b x, RoundTrips (.imad h d a b x)) ∧
    (∀ h d a imm, RoundTrips (.iaddi h d a imm)) ∧
    (∀ h d a b x, RoundTrips (.iminS h d a b x)) ∧
    (∀ h d a b x, RoundTrips (.iminN h d a b x)) ∧
    (∀ h d a b x, RoundTrips (.imaxS h d a b x)) ∧
    (∀ h d a b x, RoundTrips (.imaxN h d a b x)) ∧
    (∀ h d a b x, RoundTrips (.shl h d a b x)) ∧
    (∀ h d a b x, RoundTrips (.shr h d a b x)) ∧
    (∀ h d a b x, RoundTrips (.sar h d a b x)) ∧
    (∀ h d a n, RoundTrips (.shli h d a n)) ∧
    (∀ h d a n, RoundTrips (.shri h d a n)) ∧
    (∀ h d a n, RoundTrips (.sari h d a n)) ∧
    (∀ h d a n, RoundTrips (.roti h d a n)) := by
  simp [RoundTrips, rawReread, encode.eq_def, rawDecode_arithmetic, Option.orElse_eq_orElse, rawIadd, rawIsub, rawImul, rawImulhS, rawImulhN, rawImad,
    rawIaddi, rawIminS, rawIminN, rawImaxS, rawImaxN, rawShl, rawShr, rawSar, rawShli, rawShri, rawSari, rawRoti]

theorem rawDecode_logic (w pl : Nat) :
    (opOf w = 0x1F → rawDecode w pl = rawAnd w) ∧
    (opOf w = 0x20 → rawDecode w pl = rawOr w) ∧
    (opOf w = 0x21 → rawDecode w pl = rawXor w) ∧
    (opOf w = 0x22 → rawDecode w pl = rawAndn w) ∧
    (opOf w = 0x23 → rawDecode w pl = (rawAndi w <|> rawOri w <|> rawXori w)) ∧
    (opOf w = 0x24 → rawDecode w pl = (rawNot w <|> rawPopc w <|> rawClz w <|> rawBrev w <|> rawIabs w <|> rawIneg w)) := by
  and_intros <;> intro h <;> (rw [rawDecode.eq_def, h]; rfl)

theorem roundTrips_logic :
    (∀ h d a b x, RoundTrips (.and h d a b x)) ∧
    (∀ h d a b x, RoundTrips (.or h d a b x)) ∧
    (∀ h d a b x, RoundTrips (.xor h d a b x)) ∧
    (∀ h d a b x, RoundTrips (.andn h d a b x)) ∧
    (∀ h d a imm, RoundTrips (.andi h d a imm)) ∧
    (∀ h d a imm, RoundTrips (.ori h d a imm)) ∧
    (∀ h d a imm, RoundTrips (.xori h d a imm)) ∧
    (∀ h d a x, RoundTrips (.not h d a x)) ∧
    (∀ h d a x, RoundTrips (.popc h d a x)) ∧
    (∀ h d a x, RoundTrips (.clz h d a x)) ∧
    (∀ h d a x, RoundTrips (.brev h d a x)) ∧
    (∀ h d a x, RoundTrips (.iabs h d a x)) ∧
    (∀ h d a x, RoundTrips (.ineg h d a x)) := by
  simp [RoundTrips, rawReread, encode.eq_def, rawDecode_logic, Option.orElse_eq_orElse, rawAnd, rawOr, rawXor, rawAndn, rawAndi, rawOri, rawXori, rawNot,
    rawPopc, rawClz, rawBrev, rawIabs, rawIneg]

theorem rawDecode_select (w pl : Nat) :
    (opOf w = 0x25 → rawDecode w pl = rawBfx w pl) ∧
    (opOf w = 0x26 → rawDecode w pl = rawBfi w pl) ∧
    (opOf w = 0x27 → rawDecode w pl = rawLea w pl) ∧
    (opOf w = 0x28 → rawDecode w pl = rawIcmp w pl) ∧
    (opOf w = 0x29 → rawDecode w pl = rawSel w pl) ∧
    (opOf w = 0x2A → rawDecode w pl = rawMovi w pl) ∧
    (opOf w = 0x2B → rawDecode w pl = rawMovk w) ∧
    (opOf w = 0x2C → rawDecode w pl = rawIdot4 w) := by
  and_intros <;> intro h <;> (rw [rawDecode.eq_def, h]; rfl)

theorem roundTrips_select :
    (∀ h d a x pos len sx, RoundTrips (.bfx h d a x pos len sx)) ∧
    (∀ h d a x pos len, RoundTrips (.bfi h d a x pos len)) ∧
    (∀ h d a b x sh disp, RoundTrips (.lea h d a b x sh disp)) ∧
    (∀ h p a b cond comb q, RoundTrips (.icmp h p a b cond comb q)) ∧
    (∀ h d a b x p, RoundTrips (.sel h d a b x p)) ∧
    (∀ h d x imm, RoundTrips (.movi h d x imm)) ∧
    (∀ h d ka hi x, RoundTrips (.movk h d ka hi x)) ∧
    (∀ h d a b mode, RoundTrips (.idot4 h d a b mode)) := by
  simp [RoundTrips, rawReread, encode.eq_def, bitAt_eq_fld, rawDecode_select, rawBfx, rawBfi, rawLea, rawIcmp, rawSel, rawMovi, rawMovk, rawIdot4]

theorem rawDecode_uniform (w pl : Nat) :
    (opOf w = 0x2D → rawDecode w pl = (rawKadd w <|> rawKsub w <|> rawKmul w <|> rawKand w)) ∧
    (opOf w = 0x2E → rawDecode w pl = (rawKor w <|> rawKxor w <|> rawKshl w <|> rawKshr w)) ∧
    (opOf w = 0x2F → rawDecode w pl = rawKaddi w) ∧
    (opOf w = 0x30 → rawDecode w pl = rawKset w pl) ∧
    (opOf w = 0x31 → rawDecode w pl = rawKcmp w) ∧
    (opOf w = 0x32 → rawDecode w pl = rawKmov w) ∧
    (opOf w = 0x33 → rawDecode w pl = rawKfromv w) := by
  and_intros <;> intro h <;> (rw [rawDecode.eq_def, h]; rfl)

theorem roundTrips_uniform :
    (∀ h kd ka kb, RoundTrips (.kadd h kd ka kb)) ∧
    (∀ h kd ka kb, RoundTrips (.ksub h kd ka kb)) ∧
    (∀ h kd ka kb, RoundTrips (.kmul h kd ka kb)) ∧
    (∀ h kd ka kb, RoundTrips (.kand h kd ka kb)) ∧
    (∀ h kd ka kb, RoundTrips (.kor h kd ka kb)) ∧
    (∀ h kd ka kb, RoundTrips (.kxor h kd ka kb)) ∧
    (∀ h kd ka kb, RoundTrips (.kshl h kd ka kb)) ∧
    (∀ h kd ka kb, RoundTrips (.kshr h kd ka kb)) ∧
    (∀ h kd ka imm, RoundTrips (.kaddi h kd ka imm)) ∧
    (∀ h kd f imm, RoundTrips (.kset h kd f imm)) ∧
    (∀ h kd ka kb cond, RoundTrips (.kcmp h kd ka kb cond)) ∧
    (∀ h kd ka, RoundTrips (.kmov h kd ka)) ∧
    (∀ h kd va lane f, RoundTrips (.kfromv h kd va lane f)) := by
  simp [RoundTrips, rawReread, encode.eq_def, rawDecode_uniform, Option.orElse_eq_orElse, rawKadd, rawKsub, rawKmul, rawKand, rawKor, rawKxor, rawKshl,
    rawKshr, rawKaddi, rawKset, rawKcmp, rawKmov, rawKfromv]

theorem rawDecode_predicate (w pl : Nat) :
    (opOf w = 0x34 → rawDecode w pl = (rawPand w <|> rawPor w <|> rawPxor w <|> rawPandn w)) ∧
    (opOf w = 0x35 → rawDecode w pl = (rawPclr w <|> rawPset w <|> rawPnot w <|> rawPmov w)) ∧
    (opOf w = 0x36 → rawDecode w pl = (rawPtov w <|> rawVtop w)) := by
  and_intros <;> intro h <;> (rw [rawDecode.eq_def, h]; rfl)

theorem roundTrips_predicate :
    (∀ h p a b, RoundTrips (.pand h p a b)) ∧
    (∀ h p a b, RoundTrips (.por h p a b)) ∧
    (∀ h p a b, RoundTrips (.pxor h p a b)) ∧
    (∀ h p a b, RoundTrips (.pandn h p a b)) ∧
    (∀ h p, RoundTrips (.pclr h p)) ∧
    (∀ h p, RoundTrips (.pset h p)) ∧
    (∀ h p a, RoundTrips (.pnot h p a)) ∧
    (∀ h p a, RoundTrips (.pmov h p a)) ∧
    (∀ h vd a, RoundTrips (.ptov h vd a)) ∧
    (∀ h p va, RoundTrips (.vtop h p va)) := by
  simp [RoundTrips, rawReread, encode.eq_def, rawDecode_predicate, Option.orElse_eq_orElse, rawPand, rawPor, rawPxor, rawPandn, rawPclr, rawPset, rawPnot,
    rawPmov, rawPtov, rawVtop]

theorem rawDecode_exchange (w pl : Nat) :
    (opOf w = 0x38 → rawDecode w pl = rawQswp w) ∧
    (opOf w = 0x39 → rawDecode w pl = rawQbc w) ∧
    (opOf w = 0x3A → rawDecode w pl = rawQhlp w) ∧
    (opOf w = 0x3B → rawDecode w pl = rawWshf w) ∧
    (opOf w = 0x3C → rawDecode w pl = rawWshx w) ∧
    (opOf w = 0x3D → rawDecode w pl = rawWvote w) ∧
    (opOf w = 0x3E → rawDecode w pl = rawWred w) := by
  and_intros <;> intro h <;> (rw [rawDecode.eq_def, h]; rfl)

theorem roundTrips_exchange :
    (∀ h d a dir, RoundTrips (.qswp h d a dir)) ∧
    (∀ h d a n, RoundTrips (.qbc h d a n)) ∧
    (∀ h mode, RoundTrips (.qhlp h mode)) ∧
    (∀ h d a b, RoundTrips (.wshf h d a b)) ∧
    (∀ h d a n mode, RoundTrips (.wshx h d a n mode)) ∧
    (∀ h d a mode, RoundTrips (.wvote h d a mode)) ∧
    (∀ h d a op, RoundTrips (.wred h d a op)) := by
  simp [RoundTrips, rawReread, encode.eq_def, rawDecode_exchange, rawQswp, rawQbc, rawQhlp, rawWshf, rawWshx, rawWvote, rawWred]

theorem rawDecode_float (w pl : Nat) :
    (opOf w = 0x40 → rawDecode w pl = rawFadd w) ∧
    (opOf w = 0x41 → rawDecode w pl = rawFsub w) ∧
    (opOf w = 0x42 → rawDecode w pl = rawFmul w) ∧
    (opOf w = 0x43 → rawDecode w pl = rawFfma w) ∧
    (opOf w = 0x44 → rawDecode w pl = rawFmin w) ∧
    (opOf w = 0x45 → rawDecode w pl = rawFmax w) ∧
    (opOf w = 0x46 → rawDecode w pl = (rawFabs w <|> rawFneg w <|> rawFrcp w <|> rawFrsq w <|> rawFsqrt w <|> rawFex2 w <|> rawFlg2 w <|> rawFsin w <|> rawFcos w)) ∧
    (opOf w = 0x47 → rawDecode w pl = rawFcmp w pl) ∧
    (opOf w = 0x48 → rawDecode w pl = rawFdot2 w) ∧
    (opOf w = 0x49 → rawDecode w pl = rawHadd2 w) ∧
    (opOf w = 0x4A → rawDecode w pl = rawHmul2 w) ∧
    (opOf w = 0x4B → rawDecode w pl = rawHfma2 w) ∧
    (opOf w = 0x4C → rawDecode w pl = rawFrnd w) ∧
    (opOf w = 0x4D → rawDecode w pl = rawFsetm w) := by
  and_intros <;> intro h <;> (rw [rawDecode.eq_def, h]; rfl)

theorem roundTrips_float :
    (∀ h d a b x, RoundTrips (.fadd h d a b x)) ∧
    (∀ h d a b x, RoundTrips (.fsub h d a b x)) ∧
    (∀ h d a b x, RoundTrips (.fmul h d a b x)) ∧
    (∀ h d a b x, RoundTrips (.ffma h d a b x)) ∧
    (∀ h d a b x, RoundTrips (.fmin h d a b x)) ∧
    (∀ h d a b x, RoundTrips (.fmax h d a b x)) ∧
    (∀ h d a x, RoundTrips (.fabs h d a x)) ∧
    (∀ h d a x, RoundTrips (.fneg h d a x)) ∧
    (∀ h d a x, RoundTrips (.frcp h d a x)) ∧
    (∀ h d a x, RoundTrips (.frsq h d a x)) ∧
    (∀ h d a x, RoundTrips (.fsqrt h d a x)) ∧
    (∀ h d a x, RoundTrips (.fex2 h d a x)) ∧
    (∀ h d a x, RoundTrips (.flg2 h d a x)) ∧
    (∀ h d a x, RoundTrips (.fsin h d a x)) ∧
    (∀ h d a x, RoundTrips (.fcos h d a x)) ∧
    (∀ h p a b cond comb q, RoundTrips (.fcmp h p a b cond comb q)) ∧
    (∀ h d a b bf, RoundTrips (.fdot2 h d a b bf)) ∧
    (∀ h d a b bf, RoundTrips (.hadd2 h d a b bf)) ∧
    (∀ h d a b bf, RoundTrips (.hmul2 h d a b bf)) ∧
    (∀ h d a b bf, RoundTrips (.hfma2 h d a b bf)) ∧
    (∀ h d a mode, RoundTrips (.frnd h d a mode)) ∧
    (∀ h d mask value, RoundTrips (.fsetm h d mask value)) := by
  simp [RoundTrips, rawReread, encode.eq_def, bitAt_eq_fld, rawDecode_float, Option.orElse_eq_orElse, rawFadd, rawFsub, rawFmul, rawFfma, rawFmin, rawFmax,
    rawFabs, rawFneg, rawFrcp, rawFrsq, rawFsqrt, rawFex2, rawFlg2, rawFsin, rawFcos, rawFcmp, rawFdot2, rawHadd2, rawHmul2, rawHfma2, rawFrnd,
    rawFsetm]

theorem rawDecode_conversion (w pl : Nat) :
    (opOf w = 0x50 → rawDecode w pl = rawFcvt w pl) ∧
    (opOf w = 0x51 → rawDecode w pl = rawFcvti w) ∧
    (opOf w = 0x52 → rawDecode w pl = rawIcvtf w) ∧
    (opOf w = 0x53 → rawDecode w pl = rawFpack w pl) ∧
    (opOf w = 0x54 → rawDecode w pl = rawFunpk w pl) ∧
    (opOf w = 0x55 → rawDecode w pl = rawFscl w) ∧
    (opOf w = 0x56 → rawDecode w pl = rawFsca w pl) ∧
    (opOf w = 0x57 → rawDecode w pl = rawFzct w) := by
  and_intros <;> intro h <;> (rw [rawDecode.eq_def, h]; rfl)

theorem roundTrips_conversion :
    (∀ h d a dty sty shalf dhalf rnd, RoundTrips (.fcvt h d a dty sty shalf dhalf rnd)) ∧
    (∀ h d a it ft rnd, RoundTrips (.fcvti h d a it ft rnd)) ∧
    (∀ h d a it ft rnd, RoundTrips (.icvtf h d a it ft rnd)) ∧
    (∀ h d a b pos kseed, RoundTrips (.fpack h d a b pos kseed)) ∧
    (∀ h d a b pos c sc, RoundTrips (.funpk h d a b pos c sc)) ∧
    (∀ h d a b sf, RoundTrips (.fscl h d a b sf)) ∧
    (∀ h d a b c, RoundTrips (.fsca h d a b c)) ∧
    (∀ h d peek, RoundTrips (.fzct h d peek)) := by
  simp [RoundTrips, rawReread, encode.eq_def, bitAt_eq_fld, rawDecode_conversion, rawFcvt, rawFcvti, rawIcvtf, rawFpack, rawFunpk, rawFscl, rawFsca, rawFzct]

theorem rawDecode_matrix (w pl : Nat) :
    (opOf w = 0x58 → rawDecode w pl = rawMma w pl) ∧
    (opOf w = 0x59 → rawDecode w pl = rawMlut w pl) ∧
    (opOf w = 0x5A → rawDecode w pl = rawMlbld w pl) ∧
    (opOf w = 0x5B → rawDecode w pl = rawMacz w) ∧
    (opOf w = 0x5C → rawDecode w pl = rawMacr w pl) ∧
    (opOf w = 0x5D → rawDecode w pl = rawMacw w pl) ∧
    (opOf w = 0x5E → rawDecode w pl = rawMdrn w pl) ∧
    (opOf w = 0x5F → rawDecode w pl = (rawMpairBind w <|> rawMpairRel w)) := by
  and_intros <;> intro h <;> (rw [rawDecode.eq_def, h]; rfl)

theorem roundTrips_matrix :
    (∀ h a b t sr qa qb fw sc ty z n dc, RoundTrips (.mma h a b t sr qa qb fw sc ty z n dc)) ∧
    (∀ h b kt t fw qb z dc e neg, RoundTrips (.mlut h b kt t fw qb z dc e neg)) ∧
    (∀ h a kt g0 fw ty pm dc qa, RoundTrips (.mlbld h a kt g0 fw ty pm dc qa)) ∧
    (∀ h t val, RoundTrips (.macz h t val)) ∧
    (∀ h d t row0 hi cnt dc, RoundTrips (.macr h d t row0 hi cnt dc)) ∧
    (∀ h d t row0 hi cnt dc, RoundTrips (.macw h d t row0 hi cnt dc)) ∧
    (∀ h t spad kbase kpitch add ety dc row0 nrows, RoundTrips (.mdrn h t spad kbase kpitch add ety dc row0 nrows)) ∧
    (∀ h, RoundTrips (.mpairBind h)) ∧
    (∀ h, RoundTrips (.mpairRel h)) := by
  simp [RoundTrips, rawReread, encode.eq_def, bitAt_eq_fld, rawDecode_matrix, Option.orElse_eq_orElse, rawMma, rawMlut, rawMlbld, rawMacz, rawMacr, rawMacw,
    rawMdrn, rawMpairBind, rawMpairRel]

theorem rawDecode_memory (w pl : Nat) :
    (opOf w = 0x60 → rawDecode w pl = rawLd w) ∧
    (opOf w = 0x61 → rawDecode w pl = rawSt w) ∧
    (opOf w = 0x62 → rawDecode w pl = rawLdl w pl) ∧
    (opOf w = 0x63 → rawDecode w pl = rawStl w pl) ∧
    (opOf w = 0x64 → rawDecode w pl = rawLds w) ∧
    (opOf w = 0x65 → rawDecode w pl = rawSts w) ∧
    (opOf w = 0x66 → rawDecode w pl = rawLdk w pl) ∧
    (opOf w = 0x67 → rawDecode w pl = rawStk w pl) ∧
    (opOf w = 0x68 → rawDecode w pl = rawPref w pl) ∧
    (opOf w = 0x69 → rawDecode w pl = (rawCwb w pl <|> rawCflu w pl <|> rawCinv w pl)) ∧
    (opOf w = 0x6A → rawDecode w pl = rawPreq w pl) := by
  and_intros <;> intro h <;> (rw [rawDecode.eq_def, h]; rfl)

theorem roundTrips_memory :
    (∀ h d kbase voff size, RoundTrips (.ld h d kbase voff size)) ∧
    (∀ h d kbase voff size, RoundTrips (.st h d kbase voff size)) ∧
    (∀ h d kbase voff size imm dc probe hint scale sx, RoundTrips (.ldl h d kbase voff size imm dc probe hint scale sx)) ∧
    (∀ h d kbase voff size imm dc hint scale, RoundTrips (.stl h d kbase voff size imm dc hint scale)) ∧
    (∀ h d kbase voff size, RoundTrips (.lds h d kbase voff size)) ∧
    (∀ h d kbase voff size, RoundTrips (.sts h d kbase voff size)) ∧
    (∀ h kd kbase sx size imm dc, RoundTrips (.ldk h kd kbase sx size imm dc)) ∧
    (∀ h kd kbase size imm dc, RoundTrips (.stk h kd kbase size imm dc)) ∧
    (∀ h l2 kbase voff size imm hint scale, RoundTrips (.pref h l2 kbase voff size imm hint scale)) ∧
    (∀ h klen kbase scope imm dc, RoundTrips (.cwb h klen kbase scope imm dc)) ∧
    (∀ h klen kbase scope imm dc, RoundTrips (.cflu h klen kbase scope imm dc)) ∧
    (∀ h klen kbase scope imm dc zf, RoundTrips (.cinv h klen kbase scope imm dc zf)) ∧
    (∀ h klen kbase sem useSem imm dc, RoundTrips (.preq h klen kbase sem useSem imm dc)) := by
  simp [RoundTrips, rawReread, encode.eq_def, bitAt_eq_fld, rawDecode_memory, Option.orElse_eq_orElse, rawLd, rawSt, rawLdl, rawStl, rawLds, rawSts, rawLdk,
    rawStk, rawPref, rawCwb, rawCflu, rawCinv, rawPreq]

theorem rawDecode_synchronization (w pl : Nat) :
    (opOf w = 0x6C → rawDecode w pl = rawAtom w pl) ∧
    (opOf w = 0x6D → rawDecode w pl = rawRed w pl) ∧
    (opOf w = 0x6E → rawDecode w pl = rawAtoms w pl) ∧
    (opOf w = 0x6F → rawDecode w pl = rawFence w) ∧
    (opOf w = 0x70 → rawDecode w pl = (rawBarSync w <|> rawBarArrive w <|> rawBarWait w)) ∧
    (opOf w = 0x71 → rawDecode w pl = rawBart w pl) ∧
    (opOf w = 0x72 → rawDecode w pl = rawGbar w) ∧
    (opOf w = 0x73 → rawDecode w pl = (rawClkjAdd w <|> rawClkjAddk w <|> rawClkjSetk w <|> rawClkjNb w)) ∧
    (opOf w = 0x74 → rawDecode w pl = (rawLock w pl <|> rawLockTry w pl <|> rawUnlock w pl)) := by
  and_intros <;> intro h <;> (rw [rawDecode.eq_def, h]; rfl)

theorem roundTrips_synchronization :
    (∀ h d kbase voff size vs op ord scope dc imm, RoundTrips (.atom h d kbase voff size vs op ord scope dc imm)) ∧
    (∀ h kbase voff size vs op ord scope dc imm, RoundTrips (.red h kbase voff size vs op ord scope dc imm)) ∧
    (∀ h d kbase voff size vs op ord scope dc imm, RoundTrips (.atoms h d kbase voff size vs op ord scope dc imm)) ∧
    (∀ h scope ord, RoundTrips (.fence h scope ord)) ∧
    (∀ h id kcnt scope, RoundTrips (.barSync h id kcnt scope)) ∧
    (∀ h id kcnt scope, RoundTrips (.barArrive h id kcnt scope)) ∧
    (∀ h id scope, RoundTrips (.barWait h id scope)) ∧
    (∀ h id ktime scope p dc, RoundTrips (.bart h id ktime scope p dc)) ∧
    (∀ h, RoundTrips (.gbar h)) ∧
    (∀ h imm, RoundTrips (.clkjAdd h imm)) ∧
    (∀ h ka, RoundTrips (.clkjAddk h ka)) ∧
    (∀ h ka, RoundTrips (.clkjSetk h ka)) ∧
    (∀ h, RoundTrips (.clkjNb h)) ∧
    (∀ h kbase kval imm dc scope, RoundTrips (.lock h kbase kval imm dc scope)) ∧
    (∀ h p kbase kval imm dc scope, RoundTrips (.lockTry h p kbase kval imm dc scope)) ∧
    (∀ h p kbase kval imm dc scope, RoundTrips (.unlock h p kbase kval imm dc scope)) := by
  simp [RoundTrips, rawReread, encode.eq_def, rawDecode_synchronization, Option.orElse_eq_orElse, rawAtom, rawRed, rawAtoms, rawFence, rawBarSync,
    rawBarArrive, rawBarWait, rawBart, rawGbar, rawClkjAdd, rawClkjAddk, rawClkjSetk, rawClkjNb, rawLock, rawLockTry, rawUnlock]

theorem rawDecode_engine (w pl : Nat) :
    (opOf w = 0x76 → rawDecode w pl = (rawAecfg w pl <|> rawAego w pl <|> rawAestop w pl <|> rawQbind w pl)) ∧
    (opOf w = 0x77 → rawDecode w pl = (rawCpy w pl <|> rawCpym w pl <|> rawCpyw w pl <|> rawCpyq w pl)) ∧
    (opOf w = 0x78 → rawDecode w pl = (rawSemset w <|> rawSemadd w <|> rawSemwait w)) ∧
    (opOf w = 0x79 → rawDecode w pl = (rawColl w pl <|> rawCollw w pl)) := by
  and_intros <;> intro h <;> (rw [rawDecode.eq_def, h]; rfl)

theorem roundTrips_engine :
    (∀ h mask, RoundTrips (.aecfg h mask)) ∧
    (∀ h off, RoundTrips (.aego h off)) ∧
    (∀ h, RoundTrips (.aestop h)) ∧
    (∀ h mask, RoundTrips (.qbind h mask)) ∧
    (∀ h kdst kfrom klen ch s2g dc, RoundTrips (.cpy h kdst kfrom klen ch s2g dc)) ∧
    (∀ h kdst kfrom klen ch dc gmask, RoundTrips (.cpym h kdst kfrom klen ch dc gmask)) ∧
    (∀ h kval ch, RoundTrips (.cpyw h kval ch)) ∧
    (∀ h kd ch ip dc, RoundTrips (.cpyq h kd ch ip dc)) ∧
    (∀ h sm ka imm, RoundTrips (.semset h sm ka imm)) ∧
    (∀ h sm ka imm, RoundTrips (.semadd h sm ka imm)) ∧
    (∀ h sm ka imm, RoundTrips (.semwait h sm ka imm)) ∧
    (∀ h kdesc kd dc, RoundTrips (.coll h kdesc kd dc)) ∧
    (∀ h kcomm kseq, RoundTrips (.collw h kcomm kseq)) := by
  simp [RoundTrips, rawReread, encode.eq_def, bitAt_eq_fld, rawDecode_engine, Option.orElse_eq_orElse, rawAecfg, rawAego, rawAestop, rawQbind, rawCpy,
    rawCpym, rawCpyw, rawCpyq, rawSemset, rawSemadd, rawSemwait, rawColl, rawCollw]

theorem rawDecode_tileAndLaunch (w pl : Nat) :
    (opOf w = 0x7A → rawDecode w pl = (rawTclaim w pl <|> rawTrel w pl <|> rawTsurr w pl <|> rawTquery w pl)) ∧
    (opOf w = 0x7B → rawDecode w pl = (rawLnch w pl <|> rawLnwait w pl <|> rawQpost w pl <|> rawLmap w pl)) := by
  and_intros <;> intro h <;> (rw [rawDecode.eq_def, h]; rfl)

theorem roundTrips_tileAndLaunch :
    (∀ h kd kbase kgeo karg routine keep dc try_, RoundTrips (.tclaim h kd kbase kgeo karg routine keep dc try_)) ∧
    (∀ h kbase dc, RoundTrips (.trel h kbase dc)) ∧
    (∀ h kdelay outcome, RoundTrips (.tsurr h kdelay outcome)) ∧
    (∀ h kd kbase dc, RoundTrips (.tquery h kd kbase dc)) ∧
    (∀ h kd ka dc, RoundTrips (.lnch h kd ka dc)) ∧
    (∀ h kd ka dc, RoundTrips (.lnwait h kd ka dc)) ∧
    (∀ h kd ka q prio dc, RoundTrips (.qpost h kd ka q prio dc)) ∧
    (∀ h kd ka which dc, RoundTrips (.lmap h kd ka which dc)) := by
  simp [RoundTrips, rawReread, encode.eq_def, bitAt_eq_fld, rawDecode_tileAndLaunch, Option.orElse_eq_orElse, rawTclaim, rawTrel, rawTsurr, rawTquery,
    rawLnch, rawLnwait, rawQpost, rawLmap]

theorem rawDecode_trap (w pl : Nat) :
    (opOf w = 0x7C → rawDecode w pl = (rawTrap w <|> rawTfence w <|> rawRft w <|> rawTmask w)) ∧
    (opOf w = 0x7D → rawDecode w pl = (rawGets w <|> rawSets w <|> rawTmr w)) ∧
    (opOf w = 0x7E → rawDecode w pl = (rawOrgr w <|> rawOrgw w)) := by
  and_intros <;> intro h <;> (rw [rawDecode.eq_def, h]; rfl)

theorem roundTrips_trap :
    (∀ h code, RoundTrips (.trap h code)) ∧
    (∀ h, RoundTrips (.tfence h)) ∧
    (∀ h mode, RoundTrips (.rft h mode)) ∧
    (∀ h en m ho, RoundTrips (.tmask h en m ho)) ∧
    (∀ h r sr rk, RoundTrips (.gets h r sr rk)) ∧
    (∀ h r sr rk, RoundTrips (.sets h r sr rk)) ∧
    (∀ h kd master dc, RoundTrips (.tmr h kd master dc)) ∧
    (∀ h vd n cls dc, RoundTrips (.orgr h vd n cls dc)) ∧
    (∀ h va n cls dc, RoundTrips (.orgw h va n cls dc)) := by
  simp [RoundTrips, rawReread, encode.eq_def, bitAt_eq_fld, rawDecode_trap, Option.orElse_eq_orElse, rawTrap, rawTfence, rawRft, rawTmask, rawGets, rawSets,
    rawTmr, rawOrgr, rawOrgw]

/-- Every instruction of warp code round-trips; the slice form of ldl is read by another decoder. -/
theorem roundTrips_of_hdr {i : Instr} (hi : i.hdr?.isSome = true)
    (hs : ∀ h d kb ks sz imm hint sx, i ≠ .sliceLdl h d kb ks sz imm hint sx) : RoundTrips i := by
  cases i
  case sliceLdl h d kb ks sz imm hint sx => exact absurd rfl (hs h d kb ks sz imm hint sx)
  all_goals try simp only [roundTrips_control, roundTrips_arithmetic, roundTrips_logic, roundTrips_select, roundTrips_uniform, roundTrips_predicate, roundTrips_exchange,
      roundTrips_float, roundTrips_conversion, roundTrips_matrix, roundTrips_memory, roundTrips_synchronization, roundTrips_engine,
      roundTrips_tileAndLaunch, roundTrips_trap]
  all_goals cases hi

/-- The slice form of ldl, read as slice code. -/
theorem roundTrips_sliceLdl (h : Hdr) (d : Vr) (kb ks : Kr) (sz : ESize) (imm : BitVec 16) (hint : BitVec 3) (sx : Bool) :
    let e := encode (.sliceLdl h d kb ks sz imm hint sx)
    (∀ x ∈ e, IsWord x) ∧ opOf (e.getD 0 0) = 0x62 ∧ rawSliceLdl (e.getD 0 0) (e.getD 1 0) = some (.sliceLdl h d kb ks sz imm hint sx) := by
  simp [encode.eq_def, bitAt_eq_fld, rawSliceLdl]

end Sys2Proof
end

section
/-! SUPPORT. From words to instructions: what a word decodes to has that word as its encoding. One theorem per chapter of the opcode map (R33). -/

namespace Sys2Proof

/-- The words of an instruction that starts with `w`, `pl` being the word after it. -/
def wordsOf (w pl : Nat) : List Nat := if wordCount w = 2 then [w, pl] else [w]

theorem length_wordsOf (w pl : Nat) : (wordsOf w pl).length = wordCount w := by
  rw [wordsOf, wordCount]
  split <;> rfl

/-- Whatever instruction is read here, its encoding is `w` and, for a long form, `pl`. -/
def ReadsBack (w pl : Nat) (o : Option Instr) : Prop := ∀ i, o = some i → encode i = wordsOf w pl

@[simp] theorem readsBack_none (w pl : Nat) : ReadsBack w pl none := by simp [ReadsBack]

@[simp] theorem readsBack_some (w pl : Nat) (i : Instr) : ReadsBack w pl (some i) ↔ encode i = wordsOf w pl := by simp [ReadsBack]

@[simp] theorem readsBack_ite (w pl : Nat) (c : Bool) (o : Option Instr) :
    ReadsBack w pl (if c = true then o else none) ↔ (c = true → ReadsBack w pl o) := by
  cases c <;> simp [ReadsBack]

@[simp] theorem readsBack_bind {α : Type} (w pl : Nat) (o : Option α) (f : α → Option Instr) :
    ReadsBack w pl (o.bind f) ↔ ∀ a, o = some a → ReadsBack w pl (f a) := by
  cases o <;> simp [ReadsBack]

theorem ReadsBack.orElse {w pl : Nat} {o o' : Option Instr} (h : ReadsBack w pl o) (h' : ReadsBack w pl o') : ReadsBack w pl (o <|> o') := by
  cases o with
  | none => exact h'
  | some i => exact h

theorem readsBack_control {w pl : Nat} (hw : IsWord w) :
    (opOf w = 0x00 → ReadsBack w pl (rawNop w)) ∧
    (opOf w = 0x01 → ReadsBack w pl (rawBra w)) ∧
    (opOf w = 0x02 → ReadsBack w pl (rawBrp w)) ∧
    (opOf w = 0x03 → ReadsBack w pl (rawBrn w)) ∧
    (opOf w = 0x04 → ReadsBack w pl (rawBru w)) ∧
    (opOf w = 0x05 → ReadsBack w pl (rawBruz w)) ∧
    (opOf w = 0x06 → ReadsBack w pl (rawJmpx w)) ∧
    (opOf w = 0x07 → ReadsBack w pl (rawCall w)) ∧
    (opOf w = 0x08 → ReadsBack w pl (rawCallx w)) ∧
    (opOf w = 0x09 → ReadsBack w pl (rawRet w)) ∧
    (opOf w = 0x0A → ReadsBack w pl (rawExit w)) ∧
    (opOf w = 0x0B → ReadsBack w pl (rawDwait w)) ∧
    (opOf w = 0x0C → ReadsBack w pl (rawChkm w)) ∧
    (opOf w = 0x0D → ReadsBack w pl (rawBrk w)) := by
  simp +contextual [encode.eq_def, wordsOf, wordCount, isLongMajor, fld_eq_iff_spells, headWord_eq_iff_spells hw, CheckMode.ofNat?_eq_some, rawNop, rawBra, rawBrp,
    rawBrn, rawBru, rawBruz, rawJmpx, rawCall, rawCallx, rawRet, rawExit, rawDwait, rawChkm, rawBrk]

theorem readsBack_arithmetic {w pl : Nat} (hw : IsWord w) :
    (opOf w = 0x10 → ReadsBack w pl (rawIadd w)) ∧
    (opOf w = 0x11 → ReadsBack w pl (rawIsub w)) ∧
    (opOf w = 0x12 → ReadsBack w pl (rawImul w)) ∧
    (opOf w = 0x13 → ReadsBack w pl (rawImulhS w)) ∧
    (opOf w = 0x14 → ReadsBack w pl (rawImulhN w)) ∧
    (opOf w = 0x15 → ReadsBack w pl (rawImad w)) ∧
    (opOf w = 0x16 → ReadsBack w pl (rawIaddi w)) ∧
    (opOf w = 0x17 → ReadsBack w pl (rawIminS w)) ∧
    (opOf w = 0x18 → ReadsBack w pl (rawIminN w)) ∧
    (opOf w = 0x19 → ReadsBack w pl (rawImaxS w)) ∧
    (opOf w = 0x1A → ReadsBack w pl (rawImaxN w)) ∧
    (opOf w = 0x1B → ReadsBack w pl (rawShl w)) ∧
    (opOf w = 0x1C → ReadsBack w pl (rawShr w)) ∧
    (opOf w = 0x1D → ReadsBack w pl (rawSar w)) ∧
    (opOf w = 0x1E → ReadsBack w pl (rawShli w)) ∧
    (opOf w = 0x1E → ReadsBack w pl (rawShri w)) ∧
    (opOf w = 0x1E → ReadsBack w pl (rawSari w)) ∧
    (opOf w = 0x1E → ReadsBack w pl (rawRoti w)) := by
  simp +contextual [encode.eq_def, wordsOf, wordCount, isLongMajor, fld_eq_iff_spells, headWord_eq_iff_spells hw, rawIadd, rawIsub, rawImul, rawImulhS, rawImulhN,
    rawImad, rawIaddi, rawIminS, rawIminN, rawImaxS, rawImaxN, rawShl, rawShr, rawSar, rawShli, rawShri, rawSari, rawRoti]

theorem readsBack_logic {w pl : Nat} (hw : IsWord w) :
    (opOf w = 0x1F → ReadsBack w pl (rawAnd w)) ∧
    (opOf w = 0x20 → ReadsBack w pl (rawOr w)) ∧
    (opOf w = 0x21 → ReadsBack w pl (rawXor w)) ∧
    (opOf w = 0x22 → ReadsBack w pl (rawAndn w)) ∧
    (opOf w = 0x23 → ReadsBack w pl (rawAndi w)) ∧
    (opOf w = 0x23 → ReadsBack w pl (rawOri w)) ∧
    (opOf w = 0x23 → ReadsBack w pl (rawXori w)) ∧
    (opOf w = 0x24 → ReadsBack w pl (rawNot w)) ∧
    (opOf w = 0x24 → ReadsBack w pl (rawPopc w)) ∧
    (opOf w = 0x24 → ReadsBack w pl (rawClz w)) ∧
    (opOf w = 0x24 → ReadsBack w pl (rawBrev w)) ∧
    (opOf w = 0x24 → ReadsBack w pl (rawIabs w)) ∧
    (opOf w = 0x24 → ReadsBack w pl (rawIneg w)) := by
  simp +contextual [encode.eq_def, wordsOf, wordCount, isLongMajor, fld_eq_iff_spells, headWord_eq_iff_spells hw, rawAnd, rawOr, rawXor, rawAndn, rawAndi, rawOri,
    rawXori, rawNot, rawPopc, rawClz, rawBrev, rawIabs, rawIneg]

theorem readsBack_select {w pl : Nat} (hw : IsWord w) (hpl : IsWord pl) :
    (opOf w = 0x25 → ReadsBack w pl (rawBfx w pl)) ∧
    (opOf w = 0x26 → ReadsBack w pl (rawBfi w pl)) ∧
    (opOf w = 0x27 → ReadsBack w pl (rawLea w pl)) ∧
    (opOf w = 0x28 → ReadsBack w pl (rawIcmp w pl)) ∧
    (opOf w = 0x29 → ReadsBack w pl (rawSel w pl)) ∧
    (opOf w = 0x2A → ReadsBack w pl (rawMovi w pl)) ∧
    (opOf w = 0x2B → ReadsBack w pl (rawMovk w)) ∧
    (opOf w = 0x2C → ReadsBack w pl (rawIdot4 w)) := by
  simp +contextual [encode.eq_def, wordsOf, wordCount, isLongMajor, fld_eq_iff_spells, headWord_eq_iff_spells hw, pack_eq_iff_spells hpl, ICond.ofNat?_eq_some,
    Comb.ofNat?_eq_some, DotMode.ofNat?_eq_some, rawBfx, rawBfi, rawLea, rawIcmp, rawSel, rawMovi, rawMovk, rawIdot4]

theorem readsBack_uniform {w pl : Nat} (hw : IsWord w) (hpl : IsWord pl) :
    (opOf w = 0x2D → ReadsBack w pl (rawKadd w)) ∧
    (opOf w = 0x2D → ReadsBack w pl (rawKsub w)) ∧
    (opOf w = 0x2D → ReadsBack w pl (rawKmul w)) ∧
    (opOf w = 0x2D → ReadsBack w pl (rawKand w)) ∧
    (opOf w = 0x2E → ReadsBack w pl (rawKor w)) ∧
    (opOf w = 0x2E → ReadsBack w pl (rawKxor w)) ∧
    (opOf w = 0x2E → ReadsBack w pl (rawKshl w)) ∧
    (opOf w = 0x2E → ReadsBack w pl (rawKshr w)) ∧
    (opOf w = 0x2F → ReadsBack w pl (rawKaddi w)) ∧
    (opOf w = 0x30 → ReadsBack w pl (rawKset w pl)) ∧
    (opOf w = 0x31 → ReadsBack w pl (rawKcmp w)) ∧
    (opOf w = 0x32 → ReadsBack w pl (rawKmov w)) ∧
    (opOf w = 0x33 → ReadsBack w pl (rawKfromv w)) := by
  simp +contextual [encode.eq_def, wordsOf, wordCount, isLongMajor, fld_eq_iff_spells, headWord_eq_iff_spells hw, pack_eq_iff_spells hpl, KsetMode.ofNat?_eq_some,
    KfvMode.ofNat?_eq_some, KCond.ofNat?_eq_some, rawKadd, rawKsub, rawKmul, rawKand, rawKor, rawKxor, rawKshl, rawKshr, rawKaddi, rawKset, rawKcmp,
    rawKmov, rawKfromv]

theorem readsBack_predicate {w pl : Nat} (hw : IsWord w) :
    (opOf w = 0x34 → ReadsBack w pl (rawPand w)) ∧
    (opOf w = 0x34 → ReadsBack w pl (rawPor w)) ∧
    (opOf w = 0x34 → ReadsBack w pl (rawPxor w)) ∧
    (opOf w = 0x34 → ReadsBack w pl (rawPandn w)) ∧
    (opOf w = 0x35 → ReadsBack w pl (rawPclr w)) ∧
    (opOf w = 0x35 → ReadsBack w pl (rawPset w)) ∧
    (opOf w = 0x35 → ReadsBack w pl (rawPnot w)) ∧
    (opOf w = 0x35 → ReadsBack w pl (rawPmov w)) ∧
    (opOf w = 0x36 → ReadsBack w pl (rawPtov w)) ∧
    (opOf w = 0x36 → ReadsBack w pl (rawVtop w)) := by
  simp +contextual [encode.eq_def, wordsOf, wordCount, isLongMajor, fld_eq_iff_spells, headWord_eq_iff_spells hw, rawPand, rawPor, rawPxor, rawPandn, rawPclr, rawPset,
    rawPnot, rawPmov, rawPtov, rawVtop]

theorem readsBack_exchange {w pl : Nat} (hw : IsWord w) :
    (opOf w = 0x38 → ReadsBack w pl (rawQswp w)) ∧
    (opOf w = 0x39 → ReadsBack w pl (rawQbc w)) ∧
    (opOf w = 0x3A → ReadsBack w pl (rawQhlp w)) ∧
    (opOf w = 0x3B → ReadsBack w pl (rawWshf w)) ∧
    (opOf w = 0x3C → ReadsBack w pl (rawWshx w)) ∧
    (opOf w = 0x3D → ReadsBack w pl (rawWvote w)) ∧
    (opOf w = 0x3E → ReadsBack w pl (rawWred w)) := by
  simp +contextual [encode.eq_def, wordsOf, wordCount, isLongMajor, fld_eq_iff_spells, headWord_eq_iff_spells hw, QDir.ofNat?_eq_some, HelperMode.ofNat?_eq_some,
    ShuffleMode.ofNat?_eq_some, VoteMode.ofNat?_eq_some, RedOp.ofNat?_eq_some, rawQswp, rawQbc, rawQhlp, rawWshf, rawWshx, rawWvote, rawWred]

theorem readsBack_float {w pl : Nat} (hw : IsWord w) (hpl : IsWord pl) :
    (opOf w = 0x40 → ReadsBack w pl (rawFadd w)) ∧
    (opOf w = 0x41 → ReadsBack w pl (rawFsub w)) ∧
    (opOf w = 0x42 → ReadsBack w pl (rawFmul w)) ∧
    (opOf w = 0x43 → ReadsBack w pl (rawFfma w)) ∧
    (opOf w = 0x44 → ReadsBack w pl (rawFmin w)) ∧
    (opOf w = 0x45 → ReadsBack w pl (rawFmax w)) ∧
    (opOf w = 0x46 → ReadsBack w pl (rawFabs w)) ∧
    (opOf w = 0x46 → ReadsBack w pl (rawFneg w)) ∧
    (opOf w = 0x46 → ReadsBack w pl (rawFrcp w)) ∧
    (opOf w = 0x46 → ReadsBack w pl (rawFrsq w)) ∧
    (opOf w = 0x46 → ReadsBack w pl (rawFsqrt w)) ∧
    (opOf w = 0x46 → ReadsBack w pl (rawFex2 w)) ∧
    (opOf w = 0x46 → ReadsBack w pl (rawFlg2 w)) ∧
    (opOf w = 0x46 → ReadsBack w pl (rawFsin w)) ∧
    (opOf w = 0x46 → ReadsBack w pl (rawFcos w)) ∧
    (opOf w = 0x47 → ReadsBack w pl (rawFcmp w pl)) ∧
    (opOf w = 0x48 → ReadsBack w pl (rawFdot2 w)) ∧
    (opOf w = 0x49 → ReadsBack w pl (rawHadd2 w)) ∧
    (opOf w = 0x4A → ReadsBack w pl (rawHmul2 w)) ∧
    (opOf w = 0x4B → ReadsBack w pl (rawHfma2 w)) ∧
    (opOf w = 0x4C → ReadsBack w pl (rawFrnd w)) ∧
    (opOf w = 0x4D → ReadsBack w pl (rawFsetm w)) := by
  simp +contextual [encode.eq_def, wordsOf, wordCount, isLongMajor, fld_eq_iff_spells, headWord_eq_iff_spells hw, pack_eq_iff_spells hpl, Comb.ofNat?_eq_some,
    FCond.ofNat?_eq_some, Rm.ofNat?_eq_some, rawFadd, rawFsub, rawFmul, rawFfma, rawFmin, rawFmax, rawFabs, rawFneg, rawFrcp, rawFrsq, rawFsqrt,
    rawFex2, rawFlg2, rawFsin, rawFcos, rawFcmp, rawFdot2, rawHadd2, rawHmul2, rawHfma2, rawFrnd, rawFsetm]

theorem readsBack_conversion {w pl : Nat} (hw : IsWord w) (hpl : IsWord pl) :
    (opOf w = 0x50 → ReadsBack w pl (rawFcvt w pl)) ∧
    (opOf w = 0x51 → ReadsBack w pl (rawFcvti w)) ∧
    (opOf w = 0x52 → ReadsBack w pl (rawIcvtf w)) ∧
    (opOf w = 0x53 → ReadsBack w pl (rawFpack w pl)) ∧
    (opOf w = 0x54 → ReadsBack w pl (rawFunpk w pl)) ∧
    (opOf w = 0x55 → ReadsBack w pl (rawFscl w)) ∧
    (opOf w = 0x56 → ReadsBack w pl (rawFsca w pl)) ∧
    (opOf w = 0x57 → ReadsBack w pl (rawFzct w)) := by
  simp +contextual [encode.eq_def, wordsOf, wordCount, isLongMajor, fld_eq_iff_spells, headWord_eq_iff_spells hw, pack_eq_iff_spells hpl, Rm.ofNat?_eq_some,
    Rm5.ofNat?_eq_some, FType.ofNat?_eq_some, IType.ofNat?_eq_some, ScaleFmt.ofNat?_eq_some, rawFcvt, rawFcvti, rawIcvtf, rawFpack, rawFunpk, rawFscl,
    rawFsca, rawFzct]

theorem readsBack_matrix {w pl : Nat} (hw : IsWord w) (hpl : IsWord pl) :
    (opOf w = 0x58 → ReadsBack w pl (rawMma w pl)) ∧
    (opOf w = 0x59 → ReadsBack w pl (rawMlut w pl)) ∧
    (opOf w = 0x5A → ReadsBack w pl (rawMlbld w pl)) ∧
    (opOf w = 0x5B → ReadsBack w pl (rawMacz w)) ∧
    (opOf w = 0x5C → ReadsBack w pl (rawMacr w pl)) ∧
    (opOf w = 0x5D → ReadsBack w pl (rawMacw w pl)) ∧
    (opOf w = 0x5E → ReadsBack w pl (rawMdrn w pl)) ∧
    (opOf w = 0x5F → ReadsBack w pl (rawMpairBind w)) ∧
    (opOf w = 0x5F → ReadsBack w pl (rawMpairRel w)) := by
  simp +contextual [encode.eq_def, wordsOf, wordCount, isLongMajor, fld_eq_iff_spells, headWord_eq_iff_spells hw, pack_eq_iff_spells hpl, Semiring.ofNat?_eq_some,
    MatType.ofNat?_eq_some, BldType.ofNat?_eq_some, MaczVal.ofNat?_eq_some, drainType?_eq_some, rawMma, rawMlut, rawMlbld, rawMacz, rawMacr, rawMacw,
    rawMdrn, rawMpairBind, rawMpairRel]

theorem readsBack_memory {w pl : Nat} (hw : IsWord w) (hpl : IsWord pl) :
    (opOf w = 0x60 → ReadsBack w pl (rawLd w)) ∧
    (opOf w = 0x61 → ReadsBack w pl (rawSt w)) ∧
    (opOf w = 0x62 → ReadsBack w pl (rawLdl w pl)) ∧
    (opOf w = 0x63 → ReadsBack w pl (rawStl w pl)) ∧
    (opOf w = 0x64 → ReadsBack w pl (rawLds w)) ∧
    (opOf w = 0x65 → ReadsBack w pl (rawSts w)) ∧
    (opOf w = 0x66 → ReadsBack w pl (rawLdk w pl)) ∧
    (opOf w = 0x67 → ReadsBack w pl (rawStk w pl)) ∧
    (opOf w = 0x68 → ReadsBack w pl (rawPref w pl)) ∧
    (opOf w = 0x69 → ReadsBack w pl (rawCwb w pl)) ∧
    (opOf w = 0x69 → ReadsBack w pl (rawCflu w pl)) ∧
    (opOf w = 0x69 → ReadsBack w pl (rawCinv w pl)) ∧
    (opOf w = 0x6A → ReadsBack w pl (rawPreq w pl)) := by
  simp +contextual [encode.eq_def, wordsOf, wordCount, isLongMajor, fld_eq_iff_spells, headWord_eq_iff_spells hw, pack_eq_iff_spells hpl, ESize.ofNat?_eq_some,
    Scale.ofNat?_eq_some, Scope.ofNat?_eq_some, rawLd, rawSt, rawLdl, rawStl, rawLds, rawSts, rawLdk, rawStk, rawPref, rawCwb, rawCflu, rawCinv,
    rawPreq]

theorem readsBack_synchronization {w pl : Nat} (hw : IsWord w) (hpl : IsWord pl) :
    (opOf w = 0x6C → ReadsBack w pl (rawAtom w pl)) ∧
    (opOf w = 0x6D → ReadsBack w pl (rawRed w pl)) ∧
    (opOf w = 0x6E → ReadsBack w pl (rawAtoms w pl)) ∧
    (opOf w = 0x6F → ReadsBack w pl (rawFence w)) ∧
    (opOf w = 0x70 → ReadsBack w pl (rawBarSync w)) ∧
    (opOf w = 0x70 → ReadsBack w pl (rawBarArrive w)) ∧
    (opOf w = 0x70 → ReadsBack w pl (rawBarWait w)) ∧
    (opOf w = 0x71 → ReadsBack w pl (rawBart w pl)) ∧
    (opOf w = 0x72 → ReadsBack w pl (rawGbar w)) ∧
    (opOf w = 0x73 → ReadsBack w pl (rawClkjAdd w)) ∧
    (opOf w = 0x73 → ReadsBack w pl (rawClkjAddk w)) ∧
    (opOf w = 0x73 → ReadsBack w pl (rawClkjSetk w)) ∧
    (opOf w = 0x73 → ReadsBack w pl (rawClkjNb w)) ∧
    (opOf w = 0x74 → ReadsBack w pl (rawLock w pl)) ∧
    (opOf w = 0x74 → ReadsBack w pl (rawLockTry w pl)) ∧
    (opOf w = 0x74 → ReadsBack w pl (rawUnlock w pl)) := by
  simp +contextual [encode.eq_def, wordsOf, wordCount, isLongMajor, fld_eq_iff_spells, headWord_eq_iff_spells hw, pack_eq_iff_spells hpl, Scope.ofNat?_eq_some,
    AtomOp.ofNat?_eq_some, Ord.ofNat?_eq_some, ASize.ofNat?_eq_some, rawAtom, rawRed, rawAtoms, rawFence, rawBarSync, rawBarArrive, rawBarWait,
    rawBart, rawGbar, rawClkjAdd, rawClkjAddk, rawClkjSetk, rawClkjNb, rawLock, rawLockTry, rawUnlock]

theorem readsBack_engine {w pl : Nat} (hw : IsWord w) (hpl : IsWord pl) :
    (opOf w = 0x76 → ReadsBack w pl (rawAecfg w pl)) ∧
    (opOf w = 0x76 → ReadsBack w pl (rawAego w pl)) ∧
    (opOf w = 0x76 → ReadsBack w pl (rawAestop w pl)) ∧
    (opOf w = 0x76 → ReadsBack w pl (rawQbind w pl)) ∧
    (opOf w = 0x77 → ReadsBack w pl (rawCpy w pl)) ∧
    (opOf w = 0x77 → ReadsBack w pl (rawCpym w pl)) ∧
    (opOf w = 0x77 → ReadsBack w pl (rawCpyw w pl)) ∧
    (opOf w = 0x77 → ReadsBack w pl (rawCpyq w pl)) ∧
    (opOf w = 0x78 → ReadsBack w pl (rawSemset w)) ∧
    (opOf w = 0x78 → ReadsBack w pl (rawSemadd w)) ∧
    (opOf w = 0x78 → ReadsBack w pl (rawSemwait w)) ∧
    (opOf w = 0x79 → ReadsBack w pl (rawColl w pl)) ∧
    (opOf w = 0x79 → ReadsBack w pl (rawCollw w pl)) := by
  simp +contextual [encode.eq_def, wordsOf, wordCount, isLongMajor, fld_eq_iff_spells, headWord_eq_iff_spells hw, pack_eq_iff_spells hpl, rawAecfg, rawAego, rawAestop,
    rawQbind, rawCpy, rawCpym, rawCpyw, rawCpyq, rawSemset, rawSemadd, rawSemwait, rawColl, rawCollw]

theorem readsBack_tileAndLaunch {w pl : Nat} (hw : IsWord w) (hpl : IsWord pl) :
    (opOf w = 0x7A → ReadsBack w pl (rawTclaim w pl)) ∧
    (opOf w = 0x7A → ReadsBack w pl (rawTrel w pl)) ∧
    (opOf w = 0x7A → ReadsBack w pl (rawTsurr w pl)) ∧
    (opOf w = 0x7A → ReadsBack w pl (rawTquery w pl)) ∧
    (opOf w = 0x7B → ReadsBack w pl (rawLnch w pl)) ∧
    (opOf w = 0x7B → ReadsBack w pl (rawLnwait w pl)) ∧
    (opOf w = 0x7B → ReadsBack w pl (rawQpost w pl)) ∧
    (opOf w = 0x7B → ReadsBack w pl (rawLmap w pl)) := by
  simp +contextual [encode.eq_def, wordsOf, wordCount, isLongMajor, fld_eq_iff_spells, headWord_eq_iff_spells hw, pack_eq_iff_spells hpl, TOutcome.ofNat?_eq_some,
    MapSel.ofNat?_eq_some, rawTclaim, rawTrel, rawTsurr, rawTquery, rawLnch, rawLnwait, rawQpost, rawLmap]

theorem readsBack_trap {w pl : Nat} (hw : IsWord w) :
    (opOf w = 0x7C → ReadsBack w pl (rawTrap w)) ∧
    (opOf w = 0x7C → ReadsBack w pl (rawTfence w)) ∧
    (opOf w = 0x7C → ReadsBack w pl (rawRft w)) ∧
    (opOf w = 0x7C → ReadsBack w pl (rawTmask w)) ∧
    (opOf w = 0x7D → ReadsBack w pl (rawGets w)) ∧
    (opOf w = 0x7D → ReadsBack w pl (rawSets w)) ∧
    (opOf w = 0x7D → ReadsBack w pl (rawTmr w)) ∧
    (opOf w = 0x7E → ReadsBack w pl (rawOrgr w)) ∧
    (opOf w = 0x7E → ReadsBack w pl (rawOrgw w)) := by
  simp +contextual [encode.eq_def, wordsOf, wordCount, isLongMajor, fld_eq_iff_spells, headWord_eq_iff_spells hw, RftMode.ofNat?_eq_some, HoldOp.ofNat?_eq_some,
    SReg.ofNat?_eq_some, OrgClass.ofNat?_eq_some, rawTrap, rawTfence, rawRft, rawTmask, rawGets, rawSets, rawTmr, rawOrgr, rawOrgw]

theorem readsBack_rawDecode {w pl : Nat} (hw : IsWord w) (hpl : IsWord pl) : ReadsBack w pl (rawDecode w pl) := by
  rw [rawDecode.eq_def]
  split <;> repeat' apply ReadsBack.orElse
  all_goals simp only [*, readsBack_none, readsBack_control, readsBack_arithmetic, readsBack_logic, readsBack_select, readsBack_uniform, readsBack_predicate, readsBack_exchange, readsBack_float, readsBack_conversion,
      readsBack_matrix, readsBack_memory, readsBack_synchronization, readsBack_engine, readsBack_tileAndLaunch, readsBack_trap]

end Sys2Proof
end

section
/-! OBLIGATION. Decoding and encoding agree on every well-formed word, both ways (R31 to R35, R42). -/

namespace Sys2Proof

/-- The majors set aside hold no instruction (R42). -/
theorem rawDecode_eq_none {w : Nat} (pl : Nat) (h : isReservedMajor (opOf w) = true ∨ opOf w = 0x7F) : rawDecode w pl = none := by
  simp only [isReservedMajor, Bool.or_eq_true, beq_iff_eq] at h
  rcases h with (((((((h | h) | h) | h) | h) | h) | h) | h) | h <;> (rw [rawDecode.eq_def, h]; rfl)

theorem decodeWord_eq_ok {w pl : Nat} {i : Instr} :
    decodeWord w pl = .ok i ↔ rawDecode w pl = some i ∧ i.fieldsOk = true ∧ i.predsOk = true := by
  rw [decodeWord]
  split_ifs with hr h7
  · simp [rawDecode_eq_none pl (.inl hr)]
  · simp [rawDecode_eq_none pl (.inr h7)]
  cases rawDecode w pl with
  | none => simp
  | some j =>
    obtain rfl | hj := eq_or_ne j i
    · dsimp only
      cases j.fieldsOk <;> cases j.predsOk <;> simp
    · simp only [Option.some.injEq, hj, false_and, iff_false]
      split_ifs <;> simp [hj]

theorem decodeSliceWord_eq_ok {w pl : Nat} {i : Instr} (hw : opOf w = 0x62) :
    decodeSliceWord w pl = .ok i ↔ rawSliceLdl w pl = some i ∧ i.fieldsOk = true := by
  rw [decodeSliceWord, if_pos hw]
  cases rawSliceLdl w pl with
  | none => simp
  | some j =>
    obtain rfl | hj := eq_or_ne j i
    · dsimp only
      cases j.fieldsOk <;> simp
    · simp only [Option.some.injEq, hj, false_and, iff_false]
      split_ifs <;> simp [hj]

theorem encode_length (i : Instr) : Laws.EncodedLength.Statement i := by cases i <;> rfl

/-- Only words of code have an encoding; the device's own operations and events have none. -/
theorem hdr?_isSome_of_encode {i : Instr} (h : encode i ≠ []) : i.hdr?.isSome = true := by
  have hl := encode_length i
  rw [Laws.EncodedLength.Statement] at hl
  by_contra hn
  rw [if_neg hn, List.length_eq_zero_iff] at hl
  exact h hl

theorem wordsOf_ne_nil (w pl : Nat) : wordsOf w pl ≠ [] := by
  rw [wordsOf]
  split <;> exact List.cons_ne_nil _ _

/-- An encoding's first word tells its length. -/
theorem encode_length_eq_wordCount {i : Instr} (h : RoundTrips i) : (encode i).length = wordCount ((encode i).getD 0 0) := by
  obtain ⟨hw, hd⟩ := h
  have hword : ∀ k, IsWord ((encode i).getD k 0) := fun k => by
    rw [List.getD_eq_getElem?_getD]
    cases hk : (encode i)[k]? with
    | none => exact Nat.two_pow_pos 32
    | some x => exact hw x (List.mem_of_getElem? hk)
  have hlen := congrArg List.length (readsBack_rawDecode (hword 0) (hword 1) i (rawDecode_of_rawReread hd))
  rwa [length_wordsOf] at hlen

theorem encode_sliceLdl_length (h : Hdr) (d : Vr) (kb ks : Kr) (sz : ESize) (imm : BitVec 16) (hint : BitVec 3) (sx : Bool) :
    let e := encode (.sliceLdl h d kb ks sz imm hint sx)
    e.length = wordCount (e.getD 0 0) := by
  intro e
  rw [wordCount, (roundTrips_sliceLdl h d kb ks sz imm hint sx).2.1]
  rfl

/-- The first half of O57: an encoded word decodes to what was encoded. -/
theorem decode_encode {i : Instr} (hwf : i.wf = true) (hi : i.hdr?.isSome = true)
    (hs : ∀ h d kb ks sz imm hint sx, i ≠ .sliceLdl h d kb ks sz imm hint sx) :
    decodeWord ((encode i).getD 0 0) ((encode i).getD 1 0) = .ok i := by
  simp only [Instr.wf, Bool.and_eq_true] at hwf
  obtain ⟨⟨hf, hp⟩, -⟩ := hwf
  exact decodeWord_eq_ok.2 ⟨rawDecode_of_rawReread (roundTrips_of_hdr hi hs).2, hf, hp⟩

theorem decode_encode_sliceLdl {h : Hdr} {d : Vr} {kb ks : Kr} {sz : ESize} {imm : BitVec 16} {hint : BitVec 3} {sx : Bool}
    (hwf : (Instr.sliceLdl h d kb ks sz imm hint sx).wf = true) :
    let e := encode (.sliceLdl h d kb ks sz imm hint sx)
    decodeSliceWord (e.getD 0 0) (e.getD 1 0) = .ok (.sliceLdl h d kb ks sz imm hint sx) := by
  simp only [Instr.wf, Bool.and_eq_true] at hwf
  obtain ⟨⟨hf, -⟩, -⟩ := hwf
  obtain ⟨-, hop, hraw⟩ := roundTrips_sliceLdl h d kb ks sz imm hint sx
  exact (decodeSliceWord_eq_ok hop).2 ⟨hraw, hf⟩

/-- The second half of O57: a word that decodes is the encoding of what it decodes to. -/
theorem encode_decode {w pl : Nat} {i : Instr} (hw : w < 2 ^ 32) (hpl : pl < 2 ^ 32) (h : decodeWord w pl = .ok i) :
    encode i = wordsOf w pl ∧ i.fieldsOk = true ∧ i.predsOk = true ∧ i.hdr?.isSome = true := by
  obtain ⟨hraw, hf, hp⟩ := decodeWord_eq_ok.1 h
  have he := readsBack_rawDecode hw hpl i hraw
  exact ⟨he, hf, hp, hdr?_isSome_of_encode (he ▸ wordsOf_ne_nil w pl)⟩

/-- Settles O57: the chapters' round trips one way, the layout of each word the other way. -/
theorem encodeDecode : Obligations.EncodeDecode := by
  unfold Obligations.EncodeDecode
  refine ⟨fun i hwf hi => ?_, fun w pl i => encode_decode, fun w pl hop i h => ?_⟩
  · have hlen : (encode i).length = i.words := (encode_length i).trans (if_pos hi)
    by_cases hs : ∃ h d kb ks sz imm hint sx, i = .sliceLdl h d kb ks sz imm hint sx
    · obtain ⟨h, d, kb, ks, sz, imm, hint, sx, rfl⟩ := hs
      exact ⟨hlen, encode_sliceLdl_length .., (roundTrips_sliceLdl ..).1, fun hn => (hn _ _ _ _ _ _ _ _ rfl).elim, fun _ => decode_encode_sliceLdl hwf⟩
    · have hn : ∀ h d kb ks sz imm hint sx, i ≠ .sliceLdl h d kb ks sz imm hint sx :=
        fun h d kb ks sz imm hint sx he => hs ⟨h, d, kb, ks, sz, imm, hint, sx, he⟩
      have hr := roundTrips_of_hdr hi hn
      exact ⟨hlen, encode_length_eq_wordCount hr, hr.1, fun _ => decode_encode hwf hi hn, fun h => absurd h hs⟩
  · rw [decodeWord_eq_ok, rawDecode_eq_none pl hop] at h
    cases h.1

end Sys2Proof
end
section
/-! OBLIGATION. What a word that retires does to its warp (R38 to R40, R54, R292). -/

namespace Sys2Proof.Machine

/-- The warp past a word that retires, before the word's place in its group is looked at. -/
def Warp.pastWord (w : Warp) (h : Hdr) (words weight : Nat) : Warp :=
  { w with
    runPc := w.runPc + BitVec.ofNat 64 (4 * words)
    runWords := w.runWords + words
    lclk := (w.lclk + weight) % 2 ^ 64
    grpW := w.grpW + weight
    grpS := max w.grpS h.s.toNat
    todo := w.todo.drop 1 }

theorem Warp.retireTo_chained (w : Warp) (coll : Bool) (g clk words weight : Nat) (tgt : Nat → DWord) {h : Hdr} (hc : h.c = true) :
    w.retireTo coll g clk h words weight tgt = (w.pastWord h words weight).parkMid coll g :=
  if_pos hc

theorem Warp.retireTo_last (w : Warp) (coll : Bool) (g clk words weight : Nat) (tgt : Nat → DWord) {h : Hdr} (hc : h.c = false) :
    w.retireTo coll g clk h words weight tgt =
      let u := (w.pastWord h words weight).closeGroup coll g clk
      if h.e || u.endRun then u.endRunAt tgt else u :=
  if_neg (ne_true_of_eq_false hc)

theorem Warp.endRunAt_pcs (w : Warp) (tgt : Nat → DWord) {l : Nat} (hl : l < 32) :
    SMap.get 0 (w.endRunAt tgt).pcs l = if w.active.getLsbD l then tgt l else SMap.get 0 w.pcs l := by
  simp [Warp.endRunAt, get_foldl_put, mem_lanesOf, hl]

/-- What `RetireRule` says of the warp `v` that a retiring word with header `h` leaves of the warp `w` at clk `clk`. -/
structure Warp.Retired (w : Warp) (clk : Nat) (h : Hdr) (words weight : Nat) (v : Warp) : Prop where
  runPc : v.runPc = w.runPc + BitVec.ofNat 64 (4 * words)
  runWords : v.runWords = w.runWords + words
  lclk : v.lclk = (w.lclk + weight) % 2 ^ 64
  chained : h.c = true → v.todo = w.todo.drop 1 ∧ v.grpS = max w.grpS h.s.toNat ∧ v.sched = w.sched ∧ v.pcs = w.pcs ∧ v.inRun = w.inRun ∧ v.active = w.active
  last : h.c = false → v.todo = [] ∧ v.sched = w.sched + 1 + max w.grpS h.s.toNat ∧ clk + 1 + max w.grpS h.s.toNat ≤ v.earliest ∧ v.deferred = []
  goesOn : h.c = false → h.e = false → v.inRun = w.inRun ∧ v.active = w.active ∧ v.pcs = w.pcs
  ends : h.c = false → h.e = true → v.inRun = false ∧ v.active = 0 ∧
    ∀ l, l < 32 → SMap.get 0 v.pcs l = if w.active.getLsbD l then v.runPc else SMap.get 0 w.pcs l

theorem Warp.retireTo_retired_of_chained (w : Warp) (g clk words weight : Nat) (tgt : Nat → DWord) {h : Hdr} (hc : h.c = true) :
    w.Retired clk h words weight (w.retireTo false g clk h words weight tgt) := by
  obtain ⟨o, e, l, n, hp⟩ := (w.pastWord h words weight).parkMid_eq false g
  rw [Warp.retireTo_chained _ _ _ _ _ _ _ hc, hp]
  constructor <;> simp [hc, Warp.pastWord]

/-- The last word of a group: it closes the group, and ends the run only by its own bit, for the warp's run was not already ending. -/
theorem Warp.retireTo_retired_of_last (w : Warp) (g clk words weight : Nat) {h : Hdr} (hc : h.c = false) (hj : w.jump = false) (hr : w.endRun = false) :
    w.Retired clk h words weight (w.retireTo false g clk h words weight fun _ => w.runPc + BitVec.ofNat 64 (4 * words)) := by
  obtain ⟨-, -, hdef, htodo, hsched, hearl, hpc, hpcs, hrun, hact, hwords, -, hlclk, hend, -⟩ := (w.pastWord h words weight).closeGroup_spec false g clk
  have hend := (hend rfl).1.trans hr
  have hlclk := hlclk hj
  rw [Warp.retireTo_last _ _ _ _ _ _ _ hc]
  generalize (w.pastWord h words weight).closeGroup false g clk = u at *
  simp only [Warp.pastWord] at hsched hearl hpc hpcs hrun hact hwords hlclk
  simp only [hend, Bool.or_false]
  cases he : h.e with
  | true =>
    rw [if_pos rfl]
    constructor
    case ends =>
      intro _ _
      refine ⟨rfl, rfl, fun l hl => ?_⟩
      rw [Warp.endRunAt_pcs _ _ hl, hact, hpcs]
      simp [Warp.endRunAt, hpc]
    all_goals simp [Warp.endRunAt, *]
  | false =>
    rw [if_neg Bool.false_ne_true]
    constructor <;> simp [*]

/-- Settles O7: an open grid's group neither crosses a boundary point nor jumps to one, so a retiring word does to its warp what its place in the group says. -/
theorem retireRule : Obligations.RetireRule := by
  unfold Obligations.RetireRule
  intro i s hh hk hj hr hcoll t
  have hw : t.w = s.w.retireTo false s.g s.clk i.hdr i.words i.weight fun _ => s.w.runPc + BitVec.ofNat 64 (4 * i.words) := by
    have hc : s.collated = false := by simp [State.collated, hcoll]
    rw [← hc, show i.weight = s.weightOf i by simp [State.weightOf, hk]]
    exact State.modW_w hh _
  have hd : s.w.Retired s.clk i.hdr i.words i.weight t.w := by
    rw [hw]
    cases hc : i.hdr.c with
    | true => exact Warp.retireTo_retired_of_chained _ _ _ _ _ _ hc
    | false => exact Warp.retireTo_retired_of_last _ _ _ _ _ hc hj hr
  exact ⟨hd.runPc, hd.runWords, hd.lclk, hd.chained, hd.last, hd.goesOn, hd.ends⟩

end Sys2Proof.Machine
end

section
/-! SUPPORT. Strands (R53 to R55): a strand is the lanes that stand at one address, and the strands stand by ascending lowest lane. -/

namespace Sys2Proof.Machine

/-- A lowest lane, a mask and an address are those of a strand of the lanes `ls`, which stand where `pos` says. -/
structure IsStrand (pos : Nat → DWord) (ls : List Nat) (x : Nat × Word × DWord) : Prop where
  lane_mem : x.1 ∈ ls
  lane_pos : pos x.1 = x.2.2
  mask_iff : ∀ l, l < 32 → (x.2.1.getLsbD l = true ↔ l ∈ ls ∧ pos l = x.2.2)
  lane_le : ∀ l ∈ ls, pos l = x.2.2 → x.1 ≤ l

/-- The strands of the lanes `ls`: each once, by ascending lowest lane, and every lane in one. -/
structure AreStrands (pos : Nat → DWord) (ls : List Nat) (acc : List (Nat × Word × DWord)) : Prop where
  each : ∀ x ∈ acc, IsStrand pos ls x
  sorted : acc.Pairwise fun x y => x.1 < y.1
  distinct : acc.Pairwise fun x y => x.2.2 ≠ y.2.2
  cover : ∀ l ∈ ls, ∃ x ∈ acc, x.2.2 = pos l

theorem getLsbD_shiftOne (l : Nat) {k : Nat} (hk : k < 32) : (1#32 <<< l).getLsbD k = decide (k = l) := by
  rw [BitVec.getLsbD_shiftLeft, BitVec.getLsbD_one]
  grind

theorem IsStrand.new {pos : Nat → DWord} {ls : List Nat} {l : Nat} (hne : ∀ k ∈ ls, pos k ≠ pos l) :
    IsStrand pos (ls ++ [l]) (l, 1#32 <<< l, pos l) where
  lane_mem := by simp
  lane_pos := rfl
  mask_iff k hk := by
    rw [getLsbD_shiftOne l hk]
    grind
  lane_le k hk hp := by grind

theorem IsStrand.join {pos : Nat → DWord} {ls : List Nat} {l : Nat} {x : Nat × Word × DWord} (hx : IsStrand pos ls x)
    (hlt : ∀ k ∈ ls, k < l) (hp : x.2.2 = pos l) : IsStrand pos (ls ++ [l]) (x.1, x.2.1 ||| 1#32 <<< l, x.2.2) where
  lane_mem := List.mem_append_left _ hx.lane_mem
  lane_pos := hx.lane_pos
  mask_iff k hk := by
    rw [BitVec.getLsbD_or, getLsbD_shiftOne l hk, Bool.or_eq_true, hx.mask_iff k hk]
    grind
  lane_le k hk hk' := by
    have := hlt _ hx.lane_mem
    have := hx.lane_le k
    grind

theorem IsStrand.stay {pos : Nat → DWord} {ls : List Nat} {l : Nat} {x : Nat × Word × DWord} (hx : IsStrand pos ls x) (hp : x.2.2 ≠ pos l) :
    IsStrand pos (ls ++ [l]) x where
  lane_mem := List.mem_append_left _ hx.lane_mem
  lane_pos := hx.lane_pos
  mask_iff k hk := by
    rw [hx.mask_iff k hk]
    grind
  lane_le k hk hk' := hx.lane_le k (by grind) hk'

/-- A strand with one more lane. -/
def joinStrand (l : Nat) (pc : DWord) (x : Nat × Word × DWord) : Nat × Word × DWord :=
  if x.2.2 = pc then (x.1, x.2.1 ||| 1#32 <<< l, x.2.2) else x

@[simp] theorem joinStrand_fst (l : Nat) (pc : DWord) (x : Nat × Word × DWord) : (joinStrand l pc x).1 = x.1 := by
  rw [joinStrand]
  split <;> rfl

@[simp] theorem joinStrand_pc (l : Nat) (pc : DWord) (x : Nat × Word × DWord) : (joinStrand l pc x).2.2 = x.2.2 := by
  rw [joinStrand]
  split <;> rfl

/-- A lane joins the strand at its address; where none stands there, it is a strand of its own, the last. -/
theorem addToStrand_eq (l : Nat) (pc : DWord) {acc : List (Nat × Word × DWord)} (hd : acc.Pairwise fun x y => x.2.2 ≠ y.2.2) :
    addToStrand l pc acc = if ∃ x ∈ acc, x.2.2 = pc then acc.map (joinStrand l pc) else acc ++ [(l, 1#32 <<< l, pc)] := by
  induction acc with
  | nil => simp [addToStrand]
  | cons x t ih =>
    obtain ⟨hx, ht⟩ := List.pairwise_cons.1 hd
    obtain ⟨lo, m, p⟩ := x
    rw [addToStrand]
    by_cases hp : p = pc
    · subst hp
      have : t.map (joinStrand l p) = t := by
        refine (List.map_congr_left fun y hy => ?_).trans (List.map_id t)
        exact if_neg (hx y hy).symm
      simp [this, joinStrand]
    · simp only [hp, if_false, ih ht, List.mem_cons, exists_eq_or_imp, false_or]
      split <;> simp [joinStrand, hp]

theorem AreStrands.add {pos : Nat → DWord} {ls : List Nat} {acc : List (Nat × Word × DWord)} {l : Nat} (h : AreStrands pos ls acc)
    (hlt : ∀ k ∈ ls, k < l) : AreStrands pos (ls ++ [l]) (addToStrand l (pos l) acc) := by
  rw [addToStrand_eq l (pos l) h.distinct]
  split
  next hex =>
    refine ⟨fun y hy => ?_, ?_, ?_, fun k hk => ?_⟩
    · obtain ⟨x, hx, rfl⟩ := List.mem_map.1 hy
      rw [joinStrand]
      split
      next hp => exact (h.each x hx).join hlt hp
      next hp => exact (h.each x hx).stay hp
    · simpa [List.pairwise_map] using h.sorted
    · simpa [List.pairwise_map] using h.distinct
    · have : ∃ x ∈ acc, x.2.2 = pos k := by
        rcases List.mem_append.1 hk with hk | hk
        · exact h.cover k hk
        · rwa [List.mem_singleton.1 hk]
      obtain ⟨x, hx, hp⟩ := this
      exact ⟨_, List.mem_map_of_mem hx, by simpa using hp⟩
  next hex =>
    have hne : ∀ x ∈ acc, x.2.2 ≠ pos l := fun x hx hp => hex ⟨x, hx, hp⟩
    have hnew : ∀ k ∈ ls, pos k ≠ pos l := fun k hk he => by
      obtain ⟨x, hx, hp⟩ := h.cover k hk
      exact hne x hx (hp.trans he)
    refine ⟨fun y hy => ?_, ?_, ?_, fun k hk => ?_⟩
    · rcases List.mem_append.1 hy with hy | hy
      · exact (h.each y hy).stay (hne y hy)
      · rw [List.mem_singleton.1 hy]
        exact IsStrand.new hnew
    · simpa [List.pairwise_append, h.sorted] using fun a b c hx => hlt _ (h.each _ hx).lane_mem
    · simpa [List.pairwise_append, h.distinct] using fun a b c hx => hne _ hx
    · rcases List.mem_append.1 hk with hk | hk
      · obtain ⟨x, hx, hp⟩ := h.cover k hk
        exact ⟨x, List.mem_append_left _ hx, hp⟩
      · exact ⟨_, List.mem_append_right _ (List.mem_singleton_self _), by rw [List.mem_singleton.1 hk]⟩

theorem areStrands_foldl (pos : Nat → DWord) (ls : List Nat) (h : ls.Pairwise (· < ·)) :
    AreStrands pos ls (ls.foldl (fun acc l => addToStrand l (pos l) acc) []) := by
  induction ls using List.reverseRecOn with
  | nil => exact ⟨by simp, .nil, .nil, by simp⟩
  | append_singleton ls l ih =>
    obtain ⟨hls, -, hlt⟩ := List.pairwise_append.1 h
    rw [List.foldl_append]
    exact (ih hls).add fun k hk => hlt k hk l (List.mem_singleton_self l)

theorem lanesOf_sorted (m : Word) : (lanesOf m).Pairwise (· < ·) := List.Pairwise.filter _ List.pairwise_lt_range

theorem Warp.areStrands_strands (w : Warp) : AreStrands (SMap.get 0 w.pcs) (lanesOf (w.live &&& ~~~w.gbarWait)) w.strands :=
  areStrands_foldl _ _ (lanesOf_sorted _)

/-- A strand is the live threads that stand at one address and do not wait at gbar (R53, R54, R275). -/
theorem Warp.mask_of_mem_strands {w : Warp} {lo : Nat} {m : Word} {pc : DWord} (h : (lo, m, pc) ∈ w.strands) {l : Nat} (hl : l < 32) :
    m.getLsbD l = (w.live.getLsbD l && !w.gbarWait.getLsbD l && SMap.get 0 w.pcs l == pc) := by
  have := (w.areStrands_strands.each _ h).mask_iff l hl
  rw [mem_lanesOf, BitVec.getLsbD_and, BitVec.getLsbD_not] at this
  rw [Bool.eq_iff_iff, this]
  simp [hl, and_assoc]

theorem Warp.lowest_of_mem_strands {w : Warp} {lo : Nat} {m : Word} {pc : DWord} (h : (lo, m, pc) ∈ w.strands) :
    m.getLsbD lo = true ∧ ∀ l, l < lo → m.getLsbD l = false := by
  have hs := w.areStrands_strands.each _ h
  have hlo := ((mem_lanesOf _ _).1 hs.lane_mem).1
  refine ⟨(hs.mask_iff lo hlo).2 ⟨hs.lane_mem, hs.lane_pos⟩, fun l hl => Bool.eq_false_iff.2 fun hb => ?_⟩
  obtain ⟨hmem, hpos⟩ := (hs.mask_iff l (hl.trans hlo)).1 hb
  exact absurd (hs.lane_le l hmem hpos) (not_le.2 hl)

/-- What `find?` finds comes first among what passes the test. -/
theorem le_of_find?_strands {w : Warp} {p : Nat × Word × DWord → Bool} {x : Nat × Word × DWord} (h : w.strands.find? p = some x) :
    p x = true ∧ x ∈ w.strands ∧ ∀ y ∈ w.strands, p y = true → x.1 ≤ y.1 := by
  refine ⟨List.find?_some h, List.mem_of_find?_eq_some h, fun y hy hpy => ?_⟩
  obtain ⟨-, as, bs, hl, has⟩ := List.find?_eq_some_iff_append.1 h
  have hs := w.areStrands_strands.sorted
  rw [hl] at hs hy
  rcases List.mem_append.1 hy with hy | hy
  · simpa [hpy] using has y hy
  rcases List.mem_cons.1 hy with rfl | hy
  · exact le_rfl
  · exact (List.rel_of_pairwise_cons (List.pairwise_append.1 hs).2.1 hy).le

/-- The next strand is that with the lowest lane above the last one's (R55). -/
theorem Warp.nextStrand_above {w : Warp} {x : Nat × Word × DWord} {k : Nat} (h : w.nextStrand = some x) (hk : w.lastLow = some k)
    (hex : ∃ y ∈ w.strands, k < y.1) : k < x.1 ∧ x ∈ w.strands ∧ ∀ y ∈ w.strands, k < y.1 → x.1 ≤ y.1 := by
  obtain ⟨z, hz⟩ : ∃ z, w.strands.find? (fun x => decide (k < x.1)) = some z :=
    Option.isSome_iff_exists.1 (List.find?_isSome.2 (by simpa using hex))
  have hx : w.nextStrand = some z := by simp [Warp.nextStrand, hk, hz]
  cases h.symm.trans hx
  simpa using le_of_find?_strands hz

/-- Above the last strand none follows, and the first strand comes next (R55). -/
theorem Warp.nextStrand_first {w : Warp} {x : Nat × Word × DWord} (h : w.nextStrand = some x)
    (hn : w.lastLow = none ∨ ∃ k, w.lastLow = some k ∧ ∀ y ∈ w.strands, y.1 ≤ k) : x ∈ w.strands ∧ ∀ y ∈ w.strands, x.1 ≤ y.1 := by
  have hx : w.strands.find? (fun _ => true) = some x := by
    have hhead : w.nextStrand = w.strands.head? := by
      rcases hn with hn | ⟨k, hk, hle⟩
      · simp [Warp.nextStrand, hn]
      · have : w.strands.find? (fun x => decide (k < x.1)) = none := by simpa using hle
        simp [Warp.nextStrand, hk, this]
    rw [← h, hhead]
    cases w.strands <;> rfl
  simpa using (le_of_find?_strands hx).2

theorem Warp.nextStrand_mem {w : Warp} {x : Nat × Word × DWord} (h : w.nextStrand = some x) : x ∈ w.strands := by
  cases hk : w.lastLow with
  | none => exact (Warp.nextStrand_first h (.inl hk)).1
  | some k =>
    by_cases hex : ∃ y ∈ w.strands, k < y.1
    · exact (Warp.nextStrand_above h hk hex).2.1
    · exact (Warp.nextStrand_first h (.inr ⟨k, hk, by simpa using hex⟩)).1

end Sys2Proof.Machine
end

section
/-! SUPPORT. What a counter writes when it is released (R61), and the choice among ready warps (R58). -/

namespace Sys2Proof.Machine

/-! ### Results of a v register -/

/-- A lane's value of a v register is written unless the lane's thread has exited, and nothing else is (R75). -/
theorem Warp.rdV_wrLane_v (w : Warp) (r q : Nat) {k l : Nat} (x : DWord) (hk : k < 32) (hl : l < 32) :
    (w.wrLane (.v r) k x).rdV q l = if q = r ∧ l = k ∧ w.exited.getLsbD k = false then x.truncate 32 else w.rdV q l := by
  have hkey : q * 32 + l = r * 32 + k ↔ q = r ∧ l = k := by omega
  cases he : w.exited.getLsbD k <;> simp [Warp.wrLane, he, Warp.wrV, Warp.rdV, SMap.get_put, hkey]

@[simp] theorem Warp.exited_wrLane_v (w : Warp) (r k : Nat) (x : DWord) : (w.wrLane (.v r) k x).exited = w.exited := by
  rw [Warp.wrLane]
  split <;> rfl

theorem Warp.wrLane_v_eq (w : Warp) (r k : Nat) (x : DWord) : ∃ v, w.wrLane (.v r) k x = { w with v := v } := by
  rw [Warp.wrLane]
  split
  · exact ⟨w.v, rfl⟩
  · exact ⟨_, rfl⟩

/-- A result of a v register changes v registers alone. -/
theorem Warp.wrRes_v_eq (w : Warp) (r : Nat) (vals : List (Nat × DWord)) : ∃ v, w.wrRes ⟨.v r, vals⟩ = { w with v := v } := by
  induction vals generalizing w with
  | nil => exact ⟨w.v, rfl⟩
  | cons e t ih =>
    have hcons : w.wrRes ⟨.v r, e :: t⟩ = (w.wrLane (.v r) e.1 e.2).wrRes ⟨.v r, t⟩ := rfl
    obtain ⟨v, hv⟩ := w.wrLane_v_eq r e.1 e.2
    obtain ⟨v', hv'⟩ := ih (w.wrLane (.v r) e.1 e.2)
    exact ⟨v', by rw [hcons, hv', hv]⟩

/-- A lane that a result does not name keeps its value. -/
theorem Warp.rdV_wrRes_other (w : Warp) (r q : Nat) (vals : List (Nat × DWord)) {l : Nat} (hl : l < 32) (h32 : ∀ x ∈ vals, x.1 < 32)
    (h : q ≠ r ∨ ∀ x ∈ vals, x.1 ≠ l) : (w.wrRes ⟨.v r, vals⟩).rdV q l = w.rdV q l := by
  induction vals generalizing w with
  | nil => rfl
  | cons e t ih =>
    simp only [List.mem_cons, forall_eq_or_imp] at h32 h
    refine (ih (w.wrLane (.v r) e.1 e.2) h32.2 (h.imp id And.right)).trans ?_
    rw [Warp.rdV_wrLane_v w r q e.2 h32.1 hl]
    refine if_neg ?_
    rintro ⟨hq, hle, -⟩
    exact h.elim (· hq) fun h => h.1 hle.symm

/-- A lane that a result names once gets its value, unless its thread has exited (R75). -/
theorem Warp.rdV_wrRes_of_mem (w : Warp) (r : Nat) (vals : List (Nat × DWord)) (hn : (vals.map (·.1)).Nodup) (h32 : ∀ x ∈ vals, x.1 < 32)
    {x : Nat × DWord} (hx : x ∈ vals) :
    (w.wrRes ⟨.v r, vals⟩).rdV r x.1 = if w.exited.getLsbD x.1 then w.rdV r x.1 else x.2.truncate 32 := by
  induction vals generalizing w with
  | nil => cases hx
  | cons e t ih =>
    obtain ⟨hne, hnt⟩ := List.nodup_cons.1 hn
    simp only [List.mem_cons, forall_eq_or_imp] at h32
    have hcons : w.wrRes ⟨.v r, e :: t⟩ = (w.wrLane (.v r) e.1 e.2).wrRes ⟨.v r, t⟩ := rfl
    rw [hcons]
    rcases List.mem_cons.1 hx with rfl | hx
    · rw [Warp.rdV_wrRes_other _ _ _ _ h32.1 h32.2 (.inr fun y hy he => hne (List.mem_map.2 ⟨y, hy, he⟩)), Warp.rdV_wrLane_v _ _ _ _ h32.1 h32.1]
      cases w.exited.getLsbD x.1 <;> simp
    · have hlane : x.1 ≠ e.1 := fun he => hne (List.mem_map.2 ⟨x, hx, he⟩)
      rw [ih _ hnt h32.2 hx, Warp.exited_wrLane_v, Warp.rdV_wrLane_v _ _ _ _ h32.1 (h32.2 x hx)]
      simp [hlane]

/-! ### Delivering a counted instruction's one result of a v register -/

/-- Whether later words of its group have written this lane of the register. -/
def Inflight.cedes (f : Inflight) (r l : Nat) : Bool := f.ceded.any fun o => o.1 == .v r && o.2.getLsbD l

section
variable {f : Inflight} {r : Nat} {vals : List (Nat × DWord)} (hf : f.writes = [⟨.v r, vals⟩])
include hf

theorem Inflight.results_of_writes : f.results = [⟨.v r, vals.filter fun e => !f.cedes r e.1⟩] := by
  simp [Inflight.results, hf, RegWrite.without, Inflight.cedes]

theorem Warp.deliver_of_writes (w : Warp) : w.deliver f =
    { w.wrRes ⟨.v r, vals.filter fun e => !f.cedes r e.1⟩ with
      pend := w.pend.map fun p => if p.at_ = f.at_ ∧ p.res.reg = .v r then
        { p with res := { p.res with vals := p.res.vals.filter fun e => !(vals.any fun y => y.1 == e.1 && !f.cedes r y.1) } } else p } := by
  have hp : (w.wrRes ⟨.v r, vals.filter fun e => !f.cedes r e.1⟩).pend = w.pend := by
    obtain ⟨v, hv⟩ := w.wrRes_v_eq r (vals.filter fun e => !f.cedes r e.1)
    rw [hv]
  rw [Warp.deliver, Inflight.results_of_writes hf]
  simp only [Warp.wrAll, List.foldl_cons, List.foldl_nil, hp, RegWrite.without, List.any_cons, List.any_nil, Bool.or_false]
  congr 1
  refine List.map_congr_left fun p _ => ?_
  by_cases ha : p.at_ = f.at_
  · by_cases hr : p.res.reg = .v r
    · simp [ha, hr, List.any_filter, Bool.and_comm]
    · have : (RegId.v r == p.res.reg) = false := beq_false_of_ne (Ne.symm hr)
      rw [if_pos ha, if_neg fun h => hr h.2]
      simp [this]
  · simp [ha]

/-- The registers after a delivery: each named lane has its value, but for exited threads and lanes that later words wrote; all else stays. -/
theorem Warp.rdV_deliver (w : Warp) (hn : (vals.map (·.1)).Nodup) (h32 : ∀ x ∈ vals, x.1 < 32) :
    (∀ x ∈ vals, (w.deliver f).rdV r x.1 = if w.exited.getLsbD x.1 || f.cedes r x.1 then w.rdV r x.1 else x.2.truncate 32) ∧
    ∀ q l, l < 32 → (q ≠ r ∨ ∀ x ∈ vals, x.1 ≠ l) → (w.deliver f).rdV q l = w.rdV q l := by
  have hv : ∀ q l, (w.deliver f).rdV q l = (w.wrRes ⟨.v r, vals.filter fun e => !f.cedes r e.1⟩).rdV q l := fun q l => by
    rw [Warp.deliver_of_writes hf]; rfl
  have hsub : ∀ x ∈ vals.filter (fun e => !f.cedes r e.1), x ∈ vals := fun x hx => List.mem_of_mem_filter hx
  have h32' : ∀ x ∈ vals.filter (fun e => !f.cedes r e.1), x.1 < 32 := fun x hx => h32 x (hsub x hx)
  refine ⟨fun x hx => ?_, fun q l hl h => ?_⟩
  · rw [hv]
    cases hc : f.cedes r x.1 with
    | false =>
      rw [Bool.or_false, Warp.rdV_wrRes_of_mem w r _ (hn.sublist (List.Sublist.map _ List.filter_sublist)) h32' (List.mem_filter.2 ⟨hx, by simp [hc]⟩)]
    | true =>
      rw [Bool.or_true, if_pos rfl]
      refine Warp.rdV_wrRes_other w r r _ (h32 x hx) h32' (.inr fun y hy he => ?_)
      have := (List.mem_filter.1 hy).2
      simp [he, hc] at this
  · rw [hv]
    exact Warp.rdV_wrRes_other w r q _ hl h32' (h.imp id fun h x hx => h x (hsub x hx))

end

/-! ### The choice among ready warps -/

theorem State.before_irrefl (s : State) (a : Nat) : s.before a a = false := by
  rw [State.before]
  cases s.urgent a <;> simp

theorem State.before_trans {s : State} {a b c : Nat} (hab : s.before a b = true) (hbc : s.before b c = true) : s.before a c = true := by
  rw [State.before] at *
  cases ha : s.urgent a <;> cases hb : s.urgent b <;> cases hc : s.urgent c <;> simp only [ha, hb, hc, Bool.false_eq_true] at hab hbc ⊢
  · simp only [Bool.or_eq_true, Bool.and_eq_true, decide_eq_true_eq, beq_iff_eq] at *
    omega
  · simp only [decide_eq_true_eq] at *
    omega

/-- Of two warps the one that is taken. -/
def State.sooner (s : State) (b : Option Nat) (h : Nat) : Option Nat :=
  match b with
  | none => some h
  | some x => if s.before h x then some h else some x

/-- Going through warps takes one that none of them comes before. -/
theorem State.foldl_sooner (s : State) (l : List Nat) :
    (l.foldl s.sooner none = none → l = []) ∧ ∀ h, l.foldl s.sooner none = some h → h ∈ l ∧ ∀ y ∈ l, s.before y h = false := by
  induction l using List.reverseRecOn with
  | nil => simp
  | append_singleton l k ih =>
    obtain ⟨hnil, hsome⟩ := ih
    rw [List.foldl_append, List.foldl_cons, List.foldl_nil]
    cases hl : l.foldl s.sooner none with
    | none => simp [State.sooner, hnil hl, s.before_irrefl]
    | some x =>
      obtain ⟨hx, hmin⟩ := hsome x hl
      rw [State.sooner]
      by_cases hk : s.before k x = true
      · rw [if_pos hk]
        refine ⟨nofun, fun h he => ?_⟩
        cases he
        refine ⟨by simp, fun y hy => ?_⟩
        rcases List.mem_append.1 hy with hy | hy
        · exact Bool.eq_false_iff.2 fun hyk => absurd (State.before_trans hyk hk) (by simp [hmin y hy])
        · rw [List.mem_singleton.1 hy, s.before_irrefl]
      · rw [if_neg hk]
        refine ⟨nofun, fun h he => ?_⟩
        cases he
        refine ⟨List.mem_append_left _ hx, fun y hy => ?_⟩
        rcases List.mem_append.1 hy with hy | hy
        · exact hmin y hy
        · rw [List.mem_singleton.1 hy, Bool.eq_false_iff.2 hk]

/-- The chosen warp is one of the ready ones outside the slots, and none of those comes before it (R58). -/
theorem State.chosen_spec {s : State} {core h : Nat} (hc : s.chosen core = some h) :
    ∃ w, (h, w) ∈ s.warps ∧ w.core = core ∧ s.ready h = true ∧ h ∉ s.inSlots core ∧
      ∀ e ∈ s.warps, e.2.core = core → e.1 ∉ s.inSlots core → s.ready e.1 = true → s.before e.1 h = false := by
  obtain ⟨hmem, hmin⟩ := (s.foldl_sooner _).2 h hc
  obtain ⟨⟨h', w⟩, he, rfl⟩ := List.mem_map.1 hmem
  obtain ⟨hw, hok⟩ := List.mem_filter.1 he
  simp only [Bool.and_eq_true, beq_iff_eq, Bool.not_eq_true', List.contains_eq_mem, decide_eq_false_iff_not] at hok
  obtain ⟨⟨hcore, hslot⟩, hready⟩ := hok
  refine ⟨w, hw, hcore, hready, hslot, fun e he hc hs hr => hmin _ (List.mem_map_of_mem (List.mem_filter.2 ⟨he, ?_⟩))⟩
  simp [hc, hs, hr]

end Sys2Proof.Machine
end

section
/-! OBLIGATION. SLOT_FILL, COUNTER_RELEASE and ILLEGAL_INSTRUCTION_WORD (R42, R43, R53 to R58, R61). -/

namespace Sys2Proof.Machine

theorem State.modWarp_eq {s : State} {h : Nat} {w : Warp} (hw : SMap.find s.warps h = some w) (f : Warp → Warp) :
    s.modWarp h f = s.setWarp h (f w) := by
  simp [State.modWarp, hw]

theorem State.find_setWarp_other (s : State) {h g : Nat} (w : Warp) (hg : g ≠ h) :
    SMap.find (s.setWarp h w).warps g = SMap.find s.warps g := SMap.find_put_other _ _ hg

/-! ### SLOT_FILL -/

theorem exec_slotFill_idle {core : Nat} {s : State} (h : s.turnCore ≠ 0 ∨ s.chosen core = none ∨ 4 ≤ (s.inSlots core).length) :
    exec (.slotFill core) s = .next s := by
  show Host.Outcome.next _ = _
  congr 1
  split
  · rfl
  next hn =>
    simp only [not_or, not_le, not_not] at hn
    rw [(h.resolve_left (not_not.2 hn.1)).resolve_right (not_le.2 hn.2)]

theorem Warp.openRun_eq {w : Warp} {lo : Nat} {m : Word} {pc : DWord} (h : w.nextStrand = some (lo, m, pc)) :
    w.openRun = { w with inRun := true, active := m, runPc := pc, runWords := 0, lastLow := some lo, endRun := false, grpS := 0, jump := false } := by
  rw [Warp.openRun, h]

theorem exec_slotFill {core h : Nat} {s : State} {w : Warp} (ht : s.turnCore = 0) (hc : s.chosen core = some h) (hl : (s.inSlots core).length < 4)
    (hw : SMap.find s.warps h = some w) (hr : w.inRun = false) :
    exec (.slotFill core) s =
      .next ((s.modCore core fun c => { c with slots := s.inSlots core ++ [h] }).setWarp h { w.openRun with readySince := none }) := by
  show Host.Outcome.next (if s.turnCore ≠ 0 ∨ 4 ≤ (s.inSlots core).length then s else _) = _
  rw [if_neg (by omega), hc]
  dsimp only
  rw [State.modWarp_eq (w := w) (by simpa [State.modCore] using hw), hr]
  rfl

/-! ### COUNTER_RELEASE -/

theorem find?_of_filter {α : Type} {p : α → Bool} {l : List α} {x : α} {t : List α} (h : l.filter p = x :: t) : l.find? p = some x := by
  rw [← List.head?_filter, h]
  rfl

theorem exec_counterRelease {wp : Nat} {dc : Dc} {s : State} {w : Warp} {f : Inflight} {rest : List Inflight} (hw : SMap.find s.warps wp = some w)
    (hf : (w.inflight.filter fun x => x.dc == dc.toNat) = f :: rest) :
    exec (.counterRelease wp dc) s =
      .next (s.setWarp wp (if f.done then { w.deliver f with inflight := w.inflight.filter fun x => x.seq != f.seq } else w)) := by
  show Host.Outcome.next (s.modWarp wp _) = _
  rw [State.modWarp_eq hw, find?_of_filter hf]

/-! ### ILLEGAL_INSTRUCTION_WORD -/

/-- The stops of the active lanes, at one word. -/
def Warp.activeStops (w : Warp) (cause aux : Nat) (detail ea : Nat → Nat) (resume skip : DWord) : List Stop :=
  (lanesOf w.active).map fun l =>
    { lane := l, cause := cause, detail := detail l, pc := w.runPc, resume := resume, skip := skip, ea := ea l, aux := aux, mask := w.active
      axf := w.rdAxf l, dispatched := false, recIdx := 0, copy := none, seq := w.seqNo, note := none, late := none }

/-- The warp whose active lanes have all stopped, before its group ends. -/
def Warp.allStopped (w : Warp) (cause aux : Nat) (detail ea : Nat → Nat) (resume skip : DWord) : Warp :=
  { w with
    stops := w.stops ++ w.activeStops cause aux detail ea resume skip
    pcs := (lanesOf w.active).foldl (fun m l => SMap.put m l resume) w.pcs
    active := 0 }

/-- A trap that stops every active lane ends the run: a group that nothing of has passed is withdrawn, another is closed. -/
theorem Warp.stopLanes_all (w : Warp) (coll : Bool) (g clk cause aux : Nat) (detail ea : Nat → Nat) (resume skip : DWord) :
    w.stopLanes coll g clk cause w.active w.active detail ea aux resume skip =
      let u := w.allStopped cause aux detail ea resume skip
      { (if u.runPc = u.grpPc ∧ u.lclk = u.grpLclk then { u with deferred := [], grpS := 0, grpW := 0 } else u.closeGroup coll g clk) with
        inRun := false, todo := [], endRun := false } := by
  simp only [Warp.stopLanes, BitVec.and_self, BitVec.and_not_self, if_true]
  rfl

/-- What `still` keeps of a warp. -/
theorem Warp.fields_of_still {t u : Warp} (h : t.still = u.still) :
    t.stops = u.stops ∧ t.v = u.v ∧ t.k = u.k ∧ t.p = u.p ∧ t.axf = u.axf ∧ t.ucount = u.ucount ∧ t.queues = u.queues := by
  have key {α : Type} (f : Warp → α) : f t.still = f u.still := congrArg f h
  exact ⟨key Warp.stops, key Warp.v, key Warp.k, key Warp.p, key Warp.axf, key Warp.ucount, key Warp.queues⟩

/-- A trap of all active lanes: their stops are added, their threads stand at the resume point, and no register, flag or result changes. -/
theorem Warp.stopLanes_all_spec (w : Warp) (coll : Bool) (g clk cause aux : Nat) (detail ea : Nat → Nat) (resume skip : DWord) :
    let t := w.stopLanes coll g clk cause w.active w.active detail ea aux resume skip
    let u := w.allStopped cause aux detail ea resume skip
    t.stops = u.stops ∧ t.pcs = u.pcs ∧ t.active = 0 ∧
    t.v = w.v ∧ t.k = w.k ∧ t.p = w.p ∧ t.axf = w.axf ∧ t.ucount = w.ucount ∧ t.pend = w.pend ∧ t.queues = w.queues ∧
    (w.deferred = [] → t.specials = w.specials) := by
  intro t u
  obtain ⟨hstill, hpend, -, -, -, -, -, hpcs, -, hact, -, hspec, -⟩ := u.closeGroup_spec coll g clk
  have ht : t = _ := w.stopLanes_all coll g clk cause aux detail ea resume skip
  rw [ht]
  dsimp only
  split
  · exact ⟨rfl, rfl, rfl, rfl, rfl, rfl, rfl, rfl, rfl, rfl, fun _ => rfl⟩
  · obtain ⟨hstops, hv, hkr, hp, haxf, huc, hq⟩ := Warp.fields_of_still hstill
    exact ⟨hstops, hpcs, hact, hv, hkr, hp, haxf, huc, hpend, hq, hspec⟩

/-- A trap of the group as a whole (R43): every active lane, and no other, stops at the group. -/
theorem State.trapped_groupTrap {s : State} (h : s.Here) (hk : s.w.kind = .normal) (cause detail ea : Nat) :
    s.Trapped (s.groupTrap cause detail ea) cause (fun _ => detail) (fun l => s.w.active.getLsbD l) s.w.runPc := by
  have hg : s.groupTrap cause detail ea = s.modW fun w => w.stopLanes s.collated s.g s.clk cause s.w.active s.w.active (fun _ => detail) (fun _ => ea) 0 s.w.runPc (s.skipAt s.w.runPc) := by
    rw [State.groupTrap, State.takeTrap, hk]
  obtain ⟨hstops, hpcs, hact, hrest⟩ := s.w.stopLanes_all_spec s.collated s.g s.clk cause 0 (fun _ => detail) (fun _ => ea) s.w.runPc (s.skipAt s.w.runPc)
  have honly : s.OnlyWarp (s.groupTrap cause detail ea) := by
    rw [hg]
    refine ⟨?_, fun k hk => State.modW_other s _ hk⟩
    rw [State.modW_eq h]
    rfl
  rw [← State.modW_w h fun w => w.stopLanes s.collated s.g s.clk cause s.w.active s.w.active (fun _ => detail) (fun _ => ea) 0 s.w.runPc (s.skipAt s.w.runPc), ← hg] at hstops hpcs hact hrest
  refine ⟨⟨honly, fun l hl ha => ?_, fun p hp => ?_, fun p hp => ?_, hrest⟩, fun l hl => ?_, fun l hl => ?_⟩
  · rw [hstops, Warp.allStopped, Warp.activeStops]
    exact ⟨_, List.mem_append_right _ (List.mem_map_of_mem ((mem_lanesOf _ _).2 ⟨hl, ha⟩)), rfl, rfl, rfl, rfl, rfl, rfl⟩
  · rw [hstops] at hp
    refine (List.mem_append.1 hp).imp id fun hp => ?_
    obtain ⟨l, hl, rfl⟩ := List.mem_map.1 hp
    exact ((mem_lanesOf _ _).1 hl).2
  · rw [hstops]
    exact List.mem_append_left _ hp
  · simp [hact]
  · rw [hpcs]
    simp [Warp.allStopped, get_foldl_put, mem_lanesOf, hl]

/-- Settles O55: the strands are found in order of their lowest lane; a release is one delivery; an illegal group is a trap of all active lanes. -/
theorem issueEvents : Obligations.IssueEvents := by
  unfold Obligations.IssueEvents
  refine ⟨fun core h lo m pc s w ht hc hl hw hr hn => ?_, fun core h s => State.chosen_spec, fun core s => exec_slotFill_idle,
    fun wp r dc s w f rest hw hf => ⟨fun hd => ?_, fun vals hd hwr hnd h32 => ?_⟩, fun detail s hh hk => ⟨_, rfl, State.trapped_groupTrap hh hk _ _ _⟩⟩
  · refine ⟨⟨_, exec_slotFill ht hc hl hw hr, rfl, fun g hg => State.find_setWarp_other _ _ hg, ?_⟩, fun l hl => Warp.mask_of_mem_strands (Warp.nextStrand_mem hn) hl,
      (Warp.lowest_of_mem_strands (Warp.nextStrand_mem hn)).1, (Warp.lowest_of_mem_strands (Warp.nextStrand_mem hn)).2, fun k hk hex => ?_, fun hex => ?_⟩
    · rw [Warp.openRun_eq hn]
      simp [State.coreAt, State.modCore, State.setCore, State.warpAt, State.setWarp]
    · exact ⟨(Warp.nextStrand_above hn hk hex).1, (Warp.nextStrand_above hn hk hex).2.2⟩
    · exact (Warp.nextStrand_first hn hex).2
  · refine ⟨_, exec_counterRelease hw hf, ?_, rfl⟩
    simp [hd]
  · obtain ⟨hgot, hkept⟩ := Warp.rdV_deliver hwr w hnd h32
    refine ⟨_, _, exec_counterRelease hw hf, rfl, fun g hg => State.find_setWarp_other _ _ hg, SMap.find_put_same _ _ _, ?_⟩
    rw [hd, if_pos rfl]
    refine ⟨rfl, ?_, ?_, hgot, hkept⟩
    · obtain ⟨v, hv⟩ := w.wrRes_v_eq r (vals.filter fun e => !f.cedes r e.1)
      rw [Warp.deliver_of_writes hwr, hv]
    · rw [Warp.deliver_of_writes hwr]
      rfl

end Sys2Proof.Machine
end

section
/-! OBLIGATION. A step runs the instruction that the word at the program counter decodes to (R37, R42, R43, R74). -/

namespace Sys2Proof.Machine

/-! ### What making results visible leaves alone (R60) -/

theorem Warp.wrLane_eq (w : Warp) (r : RegId) (l : Nat) (x : DWord) : ∃ v k p, w.wrLane r l x = { w with v := v, k := k, p := p } := by
  cases r with
  | v n =>
    obtain ⟨v, hv⟩ := w.wrLane_v_eq n l x
    exact ⟨v, w.k, w.p, hv⟩
  | k n =>
    rw [Warp.wrLane, Warp.wrK]
    split
    · exact ⟨w.v, w.k, w.p, rfl⟩
    · exact ⟨w.v, _, w.p, rfl⟩
  | p n =>
    rw [Warp.wrLane, Warp.wrP]
    split_ifs
    · exact ⟨w.v, w.k, w.p, rfl⟩
    · exact ⟨w.v, w.k, w.p, rfl⟩
    · exact ⟨w.v, w.k, _, rfl⟩

/-- Steps that each change registers alone change registers alone. -/
theorem Warp.foldl_regs_eq {α : Type} {f : Warp → α → Warp} (hf : ∀ w a, ∃ v k p, f w a = { w with v := v, k := k, p := p }) (l : List α) (w : Warp) :
    ∃ v k p, l.foldl f w = { w with v := v, k := k, p := p } := by
  induction l generalizing w with
  | nil => exact ⟨w.v, w.k, w.p, rfl⟩
  | cons a t ih =>
    obtain ⟨v, k, p, ha⟩ := hf w a
    obtain ⟨v', k', p', ht⟩ := ih (f w a)
    exact ⟨v', k', p', by rw [List.foldl_cons, ht, ha]⟩

theorem Warp.wrRes_eq (w : Warp) (r : RegWrite) : ∃ v k p, w.wrRes r = { w with v := v, k := k, p := p } := by
  rw [Warp.wrRes]
  exact Warp.foldl_regs_eq (fun w e => w.wrLane_eq r.reg e.1 e.2) r.vals w

theorem Warp.wrAll_eq (w : Warp) (rs : List RegWrite) : ∃ v k p, w.wrAll rs = { w with v := v, k := k, p := p } :=
  Warp.foldl_regs_eq Warp.wrRes_eq rs w

theorem Warp.commit_eq (w : Warp) : ∃ v k p q, w.commit = { w with v := v, k := k, p := p, pend := q } := by
  obtain ⟨v, k, p, h⟩ := w.wrAll_eq ((w.pend.filter fun p => decide (p.vis ≤ w.sched)).map (·.res))
  exact ⟨v, k, p, _, by rw [Warp.commit, h]⟩

/-! ### Fetching and admitting a group of one word (R37, R74) -/

/-- A word whose C bit is clear is a group of its own, with its payload if it has one. -/
theorem State.fetchGroup_single {s : State} {n a w pl : Nat} (hw : s.fetchWord a = .word w) (hlt : w < 2 ^ 31)
    (hpl : s.wordPos a ≠ 2 → wordCount w = 2 → s.fetchWord (a + 4) = .word pl) (h0 : s.wordPos a = 2 ∨ wordCount w = 1 → pl = 0) :
    s.fetchGroup (n + 1) a = .words [(s.wordPos a, w, pl)] := by
  have hc : bitAt w 31 = false := by
    rw [bitAt, Nat.div_eq_of_lt hlt]
    rfl
  have hcount : wordCount w = 1 ∨ wordCount w = 2 := by
    rw [wordCount]
    split <;> simp
  have hfetch : (if (if s.wordPos a = 2 then 1 else wordCount w) = 2 then s.fetchWord (a + 4) else .word 0) = .word pl := by
    by_cases hpos : s.wordPos a = 2
    · simp [hpos, h0 (.inl hpos)]
    · rcases hcount with h1 | h2
      · simp [hpos, h1, h0 (.inr h1)]
      · simp [hpos, h2, hpl hpos h2]
  rw [State.fetchGroup, hw]
  dsimp only
  rw [hfetch]
  simp [hc]

theorem groupInstrs_single {pos w pl : Nat} {i : Instr} (h : decodeWord w pl = .ok i) : groupInstrs [(pos, w, pl)] = [i] := by
  simp [groupInstrs, h]

theorem State.not_collated_of_not_inDomain {s : State} (h : s.inDomain = false) : s.collated = false := by
  rw [State.inDomain] at h
  simp [State.collated, h]

theorem State.inDomain_atGroup {s : State} (h : s.Here) : (s.modW Warp.atGroup).inDomain = s.inDomain := by
  simp only [State.inDomain, State.grid, State.grp, State.gridAt, State.groupAt, State.modW_w h, State.modW_grids, State.modW_groups]
  rfl

/-- In an open grid, without hazard checks, a group of one word meets its checks in this order (R43, log 21). -/
theorem State.admitGroup_single {u : State} (hh : u.Here) (hk : u.w.kind = .normal) (hc : u.w.chk = .off) (hd : u.inDomain = false) (i : Instr) :
    u.admitGroup [i] =
      let g := u.modW Warp.atGroup
      if g.badTarget i then g.beginGroup [.illegalInstructionWord 0x0B]
      else if !g.w.blocksOk [i] then g.groupTrap 0x03 0x01 0
      else if g.w.countersFull [i] then g.hold
      else if g.waits i then g.holdRun
      else (g.claimGate i).getD (g.beginGroup [i]) := by
  have hw := State.modW_w hh Warp.atGroup
  have hcoll : (u.modW Warp.atGroup).collated = false := State.not_collated_of_not_inDomain ((State.inDomain_atGroup hh).trans hd)
  have hk' : (u.modW Warp.atGroup).w.kind = .normal := by rw [hw]; exact hk
  have hc' : (u.modW Warp.atGroup).w.chk = .off := by rw [hw]; exact hc
  have hl : (u.modW Warp.atGroup).lockJumps i = false := by
    unfold State.lockJumps
    split
    · rw [hcoll, Bool.false_and]
    · rfl
  have hs : (WarpKind.normal == WarpKind.surrender) = false := rfl
  rw [State.admitGroup]
  dsimp only
  rw [hcoll, hk', State.checked, if_pos hc']
  simp only [Bool.false_and, hs, Bool.false_eq_true, if_false, List.any_cons, List.any_nil, Bool.or_false, hl, List.findSome?_cons, List.findSome?_nil]
  cases (u.modW Warp.atGroup).claimGate i <;> rfl

section
variable {s : State} {xs : List (Nat × Nat × Nat)} (hd : (s.modW Warp.commit).inDomain = false)
  (hf : (s.modW Warp.commit).fetchGroup 3 (s.modW Warp.commit).w.runPc.toNat = .words xs)
include hd hf

/-- In an open grid a group that meets a condition of Table 2.4 becomes ILLEGAL_INSTRUCTION_WORD. -/
theorem State.tryGroup_of_code {d : Nat} (hg : (s.modW Warp.commit).groupCode (s.modW Warp.commit).w.runWords xs = some d) :
    s.tryGroup = ((s.modW Warp.commit).modW Warp.atGroup).beginGroup [.illegalInstructionWord d] := by
  have he : (s.modW Warp.commit).endsRun xs = false := by rw [State.endsRun, State.not_collated_of_not_inDomain hd]; rfl
  simp only [State.tryGroup, hf, he, Bool.false_eq_true, if_false, hg]

theorem State.tryGroup_of_no_code (hg : (s.modW Warp.commit).groupCode (s.modW Warp.commit).w.runWords xs = none) :
    s.tryGroup = (s.modW Warp.commit).admitGroup (groupInstrs xs) := by
  have he : (s.modW Warp.commit).endsRun xs = false := by rw [State.endsRun, State.not_collated_of_not_inDomain hd]; rfl
  simp only [State.tryGroup, hf, he, Bool.false_eq_true, if_false, hg]

end

/-! ### The words of a group that issues (R38) -/

theorem State.runWord_normal {s : State} {i : Instr} (run : Instr → State → Out) (hk : s.w.kind = .normal) (ho : s.ordersWait i = false) :
    s.runWord run i = run i s := by
  simp [State.runWord, hk, ho]

theorem State.ordersWait_of_waits {s : State} {i : Instr} (hk : s.w.kind = .normal) (h : s.waits i = false) : s.ordersWait i = false := by
  have hn : (WarpKind.normal == WarpKind.normal) = true := rfl
  simp only [State.waits, hk, hn, Bool.true_or, Bool.true_and, Bool.or_eq_false_iff] at h
  exact h.1

theorem State.ordersWait_beginGroup (s : State) (is : List Instr) (i : Instr) : (s.beginGroup is).ordersWait i = s.ordersWait i := by
  have h : (s.beginGroup is).openReqs (s.beginGroup is).cur = s.openReqs s.cur := by
    show (s.modW _).openReqs (s.modW _).cur = _
    rw [State.openReqs, State.modW_tiles, State.modW_adds, State.modW_cur]
    rfl
  rw [State.ordersWait, h]
  rfl

theorem State.beginGroup_w {s : State} (h : s.Here) (is : List Instr) :
    (s.beginGroup is).w = { s.w with todo := is, earliest := s.clk + (s.w.occupies is - 1) } := State.modW_w h _

theorem State.beginGroup_here {s : State} (h : s.Here) (is : List Instr) : (s.beginGroup is).Here := State.modW_isSome h _

theorem ordersWait_illegal (s : State) (d : Nat) : s.ordersWait (.illegalInstructionWord d) = false := by
  simp [State.ordersWait, Instr.orders, Instr.accesses]

/-- An illegal group never waits: its one event is a trap of all active lanes. -/
theorem State.stuckWord_illegal {t : State} {d : Nat} (h : t.Here) (hk : t.w.kind = .normal) (htodo : t.w.todo = [.illegalInstructionWord d])
    (hw : t.w.waiting = false) : State.stuckWord exec t 3 t = none := by
  have hrun : t.runWord exec (.illegalInstructionWord d) = .next (t.groupTrap 0x01 d 0) := State.runWord_normal exec hk (ordersWait_illegal t d)
  have hg : (t.groupTrap 0x01 d 0).w = t.w.stopLanes t.collated t.g t.clk 0x01 t.w.active t.w.active (fun _ => d) (fun _ => 0) 0 t.w.runPc (t.skipAt t.w.runPc) := by
    rw [State.groupTrap, State.takeTrap, hk]
    exact State.modW_w h _
  have hstop : (t.groupTrap 0x01 d 0).w.todo = [] := by
    rw [hg, Warp.stopLanes_all]
  have hgo : (t.groupTrap 0x01 d 0).w.waiting = false := by
    rw [hg, Warp.stopLanes_all]
    dsimp only
    split
    · exact hw
    · obtain ⟨hstill, -⟩ := Warp.closeGroup_spec (t.w.allStopped 0x01 0 (fun _ => d) (fun _ => 0) t.w.runPc (t.skipAt t.w.runPc)) t.collated t.g t.clk
      exact (congrArg Warp.waiting hstill : _).trans hw
  simp [State.stuckWord, htodo, hrun, hgo, hstop]

/-! ### One step -/

theorem State.waiting_of_pick {s : State} {h : Nat} (hp : s.pick = some h) : (s.warpAt h).waiting = false := by
  obtain ⟨e, -, he⟩ := List.exists_of_findSome?_eq_some hp
  have hm : s.mayRun h = true := by
    split at he
    · cases he
    · exact List.find?_some he
  simp only [State.mayRun, Bool.and_eq_true, Bool.not_eq_true'] at hm
  tauto

section
variable {s g : State} {h : Nat} {i : Instr} (h0 : s.w.todo = []) (hi : s.nextInput = none) (he : s.afterEvent exec = none) (hp : s.pick = some h)
  (ht : (s.warpAt h).todo = []) (hg : g.Here) (hw : g.w.waiting = false)
include h0 hi he hp ht hg hw

/-- When nothing else is due, a step issues the word that the warp whose turn it is has begun, or the group waits as a whole. -/
theorem step_of_begun (ha : s.attempt h = g.beginGroup [i]) : step s =
    (State.stuckWord exec (g.beginGroup [i]) 3 (g.beginGroup [i])).elim ((g.beginGroup [i]).runWord exec i)
      fun x => .next (State.groupWaits exec (g.beginGroup [i]) (s.warpAt h).earliest x) := by
  have hb : (g.beginGroup [i]).w.todo = [i] := by rw [State.beginGroup_w hg]
  have hbw : (g.beginGroup [i]).w.waiting = false := by rw [State.beginGroup_w hg]; exact hw
  simp only [step, State.advance, h0, State.idleStep, hi, he, hp, ha, hb, hbw, ht, List.isEmpty_nil, Bool.not_true, Bool.false_eq_true, if_false]
  cases State.stuckWord exec (g.beginGroup [i]) 3 (g.beginGroup [i]) <;> rfl

theorem step_of_begun_illegal {d : Nat} (hk : g.w.kind = .normal) (ha : s.attempt h = g.beginGroup [.illegalInstructionWord d]) :
    step s = exec (.illegalInstructionWord d) (g.beginGroup [.illegalInstructionWord d]) := by
  have hb := State.beginGroup_w hg [.illegalInstructionWord d]
  have hbk : (g.beginGroup [.illegalInstructionWord d]).w.kind = .normal := by rw [hb]; exact hk
  rw [step_of_begun h0 hi he hp ht hg hw ha,
    State.stuckWord_illegal (State.beginGroup_here hg _) hbk (by rw [hb]) (by rw [hb]; exact hw), Option.elim_none,
    State.runWord_normal exec hbk (ordersWait_illegal _ d)]

end

theorem step_input {s : State} {e : Instr} {rest : List Instr} (h0 : s.w.todo = []) (hi : s.inputs = e :: rest) (hx : e.external = true)
    (hl : overLink e = false ∨ (s.dieAt 24).halted = false) : step s = exec e { s with inputs := rest } := by
  have hn : s.nextInput = some e := by
    rw [State.nextInput, hi, List.find?_cons_of_pos]
    rcases hl with hl | hl
    · simp [hl]
    · simp [spineDie, hl]
  rw [step, State.advance, h0]
  dsimp only
  rw [State.idleStep, hn]
  dsimp only
  rw [if_pos hx, hi, List.erase_cons_head]

theorem State.fetchWord_of_page {s : State} {a : Nat} {x : Leaf} (hc : s.inCode a = true) (ha : a < 2 ^ 57) (hx : s.walk s.ctxNo a = .ok x)
    (hl : s.pageLost x = false) (hp : pteP x.pte = true) (hm : s.meetsLost (x.pa a) 4 = false) (hh : s.homeFailed (x.pa a) = false)
    (hX : pteX x.pte = true) : s.fetchWord a = .word (s.number (x.pa a) 4) := by
  simpa [State.fetchWord, hc, hx, hl, hp, hm, hh, hX, State.number] using ha

/-- Settles O56: the step is followed from the turn through the fetch and the checks of a group of one word. -/
theorem stepRunsDecoded : Obligations.StepRunsDecoded := by
  unfold Obligations.StepRunsDecoded
  refine ⟨fun s i rest ht hw hk ho => ?_, fun s e rest => step_input, ?_, fun s a x => State.fetchWord_of_page⟩
  · simp only [step, State.advance, ht, hw, Bool.false_eq_true, if_false, State.runWord_normal exec hk ho]
  · intro s h w pl h0 hi he hp hs ht hk hc u g a hd hf hlt hpl hz
    have hu : u.Here := State.modW_isSome hs Warp.commit
    have hg : g.Here := State.modW_isSome hu Warp.atGroup
    have hgw : g.w = u.w.atGroup := State.modW_w hu Warp.atGroup
    obtain ⟨hku, hcu, hwu⟩ : u.w.kind = .normal ∧ u.w.chk = .off ∧ u.w.waiting = false := by
      obtain ⟨v, k, p, q, hcommit⟩ := (s.warpAt h).commit_eq
      have huw : u.w = (s.warpAt h).commit := State.modW_w hs Warp.commit
      rw [huw, hcommit]
      exact ⟨hk, hc, State.waiting_of_pick hp⟩
    have hkg : g.w.kind = .normal := by rw [hgw]; exact hku
    have hwg : g.w.waiting = false := by rw [hgw]; exact hwu
    have hxs : u.fetchGroup 3 a = .words [(u.wordPos a, w, pl)] := State.fetchGroup_single hf hlt hpl hz
    have hatt : s.attempt h = State.tryGroup { s with cur := h, turnCore := max s.turnCore ((s.warpAt h).core + 1) } := by
      have : (s.warpAt h).todo.isEmpty = true := by rw [ht]; rfl
      exact if_pos this
    have hadmit : ∀ i, decodeWord w pl = .ok i → u.groupCode u.w.runWords [(u.wordPos a, w, pl)] = none → s.attempt h = u.admitGroup [i] :=
      fun i hi hn => by rw [hatt, State.tryGroup_of_no_code hd hxs hn, groupInstrs_single hi]
    refine ⟨fun i hdec hn htgt hblk hcnt hwait hclaim => ?_, fun i hdec hn htgt => ?_, fun d hcode => ?_⟩
    · have hbegin : s.attempt h = g.beginGroup [i] := by
        rw [hadmit i hdec hn, State.admitGroup_single hu hku hcu hd]
        simp [g, htgt, hblk, hcnt, hwait, hclaim]
      have hrun : (g.beginGroup [i]).runWord exec i = exec i (g.beginGroup [i]) := by
        refine State.runWord_normal exec (by rw [State.beginGroup_w hg]; exact hkg) ?_
        rw [State.ordersWait_beginGroup]
        exact State.ordersWait_of_waits hkg hwait
      rw [step_of_begun h0 hi he hp ht hg hwg hbegin, hrun]
      exact ⟨fun hst => by rw [hst]; rfl, fun x hst => by rw [hst]; rfl⟩
    · refine step_of_begun_illegal h0 hi he hp ht hg hwg hkg ?_
      rw [hadmit i hdec hn, State.admitGroup_single hu hku hcu hd]
      exact if_pos htgt
    · exact step_of_begun_illegal h0 hi he hp ht hg hwg hkg (hatt.trans (State.tryGroup_of_code hd hxs hcode))

end Sys2Proof.Machine
end

section
/-! OBLIGATION. The words of the spec's own examples (R31 to R35). -/

namespace Sys2Proof.Machine

/-- Settles O58: each word is decoded field by field. -/
theorem decodeSamples : Obligations.DecodeSamples := by
  unfold Obligations.DecodeSamples
  decide

end Sys2Proof.Machine
end

section
/-! SUPPORT. What lemmas of the warp say of the state, and the trap of a whole strand. -/

namespace Sys2Proof.Machine

/-! ### The current warp alone -/

theorem State.onlyWarp_modW {s : State} (h : s.Here) (f : Warp → Warp) : s.OnlyWarp (s.modW f) := by
  refine ⟨?_, fun k hk => State.modW_other s f hk⟩
  rw [State.modW_eq h]
  rfl

theorem State.OnlyWarp.of_modW {s t : State} {f : Warp → Warp} (h : s.Here) (ht : (s.modW f).OnlyWarp t) : s.OnlyWarp t := by
  obtain ⟨hrest, hothers⟩ := ht
  refine ⟨?_, fun k hk => (hothers k (by simpa using hk)).trans (State.modW_other s f hk)⟩
  calc ({ t with warps := s.warps } : State) = { ({ t with warps := (s.modW f).warps } : State) with warps := s.warps } := rfl
    _ = { s.modW f with warps := s.warps } := by rw [hrest]
    _ = s := (State.onlyWarp_modW h f).1

/-! ### A trap of every active lane (R379 to R381) -/

/-- A change of the current warp is a trap of its active lanes when it adds a stop for each of them, all at the present word, and leaves every register, flag and result. -/
theorem State.trapped_modW {s : State} (h : s.Here) {f : Warp → Warp} {cause : Nat} {detail : Nat → Nat} {resume : DWord} {stop : Nat → Stop}
    (hstops : (f s.w).stops = s.w.stops ++ (lanesOf s.w.active).map stop)
    (hstop : ∀ l, (stop l).lane = l ∧ (stop l).cause = cause ∧ (stop l).detail = detail l ∧ (stop l).pc = s.w.runPc ∧ (stop l).resume = resume ∧ (stop l).dispatched = false)
    (hpcs : (f s.w).pcs = (lanesOf s.w.active).foldl (fun m l => SMap.put m l resume) s.w.pcs) (hact : (f s.w).active = 0)
    (hregs : (f s.w).v = s.w.v ∧ (f s.w).k = s.w.k ∧ (f s.w).p = s.w.p ∧ (f s.w).axf = s.w.axf ∧ (f s.w).ucount = s.w.ucount ∧ (f s.w).pend = s.w.pend ∧
      (f s.w).queues = s.w.queues ∧ (s.w.deferred = [] → (f s.w).specials = s.w.specials)) :
    s.Trapped (s.modW f) cause detail (fun l => s.w.active.getLsbD l) resume := by
  rw [← State.modW_w h f] at hstops hpcs hact hregs
  refine ⟨⟨State.onlyWarp_modW h f, fun l hl ha => ?_, fun p hp => ?_, fun p hp => ?_, hregs⟩, fun l hl => ?_, fun l hl => ?_⟩
  · rw [hstops]
    exact ⟨stop l, List.mem_append_right _ (List.mem_map_of_mem ((mem_lanesOf _ _).2 ⟨hl, ha⟩)), hstop l⟩
  · rw [hstops] at hp
    refine (List.mem_append.1 hp).imp id fun hp => ?_
    obtain ⟨l, hl, rfl⟩ := List.mem_map.1 hp
    dsimp only
    rw [(hstop l).1]
    exact ((mem_lanesOf _ _).1 hl).2
  · rw [hstops]
    exact List.mem_append_left _ hp
  · simp [hact]
  · rw [hpcs]
    simp [get_foldl_put, mem_lanesOf, hl]

theorem State.trapAll_normal {s : State} (hk : s.w.kind = .normal) (i : Instr) (cause detail aux : Nat) :
    s.trapAll i cause detail aux =
      s.modW fun w => w.stopLanes s.collated s.g s.clk cause s.w.active s.w.active (fun _ => detail) (fun _ => 0) aux s.w.runPc (s.nextPc i) := by
  rw [State.trapAll, State.takeTrap, hk]

theorem State.memFaultAll_normal {s : State} (hk : s.w.kind = .normal) (i : Instr) (detail ea aux : Nat) :
    s.memFaultAll i detail ea aux =
      s.modW fun w => w.stopLanes s.collated s.g s.clk 0x04 s.w.active s.w.active (fun _ => detail) (fun _ => ea) aux s.w.runPc (s.nextPc i) := by
  rw [State.memFaultAll, State.takeTrap, hk]

theorem State.trapped_trapAll {s : State} (h : s.Here) (hk : s.w.kind = .normal) (i : Instr) (cause detail aux : Nat) :
    s.Trapped (s.trapAll i cause detail aux) cause (fun _ => detail) (fun l => s.w.active.getLsbD l) s.w.runPc := by
  rw [State.trapAll_normal hk]
  obtain ⟨hstops, hpcs, hact, hregs⟩ := s.w.stopLanes_all_spec s.collated s.g s.clk cause aux (fun _ => detail) (fun _ => 0) s.w.runPc (s.nextPc i)
  exact State.trapped_modW h hstops (fun _ => ⟨rfl, rfl, rfl, rfl, rfl, rfl⟩) hpcs hact hregs

end Sys2Proof.Machine
end

section
/-! OBLIGATION. Branches, jumps, returns and calls (R36, R69 to R73). -/

namespace Sys2Proof.Machine

/-! ### Addresses of packets (R36) -/

theorem State.packetOf_eq {s : State} {a : DWord} (h : s.grid.ds.code ≤ a.toNat) :
    s.packetOf a = BitVec.ofNat 64 (s.grid.ds.code + 12 * ((a.toNat - s.grid.ds.code) / 12)) := by
  have hoff : (a - BitVec.ofNat 64 s.grid.ds.code).toNat = a.toNat - s.grid.ds.code := by
    have := a.isLt
    rw [BitVec.toNat_sub, BitVec.toNat_ofNat, Nat.mod_eq_of_lt (by omega : s.grid.ds.code < 2 ^ 64)]
    omega
  apply BitVec.eq_of_toNat_eq
  have := a.isLt
  rw [State.packetOf, State.codeBase, hoff, BitVec.toNat_sub, BitVec.toNat_ofNat, BitVec.toNat_ofNat]
  omega

/-- The packet `n` packets on from that of the present word. -/
theorem State.packetOf_add {s : State} (h : s.grid.ds.code ≤ s.w.runPc.toNat) (n : Int) :
    s.packetOf s.w.runPc + 12 * BitVec.ofInt 64 n = s.packet n := by
  rw [State.packetOf_eq h, State.packet, ← BitVec.ofInt_natCast, show (12 : DWord) = BitVec.ofInt 64 12 from rfl, ← BitVec.ofInt_mul, ← BitVec.ofInt_add]
  congr 1
  push_cast
  ring

theorem State.branchTarget_eq {s : State} (h : s.grid.ds.code ≤ s.w.runPc.toNat) (off : BitVec 14) : s.branchTarget off = s.packet off.toInt :=
  State.packetOf_add h off.toInt

theorem State.link_eq {s : State} (h : s.grid.ds.code ≤ s.w.runPc.toNat) : s.link = s.packet 1 := State.packetOf_add h 1

theorem State.targetOk_iff (s : State) (a : DWord) : s.targetOk a = true ↔ s.PacketStart a.toNat := by
  simp only [State.targetOk, State.inCode, Bool.and_eq_true, decide_eq_true_eq, beq_iff_eq, and_assoc]
  exact Iff.rfl

/-! ### Where a transfer's lanes go -/

theorem Warp.retireTo_ends (w : Warp) (coll : Bool) (g clk words weight : Nat) (tgt : Nat → DWord) {h : Hdr} (hc : h.c = false) (he : h.e = true) :
    let t := w.retireTo coll g clk h words weight tgt
    t.inRun = false ∧ t.active = 0 ∧ ∀ l, l < 32 → SMap.get 0 t.pcs l = if w.active.getLsbD l then tgt l else SMap.get 0 w.pcs l := by
  intro t
  obtain ⟨-, -, -, -, -, -, -, hpcs, -, hact, -⟩ := (w.pastWord h words weight).closeGroup_spec coll g clk
  have ht : t = ((w.pastWord h words weight).closeGroup coll g clk).endRunAt tgt := by
    rw [show t = _ from Warp.retireTo_last w coll g clk words weight tgt hc]
    simp [he]
  rw [ht]
  refine ⟨rfl, rfl, fun l hl => ?_⟩
  rw [Warp.endRunAt_pcs _ _ hl, hact, hpcs]
  rfl

/-- A transfer that ends its run: its lanes go where `tgt` says. -/
theorem State.went_retireTo {s : State} (h : s.Here) {i : Instr} (hc : i.hdr.c = false) (he : i.hdr.e = true) (tgt : Nat → DWord) :
    s.Went (s.retireTo i tgt) tgt ∧ (s.retireTo i tgt).w.pend = s.w.pend := by
  obtain ⟨honly, ⟨-, hspec⟩, hstill, hpend⟩ := State.retireTo_spec h i tgt
  obtain ⟨hrun, hact, hpcs⟩ := s.w.retireTo_ends s.collated s.g s.clk i.words (s.weightOf i) tgt hc he
  rw [← show (s.retireTo i tgt).w = _ from State.modW_w h _] at hrun hact hpcs
  exact ⟨⟨honly, hstill, hrun, hact, hspec, hpcs⟩, hpend⟩

/-- A transfer after a change of its warp that moves no lane and no register: its lanes go where `tgt` says. -/
theorem State.went_modW {s : State} (h : s.Here) {f : Warp → Warp} (hstill : (f s.w).still = s.w.still) (hdef : (f s.w).deferred = s.w.deferred)
    (hspec : (f s.w).specials = s.w.specials) (hpcs : (f s.w).pcs = s.w.pcs) (hact : (f s.w).active = s.w.active)
    {i : Instr} (hc : i.hdr.c = false) (he : i.hdr.e = true) (tgt : Nat → DWord) :
    s.Went ((s.modW f).retireTo i tgt) tgt ∧ ((s.modW f).retireTo i tgt).w.pend = (f s.w).pend := by
  have hu : (s.modW f).Here := State.modW_isSome h f
  obtain ⟨honly, ⟨-, hspecials⟩, hstays, hpend⟩ := State.retireTo_spec hu i tgt
  obtain ⟨hrun, hnone, hgo⟩ := (s.modW f).w.retireTo_ends (s.modW f).collated (s.modW f).g (s.modW f).clk i.words ((s.modW f).weightOf i) tgt hc he
  rw [← show ((s.modW f).retireTo i tgt).w = _ from State.modW_w hu _] at hrun hnone hgo
  rw [State.modW_w h] at hspecials hstays hpend hgo
  refine ⟨⟨honly.of_modW h, hstays.trans hstill, hrun, hnone, fun hd => (hspecials (hdef.trans hd)).trans hspec, ?_⟩, hpend⟩
  rwa [hact, hpcs] at hgo

theorem State.went_id {s : State} (h : s.Here) {i : Instr} (hc : i.hdr.c = false) (he : i.hdr.e = true) (tgt : Nat → DWord) :
    s.Went ((s.modW id).retireTo i tgt) tgt ∧ ((s.modW id).retireTo i tgt).w.pend = s.w.pend :=
  State.went_modW h rfl rfl rfl rfl rfl hc he tgt

/-- A call: its link is sent, and its lanes go. -/
theorem State.went_push {s : State} (h : s.Here) {i : Instr} (hc : i.hdr.c = false) (he : i.hdr.e = true) (k : Nat) (x : DWord) (tgt : Nat → DWord) :
    let t := (s.modW fun w => w.push 1 (RegWrite.ofK k x)).retireTo i tgt
    s.Went t tgt ∧ s.w.GivesK t.w 1 k x ∧ s.w.OnlyResults t.w [.k k] := by
  intro t
  obtain ⟨hwent, hpend⟩ := State.went_modW h (f := fun w => w.push 1 (RegWrite.ofK k x)) (s.w.push_still 1 _) rfl rfl rfl rfl hc he tgt
  have hunder : t.w.under = (s.w.push 1 (RegWrite.ofK k x)).under := by
    funext r n
    simp only [Warp.under, t, hpend]
  obtain ⟨hsent, hyield⟩ := s.w.push_sends 1 (RegWrite.ofK k x)
  refine ⟨hwent, ⟨hpend ▸ hsent, hunder ▸ hyield⟩, fun r n hr => ?_⟩
  rw [hunder]
  exact s.w.under_push 1 _ r n (hr.imp id fun hr hk => hr (List.mem_singleton.2 hk))

theorem exists_hdr_of_transfer {i : Instr} (ht : i.isTransfer = true) : ∃ x, i.hdr? = some x := by
  unfold Instr.isTransfer at ht
  split at ht
  rotate_right
  · cases ht
  all_goals exact ⟨_, rfl⟩

/-- A transfer ends its group and its run (R37, R41). -/
theorem hdr_of_transfer {i : Instr} (ht : i.isTransfer = true) (h : i.headerOk = true) : i.hdr.c = false ∧ i.hdr.e = true := by
  obtain ⟨x, hx⟩ := exists_hdr_of_transfer ht
  have hhdr : i.hdr = x := by rw [Instr.hdr, hx]; rfl
  rw [Instr.headerOk, hx] at h
  simp only [ht, Bool.not_true, Bool.false_or, Bool.and_eq_true, Bool.not_eq_true', Bool.and_eq_false_iff] at h
  rw [hhdr]
  exact ⟨h.2.resolve_right (ne_false_of_eq_true h.1), h.1⟩

/-! ### The three clauses -/

/-- A branch goes to its target in the lanes that take it, and to the next word in the others. -/
theorem exec_branch {i : Instr} {taken : Warp → Nat → Bool} {off : BitVec 14} (hi : branchRow i = some (taken, off)) (s : State) :
    i.isTransfer = true ∧ exec i s = .next (s.retireTo i fun l => if taken s.w l then s.branchTarget off else s.w.runPc + 4) := by
  cases i <;> simp only [branchRow, reduceCtorEq, Option.some.injEq, Prod.mk.injEq] at hi
  case bra h o =>
    obtain ⟨rfl, rfl⟩ := hi
    exact ⟨rfl, rfl⟩
  case brp h p o =>
    obtain ⟨rfl, rfl⟩ := hi
    exact ⟨rfl, rfl⟩
  case brn h p o =>
    obtain ⟨rfl, rfl⟩ := hi
    refine ⟨rfl, ?_⟩
    show Host.Outcome.next _ = _
    congr 2
    funext l
    by_cases hp : s.w.rdP p.toNat l = true <;> simp [hp, State.nextPc, Instr.words]
  case bru h k o =>
    obtain ⟨rfl, rfl⟩ := hi
    refine ⟨rfl, ?_⟩
    show Host.Outcome.next _ = _
    congr 2
    funext l
    simp [State.nextPc, Instr.words]
  case bruz h k o =>
    obtain ⟨rfl, rfl⟩ := hi
    refine ⟨rfl, ?_⟩
    show Host.Outcome.next _ = _
    congr 2
    funext l
    simp [State.nextPc, Instr.words]

/-- What a transfer through a k register does to its warp before its lanes go: it sends its link, if it has one. -/
def Warp.linked (x : DWord) : Option Kr → Warp → Warp
  | none => id
  | some kd => fun w => w.push 1 (RegWrite.ofK kd.toNat x)

theorem exec_jump {i : Instr} {ka : Kr} {link : Option Kr} (hi : jumpRow i = some (ka, link)) (s : State) :
    i.isTransfer = true ∧ exec i s = .next (s.jump i ka (Warp.linked s.link link)) := by
  cases i <;> simp only [jumpRow, reduceCtorEq, Option.some.injEq, Prod.mk.injEq] at hi <;> obtain ⟨rfl, rfl⟩ := hi <;> exact ⟨rfl, rfl⟩

/-- Settles O14: a transfer retires with its lanes at their targets, which are packets counted from that of its own word; a bad target is a trap of all active lanes. -/
theorem transfers : Obligations.Transfers := by
  unfold Obligations.Transfers
  refine ⟨fun i taken off s hi hok h hcode => ?_, fun i ka link s hi hok h hcode => ⟨fun ht => ?_, fun ht hk => ?_⟩, fun h k off s hok hh hcode => ?_⟩
  · obtain ⟨htr, hex⟩ := exec_branch hi s
    obtain ⟨hc, he⟩ := hdr_of_transfer htr hok
    rw [State.branchTarget_eq hcode] at hex
    obtain ⟨hwent, hpend⟩ := State.went_retireTo h hc he fun l => if taken s.w l then s.packet off.toInt else s.w.runPc + 4
    exact ⟨_, hex, hpend, hwent⟩
  · obtain ⟨htr, hex⟩ := exec_jump hi s
    obtain ⟨hc, he⟩ := hdr_of_transfer htr hok
    rw [State.jump, if_pos ((s.targetOk_iff _).2 ht), State.link_eq hcode] at hex
    refine ⟨_, hex, ?_⟩
    match link with
    | none =>
      obtain ⟨hwent, hpend⟩ := State.went_id h hc he fun _ => s.w.rdK ka.toNat
      exact ⟨hwent, fun _ => hpend, nofun⟩
    | some kd =>
      obtain ⟨hwent, hres⟩ := State.went_push h hc he kd.toNat (s.packet 1) fun _ => s.w.rdK ka.toNat
      exact ⟨hwent, nofun, fun _ hkd => Option.some.inj hkd ▸ hres⟩
  · obtain ⟨-, hex⟩ := exec_jump hi s
    rw [State.jump, if_neg (mt (s.targetOk_iff _).1 ht)] at hex
    exact ⟨_, hex, State.trapped_trapAll h hk _ _ _ _⟩
  · obtain ⟨hc, he⟩ := hdr_of_transfer rfl hok
    obtain ⟨hwent, hres⟩ := State.went_push hh hc he k.toNat (s.packet 1) fun _ => s.packet off.toInt
    refine ⟨_, ?_, hwent, hres⟩
    rw [← State.link_eq hcode, ← State.branchTarget_eq hcode]
    rfl

end Sys2Proof.Machine
end

section
/-! OBLIGATION. nop and dwait (R61, R68, R77, R253). -/

namespace Sys2Proof.Machine

/-- A mark that a dwait on these counters, with `n` instructions left to come, removes (R77). -/
theorem Warp.mem_unmark (w : Warp) (mask : BitVec 7) (n : Nat) (m : Mark) :
    m ∈ (w.unmark mask n).marks ↔ m ∈ w.marks ∧ ¬ (mask.getLsbD m.dc = true ∧ m.idx + n ≤ SMap.get 0 w.dcIssued m.dc) := by
  simp only [Warp.unmark, List.mem_filter, Bool.not_eq_true', Bool.and_eq_false_iff, decide_eq_false_iff_not, not_and_or, Bool.not_eq_true]

theorem Warp.dcAtMost_iff (w : Warp) (mask : BitVec 7) (n : Nat) :
    w.dcAtMost mask n = true ↔ ∀ c, c < 7 → mask.getLsbD c = true → (w.inflight.filter fun f => f.dc == c).length ≤ n := by
  simp only [Warp.dcAtMost, List.all_eq_true, List.mem_range, Bool.or_eq_true, Bool.not_eq_true', decide_eq_true_eq]
  refine forall₂_congr fun c _ => ?_
  rw [Warp.dcCount]
  cases mask.getLsbD c <;> simp

/-- Marks are no part of what retiring moves. -/
theorem Warp.still_marks {t u : Warp} (h : t.still = u.still) :
    t.marks = u.marks ∧ ∀ ms, { t with marks := ms }.still = { u with marks := ms }.still :=
  ⟨congrArg (f := Warp.marks) (a₁ := t.still) (a₂ := u.still) h, fun ms => congrArg (f := fun w : Warp => { w with marks := ms }) (a₁ := t.still) (a₂ := u.still) h⟩

/-! ### A copy at a fault (R253) -/

/-- What `State.copyFault` finds is a copy of the warp that stands at a fault and that the dwait covers. -/
theorem State.copyFault_some {s : State} {mask : BitVec 7} {c : Nat × Bool × Nat} {d a : Nat} (h : s.copyFault mask = some (c, d, a)) :
    s.FaultedCopy mask c d a := by
  obtain ⟨⟨g, x⟩, hg, hx⟩ := List.exists_of_findSome?_eq_some h
  obtain ⟨⟨side, n, ch⟩, hc, hch⟩ := List.exists_of_findSome?_eq_some hx
  dsimp only at hch
  split at hch
  next d' a' cp rest hf hcp =>
    split at hch
    next hcond =>
      simp only [Option.some.injEq, Prod.mk.injEq] at hch
      obtain ⟨rfl, rfl, rfl⟩ := hch
      simp only [Bool.and_eq_true, beq_iff_eq, List.any_eq_true, decide_eq_true_eq] at hcond
      obtain ⟨hw, f, hfm, ⟨hseq, hlt⟩, hm⟩ := hcond
      refine ⟨x, ch, cp, rest, hg, ?_, hf, hcp, hw, f, hfm, hseq, hlt, hm⟩
      simp only [List.mem_append, List.mem_map, Prod.mk.injEq] at hc
      rcases hc with ⟨y, hy, rfl, rfl, rfl⟩ | ⟨y, hy, rfl, rfl, rfl⟩ <;> exact hy
    next => cases hch
  next => cases hch

/-- Such a copy is found. -/
theorem State.copyFault_none {s : State} {mask : BitVec 7} (h : s.copyFault mask = none) (c : Nat × Bool × Nat) (d a : Nat) : ¬ s.FaultedCopy mask c d a := by
  rintro ⟨x, ch, cp, rest, hg, hc, hf, hcp, hw, f, hfm, hseq, hlt, hm⟩
  have hx := List.findSome?_eq_none_iff.1 h _ hg
  have hcov : (cp.warp == s.cur && s.w.inflight.any fun f => f.seq == cp.seq && decide (f.dc < 7) && mask.getLsbD f.dc) = true := by
    simp only [Bool.and_eq_true, beq_iff_eq, List.any_eq_true, decide_eq_true_eq]
    exact ⟨hw, f, hfm, ⟨hseq, hlt⟩, hm⟩
  have hmem : (c.2.1, c.2.2, ch) ∈ (x.chans.map fun c => (false, c)) ++ x.chansF.map fun c => (true, c) := by
    rw [List.mem_append, List.mem_map, List.mem_map]
    cases hs : c.2.1 with
    | false => exact .inl ⟨_, by simpa [hs] using hc, rfl⟩
    | true => exact .inr ⟨_, by simpa [hs] using hc, rfl⟩
  have := List.findSome?_eq_none_iff.1 hx _ hmem
  simp [hf, hcp, hcov] at this

theorem Warp.newStops_stops {w u : Warp} {f : Stop → Stop} {xs : List Stop} (h : u.stops = w.stops ++ xs) :
    (u.newStops w.stops.length f).stops = w.stops ++ xs.map f := by
  simp [Warp.newStops, h]

/-- The fault of a copy is a memory fault of every active lane, whose stops name the channel (R253). -/
theorem State.copyTrap_spec {s : State} (h : s.Here) (hk : s.w.kind = .normal) (i : Instr) (d a : Nat) (c : Nat × Bool × Nat) :
    s.Trapped (s.copyTrap i d a c) 0x04 (fun _ => d) (fun l => s.w.active.getLsbD l) s.w.runPc ∧
      ∀ p ∈ (s.copyTrap i d a c).w.stops, p ∈ s.w.stops ∨ p.ea = a ∧ p.aux = c.2.2 := by
  obtain ⟨hstops, hpcs, hact, hregs⟩ := s.w.stopLanes_all_spec s.collated s.g s.clk 0x04 c.2.2 (fun _ => d) (fun _ => a) s.w.runPc (s.nextPc i)
  rw [State.copyTrap, State.memFaultAll_normal hk, State.modW_modW]
  have hnew := Warp.newStops_stops (f := fun t => { t with copy := some c }) hstops
  rw [Warp.activeStops, List.map_map] at hnew
  refine ⟨State.trapped_modW h hnew (fun _ => ⟨rfl, rfl, rfl, rfl, rfl, rfl⟩) hpcs hact hregs, fun p hp => ?_⟩
  rw [State.modW_w h, hnew] at hp
  refine (List.mem_append.1 hp).imp id fun hp => ?_
  obtain ⟨l, -, rfl⟩ := List.mem_map.1 hp
  exact ⟨rfl, rfl⟩

/-! ### Waiting -/

theorem State.hold_spec {s : State} (h : s.Here) : s.hold.w = { s.w with waiting := true } ∧ s.hold.mem = s.mem :=
  ⟨State.modW_w h _, State.modW_mem _ _⟩

theorem State.holdRun_spec {s : State} (h : s.Here) : s.holdRun.w = { s.w with waiting := true } ∧ s.holdRun.mem = s.mem := by
  unfold State.holdRun
  split
  · exact State.hold_spec (s := s.modCore s.w.core fun c => { c with slots := c.slots.filter (· != s.cur) }) h
  · exact State.hold_spec h

/-- dwait passes, waits, or faults at a copy. -/
theorem exec_dwait_low {h : Hdr} {mask : BitVec 7} {n : BitVec 6} {s : State} (hl : s.w.dcAtMost mask n.toNat = true) :
    exec (.dwait h mask n) s = .next ((s.modW fun w => w.unmark mask n.toNat).retire (.dwait h mask n)) :=
  congrArg Host.Outcome.next (if_pos hl)

theorem exec_dwait_high {h : Hdr} {mask : BitVec 7} {n : BitVec 6} {s : State} (hl : ¬ s.w.dcAtMost mask n.toNat = true) :
    exec (.dwait h mask n) s = .next (match s.copyFault mask with
      | some (c, d, a) => s.copyTrap (.dwait h mask n) d a c
      | none => s.holdRun) :=
  congrArg Host.Outcome.next (if_neg hl)

/-- Settles O15: dwait retires past the marks it removes, or traps at the copy that is found to cover it, or holds its run. -/
theorem waitsForCounters : Obligations.WaitsForCounters := by
  unfold Obligations.WaitsForCounters
  refine ⟨fun h s hs => ?_, ?_⟩
  · obtain ⟨honly, hpass, hstill, hpend⟩ := State.retire_spec hs (.nop h)
    exact ⟨_, rfl, honly, hpass, hstill, hpend⟩
  intro h mask n s hs low
  have hiff : s.w.dcAtMost mask n.toNat = true ↔ low := s.w.dcAtMost_iff mask n.toNat
  refine ⟨fun hl => ?_, fun hl hno => ?_, fun hl hk hf => ?_⟩
  · obtain ⟨honly, hpass, hstill, hpend⟩ := State.modW_retire_spec hs (fun w => w.unmark mask n.toNat) (.dwait h mask n) rfl rfl rfl
    obtain ⟨hmarks, hrest⟩ := Warp.still_marks hstill
    refine ⟨_, exec_dwait_low (hiff.2 hl), honly, hpass, hpend, hrest s.w.marks, fun m => ?_⟩
    rw [hmarks]
    exact s.w.mem_unmark mask n.toNat m
  · have hex := exec_dwait_high (h := h) (mt hiff.1 hl)
    cases hc : s.copyFault mask with
    | some x => exact absurd (State.copyFault_some hc) (hno _ _ _)
    | none =>
      rw [hc] at hex
      exact ⟨_, hex, State.holdRun_spec hs⟩
  · have hex := exec_dwait_high (h := h) (mt hiff.1 hl)
    cases hc : s.copyFault mask with
    | none =>
      obtain ⟨c, d, a, hf⟩ := hf
      exact absurd hf (State.copyFault_none hc c d a)
    | some x =>
      rw [hc] at hex
      exact ⟨_, _, _, _, State.copyFault_some hc, hex, State.copyTrap_spec hs hk _ _ _ _⟩

end Sys2Proof.Machine
end

section
/-! SUPPORT. What barriers and exits leave alone (R271 to R275, R305, R306): registers, results under way, exited threads and memory. -/

namespace Sys2Proof.Machine

/-! ### Warps -/

/-- `u` is `w` with the same exited threads, registers and results under way, and in a run only if `w` is in one. -/
structure Warp.Quiet (w u : Warp) : Prop where
  exited : u.exited = w.exited
  inRun : w.inRun = false → u.inRun = false
  v : u.v = w.v
  k : u.k = w.k
  p : u.p = w.p
  pend : u.pend = w.pend
  axf : u.axf = w.axf

theorem Warp.Quiet.refl (w : Warp) : w.Quiet w := ⟨rfl, id, rfl, rfl, rfl, rfl, rfl⟩

theorem Warp.Quiet.trans {w u t : Warp} (h : w.Quiet u) (h' : u.Quiet t) : w.Quiet t :=
  ⟨h'.exited.trans h.exited, h'.inRun ∘ h.inRun, h'.v.trans h.v, h'.k.trans h.k, h'.p.trans h.p, h'.pend.trans h.pend, h'.axf.trans h.axf⟩

/-- Changes one after another. -/
theorem Warp.quiet_foldl {α : Type} {f : Warp → α → Warp} (hf : ∀ (w : Warp) a, w.Quiet (f w a)) (l : List α) (w : Warp) : w.Quiet (l.foldl f w) := by
  induction l generalizing w with
  | nil => exact .refl w
  | cons a t ih => exact (hf w a).trans (ih (f w a))

theorem Warp.Quiet.ite {w a b : Warp} {c : Prop} [Decidable c] (ha : w.Quiet a) (hb : w.Quiet b) : w.Quiet (if c then a else b) := by
  split
  · exact ha
  · exact hb

theorem Warp.quiet_complete (w : Warp) (seq : Nat) (rs : List RegWrite) : w.Quiet (w.complete seq rs) := ⟨rfl, id, rfl, rfl, rfl, rfl, rfl⟩

theorem Warp.quiet_endRunAt (w : Warp) (tgt : Nat → DWord) : w.Quiet (w.endRunAt tgt) := ⟨rfl, fun _ => rfl, rfl, rfl, rfl, rfl, rfl⟩

theorem Warp.quiet_refill (w : Warp) (now : Nat) : w.Quiet (w.refill now) := by
  unfold Warp.refill
  dsimp only
  split <;> exact ⟨rfl, id, rfl, rfl, rfl, rfl, rfl⟩

theorem Warp.quiet_lastExit (w : Warp) (coll : Bool) (g : Nat) : w.Quiet (w.lastExit coll g) := by
  unfold Warp.lastExit
  split <;> exact ⟨rfl, id, rfl, rfl, rfl, rfl, rfl⟩

theorem Warp.quiet_unpark (w : Warp) (coll : Bool) (g e : Nat) : w.Quiet (w.unpark coll g e) := by
  unfold Warp.unpark
  split
  · exact .refl w
  next p _ =>
    extract_lets p1 left again rest
    have hleft : w.Quiet left := ⟨rfl, id, rfl, rfl, rfl, rfl, rfl⟩
    have hagain : left.Quiet again := .ite (left.quiet_refill _) (.refl _)
    have hrest : again.Quiet rest := .ite (.refl _) ⟨rfl, id, rfl, rfl, rfl, rfl, rfl⟩
    refine ((hleft.trans hagain).trans hrest).trans (.ite ?_ (.refl _))
    have howing : rest.Quiet { rest with owed := rest.owed <|> some p1 } := ⟨rfl, id, rfl, rfl, rfl, rfl, rfl⟩
    exact howing.trans (.ite (.ite (Warp.quiet_endRunAt _ _) (.refl _)) ⟨rfl, id, rfl, rfl, rfl, rfl, rfl⟩)

/-! ### States -/

/-- The same current warp and memory, the same warps, and each of them quiet. -/
structure State.Quiet (s t : State) : Prop where
  cur : t.cur = s.cur
  mem : t.mem = s.mem
  warps : ∀ h w, SMap.find s.warps h = some w → ∃ u, SMap.find t.warps h = some u ∧ w.Quiet u

theorem State.Quiet.refl (s : State) : s.Quiet s := ⟨rfl, rfl, fun _ w h => ⟨w, h, .refl w⟩⟩

theorem State.Quiet.trans {s t r : State} (h : s.Quiet t) (h' : t.Quiet r) : s.Quiet r where
  cur := h'.cur.trans h.cur
  mem := h'.mem.trans h.mem
  warps k w hw := by
    obtain ⟨u, hu, hwu⟩ := h.warps k w hw
    obtain ⟨x, hx, hux⟩ := h'.warps k u hu
    exact ⟨x, hx, hwu.trans hux⟩

theorem State.Quiet.ite {s a b : State} {c : Prop} [Decidable c] (ha : s.Quiet a) (hb : s.Quiet b) : s.Quiet (if c then a else b) := by
  split
  · exact ha
  · exact hb

theorem State.Quiet.w {s t : State} (h : s.Quiet t) (hs : s.Here) : s.w.Quiet t.w := by
  obtain ⟨w, hw⟩ := Option.isSome_iff_exists.1 hs
  obtain ⟨u, hu, hq⟩ := h.warps _ _ hw
  rwa [State.w, State.w, SMap.get_eq_find, SMap.get_eq_find, h.cur, hw, hu]

theorem State.quiet_foldl {α : Type} {f : State → α → State} (hf : ∀ (s : State) a, s.Quiet (f s a)) (l : List α) (s : State) : s.Quiet (l.foldl f s) := by
  induction l generalizing s with
  | nil => exact .refl s
  | cons a t ih => exact (hf s a).trans (ih (f s a))

/-- A state with the same warps, current warp and memory. -/
theorem State.quiet_of_same {s t : State} (hw : t.warps = s.warps) (hc : t.cur = s.cur) (hm : t.mem = s.mem) : s.Quiet t :=
  ⟨hc, hm, fun _ w h => ⟨w, hw ▸ h, .refl w⟩⟩

theorem State.quiet_setWarp {s : State} {h : Nat} {u : Warp} (hu : (s.warpAt h).Quiet u) : s.Quiet (s.setWarp h u) := by
  refine ⟨rfl, rfl, fun k x hx => ?_⟩
  rw [State.setWarp_warps, SMap.find_put]
  split
  next hk =>
    subst hk
    rw [State.warpAt, SMap.get_eq_find, hx] at hu
    exact ⟨u, rfl, hu⟩
  next => exact ⟨x, hx, .refl x⟩

theorem State.quiet_modWarp {s : State} {h : Nat} {f : Warp → Warp} (hf : ∀ w : Warp, w.Quiet (f w)) : s.Quiet (s.modWarp h f) := by
  unfold State.modWarp
  split
  next w hw =>
    refine State.quiet_setWarp ?_
    rw [State.warpAt, SMap.get_eq_find, hw]
    exact hf w
  next => exact .refl s

theorem State.quiet_modW {s : State} {f : Warp → Warp} (hf : ∀ w : Warp, w.Quiet (f w)) : s.Quiet (s.modW f) := State.quiet_modWarp hf

theorem State.quiet_setGroup (s : State) (g : Nat) (x : Group) : s.Quiet (s.setGroup g x) := State.quiet_of_same rfl rfl rfl

theorem State.quiet_setGrid (s : State) (g : Nat) (x : Grid) : s.Quiet (s.setGrid g x) := State.quiet_of_same rfl rfl rfl

/-! ### Barriers -/

theorem State.quiet_mergeSpad (s : State) (g : Nat) : s.Quiet (s.mergeSpad g) := by
  unfold State.mergeSpad
  extract_lets
  refine (s.quiet_setGroup _ _).trans (State.quiet_foldl (fun s h => State.quiet_modWarp ?_) _ _)
  exact fun w => ⟨rfl, id, rfl, rfl, rfl, rfl, rfl⟩

theorem State.quiet_endPhase (s : State) (g bar q clk : Nat) : s.Quiet (s.endPhase g bar q clk) := by
  unfold State.endPhase
  extract_lets coll gl merged x b opened
  have hmerged : s.Quiet merged := .ite (s.quiet_mergeSpad g) (.refl s)
  refine (hmerged.trans (merged.quiet_setGroup _ _)).trans (State.quiet_foldl (fun s h => State.quiet_modWarp ?_) _ _)
  intro w
  extract_lets told rest
  have htold : w.Quiet told := Warp.quiet_foldl (fun w t => w.quiet_complete _ _) _ w
  have hrest : w.Quiet rest := htold.trans ⟨rfl, id, rfl, rfl, rfl, rfl, rfl⟩
  split
  · exact hrest.trans (.ite (rest.quiet_unpark _ _ _) (.ite (rest.quiet_unpark _ _ _) (.refl _)))
  · exact hrest

theorem State.quiet_arrive (s : State) (h bar cnt clk : Nat) : s.Quiet (s.arrive h bar cnt clk) := by
  unfold State.arrive
  extract_lets w q x b ph ph' grown
  exact (s.quiet_setGroup _ _).trans (State.quiet_setWarp (s := grown) ⟨rfl, id, rfl, rfl, rfl, rfl, rfl⟩)

theorem State.quiet_barSettle (s : State) (g bar fuel : Nat) : s.Quiet (s.barSettle g bar fuel) := by
  induction fuel generalizing s with
  | zero => exact .refl s
  | succ fuel ih =>
    unfold State.barSettle
    extract_lets come b
    have hcome : s.Quiet come := State.quiet_foldl (fun s h => s.quiet_arrive _ _ _ _) _ s
    split
    · exact hcome
    · dsimp only
      exact hcome.trans (.ite ((come.quiet_endPhase _ _ _ _).trans (ih _)) (.refl _))

theorem State.quiet_gbarSettle (s : State) (grid : Nat) : s.Quiet (s.gbarSettle grid) := by
  unfold State.gbarSettle
  extract_lets x hs
  split
  rotate_left
  · exact .refl s
  have hphase : s.Quiet (s.setGrid grid { x with gphase := x.gphase + 1, gclk := 0 }) := State.quiet_of_same rfl rfl rfl
  refine hphase.trans (State.quiet_foldl (fun s h => State.quiet_modWarp ?_) _ _)
  intro w
  extract_lets left
  have hleft : w.Quiet left := ⟨rfl, id, rfl, rfl, rfl, rfl, rfl⟩
  split
  · exact hleft.trans (.ite (left.quiet_unpark _ _ _) (.refl _))
  · exact hleft

/-! ### Exits (R75, R271) -/

theorem State.quiet_parkAt (s : State) (h : Nat) (on : ParkOn) (clk : Nat) : s.Quiet (s.parkAt h on clk) := by
  have hcore : s.Quiet (s.modCore (s.warpAt h).core fun c => { c with slots := c.slots.filter (· != h) }) := State.quiet_of_same rfl rfl rfl
  refine hcore.trans (State.quiet_modWarp ?_)
  exact fun _ => ⟨rfl, id, rfl, rfl, rfl, rfl, rfl⟩

theorem State.quiet_exitArrive (s : State) (h clk : Nat) : s.Quiet (s.exitArrive h clk) := by
  unfold State.exitArrive
  extract_lets w gone settled late grid arrived
  have hgone : s.Quiet gone := State.quiet_modWarp fun _ => ⟨rfl, id, rfl, rfl, rfl, rfl, rfl⟩
  have hsettled : gone.Quiet settled := State.quiet_foldl (fun s id => s.quiet_barSettle _ _ _) _ _
  have hlate : settled.Quiet late := by
    unfold late
    split
    · exact settled.quiet_parkAt _ _ _
    · exact .refl _
  have harrived : late.Quiet (if w.gbarWait ≠ 0 ∧ (w.gbarArr ||| w.exited) = 0xFFFFFFFF ∧ w.exited ≠ 0xFFFFFFFF ∧ (late.warpAt h).park.isNone then
      (late.parkAt h .grid clk).setGrid (late.groupAt w.grp).grid
        { late.gridAt (late.groupAt w.grp).grid with gclk := max (late.gridAt (late.groupAt w.grp).grid).gclk clk } else late) :=
    .ite ((late.quiet_parkAt _ _ _).trans (State.quiet_setGrid _ _ _)) (.refl _)
  exact ((hgone.trans hsettled).trans hlate).trans (.ite (.refl _) (harrived.trans (State.quiet_gbarSettle _ _)))

theorem State.quiet_exited (s : State) (i : Instr) (clk : Nat) : s.Quiet (s.exited i clk) := by
  unfold State.exited
  extract_lets w
  split
  · exact .refl s
  · split
    · exact State.quiet_of_same rfl rfl rfl
    · exact s.quiet_exitArrive _ _

end Sys2Proof.Machine
end

section
/-! OBLIGATION. exit (R75). -/

namespace Sys2Proof.Machine

/-- Exited threads stand in no strand. -/
theorem Warp.not_in_strands_of_exited {w : Warp} {l : Nat} (hl : l < 32) (he : w.exited.getLsbD l = true) : ∀ x ∈ w.strands, x.2.1.getLsbD l = false := by
  rintro ⟨lo, m, pc⟩ hx
  rw [Warp.mask_of_mem_strands hx hl]
  simp [Warp.live, he]

theorem exec_exit_normal {h : Hdr} {s : State} (hk : s.w.kind = .normal) :
    exec (.exit h) s = .next ((((s.modW fun w => { w with exited := w.exited ||| w.active }).retire (.exit h)).modW fun w => w.lastExit s.collated s.g).exited (.exit h) s.w.lclk) := by
  show Host.Outcome.next _ = _
  rw [hk]

/-- Settles O16: the word retires with its lanes among the exited threads, and what the exits complete at barriers is quiet. -/
theorem exitEndsThreads : Obligations.ExitEndsThreads := by
  unfold Obligations.ExitEndsThreads
  intro h s hs hk hok
  obtain ⟨hc, he⟩ := hdr_of_transfer rfl hok
  have hgone : (s.modW fun w => { w with exited := w.exited ||| w.active }).Here := State.modW_isSome hs _
  obtain ⟨⟨honly, hstill, hrun, -⟩, hpend⟩ := State.went_retireTo hgone hc he fun _ => _
  rw [← State.retire_eq hgone] at honly hstill hrun hpend
  refine ⟨_, exec_exit_normal hk, ?_⟩
  generalize hpast : (s.modW fun w => { w with exited := w.exited ||| w.active }).retire (.exit h) = past at *
  have hquiet : past.Quiet ((past.modW fun w => w.lastExit s.collated s.g).exited (.exit h) s.w.lclk) :=
    (State.quiet_modW fun w => w.quiet_lastExit _ _).trans (State.quiet_exited _ _ _)
  rw [State.modW_w hs] at hstill hpend
  have hcur : past.cur = s.cur := by
    rw [← hpast, State.retire, State.modW_cur, State.modW_cur]
  have hmem : past.mem = s.mem := by
    rw [← hpast, State.retire, State.modW_mem, State.modW_mem]
  have hhere : past.Here := by
    rw [← hpast]
    exact State.modW_isSome hgone _
  obtain ⟨qexited, qrun, qv, qk, qp, qpend, qaxf⟩ := hquiet.w hhere
  obtain ⟨-, hv, hkr, hp, haxf, -⟩ := Warp.fields_of_still hstill
  have hexited : past.w.exited = s.w.exited ||| s.w.active := congrArg (f := Warp.exited) (a₁ := past.w.still) hstill
  refine ⟨hquiet.cur.trans hcur, qexited.trans hexited, qrun hrun, fun x hx l hl ha => Warp.not_in_strands_of_exited hl ?_ x hx, qv.trans hv, qk.trans hkr, qp.trans hp,
    qpend.trans hpend, qaxf.trans haxf, fun a => ?_⟩
  · rw [qexited, hexited, BitVec.getLsbD_or, ha, Bool.or_true]
  · rw [hquiet.mem, hmem]

end Sys2Proof.Machine
end

section
/-! SUPPORT. Further laws of sparse maps: fresh keys, maps of values, what a put does to a test of all entries, and bytes written one after another. -/

namespace Sys2Proof

variable {α β : Type}

theorem SMap.mem_of_find {m : SMap α} {k : Nat} {v : α} (h : SMap.find m k = some v) : (k, v) ∈ m := by
  induction m with
  | nil => cases h
  | cons e t ih =>
    rw [SMap.find] at h
    split at h
    next hk =>
      obtain rfl := Option.some.inj h
      exact hk ▸ List.mem_cons_self
    next => exact List.mem_cons_of_mem _ (ih h)

theorem SMap.lt_fresh {m : SMap α} {e : Nat × α} (h : e ∈ m) : e.1 < m.fresh := by
  have grows : ∀ (l : SMap α) (n : Nat), n ≤ l.foldl (fun n e => max n (e.1 + 1)) n := by
    intro l
    induction l with
    | nil => exact fun n => le_refl n
    | cons d t ih => exact fun n => (le_max_left _ _).trans (ih _)
  have above : ∀ (l : SMap α) (n : Nat), e ∈ l → e.1 < l.foldl (fun n e => max n (e.1 + 1)) n := by
    intro l
    induction l with
    | nil => exact fun _ hn => nomatch hn
    | cons d t ih =>
      intro n he
      rcases List.mem_cons.1 he with rfl | he
      · exact lt_of_lt_of_le (lt_of_lt_of_le (Nat.lt_succ_self _) (le_max_right _ _)) (grows t _)
      · exact ih _ he
  exact above m 0 h

@[simp] theorem SMap.find_fresh (m : SMap α) : SMap.find m m.fresh = none := by
  cases h : SMap.find m m.fresh with
  | none => rfl
  | some v => exact absurd (SMap.lt_fresh (SMap.mem_of_find h)) (lt_irrefl _)

/-- A map of the values, key by key. -/
theorem SMap.find_map (m : SMap α) (f : Nat → α → β) (k : Nat) : SMap.find (m.map fun e => (e.1, f e.1 e.2)) k = (SMap.find m k).map (f k) := by
  induction m with
  | nil => rfl
  | cons e t ih =>
    simp only [List.map_cons, SMap.find]
    split
    next hk => rw [hk]; rfl
    next => exact ih

/-- A selection by the key alone. -/
theorem SMap.get_filter (d : α) (m : SMap α) {p : Nat → Bool} {k : Nat} (hk : p k = true) : SMap.get d (m.filter fun e => p e.1) k = SMap.get d m k := by
  induction m with
  | nil => rfl
  | cons e t ih =>
    by_cases he : p e.1 = true
    · simp only [List.filter_cons, he, if_true, SMap.get, ih]
    · have : k ≠ e.1 := fun h => he (h ▸ hk)
      simp only [List.filter_cons, he, SMap.get, this, if_false, ih, Bool.false_eq_true]

/-- A put changes no test of the entries by which the new entry looks like the one it replaces. -/
theorem SMap.any_put (m : SMap α) (k : Nat) (v : α) (p : Nat × α → Bool) (h : p (k, v) = (SMap.find m k).any fun u => p (k, u)) :
    (SMap.put m k v).any p = m.any p := by
  induction m with
  | nil => simpa [SMap.put] using h
  | cons e t ih =>
    obtain ⟨a, x⟩ := e
    by_cases hk : k = a
    · subst hk
      simp [SMap.put, SMap.find] at h ⊢
      rw [h]
    · rw [SMap.find, if_neg hk] at h
      by_cases hlt : k < a
      · rw [SMap.put, if_neg hk, if_pos hlt, List.any_cons, h]
        cases hf : SMap.find t k with
        | none => rfl
        | some u =>
          rw [Option.any_some, List.any_cons]
          cases hp : p (k, u) with
          | false => rfl
          | true =>
            have : t.any p = true := List.any_eq_true.2 ⟨_, SMap.mem_of_find hf, hp⟩
            simp [this]
      · rw [SMap.put, if_neg hk, if_neg hlt, List.any_cons, List.any_cons, ih h]

/-- Bytes written one by one to different addresses. -/
theorem Memory.read_foldl_write (l : List (Nat × Byte)) (m : Memory) (a : Nat) :
    ((∀ e ∈ l, e.1 ≠ a) → (l.foldl (fun m e => m.write e.1 e.2) m).read a = m.read a) ∧
    ((l.map Prod.fst).Nodup → ∀ b, (a, b) ∈ l → (l.foldl (fun m e => m.write e.1 e.2) m).read a = b) := by
  induction l generalizing m with
  | nil => exact ⟨fun _ => rfl, fun _ _ h => nomatch h⟩
  | cons e t ih =>
    obtain ⟨hother, hsame⟩ := ih (m.write e.1 e.2)
    refine ⟨fun h => ?_, fun hn b hb => ?_⟩
    · rw [List.foldl_cons, hother fun x hx => h x (List.mem_cons_of_mem _ hx), Memory.read_write_other _ _ (h e List.mem_cons_self).symm]
    · obtain ⟨hne, hnt⟩ := List.nodup_cons.1 hn
      rw [List.foldl_cons]
      rcases List.mem_cons.1 hb with rfl | hb
      · rw [hother fun x hx hxa => hne (List.mem_map.2 ⟨x, hx, hxa⟩), Memory.read_write_same]
      · exact hsame hnt b hb

theorem toBytes_length (n x : Nat) : (toBytes n x).length = n := by
  induction n generalizing x with
  | zero => rfl
  | succ n ih => rw [toBytes, List.length_cons, ih]

theorem getElem_toBytes (n x i : Nat) (h : i < (toBytes n x).length) : (toBytes n x)[i] = BitVec.ofNat 8 (x / 256 ^ i) := by
  induction n generalizing x i with
  | zero => exact absurd h (Nat.not_lt_zero _)
  | succ n ih =>
    cases i with
    | zero => simp [toBytes]
    | succ i =>
      simp only [toBytes, List.getElem_cons_succ]
      rw [ih, Nat.div_div_eq_div_mul, pow_succ']

end Sys2Proof
end

section
/-! SUPPORT. Dealing (R358, R362) and the release of a grid (R351, R355, R364). -/

namespace Sys2Proof.Machine

/-! ### Dealing -/

/-- Where the share of child `c` begins among the `n` gangs dealt by these weights (R358). -/
def cutAt (n : Nat) (weights : List Nat) (c : Nat) : Nat := n * (weights.take c).sum / weights.sum

theorem cutAt_zero (n : Nat) (weights : List Nat) : cutAt n weights 0 = 0 := by simp [cutAt]

theorem cutAt_length (n : Nat) {weights : List Nat} (h : weights.sum ≠ 0) : cutAt n weights weights.length = n := by
  rw [cutAt, List.take_length, Nat.mul_div_cancel _ (Nat.pos_of_ne_zero h)]

theorem cutAt_mono (n : Nat) (weights : List Nat) : Monotone (cutAt n weights) :=
  fun _ _ hab => Nat.div_le_div_right (Nat.mul_le_mul_left n (List.monotone_sum_take weights hab))

theorem dealOut_eq (gangs : List Nat) {weights : List Nat} (h : weights.sum ≠ 0) :
    dealOut gangs weights = (List.range weights.length).map fun c =>
      (gangs.drop (cutAt gangs.length weights c)).take (cutAt gangs.length weights (c + 1) - cutAt gangs.length weights c) := if_neg h

/-- The shares of the first children are the first gangs. -/
theorem flatten_shares (gangs weights : List Nat) (c : Nat) :
    ((List.range c).map fun c => (gangs.drop (cutAt gangs.length weights c)).take (cutAt gangs.length weights (c + 1) - cutAt gangs.length weights c)).flatten =
      gangs.take (cutAt gangs.length weights c) := by
  induction c with
  | zero => simp [cutAt_zero]
  | succ c ih =>
    rw [List.range_succ, List.map_append, List.flatten_append, ih, List.map_singleton, List.flatten_singleton, ← List.take_add,
      Nat.add_sub_cancel' (cutAt_mono _ _ (Nat.le_succ c))]

/-- Dealing loses and repeats no gang, and each child gets what R358 says. -/
theorem dealOut_spec (gangs : List Nat) {weights : List Nat} (h : weights.sum ≠ 0) :
    (dealOut gangs weights).flatten = gangs ∧ (dealOut gangs weights).length = weights.length ∧
    ∀ c, c < weights.length → ((dealOut gangs weights).getD c []).length = cutAt gangs.length weights (c + 1) - cutAt gangs.length weights c := by
  rw [dealOut_eq gangs h]
  refine ⟨?_, by rw [List.length_map, List.length_range], fun c hc => ?_⟩
  · rw [flatten_shares, cutAt_length _ h, List.take_length]
  · have hle : cutAt gangs.length weights (c + 1) ≤ gangs.length := (cutAt_mono _ _ hc).trans (cutAt_length _ h).le
    rw [List.getD_eq_getElem?_getD, List.getElem?_map, List.getElem?_range hc]
    simp only [Option.map_some, Option.getD_some, List.length_take, List.length_drop]
    omega

/-- Dealing what is due changes which wave is next and what is unstarted, of this grid alone. -/
theorem State.dealNext_eq (s : State) (g : Nat) :
    s.dealNext g = s ∨ ∃ n r, s.dealNext g = s.setGrid g { s.gridAt g with nextWave := n, ranges := r } := by
  unfold State.dealNext
  extract_lets x
  split
  · exact .inl rfl
  split
  · split
    · exact .inl rfl
    · exact .inr ⟨_, _, rfl⟩
  split
  · exact .inr ⟨_, _, rfl⟩
  · exact .inl rfl

/-! ### Release -/

theorem State.edgeStep_nil (s : State) (g : Nat) (op : MaintOp) {e : Edge} (h : e.ranges = []) (addr : Nat) : s.edgeStep g op e addr = s := by
  rw [State.edgeStep, h]
  rfl

theorem State.gridAt_of_find {s : State} {g : Nat} {x : Grid} (h : SMap.find s.grids g = some x) : s.gridAt g = x := by
  rw [State.gridAt, SMap.get_eq_find, h]
  rfl

@[simp] theorem State.gridAt_setGrid (s : State) (g : Nat) (x : Grid) : (s.setGrid g x).gridAt g = x := SMap.get_put_same _ _ _ _

theorem exec_gridRelease {g : Nat} {s : State} {x : Grid} (hx : SMap.find s.grids g = some x) (hr : s.mayRelease g = true) (he : x.sedge.ranges = [])
    (hp : x.ds.persist = false) : exec (.gridRelease g) s = .next ((s.setGrid g { x with st := .running }).dealNext g) := by
  show execGridRelease g s = _
  rw [execGridRelease, hx]
  simp only [hr, Bool.not_true, Bool.false_eq_true, if_false, s.edgeStep_nil g .inv he, hp]

theorem gridRelease_spec {g : Nat} {s : State} {x : Grid} (hx : SMap.find s.grids g = some x) (hr : s.mayRelease g = true) (he : x.sedge.ranges = [])
    (hp : x.ds.persist = false) :
    ∃ t, exec (.gridRelease g) s = .next t ∧ t.mem = s.mem ∧ t.warps = s.warps ∧ (t.gridAt g).st = .running ∧ ∀ m, m ≠ g → SMap.find t.grids m = SMap.find s.grids m := by
  refine ⟨_, exec_gridRelease hx hr he hp, ?_⟩
  have hothers : ∀ (u : State) (y : Grid) m, m ≠ g → SMap.find (u.setGrid g y).grids m = SMap.find u.grids m := fun u y m hm => SMap.find_put_other _ _ hm
  rcases (s.setGrid g { x with st := .running }).dealNext_eq g with h | ⟨n, r, h⟩ <;> rw [h]
  · exact ⟨rfl, rfl, by rw [State.gridAt_setGrid], hothers s _⟩
  · refine ⟨rfl, rfl, by rw [State.gridAt_setGrid, State.gridAt_setGrid], fun m hm => (hothers _ _ m hm).trans (hothers s _ m hm)⟩

end Sys2Proof.Machine
end

section
/-! SUPPORT. The start of a gang (R357, R359, R360). -/

namespace Sys2Proof.Machine

/-! ### A started warp -/

/-- What a warp starts with does not depend on the other warps, but for the physical context it takes. -/
theorem State.startWarp_congr {s t : State} (h : t.grids = s.grids) (g grp gidx c m : Nat) (twin : Bool) :
    t.startWarp g grp gidx c m twin = { s.startWarp g grp gidx c m twin with slotNo := t.freeContext c } := by
  have hg : t.gridAt g = s.gridAt g := by rw [State.gridAt, State.gridAt, h]
  rw [State.startWarp, State.startWarp, hg]

/-- `w` is warp `m` of a group as R357 starts it, in some physical context. -/
def State.Starts (s : State) (g grp gidx c m : Nat) (w : Warp) : Prop := ∃ n, w = { s.startWarp g grp gidx c m false with slotNo := n }

theorem State.Starts.of_grids {s t : State} (h : t.grids = s.grids) {g grp gidx c m : Nat} {w : Warp} (hw : t.Starts g grp gidx c m w) : s.Starts g grp gidx c m w := by
  obtain ⟨n, rfl⟩ := hw
  exact ⟨n, by rw [State.startWarp_congr h]⟩

theorem get_lanes_map (x : DWord) {l : Nat} (hl : l < 32) : SMap.get 0 (lanes.map fun l => (l, x)) l = x := by
  interval_cases l <;> rfl

theorem State.Starts.place {s : State} {g grp gidx c m : Nat} {w : Warp} (h : s.Starts g grp gidx c m w) : w.grp = grp ∧ w.widx = m ∧ w.core = c ∧ w.kind = .normal := by
  obtain ⟨n, rfl⟩ := h
  exact ⟨rfl, rfl, rfl, rfl⟩

/-- Registers, flags and lanes of a warp at its start (R357). -/
theorem State.Starts.regs {s : State} {g grp gidx c m : Nat} {w : Warp} (h : s.Starts g grp gidx c m w) :
    (∀ l, l < 32 → SMap.get 0 w.pcs l = BitVec.ofNat 64 ((s.gridAt g).ds.code + (s.gridAt g).ds.entry)) ∧ (∀ r l, w.rdV r l = 0) ∧ (∀ r l, r < 62 → w.rdP r l = false) ∧
      w.exited = 0 ∧ w.lclk = 0 ∧ w.specials = Warp.idle.specials ∧ w.rdK 1 = BitVec.ofNat 64 (s.gridAt g).launch ∧ w.rdK 2 = BitVec.ofNat 64 (s.gridAt g).pk.priv ∧
      w.rdK 3 = BitVec.ofNat 64 (s.gridAt g).pk.privsz ∧ (∀ a, a < 6 → w.rdK (4 + a) = BitVec.ofNat 64 ((s.gridAt g).pk.args.getD a 0)) ∧ ∀ r, 10 ≤ r → w.rdK r = 0 := by
  obtain ⟨n, rfl⟩ := h
  refine ⟨fun l hl => get_lanes_map _ hl, fun _ _ => rfl, fun r l hr => ?_, rfl, rfl, rfl, rfl, rfl, rfl, fun a ha => ?_, fun r hr => ?_⟩
  · rw [Warp.rdP, if_neg (by omega), if_neg (by omega)]
    rfl
  · interval_cases a <;> rfl
  · obtain ⟨q, rfl⟩ := Nat.exists_eq_add_of_le hr
    rw [Nat.add_comm]
    rfl

/-! ### The warps of a group -/

/-- The first `n` warps of a group start, each at a fresh number. -/
def State.startWarps (s : State) (g grp gidx c n : Nat) : State :=
  (List.range n).foldl (fun s m => s.setWarp s.warps.fresh (s.startWarp g grp gidx c m false)) s

theorem State.startWarps_succ (s : State) (g grp gidx c n : Nat) :
    s.startWarps g grp gidx c (n + 1) =
      (s.startWarps g grp gidx c n).setWarp (s.startWarps g grp gidx c n).warps.fresh ((s.startWarps g grp gidx c n).startWarp g grp gidx c n false) := by
  rw [State.startWarps, List.range_succ, List.foldl_append]
  rfl

/-- Nothing but warps changes. -/
theorem State.startWarps_frame (s : State) (g grp gidx c n : Nat) : { s.startWarps g grp gidx c n with warps := s.warps } = s := by
  induction n with
  | zero => rfl
  | succ n ih =>
    rw [State.startWarps_succ]
    exact ih

theorem State.startWarps_grids (s : State) (g grp gidx c n : Nat) : (s.startWarps g grp gidx c n).grids = s.grids :=
  congrArg (f := State.grids) (a₁ := { s.startWarps g grp gidx c n with warps := s.warps }) (s.startWarps_frame g grp gidx c n)

/-- The warps there were stay; each of the first `n` is new, and every new one is one of them. -/
theorem State.startWarps_spec (s : State) (g grp gidx c n : Nat) :
    (∀ h w, SMap.find s.warps h = some w → SMap.find (s.startWarps g grp gidx c n).warps h = some w) ∧
    (∀ m, m < n → ∃ h w, SMap.find s.warps h = none ∧ SMap.find (s.startWarps g grp gidx c n).warps h = some w ∧ s.Starts g grp gidx c m w) ∧
    (∀ h w, SMap.find s.warps h = none → SMap.find (s.startWarps g grp gidx c n).warps h = some w → ∃ m, m < n ∧ s.Starts g grp gidx c m w) := by
  induction n with
  | zero => exact ⟨fun _ _ h => h, fun _ h => absurd h (Nat.not_lt_zero _), fun h w hn hw => absurd (hn.symm.trans hw) nofun⟩
  | succ n ih =>
    obtain ⟨hkept, hnew, hall⟩ := ih
    rw [State.startWarps_succ]
    generalize hu : s.startWarps g grp gidx c n = u at *
    have hstart : s.Starts g grp gidx c n (u.startWarp g grp gidx c n false) := ⟨_, State.startWarp_congr (hu ▸ s.startWarps_grids g grp gidx c n) g grp gidx c n false⟩
    have hold : ∀ h w, SMap.find u.warps h = some w → SMap.find (u.setWarp u.warps.fresh (u.startWarp g grp gidx c n false)).warps h = some w := by
      intro h w hw
      refine (State.find_setWarp_other _ _ fun he => ?_).trans hw
      rw [he, SMap.find_fresh] at hw
      cases hw
    have hfresh : SMap.find s.warps u.warps.fresh = none := by
      cases h : SMap.find s.warps u.warps.fresh with
      | none => rfl
      | some w =>
        have := hkept _ _ h
        rw [SMap.find_fresh] at this
        cases this
    refine ⟨fun h w hw => hold h w (hkept h w hw), fun m hm => ?_, fun h w hn hw => ?_⟩
    · rcases Nat.lt_succ_iff_lt_or_eq.1 hm with hm | rfl
      · obtain ⟨h, w, hn, hw, hs⟩ := hnew m hm
        exact ⟨h, w, hn, hold h w hw, hs⟩
      · exact ⟨_, _, hfresh, SMap.find_put_same _ _ _, hstart⟩
    · rw [State.setWarp_warps, SMap.find_put] at hw
      split at hw
      · cases hw
        exact ⟨n, Nat.lt_succ_self n, hstart⟩
      · obtain ⟨m, hm, hs⟩ := hall h w hn hw
        exact ⟨m, hm.trans (Nat.lt_succ_self n), hs⟩

/-! ### A group of one core -/

/-- The record of a group that a kernel without pairs starts on core `c`. -/
def Grid.newGroup (x : Grid) (g j c : Nat) : Group :=
  { Group.none_ with
    grid := g, gidx := j, core := c, follower := none
    gang := j / x.pk.gang, gangSize := x.gangSize (j / x.pk.gang), member := j - j / x.pk.gang * x.pk.gang, warpsLeft := x.ds.allWarps }

theorem State.startGroup_eq {s : State} {g : Nat} (hp : (s.gridAt g).ds.paired = false) (j c : Nat) :
    s.startGroup g j c =
      ((s.claimCore g c).setGroup (s.claimCore g c).groups.fresh ((s.gridAt g).newGroup g j c)).startWarps g (s.claimCore g c).groups.fresh j c (s.gridAt g).ds.warps := by
  unfold State.startGroup State.startWarps
  simp only [hp, Bool.false_eq_true, if_false, List.foldl_cons, List.foldl_nil, bne_self_eq_false]
  rfl

/-- A core is claimed for a grid, and nothing else changes. -/
theorem State.claimCore_spec (s : State) (g c : Nat) : ((s.claimCore g c).coreAt c).grid = some g ∧ { s.claimCore g c with cores := s.cores } = s := by
  unfold State.claimCore
  split
  next h => exact ⟨h, rfl⟩
  next => exact ⟨by simp [State.coreAt, State.modCore], rfl⟩

/-! ### A gang of one group -/

theorem Grid.groupsOf_single {x : Grid} {j : Nat} (hg : x.pk.gang = 1) (hj : j < x.pk.ngroups) : x.groupsOf j = [j] := by
  have : x.gangSize j = 1 := by
    rw [Grid.gangSize, hg]
    omega
  simp [Grid.groupsOf, this, hg]

theorem State.startGang_single {s : State} {g k c j : Nat} (hp : (s.gridAt g).ds.paired = false)
    (hc : (s.units false k).find? (fun c => decide (0 < s.roomAt g c)) = some c) : s.startGang g k [j] = some (s.startGroup g j c) := by
  rw [State.startGang, hp, hc]
  rfl

theorem State.dealNext_idle {s : State} {g : Nat} (hc : (s.gridAt g).ds.coll = false) (hn : (s.gridAt g).nextWave ≠ 0) : s.dealNext g = s := by
  unfold State.dealNext
  simp [hc, hn]

theorem State.tryGang_single {s t : State} {g k : Nat} {x : Grid} {j c : Nat} {rest : List Nat} (hx : s.gridAt g = x) (hp : x.ds.paired = false) (hcoll : x.ds.coll = false)
    (hn : x.nextWave ≠ 0) (hg : x.pk.gang = 1) (hj : j < x.pk.ngroups) (hr : SMap.get [] x.ranges k = j :: rest)
    (hc : (s.units false k).find? (fun c => decide (0 < s.roomAt g c)) = some c) (hgrids : (s.startGroup g j c).grids = s.grids) (ht : s.tryGang g k = some t) :
    t = (s.startGroup g j c).setGrid g { x with ranges := SMap.put x.ranges k rest } := by
  have hgrid : (s.startGroup g j c).gridAt g = x := by rw [State.gridAt, hgrids]; exact hx
  unfold State.tryGang at ht
  rw [hx] at ht
  dsimp only at ht
  split at ht
  · cases ht
  · simp only [hr] at ht
    rw [Grid.groupsOf_single hg hj, State.startGang_single (hx ▸ hp) hc] at ht
    dsimp only at ht
    rw [hgrid, State.dealNext_idle (by rw [State.gridAt_setGrid]; exact hcoll) (by rw [State.gridAt_setGrid]; exact hn)] at ht
    exact (Option.some.inj ht).symm

theorem findSome?_of_find? {α β : Type} {f : α → Option β} {l : List α} {a : α} (h : l.find? (fun a => (f a).isSome) = some a) : l.findSome? f = f a := by
  induction l with
  | nil => cases h
  | cons b t ih =>
    rw [List.findSome?_cons]
    rw [List.find?_cons] at h
    cases hf : f b with
    | none => exact ih (by simpa [hf] using h)
    | some y =>
      rw [hf] at h
      cases h
      exact hf.symm

/-- The gang of one group starts on the core that has room, and nothing else changes. -/
theorem gangStart_spec {cluster g : Nat} {s : State} {x : Grid} {j c : Nat} {rest : List Nat}
    (hf : s.grids.find? (fun e => (s.tryGang e.1 cluster).isSome) = some (g, x)) (hx : s.gridAt g = x) (hp : x.ds.paired = false) (hcoll : x.ds.coll = false)
    (hn : x.nextWave ≠ 0) (hg : x.pk.gang = 1) (hj : j < x.pk.ngroups) (hr : SMap.get [] x.ranges cluster = j :: rest)
    (hc : (s.units false cluster).find? (fun c => decide (0 < s.roomAt g c)) = some c) :
    ∃ t n gr, exec (.gangStart cluster) s = .next t ∧ t.mem = s.mem ∧ SMap.find s.groups n = none ∧ SMap.find t.groups n = some gr ∧
      (∀ m, m ≠ n → SMap.find t.groups m = SMap.find s.groups m) ∧ gr = x.newGroup g j c ∧ (t.coreAt c).grid = some g ∧ SMap.get [] (t.gridAt g).ranges cluster = rest ∧
      (∀ h w, SMap.find s.warps h = some w → SMap.find t.warps h = some w) ∧
      (∀ m, m < x.ds.warps → ∃ h w, SMap.find s.warps h = none ∧ SMap.find t.warps h = some w ∧ s.Starts g n j c m w) ∧
      (∀ h w, SMap.find s.warps h = none → SMap.find t.warps h = some w → ∃ m, m < x.ds.warps ∧ s.Starts g n j c m w) := by
  obtain ⟨t, ht⟩ : ∃ t, s.tryGang g cluster = some t := Option.isSome_iff_exists.1 (by simpa using List.find?_some hf)
  have hex : exec (.gangStart cluster) s = .next t := by
    show execGangStart cluster s = _
    rw [execGangStart, findSome?_of_find? hf, ht]
    rfl
  obtain ⟨hclaimed, hframe⟩ := s.claimCore_spec g c
  have hstart := State.startGroup_eq (hx ▸ hp) j c
  rw [hx] at hstart
  generalize s.claimCore g c = u at hclaimed hframe hstart
  obtain ⟨hgroups, hgrids, hwarps, hmem⟩ : u.groups = s.groups ∧ u.grids = s.grids ∧ u.warps = s.warps ∧ u.mem = s.mem := by
    rw [← hframe]
    exact ⟨rfl, rfl, rfl, rfl⟩
  rw [hgroups] at hstart
  have hrest := (u.setGroup s.groups.fresh (x.newGroup g j c)).startWarps_frame g s.groups.fresh j c x.ds.warps
  obtain ⟨hkept, hnew, hall⟩ := (u.setGroup s.groups.fresh (x.newGroup g j c)).startWarps_spec g s.groups.fresh j c x.ds.warps
  rw [← hstart] at hrest hkept hnew hall
  have hfields : (s.startGroup g j c).mem = s.mem ∧ (s.startGroup g j c).groups = SMap.put s.groups s.groups.fresh (x.newGroup g j c) ∧
      (s.startGroup g j c).grids = s.grids ∧ (s.startGroup g j c).cores = u.cores := by
    have key {α : Type} (f : State → α) := congrArg f hrest
    exact ⟨(key State.mem).trans hmem, (key State.groups).trans (congrArg (SMap.put · _ _) hgroups), (key State.grids).trans hgrids, key State.cores⟩
  obtain ⟨hmem', hgroups', hgrids', hcores'⟩ := hfields
  obtain rfl := State.tryGang_single hx hp hcoll hn hg hj hr hc hgrids' ht
  refine ⟨_, s.groups.fresh, x.newGroup g j c, hex, hmem', SMap.find_fresh _, ?_, fun m hm => ?_, rfl, ?_, ?_, ?_, ?_, ?_⟩
  · rw [State.setGrid_groups, hgroups', SMap.find_put_same]
  · rw [State.setGrid_groups, hgroups', SMap.find_put_other _ _ hm]
  · rw [State.coreAt, State.setGrid_cores, hcores']
    exact hclaimed
  · rw [State.gridAt_setGrid, SMap.get_put_same]
  · exact fun h w hw => hkept h w (hwarps ▸ hw)
  · intro m hm
    obtain ⟨h, w, hnone, hw, hs⟩ := hnew m hm
    exact ⟨h, w, hwarps ▸ hnone, hw, hs.of_grids hgrids⟩
  · intro h w hnone hw
    obtain ⟨m, hm, hs⟩ := hall h w (by rw [State.setGroup_warps, hwarps]; exact hnone) hw
    exact ⟨m, hm, hs.of_grids hgrids⟩

end Sys2Proof.Machine
end

section
/-! SUPPORT. Stealing (R359), the end of a warp and of a group (R76, R336), and the end edge step (R364). -/

namespace Sys2Proof.Machine

/-! ### Stealing -/

/-- What the search for the longest list keeps of two candidates. -/
def longer (b : Option (Nat × List Nat)) (e : Nat × List Nat) : Option (Nat × List Nat) :=
  match b with
  | none => some e
  | some x => if x.2.length < e.2.length then some e else some x

theorem foldl_longer (m : List (Nat × List Nat)) (x : Nat × List Nat) :
    ∃ y, m.foldl longer (some x) = some y ∧ (y = x ∨ y ∈ m) ∧ x.2.length ≤ y.2.length ∧ ∀ e ∈ m, e.2.length ≤ y.2.length := by
  induction m generalizing x with
  | nil => exact ⟨x, rfl, .inl rfl, le_refl _, fun _ h => nomatch h⟩
  | cons e t ih =>
    rw [List.foldl_cons]
    by_cases he : x.2.length < e.2.length
    · obtain ⟨y, hy, hmem, hle, hall⟩ := ih e
      rw [longer, if_pos he]
      refine ⟨y, hy, .inr ?_, he.le.trans hle, fun d hd => ?_⟩
      · rcases hmem with rfl | h
        · exact List.mem_cons_self
        · exact List.mem_cons_of_mem _ h
      · rcases List.mem_cons.1 hd with rfl | hd
        · exact hle
        · exact hall d hd
    · obtain ⟨y, hy, hmem, hle, hall⟩ := ih x
      rw [longer, if_neg he]
      refine ⟨y, hy, hmem.imp id (List.mem_cons_of_mem _), hle, fun d hd => ?_⟩
      rcases List.mem_cons.1 hd with rfl | hd
      · exact (not_lt.1 he).trans hle
      · exact hall d hd

/-- The longest list is one of them, of at least two, and no other is longer. -/
theorem longest_spec {m : List (Nat × List Nat)} {v : Nat} {l : List Nat} (h : longest m = some (v, l)) :
    (v, l) ∈ m ∧ 2 ≤ l.length ∧ ∀ e ∈ m, e.2.length ≤ l.length := by
  have hfold : (m.filter fun e => decide (2 ≤ e.2.length)).foldl longer none = some (v, l) := h
  have hin : ∀ e, e ∈ m.filter (fun e => decide (2 ≤ e.2.length)) ↔ e ∈ m ∧ 2 ≤ e.2.length := fun e => by simp
  cases hm : m.filter (fun e => decide (2 ≤ e.2.length)) with
  | nil => rw [hm] at hfold; cases hfold
  | cons x t =>
    obtain ⟨y, hy, hmem, hle, hall⟩ := foldl_longer t x
    rw [hm] at hfold hin
    obtain rfl : y = (v, l) := Option.some.inj (hy.symm.trans hfold)
    have hmem' := (hin (v, l)).1 (List.mem_cons.2 hmem)
    refine ⟨hmem'.1, hmem'.2, fun e he => ?_⟩
    by_cases h2 : 2 ≤ e.2.length
    · rcases List.mem_cons.1 ((hin e).2 ⟨he, h2⟩) with rfl | het
      · exact hle
      · exact hall e het
    · exact (Nat.le_of_lt (not_le.1 h2)).trans hmem'.2

theorem State.modGrid_eq {s : State} {g : Nat} {x : Grid} (h : SMap.find s.grids g = some x) (f : Grid → Grid) : s.modGrid g f = s.setGrid g (f x) := by
  rw [State.modGrid, h]

/-- A cluster steals from the sibling with the longest range (R359). -/
theorem State.stealRanges_sibling {s : State} {g cluster v : Nat} {r : SMap (List Nat)} {l : List Nat}
    (hl : longest ((s.gridAt g).ranges.filter fun r => r.1 / 12 == cluster / 12 && r.1 != cluster) = some (v, l)) (hr : s.stealRanges g cluster = some r) :
    r = SMap.put (SMap.put (s.gridAt g).ranges v (lowerHalf l)) cluster (upperHalf l) := by
  unfold State.stealRanges at hr
  dsimp only at hr
  split at hr
  · cases hr
  · simp only [hl, Option.ite_none_right_eq_some, Option.some.injEq] at hr
    exact hr.2.symm

theorem gangSteal_spec {cluster g v : Nat} {s : State} {r : SMap (List Nat)} {l : List Nat}
    (hs : (s.grids.findSome? fun e => (s.stealRanges e.1 cluster).map fun r => (e.1, r)) = some (g, r))
    (hl : longest ((s.gridAt g).ranges.filter fun r => r.1 / 12 == cluster / 12 && r.1 != cluster) = some (v, l)) (hg : (SMap.find s.grids g).isSome = true) :
    ∃ t, exec (.gangSteal cluster) s = .next t ∧ t.mem = s.mem ∧ t.warps = s.warps ∧ 2 ≤ l.length ∧
      (∀ e ∈ (s.gridAt g).ranges, e.1 / 12 = cluster / 12 → e.1 ≠ cluster → e.2.length ≤ l.length) ∧
      SMap.get [] (t.gridAt g).ranges v = l.take (l.length - l.length / 2) ∧ SMap.get [] (t.gridAt g).ranges cluster = l.drop (l.length - l.length / 2) ∧
      ∀ k, k ≠ v → k ≠ cluster → SMap.get [] (t.gridAt g).ranges k = SMap.get [] (s.gridAt g).ranges k := by
  obtain ⟨x, hx⟩ := Option.isSome_iff_exists.1 hg
  obtain ⟨e, -, he⟩ := List.exists_of_findSome?_eq_some hs
  obtain ⟨r', hr', heq⟩ := Option.map_eq_some_iff.1 he
  obtain ⟨rfl, rfl⟩ := Prod.mk.inj heq
  obtain ⟨hmem, htwo, hmax⟩ := longest_spec hl
  obtain ⟨-, hsib⟩ := List.mem_filter.1 hmem
  have hne : v ≠ cluster := fun h => by simp [h] at hsib
  have hex : exec (.gangSteal cluster) s = .next (s.setGrid e.1 { x with ranges := r' }) := by
    show execGangSteal cluster s = _
    rw [execGangSteal, hs]
    exact congrArg Host.Outcome.next (State.modGrid_eq hx _)
  rw [State.stealRanges_sibling hl hr'] at hex
  refine ⟨_, hex, rfl, rfl, htwo, fun d hd hdie hd' => hmax d (List.mem_filter.2 ⟨hd, by simp [hdie, hd']⟩), ?_, ?_, fun k hkv hkc => ?_⟩ <;>
    rw [State.gridAt_setGrid]
  · rw [SMap.get_put_other _ _ _ hne, SMap.get_put_same]
    rfl
  · rw [SMap.get_put_same]
    rfl
  · rw [SMap.get_put_other _ _ _ hkc, SMap.get_put_other _ _ _ hkv]

/-! ### The end edge step -/

theorem endEdgeStep_spec {g : Nat} {s : State} {x : Grid} (hx : SMap.find s.grids g = some x) (hst : x.st = .running) (hk : x.killed = false) :
    (x.pk.ngroups ≤ x.ended → (∀ e ∈ s.groups, e.2.grid = g → s.groupBusy e.1 = false) → x.eedge.ranges = [] →
      ∃ t, exec (.endEdgeStep g) s = .next t ∧ SMap.find t.grids g = some { x with st := .ending } ∧ t.mem = s.mem ∧ t.warps = s.warps) ∧
    (x.ended < x.pk.ngroups ∨ (∃ e ∈ s.groups, e.2.grid = g ∧ s.groupBusy e.1 = true) → exec (.endEdgeStep g) s = .next s) := by
  have hex : exec (.endEdgeStep g) s = .next (if x.st ≠ .running ∨ x.killed ∨ x.ended < x.pk.ngroups ∨ (s.groups.any fun e => e.2.grid == g && s.groupBusy e.1) then s
      else (s.edgeStep g .flush x.eedge x.pk.eedge).modGrid g fun x => { x with st := .ending }) := by
    show execEndEdgeStep g s = _
    rw [execEndEdgeStep, hx]
  have hany : (s.groups.any fun e => e.2.grid == g && s.groupBusy e.1) = true ↔ ∃ e ∈ s.groups, e.2.grid = g ∧ s.groupBusy e.1 = true := by
    simp only [List.any_eq_true, Bool.and_eq_true, beq_iff_eq]
  refine ⟨fun hended hidle hedge => ?_, fun h => ?_⟩
  · rw [if_neg, State.edgeStep_nil _ _ _ hedge, State.modGrid_eq hx] at hex
    · exact ⟨_, hex, SMap.find_put_same _ _ _, rfl, rfl⟩
    · rw [hany, hk, hst]
      rintro (h | h | h | ⟨e, he, heg, hb⟩)
      · exact h rfl
      · cases h
      · exact absurd hended (not_le.2 h)
      · rw [hidle e he heg] at hb
        cases hb
  · rw [hex, if_pos (.inr (.inr (h.imp id hany.2)))]

/-! ### The end of a warp -/

/-- A warp that has ended, and its slice with it (R76). -/
def Warp.over (w : Warp) : Warp := { w with ended := true, slice := { w.slice with st := .ended, stopping := false, issued := [] } }

/-- The state in which warp `h` has left its slot and has ended. -/
def State.warpOver (s : State) (h : Nat) (w : Warp) : State :=
  (s.modCore w.core fun c => { c with slots := c.slots.filter (· != h) }).setWarp h w.over

/-- A group counts one warp less, and ends with its last warp (R76, R336). -/
def State.groupLess (s : State) (grp : Nat) : State :=
  let g := s.groupAt grp
  let s := s.setGroup grp { g with warpsLeft := g.warpsLeft - 1 }
  let s := if g.warpsLeft ≤ 1 then (s.endGroup grp).modGrid g.grid fun x => { x with ended := x.ended + 1 } else s
  if (s.gridAt g.grid).ds.persist then s.gbarSettle g.grid else s

theorem State.warpAt_of_find {s : State} {h : Nat} {w : Warp} (hw : SMap.find s.warps h = some w) : s.warpAt h = w := by
  rw [State.warpAt, SMap.get_eq_find, hw]
  rfl

theorem State.warpDone_kind {s : State} {h : Nat} {w : Warp} (hw : SMap.find s.warps h = some w) (hd : s.warpDone h = true) :
    w.kind = .normal ∧ w.exited = 0xFFFFFFFF := by
  rw [State.warpDone, State.warpAt_of_find hw] at hd
  simp only [Bool.and_eq_true, beq_iff_eq] at hd
  obtain ⟨⟨⟨⟨⟨⟨hkind, -⟩, hexited⟩, -⟩, -⟩, -⟩, -⟩ := hd
  exact ⟨hkind, hexited⟩

/-- A warp that ends without a twin leaves no half of a paired operation waiting. -/
theorem State.orphanHalf_of_alone {s : State} {h : Nat} (ht : s.twinOf h = none) : s.orphanHalf h = s := by
  rw [State.orphanHalf, ht]

theorem State.twinOf_warpOver {s : State} {h : Nat} {w : Warp} (hw : SMap.find s.warps h = some w) (ht : s.twinOf h = none) : (s.warpOver h w).twinOf h = none := by
  rw [State.twinOf, Option.map_eq_none_iff, List.find?_eq_none] at ht ⊢
  rw [State.warpAt_of_find hw] at ht
  rw [State.warpAt_of_find (w := w.over) (SMap.find_put_same _ _ _)]
  intro e he
  rcases SMap.mem_put he with rfl | he
  · simp
  · exact ht e he

theorem exec_warpEnd {h : Nat} {s : State} {w : Warp} (hw : SMap.find s.warps h = some w) (hd : s.warpDone h = true) (ht : s.twinOf h = none)
    (hg : (s.groupAt w.grp).warpsLeft ≤ 1 → s.groupDone w.grp = true) : exec (.warpEnd h) s = .next ((s.warpOver h w).groupLess w.grp) := by
  have hkind : (s.warpAt h).kind ≠ .handler := by
    rw [State.warpAt_of_find hw, (State.warpDone_kind hw hd).1]
    decide
  have hpass : ¬ ((!s.warpDone h || (decide ((s.groupAt (s.warpAt h).grp).warpsLeft ≤ 1) && !s.groupDone (s.warpAt h).grp)) = true) := by
    rw [hd, State.warpAt_of_find hw]
    simpa using hg
  have hover : (s.modCore w.core fun c => { c with slots := c.slots.filter (· != h) }).modWarp h Warp.over = s.warpOver h w :=
    State.modWarp_eq (s := s.modCore w.core fun c => { c with slots := c.slots.filter (· != h) }) hw _
  show execWarpEnd h s = _
  rw [execWarpEnd, if_neg (by rw [hw]; exact Bool.false_ne_true), if_neg hkind, if_neg hpass, State.warpAt_of_find hw]
  show Host.Outcome.next (State.groupLess (State.orphanHalf (State.modWarp _ h Warp.over) h) w.grp) = _
  rw [hover, State.orphanHalf_of_alone (State.twinOf_warpOver hw ht)]

/-! ### Groups that end -/

theorem State.releaseTiles_nil {s : State} (h : s.tiles = []) (grp : Nat) : s.releaseTiles grp = s := by
  rw [State.releaseTiles, h]
  rfl

/-- Where no tile is held, a dropped warp leaves its core, its records and the add-on stores it has sent. -/
theorem State.dropWarp_eq {s : State} (h : s.tiles = []) (wp : Nat) : ∃ cs as, s.dropWarp wp = { s with cores := cs, warps := SMap.erase s.warps wp, adds := as } := by
  unfold State.dropWarp
  simp only [State.modCore, State.setCore, h, List.flatMap_nil, List.foldl_nil]
  exact ⟨_, _, rfl⟩

theorem State.dropWarps_eq {s : State} (h : s.tiles = []) (hs : List Nat) :
    ∃ cs as, hs.foldl State.dropWarp s = { s with cores := cs, warps := hs.foldl SMap.erase s.warps, adds := as } := by
  induction hs generalizing s with
  | nil => exact ⟨_, _, rfl⟩
  | cons wp t ih =>
    obtain ⟨cs, as, hd⟩ := State.dropWarp_eq h wp
    obtain ⟨cs', as', ht⟩ := ih (s := { s with cores := cs, warps := SMap.erase s.warps wp, adds := as }) h
    exact ⟨cs', as', by rw [List.foldl_cons, hd, ht]; rfl⟩

theorem SMap.find_foldl_erase {α : Type} (ks : List Nat) (m : SMap α) (k : Nat) :
    SMap.find (ks.foldl SMap.erase m) k = if k ∈ ks then none else SMap.find m k := by
  induction ks generalizing m with
  | nil => simp
  | cons a t ih =>
    rw [List.foldl_cons, ih, SMap.find_erase]
    by_cases hk : k = a <;> simp [hk]

/-- The records of a group that has ended go, and no others. -/
theorem State.eraseGroup_spec {s : State} (h : s.tiles = []) (grp : Nat) :
    (s.eraseGroup grp).mem = s.mem ∧ (s.eraseGroup grp).grids = s.grids ∧ SMap.find (s.eraseGroup grp).groups grp = none ∧
      ∀ g v, SMap.find (s.eraseGroup grp).warps g = some v → v.grp ≠ grp := by
  obtain ⟨cs, as, hd⟩ := State.dropWarps_eq h ((s.warps.filter fun e => e.2.grp == grp).map Prod.fst)
  unfold State.eraseGroup
  dsimp only
  rw [hd]
  refine ⟨rfl, rfl, ?_, fun g v hv hgrp => ?_⟩
  · rw [SMap.find_erase, if_pos rfl]
  · rw [SMap.find_foldl_erase] at hv
    split at hv
    · cases hv
    next hn => exact hn (List.mem_map.2 ⟨(g, v), List.mem_filter.2 ⟨SMap.mem_of_find hv, by simpa using hgrp⟩, rfl⟩)

end Sys2Proof.Machine
end

section
/-! SUPPORT. What a group has under way, and the end of its warps (R76, R336). -/

namespace Sys2Proof.Machine

/-! ### What is under way (log 42) -/

/-- The group with the number of its warps that have not ended. -/
def State.withLeft (s : State) (grp n : Nat) : State := s.setGroup grp { s.groupAt grp with warpsLeft := n }

/-- How many warps of a group have not ended says nothing of what is under way. -/
theorem State.groupBusy_withLeft (s : State) (grp n : Nat) : (s.withLeft grp n).groupBusy grp = s.groupBusy grp := by
  have hgrp : (s.withLeft grp n).groupAt grp = { s.groupAt grp with warpsLeft := n } := SMap.get_put_same _ _ _ _
  have hchans : ∀ p : Chan → Bool, (s.withLeft grp n).allChans.any p = s.allChans.any p := fun p => by
    simp only [State.allChans, List.any_flatMap]
    refine SMap.any_put _ _ _ _ ?_
    rw [State.groupAt, SMap.get_eq_find]
    cases SMap.find s.groups grp <;> rfl
  simp only [State.groupBusy, hgrp, hchans]
  rfl

/-- Nor does the end of a warp. -/
theorem State.groupBusy_warpOver {s : State} {h : Nat} {w : Warp} (hw : SMap.find s.warps h = some w) (grp : Nat) :
    (s.warpOver h w).groupBusy grp = s.groupBusy grp := by
  have hmine : ∀ k, ((s.warpOver h w).warpAt k).grp = (s.warpAt k).grp := fun k => by
    rw [State.warpAt, State.warpAt, State.warpOver, State.setWarp_warps, SMap.get_put]
    split
    next hk => rw [hk, SMap.get_eq_find, hw]; rfl
    next => rfl
  have hmatq : ∀ c, ((s.warpOver h w).coreAt c).matq = (s.coreAt c).matq := fun c => by
    rw [State.coreAt, State.coreAt, State.warpOver, State.setWarp_cores, State.modCore, State.setCore_cores, SMap.get_put]
    split
    next hk => rw [hk]; rfl
    next => rfl
  have hsent : ((s.warpOver h w).warps.any fun e => e.2.grp == grp && e.2.kind != .surrender && !(s.pendingOf e.1).isEmpty) =
      s.warps.any fun e => e.2.grp == grp && e.2.kind != .surrender && !(s.pendingOf e.1).isEmpty := by
    refine SMap.any_put _ _ _ _ ?_
    have hw' : SMap.find (s.modCore w.core fun c => { c with slots := c.slots.filter (· != h) }).warps h = some w := hw
    rw [hw']
    rfl
  simp only [State.groupBusy, hmine, hmatq]
  exact congrArg (fun b => b || _ || _ || _) hsent

/-! ### The end of a warp -/

theorem State.groupLess_many {s : State} {grp : Nat} (h : 1 < (s.groupAt grp).warpsLeft) (hp : (s.gridAt (s.groupAt grp).grid).ds.persist = false) :
    s.groupLess grp = s.withLeft grp ((s.groupAt grp).warpsLeft - 1) := by
  unfold State.groupLess
  dsimp only
  rw [if_neg (not_le.2 h), if_neg]
  · rfl
  · exact ne_true_of_eq_false hp

theorem State.groupLess_last {s : State} {grp : Nat} {x : Grid} (h : (s.groupAt grp).warpsLeft = 1) (hx : SMap.find s.grids (s.groupAt grp).grid = some x)
    (hp : x.ds.persist = false) (ht : s.tiles = []) :
    s.groupLess grp = (if s.groupBusy grp then s.withLeft grp 0 else (s.withLeft grp 0).eraseGroup grp).setGrid (s.groupAt grp).grid { x with ended := x.ended + 1 } := by
  have hend : (s.withLeft grp 0).endGroup grp = if s.groupBusy grp then s.withLeft grp 0 else (s.withLeft grp 0).eraseGroup grp := by
    rw [State.endGroup, State.releaseTiles_nil (s := s.withLeft grp 0) ht, State.groupBusy_withLeft]
  have hgrids : (if s.groupBusy grp then s.withLeft grp 0 else (s.withLeft grp 0).eraseGroup grp).grids = s.grids := by
    split
    · rfl
    · exact (State.eraseGroup_spec (s := s.withLeft grp 0) ht grp).2.1
  have hleft : s.setGroup grp { s.groupAt grp with warpsLeft := 1 - 1 } = s.withLeft grp 0 := rfl
  unfold State.groupLess
  dsimp only
  rw [h, if_pos (le_refl 1), hleft, hend, State.modGrid_eq (by rw [hgrids]; exact hx), State.gridAt_setGrid, if_neg (ne_true_of_eq_false hp)]

theorem warpEnd_spec {h : Nat} {s : State} {w : Warp} (hw : SMap.find s.warps h = some w) (hd : s.warpDone h = true) (ht : s.twinOf h = none)
    (hp : (s.gridAt (s.groupAt w.grp).grid).ds.persist = false) (htiles : s.tiles = []) :
    (1 < (s.groupAt w.grp).warpsLeft → ∃ t, exec (.warpEnd h) s = .next t ∧ t.mem = s.mem ∧
      SMap.find t.warps h = some { w with ended := true, slice := { w.slice with st := .ended, stopping := false, issued := [] } } ∧
      (∀ g, g ≠ h → SMap.find t.warps g = SMap.find s.warps g) ∧ h ∉ (t.coreAt w.core).slots ∧
      t.groupAt w.grp = { s.groupAt w.grp with warpsLeft := (s.groupAt w.grp).warpsLeft - 1 }) ∧
    ((s.groupAt w.grp).warpsLeft = 1 → s.groupDone w.grp = true → (SMap.find s.grids (s.groupAt w.grp).grid).isSome = true →
      ∃ t, exec (.warpEnd h) s = .next t ∧ t.mem = s.mem ∧ (t.gridAt (s.groupAt w.grp).grid).ended = (s.gridAt (s.groupAt w.grp).grid).ended + 1 ∧
        (s.groupBusy w.grp = false → SMap.find t.groups w.grp = none ∧ ∀ g v, SMap.find t.warps g = some v → v.grp ≠ w.grp) ∧
        (s.groupBusy w.grp = true → SMap.find t.groups w.grp = some { s.groupAt w.grp with warpsLeft := 0 } ∧ (∀ g, g ≠ h → SMap.find t.warps g = SMap.find s.warps g))) := by
  have hothers : ∀ g, g ≠ h → SMap.find (s.warpOver h w).warps g = SMap.find s.warps g := fun g hg => SMap.find_put_other _ _ hg
  refine ⟨fun hmany => ?_, fun hone hdone hgrid => ?_⟩
  · have hex := exec_warpEnd hw hd ht fun hle => absurd hmany (not_lt.2 hle)
    rw [State.groupLess_many (s := s.warpOver h w) hmany hp] at hex
    refine ⟨_, hex, rfl, SMap.find_put_same _ _ _, hothers, ?_, SMap.get_put_same _ _ _ _⟩
    have : ((s.warpOver h w).withLeft w.grp ((s.groupAt w.grp).warpsLeft - 1)).coreAt w.core = { s.coreAt w.core with slots := (s.coreAt w.core).slots.filter (· != h) } :=
      SMap.get_put_same _ _ _ _
    rw [show (s.warpOver h w).groupAt w.grp = s.groupAt w.grp from rfl, this]
    simp
  · obtain ⟨x, hx⟩ := Option.isSome_iff_exists.1 hgrid
    have hex := exec_warpEnd hw hd ht fun _ => hdone
    rw [State.gridAt_of_find hx] at hp ⊢
    rw [State.groupLess_last (s := s.warpOver h w) hone hx hp htiles, State.groupBusy_warpOver hw] at hex
    obtain ⟨hmem, -, hgone, hnone⟩ := State.eraseGroup_spec (s := (s.warpOver h w).withLeft w.grp 0) htiles w.grp
    cases hb : s.groupBusy w.grp with
    | true =>
      rw [hb, if_pos rfl] at hex
      exact ⟨_, hex, rfl, congrArg Grid.ended (State.gridAt_setGrid _ _ _), nofun, fun _ => ⟨SMap.find_put_same _ _ _, hothers⟩⟩
    | false =>
      rw [hb, if_neg Bool.false_ne_true] at hex
      exact ⟨_, hex, hmem, congrArg Grid.ended (State.gridAt_setGrid _ _ _), fun _ => ⟨hgone, hnone⟩, nofun⟩

end Sys2Proof.Machine
end

section
/-! SUPPORT. The completion of a grid (R226, R365, R372). -/

namespace Sys2Proof.Machine

/-! ### Writing the completion word -/

theorem State.walkFrom_congr {s t : State} (h : t.mem = s.mem) (va level table : Nat) : t.walkFrom va level table = s.walkFrom va level table := by
  have hentry : t.entryAt = s.entryAt := by
    funext pa
    rw [State.entryAt, State.entryAt, h]
  induction level generalizing table with
  | zero => rfl
  | succ level ih => rw [State.walkFrom, State.walkFrom, hentry, ih]

theorem State.walk_congr {s t : State} (h : t.mem = s.mem) {ctx : Nat} (hr : (t.ctxAt ctx).troot = (s.ctxAt ctx).troot) (va : Nat) : t.walk ctx va = s.walk ctx va := by
  rw [State.walk, State.walk, hr, State.walkFrom_congr h]

theorem State.pagesFrom_congr {s t : State} {ctx : Nat} (h : ∀ va, t.walk ctx va = s.walk ctx va) (fuel va stop : Nat) :
    t.pagesFrom ctx fuel va stop = s.pagesFrom ctx fuel va stop := by
  induction fuel generalizing va with
  | zero => rfl
  | succ fuel ih => simp only [State.pagesFrom, h, ih]

/-- Where a range lies depends on the tables in memory, the root of the context, and what is lost or has failed. -/
theorem State.placeVa_congr {s t : State} (hm : t.mem = s.mem) {ctx : Nat} (hr : (t.ctxAt ctx).troot = (s.ctxAt ctx).troot) (hp : t.lostPages = s.lostPages)
    (hf : t.failedHomes = s.failedHomes) (hl : t.lost = s.lost) (va n : Nat) (write : Bool) : t.placeVa ctx va n write = s.placeVa ctx va n write := by
  have hpages : t.pagesOf ctx va n = s.pagesOf ctx va n := State.pagesFrom_congr (State.walk_congr hm hr) _ _ _
  have hgone : t.pageLost = s.pageLost := funext fun x => by rw [State.pageLost, State.pageLost, hp]
  have hmeets : t.meetsLost = s.meetsLost := funext₂ fun pa n => by rw [State.meetsLost, State.meetsLost, hl]
  have hfailed : t.homeFailed = s.homeFailed := funext fun pa => by rw [State.homeFailed, State.homeFailed, hf]
  rw [State.placeVa, State.placeVa, hpages, hgone, hmeets, hfailed]

/-- Bytes poked at memory: nothing but memory, the caches and biases changes. -/
theorem State.pokePa_eq (s : State) (l : List (Nat × Byte)) :
    ∃ b k, s.pokePa l = { s with bias := b, cache := k, mem := l.foldl (fun m e => m.write e.1 e.2) s.mem } := by
  unfold State.pokePa State.takeBias
  split <;> exact ⟨_, _, rfl⟩

theorem State.writeDone_eq {s : State} {ctx va word : Nat} {l : List Nat} (hv : va ≠ 0) (hl : s.placeVa ctx va 8 true = .ok l) :
    s.writeDone ctx va word = s.pokePa (l.zip (toBytes 8 word)) := by
  rw [State.writeDone, if_neg hv, hl]

/-- Bytes poked at different places: each is read where it was put, and every other place reads as before. -/
theorem Memory.read_poke {l : List Nat} {bs : List Byte} (hn : l.Nodup) (hlen : bs.length = l.length) (m : Memory) :
    (∀ j (hj : j < l.length), ((l.zip bs).foldl (fun m e => m.write e.1 e.2) m).read l[j] = bs[j]) ∧
      ∀ a, a ∉ l → ((l.zip bs).foldl (fun m e => m.write e.1 e.2) m).read a = m.read a := by
  have hfst : (l.zip bs).map Prod.fst = l := List.map_fst_zip hlen.ge
  refine ⟨fun j hj => (Memory.read_foldl_write _ m _).2 (by rw [hfst]; exact hn) _ ?_, fun a ha => (Memory.read_foldl_write _ m a).1 fun e he hea => ha ?_⟩
  · have hzip : j < (l.zip bs).length := by rw [List.length_zip]; omega
    have hmem := List.getElem_mem hzip
    rwa [List.getElem_zip] at hmem
  · rw [← hfst, ← hea]
    exact List.mem_map_of_mem he

/-- The bytes of a completion word, which is kept modulo 2^64. -/
theorem getElem_doneWord (launch status j : Nat) (hj : j < (toBytes 8 (launch * 256 % 2 ^ 64 + status)).length) :
    (toBytes 8 (launch * 256 % 2 ^ 64 + status))[j] = BitVec.ofNat 8 ((launch * 256 + status) / 256 ^ j) := by
  rw [toBytes_length] at hj
  rw [getElem_toBytes]
  apply BitVec.eq_of_toNat_eq
  rw [BitVec.toNat_ofNat, BitVec.toNat_ofNat]
  interval_cases j <;> omega

/-! ### The records of the grid -/

/-- What the completion of a launch with a status gives to the lnwaits of a warp that wait for it (R372). -/
def Warp.told (status : Nat) (w : Warp) (ts : List (Nat × Nat × Nat)) : Warp :=
  ts.foldl (fun (w : Warp) (t : Nat × Nat × Nat) => { w.complete t.1 [RegWrite.ofK t.2.2 (BitVec.ofNat 64 status)] with lnwaits := w.lnwaits.filter (· != t) }) w

/-- The state in which a complete grid is known by its status alone. -/
def State.closeGrid (s : State) (g : Nat) (x : Grid) (status : Nat) : State :=
  let c := s.ctxAt x.ctx
  { s.setCtx x.ctx { c with statuses := (SMap.put c.statuses x.launch status).filter fun e => decide (c.nextLaunch ≤ e.1 + 65536) } with
    grids := SMap.erase s.grids g
    domains := s.domains.map fun (e : Nat × Domain) => (e.1, { e.2 with grids := e.2.grids.filter (· != g) })
    cores := s.cores.map fun (e : Nat × Core) => (e.1, if e.2.grid = some g then { e.2 with grid := none, part := 0, acc := [], matq := [] } else e.2)
    warps := s.warps.map fun (e : Nat × Warp) => (e.1,
      e.2.told status (e.2.lnwaits.filter fun (t : Nat × Nat × Nat) => t.2.1 == x.launch && (s.gridAt (s.groupAt e.2.grp).grid).ctx == x.ctx)) }

theorem exec_gridComplete {g : Nat} {s : State} {x : Grid} (hx : SMap.find s.grids g = some x) (hst : x.killed = true ∨ x.st = .ending)
    (hg : ∀ e ∈ s.groups, e.2.grid ≠ g) :
    let u := s.closeGrid g x (if x.killed then 1 else 0)
    exec (.gridComplete g) s = .next (((if u.grids.any fun e => e.2.ctx == x.ctx then u else u.dropForwarded x.ctx).restartTimer x.queue).writeDone x.ctx x.pk.done
      (x.launch * 256 % 2 ^ 64 + if x.killed then 1 else 0)) := by
  intro u
  have hleft : (s.groups.filter fun e => e.2.grid == g) = [] := List.filter_eq_nil_iff.2 fun e he => by simpa using hg e he
  have hends : (x.killed || x.st == .ending) = true := by simpa using hst
  show execGridComplete g s = _
  rw [execGridComplete, hx]
  dsimp only
  rw [hends, hleft]
  rfl

/-- What follows the closing of the records changes the caches and the queue's timer, and writes the word. -/
theorem State.afterClose_eq (u : State) (ctx q : Nat) :
    ∃ k y, (if u.grids.any fun e => e.2.ctx == ctx then u else u.dropForwarded ctx).restartTimer q = { u with cache := k, queues := y } := by
  split <;> exact ⟨_, _, rfl⟩

/-- The completion word, written after the records are closed: what places its bytes is what it was. -/
theorem State.writeDone_congr {s u : State} {ctx va word : Nat} {l : List Nat} (hm : u.mem = s.mem) (hr : (u.ctxAt ctx).troot = (s.ctxAt ctx).troot)
    (hp : u.lostPages = s.lostPages) (hf : u.failedHomes = s.failedHomes) (hlost : u.lost = s.lost) (hv : va ≠ 0) (hl : s.placeVa ctx va 8 true = .ok l) :
    ∃ b k, u.writeDone ctx va word = { u with bias := b, cache := k, mem := (l.zip (toBytes 8 word)).foldl (fun m e => m.write e.1 e.2) s.mem } := by
  rw [State.writeDone_eq hv ((State.placeVa_congr hm hr hp hf hlost va 8 true).trans hl), ← hm]
  exact u.pokePa_eq _

theorem State.closeGrid_troot (s : State) (g : Nat) (x : Grid) (status : Nat) :
    ((s.closeGrid g x status).ctxAt x.ctx).troot = (s.ctxAt x.ctx).troot := by
  show (SMap.get Ctx.reset (SMap.put s.ctxs x.ctx _) x.ctx).troot = _
  rw [SMap.get_put_same]

theorem State.closeGrid_mem (s : State) (g : Nat) (x : Grid) (status : Nat) : (s.closeGrid g x status).mem = s.mem := rfl

theorem State.closeGrid_lostPages (s : State) (g : Nat) (x : Grid) (status : Nat) : (s.closeGrid g x status).lostPages = s.lostPages := rfl

theorem State.closeGrid_failedHomes (s : State) (g : Nat) (x : Grid) (status : Nat) : (s.closeGrid g x status).failedHomes = s.failedHomes := rfl

theorem State.closeGrid_lost (s : State) (g : Nat) (x : Grid) (status : Nat) : (s.closeGrid g x status).lost = s.lost := rfl

/-- The completion of a grid: its records close, and the word stands in memory. -/
theorem gridComplete_state {g : Nat} {s : State} {x : Grid} {l : List Nat} (hx : SMap.find s.grids g = some x) (hst : x.killed = true ∨ x.st = .ending)
    (hg : ∀ e ∈ s.groups, e.2.grid ≠ g) (hv : x.pk.done ≠ 0) (hl : s.placeVa x.ctx x.pk.done 8 true = .ok l) {status : Nat}
    (hs : status = if x.killed then 1 else 0) :
    ∃ b k y, exec (.gridComplete g) s = .next { s.closeGrid g x status with
      queues := y, bias := b, cache := k, mem := (l.zip (toBytes 8 (x.launch * 256 % 2 ^ 64 + status))).foldl (fun m e => m.write e.1 e.2) s.mem } := by
  have hex := exec_gridComplete hx hst hg
  rw [← hs] at hex
  have hmem := s.closeGrid_mem g x status
  have hroot := s.closeGrid_troot g x status
  have hpages := s.closeGrid_lostPages g x status
  have hhomes := s.closeGrid_failedHomes g x status
  have hlost := s.closeGrid_lost g x status
  generalize s.closeGrid g x status = u at hex hmem hroot hpages hhomes hlost ⊢
  obtain ⟨k, y, hk⟩ := u.afterClose_eq x.ctx x.queue
  obtain ⟨b, k', hdone⟩ := State.writeDone_congr (u := { u with cache := k, queues := y }) (word := x.launch * 256 % 2 ^ 64 + status) hmem hroot hpages hhomes hlost hv hl
  exact ⟨b, k', y, hex.trans (congrArg _ ((congrArg (State.writeDone · _ _ _) hk).trans hdone))⟩

theorem State.closeGrid_statuses (s : State) (g : Nat) (x : Grid) (status : Nat) (h : (s.ctxAt x.ctx).nextLaunch ≤ x.launch + 65536) :
    SMap.get 9 ((s.closeGrid g x status).ctxAt x.ctx).statuses x.launch = status := by
  have : ((s.closeGrid g x status).ctxAt x.ctx).statuses = (SMap.put (s.ctxAt x.ctx).statuses x.launch status).filter fun e => decide ((s.ctxAt x.ctx).nextLaunch ≤ e.1 + 65536) :=
    congrArg Ctx.statuses (SMap.get_put_same _ _ _ _)
  rw [this, SMap.get_filter (p := fun n => decide ((s.ctxAt x.ctx).nextLaunch ≤ n + 65536)) _ _ (decide_eq_true h), SMap.get_put_same]

/-- An lnwait that waits for the launch ends with its status (R372). -/
theorem State.closeGrid_lnwait {s : State} {g : Nat} {x : Grid} {status h : Nat} {w : Warp} {n kd : Nat} (hw : SMap.find s.warps h = some w)
    (hctx : (s.gridAt (s.groupAt w.grp).grid).ctx = x.ctx) (hln : w.lnwaits = [(n, x.launch, kd)]) {f : Inflight} (hf : f ∈ w.inflight) (hfn : f.seq = n) :
    { f with done := true, writes := f.writes ++ [⟨.k kd, [(0, BitVec.ofNat 64 status)]⟩] } ∈ ((s.closeGrid g x status).warpAt h).inflight ∧
      ((s.closeGrid g x status).warpAt h).lnwaits = [] := by
  have hwarp : (s.closeGrid g x status).warpAt h = w.told status [(n, x.launch, kd)] := by
    refine State.warpAt_of_find ?_
    have := SMap.find_map s.warps (fun _ w => w.told status (w.lnwaits.filter fun (t : Nat × Nat × Nat) => t.2.1 == x.launch && (s.gridAt (s.groupAt w.grp).grid).ctx == x.ctx)) h
    rw [hw] at this
    refine this.trans ?_
    simp [hln, hctx]
  rw [hwarp]
  refine ⟨List.mem_map.2 ⟨f, hf, by rw [if_pos (beq_iff_eq.2 hfn)]; rfl⟩, ?_⟩
  show w.lnwaits.filter (· != (n, x.launch, kd)) = []
  simp [hln]

end Sys2Proof.Machine
end

section
/-! OBLIGATION. The life of a grid (R76, R351, R357 to R359, R364, R365, R372). -/

namespace Sys2Proof.Machine

/-- Settles O48: one lemma for each event of the life of a grid. -/
theorem grids : Obligations.Grids := by
  unfold Obligations.Grids
  refine ⟨fun g s x => gridRelease_spec, fun gangs weights => dealOut_spec gangs, ?_, fun cluster g v s r l => gangSteal_spec,
    fun h s w hw hd ht hp htiles _ => ⟨(State.warpDone_kind hw hd).2, warpEnd_spec hw hd ht hp htiles⟩, fun g s x => endEdgeStep_spec, ?_⟩
  · intro cluster g s x j c rest _ _ hf hx hp hcoll hn hg hj hr hc
    obtain ⟨t, n, gr, hex, hmem, hnone, hgr, hothers, rfl, hcore, hranges, hkept, hnew, hall⟩ := gangStart_spec hf hx hp hcoll hn hg hj hr hc
    refine ⟨t, n, _, hex, hmem, hnone, hgr, hothers, rfl, rfl, rfl, rfl, rfl, rfl, rfl, rfl, hcore, hranges, hkept, fun m hm => ?_, fun h w hn hw => ?_⟩
    · obtain ⟨h, w, hn, hw, hs⟩ := hnew m hm
      exact ⟨h, w, hn, hw, hs.place⟩
    · obtain ⟨m, -, hs⟩ := hall h w hn hw
      exact hx ▸ hs.regs
  · intro g s x l hx hst _ hg hv hl hn h8 _ status
    obtain ⟨b, k, y, hex⟩ := gridComplete_state hx hst hg hv hl (status := status) rfl
    obtain ⟨hbytes, hrest⟩ := Memory.read_poke hn (bs := toBytes 8 (x.launch * 256 % 2 ^ 64 + status)) (by rw [toBytes_length, h8]) s.mem
    refine ⟨_, hex, ?_, rfl, fun j hj => ?_, hrest, fun _ hle _ => s.closeGrid_statuses g x status hle, fun h w n kd hw hctx _ hln f hf hfn =>
      State.closeGrid_lnwait (g := g) (status := status) hw hctx hln hf hfn⟩
    · rw [State.closeGrid, SMap.find_erase, if_pos rfl]
    · rw [List.getD_eq_getElem _ _ (h8 ▸ hj), ← getElem_doneWord _ _ _ (by rw [toBytes_length]; exact hj)]
      exact hbytes j (h8 ▸ hj)

end Sys2Proof.Machine
end

section
/-! SUPPORT. Exact values narrowed to a word (R9): word operations agree with integer arithmetic that is narrowed at the end. -/

namespace Sys2Proof

/-! ### Narrowing -/

theorem ofInt_toNat {n : Nat} (a : BitVec n) : BitVec.ofInt n (a.toNat : Int) = a := by simp

theorem ofInt_sub {n : Nat} (x y : Int) : BitVec.ofInt n (x - y) = BitVec.ofInt n x - BitVec.ofInt n y := by
  rw [Int.sub_eq_add_neg, BitVec.ofInt_add, BitVec.ofInt_neg, BitVec.sub_eq_add_neg]

/-- A word that is a given natural number, narrowed. -/
theorem eq_ofInt_of_toNat {n : Nat} {a : BitVec n} {x : Nat} (h : a.toNat = x) : a = BitVec.ofInt n (x : Int) := by
  rw [← h, ofInt_toNat]

theorem add_eq_ofInt {n : Nat} (a b : BitVec n) : a + b = BitVec.ofInt n ((a.toNat : Int) + b.toNat) := by
  rw [BitVec.ofInt_add, ofInt_toNat, ofInt_toNat]

theorem sub_eq_ofInt {n : Nat} (a b : BitVec n) : a - b = BitVec.ofInt n ((a.toNat : Int) - b.toNat) := by
  rw [ofInt_sub, ofInt_toNat, ofInt_toNat]

theorem mul_eq_ofInt {n : Nat} (a b : BitVec n) : a * b = BitVec.ofInt n ((a.toNat : Int) * b.toNat) := by
  rw [BitVec.ofInt_mul, ofInt_toNat, ofInt_toNat]

theorem mulAdd_eq_ofInt {n : Nat} (a b d : BitVec n) : a * b + d = BitVec.ofInt n ((a.toNat : Int) * b.toNat + d.toNat) := by
  rw [BitVec.ofInt_add, ← mul_eq_ofInt, ofInt_toNat]

/-- A signed immediate added to a word. -/
theorem add_signExtend_eq_ofInt {n m : Nat} (a : BitVec n) (imm : BitVec m) : a + imm.signExtend n = BitVec.ofInt n ((a.toNat : Int) + imm.toInt) := by
  rw [BitVec.ofInt_add, ofInt_toNat]
  rfl

theorem not_eq_ofInt (a : Word) : ~~~a = BitVec.ofInt 32 (2 ^ 32 - 1 - (a.toNat : Int)) := by
  rw [ofInt_sub, ofInt_toNat]
  exact (BitVec.allOnes_sub_eq_not a).symm

theorem andn_eq_ofInt (a b : Word) : a &&& ~~~b = BitVec.ofInt 32 ((a.toNat &&& (2 ^ 32 - 1 - b.toNat) : Nat) : Int) := by
  apply eq_ofInt_of_toNat
  rw [BitVec.toNat_and, BitVec.toNat_not]

theorem shiftLeft_eq_ofInt {n : Nat} (a : BitVec n) (k : Nat) : a <<< k = BitVec.ofInt n ((a.toNat : Int) * 2 ^ k) := by
  apply BitVec.eq_of_toNat_eq
  rw [show ((a.toNat : Int) * 2 ^ k) = ((a.toNat * 2 ^ k : Nat) : Int) by push_cast; rfl, BitVec.ofInt_natCast, BitVec.toNat_ofNat, BitVec.toNat_shiftLeft, Nat.shiftLeft_eq]

theorem ushiftRight_eq_ofInt {n : Nat} (a : BitVec n) (k : Nat) : a >>> k = BitVec.ofInt n ((a.toNat : Int) / 2 ^ k) := by
  have h : (a >>> k).toNat = a.toNat / 2 ^ k := by rw [BitVec.toNat_ushiftRight, Nat.shiftRight_eq_div_pow]
  simpa using eq_ofInt_of_toNat h

theorem sshiftRight_eq_ofInt {n : Nat} (a : BitVec n) (k : Nat) : a.sshiftRight k = BitVec.ofInt n (a.toInt / 2 ^ k) := by
  have h : (a.sshiftRight k).toInt = a.toInt / 2 ^ k := by rw [BitVec.toInt_sshiftRight, Int.shiftRight_eq_div_pow]; rfl
  rw [← h, BitVec.ofInt_toInt]

/-- A word over the low half of another: the high half moved up, and the low half of the old one. -/
theorem high_or_low (x : Word) (old : DWord) :
    (x.zeroExtend 64 <<< 32) ||| ((old.truncate 32 : Word).zeroExtend 64) = BitVec.ofInt 64 ((x.toNat : Int) * 2 ^ 32 + (old.toNat : Int) % 2 ^ 32) := by
  have h : ((x.zeroExtend 64 <<< 32) ||| ((old.truncate 32 : Word).zeroExtend 64)).toNat = x.toNat * 2 ^ 32 + old.toNat % 2 ^ 32 := by
    have hx := x.isLt
    have hlow : old.toNat % 2 ^ 32 < 2 ^ 32 := Nat.mod_lt _ (by norm_num)
    simp only [BitVec.truncate_eq_setWidth, BitVec.toNat_or, BitVec.toNat_shiftLeft, BitVec.toNat_setWidth]
    rw [Nat.mod_eq_of_lt (by omega : x.toNat < 2 ^ 64), Nat.mod_eq_of_lt (by omega : old.toNat % 2 ^ 32 < 2 ^ 64),
      Nat.mod_eq_of_lt (by rw [Nat.shiftLeft_eq]; omega), ← Nat.shiftLeft_add_eq_or_of_lt hlow, Nat.shiftLeft_eq]
  simpa using eq_ofInt_of_toNat h

/-! ### Bits -/

theorem bitAt_eq_testBit (x i : Nat) : bitAt x i = x.testBit i := by
  rw [bitAt, Nat.testBit_eq_decide_div_mod_eq]
  rfl

theorem bitAt_toNat {n : Nat} (a : BitVec n) (i : Nat) : bitAt a.toNat i = a.getLsbD i := bitAt_eq_testBit _ _

/-- The top bit of a number of `n + 1` bits says whether it reaches 2^n. -/
theorem bitAt_top {x n : Nat} (h : x < 2 ^ (n + 1)) : bitAt x n = decide (2 ^ n ≤ x) := by
  rw [bitAt_eq_testBit]
  by_cases hx : 2 ^ n ≤ x
  · rw [Nat.testBit_of_two_pow_le_and_two_pow_add_one_gt hx h, decide_eq_true hx]
  · rw [Nat.testBit_lt_two_pow (by omega), decide_eq_false hx]

theorem popCount_eq (n x : Nat) : popCount n x = ((List.range n).filter fun i => bitAt x i).length := by
  induction n with
  | zero => rfl
  | succ n ih =>
    rw [popCount, ih, List.range_succ, List.filter_append, List.length_append, Nat.add_comm]
    cases h : bitAt x n <;> simp [h]

theorem leadZeros_eq {n x : Nat} (h : x < 2 ^ n) : leadZeros n x = if x = 0 then n else n - 1 - Nat.log2 x := by
  induction n with
  | zero => simp_all [leadZeros]
  | succ n ih =>
    rw [leadZeros, bitAt_top h]
    by_cases hx : 2 ^ n ≤ x
    · have hne : x ≠ 0 := by have := Nat.two_pow_pos n; omega
      have hlog : Nat.log2 x = n := (Nat.log2_eq_iff hne).2 ⟨hx, h⟩
      simp [hx, hne, hlog]
    · rw [if_neg (by simpa using hx), ih (by omega)]
      by_cases hne : x = 0
      · simp [hne, Nat.add_comm]
      · have hlog : Nat.log2 x < n := (Nat.log2_lt hne).2 (by omega)
        rw [if_neg hne, if_neg hne]
        omega

theorem bitRev_eq (n x : Nat) : bitRev n x = ((List.range n).map fun i => if bitAt x i then 2 ^ (n - 1 - i) else 0).sum := by
  induction n generalizing x with
  | zero => rfl
  | succ n ih =>
    rw [bitRev, ih, List.range_succ_eq_map, List.map_cons, List.sum_cons, List.map_map]
    congr 1
    · rcases Nat.mod_two_eq_zero_or_one x with h | h <;> simp [bitAt, h]
    · congr 1
      refine List.map_congr_left fun i _ => ?_
      have hb : bitAt x (i + 1) = bitAt (x / 2) i := by rw [bitAt, bitAt, Nat.div_div_eq_div_mul, Nat.pow_succ']
      have he : n + 1 - 1 - (i + 1) = n - 1 - i := by omega
      simp only [Function.comp, hb, he]

/-- The bits of a field that has been moved into its place in a word. -/
theorem getLsbD_field (x pos len : Nat) {i : Nat} (hi : i < 32) :
    (BitVec.ofNat 32 (x % 2 ^ len * 2 ^ pos)).getLsbD i = (decide (pos ≤ i ∧ i < pos + len) && x.testBit (i - pos)) := by
  rw [BitVec.getLsbD_ofNat, Nat.mul_comm, Nat.testBit_two_pow_mul, Nat.testBit_mod_two_pow, decide_eq_true hi]
  by_cases hp : pos ≤ i
  · simp [hp, show i - pos < len ↔ i < pos + len by omega]
  · simp [hp]

theorem getLsbD_fieldMask (pos len : Nat) {i : Nat} (hi : i < 32) :
    (BitVec.ofNat 32 ((2 ^ len - 1) * 2 ^ pos)).getLsbD i = decide (pos ≤ i ∧ i < pos + len) := by
  have hm : (2 ^ len - 1) % 2 ^ len = 2 ^ len - 1 := Nat.mod_eq_of_lt (by have := Nat.two_pow_pos len; omega)
  rw [← hm, getLsbD_field _ _ _ hi, Nat.testBit_two_pow_sub_one, Bool.and_eq_left_iff_imp]
  simp only [decide_eq_true_eq]
  omega

namespace Machine

theorem sextInt_eq_signedAt {x len : Nat} (h : x < 2 ^ len) (hlen : 0 < len) : sextInt x len = signedAt x len := by
  have ht : bitAt x (len - 1) = decide (2 ^ (len - 1) ≤ x) := bitAt_top (by rwa [Nat.sub_add_cancel hlen])
  have hm : ((x : Int) % 2 ^ len) = x := Int.emod_eq_of_lt (by omega) (by exact_mod_cast h)
  simp only [sextInt, signedAt, ht, hm, decide_eq_true_eq]

/-! ### The per-lane functions of chapter 4 -/

theorem aluMulhS_eq (a b : Word) : aluMulhS a b = BitVec.ofInt 32 (a.toInt * b.toInt / 2 ^ 32) := by
  apply BitVec.eq_of_toNat_eq
  rw [aluMulhS, BitVec.signExtend, BitVec.signExtend, ← BitVec.ofInt_mul]
  generalize a.toInt * b.toInt = p
  simp only [BitVec.truncate_eq_setWidth, BitVec.toNat_setWidth, BitVec.toNat_ushiftRight, Nat.shiftRight_eq_div_pow, BitVec.toNat_ofInt]
  omega

theorem aluMulhN_eq (a b : Word) : aluMulhN a b = BitVec.ofInt 32 ((a.toNat : Int) * b.toNat / 2 ^ 32) := by
  have hlt : a.toNat * b.toNat < 2 ^ 64 := by
    have := Nat.mul_lt_mul'' a.isLt b.isLt
    omega
  have h : (aluMulhN a b).toNat = a.toNat * b.toNat / 2 ^ 32 := by
    have ha := a.isLt
    have hb := b.isLt
    simp only [aluMulhN, BitVec.truncate_eq_setWidth, BitVec.toNat_setWidth, BitVec.toNat_ushiftRight, BitVec.toNat_mul,
      Nat.shiftRight_eq_div_pow]
    rw [Nat.mod_eq_of_lt (by omega : a.toNat < 2 ^ 64), Nat.mod_eq_of_lt (by omega : b.toNat < 2 ^ 64), Nat.mod_eq_of_lt hlt, Nat.mod_eq_of_lt (by omega)]
  simpa using eq_ofInt_of_toNat h

theorem aluMinS_eq (a b : Word) : aluMinS a b = BitVec.ofInt 32 (min a.toInt b.toInt) := by
  rw [aluMinS, min_def]
  split_ifs <;> rw [BitVec.ofInt_toInt]

theorem aluMaxS_eq (a b : Word) : aluMaxS a b = BitVec.ofInt 32 (max a.toInt b.toInt) := by
  rw [aluMaxS, max_def]
  split_ifs <;> rw [BitVec.ofInt_toInt]

theorem aluMinN_eq (a b : Word) : aluMinN a b = BitVec.ofInt 32 (min (a.toNat : Int) b.toNat) := by
  simp only [aluMinN, min_def, Nat.cast_le]
  split_ifs <;> rw [ofInt_toNat]

theorem aluMaxN_eq (a b : Word) : aluMaxN a b = BitVec.ofInt 32 (max (a.toNat : Int) b.toNat) := by
  simp only [aluMaxN, max_def, Nat.cast_le]
  split_ifs <;> rw [ofInt_toNat]

theorem aluShl_eq (a b : Word) : aluShl a b = BitVec.ofInt 32 (if b.toNat < 32 then (a.toNat : Int) * 2 ^ b.toNat else 0) := by
  rw [aluShl]
  split_ifs
  · exact shiftLeft_eq_ofInt a _
  · rfl

theorem aluShr_eq (a b : Word) : aluShr a b = BitVec.ofInt 32 (if b.toNat < 32 then (a.toNat : Int) / 2 ^ b.toNat else 0) := by
  rw [aluShr]
  split_ifs
  · exact ushiftRight_eq_ofInt a _
  · rfl

theorem aluSar_eq (a b : Word) : aluSar a b = BitVec.ofInt 32 (if b.toNat < 32 then floorShift a b.toNat else if a.getLsbD 31 then -1 else 0) := by
  rw [aluSar]
  split_ifs
  · exact sshiftRight_eq_ofInt a _
  · rfl
  · rfl

theorem aluRot_eq (a : Word) (n : BitVec 5) :
    aluRot a n.toNat = BitVec.ofInt 32 ((a.toNat * 2 ^ n.toNat % 2 ^ 32 ||| a.toNat / 2 ^ (32 - n.toNat) : Nat) : Int) := by
  apply eq_ofInt_of_toNat
  rw [aluRot, BitVec.toNat_rotateLeft, Nat.mod_eq_of_lt n.isLt, Nat.shiftLeft_eq, Nat.shiftRight_eq_div_pow]

theorem aluPopc_eq (a : Word) : aluPopc a = BitVec.ofInt 32 (oneBits a : Int) := by
  rw [aluPopc, popCount_eq, BitVec.ofInt_natCast]
  simp only [bitAt_toNat, oneBits]

theorem aluClz_eq (a : Word) : aluClz a = BitVec.ofInt 32 (topZeros a : Int) := by
  rw [aluClz, leadZeros_eq a.isLt, BitVec.ofInt_natCast, topZeros]
  simp only [show a.toNat = 0 ↔ a = 0 from BitVec.toNat_inj (y := 0)]

theorem aluBrev_eq (a : Word) : aluBrev a = BitVec.ofInt 32 (mirrored a : Int) := by
  rw [aluBrev, bitRev_eq, BitVec.ofInt_natCast]
  simp only [bitAt_toNat, mirrored]

theorem aluAbs_eq (a : Word) : aluAbs a = BitVec.ofInt 32 |a.toInt| := by
  rw [aluAbs]
  split_ifs with h
  · rw [abs_of_neg h, BitVec.ofInt_neg, BitVec.ofInt_toInt]
    exact BitVec.zero_sub a
  · rw [abs_of_nonneg (by omega), BitVec.ofInt_toInt]

theorem aluBfx_eq (a : Word) (pos len : Nat) (sx : Bool) (hlen : 0 < len) :
    aluBfx a pos len sx = BitVec.ofInt 32 (if sx then signedAt (bitsAt a pos len) len else bitsAt a pos len) := by
  have hf : fld a.toNat pos len = bitsAt a pos len := rfl
  cases sx with
  | true => exact congrArg (BitVec.ofInt 32) (sextInt_eq_signedAt (Nat.mod_lt _ (Nat.two_pow_pos len)) hlen)
  | false => exact (BitVec.ofInt_natCast 32 _).symm

/-- A field of a word, in its place, is the word under the field's mask. -/
theorem field_eq_and_mask (d : Word) (pos len : Nat) :
    BitVec.ofNat 32 (bitsAt d pos len * 2 ^ pos) = d &&& BitVec.ofNat 32 ((2 ^ len - 1) * 2 ^ pos) := by
  refine BitVec.eq_of_getLsbD_eq fun i hi => ?_
  rw [BitVec.getLsbD_and, getLsbD_fieldMask pos len hi, bitsAt, getLsbD_field _ _ _ hi, Nat.testBit_div_two_pow, Bool.and_comm]
  by_cases h : pos ≤ i ∧ i < pos + len
  · rw [Nat.sub_add_cancel h.1]; rfl
  · simp [h]

/-- What the mask of a field leaves of a word is the word less its field. -/
theorem and_not_eq_sub (d m : Word) : d &&& ~~~m = d - (d &&& m) := by
  have hdisj : (d &&& ~~~m) &&& (d &&& m) = 0#32 := by
    refine BitVec.eq_of_getLsbD_eq fun i hi => ?_
    simp only [BitVec.getLsbD_and, BitVec.getLsbD_not, BitVec.getLsbD_zero, hi]
    cases m.getLsbD i <;> simp
  have hsum : (d &&& ~~~m) + (d &&& m) = d := by
    rw [BitVec.add_eq_or_of_and_eq_zero _ _ hdisj]
    refine BitVec.eq_of_getLsbD_eq fun i hi => ?_
    simp only [BitVec.getLsbD_or, BitVec.getLsbD_and, BitVec.getLsbD_not, hi]
    cases m.getLsbD i <;> simp
  exact (BitVec.sub_eq_iff_eq_add.2 hsum.symm).symm

theorem aluBfi_eq (d a : Word) (pos len : Nat) :
    aluBfi d a pos len = BitVec.ofInt 32 ((d.toNat : Int) - bitsAt d pos len * 2 ^ pos + (a.toNat : Int) % 2 ^ len * 2 ^ pos) := by
  have hold : BitVec.ofInt 32 ((bitsAt d pos len : Int) * 2 ^ pos) = d &&& BitVec.ofNat 32 ((2 ^ len - 1) * 2 ^ pos) := by
    rw [← field_eq_and_mask, ← BitVec.ofInt_natCast]
    push_cast
    rfl
  have hnew : BitVec.ofInt 32 ((a.toNat : Int) % 2 ^ len * 2 ^ pos) = BitVec.ofNat 32 (a.toNat % 2 ^ len * 2 ^ pos) := by
    rw [← BitVec.ofInt_natCast]
    push_cast
    rfl
  have hdisj : d &&& ~~~BitVec.ofNat 32 ((2 ^ len - 1) * 2 ^ pos) &&& BitVec.ofNat 32 (a.toNat % 2 ^ len * 2 ^ pos) = 0#32 := by
    refine BitVec.eq_of_getLsbD_eq fun i hi => ?_
    simp only [BitVec.getLsbD_and, BitVec.getLsbD_not, BitVec.getLsbD_zero, getLsbD_fieldMask _ _ hi, getLsbD_field _ _ _ hi]
    by_cases h : pos ≤ i ∧ i < pos + len <;> simp [h]
  rw [BitVec.ofInt_add, ofInt_sub, ofInt_toNat, hold, hnew, ← and_not_eq_sub, BitVec.add_eq_or_of_and_eq_zero _ _ hdisj]
  rfl

/-- One half of a uniform register (R89). -/
theorem halfK_eq_ofInt (k : DWord) (hi : Bool) :
    (if hi then (k >>> 32).truncate 32 else k.truncate 32) = BitVec.ofInt 32 (if hi then (k.toNat : Int) / 2 ^ 32 else (k.toNat : Int) % 2 ^ 32) := by
  apply BitVec.eq_of_toNat_eq
  cases hi <;> simp only [if_true, Bool.false_eq_true, if_false, BitVec.truncate_eq_setWidth, BitVec.toNat_setWidth, BitVec.toNat_ushiftRight, Nat.shiftRight_eq_div_pow,
    BitVec.toNat_ofInt] <;> omega

theorem aluLea_eq (a b : Word) (sh : Nat) (disp : BitVec 16) :
    aluLea a b sh disp = BitVec.ofInt 32 ((a.toNat : Int) + (b.toNat : Int) * 2 ^ sh + disp.toInt) := by
  rw [BitVec.ofInt_add, BitVec.ofInt_add, ofInt_toNat, ← shiftLeft_eq_ofInt]
  rfl

theorem byteInt_eq (a : Word) (i : Nat) (signed : Bool) : byteInt a i signed = byteAt signed a i := by
  cases signed with
  | true => exact sextInt_eq_signedAt (Nat.mod_lt _ (by norm_num)) (by norm_num)
  | false => rfl

theorem aluDot4_eq (d a b : Word) (m : DotMode) :
    aluDot4 d a b m = BitVec.ofInt 32 ((d.toNat : Int) + ((List.range 4).map fun i => byteAt (m == .ss || m == .sn) a i * byteAt (m == .ss) b i).sum) := by
  have hm : (m != .nn) = (m == .ss || m == .sn) := by cases m <;> rfl
  simp only [aluDot4, byteInt_eq, hm]

end Machine
end Sys2Proof
end

section
/-! SUPPORT. The shape of a lane-wise instruction (R81, R244): the checks of its blocks and of its destination, and the results of a block. -/

namespace Sys2Proof.Machine

/-! ### The checks (R81, R244) -/

/-- What a lane-wise instruction does before anything else: a block outside the register plane stops it with detail 0x01, a destination in a bound window with detail 0x05;
past both checks it comes to `t`. -/
def State.blockChecked (s : State) (i : Instr) (x : Bx) (d : Vr) (srcs : List Vr) (t : State) : State :=
  if !(blockOk (s.w.extent x) d.toNat && srcs.all fun r => blockOk (s.w.extent x) r.toNat) then s.illegalOperand i 0x01
  else if (blockRegs (s.w.extent x) d.toNat).any s.w.isWindow then s.illegalOperand i 0x05
  else t

theorem blocksOk_iff (w : Warp) (x : Bx) (d : Vr) (srcs : List Vr) :
    (blockOk (w.extent x) d.toNat && srcs.all fun r => blockOk (w.extent x) r.toNat) = true ↔ w.Fits x d srcs := by
  rw [Bool.and_eq_true, List.all_eq_true, Warp.Fits, List.forall_mem_cons]
  exact and_congr (blockOk_iff _ _) (forall₂_congr fun r _ => blockOk_iff _ _)

theorem Warp.Fits.blockOk {w : Warp} {x : Bx} {d : Vr} {srcs : List Vr} (h : w.Fits x d srcs) : ∀ r ∈ d :: srcs, blockOk (w.extent x) r.toNat = true :=
  fun r hr => (blockOk_iff _ _).2 (h r hr)

theorem any_isWindow_iff (w : Warp) (x : Bx) (d : Vr) : (blockRegs (w.extent x) d.toNat).any w.isWindow = true ↔ ¬ w.NoWindow x d := by
  simp [Warp.NoWindow]

theorem State.blockChecked_of_not_fits {s : State} {x : Bx} {d : Vr} {srcs : List Vr} (h : ¬ s.w.Fits x d srcs) (i : Instr) (t : State) :
    s.blockChecked i x d srcs t = s.illegalOperand i 0x01 :=
  if_pos (by rwa [Bool.not_eq_true', ← Bool.not_eq_true, blocksOk_iff])

theorem State.blockChecked_of_window {s : State} {x : Bx} {d : Vr} {srcs : List Vr} (h : s.w.Fits x d srcs) (hw : ¬ s.w.NoWindow x d) (i : Instr) (t : State) :
    s.blockChecked i x d srcs t = s.illegalOperand i 0x05 := by
  rw [State.blockChecked, (blocksOk_iff _ _ _ _).2 h, if_neg (by simp), if_pos ((any_isWindow_iff _ _ _).2 hw)]

theorem State.blockChecked_of_ok {s : State} {x : Bx} {d : Vr} {srcs : List Vr} (h : s.w.Fits x d srcs) (hw : s.w.NoWindow x d) (i : Instr) (t : State) :
    s.blockChecked i x d srcs t = t := by
  rw [State.blockChecked, (blocksOk_iff _ _ _ _).2 h, if_neg (by simp), if_neg (by rw [any_isWindow_iff]; exact not_not_intro hw)]

/-! ### The results of a block (R82) -/

/-- A result for each register of a block of extent `rc` from register `o`, row by row: element `e` has the values `f e` in the lanes of `act`. -/
def blockWrites (rc : Nat × Nat) (o : Nat) (act : Word) (f : Nat → Nat → Word) : List RegWrite :=
  (List.range (rc.1 * rc.2)).map fun e => RegWrite.ofV ((blockRegs rc o).getD e 0) act (f e)

theorem blockWrites_regs (rc : Nat × Nat) (o : Nat) (act : Word) (f : Nat → Nat → Word) :
    (blockWrites rc o act f).map (·.reg) = (blockRegs rc o).map .v := by
  apply List.ext_getElem
  · simp [blockWrites, blockRegs_length]
  · intro n _ hn
    rw [List.length_map] at hn
    simp [blockWrites, RegWrite.ofV, hn]

theorem blockWrites_nodup {rc : Nat × Nat} {o : Nat} (h : blockOk rc o = true) (act : Word) (f : Nat → Nat → Word) :
    ((blockWrites rc o act f).map (·.reg)).Nodup := by
  rw [blockWrites_regs]
  exact (blockRegs_nodup h).map fun a b hab => RegId.v.inj hab

/-- The result for the register in row `m` and column `n` of the block. -/
theorem mem_blockWrites (rc : Nat × Nat) (o : Nat) (act : Word) (f : Nat → Nat → Word) {m n : Nat} (hm : m < rc.1) (hn : n < rc.2) :
    RegWrite.ofV (o + 8 * m + n) act (f (m * rc.2 + n)) ∈ blockWrites rc o act f := by
  have hlt : m * rc.2 + n < rc.1 * rc.2 :=
    calc m * rc.2 + n < (m + 1) * rc.2 := by rw [Nat.succ_mul]; omega
      _ ≤ rc.1 * rc.2 := Nat.mul_le_mul_right _ hm
  rw [← blockRegs_getD rc o m n hm hn]
  exact List.mem_map.2 ⟨_, List.mem_range.2 hlt, rfl⟩

/-- A word that sends the results of a block and retires. -/
theorem State.blockWrites_spec {s : State} (h : s.Here) (i : Instr) (pops : SMap Nat) (lat : Nat) {rc : Nat × Nat} {o : Nat}
    (ho : blockOk rc o = true) (f : Nat → Nat → Word) :
    let t := ((s.popped pops).modW fun w => w.pushAll lat (blockWrites rc o s.w.active f)).retire i
    s.OnlyWarp t ∧ s.Passed t i ∧ t.w.still = (s.w.freePops pops).still ∧
      (∀ m n, m < rc.1 → n < rc.2 → s.w.Gives t.w lat (.v (o + 8 * m + n)) fun l => (f (m * rc.2 + n) l).zeroExtend 64) ∧
      s.w.OnlyResults t.w ((blockRegs rc o).map .v) := by
  intro t
  obtain ⟨honly, hpass, hstill, hsends, hres⟩ := State.results_spec h i pops lat _ (blockWrites_nodup ho s.w.active f)
  rw [blockWrites_regs] at hres
  exact ⟨honly, hpass, hstill, fun m n hm hn => hsends _ (mem_blockWrites rc o s.w.active f hm hn), hres⟩

end Sys2Proof.Machine
end

section
/-! OBLIGATION. The lane-wise integer instructions (R85 to R92, R94, R95). -/

namespace Sys2Proof.Machine

theorem at_choice (c : Bool) (vals : Reads) (n e l : Nat) :
    vals.at_ ((if c then 0 else 1) * n + e) l = if c then vals.at_ e l else vals.at_ (n + e) l := by
  cases c <;> simp

/-- sel is a lane-wise instruction of two sources: the predicate of a lane says from which of them the lane takes its elements (R94). -/
theorem State.selectBlock_checked (s : State) (i : Instr) (x : Bx) (d a b : Vr) (p : Pr) :
    s.selectBlock i x d a b p = s.blockChecked i x d [a, b] (s.withSrcs i (s.w.sourceRegs x [a, b]) fun vals u =>
      (u.modW fun w => w.pushAll 2 (blockWrites (s.w.extent x) d.toNat u.w.active fun e l =>
        Reads.at_ vals ((if u.w.rdP p.toNat l then 0 else 1) * ((s.w.extent x).1 * (s.w.extent x).2) + e) l)).retire i) := by
  have hregs : s.w.sourceRegs x [a, b] = blockRegs (s.w.extent x) a.toNat ++ blockRegs (s.w.extent x) b.toNat := by simp [Warp.sourceRegs]
  simp only [at_choice, hregs, State.selectBlock, State.blockChecked, List.all_cons, List.all_nil, Bool.and_true, Bool.and_assoc]
  rfl

/-- A lane-wise integer instruction makes the checks of its row's blocks first. -/
theorem exec_intRow_checked {i : Instr} {r : LaneRow} (hi : intRow i = some r) (s : State) : ∃ t, exec i s = .next (s.blockChecked i r.x r.d r.srcs t) := by
  cases i <;> simp only [intRow, rowOf, reduceCtorEq, Option.some.injEq] at hi <;> subst hi
  case sel h d a b x p => exact ⟨_, congrArg Host.Outcome.next (s.selectBlock_checked _ x d a b p)⟩
  all_goals exact ⟨_, rfl⟩

theorem exec_floatRow_checked {i : Instr} {r : FloatRow} (hi : floatRow i = some r) (s : State) : ∃ t, exec i s = .next (s.blockChecked i r.x r.d r.srcs t) := by
  cases i <;> simp only [floatRow, fRow, reduceCtorEq, Option.some.injEq] at hi <;> subst hi
  all_goals exact ⟨_, rfl⟩

/-- Settles O2: every lane-wise instruction makes the two checks first, and each that fails is an illegal operand of all active lanes. -/
theorem blockTraps : Obligations.BlockTraps := by
  unfold Obligations.BlockTraps
  intro i x d srcs s hrow h hk
  obtain ⟨t, hex⟩ : ∃ t, exec i s = .next (s.blockChecked i x d srcs t) := by
    rcases hrow with ⟨r, hi, rfl, rfl, rfl⟩ | ⟨r, hi, rfl, rfl, rfl⟩
    · exact exec_intRow_checked hi s
    · exact exec_floatRow_checked hi s
  refine ⟨fun hf => ?_, fun hf hw => ?_⟩
  · rw [State.blockChecked_of_not_fits hf] at hex
    exact ⟨_, hex, State.trapped_trapAll h hk i _ _ _⟩
  · rw [State.blockChecked_of_window hf hw] at hex
    exact ⟨_, hex, State.trapped_trapAll h hk i _ _ _⟩

/-- A lane-wise integer instruction other than sel applies to the source elements of each lane a function that gives the exact value of its row, narrowed. -/
theorem exec_intRow {i : Instr} {r : LaneRow} (hi : intRow i = some r) (hok : i.fieldsOk = true) (s : State) :
    (∃ h d a b x p, i = .sel h d a b x p) ∨
    ∃ f : List Word → Word, exec i s = .next (s.lanewise i 2 r.x r.d r.srcs f) ∧
      ∀ l e, f ((List.range r.srcs.length).map e) = BitVec.ofInt 32 (r.value s.w l e) := by
  cases i <;> simp only [intRow, rowOf, reduceCtorEq, Option.some.injEq] at hi <;> subst hi
  case sel h d a b x p => exact .inl ⟨h, d, a, b, x, p, rfl⟩
  all_goals right
  case iadd => exact ⟨_, rfl, fun _ e => add_eq_ofInt (e 0) (e 1)⟩
  case isub => exact ⟨_, rfl, fun _ e => sub_eq_ofInt (e 0) (e 1)⟩
  case imul => exact ⟨_, rfl, fun _ e => mul_eq_ofInt (e 0) (e 1)⟩
  case imulhS => exact ⟨_, rfl, fun _ e => aluMulhS_eq (e 0) (e 1)⟩
  case imulhN => exact ⟨_, rfl, fun _ e => aluMulhN_eq (e 0) (e 1)⟩
  case imad => exact ⟨_, rfl, fun _ e => mulAdd_eq_ofInt (e 0) (e 1) (e 2)⟩
  case iaddi d a imm => exact ⟨_, rfl, fun _ e => add_signExtend_eq_ofInt (e 0) imm⟩
  case iminS => exact ⟨_, rfl, fun _ e => aluMinS_eq (e 0) (e 1)⟩
  case iminN => exact ⟨_, rfl, fun _ e => aluMinN_eq (e 0) (e 1)⟩
  case imaxS => exact ⟨_, rfl, fun _ e => aluMaxS_eq (e 0) (e 1)⟩
  case imaxN => exact ⟨_, rfl, fun _ e => aluMaxN_eq (e 0) (e 1)⟩
  case shl => exact ⟨_, rfl, fun _ e => aluShl_eq (e 0) (e 1)⟩
  case shr => exact ⟨_, rfl, fun _ e => aluShr_eq (e 0) (e 1)⟩
  case sar => exact ⟨_, rfl, fun _ e => aluSar_eq (e 0) (e 1)⟩
  case shli n => exact ⟨_, rfl, fun _ e => shiftLeft_eq_ofInt (e 0) n.toNat⟩
  case shri n => exact ⟨_, rfl, fun _ e => ushiftRight_eq_ofInt (e 0) n.toNat⟩
  case sari n => exact ⟨_, rfl, fun _ e => sshiftRight_eq_ofInt (e 0) n.toNat⟩
  case roti n => exact ⟨_, rfl, fun _ e => aluRot_eq (e 0) n⟩
  case and => exact ⟨_, rfl, fun _ e => eq_ofInt_of_toNat (BitVec.toNat_and (e 0) (e 1))⟩
  case or => exact ⟨_, rfl, fun _ e => eq_ofInt_of_toNat (BitVec.toNat_or (e 0) (e 1))⟩
  case xor => exact ⟨_, rfl, fun _ e => eq_ofInt_of_toNat (BitVec.toNat_xor (e 0) (e 1))⟩
  case andn => exact ⟨_, rfl, fun _ e => andn_eq_ofInt (e 0) (e 1)⟩
  case andi imm => exact ⟨_, rfl, fun _ e => (ofInt_toNat (e 0 &&& immW imm)).symm⟩
  case ori imm => exact ⟨_, rfl, fun _ e => (ofInt_toNat (e 0 ||| immW imm)).symm⟩
  case xori imm => exact ⟨_, rfl, fun _ e => (ofInt_toNat (e 0 ^^^ immW imm)).symm⟩
  case not => exact ⟨_, rfl, fun _ e => not_eq_ofInt (e 0)⟩
  case popc => exact ⟨_, rfl, fun _ e => aluPopc_eq (e 0)⟩
  case clz => exact ⟨_, rfl, fun _ e => aluClz_eq (e 0)⟩
  case brev => exact ⟨_, rfl, fun _ e => aluBrev_eq (e 0)⟩
  case iabs => exact ⟨_, rfl, fun _ e => aluAbs_eq (e 0)⟩
  case ineg => exact ⟨_, rfl, fun _ e => sub_eq_ofInt 0 (e 0)⟩
  case bfx pos len sx =>
    have hlen : 0 < len.toNat := by
      simp only [Instr.fieldsOk, Bool.and_eq_true, bne_iff_ne] at hok
      bv_omega
    exact ⟨_, rfl, fun _ e => aluBfx_eq (e 0) pos.toNat len.toNat sx hlen⟩
  case bfi pos len => exact ⟨_, rfl, fun _ e => aluBfi_eq (e 1) (e 0) pos.toNat len.toNat⟩
  case lea sh disp => exact ⟨_, rfl, fun _ e => aluLea_eq (e 0) (e 1) sh.toNat disp⟩
  case movi imm => exact ⟨_, rfl, fun _ _ => (ofInt_toNat imm).symm⟩
  case movk ka hi x => exact ⟨_, rfl, fun _ _ => halfK_eq_ofInt (s.w.rdK ka.toNat) hi⟩
  case idot4 mode => exact ⟨_, rfl, fun _ e => aluDot4_eq (e 2) (e 0) (e 1) mode⟩

/-- sel over blocks that stay in the plane: each element of a lane is that of the first source where the lane's predicate holds, else that of the second (R94). -/
theorem State.selectBlock_spec {s : State} (h : s.Here) (i : Instr) {x : Bx} {d a b : Vr} (p : Pr) {vals : Reads} {pops : SMap Nat}
    (hf : s.w.Fits x d [a, b]) (hw : s.w.NoWindow x d) (hr : s.w.readRegs (s.w.sourceRegs x [a, b]) [] = .ok (vals, pops)) :
    let t := s.selectBlock i x d a b p
    s.OnlyWarp t ∧ s.Passed t i ∧ t.w.still = (s.w.freePops pops).still ∧
      (∀ m n, m < (s.w.extent x).1 → n < (s.w.extent x).2 →
        s.w.Gives t.w 2 (.v (d.toNat + 8 * m + n)) fun l =>
          (s.w.elements x vals m n l (if s.w.rdP p.toNat l then 0 else 1)).zeroExtend 64) ∧
      s.w.OnlyResults t.w ((blockRegs (s.w.extent x) d.toNat).map .v) := by
  intro t
  have ht : t = _ := s.selectBlock_checked i x d a b p
  rw [State.blockChecked_of_ok hf hw, State.withSrcs_ok i hr, State.popped_w h] at ht
  rw [ht]
  exact State.blockWrites_spec h i pops 2 (hf.blockOk d List.mem_cons_self) fun e l =>
    vals.at_ ((if s.w.rdP p.toNat l then 0 else 1) * ((s.w.extent x).1 * (s.w.extent x).2) + e) l

/-- Settles O1: sel sends its block of chosen elements, and every other row is a lane-wise instruction of the row's exact value, narrowed. -/
theorem integerResults : Obligations.IntegerResults := by
  unfold Obligations.IntegerResults
  intro i r s vals pops hi hok h hf hw hr
  rcases exec_intRow hi hok s with ⟨hd, d, a, b, x, p, rfl⟩ | ⟨f, hex, hval⟩
  · obtain rfl : _ = r := Option.some.inj hi
    obtain ⟨honly, hpass, hstill, hgives, hres⟩ := State.selectBlock_spec h (.sel hd d a b x p) p hf hw hr
    refine ⟨_, rfl, honly, hpass, hstill, fun m n hm hn => ?_, hres⟩
    have hval : ∀ l, s.w.elements x vals m n l (if s.w.rdP p.toNat l then 0 else 1) =
        BitVec.ofInt 32 (if s.w.rdP p.toNat l then ((s.w.elements x vals m n l 0).toNat : Int) else (s.w.elements x vals m n l 1).toNat) := fun l => by
      split_ifs <;> rw [ofInt_toNat]
    simp only [← hval]
    exact hgives m n hm hn
  · obtain ⟨honly, hpass, hstill, hgives, hres⟩ := State.lanewise_spec h i 2 r.x r.d r.srcs f hf.blockOk hw hr
    refine ⟨_, hex, honly, hpass, hstill, fun m n hm hn => ?_, hres⟩
    simp only [← hval]
    exact hgives m n hm hn

end Sys2Proof.Machine
end

section
/-! SUPPORT. Uniform and predicate instructions (R93, R96 to R101): their functions give the exact values and conditions of the tables, and an instruction goes on once its sources are read. -/

namespace Sys2Proof.Machine

/-! ### The uniform functions (Table 4.8) -/

theorem kluShl_eq (a b : DWord) : kluShl a b = BitVec.ofInt 64 (if b.toNat < 64 then (a.toNat : Int) * 2 ^ b.toNat else 0) := by
  rw [kluShl]
  split_ifs
  · exact shiftLeft_eq_ofInt a _
  · rfl

theorem kluShr_eq (a b : DWord) : kluShr a b = BitVec.ofInt 64 (if b.toNat < 64 then (a.toNat : Int) / 2 ^ b.toNat else 0) := by
  rw [kluShr]
  split_ifs
  · exact ushiftRight_eq_ofInt a _
  · rfl

theorem kcmpHolds_eq (c : KCond) (a b : DWord) : kcmpHolds c a b = kHolds c a b := by
  cases c with
  | eq => exact Bool.eq_iff_iff.2 (by simp [kcmpHolds, kHolds])
  | ne => exact Bool.eq_iff_iff.2 (by simp [kcmpHolds, kHolds])
  | ltS => rfl
  | ltN => rfl

/-- A condition as a number. -/
theorem boolValue_eq_ofInt {n : Nat} (c : Bool) : (if c then 1 else 0) = BitVec.ofInt n (if c then 1 else 0) := by
  cases c
  · exact eq_ofInt_of_toNat (x := 0) (by simp)
  · exact (BitVec.ofInt_natCast n 1).symm

theorem zeroExtend_eq_ofInt (x : Word) : x.zeroExtend 64 = BitVec.ofInt 64 (x.toNat : Int) :=
  eq_ofInt_of_toNat (BitVec.toNat_setWidth_of_le (by norm_num))

/-! ### Predicates (Table 4.7, R93) -/

theorem icmpHolds_iff (c : ICond) (a b : Word) : icmpHolds c a b = true ↔ iHolds c a b := by
  cases c <;> simp [icmpHolds, iHolds]

theorem combine_iff {c : Comb} {x q : Bool} {p : Prop} (h : x = true ↔ p) : combine c x q = true ↔ joined c p (q = true) := by
  cases c with
  | only => exact h
  | and => rw [combine, Bool.and_eq_true, h]; rfl
  | or => rw [combine, Bool.or_eq_true, h]; rfl
  | xor =>
    rw [combine, joined, ← h]
    cases x <;> cases q <;> simp

/-! ### Reading the sources -/

/-- An instruction that reads its sources, once they are read. -/
theorem exec_withSrcs {i : Instr} {s : State} {regs : List Nat} {k : Reads → State → State} {vals : Reads} {pops : SMap Nat}
    (hex : exec i s = .next (s.withSrcs i regs k)) (hr : s.w.readRegs regs [] = .ok (vals, pops)) : exec i s = .next (k vals (s.popped pops)) := by
  rw [hex, State.withSrcs_ok i hr]

theorem Warp.pops_eq_nil {w : Warp} {vals : Reads} {pops : SMap Nat} (h : w.readRegs [] [] = .ok (vals, pops)) : pops = [] := by
  cases h
  rfl

end Sys2Proof.Machine
end

section
/-! OBLIGATION. The uniform and the predicate instructions, vtop and icmp (R93, R96 to R101). -/

namespace Sys2Proof.Machine

/-- A uniform instruction sends, once its sources are read, the exact value of its row, narrowed. -/
theorem exec_uniRow {i : Instr} {r : UniRow} (hi : uniRow i = some r) {s : State} (h : s.Here) {vals : Reads} {pops : SMap Nat}
    (hr : s.w.readRegs (r.srcs.map (·.toNat)) [] = .ok (vals, pops)) :
    exec i s = .next ((s.popped pops).uniform i 2 r.kd (BitVec.ofInt 64 (r.value s.w vals))) := by
  have sent {i : Instr} {kd : Kr} {x y : DWord} (hxy : x = y) :
      (.next ((s.popped pops).uniform i 2 kd x) : Out) = .next ((s.popped pops).uniform i 2 kd y) := by rw [hxy]
  cases i <;> simp only [uniRow, kRow2, reduceCtorEq, Option.some.injEq] at hi <;> subst hi
  case kfromv hd kd va lane f =>
    refine (exec_withSrcs rfl hr).trans ?_
    rw [State.popped_w h]
    refine sent ?_
    cases f with
    | zext => exact zeroExtend_eq_ofInt _
    | sext => rfl
    | hi => exact high_or_low _ _
  all_goals obtain rfl := Warp.pops_eq_nil hr
  case kadd => exact sent (add_eq_ofInt _ _)
  case ksub => exact sent (sub_eq_ofInt _ _)
  case kmul => exact sent (mul_eq_ofInt _ _)
  case kand => exact sent (eq_ofInt_of_toNat (BitVec.toNat_and _ _))
  case kor => exact sent (eq_ofInt_of_toNat (BitVec.toNat_or _ _))
  case kxor => exact sent (eq_ofInt_of_toNat (BitVec.toNat_xor _ _))
  case kshl => exact sent (kluShl_eq _ _)
  case kshr => exact sent (kluShr_eq _ _)
  case kaddi imm => exact sent (add_signExtend_eq_ofInt _ imm)
  case kset f imm =>
    refine sent ?_
    cases f with
    | sext => rfl
    | zext => exact zeroExtend_eq_ofInt imm
    | hi => exact high_or_low imm _
  case kcmp c =>
    refine sent ?_
    rw [kcmpHolds_eq]
    exact boolValue_eq_ofInt _
  case kmov => exact sent (ofInt_toNat _).symm

/-- An instruction of a predicate sends, once its sources are read, whether the condition of its row holds. -/
theorem exec_predRow {i : Instr} {r : PredRow} (hi : predRow i = some r) {s : State} (h : s.Here) {vals : Reads} {pops : SMap Nat}
    (hr : s.w.readRegs (r.srcs.map (·.toNat)) [] = .ok (vals, pops)) :
    ∃ f : Nat → Bool, exec i s = .next ((s.popped pops).predicate i 2 r.p f) ∧ ∀ l, f l = true ↔ r.holds s.w vals l := by
  cases i <;> simp only [predRow, pRow, reduceCtorEq, Option.some.injEq] at hi <;> subst hi
  case vtop hd p va =>
    exact ⟨fun l => vals.at_ 0 l != 0, (exec_withSrcs rfl hr).trans rfl, fun l => bne_iff_ne⟩
  case icmp hd p a b c comb q =>
    refine ⟨fun l => combine comb (icmpHolds c (vals.at_ 0 l) (vals.at_ 1 l)) (s.w.rdP q.toNat l), ?_, fun l => combine_iff (icmpHolds_iff c _ _)⟩
    refine (exec_withSrcs rfl hr).trans ?_
    rw [State.popped_w h]
    rfl
  all_goals obtain rfl := Warp.pops_eq_nil hr
  case pand => exact ⟨_, rfl, fun l => Bool.and_eq_true_iff⟩
  case por => exact ⟨_, rfl, fun l => Bool.or_eq_true_iff⟩
  case pxor => exact ⟨_, rfl, fun l => bne_iff_ne⟩
  case pandn => exact ⟨_, rfl, fun l => Bool.and_eq_true_iff.trans (and_congr_right' (Bool.not_eq_true' _).to_iff)⟩
  case pclr => exact ⟨_, rfl, fun l => iff_of_false Bool.false_ne_true id⟩
  case pset => exact ⟨_, rfl, fun l => iff_of_true rfl trivial⟩
  case pnot => exact ⟨_, rfl, fun l => (Bool.not_eq_true' _).to_iff⟩
  case pmov => exact ⟨_, rfl, fun l => Iff.rfl⟩

/-- Settles O3: once the sources are read, a uniform row is one k result and a predicate row one predicate result, each of the row's value. -/
theorem uniformAndPredicateResults : Obligations.UniformAndPredicateResults := by
  unfold Obligations.UniformAndPredicateResults
  refine ⟨fun i r s vals pops hi h hr => ⟨_, exec_uniRow hi h hr, State.uniform_spec h i pops 2 r.kd _⟩, fun i r s vals pops hi h hr => ?_⟩
  obtain ⟨f, hex, hval⟩ := exec_predRow hi h hr
  obtain ⟨honly, hpass, hstill, hgives, hres⟩ := State.predicate_spec h i pops 2 r.p f
  exact ⟨_, hex, honly, hpass, hstill, ⟨f, hval, hgives⟩, hres⟩

end Sys2Proof.Machine
end

section
/-! SUPPORT. Masks as sets of lanes: the lanes of a mask, the mask of some lanes, and how many they are. -/

namespace Sys2Proof

/-- The mask of one lane. -/
theorem getLsbD_one_shiftLeft (a i : Nat) : (1#32 <<< a).getLsbD i = decide (i < 32 ∧ i = a) := by
  rw [BitVec.getLsbD_shiftLeft, BitVec.getLsbD_one, Bool.eq_iff_iff]
  simp only [Bool.and_eq_true, Bool.not_eq_true', decide_eq_true_eq, decide_eq_false_iff_not]
  omega

theorem getLsbD_foldl_or (ls : List Nat) (m : Word) (i : Nat) :
    (ls.foldl (fun m l => m ||| (1#32 <<< l)) m).getLsbD i = (m.getLsbD i || decide (i < 32 ∧ i ∈ ls)) := by
  induction ls generalizing m with
  | nil => simp
  | cons a t ih =>
    rw [List.foldl_cons, ih, BitVec.getLsbD_or, Bool.or_assoc]
    congr 1
    rw [getLsbD_one_shiftLeft, ← Bool.decide_or]
    simp only [List.mem_cons, and_or_left]

theorem getLsbD_maskOf (ls : List Nat) (i : Nat) : (maskOf ls).getLsbD i = decide (i < 32 ∧ i ∈ ls) := by
  rw [maskOf, getLsbD_foldl_or, BitVec.getLsbD_zero, Bool.false_or]

/-- Lanes chosen from those of a mask are the lanes of their own mask. -/
theorem lanesOf_maskOf_filter (m : Word) (p : Nat → Bool) : lanesOf (maskOf ((lanesOf m).filter p)) = (lanesOf m).filter p := by
  rw [lanesOf, lanesOf, List.filter_filter]
  refine List.filter_congr fun l hl => ?_
  have hl : l < 32 := List.mem_range.1 hl
  rw [getLsbD_maskOf, Bool.eq_iff_iff]
  simp [hl, lanes]

theorem lanesOf_injective : Function.Injective lanesOf := by
  intro a b h
  refine BitVec.eq_of_getLsbD_eq fun i hi => Bool.eq_iff_iff.2 ?_
  have hmem (m : Word) : m.getLsbD i = true ↔ i ∈ lanesOf m := by simp [mem_lanesOf, hi]
  rw [hmem, hmem, h]

/-- The mask of different lanes is the sum of their bits. -/
theorem foldl_or_eq_add_sum (ls : List Nat) (m : Word) (hn : ls.Nodup) (hm : ∀ l ∈ ls, m.getLsbD l = false) :
    ls.foldl (fun m l => m ||| (1#32 <<< l)) m = m + BitVec.ofNat 32 (ls.map fun l => 2 ^ l).sum := by
  induction ls generalizing m with
  | nil => simp
  | cons a t ih =>
    obtain ⟨hat, hnt⟩ := List.nodup_cons.1 hn
    have hdisj : m &&& (1#32 <<< a) = 0#32 := by
      refine BitVec.eq_of_getLsbD_eq fun i _ => ?_
      rw [BitVec.getLsbD_and, BitVec.getLsbD_zero, getLsbD_one_shiftLeft]
      by_cases hi : i = a
      · rw [hi, hm a List.mem_cons_self, Bool.false_and]
      · simp [hi]
    have hone : 1#32 <<< a = BitVec.ofNat 32 (2 ^ a) := BitVec.eq_of_toNat_eq (by simp [Nat.shiftLeft_eq])
    rw [List.foldl_cons, ih _ hnt, ← BitVec.add_eq_or_of_and_eq_zero _ _ hdisj, List.map_cons, List.sum_cons, BitVec.ofNat_add, hone, BitVec.add_assoc]
    intro l hl
    have hla : l ≠ a := fun h => hat (h ▸ hl)
    rw [BitVec.getLsbD_or, hm l (List.mem_cons_of_mem _ hl), getLsbD_one_shiftLeft]
    simp [hla]

theorem maskOf_eq_sum {ls : List Nat} (hn : ls.Nodup) : maskOf ls = BitVec.ofNat 32 (ls.map fun l => 2 ^ l).sum := by
  rw [maskOf, foldl_or_eq_add_sum ls _ hn fun _ _ => BitVec.getLsbD_zero, BitVec.zero_add]

theorem popCount_eq_lanes (m : Word) : popCount 32 m.toNat = (lanesOf m).length := by
  rw [popCount_eq]
  simp only [bitAt_toNat]
  rfl

end Sys2Proof
end

section
/-! SUPPORT. Values of the exchanges between lanes (R101, R102, R105 to R109). -/

namespace Sys2Proof.Machine

/-! ### Quads (R102, R105, R106) -/

theorem helperVal_eq (w : Warp) (a : Nat → Word) (x : Nat) : helperVal w.active w.helper a x = offered w a x := by
  unfold helperVal offered
  split_ifs
  · rfl
  · cases w.helper with
    | copy => simp only [quadActive, List.headD_eq_head?_getD, List.head?_filter]
    | zero => rfl
    | nan => rfl

/-- Turning low bits of a lane number stays in the lane's quad. -/
theorem xor_in_quad (l : Nat) {k : Nat} (hk : k < 4) : l ^^^ k = l / 4 * 4 + (l % 4 ^^^ k) := by
  have hdiv : (l ^^^ k) / 4 = l / 4 := by
    rw [show 4 = 2 ^ 2 from rfl, Nat.xor_div_two_pow, Nat.div_eq_of_lt (a := k) hk, Nat.xor_zero]
  have hmod : (l ^^^ k) % 4 = l % 4 ^^^ k := by
    rw [show 4 = 2 ^ 2 from rfl, Nat.xor_mod_two_pow, Nat.mod_eq_of_lt (a := k) hk]
  rw [← hmod, ← hdiv]
  omega

/-- The lane of the same quad that a qswp exchanges with (R105). -/
theorem xor_one_eq (l : Nat) : l ^^^ 1 = l / 2 * 2 + (1 - l % 2) := by
  rw [xor_in_quad l (by norm_num)]
  have h : l % 4 < 4 := Nat.mod_lt _ (by norm_num)
  interval_cases hr : l % 4 <;> simp <;> omega

theorem xor_two_eq (l : Nat) : l ^^^ 2 = l / 4 * 4 + (l % 4 + 2) % 4 := by
  rw [xor_in_quad l (by norm_num)]
  have h : l % 4 < 4 := Nat.mod_lt _ (by norm_num)
  interval_cases l % 4 <;> rfl

theorem xor_three_eq (l : Nat) : l ^^^ 3 = l / 4 * 4 + (3 - l % 4) := by
  rw [xor_in_quad l (by norm_num)]
  have h : l % 4 < 4 := Nat.mod_lt _ (by norm_num)
  interval_cases l % 4 <;> rfl

/-! ### Votes (R108) -/

section Votes
variable (act : Word) (a : Nat → Word)

/-- The active lanes that vote yes. -/
def yesLanes : List Nat := (lanesOf act).filter fun l => a l != 0

theorem lanesOf_yes : lanesOf (maskOf (yesLanes act a)) = yesLanes act a := lanesOf_maskOf_filter act _

theorem voteOf_ballot : voteOf .ballot act a = BitVec.ofNat 32 ((yesLanes act a).map fun l => 2 ^ l).sum :=
  maskOf_eq_sum ((lanesOf_nodup act).filter _)

theorem voteOf_all : voteOf .all act a = if yesLanes act a = lanesOf act then 1 else 0 := by
  have h : maskOf (yesLanes act a) = act ↔ yesLanes act a = lanesOf act := by rw [← lanesOf_injective.eq_iff, lanesOf_yes]
  exact if_congr h rfl rfl

theorem voteOf_any : voteOf .any act a = if yesLanes act a = [] then 0 else 1 := by
  have h : maskOf (yesLanes act a) = 0 ↔ yesLanes act a = [] := by
    rw [← lanesOf_injective.eq_iff, lanesOf_yes]
    rfl
  exact if_congr h rfl rfl

theorem voteOf_count : voteOf .count act a = BitVec.ofNat 32 (yesLanes act a).length := by
  rw [← lanesOf_yes, ← popCount_eq_lanes]
  rfl

end Votes

/-! ### Reductions (R109) -/

theorem redStep_eq (op : RedOp) (x y : Word) : redStep op x y = redPair op x y := by
  cases op with
  | maxS =>
    simp only [redStep, redPair, aluMaxS_eq, max_def']
    split_ifs <;> rw [BitVec.ofInt_toInt]
  | maxN =>
    simp only [redStep, redPair, aluMaxN_eq, max_def', Nat.cast_le]
    split_ifs <;> rw [ofInt_toNat]
  | _ => rfl

theorem reduceOf_nil {op : RedOp} {act : Word} {a : Nat → Word} (h : lanesOf act = []) : reduceOf op act a = 0 := by
  rw [reduceOf, h]
  rfl

theorem reduceOf_cons {op : RedOp} {act : Word} {a : Nat → Word} {l : Nat} {ls : List Nat} (h : lanesOf act = l :: ls) :
    reduceOf op act a = ls.foldl (fun x y => redPair op x (a y)) (a l) := by
  rw [reduceOf, h]
  simp only [List.map_cons, List.foldl_map, redStep_eq]

end Sys2Proof.Machine
end

section
/-! OBLIGATION. ptov and the exchanges between lanes (R101, R102, R105 to R109). -/

namespace Sys2Proof.Machine

/-- ptov and every exchange write one v register, in each active lane the value of its row. -/
theorem exec_crossRow {i : Instr} {r : CrossRow} (hi : crossRow i = some r) (s : State) :
    ∃ f : Reads → Nat → Word, exec i s = .next (s.crosslane i r.lat r.d r.srcs f) ∧ ∀ vals l, f vals l = r.value s.w vals l := by
  cases i <;> simp only [crossRow, reduceCtorEq, Option.some.injEq] at hi <;> subst hi
  case ptov => exact ⟨_, rfl, fun _ _ => rfl⟩
  case qswp dir =>
    refine ⟨_, rfl, fun vals l => (helperVal_eq s.w (vals.at_ 0) _).trans (congrArg (offered s.w (vals.at_ 0)) ?_)⟩
    cases dir with
    | h => exact xor_one_eq l
    | v => exact xor_two_eq l
    | dg => exact xor_three_eq l
  case qbc n =>
    refine ⟨_, rfl, fun vals l => (helperVal_eq s.w (vals.at_ 0) _).trans ?_⟩
    rw [Nat.mul_comm]
  case wshf => exact ⟨_, rfl, fun _ _ => rfl⟩
  case wshx m =>
    refine ⟨_, rfl, fun _ _ => ?_⟩
    cases m <;> rfl
  case wvote m =>
    refine ⟨_, rfl, fun vals l => ?_⟩
    cases m with
    | ballot => exact voteOf_ballot s.w.active (vals.at_ 0)
    | all => exact voteOf_all s.w.active (vals.at_ 0)
    | any => exact voteOf_any s.w.active (vals.at_ 0)
    | count => exact voteOf_count s.w.active (vals.at_ 0)
  case wred op =>
    refine ⟨_, rfl, fun vals l => ?_⟩
    dsimp only
    cases h : lanesOf s.w.active with
    | nil => exact reduceOf_nil h
    | cons l ls => exact reduceOf_cons h

/-- Settles O4: ptov and every exchange are one v result, in each active lane the value of the row. -/
theorem exchangeResults : Obligations.ExchangeResults := by
  unfold Obligations.ExchangeResults
  intro i r s vals pops hi h hw hr
  obtain ⟨f, hex, hval⟩ := exec_crossRow hi s
  obtain ⟨honly, hpass, hstill, hgives, hres⟩ := State.crosslane_spec h i r.lat r.d r.srcs f hw hr
  simp only [hval] at hgives
  exact ⟨_, hex, honly, hpass, hstill, hgives, hres⟩

end Sys2Proof.Machine
end

section
/-! SUPPORT. Words that accrue flags and underflow counts as they send their results (R126, R136, R139). -/

namespace Sys2Proof

/-- Writing a value for each lane of a mask. -/
theorem get_foldl_put_lanes {α : Type} (d : α) (f : Nat → α) (act : Word) (m : SMap α) {l : Nat} (hl : l < 32) :
    SMap.get d ((lanesOf act).foldl (fun m l => SMap.put m l (f l)) m) l = if act.getLsbD l then f l else SMap.get d m l :=
  (get_foldl_put d f (lanesOf act) m l).trans (if_congr ((mem_lanesOf act l).trans (and_iff_right hl)) rfl rfl)

/-- Changing the value of each of some different keys. -/
theorem get_foldl_update {α : Type} (d : α) (g : Nat → α → α) {ls : List Nat} (hn : ls.Nodup) (m : SMap α) (l : Nat) :
    SMap.get d (ls.foldl (fun m l => SMap.put m l (g l (SMap.get d m l))) m) l = if l ∈ ls then g l (SMap.get d m l) else SMap.get d m l := by
  induction ls generalizing m with
  | nil => simp
  | cons a t ih =>
    obtain ⟨hat, hnt⟩ := List.nodup_cons.1 hn
    rw [List.foldl_cons, ih hnt]
    by_cases hla : l = a
    · subst hla
      simp [hat]
    · simp [hla, SMap.get_put]

/-- A bit of a fold of words by or. -/
theorem getLsbD_foldl_or_iff {α : Type} {n : Nat} (f : α → BitVec n) (xs : List α) (m : BitVec n) (b : Nat) :
    (xs.foldl (fun m x => m ||| f x) m).getLsbD b = true ↔ m.getLsbD b = true ∨ ∃ x ∈ xs, (f x).getLsbD b = true := by
  induction xs generalizing m with
  | nil => simp
  | cons x t ih =>
    rw [List.foldl_cons, ih, BitVec.getLsbD_or, Bool.or_eq_true, or_assoc]
    simp only [List.mem_cons, exists_eq_or_imp]

namespace Machine

/-! ### Flags and counts -/

/-- The flags after a word that raises `fl l` in each active lane `l`. -/
def Warp.flagsWith (w : Warp) (fl : Nat → FFlags) : SMap (BitVec 6) := (w.raise fl).axf

/-- The saturating underflow counts after a word that counts `n l` in each active lane `l` (R126). -/
def Warp.countsWith (w : Warp) (n : Nat → Nat) : SMap (BitVec 16) :=
  (lanesOf w.active).foldl (fun m l => SMap.put m l (BitVec.ofNat 16 (min 0xFFFF ((SMap.get 0 m l).toNat + n l)))) w.ucount

theorem Warp.get_flagsWith (w : Warp) (fl : Nat → FFlags) {l : Nat} (hl : l < 32) :
    SMap.get 0 (w.flagsWith fl) l = if w.active.getLsbD l then w.rdAxf l ||| fl l else w.rdAxf l :=
  get_foldl_put_lanes 0 (fun l => SMap.get 0 w.axf l ||| fl l) w.active w.axf hl

/-- The flags of a lane after a word that raises several sets of them in it. -/
theorem Warp.get_flagsWith_bit (w : Warp) (n : Nat → Nat) (fl : Nat → Nat → FFlags) {l : Nat} (hl : l < 32) (b : Nat) :
    (SMap.get 0 (w.flagsWith fun l => (List.range (n l)).foldl (fun x j => x ||| fl j l) 0) l).getLsbD b = true ↔
      (w.rdAxf l).getLsbD b = true ∨ w.active.getLsbD l = true ∧ ∃ j, j < n l ∧ (fl j l).getLsbD b = true := by
  rw [w.get_flagsWith _ hl]
  cases w.active.getLsbD l with
  | false => simp
  | true =>
    rw [if_pos rfl, BitVec.getLsbD_or, Bool.or_eq_true, getLsbD_foldl_or_iff]
    simp

theorem Warp.get_countsWith (w : Warp) (n : Nat → Nat) {l : Nat} (hl : l < 32) :
    (SMap.get 0 (w.countsWith n) l).toNat =
      if w.active.getLsbD l then min 65535 ((SMap.get 0 w.ucount l).toNat + n l) else (SMap.get 0 w.ucount l).toNat := by
  rw [Warp.countsWith, get_foldl_update 0 (fun l x => BitVec.ofNat 16 (min 0xFFFF (x.toNat + n l))) (lanesOf_nodup w.active)]
  simp only [mem_lanesOf, hl, true_and]
  split_ifs
  · rw [BitVec.toNat_ofNat, Nat.mod_eq_of_lt (by omega)]
  · rfl

/-- The warp with other flags and underflow counts. -/
def Warp.withFlags (w : Warp) (axf : SMap (BitVec 6)) (counts : SMap (BitVec 16)) : Warp := { w with axf := axf, ucount := counts }

section
variable {t w : Warp} {pops : SMap Nat} {axf : SMap (BitVec 6)} {counts : SMap (BitVec 16)}

/-- With its old flags and counts a warp that has accrued some stays as it was but for its pops. -/
theorem Warp.still_of_accrued (h : t.still = ((w.freePops pops).withFlags axf counts).still) :
    { t with axf := w.axf, ucount := w.ucount }.still = (w.freePops pops).still :=
  congrArg (fun u => u.withFlags w.axf w.ucount) h

theorem Warp.still_of_flagged (h : t.still = ((w.freePops pops).withFlags axf w.ucount).still) : { t with axf := w.axf }.still = (w.freePops pops).still :=
  congrArg (fun u => { u with axf := w.axf }) h

theorem Warp.still_of_counted (h : t.still = ((w.freePops pops).withFlags w.axf counts).still) : { t with ucount := w.ucount }.still = (w.freePops pops).still :=
  congrArg (fun u => { u with ucount := w.ucount }) h

end

theorem Warp.axf_of_still {t u : Warp} (h : t.still = u.still) (l : Nat) : t.rdAxf l = SMap.get 0 u.axf l := by
  obtain ⟨-, -, -, -, haxf, -⟩ := Warp.fields_of_still h
  rw [Warp.rdAxf, haxf]

theorem Warp.ucount_of_still {t u : Warp} (h : t.still = u.still) : t.ucount = u.ucount := by
  obtain ⟨-, -, -, -, -, hcount, -⟩ := Warp.fields_of_still h
  exact hcount

/-! ### Results with flags -/

/-- What holds after a word that frees its pops, leaves flags `axf` and underflow counts `counts`, sends results `rs` with latency `lat` and retires. -/
theorem State.accrued_spec {s : State} (h : s.Here) (i : Instr) (lat : Nat) (pops : SMap Nat) (axf : SMap (BitVec 6)) (counts : SMap (BitVec 16))
    (rs : List RegWrite) (hn : (rs.map (·.reg)).Nodup) :
    let t := (s.setW (((s.w.freePops pops).withFlags axf counts).pushAll lat rs)).retire i
    s.OnlyWarp t ∧ s.Passed t i ∧ t.w.still = ((s.w.freePops pops).withFlags axf counts).still ∧
      (∀ r ∈ rs, s.w.Sends t.w lat r) ∧ s.w.OnlyResults t.w (rs.map (·.reg)) := by
  intro t
  obtain ⟨hsends, hres, hstill, hspec, hdef, hpc, -⟩ := Warp.pushAll_spec ((s.w.freePops pops).withFlags axf counts) lat rs hn
  obtain ⟨honly, hpass, hstays, hpend⟩ := State.modW_retire_spec h (fun w => ((w.freePops pops).withFlags axf counts).pushAll lat rs) i hpc hdef hspec
  rw [State.modW_eq h] at honly hpass hstays hpend
  have hu : t.w.under = (((s.w.freePops pops).withFlags axf counts).pushAll lat rs).under := by
    funext r n
    exact congrArg (List.filter _) hpend
  refine ⟨honly, hpass, hstays.trans hstill, fun r hr => ?_, fun r n hr => ?_⟩
  · obtain ⟨hin, hyield⟩ := hsends r hr
    exact ⟨hpend ▸ hin, hu ▸ hyield⟩
  · rw [hu]
    exact hres r n hr

end Machine
end Sys2Proof
end

section
/-! OBLIGATION. Underflow counts and the modes of FPC (R126, R133, R152). -/

namespace Sys2Proof.Machine

/-- The counts that fzct leaves (R133). -/
def Warp.countsPast (w : Warp) (peek : Bool) : SMap (BitVec 16) :=
  if peek then w.ucount else (lanesOf w.active).foldl (fun m l => SMap.put m l 0) w.ucount

theorem Warp.get_countsPast (w : Warp) (peek : Bool) {l : Nat} (hl : l < 32) :
    SMap.get 0 (w.countsPast peek) l = if w.active.getLsbD l && !peek then 0 else SMap.get 0 w.ucount l := by
  cases peek with
  | true => simp [Warp.countsPast]
  | false => simpa [Warp.countsPast] using get_foldl_put_lanes 0 (fun _ => 0) w.active w.ucount hl

/-- fzct is one v result of a warp with the counts it leaves. -/
theorem exec_fzct (h : Hdr) (d : Vr) (peek : Bool) {s : State} (hh : s.Here) (hw : s.w.isWindow d.toNat = false) :
    exec (.fzct h d peek) s = .next ((s.setW (((s.w.freePops []).withFlags s.w.axf (s.w.countsPast peek)).pushAll 4
      [RegWrite.ofV d.toNat s.w.active fun l => (SMap.get 0 s.w.ucount l).zeroExtend 32])).retire (.fzct h d peek)) := by
  refine congrArg Host.Outcome.next ((if_neg (by simp [hw])).trans ?_)
  rw [State.modW_eq hh]
  cases peek <;> rfl

/-- fsetm is one v result of FPC as it stands and a write that waits for the group's end. -/
theorem exec_fsetm (h : Hdr) (d : Vr) (m v : BitVec 4) {s : State} (hh : s.Here) (hw : s.w.isWindow d.toNat = false) :
    ∃ xs, exec (.fsetm h d m v) s = .next ((s.modW fun w =>
      { w.push 4 (RegWrite.ofV d.toNat s.w.active fun _ => s.w.fpc.zeroExtend 32) with deferred := xs }).retire (.fsetm h d m v)) := by
  refine ⟨s.w.deferred ++ [.fpc m v], congrArg Host.Outcome.next ((if_neg (by simp [hw])).trans ?_)⟩
  rw [State.modW_eq hh, State.modW_eq hh]

/-- A word that sends one result, leaves writes to wait for its group's end, and retires. -/
theorem State.push_deferring_spec {s : State} (h : s.Here) (i : Instr) (lat : Nat) (r : RegWrite) (xs : List SpecialWrite) :
    let t := (s.modW fun w => { w.push lat r with deferred := xs }).retire i
    s.OnlyWarp t ∧ t.w.still = s.w.still ∧ s.w.Sends t.w lat r ∧ s.w.OnlyResults t.w [r.reg] := by
  intro t
  obtain ⟨honly, -, hstill, hpend⟩ := State.retire_spec (State.modW_isSome h fun w => { w.push lat r with deferred := xs }) i
  rw [State.modW_w h] at hstill hpend
  have hu : t.w.under = (s.w.push lat r).under := by
    funext r n
    exact congrArg (List.filter _) hpend
  obtain ⟨hin, hyield⟩ := s.w.push_sends lat r
  refine ⟨honly.of_modW h, hstill.trans (s.w.push_still lat r), ⟨hpend ▸ hin, hu ▸ hyield⟩, fun r' n hr => ?_⟩
  rw [hu]
  exact s.w.under_push lat r r' n (hr.imp id fun hr he => hr (List.mem_singleton.2 he))

/-- Settles O11: fzct is a result of the counts and a change of them alone, fsetm a result of FPC and a write that waits. -/
theorem countsAndModes : Obligations.CountsAndModes := by
  unfold Obligations.CountsAndModes
  refine ⟨fun h d peek s hh hw => ?_, fun h d m v s hh hw => ?_⟩
  · obtain ⟨honly, hpass, hstill, hsends, hres⟩ := State.accrued_spec hh (.fzct h d peek) 4 [] s.w.axf (s.w.countsPast peek)
      [RegWrite.ofV d.toNat s.w.active fun l => (SMap.get 0 s.w.ucount l).zeroExtend 32] (List.nodup_singleton _)
    refine ⟨_, exec_fzct h d peek hh hw, honly, hpass, ?_, hsends _ List.mem_cons_self, hres, fun l hl => ?_⟩
    · exact Warp.still_of_counted hstill
    · rw [Warp.ucount_of_still hstill]
      exact s.w.get_countsPast peek hl
  · obtain ⟨xs, hex⟩ := exec_fsetm h d m v hh hw
    obtain ⟨honly, hstill, hsends, hres⟩ := State.push_deferring_spec hh (.fsetm h d m v) 4 (RegWrite.ofV d.toNat s.w.active fun _ => s.w.fpc.zeroExtend 32) xs
    exact ⟨_, hex, honly, hstill, hsends, hres⟩

end Sys2Proof.Machine
end

section
/-! OBLIGATION. fpack, funpk and fsca on sound format words (R115, R129, R130, R132). -/

namespace Sys2Proof.Machine

/-- The first register of several that can be read can be read alone. -/
theorem Warp.readRegs_head {w : Warp} {r : Nat} {rs : List Nat} {cur pops : SMap Nat} {vals : Reads} (h : w.readRegs (r :: rs) cur = .ok (vals, pops)) :
    ∃ c, w.readRegs [r] cur = .ok ([vals.at_ 0], c) := by
  simp only [Warp.readRegs] at h ⊢
  split at h
  · rw [if_pos ‹_›]
    split at h
    · cases h
    · split at h
      · cases h
      · rw [if_neg ‹_›]
        split at h
        · cases h
        · cases h
          exact ⟨_, rfl⟩
  · rw [if_neg ‹_›]
    split at h
    · cases h
    · cases h
      exact ⟨_, rfl⟩

theorem Warp.push_accrued (w : Warp) (pops : SMap Nat) (fl : Nat → FFlags) (n : Nat → Nat) (lat d : Nat) (f : Nat → Word) :
    ({ (w.freePops pops).raise fl with ucount := w.countsWith n } : Warp).push lat (RegWrite.ofV d w.active f) =
      ((w.freePops pops).withFlags (w.flagsWith fl) (w.countsWith n)).pushAll lat [RegWrite.ofV d w.active f] := rfl

/-- The most elements that the format word of an active lane has. -/
def mostElements (act : Word) (fw : Nat → Nat) : Nat := (lanesOf act).foldl (fun k l => max k (fwCount (fw l))) 0

/-- The position of a container group is met where it is the first, or where some active lane has containers of one bit (R129). -/
theorem packPos_ok {act : Word} {fw : Nat → Nat} {pos : BitVec 2} (h : pos = 0 ∨ ∃ l, l < 32 ∧ act.getLsbD l = true ∧ fwCw (fw l) = 1) :
    ¬ (pos ≠ 0 ∧ ((lanesOf act).all fun l => fwCw (fw l) != 1) = true) := by
  rintro ⟨hpos, hall⟩
  obtain ⟨l, hl, hact, hcw⟩ := h.resolve_left hpos
  have := List.all_eq_true.1 hall l ((mem_lanesOf _ _).2 ⟨hl, hact⟩)
  simp [hcw] at this

/-- fpack, past its checks, is one v result of a warp with the flags and counts of its elements. -/
theorem exec_fpack (h : Hdr) (d a b : Vr) (pos : BitVec 2) (kseed : Kr) {s : State} {vals : Reads} {pops : SMap Nat} (hh : s.Here)
    (hw : s.w.isWindow d.toNat = false) (hbad : fwBad true s.w.active (vals.at_ 0) = [])
    (hpos : pos = 0 ∨ ∃ l, l < 32 ∧ s.w.active.getLsbD l = true ∧ fwCw (vals.at_ 0 l).toNat = 1)
    (hn : a.toNat + mostElements s.w.active (fun l => (vals.at_ 0 l).toNat) ≤ 64)
    (hr : s.w.readRegs (b.toNat :: (List.range (mostElements s.w.active fun l => (vals.at_ 0 l).toNat)).map fun j => a.toNat + j) [] = .ok (vals, pops)) :
    let out (l : Nat) := fpackOf (vals.at_ 0 l).toNat pos.toNat (s.w.rdK kseed.toNat).toNat (s.threadIdx l) (s.w.rdV d.toNat l).toNat
      fun j => (vals.at_ (j + 1) l).toNat
    exec (.fpack h d a b pos kseed) s = .next ((s.setW (((s.w.freePops pops).withFlags (s.w.flagsWith fun l => (out l).2.1) (s.w.countsWith fun l => (out l).2.2)).pushAll 4
      [RegWrite.ofV d.toNat s.w.active fun l => BitVec.ofNat 32 (out l).1])).retire (.fpack h d a b pos kseed)) := by
  intro out
  obtain ⟨c, hc⟩ := Warp.readRegs_head hr
  have hsound : ¬ (!(fwBad true s.w.active fun l => vals.at_ 0 l).isEmpty) = true := by simp [hbad]
  have hrun : ¬ 63 < a.toNat + mostElements s.w.active (fun l => (vals.at_ 0 l).toNat) - 1 := by omega
  have hgroup := packPos_ok hpos
  simp only [mostElements] at hrun hr
  show execFpack h d a b pos kseed s = _
  unfold execFpack
  dsimp only
  rw [if_neg (by simp [hw]), State.withSrcs_ok _ hc]
  simp only [List.getD_cons_zero]
  rw [if_neg hsound, if_neg hgroup, if_neg hrun, State.withSrcs_ok _ hr, State.popped_modW, State.modW_eq hh]
  exact congrArg (fun u => Host.Outcome.next ((s.setW u).retire _)) (s.w.push_accrued pops (fun l => (out l).2.1) (fun l => (out l).2.2) 4 d.toNat _)

/-- The registers that funpk writes: the `j`-th in the lanes that have more than `j` elements. -/
def unpackWrites (act : Word) (d n : Nat) (count : Nat → Nat) (f : Nat → Nat → Word) : List RegWrite :=
  (List.range n).map fun j => RegWrite.ofV (d + j) (maskOf ((lanesOf act).filter fun l => decide (j < count l))) (f j)

theorem unpackWrites_regs (act : Word) (d n : Nat) (count : Nat → Nat) (f : Nat → Nat → Word) :
    (unpackWrites act d n count f).map (·.reg) = (List.range n).map fun j => .v (d + j) := by
  simp [unpackWrites, RegWrite.ofV]

theorem unpackWrites_nodup (act : Word) (d n : Nat) (count : Nat → Nat) (f : Nat → Nat → Word) : ((unpackWrites act d n count f).map (·.reg)).Nodup := by
  rw [unpackWrites_regs]
  exact List.nodup_range.map fun a b hab => Nat.add_left_cancel (RegId.v.inj hab)

theorem mem_unpackWrites (act : Word) (d : Nat) {n : Nat} (count : Nat → Nat) (f : Nat → Nat → Word) {j : Nat} (hj : j < n) :
    ⟨.v (d + j), ((lanesOf act).filter fun l => decide (j < count l)).map fun l => (l, (f j l).zeroExtend 64)⟩ ∈ unpackWrites act d n count f := by
  refine List.mem_map.2 ⟨j, List.mem_range.2 hj, ?_⟩
  rw [RegWrite.ofV, lanesOf_maskOf_filter]

/-- funpk, past its checks, is a run of v results of a warp with the flags of its elements. -/
theorem exec_funpk (h : Hdr) (d a b : Vr) (pos : BitVec 2) (c : Vr) (sc : Bool) {s : State} {vals : Reads} {pops : SMap Nat} (hh : s.Here)
    (hr : s.w.readRegs ([b.toNat] ++ (if sc then [c.toNat] else []) ++ [a.toNat]) [] = .ok (vals, pops)) (hbad : fwBad true s.w.active (vals.at_ 0) = [])
    (hn : d.toNat + mostElements s.w.active (fun l => (vals.at_ 0 l).toNat) ≤ 64)
    (hw : ∀ j, j < mostElements s.w.active (fun l => (vals.at_ 0 l).toNat) → s.w.isWindow (d.toNat + j) = false) :
    let fw (l : Nat) : Nat := (vals.at_ 0 l).toNat
    let word (l : Nat) : Nat := (vals.at_ (if sc then 2 else 1) l).toNat
    let out (j l : Nat) := funpkOf (fw l) (fld (word l) (fwCw (fw l) * contPos (fw l) pos.toNat j) (fwCw (fw l)))
      (if sc then some (scaleVal (fwSc (fw l)) (vals.at_ 1 l).toNat) else none)
    exec (.funpk h d a b pos c sc) s = .next ((s.setW
      (((s.w.freePops pops).withFlags (s.w.flagsWith fun l => (List.range (fwCount (fw l))).foldl (fun fl j => fl ||| (out j l).2) 0) s.w.ucount).pushAll 4
        (unpackWrites s.w.active d.toNat (mostElements s.w.active fw) (fun l => fwCount (fw l)) fun j l => BitVec.ofNat 32 (out j l).1))).retire
      (.funpk h d a b pos c sc)) := by
  intro fw word out
  have hsound : ¬ (!(fwBad true s.w.active fun l => vals.at_ 0 l).isEmpty) = true := by simp [hbad]
  have hrun : ¬ 63 < d.toNat + mostElements s.w.active (fun l => (vals.at_ 0 l).toNat) - 1 := by omega
  have hfree : ¬ ((List.range (mostElements s.w.active fun l => (vals.at_ 0 l).toNat)).any fun j => s.w.isWindow (d.toNat + j)) = true := by simpa using hw
  show execFunpk h d a b pos c sc s = _
  unfold execFunpk
  dsimp only
  rw [State.withSrcs_ok _ hr]
  refine congrArg Host.Outcome.next ((if_neg hsound).trans ((if_neg hrun).trans ((if_neg hfree).trans ?_)))
  rw [State.popped_modW, State.modW_eq hh]
  rfl

/-- fsca, past its checks, is one v result of a warp with the flags of its scales. -/
theorem exec_fsca (h : Hdr) (d a b c : Vr) {s : State} {vals : Reads} {pops : SMap Nat} (hh : s.Here) (hw : s.w.isWindow d.toNat = false)
    (hr : s.w.readRegs [c.toNat, a.toNat, b.toNat] [] = .ok (vals, pops)) (hbad : fwBad true s.w.active (vals.at_ 0) = []) :
    let out (l : Nat) := fscaOf (vals.at_ 0 l).toNat (vals.at_ 1 l).toNat (vals.at_ 2 l).toNat
    exec (.fsca h d a b c) s = .next ((s.setW (((s.w.freePops pops).withFlags (s.w.flagsWith fun l => (out l).2) s.w.ucount).pushAll 4
      [RegWrite.ofV d.toNat s.w.active fun l => BitVec.ofNat 32 (out l).1])).retire (.fsca h d a b c)) := by
  intro out
  have hsound : ¬ (!(fwBad true s.w.active fun l => vals.at_ 0 l).isEmpty) = true := by simp [hbad]
  show execFsca h d a b c s = _
  unfold execFsca
  dsimp only
  rw [if_neg (by simp [hw]), State.withSrcs_ok _ hr]
  refine congrArg Host.Outcome.next ((if_neg hsound).trans ?_)
  rw [State.popped_modW, State.modW_eq hh]
  rfl

/-- Settles O10: past its checks each word is its results, from a warp that has accrued the flags and counts of its elements. -/
theorem packedConversions : Obligations.PackedConversions := by
  unfold Obligations.PackedConversions
  refine ⟨fun h d a b pos kseed s vals pops => ?_, fun h d a b pos c sc s vals pops => ?_, fun h d a b c s vals pops => ?_⟩
  · intro i fw n out hh hw hbad hpos hn hr
    obtain ⟨honly, hpass, hstill, hsends, hres⟩ := State.accrued_spec hh i 4 pops (s.w.flagsWith fun l => (out l).2.1) (s.w.countsWith fun l => (out l).2.2)
      [RegWrite.ofV d.toNat s.w.active fun l => BitVec.ofNat 32 (out l).1] (List.nodup_singleton _)
    refine ⟨_, exec_fpack h d a b pos kseed hh hw hbad hpos hn hr, honly, hpass, Warp.still_of_accrued hstill, hres,
      hsends _ List.mem_cons_self, fun l hl => ⟨?_, ?_⟩⟩
    · exact (Warp.axf_of_still hstill l).trans (s.w.get_flagsWith _ hl)
    · exact (congrArg (fun m => (SMap.get 0 m l).toNat) (Warp.ucount_of_still hstill)).trans (s.w.get_countsWith (fun l => (out l).2.2) hl)
  · intro i fw word n out hh hr hbad hn hw
    obtain ⟨honly, hpass, hstill, hsends, hres⟩ := State.accrued_spec hh i 4 pops
      (s.w.flagsWith fun l => (List.range (fwCount (fw l))).foldl (fun fl j => fl ||| (out j l).2) 0) s.w.ucount
      (unpackWrites s.w.active d.toNat n (fun l => fwCount (fw l)) fun j l => BitVec.ofNat 32 (out j l).1) (unpackWrites_nodup _ _ _ _ _)
    rw [unpackWrites_regs] at hres
    refine ⟨_, exec_funpk h d a b pos c sc hh hr hbad hn hw, honly, hpass, Warp.still_of_flagged hstill, hres,
      fun j hj => ⟨hsends _ (mem_unpackWrites _ _ _ _ hj), fun l bit hl => ?_⟩⟩
    exact (Bool.eq_iff_iff.1 (congrArg (BitVec.getLsbD · bit) (Warp.axf_of_still hstill l))).trans
      (s.w.get_flagsWith_bit (fun l => fwCount (fw l)) (fun k l => (out k l).2) hl bit)
  · intro i out hh hw hr hbad
    obtain ⟨honly, hpass, hstill, hsends, hres⟩ := State.accrued_spec hh i 4 pops (s.w.flagsWith fun l => (out l).2) s.w.ucount
      [RegWrite.ofV d.toNat s.w.active fun l => BitVec.ofNat 32 (out l).1] (List.nodup_singleton _)
    refine ⟨_, exec_fsca h d a b c hh hw hr hbad, honly, hpass, Warp.still_of_flagged hstill, hres,
      fun l hl => (Warp.axf_of_still hstill l).trans (s.w.get_flagsWith _ hl), hsends _ List.mem_cons_self⟩

end Sys2Proof.Machine
end

section
/-! SUPPORT. Rounding an exact magnitude to a multiple of a power of two (R113, R137): the integer facts for each mode, and the rational ones that follow. -/

namespace Sys2Proof.Machine

/-! ### Integer facts -/

/-- What a mode promises of the error `d` of a rounded count `n`, where a place is `K` units. -/
structure RoundedBy (rm : Rm5) (neg : Bool) (n : Nat) (inexact : Bool) (d K : Int) : Prop where
  inexact_iff : inexact = true ↔ d ≠ 0
  near : |d| < K
  half : rm = .rne ∨ rm = .rna → 2 * |d| ≤ K
  even : rm = .rne → 2 * |d| = K → n % 2 = 0
  away : rm = .rna → 2 * |d| = K → 0 ≤ d
  trunc : rm = .rtz → d ≤ 0
  down : rm = .rdn → neg = false → d ≤ 0
  down_neg : rm = .rdn → neg = true → 0 ≤ d
  up : rm = .rup → neg = false → 0 ≤ d
  up_neg : rm = .rup → neg = true → d ≤ 0

/-- An exact count meets every promise. -/
theorem roundedBy_exact (rm : Rm5) (neg : Bool) (n : Nat) : RoundedBy rm neg n false 0 1 := by
  constructor <;> simp

/-- When a mode raises a count whose remainder is `r` of `2 * h` units (Table 6.2). -/
def RaisesBy (rm : Rm5) (neg odd : Bool) (r h : Nat) : Prop :=
  match rm with
  | .rne => h < r ∨ r = h ∧ odd = true
  | .rtz => False
  | .rdn => r ≠ 0 ∧ neg = true
  | .rup => r ≠ 0 ∧ neg = false
  | .rna => h ≤ r

theorem roundUp_iff (rm : Rm5) (neg odd : Bool) (r h : Nat) :
    roundUp rm neg odd (if r < h then .lt else if r = h then .eq else .gt) (decide (r ≠ 0)) = true ↔ RaisesBy rm neg odd r h := by
  cases rm with
  | rtz => simp [roundUp, RaisesBy]
  | rdn => simp [roundUp, RaisesBy]
  | rup => simp [roundUp, RaisesBy]
  | rne =>
    rcases lt_trichotomy r h with hlt | heq | hgt
    · simp [roundUp, RaisesBy, hlt, hlt.not_gt, hlt.ne]
    · simp [roundUp, RaisesBy, heq]
    · simp [roundUp, RaisesBy, hgt, hgt.not_gt, hgt.ne']
  | rna =>
    rcases lt_trichotomy r h with hlt | heq | hgt
    · simp [roundUp, RaisesBy, hlt]
    · simp [roundUp, RaisesBy, heq]
    · simp [roundUp, RaisesBy, hgt.le, hgt.not_gt, hgt.ne']

/-- A count left as it is: its error is the remainder. -/
theorem roundedBy_kept {rm : Rm5} {neg : Bool} {n r h : Nat} (hr : r < 2 * h) (hup : ¬ RaisesBy rm neg (n % 2 == 1) r h) :
    RoundedBy rm neg n (decide (r ≠ 0)) (-(r : Int)) (2 * h : Nat) := by
  have habs : |(-(r : Int))| = r := by rw [abs_neg, Nat.abs_cast]
  constructor
  case inexact_iff => simp
  case near => omega
  case half =>
    rintro (rfl | rfl) <;> simp only [RaisesBy] at hup <;> omega
  case even =>
    rintro rfl htie
    simp only [RaisesBy, beq_iff_eq] at hup
    omega
  case away =>
    rintro rfl htie
    simp only [RaisesBy] at hup
    omega
  case down_neg =>
    rintro rfl rfl
    have hzero : r = 0 := by simpa [RaisesBy] using hup
    omega
  case up =>
    rintro rfl rfl
    have hzero : r = 0 := by simpa [RaisesBy] using hup
    omega
  all_goals intros; omega

/-- A count raised by one: its error is what the remainder lacks of a place. -/
theorem roundedBy_raised {rm : Rm5} {neg : Bool} {n r h : Nat} (hr : r < 2 * h) (hup : RaisesBy rm neg (n % 2 == 1) r h) :
    RoundedBy rm neg (n + 1) (decide (r ≠ 0)) ((2 * h : Nat) - (r : Int)) (2 * h : Nat) := by
  have habs : |((2 * h : Nat) - (r : Int))| = (2 * h : Nat) - (r : Int) := abs_of_pos (by omega)
  have hpos : r ≠ 0 := by
    rintro rfl
    cases rm <;> simp only [RaisesBy] at hup <;> omega
  constructor
  case inexact_iff => simp only [decide_eq_true_eq]; omega
  case half =>
    rintro (rfl | rfl) <;> simp only [RaisesBy] at hup <;> omega
  case even =>
    rintro rfl htie
    simp only [RaisesBy, beq_iff_eq] at hup
    omega
  case trunc =>
    rintro rfl
    exact hup.elim
  case down =>
    rintro rfl rfl
    exact absurd hup.2 Bool.false_ne_true
  case up_neg =>
    rintro rfl rfl
    exact absurd hup.2.symm Bool.false_ne_true
  all_goals intros; omega

/-! ### The rounded count -/

theorem roundAt_of_le (rm : Rm5) (neg : Bool) (m : Nat) {e q : Int} (h : q ≤ e) : roundAt rm neg m e q false = (m * 2 ^ (e - q).toNat, false) := by
  rw [roundAt, if_pos h]
  rfl

theorem roundAt_of_lt (rm : Rm5) (neg : Bool) (m : Nat) {e q : Int} (h : e < q) :
    let k := (q - e).toNat
    let r := m % 2 ^ k
    roundAt rm neg m e q false =
      (if roundUp rm neg (m / 2 ^ k % 2 == 1) (if r < 2 ^ (k - 1) then .lt else if r = 2 ^ (k - 1) then .eq else .gt) (decide (r ≠ 0)) then m / 2 ^ k + 1
        else m / 2 ^ k, decide (r ≠ 0)) := by
  rw [roundAt, if_neg (not_le.2 h)]
  simp

theorem two_zpow_pos (e : Int) : (0 : ℚ) < 2 ^ e := zpow_pos two_pos e

/-- A power of two above another is a natural multiple of it. -/
theorem two_zpow_eq {e q : Int} (h : q ≤ e) : (2 : ℚ) ^ e = ((2 ^ (e - q).toNat : Nat) : ℚ) * 2 ^ q := by
  rw [Nat.cast_pow, Nat.cast_ofNat, ← zpow_natCast, ← zpow_add₀ two_ne_zero, Int.toNat_of_nonneg (by omega), sub_add_cancel]

/-- The error of a rounded magnitude is a whole number of units of which a place has a whole number too, and it is as the mode promises. -/
theorem roundAt_error (rm : Rm5) (neg : Bool) (m : Nat) (e q : Int) :
    ∃ (d K : Int) (u : ℚ), 0 < u ∧ (2 : ℚ) ^ q = K * u ∧ ((roundAt rm neg m e q false).1 : ℚ) * 2 ^ q - m * 2 ^ e = d * u ∧
      RoundedBy rm neg (roundAt rm neg m e q false).1 (roundAt rm neg m e q false).2 d K := by
  rcases le_or_gt q e with h | h
  · rw [roundAt_of_le rm neg m h]
    refine ⟨0, 1, 2 ^ q, two_zpow_pos q, by simp, ?_, roundedBy_exact rm neg _⟩
    rw [two_zpow_eq h]
    push_cast
    ring
  · obtain ⟨k, hk⟩ : ∃ k, (q - e).toNat = k + 1 := ⟨(q - e).toNat - 1, by omega⟩
    have hround := roundAt_of_lt rm neg m h
    have hplace := two_zpow_eq h.le
    simp only [hk, Nat.add_sub_cancel] at hround hplace
    have hr : m % 2 ^ (k + 1) < 2 * 2 ^ k := by
      rw [← pow_succ']
      exact Nat.mod_lt _ (by positivity)
    have hm : (m : ℚ) = (m / 2 ^ (k + 1) : Nat) * (2 ^ (k + 1) : Nat) + (m % 2 ^ (k + 1) : Nat) := by
      rw [← Nat.cast_mul, ← Nat.cast_add, Nat.div_add_mod']
    have hK : (2 : Nat) ^ (k + 1) = 2 * 2 ^ k := pow_succ' 2 k
    rw [hround]
    generalize m / 2 ^ (k + 1) = n at hm ⊢
    generalize m % 2 ^ (k + 1) = r at hm hr ⊢
    rw [hK] at hm hplace
    by_cases hup : RaisesBy rm neg (n % 2 == 1) r (2 ^ k)
    · rw [if_pos ((roundUp_iff rm neg _ r _).2 hup)]
      refine ⟨_, _, 2 ^ e, two_zpow_pos e, ?_, ?_, roundedBy_raised hr hup⟩
      · exact_mod_cast hplace
      · rw [hplace, hm]
        push_cast
        ring
    · rw [if_neg (mt (roundUp_iff rm neg _ r _).1 hup)]
      refine ⟨_, _, 2 ^ e, two_zpow_pos e, ?_, ?_, roundedBy_kept hr hup⟩
      · exact_mod_cast hplace
      · rw [hplace, hm]
        push_cast
        ring

/-! ### Rational facts -/

/-- The first part of `Obligations.RoundingIsCorrect`: what each mode promises of the rounded magnitude. -/
theorem roundAt_correct (rm : Rm5) (neg : Bool) (m : Nat) (e q : Int) :
    let r := roundAt rm neg m e q false
    let x : ℚ := (m : ℚ) * 2 ^ e
    let y : ℚ := (r.1 : ℚ) * 2 ^ q
    (r.2 = true ↔ y ≠ x) ∧ |y - x| < 2 ^ q ∧
    (rm = .rne ∨ rm = .rna → |y - x| ≤ 2 ^ q / 2) ∧ (rm = .rne → |y - x| = 2 ^ q / 2 → r.1 % 2 = 0) ∧ (rm = .rna → |y - x| = 2 ^ q / 2 → x ≤ y) ∧
    (rm = .rtz → y ≤ x) ∧ (rm = .rdn → neg = false → y ≤ x) ∧ (rm = .rdn → neg = true → x ≤ y) ∧ (rm = .rup → neg = false → x ≤ y) ∧ (rm = .rup → neg = true → y ≤ x) := by
  intro r x y
  obtain ⟨d, K, u, hu, hq, herr, hby⟩ := roundAt_error rm neg m e q
  change y - x = d * u at herr
  change RoundedBy rm neg r.1 r.2 d K at hby
  have habs : |y - x| = (|d| : Int) * u := by rw [herr, abs_mul, abs_of_pos hu, Int.cast_abs]
  have hle : y ≤ x ↔ d ≤ 0 := by
    rw [← not_lt, ← sub_pos, herr, mul_pos_iff_of_pos_right hu, Int.cast_pos, not_lt]
  have hge : x ≤ y ↔ 0 ≤ d := by rw [← sub_nonneg, herr, mul_nonneg_iff_of_pos_right hu, Int.cast_nonneg_iff]
  have hne : y ≠ x ↔ d ≠ 0 := by rw [← sub_ne_zero, herr, mul_ne_zero_iff_right hu.ne', Int.cast_ne_zero]
  have hhalf : |y - x| ≤ 2 ^ q / 2 ↔ 2 * |d| ≤ K := by
    rw [habs, hq, le_div_iff₀ two_pos, mul_right_comm, mul_le_mul_iff_left₀ hu, mul_comm]
    exact_mod_cast Iff.rfl
  have htie : |y - x| = 2 ^ q / 2 ↔ 2 * |d| = K := by
    rw [habs, hq, eq_div_iff two_ne_zero, mul_right_comm, mul_left_inj' hu.ne', mul_comm]
    exact_mod_cast Iff.rfl
  have hnear : |y - x| < 2 ^ q ↔ |d| < K := by
    rw [habs, hq, mul_lt_mul_iff_left₀ hu]
    exact_mod_cast Iff.rfl
  rw [hle, hge, hne, hhalf, htie, hnear]
  exact ⟨hby.inexact_iff, hby.near, hby.half, hby.even, hby.away, hby.trunc, hby.down, hby.down_neg, hby.up, hby.up_neg⟩

/-- Rounding does not pass a multiple of the place that the magnitude does not reach. -/
theorem roundAt_le_of_le {rm : Rm5} {neg : Bool} {m N : Nat} {e q : Int} (h : (m : ℚ) * 2 ^ e ≤ N * 2 ^ q) : (roundAt rm neg m e q false).1 ≤ N := by
  obtain ⟨-, hnear, -⟩ := roundAt_correct rm neg m e q
  have hlt : ((roundAt rm neg m e q false).1 : ℚ) * 2 ^ q < (N + 1 : Nat) * 2 ^ q := by
    have := (abs_lt.1 hnear).2
    push_cast
    linarith
  exact Nat.lt_succ_iff.1 (Nat.cast_lt.1 (lt_of_mul_lt_mul_right hlt (two_zpow_pos q).le))

theorem le_roundAt_of_le {rm : Rm5} {neg : Bool} {m N : Nat} {e q : Int} (h : (N : ℚ) * 2 ^ q ≤ m * 2 ^ e) : N ≤ (roundAt rm neg m e q false).1 := by
  obtain ⟨-, hnear, -⟩ := roundAt_correct rm neg m e q
  have hlt : (N : ℚ) * 2 ^ q < ((roundAt rm neg m e q false).1 + 1 : Nat) * 2 ^ q := by
    have := (abs_lt.1 hnear).1
    push_cast
    linarith
  exact Nat.lt_succ_iff.1 (Nat.cast_lt.1 (lt_of_mul_lt_mul_right hlt (two_zpow_pos q).le))

/-- A magnitude that is a multiple of the place is rounded to itself. -/
theorem roundAt_exact {rm : Rm5} {neg : Bool} {m n : Nat} {e q : Int} (h : (m : ℚ) * 2 ^ e = n * 2 ^ q) : roundAt rm neg m e q false = (n, false) := by
  have hn : (roundAt rm neg m e q false).1 = n := le_antisymm (roundAt_le_of_le h.le) (le_roundAt_of_le h.ge)
  obtain ⟨hinexact, -⟩ := roundAt_correct rm neg m e q
  refine Prod.ext hn (Bool.eq_false_iff.2 fun hi => hinexact.1 hi ?_)
  rw [hn, h]

end Sys2Proof.Machine
end

section
/-! SUPPORT. Standard formats (R111): the fields of an encoding, canonical counts and places, and rounding into a format (R113, R137). -/

namespace Sys2Proof.Machine

/-! ### Magnitudes -/

theorem bitLen_of_ne_zero {m : Nat} (hm : m ≠ 0) : (bitLen m : Int) = Nat.log2 m + 1 := by
  rw [bitLen, if_neg hm]
  push_cast
  rfl

/-- A nonzero magnitude is below a power of two when its top bit is. -/
theorem lt_two_zpow_iff {m : Nat} (hm : m ≠ 0) (e E : Int) : (m : ℚ) * 2 ^ e < 2 ^ E ↔ e + Nat.log2 m < E := by
  have hlow : ((2 ^ Nat.log2 m : Nat) : ℚ) ≤ m := Nat.cast_le.2 (Nat.log2_self_le hm)
  have hhigh : (m : ℚ) < ((2 ^ (Nat.log2 m + 1) : Nat) : ℚ) := Nat.cast_lt.2 Nat.lt_log2_self
  have hu := two_zpow_pos e
  constructor
  · intro h
    refine (zpow_lt_zpow_iff_right₀ one_lt_two).1 (lt_of_le_of_lt ?_ h)
    calc (2 : ℚ) ^ (e + Nat.log2 m) = ((2 ^ Nat.log2 m : Nat) : ℚ) * 2 ^ e := by rw [zpow_add₀ two_ne_zero, zpow_natCast]; push_cast; ring
      _ ≤ m * 2 ^ e := by gcongr
  · intro h
    calc (m : ℚ) * 2 ^ e < ((2 ^ (Nat.log2 m + 1) : Nat) : ℚ) * 2 ^ e := by gcongr
      _ = (2 : ℚ) ^ (e + (Nat.log2 m + 1 : Nat)) := by rw [zpow_add₀ two_ne_zero, zpow_natCast]; push_cast; ring
      _ ≤ 2 ^ E := zpow_le_zpow_right₀ one_le_two (by push_cast; omega)

theorem two_zpow_le_iff {m : Nat} (hm : m ≠ 0) (e E : Int) : (2 : ℚ) ^ E ≤ m * 2 ^ e ↔ E ≤ e + Nat.log2 m := by
  rw [← not_lt, lt_two_zpow_iff hm, not_lt]

/-- Equal magnitudes have the same top bit. -/
theorem top_eq_of_eq {m n : Nat} {e q : Int} (hm : m ≠ 0) (hn : n ≠ 0) (h : (m : ℚ) * 2 ^ e = n * 2 ^ q) : e + Nat.log2 m = q + Nat.log2 n := by
  apply le_antisymm
  · rw [← two_zpow_le_iff hn, ← h, two_zpow_le_iff hm]
  · rw [← two_zpow_le_iff hm, h, two_zpow_le_iff hn]

theorem two_pow_mul_zpow (p : Nat) (q : Int) : ((2 ^ p : Nat) : ℚ) * 2 ^ q = 2 ^ (q + p) := by
  rw [zpow_add₀ two_ne_zero, zpow_natCast]
  push_cast
  ring

/-! ### Fields of an encoding (R111) -/

/-- The encoding with a sign, an exponent field and a mantissa field. -/
def Fmt.join (f : Fmt) (neg : Bool) (ef mf : Nat) : Nat := f.signBit neg + ef * 2 ^ f.mbits + mf

section
variable {f : Fmt} {neg : Bool} {ef mf : Nat}

theorem Fmt.join_eq (f : Fmt) (neg : Bool) (ef mf : Nat) : f.join neg ef mf = (neg.toNat * 2 ^ f.ebits + ef) * 2 ^ f.mbits + mf := by
  cases neg
  · simp [Fmt.join, Fmt.signBit]
  · simp [Fmt.join, Fmt.signBit, pow_add, add_mul]

theorem Fmt.exponent_join (he : ef < 2 ^ f.ebits) (hm : mf < 2 ^ f.mbits) : fld (f.join neg ef mf) f.mbits f.ebits = ef := by
  rw [Fmt.join_eq, fld_mul_add_high _ _ _ _ _ le_rfl hm, Nat.sub_self, fld_mul_add_low _ _ _ _ _ (by omega), fld_zero_of_lt he]

theorem Fmt.mantissa_join (hm : mf < 2 ^ f.mbits) : fld (f.join neg ef mf) 0 f.mbits = mf := by
  rw [Fmt.join_eq, fld_mul_add_low _ _ _ _ _ (by omega), fld_zero_of_lt hm]

theorem Fmt.sign_join (he : ef < 2 ^ f.ebits) (hm : mf < 2 ^ f.mbits) : bitAt (f.join neg ef mf) (f.ebits + f.mbits) = neg := by
  rw [bitAt_eq_fld, Fmt.join_eq, fld_mul_add_high _ _ _ _ _ (by omega) hm, Nat.add_sub_cancel, fld_mul_add_high _ _ _ _ _ le_rfl he, Nat.sub_self]
  cases neg <;> rfl

/-- Every encoding is put together from its fields. -/
theorem Fmt.join_fields {x : Nat} (hx : x < 2 ^ f.width) :
    f.join (bitAt x (f.ebits + f.mbits)) (fld x f.mbits f.ebits) (fld x 0 f.mbits) = x := by
  have hsign : (bitAt x (f.ebits + f.mbits)).toNat = x / 2 ^ f.mbits / 2 ^ f.ebits := by
    rw [toNat_bitAt, fld, Nat.div_div_eq_div_mul, ← pow_add, add_comm f.mbits, Nat.mod_eq_of_lt]
    rw [Nat.div_lt_iff_lt_mul (by positivity), pow_one, ← pow_succ']
    rwa [Fmt.width, add_assoc, add_comm] at hx
  rw [Fmt.join_eq, hsign, fld, fld, Nat.div_add_mod', pow_zero, Nat.div_one, Nat.div_add_mod']

end

/-! ### Canonical counts and places -/

/-- A format with room for a fraction, and for an exponent field between the subnormals' and the infinities'. -/
structure Fmt.Standard (f : Fmt) : Prop where
  fraction : 0 < f.mbits
  exponents : 1 < f.etop

theorem Fmt.etop_lt (f : Fmt) : f.etop < 2 ^ f.ebits := Nat.sub_lt (by positivity) one_pos

/-- The count `n` and the place `q` in which a magnitude is rounded: subnormal at the least place, or with its leading bit. -/
def Fmt.Grid (f : Fmt) (n : Nat) (q : Int) : Prop :=
  n < 2 ^ f.mbits ∧ q = f.emin - f.mbits ∨ 2 ^ f.mbits ≤ n ∧ n < 2 ^ (f.mbits + 1) ∧ f.emin - f.mbits ≤ q

/-- The bound that no finite magnitude reaches. -/
def Fmt.bound (f : Fmt) : Int := f.etop - f.bias

/-- The encoding of a count and a place. -/
def Fmt.pack (f : Fmt) (neg : Bool) (n : Nat) (q : Int) : Nat :=
  if n < 2 ^ f.mbits then f.join neg 0 n else f.join neg (q + f.mbits + f.bias).toNat (n - 2 ^ f.mbits)

section
variable {f : Fmt}

theorem Fmt.Grid.emin_le {n : Nat} {q : Int} (h : f.Grid n q) : f.emin - f.mbits ≤ q := by
  rcases h with ⟨-, rfl⟩ | ⟨-, -, h⟩
  · exact le_rfl
  · exact h

theorem log2_eq_of_mem {n p : Nat} (hlow : 2 ^ p ≤ n) (hhigh : n < 2 ^ (p + 1)) : Nat.log2 n = p :=
  (Nat.log2_eq_iff (by have := Nat.two_pow_pos p; omega)).2 ⟨hlow, hhigh⟩

/-- A magnitude on the grid is below the bound exactly when its exponent field is below that of the infinities. -/
theorem Fmt.Grid.lt_bound_iff (hf : f.Standard) {n : Nat} {q : Int} (h : f.Grid n q) :
    (n : ℚ) * 2 ^ q < 2 ^ f.bound ↔ (2 ^ f.mbits ≤ n → q + f.mbits + f.bias < f.etop) := by
  have hetop := hf.exponents
  rcases h with ⟨hn, rfl⟩ | ⟨hlow, hhigh, -⟩
  · refine iff_of_true ?_ fun hle => absurd hn (not_lt.2 hle)
    calc (n : ℚ) * 2 ^ (f.emin - f.mbits) ≤ ((2 ^ f.mbits : Nat) : ℚ) * 2 ^ (f.emin - f.mbits) := by
          have := two_zpow_pos (f.emin - f.mbits)
          gcongr
      _ = 2 ^ (f.emin - f.mbits + f.mbits) := two_pow_mul_zpow _ _
      _ < 2 ^ f.bound := zpow_lt_zpow_right₀ one_lt_two (by simp only [Fmt.bound, Fmt.emin]; omega)
  · have hne : n ≠ 0 := by have := Nat.two_pow_pos f.mbits; omega
    rw [lt_two_zpow_iff hne, log2_eq_of_mem hlow hhigh, Fmt.bound]
    constructor
    · intro h _
      omega
    · intro h
      have := h hlow
      omega

/-- A packed count and place are what the encoding is read as. -/
theorem Fmt.decode_pack (hf : f.Standard) {n : Nat} {q : Int} (h : f.Grid n q) (hb : (n : ℚ) * 2 ^ q < 2 ^ f.bound) (neg : Bool) :
    f.decode (f.pack neg n q) = .fin neg n q := by
  have hetop := hf.exponents
  have htop := f.etop_lt
  have hfield := (h.lt_bound_iff hf).1 hb
  rcases h with ⟨hn, rfl⟩ | ⟨hlow, hhigh, hq⟩
  · have he : 0 < 2 ^ f.ebits := by positivity
    simp only [Fmt.pack, if_pos hn, Fmt.decode, Fmt.exponent_join he hn, Fmt.mantissa_join hn, Fmt.sign_join he hn]
    rw [if_neg (by omega), if_pos trivial]
  · have hfield := hfield hlow
    have hm : n - 2 ^ f.mbits < 2 ^ f.mbits := by rw [pow_succ] at hhigh; omega
    have hpos : 0 < q + f.mbits + f.bias := by simp only [Fmt.emin] at hq; omega
    obtain ⟨k, hk⟩ : ∃ k : Nat, q + f.mbits + f.bias = k := Int.eq_ofNat_of_zero_le hpos.le
    have he : k < 2 ^ f.ebits := by omega
    simp only [Fmt.pack, if_neg (not_lt.2 hlow), hk, Int.toNat_natCast, Fmt.decode, Fmt.exponent_join he hm, Fmt.mantissa_join hm, Fmt.sign_join he hm]
    rw [if_neg (by omega), if_neg (by omega), ← hk, Nat.add_sub_cancel' hlow]
    congr 1
    omega

/-- A finite encoding is read as a count and a place on the grid, below the bound, and packs them. -/
theorem Fmt.pack_of_decode {x : Nat} (hx : x < 2 ^ f.width) {neg : Bool} {n : Nat} {q : Int} (h : f.decode x = .fin neg n q) :
    f.Grid n q ∧ (2 ^ f.mbits ≤ n → q + f.mbits + f.bias < f.etop) ∧ f.pack neg n q = x := by
  have hjoin := f.join_fields hx
  have hm := fld_lt x 0 f.mbits
  have he := fld_lt x f.mbits f.ebits
  simp only [Fmt.decode] at h
  split_ifs at h with htop hmf hsub
  · obtain ⟨rfl, rfl, rfl⟩ := FVal.fin.inj h
    refine ⟨.inl ⟨hm, rfl⟩, fun hle => absurd hm (not_lt.2 hle), ?_⟩
    rw [hsub] at hjoin
    rw [Fmt.pack, if_pos hm, hjoin]
  · obtain ⟨rfl, rfl, rfl⟩ := FVal.fin.inj h
    have hlt : fld x f.mbits f.ebits < f.etop := by
      have : fld x f.mbits f.ebits ≤ f.etop := Nat.le_sub_one_of_lt he
      omega
    refine ⟨.inr ⟨Nat.le_add_right _ _, by rw [pow_succ]; omega, by simp only [Fmt.emin]; omega⟩, fun _ => by omega, ?_⟩
    rw [Fmt.pack, if_neg (by omega), Nat.add_sub_cancel_left]
    have hfield : ((fld x f.mbits f.ebits : Int) - f.bias - f.mbits + f.mbits + f.bias).toNat = fld x f.mbits f.ebits := by omega
    rw [hfield, hjoin]

end

/-! ### Rounding into a format (R137) -/

/-- The place at which a format rounds a magnitude. -/
def Fmt.place (f : Fmt) (m : Nat) (e : Int) : Int := max (e + Nat.log2 m - f.mbits) (f.emin - f.mbits)

/-- A count that has reached a new leading bit, and its place. -/
def Fmt.carry (f : Fmt) (n : Nat) (q : Int) : Nat × Int := if n = 2 ^ (f.mbits + 1) then (2 ^ f.mbits, q + 1) else (n, q)

/-- The magnitude rounded as if exponents had no lower bound, by which tininess is judged (R137). -/
def Fmt.free (f : Fmt) (rm : Rm5) (neg : Bool) (m : Nat) (e : Int) : ℚ :=
  (roundAt rm neg m e (e + Nat.log2 m - f.mbits) false).1 * 2 ^ (e + Nat.log2 m - f.mbits)

/-- The count that a format rounds a magnitude to, and whether it is inexact. -/
def Fmt.count (f : Fmt) (rm : Rm5) (neg : Bool) (m : Nat) (e : Int) : Nat × Bool := roundAt rm neg m e (f.place m e) false

/-- The flags of a result that neither overflows nor is flushed (Table 6.3). -/
def resultFlags (inexact tiny : Bool) : FFlags := flagIf inexact flagNX ||| flagIf (tiny && inexact) flagUF

section
variable {f : Fmt} {m : Nat} {e : Int} (hm : m ≠ 0)
include hm

/-- The leading bits of a magnitude fill a format's count. -/
theorem two_pow_le_roundAt_top (f : Fmt) (rm : Rm5) (neg : Bool) : 2 ^ f.mbits ≤ (roundAt rm neg m e (e + Nat.log2 m - f.mbits) false).1 := by
  refine le_roundAt_of_le ?_
  rw [two_pow_mul_zpow, two_zpow_le_iff hm]
  omega

theorem Fmt.tiny_iff (f : Fmt) (rm : Rm5) (neg : Bool) :
    (decide ((roundAt rm neg m e (e + Nat.log2 m - f.mbits) false).1 ≠ 0) &&
      decide (e + Nat.log2 m - f.mbits + bitLen (roundAt rm neg m e (e + Nat.log2 m - f.mbits) false).1 - 1 < f.emin)) = true ↔ f.free rm neg m e < 2 ^ f.emin := by
  have hle := two_pow_le_roundAt_top hm f rm neg (e := e)
  have hne : (roundAt rm neg m e (e + Nat.log2 m - f.mbits) false).1 ≠ 0 := by have := Nat.two_pow_pos f.mbits; omega
  rw [Fmt.free, lt_two_zpow_iff hne, bitLen_of_ne_zero hne, Bool.and_eq_true, decide_eq_true_eq, decide_eq_true_eq, and_iff_right hne]
  omega

/-- A tiny magnitude is rounded at the least place, to no more than the least normal number. -/
theorem Fmt.count_of_tiny {rm : Rm5} {neg : Bool} (ht : f.free rm neg m e < 2 ^ f.emin) :
    f.place m e = f.emin - f.mbits ∧ ((f.count rm neg m e).1 : ℚ) * 2 ^ f.place m e ≤ 2 ^ f.emin := by
  have htop : e + Nat.log2 m < f.emin := by
    refine (zpow_lt_zpow_iff_right₀ (one_lt_two (α := ℚ))).1 (lt_of_le_of_lt ?_ ht)
    have hle : ((2 ^ f.mbits : Nat) : ℚ) ≤ (roundAt rm neg m e (e + Nat.log2 m - f.mbits) false).1 := Nat.cast_le.2 (two_pow_le_roundAt_top hm f rm neg)
    calc (2 : ℚ) ^ (e + Nat.log2 m) = ((2 ^ f.mbits : Nat) : ℚ) * 2 ^ (e + Nat.log2 m - f.mbits) := by rw [two_pow_mul_zpow, sub_add_cancel]
      _ ≤ f.free rm neg m e := mul_le_mul_of_nonneg_right hle (two_zpow_pos _).le
  have hplace : f.place m e = f.emin - f.mbits := max_eq_right (by omega)
  have hcount : (f.count rm neg m e).1 ≤ 2 ^ f.mbits := by
    refine roundAt_le_of_le ?_
    rw [hplace, two_pow_mul_zpow, sub_add_cancel]
    exact ((lt_two_zpow_iff hm e f.emin).2 htop).le
  refine ⟨hplace, ?_⟩
  calc ((f.count rm neg m e).1 : ℚ) * 2 ^ f.place m e ≤ ((2 ^ f.mbits : Nat) : ℚ) * 2 ^ f.place m e :=
        mul_le_mul_of_nonneg_right (Nat.cast_le.2 hcount) (two_zpow_pos _).le
    _ = 2 ^ f.emin := by rw [hplace, two_pow_mul_zpow, sub_add_cancel]

/-- What rounding gives lies on the grid, once a count that is full has carried. -/
theorem Fmt.carry_grid (f : Fmt) (rm : Rm5) (neg : Bool) :
    f.Grid (f.carry (f.count rm neg m e).1 (f.place m e)).1 (f.carry (f.count rm neg m e).1 (f.place m e)).2 := by
  have hemin : f.emin - f.mbits ≤ f.place m e := le_max_right _ _
  have hfull : (f.count rm neg m e).1 ≤ 2 ^ (f.mbits + 1) := by
    refine roundAt_le_of_le ?_
    rw [two_pow_mul_zpow]
    refine ((lt_two_zpow_iff hm e _).2 ?_).le
    have : e + Nat.log2 m - f.mbits ≤ f.place m e := le_max_left _ _
    push_cast
    omega
  have hlead : (f.count rm neg m e).1 < 2 ^ f.mbits → f.place m e = f.emin - f.mbits := by
    intro hlt
    rcases max_choice (e + Nat.log2 m - f.mbits) (f.emin - f.mbits) with h | h
    · rw [Fmt.count, Fmt.place, h] at hlt
      exact absurd (two_pow_le_roundAt_top hm f rm neg) (not_le.2 hlt)
    · exact h
  unfold Fmt.carry
  generalize f.count rm neg m e = r at *
  generalize f.place m e = q at *
  split_ifs with hcarry
  · exact .inr ⟨le_rfl, Nat.pow_lt_pow_right one_lt_two (Nat.lt_succ_self _), by omega⟩
  · by_cases hlt : r.1 < 2 ^ f.mbits
    · exact .inl ⟨hlt, hlead hlt⟩
    · exact .inr ⟨not_lt.1 hlt, lt_of_le_of_ne hfull hcarry, hemin⟩

end

/-- A carry keeps the magnitude. -/
theorem Fmt.carry_value (f : Fmt) (n : Nat) (q : Int) : ((f.carry n q).1 : ℚ) * 2 ^ (f.carry n q).2 = n * 2 ^ q := by
  unfold Fmt.carry
  split_ifs with h
  · rw [h, two_pow_mul_zpow, two_pow_mul_zpow]
    congr 1
    push_cast
    ring
  · rfl

end Sys2Proof.Machine
end

section
/-! SUPPORT. What rounding into a format gives (R113, R137): a flushed zero, an overflow or a packed result; and the encodings that survive a wider format. -/

namespace Sys2Proof.Machine

/-! ### The three outcomes of rounding -/

/-- What an overflow gives (R137). -/
def Fmt.overflow (f : Fmt) (rm : Rm5) (neg : Bool) : Nat := if overflowFinite rm neg then f.big neg else f.inf neg

/-- The last step of rounding: a count and a place that have carried become an encoding, or an overflow. -/
def Fmt.finish (f : Fmt) (rm : Rm5) (neg : Bool) (n : Nat) (q : Int) (fl : FFlags) : Nat × FFlags :=
  if n < 2 ^ f.mbits then (f.signBit neg + n, fl)
  else if (f.etop : Int) ≤ q + f.mbits + f.bias then (f.overflow rm neg, flagOF ||| flagNX)
  else (f.signBit neg + (q + f.mbits + f.bias).toNat * 2 ^ f.mbits + (n - 2 ^ f.mbits), fl)

section
variable {f : Fmt} (hf : f.Standard) {n : Nat} {q : Int} (h : f.Grid n q) (rm : Rm5) (neg : Bool) (fl : FFlags)
include hf h

theorem Fmt.finish_of_lt (hb : (n : ℚ) * 2 ^ q < 2 ^ f.bound) : f.finish rm neg n q fl = (f.pack neg n q, fl) := by
  have hfield := (h.lt_bound_iff hf).1 hb
  unfold Fmt.finish Fmt.pack Fmt.join
  split_ifs with hn hover
  · rw [Nat.zero_mul, Nat.add_zero]
  · exact absurd (hfield (not_lt.1 hn)) (not_lt.2 hover)
  · rfl

theorem Fmt.finish_of_le (hb : (2 : ℚ) ^ f.bound ≤ n * 2 ^ q) : f.finish rm neg n q fl = (f.overflow rm neg, flagOF ||| flagNX) := by
  have hfield := mt (h.lt_bound_iff hf).2 (not_lt.2 hb)
  rw [Classical.not_imp, not_lt] at hfield
  rw [Fmt.finish, if_neg (not_lt.2 hfield.1), if_pos hfield.2]

end

section
variable {f : Fmt} {m : Nat} {e : Int} (hm : m ≠ 0) (rm : Rm5) (neg : Bool)
include hm

theorem Fmt.round_eq (f : Fmt) (ftz : Bool) :
    f.round rm ftz neg m e false =
      let tiny := decide (f.free rm neg m e < 2 ^ f.emin)
      let r := f.count rm neg m e
      let c := f.carry r.1 (f.place m e)
      if tiny && ftz then (f.signBit neg, flagUF ||| flagNX ||| flagDN) else f.finish rm neg c.1 c.2 (resultFlags r.2 tiny) := by
  have htop : e + bitLen m - 1 = e + Nat.log2 m := by rw [bitLen_of_ne_zero hm]; omega
  have htiny := (Bool.eq_iff_iff.2 ((f.tiny_iff hm rm neg).trans decide_eq_true_iff.symm) : _ = decide (f.free rm neg m e < 2 ^ f.emin))
  simp only [Fmt.round, htop, htiny]
  rfl

theorem Fmt.round_flushed (ht : f.free rm neg m e < 2 ^ f.emin) : f.round rm true neg m e false = (f.signBit neg, flagUF ||| flagNX ||| flagDN) := by
  rw [Fmt.round_eq hm]
  simp [ht]

theorem Fmt.round_kept {ftz : Bool} (hk : f.free rm neg m e < 2 ^ f.emin → ftz = false) :
    let r := f.count rm neg m e
    let c := f.carry r.1 (f.place m e)
    f.round rm ftz neg m e false = f.finish rm neg c.1 c.2 (resultFlags r.2 (decide (f.free rm neg m e < 2 ^ f.emin))) := by
  rw [Fmt.round_eq hm]
  refine if_neg fun h => ?_
  obtain ⟨ht, hftz⟩ := (Bool.and_eq_true _ _).mp h
  rw [hk (of_decide_eq_true ht)] at hftz
  cases hftz

/-- A magnitude that is rounded below the bound of a format is its count and place, packed. -/
theorem Fmt.round_finite (hf : f.Standard) {ftz : Bool} (hk : f.free rm neg m e < 2 ^ f.emin → ftz = false)
    (hb : ((f.count rm neg m e).1 : ℚ) * 2 ^ f.place m e < 2 ^ f.bound) :
    ∃ n q, f.round rm ftz neg m e false = (f.pack neg n q, resultFlags (f.count rm neg m e).2 (decide (f.free rm neg m e < 2 ^ f.emin))) ∧
      (n : ℚ) * 2 ^ q = (f.count rm neg m e).1 * 2 ^ f.place m e ∧ f.decode (f.pack neg n q) = .fin neg n q := by
  have hgrid := Fmt.carry_grid hm f rm neg (e := e)
  have hvalue := f.carry_value (f.count rm neg m e).1 (f.place m e)
  rw [← hvalue] at hb
  exact ⟨_, _, (Fmt.round_kept hm rm neg hk).trans (Fmt.finish_of_lt hf hgrid _ _ _ hb), hvalue, Fmt.decode_pack hf hgrid hb neg⟩

/-- A magnitude that is rounded to the bound of a format or beyond overflows; it is not tiny. -/
theorem Fmt.round_overflow (hf : f.Standard) (ftz : Bool) (hb : (2 : ℚ) ^ f.bound ≤ (f.count rm neg m e).1 * 2 ^ f.place m e) :
    f.round rm ftz neg m e false = (f.overflow rm neg, flagOF ||| flagNX) := by
  have hk : f.free rm neg m e < 2 ^ f.emin → ftz = false := fun ht => by
    obtain ⟨-, hle⟩ := Fmt.count_of_tiny hm ht
    have hemin : f.bound ≤ f.emin := (zpow_le_zpow_iff_right₀ one_lt_two).1 (hb.trans hle)
    have := hf.exponents
    simp only [Fmt.bound, Fmt.emin] at hemin
    omega
  refine (Fmt.round_kept hm rm neg hk).trans (Fmt.finish_of_le hf (Fmt.carry_grid hm f rm neg) _ _ _ ?_)
  rwa [f.carry_value]

end

/-! ### Magnitudes a format holds -/

/-- Rounding a magnitude of the grid takes place at its own place. -/
theorem Fmt.Grid.place_eq {f : Fmt} {n m : Nat} {q e : Int} (h : f.Grid n q) (hm : m ≠ 0) (hv : (m : ℚ) * 2 ^ e = n * 2 ^ q) : f.place m e = q := by
  have hn : n ≠ 0 := by
    rintro rfl
    have := two_zpow_pos e
    simp [hm, this.ne'] at hv
  rw [Fmt.place, top_eq_of_eq hm hn hv]
  rcases h with ⟨hlt, rfl⟩ | ⟨hlow, hhigh, hq⟩
  · have := (Nat.log2_lt hn).2 hlt
    exact max_eq_right (by omega)
  · rw [log2_eq_of_mem hlow hhigh, add_sub_cancel_right, max_eq_left hq]

/-- A magnitude that a format holds is rounded to its own encoding, without a flag. -/
theorem Fmt.round_of_grid {f : Fmt} (hf : f.Standard) {n m : Nat} {q e : Int} (h : f.Grid n q) (hb : (n : ℚ) * 2 ^ q < 2 ^ f.bound) (hm : m ≠ 0)
    (hv : (m : ℚ) * 2 ^ e = n * 2 ^ q) (rm : Rm5) (neg : Bool) : f.round rm false neg m e false = (f.pack neg n q, 0) := by
  have hcount : f.count rm neg m e = (n, false) := by rw [Fmt.count, h.place_eq hm hv, roundAt_exact hv]
  have hcarry : f.carry n q = (n, q) := by
    refine if_neg ?_
    rcases h with ⟨hlt, -⟩ | ⟨-, hhigh, -⟩
    · have := Nat.pow_lt_pow_right (Nat.one_lt_two) (Nat.lt_succ_self f.mbits)
      omega
    · exact hhigh.ne
  rw [Fmt.round_kept hm rm neg fun _ => rfl, h.place_eq hm hv, hcount, hcarry, Fmt.finish_of_lt hf h _ _ _ hb]
  simp [resultFlags, flagIf]

/-- Every finite value of `f` is one of `g`. -/
structure Fmt.Within (f g : Fmt) : Prop where
  fraction : f.mbits ≤ g.mbits
  least : g.emin - g.mbits ≤ f.emin - f.mbits
  bound : f.bound ≤ g.bound

/-- A magnitude of a format is rounded to itself in a wider format. -/
theorem Fmt.Within.round_wider {f g : Fmt} (hfg : f.Within g) (hg : g.Standard) {m : Nat} {e : Int} (h : f.Grid m e) (hb : (m : ℚ) * 2 ^ e < 2 ^ f.bound)
    (hm : m ≠ 0) (rm : Rm5) (neg : Bool) :
    ∃ n q, g.round rm false neg m e false = (g.pack neg n q, 0) ∧ (n : ℚ) * 2 ^ q = m * 2 ^ e ∧ g.decode (g.pack neg n q) = .fin neg n q := by
  have hplace : g.place m e ≤ e := by
    have hlog : Nat.log2 m ≤ f.mbits := by
      refine Nat.lt_succ_iff.1 ((Nat.log2_lt hm).2 ?_)
      rcases h with ⟨hlt, -⟩ | ⟨-, hhigh, -⟩
      · exact hlt.trans (Nat.pow_lt_pow_right Nat.one_lt_two (Nat.lt_succ_self _))
      · exact hhigh
    have := hfg.fraction
    exact max_le (by omega) (hfg.least.trans h.emin_le)
  have hvalue : ((g.count rm neg m e).1 : ℚ) * 2 ^ g.place m e = m * 2 ^ e ∧ (g.count rm neg m e).2 = false := by
    rw [Fmt.count, roundAt_of_le rm neg m hplace, two_zpow_eq hplace]
    exact ⟨by push_cast; ring, rfl⟩
  obtain ⟨hvalue, hexact⟩ := hvalue
  obtain ⟨n, q, hround, hnq, hdec⟩ := Fmt.round_finite hm rm neg hg (ftz := false) (fun _ => rfl)
    (hvalue ▸ hb.trans_le (zpow_le_zpow_right₀ one_le_two hfg.bound))
  refine ⟨n, q, ?_, hnq.trans hvalue, hdec⟩
  rw [hround, hexact]
  simp [resultFlags, flagIf]

/-! ### Encodings that are no fraction -/

theorem Fmt.inf_eq_join (f : Fmt) (neg : Bool) : f.inf neg = f.join neg f.etop 0 := rfl

theorem Fmt.decode_inf (f : Fmt) (neg : Bool) : f.decode (f.inf neg) = .inf neg := by
  have hm : 0 < 2 ^ f.mbits := by positivity
  rw [Fmt.inf_eq_join, Fmt.decode, Fmt.exponent_join f.etop_lt hm, Fmt.mantissa_join hm, Fmt.sign_join f.etop_lt hm]
  exact (if_pos rfl).trans (if_pos rfl)

theorem Fmt.inf_of_decode {f : Fmt} {x : Nat} (hx : x < 2 ^ f.width) {neg : Bool} (h : f.decode x = .inf neg) : f.inf neg = x := by
  have hjoin := f.join_fields hx
  simp only [Fmt.decode] at h
  split_ifs at h with htop hmf
  rw [htop, hmf, FVal.inf.inj h] at hjoin
  exact hjoin

theorem Fmt.pack_zero (f : Fmt) (neg : Bool) (q : Int) : f.pack neg 0 q = f.signBit neg := by
  rw [Fmt.pack, if_pos (by positivity), Fmt.join, Nat.zero_mul]
  rfl

theorem Fmt.decode_zero {f : Fmt} (hf : f.Standard) (neg : Bool) : f.decode (f.signBit neg) = .fin neg 0 (f.emin - f.mbits) := by
  rw [← f.pack_zero neg (f.emin - f.mbits)]
  refine Fmt.decode_pack hf (.inl ⟨by positivity, rfl⟩) ?_ neg
  rw [Nat.cast_zero, zero_mul]
  exact two_zpow_pos _

/-- An encoding of a format that is no NaN survives the way to a wider format and back, and no flag is raised on the way (R111, R141). -/
theorem Fmt.Within.encode_back {f g : Fmt} (hfg : f.Within g) (hf : f.Standard) (hg : g.Standard) {x : Nat} (hx : x < 2 ^ f.width)
    (hnan : ∀ sig, f.decode x ≠ .nan sig) (rm : Rm5) :
    ∃ y, g.encode rm false (f.decode x) = (y, 0) ∧ (g.decode y).isSig = false ∧ f.encode rm false (g.decode y) = (x, 0) := by
  cases h : f.decode x with
  | nan sig => exact absurd h (hnan sig)
  | inf neg =>
    refine ⟨g.inf neg, rfl, ?_⟩
    rw [g.decode_inf, Fmt.encode, Fmt.inf_of_decode hx h]
    exact ⟨rfl, rfl⟩
  | fin neg m e =>
    obtain ⟨hgrid, hfield, hpack⟩ := Fmt.pack_of_decode hx h
    have hb := (hgrid.lt_bound_iff hf).2 hfield
    by_cases hm : m = 0
    · subst hm
      refine ⟨g.signBit neg, rfl, ?_⟩
      rw [Fmt.decode_zero hg, ← hpack, f.pack_zero]
      exact ⟨rfl, rfl⟩
    · obtain ⟨n, q, hround, hnq, hdec⟩ := hfg.round_wider hg hgrid hb hm rm neg
      have hn : n ≠ 0 := by
        rintro rfl
        have := two_zpow_pos e
        simp [hm, this.ne'] at hnq
      refine ⟨g.pack neg n q, (if_neg hm).trans hround, ?_⟩
      rw [hdec, Fmt.encode, if_neg hn, Fmt.round_of_grid hf hgrid hb hn hnq, hpack]
      exact ⟨rfl, rfl⟩

end Sys2Proof.Machine
end

section
/-! SUPPORT. Exact sums and products of values (R140 to R144): what each kind of operand gives, and the number that is rounded. -/

namespace Sys2Proof.Machine

/-! ### Numbers -/

section
variable (neg : Bool) (m : Nat) (e : Int)

theorem FVal.num_fin : (FVal.fin neg m e).num = (if neg then -1 else 1) * (m : ℚ) * 2 ^ e := rfl

theorem FVal.abs_num_fin : |(FVal.fin neg m e).num| = (m : ℚ) * 2 ^ e := by
  cases neg
  · simp [FVal.num_fin]
  · simp [FVal.num_fin]

theorem FVal.num_fin_eq_zero : (FVal.fin neg m e).num = 0 ↔ m = 0 := by
  rw [← abs_eq_zero, FVal.abs_num_fin, mul_eq_zero, Nat.cast_eq_zero, or_iff_left (two_zpow_pos e).ne']

variable {m} in
theorem FVal.num_fin_neg (hm : m ≠ 0) : decide ((FVal.fin neg m e).num < 0) = neg := by
  have h : (0 : ℚ) < m * 2 ^ e := mul_pos (Nat.cast_pos.2 (Nat.pos_of_ne_zero hm)) (two_zpow_pos e)
  cases neg
  · simpa [FVal.num_fin] using h.le
  · simpa [FVal.num_fin] using h

end

/-! ### Products (R140) -/

theorem sign_xor (s t : Bool) : (if s ^^ t then (-1 : ℚ) else 1) = (if s then -1 else 1) * (if t then -1 else 1) := by
  cases s <;> cases t <;> norm_num

theorem FVal.num_mul {x y : FVal} (hx : x.isFin = true) (hy : y.isFin = true) : (x.mul y).1.num = x.num * y.num := by
  cases x with
  | fin s m e => cases y with
    | fin t n g =>
      rw [FVal.mul, FVal.num_fin, FVal.num_fin, FVal.num_fin, sign_xor, zpow_add₀ two_ne_zero, Nat.cast_mul]
      ring
    | _ => cases hy
  | _ => cases hx

theorem FVal.isFin_mul {x y : FVal} (hx : x.isFin = true) (hy : y.isFin = true) : (x.mul y).1.isFin = true ∧ (x.mul y).2 = false := by
  cases x with
  | fin => cases y with
    | fin => exact ⟨rfl, rfl⟩
    | _ => cases hy
  | _ => cases hx

theorem FVal.mul_comm (x y : FVal) : x.mul y = y.mul x := by
  cases x <;> cases y <;> simp only [FVal.mul, Bool.xor_comm, Nat.mul_comm, Int.add_comm]

/-- Infinity times zero. -/
def FVal.Void (x y : FVal) : Prop :=
  x.isFin = true ∧ x.num = 0 ∧ (y.isInf true || y.isInf false) = true ∨ y.isFin = true ∧ y.num = 0 ∧ (x.isInf true || x.isInf false) = true

theorem FVal.isInf_either (n : Bool) : ((FVal.inf n).isInf true || (FVal.inf n).isInf false) = true := by cases n <;> rfl

theorem FVal.mul_invalid_iff (x y : FVal) : (x.mul y).2 = true ↔ x.Void y := by
  cases x with
  | nan => cases y <;> simp [FVal.mul, FVal.Void, FVal.isFin, FVal.isInf]
  | inf a => cases y with
    | nan => simp [FVal.mul, FVal.Void, FVal.isFin]
    | inf => simp [FVal.mul, FVal.Void, FVal.isFin]
    | fin t n g =>
      simp only [FVal.Void, FVal.isInf_either, FVal.num_fin_eq_zero, FVal.mul]
      by_cases hn : n = 0 <;> simp [hn, FVal.isFin]
  | fin s m e => cases y with
    | nan => simp [FVal.mul, FVal.Void, FVal.isFin, FVal.isInf]
    | fin => simp [FVal.mul, FVal.Void, FVal.isFin, FVal.isInf]
    | inf b =>
      simp only [FVal.Void, FVal.isInf_either, FVal.num_fin_eq_zero, FVal.mul]
      by_cases hm : m = 0 <;> simp [hm, FVal.isFin]

theorem FVal.mul_isNan_iff (x y : FVal) : (x.mul y).1.isNan = true ↔ x.isNan = true ∨ y.isNan = true ∨ x.Void y := by
  rw [← FVal.mul_invalid_iff]
  cases x with
  | nan => simp [FVal.mul, FVal.isNan]
  | inf a => cases y with
    | nan => simp [FVal.mul, FVal.isNan]
    | inf => simp [FVal.mul, FVal.isNan]
    | fin t n g => by_cases hn : n = 0 <;> simp [hn, FVal.mul, FVal.isNan]
  | fin s m e => cases y with
    | nan => simp [FVal.mul, FVal.isNan]
    | fin => simp [FVal.mul, FVal.isNan]
    | inf b => by_cases hm : m = 0 <;> simp [hm, FVal.mul, FVal.isNan]

theorem FVal.mul_nan {x y : FVal} (h : x.isNan = true ∨ y.isNan = true) : x.mul y = (.nan false, false) := by
  rcases h with h | h
  · cases x with
    | nan => rfl
    | _ => cases h
  · cases y with
    | nan => cases x <;> rfl
    | _ => cases h

theorem FVal.isNeg_mul {x y : FVal} (hx : x.isFin = true) (hy : y.isFin = true) : (x.mul y).1.isNeg = true ↔ x.isNeg ≠ y.isNeg := by
  cases x with
  | fin s => cases y with
    | fin t => simp [FVal.mul, FVal.isNeg]
    | _ => cases hy
  | _ => cases hx

/-- An infinity times anything but a NaN or a zero. -/
theorem FVal.inf_mul {n : Bool} {y : FVal} (hy : y.isNan = false) (hz : y.isFin = true → y.num ≠ 0) : (FVal.inf n).mul y = (.inf (n ^^ y.isNeg), false) := by
  cases y with
  | nan => cases hy
  | inf => rfl
  | fin t k g => exact if_neg fun hk => hz rfl ((FVal.num_fin_eq_zero t k g).2 hk)

theorem FVal.inf_mul_zero {n : Bool} {y : FVal} (hy : y.isFin = true) (hz : y.num = 0) : (FVal.inf n).mul y = (.nan false, true) := by
  cases y with
  | fin t k g => exact if_pos ((FVal.num_fin_eq_zero t k g).1 hz)
  | _ => cases hy

theorem FVal.isSig_eq_false {x : FVal} (h : x.isNan = false) : x.isSig = false := by
  cases x with
  | nan => cases h
  | _ => rfl

theorem FVal.isSig_of_fin_or_inf {x : FVal} {n : Bool} (h : x.isFin = true ∨ x = .inf n) : x.isSig = false := by
  cases x with
  | nan => rcases h with h | h <;> cases h
  | _ => rfl

/-- A product that is an infinity is of no NaN, and not infinity times zero. -/
theorem FVal.of_mul_eq_inf {x y : FVal} {n : Bool} (h : (x.mul y).1 = .inf n) : x.isSig = false ∧ y.isSig = false ∧ (x.mul y).2 = false := by
  have hnan := mt (FVal.mul_isNan_iff x y).2 (by rw [h]; exact Bool.false_ne_true)
  rw [not_or, not_or, Bool.not_eq_true, Bool.not_eq_true, ← FVal.mul_invalid_iff, Bool.not_eq_true] at hnan
  obtain ⟨hx, hy, hvalid⟩ := hnan
  exact ⟨FVal.isSig_eq_false hx, FVal.isSig_eq_false hy, hvalid⟩

theorem FVal.isNan_of_isFin {x : FVal} (h : x.isFin = true) : x.isNan = false := by
  cases x with
  | fin => rfl
  | _ => cases h

/-! ### Sums of two terms (R140, R141) -/

section
variable (f : Fmt) (rm : Rm5) (ftz : Bool)

theorem Fmt.sum_nan {x y : FVal} (h : x.isNan = true ∨ y.isNan = true) : f.sum rm ftz [x, y] = (f.nan, 0) := by
  rcases h with h | h
  · cases x with
    | nan => cases y <;> simp [Fmt.sum, FVal.isInf, FVal.isNan, flagIf]
    | _ => cases h
  · cases y with
    | nan => cases x <;> simp [Fmt.sum, FVal.isInf, FVal.isNan, flagIf]
    | _ => cases h

theorem Fmt.sum_opposite (n : Bool) : f.sum rm ftz [.inf n, .inf (!n)] = (f.nan, flagNV) := by
  cases n <;> simp [Fmt.sum, FVal.isInf, flagIf]

theorem Fmt.sum_inf_left (n : Bool) {y : FVal} (h : y.isFin = true ∨ y = .inf n) : f.sum rm ftz [.inf n, y] = (f.inf n, 0) := by
  rcases h with h | rfl
  · cases y with
    | fin => cases n <;> simp [Fmt.sum, FVal.isInf, FVal.isNan]
    | _ => cases h
  · cases n <;> simp [Fmt.sum, FVal.isInf, FVal.isNan]

theorem Fmt.sum_inf_right (n : Bool) {x : FVal} (h : x.isFin = true) : f.sum rm ftz [x, .inf n] = (f.inf n, 0) := by
  cases x with
  | fin => cases n <;> simp [Fmt.sum, FVal.isInf, FVal.isNan]
  | _ => cases h

end

/-- The least of some exponents and zero is below each of them. -/
theorem foldl_min_le (es : List Int) (z : Int) : es.foldl min z ≤ z ∧ ∀ e ∈ es, es.foldl min z ≤ e := by
  induction es generalizing z with
  | nil => simp
  | cons a t ih =>
    obtain ⟨hz, ht⟩ := ih (min z a)
    refine ⟨hz.trans (min_le_left _ _), fun e he => ?_⟩
    rcases List.mem_cons.1 he with rfl | he
    · exact hz.trans (min_le_right _ _)
    · exact ht e he

/-- The exponent at which the terms of a sum are whole numbers. -/
def sumPlace (ts : List FVal) : Int := (ts.filterMap FVal.expo?).foldl min 0

/-- A finite term of a sum is a whole number at the sum's place. -/
theorem FVal.scaled_num {ts : List FVal} {x : FVal} (hx : x ∈ ts) (hfin : x.isFin = true) : (x.scaled (sumPlace ts) : ℚ) * 2 ^ sumPlace ts = x.num := by
  cases x with
  | fin neg m e =>
    by_cases hm : m = 0
    · simp [hm, FVal.scaled, FVal.num_fin]
    · have hle : sumPlace ts ≤ e := (foldl_min_le _ 0).2 e (List.mem_filterMap.2 ⟨_, hx, if_neg hm⟩)
      rw [FVal.num_fin, FVal.scaled, two_zpow_eq hle]
      cases neg <;> push_cast <;> ring
  | _ => cases hfin

/-- Two finite terms as a whole number of places. -/
def pairSum (x y : FVal) : Int := x.scaled (sumPlace [x, y]) + y.scaled (sumPlace [x, y])

theorem pairSum_num {x y : FVal} (hx : x.isFin = true) (hy : y.isFin = true) : (pairSum x y : ℚ) * 2 ^ sumPlace [x, y] = x.num + y.num := by
  rw [pairSum, Int.cast_add, add_mul, FVal.scaled_num (by simp) hx, FVal.scaled_num (by simp) hy]

theorem f32_signBit (neg : Bool) : f32.signBit neg = if neg then 2 ^ 31 else 0 := rfl

/-- A sum of two finite terms is rounded once where it is not zero, and is the zero of R141 where it is. -/
theorem f32_sum_eq {x y : FVal} (hx : x.isFin = true) (hy : y.isFin = true) (rm : Rm5) (ftz : Bool) :
    f32.sum rm ftz [x, y] =
      if pairSum x y = 0 then (zeroSum rm [x, y], 0)
      else f32.round rm ftz (decide (pairSum x y < 0)) (pairSum x y).natAbs (sumPlace [x, y]) false := by
  have hsum : ([x, y].map (FVal.scaled (sumPlace [x, y]))).sum = pairSum x y := by simp [pairSum]
  cases x with
  | fin s m e => cases y with
    | fin t n g =>
      unfold Fmt.sum
      rw [if_neg (by simp [FVal.isNan, FVal.isInf]), if_neg (by simp [FVal.isInf]), if_neg (by simp [FVal.isInf])]
      have hplace : ([FVal.fin s m e, .fin t n g].filterMap FVal.expo?).foldl min 0 = sumPlace [.fin s m e, .fin t n g] := rfl
      simp only [hplace, hsum, f32_signBit]
      refine if_congr Iff.rfl ?_ rfl
      by_cases hzero : m = 0 ∧ n = 0
      · obtain ⟨rfl, rfl⟩ := hzero
        cases s <;> cases t <;> simp [FVal.expo?, zeroSum, FVal.isZero]
      · have hsome : ([FVal.fin s m e, .fin t n g].any fun v => v.expo?.isSome) = true := by
          simpa [FVal.expo?] using not_and_or.1 hzero
        have hnone (b : Bool) : [FVal.fin s m e, .fin t n g].all (FVal.isZero b) = false := by
          simp only [FVal.isZero, List.all_cons, List.all_nil, Bool.and_true, Bool.and_eq_false_iff, beq_eq_false_iff_ne]
          tauto
        simp [hsome, zeroSum, hnone]
    | _ => cases hy
  | _ => cases hx

end Sys2Proof.Machine
end

section
/-! OBLIGATION. Rounding is right, by mode and once; sums, products and fused values of f32; f16 and bf16 by way of f32 (R111, R113, R137, R140 to R144). -/

namespace Sys2Proof.Machine

/-! ### The formats -/

theorem f32_standard : f32.Standard := ⟨by decide, by decide⟩
theorem f16_standard : f16.Standard := ⟨by decide, by decide⟩
theorem bf16_standard : bf16.Standard := ⟨by decide, by decide⟩

theorem f16_within_f32 : f16.Within f32 := ⟨by decide, by decide, by decide⟩
theorem bf16_within_f32 : bf16.Within f32 := ⟨by decide, by decide, by decide⟩

theorem f32_overflow (rm : Rm5) (neg : Bool) :
    f32.overflow rm neg = (if rm = .rtz ∨ rm = .rdn ∧ neg = false ∨ rm = .rup ∧ neg = true then 0x7F7FFFFF else 0x7F800000) + (if neg then 2 ^ 31 else 0) := by
  cases rm <;> cases neg <;> decide

theorem resultFlags_eq (inexact : Bool) (tiny : Prop) [Decidable tiny] :
    resultFlags inexact (decide tiny) = flagIf inexact flagNX ||| if tiny ∧ inexact = true then flagUF else 0 := by
  by_cases ht : tiny <;> cases inexact <;> simp [resultFlags, flagIf, ht]

/-! ### Rounding to f32 (R137) -/

/-- The second part of `Obligations.RoundingIsCorrect`. -/
theorem f32_round_correct (rm : Rm5) (ftz neg : Bool) {m : Nat} (e : Int) (hm : m ≠ 0) :
    let top := e + Nat.log2 m
    let free : ℚ := (roundAt rm neg m e (top - 23) false).1 * 2 ^ (top - 23)
    let q := max (top - 23) (-149)
    let r := roundAt rm neg m e q false
    let y : ℚ := (r.1 : ℚ) * 2 ^ q
    let tiny := free < 2 ^ (-126 : Int)
    let out := f32.round rm ftz neg m e false
    let sign := if neg then 2 ^ 31 else 0
    (tiny → ftz = true → out = (sign, flagUF ||| flagNX ||| flagDN)) ∧
    (2 ^ 128 ≤ y → out = ((if rm = .rtz ∨ rm = .rdn ∧ neg = false ∨ rm = .rup ∧ neg = true then 0x7F7FFFFF else 0x7F800000) + sign, flagOF ||| flagNX)) ∧
    (y < 2 ^ 128 → (tiny → ftz = false) → f32.Finite out.1 neg y ∧ out.2 = (flagIf r.2 flagNX ||| if tiny ∧ r.2 = true then flagUF else 0)) := by
  intro top free q r y tiny out sign
  refine ⟨fun ht hftz => ?_, fun hy => ?_, fun hy hk => ?_⟩
  · rw [show out = f32.round rm true neg m e false by rw [← hftz]]
    exact Fmt.round_flushed hm rm neg ht
  · rw [← f32_overflow]
    exact Fmt.round_overflow hm rm neg f32_standard ftz hy
  · obtain ⟨n, p, hround, hvalue, hdec⟩ := Fmt.round_finite hm rm neg f32_standard hk hy
    rw [show out = _ from hround]
    exact ⟨⟨n, p, hdec, hvalue⟩, resultFlags_eq _ _⟩

/-- Rounding the magnitude of a number that is not zero, with the flags of the operands. -/
theorem roundedOnce {c : BitVec 4} {v : ℚ} {m : Nat} {e : Int} {neg : Bool} (dn : FFlags) (hm : m ≠ 0) (habs : |v| = m * 2 ^ e) (hneg : decide (v < 0) = neg) :
    RoundedOnce c v dn ((f32.round (fpcRm c) (fpcFtz c) neg m e false).1, (f32.round (fpcRm c) (fpcFtz c) neg m e false).2 ||| dn) :=
  ⟨m, e, hm, habs, by rw [hneg]⟩

/-! ### The operations over values -/

/-- A sum of two finite values: rounded once, or the zero of R141. -/
theorem f32_sum_fin {x y : FVal} (hx : x.isFin = true) (hy : y.isFin = true) (c : BitVec 4) (dn : FFlags) :
    let r := f32.sum (fpcRm c) (fpcFtz c) [x, y]
    (x.num + y.num ≠ 0 → RoundedOnce c (x.num + y.num) dn (r.1, r.2 ||| dn)) ∧ (x.num + y.num = 0 → r = (zeroSum (fpcRm c) [x, y], 0)) := by
  intro r
  have hpos := two_zpow_pos (sumPlace [x, y])
  have hzero : x.num + y.num = 0 ↔ pairSum x y = 0 := by
    rw [← pairSum_num hx hy, mul_eq_zero, or_iff_left hpos.ne', Int.cast_eq_zero]
  have hr := f32_sum_eq hx hy (fpcRm c) (fpcFtz c)
  refine ⟨fun hv => ?_, fun hv => ?_⟩
  · have ht := mt hzero.2 hv
    rw [if_neg ht] at hr
    rw [show r = _ from hr]
    refine roundedOnce dn (Int.natAbs_ne_zero.2 ht) ?_ ?_
    · rw [← pairSum_num hx hy, abs_mul, abs_of_pos hpos, Nat.cast_natAbs, Int.cast_abs]
    · rw [← pairSum_num hx hy]
      simp [mul_neg_iff, hpos, hpos.not_gt]
  · exact hr.trans (if_pos (hzero.1 hv))

/-- A finite value is encoded by rounding it once, or is the zero of its sign. -/
theorem f32_encode_fin {p : FVal} (hp : p.isFin = true) (c : BitVec 4) (dn : FFlags) :
    let r := f32.encode (fpcRm c) (fpcFtz c) p
    (p.num ≠ 0 → RoundedOnce c p.num dn (r.1, r.2 ||| dn)) ∧ (p.num = 0 → r = (if p.isNeg then 2 ^ 31 else 0, 0)) := by
  cases p with
  | fin neg m e =>
    rw [Ne, FVal.num_fin_eq_zero]
    refine ⟨fun hm => ?_, fun hm => if_pos hm⟩
    rw [Fmt.encode, if_neg hm]
    exact roundedOnce dn hm (FVal.abs_num_fin neg m e) (FVal.num_fin_neg neg e hm)
  | _ => cases hp

theorem f32_inf (neg : Bool) : f32.inf neg = if neg then 0xFF800000 else 0x7F800000 := by cases neg <;> rfl

/-- An operand that is no finite value raises no flag as it is read (R142). -/
theorem Fmt.input_flags {f : Fmt} {daz : Bool} {a : Nat} (h : (f.input daz a).1.isFin = false) : (f.input daz a).2 = 0 := by
  unfold Fmt.input at h ⊢
  cases hd : f.decode a with
  | fin neg m e =>
    rw [hd] at h
    dsimp only at h
    split_ifs at h
    · cases h
    · cases h
  | _ => rfl

/-- A result with the flags `dn` of its operands, and NV where the operation is invalid. -/
def merged (r : Nat × FFlags) (dn : FFlags) (nv : Bool) : Nat × FFlags := (r.1, r.2 ||| dn ||| flagIf nv flagNV)

theorem merged_valid (r : Nat × FFlags) (dn : FFlags) : merged r dn false = (r.1, r.2 ||| dn) :=
  congrArg (Prod.mk r.1) BitVec.or_zero

theorem merged_clean (n : Nat) (dn : FFlags) (nv : Bool) : merged (n, 0) dn nv = (n, flagIf nv flagNV ||| dn) :=
  congrArg (Prod.mk n) ((congrArg (· ||| flagIf nv flagNV) BitVec.zero_or).trans (BitVec.or_comm _ _))

theorem merged_clean_valid (n : Nat) (dn : FFlags) : merged (n, 0) dn false = (n, dn) :=
  (merged_valid _ _).trans (congrArg (Prod.mk n) BitVec.zero_or)

/-! ### fadd, fsub, fmul and ffma on f32 (R144) -/

section
variable (f : Fmt) (c : BitVec 4) (a b : Nat)

theorem Fmt.add_eq :
    let x := f.input (fpcDaz c) a
    let y := f.input (fpcDaz c) b
    f.add c a b = merged (f.sum (fpcRm c) (fpcFtz c) [x.1, y.1]) (x.2 ||| y.2) (x.1.isSig || y.1.isSig) := by
  intro x y
  rw [merged, BitVec.or_comm (f.sum _ _ _).2]
  rfl

theorem Fmt.mul_eq :
    let x := f.input (fpcDaz c) a
    let y := f.input (fpcDaz c) b
    f.mul c a b = merged (f.encode (fpcRm c) (fpcFtz c) (x.1.mul y.1).1) (x.2 ||| y.2) ((x.1.mul y.1).2 || (x.1.isSig || y.1.isSig)) := by
  intro x y
  rw [merged, BitVec.or_comm (f.encode _ _ _).2, BitVec.or_assoc (x.2 ||| y.2), ← Bool.or_assoc]
  rfl

theorem Fmt.fma_eq (d : Nat) :
    let x := f.input (fpcDaz c) a
    let y := f.input (fpcDaz c) b
    let z := f.input (fpcDaz c) d
    f.fma c a b d = merged (f.sum (fpcRm c) (fpcFtz c) [(x.1.mul y.1).1, z.1]) (x.2 ||| y.2 ||| z.2)
      ((x.1.mul y.1).2 || (x.1.isSig || y.1.isSig || z.1.isSig)) := by
  intro x y z
  have h : f.fma c a b d = ((f.sum (fpcRm c) (fpcFtz c) [(x.1.mul y.1).1, z.1]).1, (f.sum (fpcRm c) (fpcFtz c) [(x.1.mul y.1).1, z.1]).2 ||| z.2 |||
      (0#6 ||| x.2 ||| y.2) ||| flagIf (z.1.isSig || (x.1.isSig || y.1.isSig || false) || ((x.1.mul y.1).2 || false)) flagNV) := rfl
  rw [h, merged, BitVec.zero_or, Bool.or_false, Bool.or_false, BitVec.or_assoc (f.sum _ _ _).2, BitVec.or_comm z.2, Bool.or_comm z.1.isSig,
    Bool.or_comm _ (x.1.mul y.1).2]

theorem Fmt.mul_comm : f.mul c a b = f.mul c b a := by
  rw [Fmt.mul_eq, Fmt.mul_eq, FVal.mul_comm, BitVec.or_comm (f.input (fpcDaz c) a).2, Bool.or_comm (f.input (fpcDaz c) a).1.isSig]

end

/-- The third part of `Obligations.RoundingIsCorrect`: fadd, fsub and fmul. -/
theorem f32_add_mul_correct (c : BitVec 4) (a b : Nat) :
    let x := f32.input (fpcDaz c) a
    let y := f32.input (fpcDaz c) b
    let nv := flagIf (x.1.isSig || y.1.isSig) flagNV
    let dn := x.2 ||| y.2
    f32.sub c a b = f32.add c a (b ^^^ 2 ^ 31) ∧
    (x.1.isNan = true ∨ y.1.isNan = true → f32.add c a b = (0x7FC00000, nv ||| dn) ∧ f32.mul c a b = (0x7FC00000, nv ||| dn)) ∧
    (x.1.isFin = true → y.1.isFin = true →
      (x.1.num + y.1.num ≠ 0 → RoundedOnce c (x.1.num + y.1.num) dn (f32.add c a b)) ∧ (x.1.num + y.1.num = 0 → f32.add c a b = (zeroSum (fpcRm c) [x.1, y.1], dn)) ∧
      (x.1.num * y.1.num ≠ 0 → RoundedOnce c (x.1.num * y.1.num) dn (f32.mul c a b)) ∧ (x.1.num * y.1.num = 0 → f32.mul c a b = (if x.1.isNeg ≠ y.1.isNeg then 2 ^ 31 else 0, dn))) ∧
    (∀ n, x.1 = .inf n → (y.1.isFin = true ∨ y.1 = .inf n → f32.add c a b = (if n then 0xFF800000 else 0x7F800000, dn)) ∧ (y.1 = .inf (!n) → f32.add c a b = (0x7FC00000, flagNV)) ∧
      (y.1.isFin = true → y.1.num = 0 → f32.mul c a b = (0x7FC00000, flagNV ||| dn)) ∧
      (y.1.isNan = false → (y.1.isFin = true → y.1.num ≠ 0) → f32.mul c a b = (if n ≠ y.1.isNeg then 0xFF800000 else 0x7F800000, dn))) ∧
    (∀ n, y.1 = .inf n → x.1.isFin = true → f32.add c a b = (if n then 0xFF800000 else 0x7F800000, dn) ∧ f32.mul c a b = f32.mul c b a) := by
  intro x y nv dn
  have hadd : f32.add c a b = merged (f32.sum (fpcRm c) (fpcFtz c) [x.1, y.1]) dn (x.1.isSig || y.1.isSig) := f32.add_eq c a b
  have hmul : f32.mul c a b = merged (f32.encode (fpcRm c) (fpcFtz c) (x.1.mul y.1).1) dn ((x.1.mul y.1).2 || (x.1.isSig || y.1.isSig)) := f32.mul_eq c a b
  refine ⟨rfl, fun h => ⟨?_, ?_⟩, fun hx hy => ?_, fun n hxn => ⟨fun hy => ?_, fun hy => ?_, fun hy hzero => ?_, fun hy hzero => ?_⟩,
    fun n hyn hx => ⟨?_, f32.mul_comm c a b⟩⟩
  · rw [hadd, Fmt.sum_nan _ _ _ h]
    exact merged_clean _ _ _
  · rw [hmul, FVal.mul_nan h]
    exact merged_clean _ _ _
  · obtain ⟨hsum, hsum0⟩ := f32_sum_fin hx hy c dn
    obtain ⟨hfin, hvalid⟩ := FVal.isFin_mul hx hy
    obtain ⟨hprod, hprod0⟩ := f32_encode_fin hfin c dn
    rw [FVal.num_mul hx hy] at hprod hprod0
    rw [hadd, hmul, hvalid, FVal.isSig_eq_false (FVal.isNan_of_isFin hx), FVal.isSig_eq_false (FVal.isNan_of_isFin hy)]
    refine ⟨fun hv => ?_, fun hv => ?_, fun hv => ?_, fun hv => ?_⟩
    · exact merged_valid _ dn ▸ hsum hv
    · rw [hsum0 hv]
      exact merged_clean_valid _ _
    · exact merged_valid _ dn ▸ hprod hv
    · rw [hprod0 hv, if_congr (FVal.isNeg_mul hx hy) rfl rfl]
      exact merged_clean_valid _ _
  · rw [hadd, hxn, FVal.isSig_of_fin_or_inf hy, Fmt.sum_inf_left _ _ _ _ hy, f32_inf]
    exact merged_clean_valid _ _
  · have hdn : dn = 0 := by
      rw [show dn = x.2 ||| y.2 from rfl, Fmt.input_flags (by rw [hxn]; rfl), Fmt.input_flags (by rw [hy]; rfl)]
      rfl
    rw [hadd, hxn, hy, Fmt.sum_opposite, hdn]
    exact merged_valid (f32.nan, flagNV) 0
  · rw [hmul, hxn, FVal.inf_mul_zero hy hzero]
    exact merged_clean _ _ true
  · rw [hmul, hxn, FVal.inf_mul hy hzero, FVal.isSig_eq_false hy, Fmt.encode, f32_inf, if_congr bne_iff_ne rfl rfl]
    exact merged_clean_valid _ _
  · rw [hadd, hyn, Fmt.sum_inf_right _ _ _ _ hx, FVal.isSig_eq_false (FVal.isNan_of_isFin hx), f32_inf]
    exact merged_clean_valid _ _

theorem flagIf_eq_ite {c : Bool} {p : Prop} [Decidable p] (h : c = true ↔ p) (fl : FFlags) : flagIf c fl = if p then fl else 0 := if_congr h rfl rfl

/-- The fourth part of `Obligations.RoundingIsCorrect`: ffma. -/
theorem f32_fma_correct (c : BitVec 4) (a b d : Nat) :
    let x := f32.input (fpcDaz c) a
    let y := f32.input (fpcDaz c) b
    let z := f32.input (fpcDaz c) d
    let dn := x.2 ||| y.2 ||| z.2
    let void := x.1.isFin = true ∧ x.1.num = 0 ∧ (y.1.isInf true || y.1.isInf false) = true ∨ y.1.isFin = true ∧ y.1.num = 0 ∧ (x.1.isInf true || x.1.isInf false) = true
    let v := x.1.num * y.1.num + z.1.num
    (x.1.isNan = true ∨ y.1.isNan = true ∨ z.1.isNan = true ∨ void →
      f32.fma c a b d = (0x7FC00000, (if void ∨ x.1.isSig = true ∨ y.1.isSig = true ∨ z.1.isSig = true then flagNV else 0) ||| dn)) ∧
    (x.1.isFin = true → y.1.isFin = true → z.1.isFin = true →
      (v ≠ 0 → RoundedOnce c v dn (f32.fma c a b d)) ∧ (v = 0 → f32.fma c a b d = (zeroSum (fpcRm c) [(x.1.mul y.1).1, z.1], dn))) ∧
    (x.1.isFin = true → y.1.isFin = true → ∀ n, z.1 = .inf n → f32.fma c a b d = (if n then 0xFF800000 else 0x7F800000, dn)) ∧
    (∀ n, (x.1.mul y.1).1 = .inf n → (z.1.isFin = true ∨ z.1 = .inf n → f32.fma c a b d = (if n then 0xFF800000 else 0x7F800000, dn)) ∧
      (z.1 = .inf (!n) → f32.fma c a b d = (0x7FC00000, flagNV ||| dn))) := by
  intro x y z dn void v
  have hvoid : (x.1.mul y.1).2 = true ↔ void := FVal.mul_invalid_iff x.1 y.1
  have hfma : f32.fma c a b d = merged (f32.sum (fpcRm c) (fpcFtz c) [(x.1.mul y.1).1, z.1]) dn ((x.1.mul y.1).2 || (x.1.isSig || y.1.isSig || z.1.isSig)) :=
    f32.fma_eq c a b d
  rw [hfma]
  refine ⟨fun h => ?_, fun hx hy hz => ?_, fun hx hy n hz => ?_, fun n hn => ?_⟩
  · have hnan : (x.1.mul y.1).1.isNan = true ∨ z.1.isNan = true := by
      rw [FVal.mul_isNan_iff, ← FVal.mul_invalid_iff, hvoid]
      tauto
    have hnv : ((x.1.mul y.1).2 || (x.1.isSig || y.1.isSig || z.1.isSig)) = true ↔ void ∨ x.1.isSig = true ∨ y.1.isSig = true ∨ z.1.isSig = true := by
      rw [Bool.or_eq_true, Bool.or_eq_true, Bool.or_eq_true, or_assoc (a := x.1.isSig = true)]
      exact or_congr_left hvoid
    rw [Fmt.sum_nan _ _ _ hnan, ← flagIf_eq_ite hnv]
    exact merged_clean _ _ _
  · obtain ⟨hfin, hvalid⟩ := FVal.isFin_mul hx hy
    obtain ⟨hsum, hsum0⟩ := f32_sum_fin hfin hz c dn
    rw [FVal.num_mul hx hy] at hsum hsum0
    rw [hvalid, FVal.isSig_eq_false (FVal.isNan_of_isFin hx), FVal.isSig_eq_false (FVal.isNan_of_isFin hy), FVal.isSig_eq_false (FVal.isNan_of_isFin hz)]
    refine ⟨fun hv => merged_valid _ dn ▸ hsum hv, fun hv => ?_⟩
    rw [hsum0 hv]
    exact merged_clean_valid _ _
  · obtain ⟨hfin, hvalid⟩ := FVal.isFin_mul hx hy
    rw [hvalid, FVal.isSig_eq_false (FVal.isNan_of_isFin hx), FVal.isSig_eq_false (FVal.isNan_of_isFin hy), hz, Fmt.sum_inf_right _ _ _ _ hfin, f32_inf]
    exact merged_clean_valid _ _
  · obtain ⟨hx, hy, hvalid⟩ := FVal.of_mul_eq_inf hn
    rw [hn, hvalid, hx, hy]
    refine ⟨fun hz => ?_, fun hz => ?_⟩
    · rw [FVal.isSig_of_fin_or_inf hz, Fmt.sum_inf_left _ _ _ _ hz, f32_inf]
      exact merged_clean_valid _ _
    · rw [hz, Fmt.sum_opposite]
      exact merged_valid _ _

/-! ### f16 and bf16 by way of f32 (R111, R127) -/

theorem ftypePut_low (ty : FType) (y : Nat) : ftypePut ty false 0 y = y := by
  cases ty <;> simp [ftypePut]

theorem ftypeGet_low {ty : FType} {x : Nat} (hx : x < 2 ^ 16) : ftypeGet ty false x = x := by
  have hhalf : halfOf x 0 = x := fld_zero_of_lt hx
  cases ty
  · rfl
  · exact hhalf
  · exact hhalf

/-- A conversion whose value needs no flag. -/
theorem fcvtOf_of_encode {dty sty : FType} {rm : Rm5} {a w y : Nat} (hget : ftypeGet sty false a = w) (hsig : ((ftypeFmt sty).decode w).isSig = false)
    (henc : (ftypeFmt dty).encode rm false ((ftypeFmt sty).decode w) = (y, 0)) : fcvtOf dty sty false false rm a 0 = (y, 0) := by
  rw [fcvtOf, hget, henc, hsig]
  exact congrArg (fun r => (r, (0 : FFlags))) (ftypePut_low dty y)

/-- The fifth part of `Obligations.RoundingIsCorrect`. -/
theorem fcvt_there_and_back {ty : FType} (rm : Rm5) {x : Nat} (ht : ty ≠ .f32) (hx : x < 2 ^ 16) (hnan : ∀ sig, (ftypeFmt ty).decode x ≠ .nan sig) :
    let y := fcvtOf .f32 ty false false rm x 0
    y.2 = 0 ∧ fcvtOf ty .f32 false false rm y.1 0 = (x, 0) := by
  have hback : ∃ y, f32.encode rm false ((ftypeFmt ty).decode x) = (y, 0) ∧ (f32.decode y).isSig = false ∧ (ftypeFmt ty).encode rm false (f32.decode y) = (x, 0) := by
    cases ty with
    | f32 => exact absurd rfl ht
    | f16 => exact f16_within_f32.encode_back f16_standard f32_standard hx hnan rm
    | bf16 => exact bf16_within_f32.encode_back bf16_standard f32_standard hx hnan rm
  obtain ⟨y, hthere, hsig, hback⟩ := hback
  have hquiet : ((ftypeFmt ty).decode x).isSig = false := by
    cases h : (ftypeFmt ty).decode x with
    | nan sig => exact absurd h (hnan sig)
    | _ => rfl
  rw [fcvtOf_of_encode (dty := .f32) (ftypeGet_low hx) hquiet hthere]
  exact ⟨rfl, fcvtOf_of_encode (sty := .f32) rfl hsig hback⟩

/-- Settles O13: each part by what rounding promises of the exact value that the operation rounds. -/
theorem roundingIsCorrect : Obligations.RoundingIsCorrect := by
  unfold Obligations.RoundingIsCorrect
  exact ⟨roundAt_correct, fun rm ftz neg m e hm => f32_round_correct rm ftz neg e hm, fun c a b _ _ => f32_add_mul_correct c a b, f32_fma_correct,
    fun ty rm x ht hx hnan => fcvt_there_and_back rm ht hx hnan⟩

end Sys2Proof.Machine
end

section
/-! SUPPORT. Words that count on a dependency counter (R61, R62, R134): what counting changes, and that a retiring word leaves the counted instructions as they are. -/

namespace Sys2Proof.Machine

/-! ### Retiring leaves the counted instructions -/

theorem Warp.applySpecials_inflight (xs : List SpecialWrite) (w : Warp) : (xs.foldl Warp.applySpecial w).inflight = w.inflight := by
  induction xs generalizing w with
  | nil => rfl
  | cons x t ih =>
    rw [List.foldl_cons, ih]
    unfold Warp.applySpecial
    split <;> rfl

theorem Warp.crossed_inflight (w : Warp) (coll : Bool) (g : Nat) : (w.crossed coll g).inflight = w.inflight := by
  obtain ⟨o, e, hc, -⟩ := w.crossed_eq coll g
  rw [hc]

theorem Warp.closeGroup_inflight (w : Warp) (coll : Bool) (g clk : Nat) : (w.closeGroup coll g clk).inflight = w.inflight := by
  unfold Warp.closeGroup
  dsimp only
  rw [Warp.applySpecials_inflight, Warp.crossed_inflight]
  split <;> rfl

theorem Warp.retireTo_inflight (w : Warp) (coll : Bool) (g clk : Nat) (h : Hdr) (words weight : Nat) (tgt : Nat → DWord) :
    (w.retireTo coll g clk h words weight tgt).inflight = w.inflight := by
  unfold Warp.retireTo
  dsimp only
  split_ifs
  · obtain ⟨o, e, l, n, hp⟩ := Warp.parkMid_eq _ coll g
    rw [hp]
  · exact Warp.closeGroup_inflight _ coll g clk
  · exact Warp.closeGroup_inflight _ coll g clk

theorem State.retire_inflight {s : State} (h : s.Here) (i : Instr) : (s.retire i).w.inflight = s.w.inflight := by
  rw [State.retire, State.modW_w h]
  exact Warp.retireTo_inflight _ _ _ _ _ _ _ _

/-! ### Counting -/

/-- Leaving registers to a later word changes no more of a warp than what its counted instructions of the same group have ceded (R38). -/
theorem Warp.overruleAll_eq (regs : List RegId) (m : Warp → RegId → Word) (w : Warp) :
    ∃ g : Inflight → Inflight, regs.foldl (fun w r => w.overrule r (m w r)) w = { w with inflight := w.inflight.map g } ∧
      ∀ f, (g f).bare = f.bare ∧ (f.at_ ≠ w.sched → g f = f) := by
  induction regs generalizing w with
  | nil => exact ⟨id, by rw [List.map_id]; rfl, fun f => ⟨rfl, fun _ => rfl⟩⟩
  | cons r t ih =>
    obtain ⟨g, hg, hceded⟩ := ih (w.overrule r (m w r))
    refine ⟨fun f => g (if f.at_ = w.sched then { f with ceded := f.ceded ++ [(r, m w r)] } else f), ?_, fun f => ?_⟩
    · rw [List.foldl_cons, hg]
      simp only [Warp.overrule, List.map_map]
      rfl
    · dsimp only
      split_ifs with hf
      · exact ⟨(hceded _).1, fun hne => absurd hf hne⟩
      · exact hceded f

/-- A completed word that counts on `c` is the youngest of the counted instructions; each of the earlier ones loses at most what it has ceded, and that only in the word's own group. -/
theorem Warp.count_spec (w : Warp) (c : Nat) (regs : List RegId) (ws : List RegWrite) :
    let t := w.count (some c) regs true ws
    (∃ g : Inflight → Inflight, t.inflight = w.inflight.map g ++ [⟨w.seqNo, c, true, ws, w.sched, []⟩] ∧
      ∀ f, (g f).bare = f.bare ∧ (f.at_ ≠ w.sched → g f = f)) ∧
    t.seqNo = w.seqNo + 1 ∧ t.dcIssued = SMap.put w.dcIssued c (SMap.get 0 w.dcIssued c + 1) ∧
    t.marks = w.marks ++ (regs.map fun r => ⟨r, c, SMap.get 0 w.dcIssued c + 1⟩) ∧ t.uncounted w = w := by
  obtain ⟨g, hg, hceded⟩ := Warp.overruleAll_eq regs (fun w r => laneMask w.active r) w
  dsimp only [Warp.count]
  rw [hg]
  exact ⟨⟨g, rfl, hceded⟩, rfl, rfl, rfl, rfl⟩

theorem Warp.uncounted_still (t w : Warp) : (t.uncounted w).still = t.still.uncounted w.still := rfl

theorem Warp.flagging_uncounted (t w : Warp) (n : Nat) : (t.flagging n).uncounted w = t.uncounted w := rfl

/-- A word that changes its warp's count and flags alone, from a warp `u`, and retires. -/
theorem State.counted_retire_spec {s : State} (h : s.Here) (i : Instr) {u v : Warp} (hv : v.uncounted u = u)
    (hpc : u.runPc = s.w.runPc) (hdef : u.deferred = s.w.deferred) (hspec : u.specials = s.w.specials) :
    let t := (s.setW v).retire i
    s.OnlyWarp t ∧ s.Passed t i ∧ (t.w.uncounted u).still = u.still ∧ t.w.pend = u.pend ∧ t.w.axf = u.axf ∧
      t.w.inflight = v.inflight ∧ t.w.seqNo = v.seqNo ∧ t.w.marks = v.marks ∧ t.w.dcIssued = v.dcIssued := by
  intro t
  have same {α : Type} (f : Warp → α) (hf : ∀ x : Warp, f (x.uncounted u) = f x) : f v = f u := (hf v).symm.trans (congrArg f hv)
  have ht : t = (s.modW fun _ => v).retire i := by rw [State.modW_eq h]
  obtain ⟨honly, hpass, hstill, hpend⟩ := State.modW_retire_spec h (fun _ => v) i ((same Warp.runPc fun _ => rfl).trans hpc)
    ((same Warp.deferred fun _ => rfl).trans hdef) ((same Warp.specials fun _ => rfl).trans hspec)
  have hin := State.retire_inflight (State.modW_isSome h fun _ => v) i
  rw [State.modW_w h] at hin
  rw [← ht] at honly hpass hstill hpend hin
  have kept {α : Type} (f : Warp → α) (hf : ∀ x : Warp, f x.still = f x) : f t.w = f v := by rw [← hf, hstill, hf]
  refine ⟨honly, hpass, ?_, hpend.trans (same Warp.pend fun _ => rfl), (kept Warp.axf fun _ => rfl).trans (same Warp.axf fun _ => rfl), hin,
    kept Warp.seqNo fun _ => rfl, kept Warp.marks fun _ => rfl, kept Warp.dcIssued fun _ => rfl⟩
  rw [Warp.uncounted_still, hstill, ← Warp.uncounted_still, hv]

/-- A word whose results are known at once: it counts with them and retires. -/
theorem State.counted_spec {s : State} (h : s.Here) (i : Instr) (c : Nat) (regs : List RegId) (ws : List RegWrite) :
    let t := (s.modW fun w => w.count (some c) regs true ws).retire i
    s.OnlyWarp t ∧ s.Passed t i ∧ (t.w.uncounted s.w).still = s.w.still ∧ t.w.pend = s.w.pend ∧ s.w.Counted t.w c regs ws := by
  intro t
  have ht : t = (s.setW (s.w.count (some c) regs true ws)).retire i := by rw [← State.modW_eq h fun w => w.count (some c) regs true ws]
  obtain ⟨⟨g, hin, hceded⟩, hseq, hissued, hmarks, hun⟩ := s.w.count_spec c regs ws
  obtain ⟨honly, hpass, hstill, hpend, -, hin', hseq', hmarks', hissued'⟩ := State.counted_retire_spec h i hun rfl rfl rfl
  rw [hin] at hin'
  rw [ht]
  refine ⟨honly, hpass, hstill, hpend, ?_, fun f hf _ => ⟨g f, ?_, hceded f⟩, hseq'.trans hseq, hmarks'.trans hmarks, ?_⟩
  · rw [hin']
    exact List.mem_append_right _ List.mem_cons_self
  · rw [hin']
    exact List.mem_append_left _ (List.mem_map_of_mem hf)
  · rw [hissued', hissued, SMap.get_put, if_pos rfl]

end Sys2Proof.Machine
end

section
/-! OBLIGATION. The lane-wise float and conversion instructions (R127, R128, R131, R136, R143 to R147, R149 to R151). -/

namespace Sys2Proof.Machine

/-! ### The rows -/

/-- The bits below the sign. -/
theorem and_unsigned_eq (a : Word) : a &&& 0x7FFFFFFF = BitVec.ofNat 32 (a.toNat % 2 ^ 31) := by
  have hmod := Nat.and_two_pow_sub_one_eq_mod a.toNat 31
  apply BitVec.eq_of_toNat_eq
  rw [BitVec.toNat_and, BitVec.toNat_ofNat, ← hmod, Nat.mod_eq_of_lt (Nat.and_lt_two_pow _ (by norm_num))]
  rfl

/-- The sign turned over. -/
theorem xor_sign_eq (a : Word) : a ^^^ 0x80000000 = BitVec.ofNat 32 (if a.toNat < 2 ^ 31 then a.toNat + 2 ^ 31 else a.toNat - 2 ^ 31) := by
  have hxor : a ^^^ 0x80000000 = BitVec.ofNat 32 (2 ^ 31 + a.toNat) := by
    refine BitVec.eq_of_getLsbD_eq fun j hj => ?_
    rw [BitVec.getLsbD_xor, show (0x80000000 : Word) = BitVec.twoPow 32 31 from rfl, BitVec.getLsbD_twoPow, BitVec.getLsbD_ofNat]
    rcases Nat.lt_succ_iff_lt_or_eq.1 hj with hlt | rfl
    · rw [Nat.testBit_two_pow_add_gt hlt]
      simp [hj, hlt.ne', BitVec.getLsbD]
    · rw [Nat.testBit_two_pow_add_eq]
      simp [BitVec.getLsbD]
  rw [hxor]
  apply BitVec.eq_of_toNat_eq
  rw [BitVec.toNat_ofNat, BitVec.toNat_ofNat]
  split_ifs <;> omega

theorem fop1_range (f : BitVec 4 → Nat → Nat × FFlags) (c : BitVec 4) (e : Nat → Word) : fop1 f c ((List.range 1).map e) = toW (f c (e 0).toNat) := rfl

/-- A lane-wise float instruction applies to the source elements of each lane the function of its row under FPC. -/
theorem exec_floatRow {i : Instr} {r : FloatRow} (hi : floatRow i = some r) (s : State) :
    ∃ f : BitVec 4 → List Word → Word × FFlags, exec i s = .next (s.lanewiseF i r.x r.d r.srcs f) ∧
      ∀ c e, f c ((List.range r.srcs.length).map e) = toW (r.out c e) := by
  cases i <;> simp only [floatRow, fRow, reduceCtorEq, Option.some.injEq] at hi <;> subst hi
  case fabs => exact ⟨_, rfl, fun _ e => congrArg (fun x => (x, (0 : FFlags))) (and_unsigned_eq (e 0))⟩
  case fneg => exact ⟨_, rfl, fun _ e => congrArg (fun x => (x, (0 : FFlags))) (xor_sign_eq (e 0))⟩
  case fcvt h d a dty sty shalf dhalf rnd =>
    refine ⟨_, rfl, fun _ e => ?_⟩
    cases dty <;> rfl
  case fsin => exact ⟨_, rfl, fop1_range _⟩
  case fcos => exact ⟨_, rfl, fop1_range _⟩
  all_goals exact ⟨_, rfl, fun _ _ => rfl⟩

/-- A lane-wise float instruction has latency 4, or is a special function, which counts on dc0 (R61, R134). -/
theorem floatRow_latency {i : Instr} {r : FloatRow} (hi : floatRow i = some r) : i.latency = .fixed 4 ∨ i.latency = .dc ∧ i.counter = some 0 := by
  cases i <;> simp only [floatRow, fRow, reduceCtorEq, Option.some.injEq] at hi
  case frcp | frsq | fsqrt | fex2 | flg2 | fsin | fcos => exact .inr ⟨rfl, rfl⟩
  all_goals exact .inl rfl

/-! ### Results and flags of a block -/

/-- A place of a block, counted row by row, is a row and a column. -/
theorem exists_lt_mul_iff {R C : Nat} (hC : 0 < C) (p : Nat → Prop) : (∃ e, e < R * C ∧ p e) ↔ ∃ m n, m < R ∧ n < C ∧ p (m * C + n) := by
  constructor
  · rintro ⟨e, he, hp⟩
    exact ⟨e / C, e % C, Nat.div_lt_of_lt_mul (Nat.mul_comm R C ▸ he), Nat.mod_lt _ hC, by rwa [Nat.div_add_mod']⟩
  · rintro ⟨m, n, hm, hn, hp⟩
    refine ⟨m * C + n, ?_, hp⟩
    calc m * C + n < (m + 1) * C := by rw [Nat.succ_mul]; omega
      _ ≤ R * C := Nat.mul_le_mul_right C hm

namespace FloatRow
variable (r : FloatRow) (w : Warp) (vals : Reads) (pops : SMap Nat)

/-- Result and flags of element `e` of a lane, the elements counted row by row. -/
def element (e l : Nat) : Nat × FFlags := r.out w.fpc fun j => vals.at_ (j * ((w.extent r.x).1 * (w.extent r.x).2) + e) l

/-- The results of the block. -/
def writes : List RegWrite := blockWrites (w.extent r.x) r.d.toNat w.active fun e l => BitVec.ofNat 32 (r.element w vals e l).1

/-- The flags after the block. -/
def flags : SMap (BitVec 6) := w.flagsWith fun l => (List.range ((w.extent r.x).1 * (w.extent r.x).2)).foldl (fun x e => x ||| (r.element w vals e l).2) 0

/-- The warp that sends the results: past its pops, with the flags of the block. -/
def accrued : Warp := (w.freePops pops).withFlags (r.flags w vals) w.ucount

/-- The warp as the results are under way: sent with the latency of the word `i`, or counted on its counter. -/
def sent (i : Instr) : Warp :=
  match i.latency with
  | .fixed lat => (r.accrued w vals pops).pushAll lat (r.writes w vals)
  | _ => ((r.accrued w vals pops).count i.counter ((r.writes w vals).map (·.reg)) true (r.writes w vals)).flagging w.seqNo

theorem sent_of_fixed {i : Instr} {lat : Nat} (hl : i.latency = .fixed lat) : r.sent w vals pops i = (r.accrued w vals pops).pushAll lat (r.writes w vals) := by
  rw [sent, hl]

theorem sent_of_dc {i : Instr} (hl : i.latency = .dc) : r.sent w vals pops i =
    ((r.accrued w vals pops).count i.counter ((r.writes w vals).map (·.reg)) true (r.writes w vals)).flagging w.seqNo := by
  rw [sent, hl]

theorem writes_nodup (hf : w.Fits r.x r.d r.srcs) : ((r.writes w vals).map (·.reg)).Nodup := blockWrites_nodup (hf.blockOk r.d List.mem_cons_self) _ _

/-- The result in row `m` and column `n`. -/
theorem mem_writes {m n : Nat} (hm : m < (w.extent r.x).1) (hn : n < (w.extent r.x).2) :
    ⟨.v (r.d.toNat + 8 * m + n), (lanesOf w.active).map fun l => (l, (BitVec.ofNat 32 (r.out w.fpc (w.elements r.x vals m n l)).1).zeroExtend 64)⟩ ∈ r.writes w vals :=
  mem_blockWrites _ _ _ _ hm hn

/-- A flag after the block: it stood before, or some element of the lane raises it. -/
theorem get_flags {l : Nat} (hl : l < 32) (b : Nat) :
    (SMap.get 0 (r.flags w vals) l).getLsbD b = true ↔ (w.rdAxf l).getLsbD b = true ∨ w.active.getLsbD l = true ∧
      ∃ m n, m < (w.extent r.x).1 ∧ n < (w.extent r.x).2 ∧ (r.out w.fpc (w.elements r.x vals m n l)).2.getLsbD b = true := by
  refine (w.get_flagsWith_bit (fun _ => (w.extent r.x).1 * (w.extent r.x).2) (fun e l => (r.element w vals e l).2) hl b).trans (or_congr_right (and_congr_right' ?_))
  exact exists_lt_mul_iff (w.extent_pos r.x).2 fun e => (r.element w vals e l).2.getLsbD b = true

end FloatRow

/-- A lane-wise float instruction, past its checks, has the results of its block under way, from a warp that has accrued the block's flags. -/
theorem exec_floatRow_sent {s : State} {i : Instr} {r : FloatRow} {vals : Reads} {pops : SMap Nat} (hi : floatRow i = some r) (h : s.Here) (hf : s.w.Fits r.x r.d r.srcs)
    (hw : s.w.NoWindow r.x r.d) (hr : s.w.readRegs (s.w.sourceRegs r.x r.srcs) [] = .ok (vals, pops)) :
    exec i s = .next ((s.setW (r.sent s.w vals pops i)).retire i) := by
  obtain ⟨f, hex, hval⟩ := exec_floatRow hi s
  refine hex.trans (congrArg Host.Outcome.next ((State.blockChecked_of_ok hf hw i _).trans ((State.withSrcs_ok i hr _).trans ?_)))
  simp only [hval, State.popped_w h, State.popped_modW, State.modW_modW]
  rw [FloatRow.sent]
  cases i.latency <;> exact congrArg (State.retire · i) (State.modW_eq h _)

/-- Settles O8: the results of the block are sent, or counted on dc0, from a warp that has accrued the flags of its elements. -/
theorem floatResults : Obligations.FloatResults := by
  unfold Obligations.FloatResults
  intro i r s vals pops hi h hf hw hr out dst
  have hregs : (r.writes s.w vals).map (·.reg) = dst := blockWrites_regs _ _ _ _
  rcases floatRow_latency hi with hl | ⟨hl, hc⟩
  · obtain ⟨honly, hpass, hstill, hsends, hres⟩ := State.accrued_spec h i 4 pops (r.flags s.w vals) s.w.ucount _ (r.writes_nodup s.w vals hf)
    refine ⟨_, r.sent_of_fixed s.w vals pops hl ▸ exec_floatRow_sent hi h hf hw hr, honly, hpass, fun l b hlt => ?_, fun _ => ⟨Warp.still_of_flagged hstill, hregs ▸ hres, fun m n hm hn => ?_⟩, fun hdc => ?_⟩
    · exact Warp.axf_of_still hstill l ▸ r.get_flags s.w vals hlt b
    · exact hsends _ (r.mem_writes s.w vals hm hn)
    · cases hl.symm.trans hdc
  · obtain ⟨⟨g, hin, hceded⟩, hseq, -, hmarks, hun⟩ := (r.accrued s.w vals pops).count_spec 0 dst (r.writes s.w vals)
    obtain ⟨honly, hpass, hstill, hpend, haxf, hin', hseq', hmarks', -⟩ :=
      State.counted_retire_spec h i ((Warp.flagging_uncounted _ _ s.w.seqNo).trans hun) rfl rfl rfl
    refine ⟨_, hc ▸ hregs ▸ r.sent_of_dc s.w vals pops hl ▸ exec_floatRow_sent hi h hf hw hr, honly, hpass, fun l b hlt => ?_, fun hdc => absurd hl hdc, fun _ => ⟨?_, hpend, hseq'.trans hseq,
      ⟨_, _, hin'.trans hin, ?_, hregs, fun m n => r.mem_writes s.w vals⟩, hmarks'.trans hmarks⟩⟩
    · rw [Warp.rdAxf, haxf]
      exact r.get_flags s.w vals hlt b
    · exact Warp.still_of_flagged (pops := pops) hstill
    · rw [List.map_map]
      exact List.map_congr_left fun f _ => (hceded f).1

end Sys2Proof.Machine
end

section
/-! OBLIGATION. fcmp (R148). -/

namespace Sys2Proof.Machine

/-- fcmp, once its sources are read, is one predicate result of a warp with the flags of its comparisons. -/
theorem exec_fcmp (h : Hdr) (p : Pr) (a b : Vr) (cond : FCond) (comb : Comb) (q : Pr) {s : State} {vals : Reads} {pops : SMap Nat} (hh : s.Here)
    (hr : s.w.readRegs [a.toNat, b.toNat] [] = .ok (vals, pops)) :
    let out (l : Nat) := fcmpHolds cond (fpcDaz s.w.fpc) (vals.at_ 0 l).toNat (vals.at_ 1 l).toNat
    exec (.fcmp h p a b cond comb q) s = .next ((s.setW (((s.w.freePops pops).withFlags (s.w.flagsWith fun l => (out l).2) s.w.ucount).pushAll 4
      [RegWrite.ofP p.toNat s.w.active fun l => combine comb (out l).1 (s.w.rdP q.toNat l)])).retire (.fcmp h p a b cond comb q)) := by
  intro out
  refine (exec_withSrcs rfl hr).trans (congrArg Host.Outcome.next ?_)
  rw [State.predicate, State.popped_modW, State.modW_modW, State.modW_eq hh, State.popped_w hh]
  rfl

/-- Settles O9: fcmp is one predicate result, from a warp that has accrued the flags of the comparisons. -/
theorem floatCompare : Obligations.FloatCompare := by
  unfold Obligations.FloatCompare
  intro h p a b cond comb q s vals pops hh hr out
  obtain ⟨honly, hpass, hstill, hsends, hres⟩ := State.accrued_spec hh (.fcmp h p a b cond comb q) 4 pops (s.w.flagsWith fun l => (out l).2) s.w.ucount
    [RegWrite.ofP p.toNat s.w.active fun l => combine comb (out l).1 (s.w.rdP q.toNat l)] (List.nodup_singleton _)
  exact ⟨_, exec_fcmp h p a b cond comb q hh hr, honly, hpass, Warp.still_of_flagged hstill, hres,
    fun l hl => (Warp.axf_of_still hstill l).trans (s.w.get_flagsWith _ hl),
    fun l => combine comb (out l).1 (s.w.rdP q.toNat l), fun l => combine_iff Iff.rfl, hsends _ List.mem_cons_self⟩

end Sys2Proof.Machine
end

section
/-! OBLIGATION. gets, sets of AXF and of registers that are not writable, and tmr (R139, R394 to R397). -/

namespace Sys2Proof.Machine

/-! ### gets -/

theorem coreCluster_eq (c : Nat) : coreCluster c = c % 96 / 8 := (Nat.mod_mul_right_div_self c 8 12).symm

/-- In a warp of a group a special register reads as Table 19.6 says (R395). -/
theorem State.special_eq {s : State} (hk : s.w.kind = .normal) (sr : SReg) (l : Nat) : s.special sr l = s.specialReg sr l := by
  have hwarp : s.idWarp l = s.w := by
    rw [State.idWarp, State.laneWarp, hk]
    rfl
  have hlane : s.idLane l = l := by rw [State.idLane, hk]
  cases sr <;> simp only [State.special, hwarp, hlane]
  case hmap =>
    simp only [State.hmapOf, coreCluster_eq, fld, State.specialReg, Nat.mul_comm 8]
    ring
  all_goals rfl

theorem ofNat_mod_zeroExtend (n : Nat) : (BitVec.ofNat 32 n).zeroExtend 64 = BitVec.ofNat 64 (n % 2 ^ 32) :=
  BitVec.eq_of_toNat_eq (by simp)

/-- gets reads at once, but for the flags that a word of the strand may still raise (R139). -/
theorem exec_gets (h : Hdr) (r : BitVec 6) {sr : SReg} (rk : Bool) {s : State} (hk : s.w.kind = .normal) (hset : sr = .axf → s.flagsSettled = true) :
    exec (.gets h r sr rk) s = .next (if rk then s.uniform (.gets h r sr rk) 2 r (BitVec.ofNat 64 (s.specialReg sr (lowLane s.w.active)))
      else s.crosslane (.gets h r sr rk) 2 r [] fun _ l => BitVec.ofNat 32 (s.specialReg sr l)) := by
  have hnow : ¬ (sr = .axf ∧ (!s.flagsSettled) = true) := fun hw => by simp [hset hw.1] at hw
  refine congrArg Host.Outcome.next ((if_neg hnow).trans ?_)
  simp only [State.special_eq hk]
  rfl

/-! ### sets -/

/-- The flags after each active lane has been given its own. -/
def Warp.axfSet (w : Warp) (f : Nat → BitVec 6) : SMap (BitVec 6) := (lanesOf w.active).foldl (fun m l => SMap.put m l (f l)) w.axf

theorem Warp.get_axfSet (w : Warp) (f : Nat → BitVec 6) {l : Nat} (hl : l < 32) :
    SMap.get 0 (w.axfSet f) l = if w.active.getLsbD l then f l else w.rdAxf l := get_foldl_put_lanes 0 f w.active w.axf hl

theorem Warp.foldl_wrAxf (f : Nat → BitVec 6) (ls : List Nat) (w : Warp) :
    ls.foldl (fun w l => w.wrAxf l (f l)) w = { w with axf := ls.foldl (fun m l => SMap.put m l (f l)) w.axf } := by
  induction ls generalizing w with
  | nil => rfl
  | cons l t ih =>
    rw [List.foldl_cons, ih]
    rfl

/-- The flags that sets AXF gives a lane: its own from a v register, all alike from a k register (R395). -/
def setsFlags (w : Warp) (r : BitVec 6) (rk : Bool) (fs : Reads) (l : Nat) : BitVec 6 :=
  BitVec.ofNat 6 (if rk then (w.rdK r.toNat).toNat else (fs.at_ 0 l).toNat)

theorem truncate_word_flags (x : DWord) : (x.truncate 32 : Word).truncate 6 = BitVec.ofNat 6 x.toNat :=
  BitVec.eq_of_toNat_eq (by simp)

theorem exec_sets_axf (h : Hdr) (r : BitVec 6) (rk : Bool) {s : State} {fs : Reads} {pops : SMap Nat} (hr : s.w.readRegs (if rk then [] else [r.toNat]) [] = .ok (fs, pops)) :
    exec (.sets h r .axf rk) s = .next ((s.modW fun w =>
      { w.freePops pops with axf := w.axfSet (setsFlags s.w r rk fs) }).retire (.sets h r .axf rk)) := by
  cases rk with
  | true =>
    cases hr
    refine congrArg (fun f => Host.Outcome.next ((s.modW f).retire _)) (funext fun w => (Warp.foldl_wrAxf _ _ w).trans ?_)
    simp only [truncate_word_flags]
    rfl
  | false =>
    refine (exec_withSrcs rfl hr).trans (congrArg (fun u : State => Host.Outcome.next (u.retire _)) ?_)
    have hvalue : ∀ l, (fs.headD fun _ => 0) l = fs.at_ 0 l := fun l => by cases fs <;> rfl
    refine (State.popped_modW s pops _).trans (congrArg s.modW (funext fun w => (Warp.foldl_wrAxf _ _ _).trans ?_))
    simp only [hvalue, ← BitVec.ofNat_toNat]
    rfl

/-- sets of a register that is not writable is an illegal operand (R395). -/
theorem exec_sets_not_writable (h : Hdr) (r : BitVec 6) {sr : SReg} (rk : Bool) (s : State) (hsr : srWritable sr = false) :
    exec (.sets h r sr rk) s = .next (s.illegalOperand (.sets h r sr rk) 0x13) :=
  congrArg Host.Outcome.next (if_pos (by rw [hsr]; rfl))

theorem srWritable_eq_false {sr : SReg} (hfpc : sr ≠ .fpc) (haxf : sr ≠ .axf) (htmask : sr ≠ .tmask) (hbx1 : sr ≠ .bx1) (hbx2 : sr ≠ .bx2) (hbx3 : sr ≠ .bx3) :
    srWritable sr = false := by
  cases sr
  case fpc => exact absurd rfl hfpc
  case axf => exact absurd rfl haxf
  case tmask => exact absurd rfl htmask
  case bx1 => exact absurd rfl hbx1
  case bx2 => exact absurd rfl hbx2
  case bx3 => exact absurd rfl hbx3
  all_goals rfl

/-! ### tmr -/

theorem ofNat_truncInt (n : Nat) (x : Int) : BitVec.ofNat n (truncInt x n) = BitVec.ofInt n x := by
  have hpow : (0 : Int) < 2 ^ n := by positivity
  have hlt : truncInt x n < 2 ^ n := by
    have := Int.emod_lt_of_pos x hpow
    have := Int.emod_nonneg x hpow.ne'
    zify
    rwa [truncInt, Int.toNat_of_nonneg this]
  apply BitVec.eq_of_toNat_eq
  rw [BitVec.toNat_ofNat, Nat.mod_eq_of_lt hlt, BitVec.toNat_ofInt, truncInt, Nat.cast_pow, Nat.cast_ofNat]

/-- tmr counts, with its time known at once, on the counter that its word names (R396). -/
theorem exec_tmr (h : Hdr) (kd : Kr) (master : Bool) {dc : Dc} (s : State) (hdc : dc ≠ 7) :
    exec (.tmr h kd master dc) s = .next ((s.modW fun w => w.count (some dc.toNat) [.k kd.toNat] true
      [RegWrite.ofK kd.toNat (BitVec.ofNat 64 (if master then s.masterTime (coreDie s.w.core) else s.rawTime (coreDie s.w.core)))]).retire (.tmr h kd master dc)) := by
  have hcounter : (Instr.tmr h kd master dc).counter = some dc.toNat := if_neg hdc
  rw [← hcounter]
  rfl

/-- Settles O51: a gets is one result, a sets of AXF a change of flags, a sets of a register that is not writable a trap, and tmr one counted result. -/
theorem specialRegisters : Obligations.SpecialRegisters := by
  unfold Obligations.SpecialRegisters
  refine ⟨fun h r sr rk s hh hk hset => ?_, fun h r rk s fs pops hh hr => ?_, fun h r sr rk s hh hk hfpc haxf htmask hbx1 hbx2 hbx3 => ?_, fun h kd master dc s hh hdc => ?_⟩
  · intro i goes
    have hex := exec_gets h r rk hk hset
    refine ⟨?_, ?_, ?_⟩
    · rintro rfl
      obtain ⟨honly, hpass, hstill, hgives, hres⟩ := State.uniform_spec hh i [] 2 r (BitVec.ofNat 64 (s.specialReg sr (lowLane s.w.active)))
      exact ⟨_, ⟨hex, honly, hpass, hstill⟩, hgives, hres⟩
    · rintro rfl hw
      obtain ⟨honly, hpass, hstill, hgives, hres⟩ := State.crosslane_spec hh i 2 r [] (fun _ l => BitVec.ofNat 32 (s.specialReg sr l)) hw rfl
      simp only [ofNat_mod_zeroExtend] at hgives
      exact ⟨_, ⟨hex, honly, hpass, hstill⟩, hgives, hres⟩
    · rintro rfl hw
      exact ⟨_, hex.trans (congrArg Host.Outcome.next (if_pos hw)), State.trapped_trapAll hh hk i _ _ _⟩
  · intro i value
    obtain ⟨honly, hpass, hstill, hpend⟩ := State.modW_retire_spec hh (fun w => { w.freePops pops with axf := w.axfSet (setsFlags s.w r rk fs) }) i rfl rfl rfl
    exact ⟨_, exec_sets_axf h r rk hr, honly, hpass, congrArg (fun u => { u with axf := s.w.axf }) hstill, hpend,
      fun l hl => (Warp.axf_of_still hstill l).trans (s.w.get_axfSet _ hl)⟩
  · exact ⟨_, exec_sets_not_writable h r rk s (srWritable_eq_false hfpc haxf htmask hbx1 hbx2 hbx3), State.trapped_trapAll hh hk _ _ _ _⟩
  · intro i d n x
    have hn : s.rawTime (coreDie s.w.core) = n := by
      rw [State.rawTime]
      cases hd : (s.dieAt (coreDie s.w.core)).released <;> simp only [n, d, hd]
    have hx : BitVec.ofNat 64 (if master then s.masterTime (coreDie s.w.core) else s.rawTime (coreDie s.w.core)) = x := by
      cases master with
      | true => exact (ofNat_truncInt 64 _).trans (by rw [hn]; rfl)
      | false => exact congrArg (BitVec.ofNat 64) hn
    exact ⟨_, exec_tmr h kd master s hdc, hx ▸ State.counted_spec hh i dc.toNat [.k kd.toNat] [RegWrite.ofK kd.toNat _]⟩

end Sys2Proof.Machine
end

section
/-! SUPPORT. chunk_sum (R164): invalid terms, and terms of which none is cut, whose sum is exact. -/

namespace Sys2Proof.Machine

/-! ### Rounding depends on the magnitude alone -/

/-- A magnitude written at a lower place is rounded as it is. -/
theorem roundAt_scaled (rm : Rm5) (neg : Bool) (m k : Nat) (e q : Int) : roundAt rm neg (m * 2 ^ k) (e - k) q false = roundAt rm neg m e q false := by
  have hvalue : ((m * 2 ^ k : Nat) : ℚ) * 2 ^ (e - k) = m * 2 ^ e := by
    rw [two_zpow_eq (show e - k ≤ e by omega), show (e - (e - k)).toNat = k by omega]
    push_cast
    ring
  rcases le_or_gt q e with h | h
  · have hexact : (m : ℚ) * 2 ^ e = (m * 2 ^ (e - q).toNat : Nat) * 2 ^ q := by
      rw [two_zpow_eq h]
      push_cast
      ring
    rw [roundAt_exact (hvalue.trans hexact), roundAt_exact hexact]
  · obtain ⟨j, hj⟩ : ∃ j : Nat, q = e + j + 1 := ⟨(q - e - 1).toNat, by omega⟩
    have hcut : (q - (e - k)).toNat = j + 1 + k := by omega
    have hcut' : (q - e).toNat = j + 1 := by omega
    have hpos : 0 < 2 ^ k := Nat.two_pow_pos k
    rw [roundAt_of_lt rm neg _ (show e - k < q by omega), roundAt_of_lt rm neg _ h, hcut, hcut']
    rw [pow_add, Nat.mul_div_mul_right _ _ hpos, Nat.mul_mod_mul_right]
    have hhalf : 2 ^ (j + 1 + k - 1) = 2 ^ j * 2 ^ k := by rw [← pow_add]; congr 1; omega
    simp only [hhalf, Nat.add_sub_cancel, Nat.mul_lt_mul_right hpos, Nat.mul_left_inj hpos.ne', Nat.mul_eq_zero, hpos.ne', or_false, ne_eq]

/-- Equal magnitudes are rounded alike at every place. -/
theorem roundAt_congr (rm : Rm5) (neg : Bool) {m n : Nat} {e g : Int} (h : (m : ℚ) * 2 ^ e = n * 2 ^ g) (q : Int) :
    roundAt rm neg m e q false = roundAt rm neg n g q false := by
  wlog hle : e ≤ g generalizing m n e g
  · exact (this h.symm (le_of_not_ge hle)).symm
  obtain ⟨k, rfl⟩ : ∃ k : Nat, e = g - k := ⟨(g - e).toNat, by omega⟩
  have hm : m = n * 2 ^ k := by
    have hk : (m : ℚ) * 2 ^ (g - k) = (n * 2 ^ k : Nat) * 2 ^ (g - k) := by
      rw [h, two_zpow_eq hle, show (g - (g - k)).toNat = k by omega]
      push_cast
      ring
    exact_mod_cast mul_right_cancel₀ (two_zpow_pos _).ne' hk
  rw [hm, roundAt_scaled]

/-- Equal magnitudes are rounded to the same encoding with the same flags. -/
theorem Fmt.round_congr (f : Fmt) (rm : Rm5) (ftz neg : Bool) {m n : Nat} {e g : Int} (hm : m ≠ 0) (h : (m : ℚ) * 2 ^ e = n * 2 ^ g) :
    f.round rm ftz neg m e false = f.round rm ftz neg n g false := by
  have hn : n ≠ 0 := by
    rintro rfl
    rw [Nat.cast_zero, zero_mul, mul_eq_zero, Nat.cast_eq_zero] at h
    exact h.elim hm (two_zpow_pos e).ne'
  have htop := top_eq_of_eq hm hn h
  rw [Fmt.round_eq hm, Fmt.round_eq hn]
  have hfree : f.free rm neg m e = f.free rm neg n g := by rw [Fmt.free, Fmt.free, htop, roundAt_congr rm neg h]
  have hplace : f.place m e = f.place n g := by rw [Fmt.place, Fmt.place, htop]
  have hcount : f.count rm neg m e = f.count rm neg n g := by rw [Fmt.count, Fmt.count, hplace, roundAt_congr rm neg h]
  simp only [hfree, hplace, hcount]

/-! ### Terms -/

/-- A finite term that is zero or lies wholly at or above a place: truncation to the place loses nothing of it. -/
def FVal.Above (q : Int) (v : FVal) : Prop := ∃ neg m e, v = .fin neg m e ∧ (m = 0 ∨ q ≤ e)

theorem FVal.Above.isFin {q : Int} {v : FVal} (h : v.Above q) : v.isFin = true := by
  obtain ⟨neg, m, e, rfl, -⟩ := h
  rfl

theorem FVal.Above.trunc_eq {q : Int} {v : FVal} (h : v.Above q) : v.trunc q = (v.scaled q, false) := by
  obtain ⟨neg, m, e, rfl, hm⟩ := h
  by_cases hq : q ≤ e
  · simp [FVal.trunc, FVal.scaled, hq]
  · simp [FVal.trunc, FVal.scaled, hm.resolve_right hq]

theorem FVal.Above.scaled_num {q : Int} {v : FVal} (h : v.Above q) : (v.scaled q : ℚ) * 2 ^ q = v.num := by
  obtain ⟨neg, m, e, rfl, rfl | hq⟩ := h
  · simp [FVal.scaled, FVal.num_fin]
  · rw [FVal.num_fin, FVal.scaled, two_zpow_eq hq]
    cases neg <;> push_cast <;> ring

/-- The terms of a sum as a whole number of places. -/
def placedSum (q : Int) (ts : List FVal) : Int := (ts.map (FVal.scaled q)).sum

theorem placedSum_num {q : Int} {ts : List FVal} (h : ∀ v ∈ ts, v.Above q) : (placedSum q ts : ℚ) * 2 ^ q = (ts.map FVal.num).sum := by
  induction ts with
  | nil => simp [placedSum]
  | cons v t ih =>
    have hv := (h v List.mem_cons_self).scaled_num
    have ht := ih fun x hx => h x (List.mem_cons_of_mem _ hx)
    simp only [placedSum, List.map_cons, List.sum_cons] at ht ⊢
    rw [Int.cast_add, add_mul, hv, ht]

/-- The terms of a sum are whole numbers at the sum's place. -/
theorem above_sumPlace {ts : List FVal} (h : ∀ v ∈ ts, v.isFin = true) : ∀ v ∈ ts, v.Above (sumPlace ts) := by
  intro v hv
  cases v with
  | fin neg m e =>
    refine ⟨neg, m, e, rfl, or_iff_not_imp_left.2 fun hm => ?_⟩
    exact (foldl_min_le _ 0).2 e (List.mem_filterMap.2 ⟨_, hv, if_neg hm⟩)
  | _ => cases h _ hv

/-- An exact sum that is not zero rounds alike at every place at which the terms are whole. -/
theorem round_placedSum {q p : Int} {ts : List FVal} (hq : ∀ v ∈ ts, v.Above q) (hp : ∀ v ∈ ts, v.Above p) :
    (placedSum q ts = 0 ↔ placedSum p ts = 0) ∧
    (placedSum q ts ≠ 0 → f32.round .rne false (decide (placedSum q ts < 0)) (placedSum q ts).natAbs q false =
      f32.round .rne false (decide (placedSum p ts < 0)) (placedSum p ts).natAbs p false) := by
  have heq : (placedSum q ts : ℚ) * 2 ^ q = placedSum p ts * 2 ^ p := (placedSum_num hq).trans (placedSum_num hp).symm
  have hqpos := two_zpow_pos q
  have hppos := two_zpow_pos p
  have hzero : placedSum q ts = 0 ↔ placedSum p ts = 0 := by
    rw [← Int.cast_eq_zero (α := ℚ), ← Int.cast_eq_zero (α := ℚ) (n := placedSum p ts), ← mul_eq_zero_iff_right hqpos.ne', heq, mul_eq_zero_iff_right hppos.ne']
  have hneg {r : Int} (n : Int) : (n : ℚ) * 2 ^ r < 0 ↔ n < 0 := by
    rw [mul_neg_iff, or_iff_right (fun h => (two_zpow_pos r).not_gt h.2), and_iff_left (two_zpow_pos r), Int.cast_lt_zero]
  have hsign : placedSum q ts < 0 ↔ placedSum p ts < 0 := by rw [← hneg (r := q), heq, hneg]
  refine ⟨hzero, fun hne => ?_⟩
  rw [decide_eq_decide.2 hsign]
  refine Fmt.round_congr f32 .rne false _ (Int.natAbs_ne_zero.2 hne) ?_
  rw [Nat.cast_natAbs, Nat.cast_natAbs, Int.cast_abs, Int.cast_abs, ← abs_of_pos hqpos, ← abs_mul, heq, abs_mul, abs_of_pos hppos]

/-! ### chunk_sum -/

theorem any_isNan_of_fin {ts : List FVal} (h : ∀ v ∈ ts, v.isFin = true) : ts.any FVal.isNan = false :=
  List.any_eq_false.2 fun v hv => by rw [FVal.isNan_of_isFin (h v hv)]; exact Bool.false_ne_true

theorem any_isInf_of_fin {ts : List FVal} (h : ∀ v ∈ ts, v.isFin = true) (n : Bool) : ts.any (FVal.isInf n) = false :=
  List.any_eq_false.2 fun v hv => by
    have := h v hv
    cases v <;> simp_all [FVal.isFin, FVal.isInf]

/-- chunk_sum with a NaN, or with infinities of both signs, is invalid. -/
theorem chunkSum_invalid {ts : List FVal} (h : (∃ v ∈ ts, v.isNan = true) ∨ ((∃ v ∈ ts, v.isInf false = true) ∧ ∃ v ∈ ts, v.isInf true = true)) :
    chunkSum ts = (0x7FC00000, flagNV) := by
  rw [chunkSum, if_pos]
  · rfl
  · simpa only [Bool.or_eq_true, Bool.and_eq_true, List.any_eq_true] using h

/-- The sum of finite terms of which one at least is not zero is rounded once, and is a positive zero where it is zero. -/
theorem f32_sum_exact {ts : List FVal} (h : ∀ v ∈ ts, v.isFin = true) (hsome : ts.any (fun v => v.expo?.isSome) = true) :
    f32.sum .rne false ts =
      if placedSum (sumPlace ts) ts = 0 then (0, 0)
      else f32.round .rne false (decide (placedSum (sumPlace ts) ts < 0)) (placedSum (sumPlace ts) ts).natAbs (sumPlace ts) false := by
  unfold Fmt.sum
  rw [if_neg (by simp [any_isNan_of_fin h, any_isInf_of_fin h]), if_neg (by simp [any_isInf_of_fin h]), if_neg (by simp [any_isInf_of_fin h])]
  simp only [hsome, Bool.not_true, Bool.false_and, Bool.false_eq_true, if_false]
  rfl

/-- chunk_sum cuts its terms 72 places below the highest bit `top`; where none is cut it is their exact sum rounded once. -/
theorem chunkSum_exact {ts : List FVal} {top : Int} (habove : ∀ v ∈ ts, v.Above (top - 72)) (htop : (ts.filterMap FVal.top?).max? = some top) :
    chunkSum ts = f32.sum .rne false ts := by
  have hfin : ∀ v ∈ ts, v.isFin = true := fun v hv => (habove v hv).isFin
  obtain ⟨x, xs, hxs⟩ : ∃ x xs, ts.filterMap FVal.top? = x :: xs := by
    cases hl : ts.filterMap FVal.top? with
    | nil => rw [hl] at htop; cases htop
    | cons x xs => exact ⟨x, xs, rfl⟩
  have hmax : xs.foldl max x = top := by
    rw [hxs, List.max?_cons'] at htop
    exact Option.some.inj htop
  have hsome : ts.any (fun v => v.expo?.isSome) = true := by
    obtain ⟨v, hv, hx⟩ := List.mem_filterMap.1 (hxs ▸ List.mem_cons_self : x ∈ ts.filterMap FVal.top?)
    refine List.any_eq_true.2 ⟨v, hv, ?_⟩
    cases v with
    | fin neg m e => by_cases hm : m = 0 <;> simp_all [FVal.top?, FVal.expo?]
    | _ => cases hx
  have hparts : ts.map (FVal.trunc (top - 72)) = ts.map fun v => (v.scaled (top - 72), false) := List.map_congr_left fun v hv => (habove v hv).trunc_eq
  have hsum : ((ts.map (FVal.trunc (top - 72))).map (·.1)).sum = placedSum (top - 72) ts := by
    rw [hparts, List.map_map]
    rfl
  have hsticky : (ts.map (FVal.trunc (top - 72))).any (·.2) = false := by
    rw [hparts]
    simp
  obtain ⟨hzero, hround⟩ := round_placedSum habove (above_sumPlace hfin)
  rw [f32_sum_exact hfin hsome, ← if_congr hzero rfl rfl, chunkSum, if_neg (by simp [any_isNan_of_fin hfin, any_isInf_of_fin hfin]),
    if_neg (by simp [any_isInf_of_fin hfin]), if_neg (by simp [any_isInf_of_fin hfin]), hxs]
  dsimp only
  rw [hmax, hsum, hsticky]
  split_ifs with h
  · rfl
  · exact hround h

/-- The highest bit of some terms. -/
theorem max_top_eq {ts : List FVal} {top : Int} (hle : ∀ v ∈ ts, ∃ neg m e, v = .fin neg m e ∧ (m = 0 ∨ e + (Nat.log2 m : Int) ≤ top))
    (hmem : ∃ v ∈ ts, ∃ neg m e, v = .fin neg m e ∧ m ≠ 0 ∧ e + (Nat.log2 m : Int) = top) : (ts.filterMap FVal.top?).max? = some top := by
  have hbit (neg : Bool) {m : Nat} (e : Int) (hm : m ≠ 0) : (FVal.fin neg m e).top? = some (e + Nat.log2 m) := by
    rw [FVal.top?, if_neg hm, bitLen_of_ne_zero hm]
    congr 1
    omega
  rw [List.max?_eq_some_iff]
  refine ⟨?_, fun b hb => ?_⟩
  · obtain ⟨v, hv, neg, m, e, rfl, hm, rfl⟩ := hmem
    exact List.mem_filterMap.2 ⟨_, hv, hbit neg e hm⟩
  · obtain ⟨v, hv, hb⟩ := List.mem_filterMap.1 hb
    obtain ⟨neg, m, e, rfl, h⟩ := hle v hv
    by_cases hm : m = 0
    · simp [FVal.top?, hm] at hb
    · rw [hbit neg e hm] at hb
      exact Option.some.inj hb ▸ h.resolve_left hm

end Sys2Proof.Machine
end

section
/-! SUPPORT. Cores, groups and other warps: what an update leaves of them, and what a change of the current warp alone leaves of the machine. -/

namespace Sys2Proof.Machine

/-! ### A change of the current warp alone -/

@[simp] theorem State.retire_cur (s : State) (i : Instr) : (s.retire i).cur = s.cur := s.modW_cur _
@[simp] theorem State.retire_mem (s : State) (i : Instr) : (s.retire i).mem = s.mem := s.modW_mem _
@[simp] theorem State.retire_groups (s : State) (i : Instr) : (s.retire i).groups = s.groups := s.modW_groups _
@[simp] theorem State.retire_cores (s : State) (i : Instr) : (s.retire i).cores = s.cores := s.modW_cores _
@[simp] theorem State.hold_cur (s : State) : s.hold.cur = s.cur := s.modW_cur _
@[simp] theorem State.hold_mem (s : State) : s.hold.mem = s.mem := s.modW_mem _
@[simp] theorem State.hold_groups (s : State) : s.hold.groups = s.groups := s.modW_groups _
@[simp] theorem State.hold_cores (s : State) : s.hold.cores = s.cores := s.modW_cores _

/-- A field that is not the warps. -/
theorem State.OnlyWarp.field {α : Type} {s t : State} (h : s.OnlyWarp t) (f : State → α) : f { t with warps := s.warps } = f s := congrArg f h.1

theorem State.OnlyWarp.othersSame {s t : State} (h : s.OnlyWarp t) : s.OthersSame t := ⟨h.field State.cur, h.2⟩
theorem State.OnlyWarp.mem_eq {s t : State} (h : s.OnlyWarp t) : t.mem = s.mem := h.field State.mem
theorem State.OnlyWarp.groups_eq {s t : State} (h : s.OnlyWarp t) : t.groups = s.groups := h.field State.groups
theorem State.OnlyWarp.coreAt_eq {s t : State} (h : s.OnlyWarp t) (c : Nat) : t.coreAt c = s.coreAt c := h.field fun x => x.coreAt c

/-- A warp that agrees with another but for what retiring moves has its registers. -/
theorem Warp.sameRegs_of_still {w t : Warp} (h : t.still = w.still) (hpend : t.pend = w.pend) (hspec : w.deferred = [] → t.specials = w.specials) : w.SameRegs t := by
  have key {α : Type} (f : Warp → α) : f t.still = f w.still := congrArg f h
  exact ⟨key Warp.v, key Warp.k, key Warp.p, hpend, key Warp.axf, key Warp.ucount, key Warp.queues, key Warp.exited, key Warp.stops, hspec⟩

/-! ### Cores -/

@[simp] theorem State.modCore_warps (s : State) (c : Nat) (f : Core → Core) : (s.modCore c f).warps = s.warps := rfl
@[simp] theorem State.modCore_cur (s : State) (c : Nat) (f : Core → Core) : (s.modCore c f).cur = s.cur := rfl
@[simp] theorem State.modCore_w (s : State) (c : Nat) (f : Core → Core) : (s.modCore c f).w = s.w := rfl
@[simp] theorem State.modCore_warpAt (s : State) (c h : Nat) (f : Core → Core) : (s.modCore c f).warpAt h = s.warpAt h := rfl
@[simp] theorem State.modCore_mem (s : State) (c : Nat) (f : Core → Core) : (s.modCore c f).mem = s.mem := rfl
@[simp] theorem State.modCore_groups (s : State) (c : Nat) (f : Core → Core) : (s.modCore c f).groups = s.groups := rfl

theorem State.coreAt_modCore (s : State) (c k : Nat) (f : Core → Core) : (s.modCore c f).coreAt k = if k = c then f (s.coreAt c) else s.coreAt k := by
  rw [State.coreAt, State.modCore, State.setCore_cores, SMap.get_put]
  rfl

@[simp] theorem State.coreAt_modCore_same (s : State) (c : Nat) (f : Core → Core) : (s.modCore c f).coreAt c = f (s.coreAt c) := by
  rw [State.coreAt_modCore, if_pos rfl]

@[simp] theorem State.coreAt_modW (s : State) (f : Warp → Warp) (k : Nat) : (s.modW f).coreAt k = s.coreAt k := by rw [State.coreAt, State.modW_cores, State.coreAt]
@[simp] theorem State.coreAt_retire (s : State) (i : Instr) (k : Nat) : (s.retire i).coreAt k = s.coreAt k := s.coreAt_modW _ k
@[simp] theorem State.coreAt_hold (s : State) (k : Nat) : s.hold.coreAt k = s.coreAt k := s.coreAt_modW _ k

theorem Core.tile_setTile (c : Core) (x y : Nat) (ws : List Word) : (c.setTile x ws).tile y = if y = x then ws else c.tile y := by
  rw [Core.tile, Core.setTile, SMap.find_put]
  split_ifs <;> rfl

@[simp] theorem Core.tile_setTile_same (c : Core) (x : Nat) (ws : List Word) : (c.setTile x ws).tile x = ws := by rw [Core.tile_setTile, if_pos rfl]

/-! ### A trap whose record names other lanes than those that stop (R161, R246) -/

/-- The stop of a lane at the present word, whose record names the lanes of `m`. -/
def Warp.recordStop (w : Warp) (cause aux : Nat) (m : Word) (detail ea : Nat → Nat) (resume skip : DWord) (l : Nat) : Stop :=
  { lane := l, cause := cause, detail := detail l, pc := w.runPc, resume := resume, skip := skip, ea := ea l, aux := aux, mask := m
    axf := w.rdAxf l, dispatched := false, recIdx := 0, copy := none, seq := w.seqNo, note := none, late := none }

/-- The warp with stops of its active lanes added. -/
def Warp.addStops (w : Warp) (stop : Nat → Stop) : Warp := { w with stops := w.stops ++ (lanesOf w.active).map stop }

/-- A trap of all active lanes, whatever lanes its record names: their stops are added, their threads stand at the resume point, and nothing else of the warp changes but what retiring moves. -/
theorem Warp.stopLanes_strand (w : Warp) (coll : Bool) (g clk cause aux : Nat) (m : Word) (detail ea : Nat → Nat) (resume skip : DWord) :
    let t := w.stopLanes coll g clk cause w.active m detail ea aux resume skip
    t.still = (w.addStops (w.recordStop cause aux m detail ea resume skip)).still ∧ t.pend = w.pend ∧ t.inflight = w.inflight ∧ t.active = 0 ∧
      t.pcs = (lanesOf w.active).foldl (fun m l => SMap.put m l resume) w.pcs ∧ t.runPc = w.runPc ∧ (w.deferred = [] → t.specials = w.specials) := by
  intro t
  let u : Warp :=
    { w.addStops (w.recordStop cause aux m detail ea resume skip) with
      pcs := (lanesOf w.active).foldl (fun m l => SMap.put m l resume) w.pcs
      active := 0 }
  have ht : t = { (if u.runPc = u.grpPc ∧ u.lclk = u.grpLclk then { u with deferred := [], grpS := 0, grpW := 0 } else u.closeGroup coll g clk) with
      inRun := false, todo := [], endRun := false } := by
    simp only [t, u, Warp.stopLanes, BitVec.and_self, BitVec.and_not_self, if_true]
    rfl
  obtain ⟨hstill, hpend, -, -, -, -, hpc, hpcs, -, hact, -, hspec, -⟩ := u.closeGroup_spec coll g clk
  rw [ht]
  split_ifs
  · exact ⟨rfl, rfl, rfl, rfl, rfl, rfl, fun _ => rfl⟩
  · exact ⟨hstill, hpend, Warp.closeGroup_inflight u coll g clk, hact, hpcs, hpc, hspec⟩

theorem State.trapped_takeTrap {s : State} (h : s.Here) (hk : s.w.kind = .normal) (cause aux : Nat) (m : Word) (detail ea : Nat → Nat) (resume skip : DWord) :
    s.Trapped (s.takeTrap cause s.w.active m detail ea aux resume skip) cause detail (fun l => s.w.active.getLsbD l) resume := by
  have ht : s.takeTrap cause s.w.active m detail ea aux resume skip =
      s.modW fun w => w.stopLanes s.collated s.g s.clk cause s.w.active m detail ea aux resume skip := by
    rw [State.takeTrap, hk]
  obtain ⟨hstill, hpend, -, hact, hpcs, -, hspec⟩ := s.w.stopLanes_strand s.collated s.g s.clk cause aux m detail ea resume skip
  obtain ⟨hstops, hv, hkr, hp, haxf, huc, hq⟩ := Warp.fields_of_still hstill
  rw [ht]
  exact State.trapped_modW h hstops (fun _ => ⟨rfl, rfl, rfl, rfl, rfl, rfl⟩) hpcs hact ⟨hv, hkr, hp, haxf, huc, hpend, hq, hspec⟩

end Sys2Proof.Machine
end

section
/-! OBLIGATION. mma and mlut at issue (R156, R160, R161, R163, R167). -/

namespace Sys2Proof.Machine

/-! ### The checks of Table 7.2 -/

/-- Registers in range and in no bound window, a tile that the kernel has, and bound windows where entries are popped: rows 2 to 4 stop nothing. -/
theorem State.matRegs_of_ok {s : State} {regs pops : List Nat} {tile : Option Tile} (i : Instr) (k : State) (hregs : ∀ r ∈ regs, r < 64 ∧ s.w.isWindow r = false)
    (htile : ∀ t ∈ tile, t.toNat < s.grid.ds.acc) (hpops : ∀ r ∈ pops, s.w.isWindow r = true) : s.matRegs i regs pops tile k = k := by
  have hlow : (regs.any fun r => decide (63 < r)) = false := List.any_eq_false.2 fun r hr => by have := (hregs r hr).1; simp; omega
  have hplain : regs.any s.w.isWindow = false := List.any_eq_false.2 fun r hr => by simp [(hregs r hr).2]
  have hbound : (pops.any fun r => !s.w.isWindow r) = false := List.any_eq_false.2 fun r hr => by simp [hpops r hr]
  unfold State.matRegs
  rw [hlow, if_neg Bool.false_ne_true, hplain, hbound]
  cases tile with
  | none => rfl
  | some t => exact if_neg (by simpa using htile t rfl)

theorem Warp.Plain.reg {w : Warp} {r n : Nat} (h : w.Plain r n) {j : Nat} (hj : j < n) : r + j < 64 ∧ w.isWindow (r + j) = false :=
  ⟨by have := h.1; omega, h.2 j hj⟩

/-- No lane dissents from a register's word exactly where all active lanes hold the same. -/
theorem Warp.dissent_eq_zero_iff (w : Warp) (r : Nat) : w.dissent r = 0 ↔ ∀ l, l < 32 → w.active.getLsbD l = true → w.rdV r l = w.rdV r (lowLane w.active) := by
  have hbit (l : Nat) : (w.dissent r).getLsbD l = decide (l < 32 ∧ (l < 32 ∧ w.active.getLsbD l = true) ∧ w.rdV r l ≠ w.rdV r (lowLane w.active)) := by
    rw [Warp.dissent, getLsbD_maskOf]
    simp only [List.mem_filter, mem_lanesOf, bne_iff_ne]
  constructor
  · intro h l hl ha
    by_contra hne
    have := hbit l
    rw [h, decide_eq_true ⟨hl, ⟨hl, ha⟩, hne⟩] at this
    simp at this
  · intro h
    refine BitVec.eq_of_getLsbD_eq fun l hl => ?_
    rw [hbit, decide_eq_false fun hd => hd.2.2 (h l hd.1 hd.2.1.2)]
    simp

/-- Votes on legal words that all active lanes share: the instruction goes on with them. -/
theorem State.vote_of_agreed {s : State} (i : Instr) {plane : Bool} {r n : Nat} (k : List Nat → State)
    (hsame : ∀ j, j < n → s.w.dissent (r + j) = 0) (hlegal : ∀ j, j < n → fwFault plane (s.w.format (r + j)) = none) :
    s.vote i plane r n k = k ((List.range n).map fun j => s.w.format (r + j)) := by
  have hfind : ((List.range n).find? fun j => s.w.dissent (r + j) != 0) = none :=
    List.find?_eq_none.2 fun j hj => by simp [hsame j (List.mem_range.1 hj)]
  have hfaults : (((List.range n).map fun j => s.w.format (r + j)).filterMap (fwFault plane)) = [] := by
    rw [List.filterMap_map, List.filterMap_eq_nil_iff]
    exact fun j hj => hlegal j (List.mem_range.1 hj)
  rw [State.vote, hfind]
  dsimp only
  rw [show ((List.range n).map fun j => (s.w.rdV (r + j) (lowLane s.w.active)).toNat) = (List.range n).map fun j => s.w.format (r + j) from rfl, hfaults]

/-- The first of the words on which lanes differ stops the strand. -/
theorem State.vote_of_dissent {s : State} (i : Instr) (plane : Bool) {r n j : Nat} (k : List Nat → State) (hj : j < n)
    (hfirst : ∀ m, m < j → s.w.dissent (r + m) = 0) (hdiff : s.w.dissent (r + j) ≠ 0) :
    s.vote i plane r n k = s.divergence i (s.w.dissent (r + j)) (j + 1) := by
  have hfind : ((List.range n).find? fun j => s.w.dissent (r + j) != 0) = some j := by
    rw [List.find?_range_eq_some]
    exact ⟨by simpa using hdiff, List.mem_range.2 hj, fun m hm => by simp [hfirst m hm]⟩
  rw [State.vote, hfind]

/-! ### The operation that is latched -/

/-- The operation of `i` as its word latches it: the present strand's, with the register operands of all lanes as they stand and the agreed format words; not started where it is a half. -/
structure State.Latches (s : State) (i : Instr) (r : MatRow) (o : MatOp) : Prop where
  warp : o.warp = s.cur
  seq : o.seq = s.w.seqNo
  instr : o.instr = i
  pc : o.pc = s.w.runPc
  act : o.act = s.w.active
  done : o.done = false
  stopped : o.stopped = false
  num : o.num = s.w.pairSeq
  started : o.started = !s.w.bound
  partner : o.partner = if s.w.bound then s.twinOf s.cur else none
  a : r.qa = false → o.a = s.w.latch r.a.toNat r.na
  b : r.qb = false → o.b = s.w.latch r.b.toNat r.nb
  format : ∀ f, r.fw.head? = some f → o.fwA = s.w.format f
  held : s.w.bound = true ∨ r.qa = true ∨ r.qb = true → o.held = true

theorem State.matStep_fresh {s : State} {i : Instr} (fresh : State → State) (hheld : s.heldOp s.cur = none) (hstopped : s.stoppedOp i = none) :
    s.matStep i fresh = fresh s := by
  rw [State.matStep, hheld]
  dsimp only
  rw [hstopped]

/-- The run of registers from `r`, where it is read at all, is in range and in no bound window. -/
theorem Warp.run_ok {w : Warp} {r n : Nat} {skip : Bool} (h : skip = false → w.Plain r n) :
    ∀ x ∈ if skip then [] else (List.range n).map (r + ·), x < 64 ∧ w.isWindow x = false := by
  cases skip with
  | true => simp
  | false =>
    intro x hx
    obtain ⟨j, hj, rfl⟩ := List.mem_map.1 hx
    exact (h rfl).reg (List.mem_range.1 hj)

/-- The operation that an mma latches, with the format words `fa` and `fb`. -/
def State.mmaOp (s : State) (i : Instr) (a b : Vr) (qa qb : Bool) (sc : Vr) (ty : MatType) (fa fb : Nat) : MatOp :=
  let supply := s.w.bound && s.w.twin
  let window (isB : Bool) : Bool := s.w.isWindow (sc.toNat + (if isB then 1 else 0))
  let blkA := ty == .fmt && fwBlk fa != 0 && !supply
  let blkB := ty == .fmt && fwBlk fb != 0
  { warp := s.cur, seq := s.w.seqNo, instr := i, pc := s.w.runPc, num := s.w.pairSeq, partner := if s.w.bound then s.twinOf s.cur else none
    started := !s.w.bound, stopped := false, held := s.w.bound || qa || qb || (blkA && window false) || (blkB && window true), done := false, chunk := 0, act := s.w.active
    fwA := fa, fwB := fb, table := 0
    a := if qa || supply then [] else s.w.latch a.toNat (2 * matW ty)
    b := if qb then [] else s.w.latch b.toNat (2 * matW ty)
    sa := if blkA && !window false then lanes.map (s.w.rdV sc.toNat) else []
    sb := if blkB && !window true then lanes.map (s.w.rdV (sc.toNat + 1)) else []
    axf := 0 }

section
variable {h : Hdr} {a b : Vr} {t : Tile} {sr : Semiring} {qa qb : Bool} {fw sc : Vr} {ty : MatType} {z : Bool} {n : BitVec 4} {dc : Dc} {s : State} {r : MatRow}

theorem matRow_mma {supply : Bool} (hr : matRow supply (.mma h a b t sr qa qb fw sc ty z n dc) = some r) :
    r = ⟨t, a, if supply then 0 else 2 * matW ty, b, 2 * matW ty, qa, qb, if ty = .fmt then [fw.toNat, fw.toNat + 1] else [], dc⟩ :=
  (Option.some.inj hr).symm

theorem State.latches_mmaOp (hr : matRow (s.w.bound && s.w.twin) (.mma h a b t sr qa qb fw sc ty z n dc) = some r) {fa fb : Nat} (hfa : ty = .fmt → fa = s.w.format fw.toNat) :
    s.Latches (.mma h a b t sr qa qb fw sc ty z n dc) r (s.mmaOp (.mma h a b t sr qa qb fw sc ty z n dc) a b qa qb sc ty fa fb) := by
  obtain rfl := matRow_mma hr
  refine ⟨rfl, rfl, rfl, rfl, rfl, rfl, rfl, rfl, rfl, rfl, fun hq => ?_, fun hq => ?_, fun f hf => ?_, fun hc => ?_⟩
  · obtain rfl : qa = false := hq
    show (if (false || (s.w.bound && s.w.twin)) = true then [] else _) = s.w.latch a.toNat (if (s.w.bound && s.w.twin) = true then 0 else _)
    rw [Bool.false_or]
    split_ifs <;> rfl
  · obtain rfl : qb = false := hq
    rfl
  · by_cases hty : ty = .fmt
    · rw [if_pos hty] at hf
      obtain rfl := Option.some.inj hf
      exact hfa hty
    · rw [if_neg hty] at hf
      cases hf
  · show (s.w.bound || qa || qb || _ || _) = true
    rcases hc with hc | hc | hc
    · rw [hc]; rfl
    · rw [show qa = true from hc, Bool.or_true]; rfl
    · rw [show qb = true from hc, Bool.or_true]; rfl

/-- The registers that rows 2 and 4 of Table 7.2 look at are in range and in no bound window. -/
theorem mma_regs_ok (hr : matRow (s.w.bound && s.w.twin) (.mma h a b t sr qa qb fw sc ty z n dc) = some r) (hready : s.MatReady (.mma h a b t sr qa qb fw sc ty z n dc) r) :
    ∀ x ∈ (if qa || (s.w.bound && s.w.twin) then [] else (List.range (2 * matW ty)).map (a.toNat + ·)) ++
      (if qb then [] else (List.range (2 * matW ty)).map (b.toNat + ·)) ++ (if ty == .fmt then [fw.toNat, fw.toNat + 1] else []),
      x < 64 ∧ s.w.isWindow x = false := by
  obtain rfl := matRow_mma hr
  obtain ⟨-, -, -, -, hqa, -, hqb, -, hfw, -⟩ := hready
  simp only [List.mem_append]
  rintro x ((hx | hx) | hx)
  · refine Warp.run_ok (fun hskip => ?_) x hx
    obtain ⟨hq, hsupply⟩ := Bool.or_eq_false_iff.1 hskip
    have hna : 2 * matW ty ≠ 0 := by unfold matW; split_ifs <;> decide
    rw [hsupply] at hqa
    exact hqa hq hna
  · exact Warp.run_ok hqb x hx
  · by_cases hty : ty = .fmt
    · rw [if_pos (beq_iff_eq.2 hty)] at hx
      rw [if_pos hty] at hfw
      exact (hfw x hx).1.reg (j := 0) one_pos
    · rw [if_neg (by simpa using hty)] at hx
      cases hx

theorem mma_pops_ok (hr : matRow (s.w.bound && s.w.twin) (.mma h a b t sr qa qb fw sc ty z n dc) = some r) (hready : s.MatReady (.mma h a b t sr qa qb fw sc ty z n dc) r) :
    ∀ x ∈ (if qa then [a.toNat] else []) ++ (if qb then [b.toNat] else []), s.w.isWindow x = true := by
  obtain rfl := matRow_mma hr
  obtain ⟨-, -, -, -, -, hqa, -, hqb, -⟩ := hready
  simp only [List.mem_append]
  rintro x (hx | hx)
  · cases qa with
    | true => exact List.mem_singleton.1 hx ▸ hqa rfl
    | false => cases hx
  · cases qb with
    | true => exact List.mem_singleton.1 hx ▸ hqb rfl
    | false => cases hx

/-- An mma that no check stops issues the operation it has latched. -/
theorem exec_mma_issues (hr : matRow (s.w.bound && s.w.twin) (.mma h a b t sr qa qb fw sc ty z n dc) = some r) (hready : s.MatReady (.mma h a b t sr qa qb fw sc ty z n dc) r)
    (hheld : s.heldOp s.cur = none) (hstopped : s.stoppedOp (.mma h a b t sr qa qb fw sc ty z n dc) = none) :
    ∃ o, exec (.mma h a b t sr qa qb fw sc ty z n dc) s = .next (s.matIssue (.mma h a b t sr qa qb fw sc ty z n dc) o) ∧
      s.Latches (.mma h a b t sr qa qb fw sc ty z n dc) r o := by
  have htile : ∀ x ∈ some t, x.toNat < s.grid.ds.acc := fun x hx => by
    obtain rfl := Option.some.inj hx
    obtain rfl := matRow_mma hr
    exact hready.2.2.2.1
  have hregs := mma_regs_ok hr hready
  have hpops := mma_pops_ok hr hready
  have hex : exec (.mma h a b t sr qa qb fw sc ty z n dc) s = .next (s.matStep (.mma h a b t sr qa qb fw sc ty z n dc) _) := rfl
  rw [hex, State.matStep_fresh _ hheld hstopped]
  by_cases hty : ty = .fmt
  · obtain ⟨-, -, -, -, -, -, -, -, hfw, hsound⟩ := hready
    obtain ⟨hsc, hagree⟩ := hsound hty
    have hvote (j : Nat) (hj : j < 2) : s.w.Agrees (fw.toNat + j) := by
      refine (hfw _ ?_).2
      rw [matRow_mma hr, if_pos hty]
      obtain rfl | rfl : j = 0 ∨ j = 1 := by omega
      · exact List.mem_cons_self
      · exact List.mem_cons_of_mem _ List.mem_cons_self
    refine ⟨_, congrArg Host.Outcome.next ?_, State.latches_mmaOp (fb := s.w.format (fw.toNat + 1)) hr fun _ => rfl⟩
    dsimp only
    rw [if_neg fun hno => hsc hno.2, State.matRegs_of_ok _ _ hregs htile hpops, if_pos (beq_iff_eq.2 hty),
      State.vote_of_agreed _ _ (fun j hj => (s.w.dissent_eq_zero_iff _).2 (hvote j hj).1) fun j hj => (hvote j hj).2, if_neg]
    · rfl
    · simpa [hty, List.range_succ] using hagree
  · refine ⟨_, congrArg Host.Outcome.next ?_, State.latches_mmaOp (fa := 0) (fb := 0) hr fun h => absurd h hty⟩
    have hfmt : ¬ (ty == .fmt) = true := by simpa using hty
    dsimp only
    rw [if_neg fun hno => hfmt hno.1, State.matRegs_of_ok _ _ hregs htile hpops, if_neg hfmt, if_neg]
    · rfl
    · simp [hty]

end

section
variable {h : Hdr} {b : Vr} {kt : Kr} {t : Tile} {fw : Vr} {qb z : Bool} {dc : Dc} {e : BitVec 2} {neg : Bool} {s : State} {r : MatRow}

/-- The operation that an mlut latches, with the format word `f` and the table at `base`. -/
def State.mlutOp (s : State) (i : Instr) (b : Vr) (qb : Bool) (f base : Nat) : MatOp :=
  { warp := s.cur, seq := s.w.seqNo, instr := i, pc := s.w.runPc, num := s.w.pairSeq, partner := if s.w.bound then s.twinOf s.cur else none
    started := !s.w.bound, stopped := false, held := true, done := false, chunk := 0, act := s.w.active, fwA := f, fwB := f, table := base
    a := [], b := if qb then [] else s.w.latch b.toNat 8, sa := [], sb := [], axf := 0 }

/-- An mlut that no check stops issues the operation it has latched. -/
theorem exec_mlut_issues {supply : Bool} (hr : matRow supply (.mlut h b kt t fw qb z dc e neg) = some r) (hready : s.MatReady (.mlut h b kt t fw qb z dc e neg) r)
    (hheld : s.heldOp s.cur = none) (hstopped : s.stoppedOp (.mlut h b kt t fw qb z dc e neg) = none) :
    ∃ o, exec (.mlut h b kt t fw qb z dc e neg) s = .next (s.matIssue (.mlut h b kt t fw qb z dc e neg) o) ∧ s.Latches (.mlut h b kt t fw qb z dc e neg) r o := by
  obtain rfl : _ = r := Option.some.inj hr
  obtain ⟨-, -, -, htile, -, -, hqb, hqbw, hfw, hbase, hplane, hblk⟩ := hready
  obtain ⟨hfreg, hagree⟩ := hfw fw.toNat List.mem_cons_self
  have hregs : ∀ x ∈ (if qb then [] else (List.range 8).map (b.toNat + ·)) ++ [fw.toNat], x < 64 ∧ s.w.isWindow x = false := by
    intro x hx
    rcases List.mem_append.1 hx with hx | hx
    · exact Warp.run_ok hqb x hx
    · exact List.mem_singleton.1 hx ▸ hfreg.reg (j := 0) one_pos
  have hpops : ∀ x ∈ if qb then [b.toNat] else [], s.w.isWindow x = true := by
    intro x hx
    cases qb with
    | true => exact List.mem_singleton.1 hx ▸ hqbw rfl
    | false => cases hx
  have hsame (j : Nat) (hj : j < 1) : s.w.Agrees (fw.toNat + j) := by
    obtain rfl := Nat.lt_one_iff.1 hj
    exact hagree
  have hex : exec (.mlut h b kt t fw qb z dc e neg) s = .next (s.matStep (.mlut h b kt t fw qb z dc e neg) _) := rfl
  refine ⟨s.mlutOp (.mlut h b kt t fw qb z dc e neg) b qb (s.w.format fw.toNat) (s.w.rdK kt.toNat).toNat, ?_,
    ⟨rfl, rfl, rfl, rfl, rfl, rfl, rfl, rfl, rfl, rfl, fun _ => rfl, fun hq => ?_, fun f hf => Option.some.inj hf ▸ rfl, fun _ => rfl⟩⟩
  · rw [hex, State.matStep_fresh _ hheld hstopped]
    dsimp only
    rw [State.matRegs_of_ok _ _ hregs (fun x hx => Option.some.inj hx ▸ htile) hpops, if_neg (not_not.2 hbase),
      State.vote_of_agreed _ _ (fun j hj => (s.w.dissent_eq_zero_iff _).2 (hsame j hj).1) fun j hj => (hsame j hj).2, if_neg]
    · rfl
    · simp [List.range_succ, hplane, hblk]
  · obtain rfl : qb = false := hq
    rfl

end

/-- A matrix operation that no check of Table 7.2 stops is issued as its word latches it. -/
theorem exec_matRow_issues {i : Instr} {r : MatRow} {s : State} (hr : matRow (s.w.bound && s.w.twin) i = some r) (hready : s.MatReady i r) (hheld : s.heldOp s.cur = none)
    (hstopped : s.stoppedOp i = none) : ∃ o, exec i s = .next (s.matIssue i o) ∧ s.Latches i r o := by
  cases i with
  | mma => exact exec_mma_issues hr hready hheld hstopped
  | mlut => exact exec_mlut_issues hr hready hheld hstopped
  | _ => cases hr

theorem matRow_counter {supply : Bool} {i : Instr} {r : MatRow} (hr : matRow supply i = some r) : i.counter = if r.dc = 7 then none else some r.dc.toNat := by
  cases i with
  | mma => obtain rfl := Option.some.inj hr; rfl
  | mlut => obtain rfl := Option.some.inj hr; rfl
  | _ => cases hr

/-! ### Entering the order of the core (R156) -/

/-- The warp once a matrix operation of it has been counted. -/
def Warp.countOp (w : Warp) (dc : Option Nat) (paired : Bool) : Warp := { w.count dc [] false [] with pairSeq := if paired then w.pairSeq + 1 else w.pairSeq }

/-- Counting an operation changes no register, no flag, no result under way, and not where the warp stands. -/
theorem Warp.countOp_spec (w : Warp) (dc : Option Nat) (paired : Bool) :
    w.SameRegs (w.countOp dc paired) ∧ (w.countOp dc paired).runPc = w.runPc ∧ (w.countOp dc paired).deferred = w.deferred ∧ (w.countOp dc paired).specials = w.specials ∧
      (w.countOp dc paired).seqNo = w.seqNo + 1 ∧ (w.countOp dc paired).pairSeq = (if paired then w.pairSeq + 1 else w.pairSeq) ∧
      (w.countOp dc paired).inflight = w.inflight ++ (dc.map fun c => ⟨w.seqNo, c, false, [], w.sched, []⟩).toList := by
  cases dc with
  | none => exact ⟨⟨rfl, rfl, rfl, rfl, rfl, rfl, rfl, rfl, rfl, fun _ => rfl⟩, rfl, rfl, rfl, rfl, rfl, (List.append_nil _).symm⟩
  | some c => exact ⟨⟨rfl, rfl, rfl, rfl, rfl, rfl, rfl, rfl, rfl, fun _ => rfl⟩, rfl, rfl, rfl, rfl, rfl, rfl⟩

theorem Warp.SameRegs.trans {w u t : Warp} (h : w.SameRegs u) (h' : u.SameRegs t) (hdef : u.deferred = w.deferred) : w.SameRegs t := by
  obtain ⟨a1, a2, a3, a4, a5, a6, a7, a8, a9, a10⟩ := h
  obtain ⟨b1, b2, b3, b4, b5, b6, b7, b8, b9, b10⟩ := h'
  exact ⟨b1.trans a1, b2.trans a2, b3.trans a3, b4.trans a4, b5.trans a5, b6.trans a6, b7.trans a7, b8.trans a8, b9.trans a9,
    fun hd => (b10 (hdef.trans hd)).trans (a10 hd)⟩

/-- The current warp waits, or has gone past the word, from a warp `u`: nothing but its place and what parks it differs. -/
structure Warp.Leaves (u t : Warp) (i : Instr) (stays : Bool) : Prop where
  regs : u.SameRegs t
  seqNo : t.seqNo = u.seqNo
  pairSeq : t.pairSeq = u.pairSeq
  inflight : t.inflight = u.inflight
  waits : stays = true → t.runPc = u.runPc ∧ t.waiting = true
  passes : stays = false → t.runPc = u.runPc + BitVec.ofNat 64 (4 * i.words)

theorem State.leaves_retire {s : State} (h : s.Here) (i : Instr) : s.w.Leaves (s.retire i).w i false := by
  obtain ⟨-, ⟨hpc, hspec⟩, hstill, hpend⟩ := State.retire_spec h i
  have key {α : Type} (f : Warp → α) : f (s.retire i).w.still = f s.w.still := congrArg f hstill
  exact ⟨Warp.sameRegs_of_still hstill hpend hspec, key Warp.seqNo, key Warp.pairSeq, State.retire_inflight h i, fun h => absurd h Bool.false_ne_true, fun _ => hpc⟩

theorem Warp.leaves_parked (u : Warp) (p : Option Park) (i : Instr) : u.Leaves { u with park := p, waiting := true } i true :=
  ⟨⟨rfl, rfl, rfl, rfl, rfl, rfl, rfl, rfl, rfl, fun _ => rfl⟩, rfl, rfl, rfl, fun _ => ⟨rfl, rfl⟩, fun h => absurd h.symm Bool.false_ne_true⟩

/-- The current warp waits without its slot: no core's tiles or operations change. -/
theorem State.holdFree_spec {s : State} (h : s.Here) :
    s.holdFree.w = { s.w with waiting := true } ∧ s.holdFree.mem = s.mem ∧ s.holdFree.groups = s.groups ∧
      ∀ c, (s.holdFree.coreAt c).matq = (s.coreAt c).matq ∧ (s.holdFree.coreAt c).acc = (s.coreAt c).acc := by
  refine ⟨State.modW_w (s := s.modCore s.w.core fun c => { c with slots := c.slots.filter (· != s.cur) }) h _, State.hold_mem _, State.hold_groups _, fun c => ?_⟩
  rw [State.holdFree, State.coreAt_hold, State.coreAt_modCore]
  split_ifs with hc
  · rw [hc]
    exact ⟨rfl, rfl⟩
  · exact ⟨rfl, rfl⟩

/-- An operation that is issued stands last in its core's order; the machine changes no more than that core's slots and the current warp, which counts it and waits or goes on. -/
theorem State.matIssue_spec {s : State} (h : s.Here) (i : Instr) {o : MatOp} (hend : s.w.bound = true → s.twinEnded = false) :
    let t := s.matIssue i o
    (t.coreAt s.w.core).matq = (s.coreAt s.w.core).matq ++ [o] ∧ (∀ x m n, t.cell s.w.core x m n = s.cell s.w.core x m n) ∧ t.mem = s.mem ∧ t.groups = s.groups ∧
      (s.w.countOp i.counter o.partner.isSome).Leaves t.w i o.held := by
  intro t
  let u : State := (s.modOps s.w.core (· ++ [o])).modW fun w => w.countOp i.counter o.partner.isSome
  have hu : u.Here := State.modW_isSome (s := s.modOps s.w.core (· ++ [o])) h _
  have huw : u.w = s.w.countOp i.counter o.partner.isSome := State.modW_w (s := s.modOps s.w.core (· ++ [o])) h _
  have hcore : u.w.core = s.w.core := by
    rw [huw]
    cases i.counter <;> rfl
  have hq : (u.coreAt s.w.core).matq = (s.coreAt s.w.core).matq ++ [o] := by simp [u, State.modOps]
  have ht : t = if !o.held then u.retire i else if o.partner.isNone then u.hold
      else (if u.collated then u.modW fun w => { w with park := some ⟨.pair false, w.lclk, false⟩ } else u).holdFree :=
    if_neg fun hb => by simp only [Bool.and_eq_true] at hb; rw [hend hb.1] at hb; exact Bool.false_ne_true hb.2
  have hacc : (u.coreAt s.w.core).acc = (s.coreAt s.w.core).acc := by simp [u, State.modOps]
  have hmem : u.mem = s.mem := by simp [u, State.modOps]
  have hgroups : u.groups = s.groups := by simp [u, State.modOps]
  have hcell {t : State} (ht : (t.coreAt s.w.core).acc = (u.coreAt s.w.core).acc) (x m n : Nat) : t.cell s.w.core x m n = s.cell s.w.core x m n := by
    rw [State.cell, State.cell, Core.tile, Core.tile, ht.trans hacc]
  have hparks {v : State} (p : Option Park) (hv : v.Here) (hw : v.w = { u.w with park := p }) (hc : ∀ c, v.coreAt c = u.coreAt c) (hm : v.mem = u.mem) (hg : v.groups = u.groups) :
      (v.holdFree.coreAt s.w.core).matq = (s.coreAt s.w.core).matq ++ [o] ∧ (∀ x m n, v.holdFree.cell s.w.core x m n = s.cell s.w.core x m n) ∧
        v.holdFree.mem = s.mem ∧ v.holdFree.groups = s.groups ∧ u.w.Leaves v.holdFree.w i true := by
    obtain ⟨hwait, hmem', hgroups', hcores⟩ := State.holdFree_spec hv
    refine ⟨(hcores _).1.trans ((congrArg Core.matq (hc _)).trans hq), hcell ((hcores _).2.trans (congrArg Core.acc (hc _))), hmem'.trans (hm.trans hmem),
      hgroups'.trans (hg.trans hgroups), ?_⟩
    rw [hwait, hw]
    exact u.w.leaves_parked p i
  rw [ht, ← huw]
  split_ifs with hheld hpart hcoll
  · rw [Bool.not_eq_true'] at hheld
    rw [hheld]
    exact ⟨(congrArg Core.matq (u.coreAt_retire i _)).trans hq, hcell (congrArg Core.acc (u.coreAt_retire i _)), (u.retire_mem i).trans hmem, (u.retire_groups i).trans hgroups,
      State.leaves_retire hu i⟩
  · rw [Bool.not_eq_true', Bool.not_eq_false] at hheld
    rw [hheld, (State.hold_spec hu).1]
    exact ⟨(congrArg Core.matq (u.coreAt_hold _)).trans hq, hcell (congrArg Core.acc (u.coreAt_hold _)), u.hold_mem.trans hmem, u.hold_groups.trans hgroups,
      u.w.leaves_parked u.w.park i⟩
  · rw [Bool.not_eq_true', Bool.not_eq_false] at hheld
    rw [hheld]
    exact hparks (some ⟨.pair false, u.w.lclk, false⟩) (State.modW_isSome hu _) (State.modW_w hu _) (u.coreAt_modW _) (u.modW_mem _) (u.modW_groups _)
  · rw [Bool.not_eq_true', Bool.not_eq_false] at hheld
    rw [hheld]
    exact hparks u.w.park hu rfl (fun _ => rfl) rfl rfl

/-! ### Once the operation is done, and lanes that disagree -/

/-- A word whose operation is done forgets it and retires. -/
theorem State.matStep_done {s : State} {i : Instr} {o : MatOp} (fresh : State → State) (hheld : s.heldOp s.cur = some o) (hdone : o.done = true) :
    s.matStep i fresh = (s.dropOp o).retire i := by
  rw [State.matStep, hheld]
  exact if_pos hdone

theorem State.dropOp_retire_spec {s : State} (h : s.Here) (i : Instr) {o : MatOp} (hheld : s.heldOp s.cur = some o) :
    let t := (s.dropOp o).retire i
    t.w.runPc = s.w.runPc + BitVec.ofNat 64 (4 * i.words) ∧ o ∉ (t.coreAt s.w.core).matq ∧ t.mem = s.mem ∧ t.groups = s.groups ∧ s.w.SameRegs t.w ∧
      t.w.inflight = s.w.inflight ∧ t.w.dcIssued = s.w.dcIssued := by
  intro t
  have hd : (s.dropOp o).Here := h
  obtain ⟨-, ⟨hpc, hspec⟩, hstill, hpend⟩ := State.retire_spec hd i
  have hwarp : o.warp = s.cur := by
    have := List.find?_some hheld
    simp only [Bool.and_eq_true, beq_iff_eq] at this
    exact this.1.1
  have hcore : s.w.core = (s.warpAt o.warp).core := by rw [hwarp]; rfl
  have hissued : ((s.dropOp o).retire i).w.still.dcIssued = s.w.still.dcIssued := by rw [hstill]; rfl
  refine ⟨hpc, ?_, State.retire_mem _ i, State.retire_groups _ i, Warp.sameRegs_of_still hstill hpend hspec, State.retire_inflight hd i, hissued⟩
  rw [State.coreAt_retire, hcore, State.dropOp, State.modOps, State.coreAt_modCore_same]
  simp

theorem exec_matRow_step {supply : Bool} {i : Instr} {r : MatRow} {s : State} (hr : matRow supply i = some r) : ∃ fresh, exec i s = .next (s.matStep i fresh) := by
  cases i with
  | mma => exact ⟨_, rfl⟩
  | mlut => exact ⟨_, rfl⟩
  | _ => cases hr

/-- Lanes that disagree on the `j`-th format word of an mma stop its strand. -/
theorem exec_mma_diverges {h : Hdr} {a b : Vr} {x : Tile} {sr : Semiring} {fw sc : Vr} {z : Bool} {n : BitVec 4} {dc : Dc} {s : State}
    (hheld : s.heldOp s.cur = none) (hstopped : s.stoppedOp (.mma h a b x sr false false fw sc .fmt z n dc) = none) (htile : x.toNat < s.grid.ds.acc)
    (ha : s.w.Plain a.toNat 16) (hb : s.w.Plain b.toNat 16) (hfw : s.w.Plain fw.toNat 2) (hsc : sc ≠ 63) {j : Nat} (hj : j < 2)
    (hfirst : ∀ m, m < j → s.w.dissent (fw.toNat + m) = 0) (hdiff : s.w.dissent (fw.toNat + j) ≠ 0) :
    exec (.mma h a b x sr false false fw sc .fmt z n dc) s =
      .next (s.divergence (.mma h a b x sr false false fw sc .fmt z n dc) (s.w.dissent (fw.toNat + j)) (j + 1)) := by
  have hregs : ∀ y ∈ (if false || (s.w.bound && s.w.twin) then [] else (List.range (2 * matW .fmt)).map (a.toNat + ·)) ++
      (if false then [] else (List.range (2 * matW .fmt)).map (b.toNat + ·)) ++ (if MatType.fmt == .fmt then [fw.toNat, fw.toNat + 1] else []),
      y < 64 ∧ s.w.isWindow y = false := by
    simp only [List.mem_append]
    rintro y ((hy | hy) | hy)
    · exact Warp.run_ok (fun _ => ha) y hy
    · exact Warp.run_ok (fun _ => hb) y hy
    · rcases List.mem_cons.1 hy with rfl | hy
      · exact hfw.reg (j := 0) two_pos
      · exact List.mem_singleton.1 hy ▸ hfw.reg (j := 1) one_lt_two
  have hpops : ∀ y ∈ (if false = true then [a.toNat] else []) ++ (if false = true then [b.toNat] else []), s.w.isWindow y = true := fun y hy => absurd hy List.not_mem_nil
  have hex : exec (.mma h a b x sr false false fw sc .fmt z n dc) s = .next (s.matStep (.mma h a b x sr false false fw sc .fmt z n dc) _) := rfl
  rw [hex, State.matStep_fresh _ hheld hstopped]
  dsimp only
  rw [if_neg fun hno => hsc hno.2, State.matRegs_of_ok _ _ hregs (fun y hy => Option.some.inj hy ▸ htile) hpops, if_pos (beq_self_eq_true _),
    State.vote_of_dissent _ _ _ hj hfirst hdiff]

theorem Warp.dissent_ne_zero {w : Warp} {r : Nat} (h : ∃ l, l < 32 ∧ w.active.getLsbD l = true ∧ w.rdV r l ≠ w.rdV r (lowLane w.active)) : w.dissent r ≠ 0 := by
  obtain ⟨l, hl, ha, hne⟩ := h
  exact fun h0 => hne ((w.dissent_eq_zero_iff r).1 h0 l hl ha)

theorem Warp.dissent_eq_zero {w : Warp} {r : Nat} (h : ¬ ∃ l, l < 32 ∧ w.active.getLsbD l = true ∧ w.rdV r l ≠ w.rdV r (lowLane w.active)) : w.dissent r = 0 :=
  (w.dissent_eq_zero_iff r).2 fun l hl ha => by_contra fun hne => h ⟨l, hl, ha, hne⟩

/-- Settles O35: the checks pass and the latched operation enters its core's order; its word retires at once, or once the operation is done; a vote that fails is a trap of the strand. -/
theorem matrixIssue : Obligations.MatrixIssue := by
  unfold Obligations.MatrixIssue
  refine ⟨fun i r s hr hready hheld hstopped hend => ?_, fun i r s o hr h hheld _ hdone => ?_, fun h a b x sr fw sc z n dc s => ?_⟩
  · obtain ⟨o, hex, hl⟩ := exec_matRow_issues hr hready hheld hstopped
    obtain ⟨hq, hcell, hmem, hgroups, hleaves⟩ := State.matIssue_spec hready.1 i (o := o) hend
    obtain ⟨hregs, hpc, hdef, -, hseq, hpair, hin⟩ := s.w.countOp_spec i.counter o.partner.isSome
    have hpartner : o.partner.isSome = s.w.bound := by
      rw [hl.partner]
      cases hb : s.w.bound with
      | false => rfl
      | true =>
        have := hend hb
        rw [State.twinEnded] at this
        cases htw : s.twinOf s.cur with
        | none => rw [htw] at this; cases this
        | some g => rfl
    rw [matRow_counter hr] at hin
    refine ⟨_, o, hex, hq, hl.warp, hl.seq, hl.instr, hl.pc, hl.act, hl.done, hl.stopped, hl.num, ?_, hleaves.seqNo.trans hseq, hl.started, hl.partner, hl.a, hl.b, hl.format, hl.held,
      hmem, hgroups, hregs.trans hleaves.regs hdef, hcell, fun hdc => ?_, fun hdc => ?_, fun hh => ?_, fun hh => ?_⟩
    · rw [hleaves.pairSeq, hpair, hpartner]
      cases s.w.bound <;> rfl
    · rw [hleaves.inflight, matRow_counter hr, hin, if_neg hdc]
      rfl
    · rw [hleaves.inflight, matRow_counter hr, hin, if_pos hdc]
      exact List.append_nil _
    · exact ⟨(hleaves.waits hh).1.trans hpc, (hleaves.waits hh).2⟩
    · rw [hleaves.passes hh, hpc]
  · obtain ⟨fresh, hex⟩ := exec_matRow_step (s := s) hr
    rw [hex, State.matStep_done fresh hheld hdone]
    exact ⟨_, rfl, State.dropOp_retire_spec h i hheld⟩
  · intro i differs h hk hheld hstopped htile ha hb hfw hsc
    refine ⟨fun h0 => ?_, fun h0 h1 => ?_⟩
    · exact ⟨_, exec_mma_diverges hheld hstopped htile ha hb hfw hsc two_pos (fun m hm => absurd hm (Nat.not_lt_zero m)) (Warp.dissent_ne_zero h0),
        State.trapped_takeTrap h hk _ _ _ _ _ _ _⟩
    · refine ⟨_, exec_mma_diverges hheld hstopped htile ha hb hfw hsc one_lt_two (fun m hm => ?_) (Warp.dissent_ne_zero h1), State.trapped_takeTrap h hk _ _ _ _ _ _ _⟩
      obtain rfl := Nat.lt_one_iff.1 hm
      exact Warp.dissent_eq_zero h0

end Sys2Proof.Machine
end

section
/-! OBLIGATION. Matrix chunks (R164 to R169, R177). -/

namespace Sys2Proof.Machine

/-! ### What a chunk does beside its tile -/

/-- Every tile of every core, device memory and the groups are as they were. -/
structure State.KeepsTiles (s t : State) : Prop where
  acc : ∀ c, (t.coreAt c).acc = (s.coreAt c).acc
  mem : t.mem = s.mem
  groups : t.groups = s.groups

theorem State.KeepsTiles.refl (s : State) : s.KeepsTiles s := ⟨fun _ => rfl, rfl, rfl⟩

theorem State.KeepsTiles.trans {s t u : State} (h : s.KeepsTiles t) (h' : t.KeepsTiles u) : s.KeepsTiles u :=
  ⟨fun c => (h'.acc c).trans (h.acc c), h'.mem.trans h.mem, h'.groups.trans h.groups⟩

theorem State.KeepsTiles.tile {s t : State} (h : s.KeepsTiles t) (c y : Nat) : (t.coreAt c).tile y = (s.coreAt c).tile y := by
  rw [Core.tile, Core.tile, h.acc]

theorem State.keepsTiles_modWarp (s : State) (h : Nat) (f : Warp → Warp) : s.KeepsTiles (s.modWarp h f) := by
  unfold State.modWarp
  split
  · exact ⟨fun _ => rfl, rfl, rfl⟩
  · exact .refl s

theorem State.keepsTiles_modOps (s : State) (c : Nat) (f : List MatOp → List MatOp) : s.KeepsTiles (s.modOps c f) := by
  refine ⟨fun k => ?_, rfl, rfl⟩
  rw [State.modOps, State.coreAt_modCore]
  split_ifs with hk
  · rw [hk]
  · rfl

theorem State.keepsTiles_modOp (s : State) (o : MatOp) (f : MatOp → MatOp) : s.KeepsTiles (s.modOp o f) := s.keepsTiles_modOps _ _
theorem State.keepsTiles_dropOp (s : State) (o : MatOp) : s.KeepsTiles (s.dropOp o) := s.keepsTiles_modOps _ _

theorem State.modOp_warpAt (s : State) (o : MatOp) (f : MatOp → MatOp) (h : Nat) : (s.modOp o f).warpAt h = s.warpAt h := rfl

theorem State.warpAt_modWarp {s : State} {h : Nat} (hh : (SMap.find s.warps h).isSome = true) (f : Warp → Warp) : (s.modWarp h f).warpAt h = f (s.warpAt h) := by
  obtain ⟨w, hw⟩ := Option.isSome_iff_exists.1 hh
  rw [State.modWarp_eq hw, State.warpAt, State.setWarp_warps, SMap.get_put_same, State.warpAt_of_find hw]

theorem State.modWarp_isSome {s : State} {h : Nat} (hh : (SMap.find s.warps h).isSome = true) (f : Warp → Warp) : (SMap.find (s.modWarp h f).warps h).isSome = true := by
  obtain ⟨w, hw⟩ := Option.isSome_iff_exists.1 hh
  rw [State.modWarp_eq hw, State.setWarp_warps, SMap.find_put_same]
  rfl

/-! ### Tiles -/

theorem tileMap_cell {x : List Word} (hx : x.length = 4096) (f : Nat → Nat → Word → Word × FFlags) {m n : Nat} (hm : m < 64) (hn : n < 64) :
    (tileMap x f).1.getD (64 * m + n) 0 = (f m n (x.getD (64 * m + n) 0)).1 := by
  have hk : 64 * m + n < 4096 := by omega
  have hrow : (64 * m + n) / 64 = m := by omega
  have hcol : (64 * m + n) % 64 = n := by omega
  have hlt : 64 * m + n < x.length := hx.symm ▸ hk
  simp [tileMap, List.getD_eq_getElem?_getD, hk, hlt, hrow, hcol]

theorem mmaTile_cell {sr : Semiring} {ty : MatType} {ident : Bool} {x : List Word} (hx : x.length = 4096) (row col : Nat → List FVal) {m n : Nat} (hm : m < 64) (hn : n < 64) :
    (mmaTile sr ty ident x ((List.range 64).map row) ((List.range 64).map col)).1.getD (64 * m + n) 0 =
      (cellOf sr ty (if ident then semiIdentity sr ty else x.getD (64 * m + n) 0) (row m) (col n)).1 := by
  rw [mmaTile, tileMap_cell hx _ hm hn]
  simp [List.getD_eq_getElem?_getD, hm, hn]

theorem mlutTile_cell {z neg : Bool} {e : Nat} {x : List Word} (hx : x.length = 4096) (tab : Nat → Nat → Nat → Nat) (plane : List (List Word)) {m n : Nat} (hm : m < 64) (hn : n < 64) :
    (mlutTile z neg e x tab plane).1.getD (64 * m + n) 0 =
      BitVec.ofNat 32 (chunkSum ((if z then FVal.fin false 0 0 else f32.decode (x.getD (64 * m + n) 0).toNat) ::
        (List.range 32).map fun g => (f32.decode (tab g m (planeIdx plane n g))).coef neg e)).1 := by
  rw [mlutTile, tileMap_cell hx _ hm hn]
  dsimp only
  rw [List.map_map]
  rfl

/-! ### A chunk that is done -/

/-- The tile of an operation once its next chunk is done. -/
def State.chunkedTile (s : State) (o : MatOp) (x : Operands) : List Word :=
  (s.chunkTile o o x x ((s.coreAt (s.warpAt o.warp).core).tile o.shape.1)).1

/-- A warp that has other flags and completed instructions has the registers and queues it had. -/
theorem State.matFlags_complete_warpAt {s : State} {h : Nat} (hh : (SMap.find s.warps h).isSome = true) (act : Word) (fl : FFlags) (seq : Nat) :
    ((s.modWarp h fun w => (w.matFlags act fl).complete seq []).warpAt h).queues = (s.warpAt h).queues ∧
      ((s.modWarp h fun w => (w.matFlags act fl).complete seq []).warpAt h).v = (s.warpAt h).v := by
  rw [State.warpAt_modWarp hh]
  exact ⟨rfl, rfl⟩

theorem State.popsFreed_warpAt {s : State} {h : Nat} (hh : (SMap.find s.warps h).isSome = true) (pops : SMap Nat) :
    (if pops.isEmpty then s else s.modWarp h fun w => w.freePops pops).warpAt h = (s.warpAt h).freePops pops := by
  cases pops with
  | nil => rfl
  | cons e t => exact State.warpAt_modWarp hh _

/-- An unpaired operation that can read its operands does its next chunk: its tile changes, and no other tile, no memory and no group does; its warp has popped what the chunk read. -/
theorem exec_mmaChunk_done {core : Nat} {s : State} {o : MatOp} {x : Operands} {pops : SMap Nat} (hhead : s.chunkHead core = some (o, none)) (hread : s.chunkRead o = .ok (x, pops)) :
    ∃ t, exec (.mmaChunk core) s = .next t ∧ (s.modCore (s.warpAt o.warp).core fun c => c.setTile o.shape.1 (s.chunkedTile o x)).KeepsTiles t ∧
      ((SMap.find s.warps o.warp).isSome = true → (t.warpAt o.warp).queues = ((s.warpAt o.warp).freePops pops).queues ∧ (t.warpAt o.warp).v = (s.warpAt o.warp).v) := by
  let s1 := s.modCore (s.warpAt o.warp).core fun c => c.setTile o.shape.1 (s.chunkedTile o x)
  let s2 := if pops.isEmpty then s1 else s1.modWarp o.warp fun w => w.freePops pops
  let s3 := (s.chunkHalf o o x x pops).1
  have hs3 : ∃ f, s3 = s2.modOps (s.warpAt o.warp).core f := ⟨_, rfl⟩
  obtain ⟨f, hs3⟩ := hs3
  have hkeep2 : s1.KeepsTiles s2 := by
    unfold s2
    split_ifs
    · exact .refl s1
    · exact s1.keepsTiles_modWarp _ _
  have hkeep3 : s1.KeepsTiles s3 := hs3 ▸ hkeep2.trans (s2.keepsTiles_modOps _ _)
  have hfound2 (hh : (SMap.find s.warps o.warp).isSome = true) : (SMap.find s3.warps o.warp).isSome = true := by
    rw [hs3]
    show (SMap.find s2.warps o.warp).isSome = true
    unfold s2
    split_ifs
    · exact hh
    · exact State.modWarp_isSome (s := s1) hh _
  have hwarp3 (hh : (SMap.find s.warps o.warp).isSome = true) : s3.warpAt o.warp = (s.warpAt o.warp).freePops pops := by
    rw [hs3]
    exact State.popsFreed_warpAt (s := s1) hh pops
  have hex : exec (.mmaChunk core) s = .next (
      let fl := o.axf ||| (s.chunkHalf o o x x pops).2
      if o.chunk + 1 < o.shape.2 then s3.modOp o fun o => { o with axf := fl }
      else
        let s := s3.modWarp o.warp fun w => (w.matFlags o.act fl).complete o.seq []
        if o.held then s else s.dropOp o) := by
    show Host.Outcome.next (match s.chunkHead core with
      | none => s
      | some (o, q) => _) = _
    rw [hhead]
    dsimp only
    rw [hread]
  rw [hex]
  dsimp only
  have hkeep4 := s3.keepsTiles_modWarp o.warp fun w => (w.matFlags o.act (o.axf ||| (s.chunkHalf o o x x pops).2)).complete o.seq []
  have hwarp4 (hh : (SMap.find s.warps o.warp).isSome = true) := State.matFlags_complete_warpAt (hfound2 hh) o.act (o.axf ||| (s.chunkHalf o o x x pops).2) o.seq
  split_ifs
  · refine ⟨_, rfl, hkeep3.trans (s3.keepsTiles_modOp _ _), fun hh => ?_⟩
    rw [State.modOp_warpAt, hwarp3 hh]
    exact ⟨rfl, rfl⟩
  · refine ⟨_, rfl, hkeep3.trans hkeep4, fun hh => ?_⟩
    rw [(hwarp4 hh).1, (hwarp4 hh).2, hwarp3 hh]
    exact ⟨rfl, rfl⟩
  · refine ⟨_, rfl, hkeep3.trans (hkeep4.trans (State.keepsTiles_dropOp _ o)), fun hh => ?_⟩
    obtain ⟨hq, hv⟩ := hwarp4 hh
    rw [hwarp3 hh] at hq hv
    exact ⟨hq, hv⟩

/-! ### A faulted entry before a chunk (R169) -/

theorem lowLane_mem {m : Word} (h : m ≠ 0) : lowLane m ∈ lanesOf m := by
  obtain ⟨l, hl, hbit⟩ : ∃ l, l < 32 ∧ m.getLsbD l = true := by
    by_contra hno
    push Not at hno
    exact h (BitVec.eq_of_getLsbD_eq fun l hl => by simpa using hno l hl)
  obtain ⟨k, hk⟩ : ∃ k, lowLane? m = some k := by
    cases hf : lowLane? m with
    | some k => exact ⟨k, rfl⟩
    | none => exact absurd hbit (List.find?_eq_none.1 hf l (List.mem_range.2 hl))
  rw [lowLane, hk, Option.getD_some, mem_lanesOf]
  exact ⟨List.mem_range.1 (List.mem_of_find?_eq_some hk), List.find?_some hk⟩

theorem State.chunkHead_unpaired {s : State} {core : Nat} {o : MatOp} (h : s.chunkHead core = some (o, none)) : o.partner = none := by
  unfold State.chunkHead at h
  repeat' split at h
  all_goals simp_all

/-- A faulted entry stops the whole strand at the word: nothing of its queues or registers changes, and a stop of each active lane is added that names the queue and the chunk. -/
theorem State.popFault_spec {s : State} (h : s.Here) (hk : s.w.kind = .normal) (i : Instr) (t q : Nat) (e : QEntry) :
    s.KeepsTiles (s.popFault i t q e) ∧ (s.popFault i t q e).cur = s.cur ∧ (s.popFault i t q e).w.queues = s.w.queues ∧
      (s.popFault i t q e).w.resumeChunk = s.w.resumeChunk ∧ (s.popFault i t q e).w.inflight = s.w.inflight ∧
      ∀ l ∈ lanesOf s.w.active, ∃ p ∈ (s.popFault i t q e).w.stops, p.cause = 0x04 ∧ p.lane = l ∧ p.aux = 128 + 16 * q + t ∧ p.resume = s.w.runPc := by
  let m := maskOf (e.causes.map (·.1))
  let detail (l : Nat) := ((e.causes.find? fun c => c.1 == l).map (·.2.1)).getD (e.causes.foldl (fun d c => min d c.2.1) 255)
  let ea (l : Nat) := ((e.causes.find? fun c => c.1 == l).map (·.2.2)).getD 0
  let stopped (w : Warp) : Warp := w.stopLanes s.collated s.g s.clk 0x04 s.w.active m detail ea (128 + 16 * q + t) s.w.runPc (s.nextPc i)
  let noted (w : Warp) : Warp := w.newStops s.w.stops.length fun t => { t with note := some (s.w.sliceNote (some e)) }
  have ht : s.popFault i t q e = s.modW fun w => noted (stopped w) := by
    rw [← State.modW_modW]
    show ((match s.w.kind with
      | .normal => s.modW stopped
      | .handler => _
      | .surrender => _).noteSlice _ _) = _
    rw [hk]
    rfl
  obtain ⟨hstill, -, hin, -⟩ := s.w.stopLanes_strand s.collated s.g s.clk 0x04 (128 + 16 * q + t) m detail ea s.w.runPc (s.nextPc i)
  have key {α : Type} (f : Warp → α) : f (stopped s.w).still = f (s.w.addStops (s.w.recordStop 0x04 (128 + 16 * q + t) m detail ea s.w.runPc (s.nextPc i))).still := congrArg f hstill
  rw [ht, State.modW_w h]
  refine ⟨⟨fun c => congrArg Core.acc (s.coreAt_modW _ c), s.modW_mem _, s.modW_groups _⟩, s.modW_cur _, key Warp.queues, key Warp.resumeChunk, hin, fun l hl => ?_⟩
  have hstops : (noted (stopped s.w)).stops = s.w.stops.take s.w.stops.length ++
      ((lanesOf s.w.active).map (s.w.recordStop 0x04 (128 + 16 * q + t) m detail ea s.w.runPc (s.nextPc i))).map fun t => { t with note := some (s.w.sliceNote (some e)) } := by
    show (stopped s.w).stops.take s.w.stops.length ++ ((stopped s.w).stops.drop s.w.stops.length).map _ = _
    rw [show (stopped s.w).stops = s.w.stops ++ (lanesOf s.w.active).map _ from key Warp.stops]
    simp
  rw [hstops]
  exact ⟨_, List.mem_append_right _ (List.mem_map_of_mem (List.mem_map_of_mem hl)), rfl, rfl, rfl, rfl⟩

theorem Warp.uncount_seq (w : Warp) (seq : Nat) : ∀ f ∈ (w.uncount seq).inflight, f.seq ≠ seq := by
  intro f hf
  unfold Warp.uncount at hf
  split at hf
  · simpa using (List.mem_filter.1 hf).2
  · rename_i hnone
    simpa using List.find?_eq_none.1 hnone f hf

/-- Taking back a count changes no register, queue or place. -/
theorem Warp.uncount_eq (w : Warp) (seq : Nat) : ∃ fs ds, w.uncount seq = { w with inflight := fs, dcIssued := ds } := by
  unfold Warp.uncount
  split
  · exact ⟨_, _, rfl⟩
  · exact ⟨w.inflight, w.dcIssued, rfl⟩

/-- A half that meets a faulted entry stops before its chunk. -/
theorem exec_mmaChunk_faulted {core : Nat} {s : State} {o : MatOp} {q : Nat} {en : QEntry} (hhead : s.chunkHead core = some (o, none))
    (hread : s.chunkRead o = .error (.pop (.faulted q en))) (hfound : (SMap.find s.warps o.warp).isSome = true) (hk : (s.warpAt o.warp).kind = .normal)
    (hact : (s.warpAt o.warp).active ≠ 0) :
    ∃ t, exec (.mmaChunk core) s = .next t ∧ s.KeepsTiles t ∧ (t.warpAt o.warp).queues = (s.warpAt o.warp).queues ∧
      (t.warpAt o.warp).resumeChunk = o.chunk ∧ (∀ f ∈ (t.warpAt o.warp).inflight, f.seq ≠ o.seq) ∧ ∃ p ∈ (t.warpAt o.warp).stops, p.cause = 0x04 ∧
        p.lane = lowLane (s.warpAt o.warp).active ∧ p.aux = 128 + 16 * q + o.chunk ∧ p.resume = (s.warpAt o.warp).runPc := by
  let s1 := s.modOp o fun o => { o with started := false, stopped := true }
  let s2 := s1.modWarp o.warp fun w => { w.uncount o.seq with resumeChunk := o.chunk }
  let u : State := { s2 with cur := o.warp }
  have hex : exec (.mmaChunk core) s = .next (s2.withWarp o.warp fun s => s.popFault o.instr o.chunk q en) := by
    show Host.Outcome.next (match s.chunkHead core with
      | none => s
      | some (o, q) => _) = _
    rw [hhead]
    dsimp only
    rw [hread]
    dsimp only
    rw [State.chunkStop, State.chunkHead_unpaired hhead]
    rfl
  obtain ⟨fs, ds, huncount⟩ := (s.warpAt o.warp).uncount_eq o.seq
  have hu : u.w = { (s.warpAt o.warp).uncount o.seq with resumeChunk := o.chunk } := State.warpAt_modWarp (s := s1) hfound _
  have huh : u.Here := State.modWarp_isSome (s := s1) hfound _
  obtain ⟨hkeep, hcur, hq, hresume, hin, hstops⟩ := State.popFault_spec huh (by rw [hu, huncount]; exact hk) o.instr o.chunk q en
  have hw : (s2.withWarp o.warp fun s => s.popFault o.instr o.chunk q en).warpAt o.warp = (u.popFault o.instr o.chunk q en).w := by
    rw [State.w, hcur]
    rfl
  have hkeepAll : s.KeepsTiles (s2.withWarp o.warp fun s => s.popFault o.instr o.chunk q en) :=
    ((s.keepsTiles_modOp _ _).trans (s1.keepsTiles_modWarp _ _)).trans ⟨hkeep.acc, hkeep.mem, hkeep.groups⟩
  refine ⟨_, hex, hkeepAll, ?_, ?_, ?_, ?_⟩
  · rw [hw, hq, hu, huncount]
  · rw [hw, hresume, hu]
  · rw [hw, hin, hu]
    exact (s.warpAt o.warp).uncount_seq o.seq
  · rw [hw]
    obtain ⟨p, hp, hcause, hlane, haux, hpc⟩ := hstops (lowLane (s.warpAt o.warp).active) (by rw [hu, huncount]; exact lowLane_mem hact)
    exact ⟨p, hp, hcause, hlane, haux, hpc.trans (by rw [hu, huncount])⟩

/-- Settles O36: each cell is a cell of the chunk's tile; a faulted entry is a stop of the strand that pops nothing; chunk_sum cuts nothing of terms within 72 bits of the highest. -/
theorem matrixChunks : Obligations.MatrixChunks := by
  unfold Obligations.MatrixChunks
  refine ⟨fun core s o x pops h a b t' sr qa qb fw sc ty z n dc hi hhead hread hcore hfound hlen => ?_, fun core s o x pops h b kt t' fw qb z dc e neg hi hhead hread hcore hlen => ?_,
    fun core s o q en hhead _ hread _ hfound hk hact => ?_, fun ts hts => chunkSum_invalid hts, fun ts top hle hmem => ?_⟩
  · obtain ⟨t, hex, hkeep, hwarp⟩ := exec_mmaChunk_done hhead hread
    rw [hcore] at hkeep
    have hshape : o.shape.1 = t'.toNat := by rw [MatOp.shape, hi]
    rw [hshape] at hkeep
    refine ⟨t, hex, hkeep.mem, hkeep.groups, fun m k hm hk => ?_, fun y hy => ?_, hwarp hfound⟩
    · rw [State.cell, hkeep.tile, State.coreAt_modCore_same, Core.tile_setTile_same, State.chunkedTile, hcore, hshape, State.chunkTile, hi]
      dsimp only
      rw [mmaTile_cell hlen _ _ hm hk]
      simp only [Bool.and_eq_true, beq_iff_eq]
      rfl
    · rw [hkeep.tile, State.coreAt_modCore_same, Core.tile_setTile, if_neg hy]
  · obtain ⟨t, hex, hkeep, -⟩ := exec_mmaChunk_done hhead hread
    rw [hcore] at hkeep
    have hshape : o.shape.1 = t'.toNat := by rw [MatOp.shape, hi]
    rw [hshape] at hkeep
    refine ⟨t, hex, hkeep.mem, hkeep.groups, fun m k hm hk => ?_, fun y hy => ?_⟩
    · rw [State.cell, hkeep.tile, State.coreAt_modCore_same, Core.tile_setTile_same, State.chunkedTile, hcore, hshape, State.chunkTile, hi]
      dsimp only
      rw [mlutTile_cell hlen _ _ hm hk]
      rfl
    · rw [hkeep.tile, State.coreAt_modCore_same, Core.tile_setTile, if_neg hy]
  · obtain ⟨t, hex, hkeep, hrest⟩ := exec_mmaChunk_faulted hhead hread hfound hk hact
    exact ⟨t, hex, hkeep.mem, hkeep.tile core, hrest⟩
  · refine chunkSum_exact (top := top) (fun v hv => ?_) (max_top_eq (fun v hv => ?_) hmem)
    · obtain ⟨neg, m, e, rfl, hm⟩ := hle v hv
      exact ⟨neg, m, e, rfl, hm.imp_right And.left⟩
    · obtain ⟨neg, m, e, rfl, hm⟩ := hle v hv
      exact ⟨neg, m, e, rfl, hm.imp_right And.right⟩

end Sys2Proof.Machine
end

section
/-! OBLIGATION. Pairs (R155 to R157): a warp that leaves a rendezvous of a domain after points have been published does not keep what its queues held (R261, R427). -/

namespace Sys2Proof.Machine

/-- The mpair.bind at which both warps wait. -/
def bindWord : Instr := .mpairBind ⟨false, false, 0⟩

/-- A warp of the leader's core or of its twin's, parked at mpair.bind with arrival clock `clk`. -/
def waitsToBind (twin : Bool) (clk : Nat) (published : Bool) (queues : SMap (List QEntry)) : Warp :=
  { Warp.idle with
    twin := twin, core := if twin then 1 else 0, inRun := true, active := 0xFFFFFFFF, runPc := 0x8000, grpPc := 0x8000, lclk := clk, grpLclk := clk
    park := some ⟨.pair false, clk, published⟩, todo := [bindWord], waiting := true, qbind := 1, queues := queues }

/-- An entry that the leader's slice has read, for queue 0, in gathering 1. -/
def readInGathering1 : QEntry := { q := 0, vals := List.replicate 32 9, causes := [], pc := 0x9000, kfile := [], effs := 0, gather := 1, ord := 0 }

/-- A paired group of a collated grid with gatherings of 64 clocks. Its leader has waited at mpair.bind since clock 0; the point at 64 has been published meanwhile, and its slice has filled an entry of queue 0 since.
Its twin comes at clock 128, where gathering 1 has ended too. -/
def crossedRendezvous : State :=
  { State.reset with
    warps := [(0, waitsToBind false 0 true [(0, [readInGathering1])]), (1, waitsToBind true 128 false [])]
    groups := [(0, { Group.none_ with follower := some 1, warpsLeft := 2 })]
    grids := [(0, { Grid.none_ with ds := { Desc.none_ with shape := 1 + 64 + 128, log2g := 6 }, st := .running, resid := 1 })] }

/-- The state is one of a paired group of a domain whose gatherings are 64 clocks long. -/
theorem crossedRendezvous_domain : crossedRendezvous.groupColl 0 = true ∧ (crossedRendezvous.gridAt 0).g = 64 ∧ (crossedRendezvous.gridAt 0).ds.paired = true := by
  refine ⟨rfl, rfl, rfl⟩

/-- Both warps wait at the same form. -/
theorem crossedRendezvous_waits : crossedRendezvous.twinOf 0 = some 1 ∧ crossedRendezvous.atMpair 0 (crossedRendezvous.warpAt 0).bound = true ∧
    crossedRendezvous.atMpair 1 (crossedRendezvous.warpAt 0).bound = true ∧ (crossedRendezvous.warpAt 0).todo = [bindWord] ∧ (crossedRendezvous.warpAt 1).todo = [bindWord] := by
  decide +kernel

/-- The rendezvous binds the leader, whose entry of the gathering that has ended is discarded. -/
theorem exec_mpairRendezvous_crossed : ∃ t, exec (.mpairRendezvous 0) crossedRendezvous = .next t ∧ (t.warpAt 0).bound = true ∧ (t.warpAt 0).queues = [(0, [])] :=
  ⟨_, rfl, by decide +kernel, by decide +kernel⟩

/-- Refutes O37, in its second clause: the rendezvous need not leave a warp of a domain the queues that it had. Where a point was published while the warp waited, it leaves with a later clock (R427, case 2), and the entries
that its slice had read before the last point are discarded, to be read again (R261): here the one entry of queue 0. -/
theorem not_pairs : ¬ Obligations.Pairs := by
  unfold Obligations.Pairs
  rintro ⟨-, hrendezvous, -⟩
  obtain ⟨htwin, hleader, hfollower, htodo, htodo'⟩ := crossedRendezvous_waits
  obtain ⟨t, hex, -, -, -, -, -, -, -, hregs⟩ := hrendezvous 0 1 crossedRendezvous bindWord bindWord [] [] htwin one_ne_zero hleader hfollower htodo htodo'
  obtain ⟨-, -, -, -, -, -, hqueues, -⟩ := hregs
  obtain ⟨t', hex', -, hgone⟩ := exec_mpairRendezvous_crossed
  obtain rfl : t = t' := Host.Outcome.next.inj (hex.symm.trans hex')
  rw [hgone] at hqueues
  exact absurd hqueues (by decide)

end Sys2Proof.Machine
end

section
/-! OBLIGATION. Accumulator tiles and lookup tables (R170 to R172, R175, R176). -/

namespace Sys2Proof.Machine

/-! ### Words that count at once beside a change of a core or a group -/

/-- A completed word of counter `c` has gone past its instruction in the current warp and changed nothing else of the warp: what macz, macr, macw and mlbld do to it. -/
structure Warp.PassesCounted (w t : Warp) (i : Instr) (c : Nat) (regs : List RegId) (ws : List RegWrite) : Prop where
  runPc : t.runPc = w.runPc + BitVec.ofNat 64 (4 * i.words)
  still : (t.uncounted w).still = w.still
  pend : t.pend = w.pend
  counted : w.Counted t c regs ws

theorem State.counted_passes {s : State} (h : s.Here) (i : Instr) {c : Nat} (hc : i.counter = some c) (regs : List RegId) (ws : List RegWrite) :
    s.OnlyWarp ((s.modW fun w => w.count i.counter regs true ws).retire i) ∧ s.w.PassesCounted ((s.modW fun w => w.count i.counter regs true ws).retire i).w i c regs ws := by
  obtain ⟨honly, ⟨hpc, -⟩, hstill, hpend, hcounted⟩ := State.counted_spec h i c regs ws
  rw [hc]
  exact ⟨honly, hpc, hstill, hpend, hcounted⟩

/-- A word that writes a tile and counts at once: no other tile, warp, memory or group changes. -/
theorem State.setTile_counted_spec {s : State} (h : s.Here) (i : Instr) {c : Nat} (hc : i.counter = some c) (x : Nat) (f : Core → List Word) :
    let t := ((s.modCore s.w.core fun k => k.setTile x (f k)).modW fun w => w.count i.counter [] true []).retire i
    s.OthersSame t ∧ t.mem = s.mem ∧ t.groups = s.groups ∧ s.w.PassesCounted t.w i c [] [] ∧
      ∀ y, (t.coreAt s.w.core).tile y = if y = x then f (s.coreAt s.w.core) else (s.coreAt s.w.core).tile y := by
  intro t
  obtain ⟨honly, hpass⟩ := State.counted_passes (s := s.modCore s.w.core fun k => k.setTile x (f k)) h i hc [] []
  refine ⟨honly.othersSame, honly.mem_eq, honly.groups_eq, hpass, fun y => ?_⟩
  rw [honly.coreAt_eq, State.coreAt_modCore_same, Core.tile_setTile]

/-! ### macz (R171) -/

theorem exec_macz {h : Hdr} {x : Tile} {val : MaczVal} {s : State} (hbusy : s.matBusy = false) (hx : x.toNat < s.grid.ds.acc) :
    exec (.macz h x val) s = .next (((s.modCore s.w.core fun c => c.setTile x.toNat (List.replicate 4096 (maczWord val))).modW fun w =>
      w.count (Instr.macz h x val).counter [] true []).retire (.macz h x val)) := by
  have hex : exec (.macz h x val) s = .next (if s.matBusy then s.hold else s.matRegs (.macz h x val) [] [] (some x) _) := rfl
  rw [hex, hbusy, if_neg Bool.false_ne_true,
    State.matRegs_of_ok _ _ (fun r hr => absurd hr List.not_mem_nil) (fun t ht => Option.some.inj ht ▸ hx) (fun r hr => absurd hr List.not_mem_nil)]

/-! ### macr and macw (R172) -/

/-- The rows and registers of macr and macw pass rows 2 to 5 of Table 7.2. -/
theorem State.matRows_of_ok {s : State} {d : Vr} {x : Tile} {row0 : BitVec 6} {cnt : BitVec 4} (i : Instr) (k : State) (hx : x.toNat < s.grid.ds.acc)
    (hd : s.w.Plain d.toNat (cnt.toNat + 1)) (hrows : row0.toNat + cnt.toNat ≤ 63) : s.matRows i d x row0 cnt k = k := by
  have hregs : ∀ r ∈ (List.range (cnt.toNat + 1)).map (d.toNat + ·), r < 64 ∧ s.w.isWindow r = false := Warp.run_ok (skip := false) fun _ => hd
  rw [State.matRows, State.matRegs_of_ok _ _ hregs (fun t ht => Option.some.inj ht ▸ hx) (fun r hr => absurd hr List.not_mem_nil), if_neg (not_lt.2 hrows)]

/-- What macr reads of one row. -/
def State.rowRead (s : State) (x : Nat) (hi : Bool) (d row j : Nat) : RegWrite :=
  ⟨.v (d + j), (lanesOf s.w.active).map fun l => (l, (s.cell s.w.core x (row + j) ((if hi then 32 else 0) + l)).zeroExtend 64)⟩

theorem exec_macr {h : Hdr} {d : Vr} {x : Tile} {row0 : BitVec 6} {hi : Bool} {cnt : BitVec 4} {dc : Dc} {s : State} (hbusy : s.matBusy = false) (hx : x.toNat < s.grid.ds.acc)
    (hd : s.w.Plain d.toNat (cnt.toNat + 1)) (hrows : row0.toNat + cnt.toNat ≤ 63) :
    exec (.macr h d x row0 hi cnt dc) s = .next ((s.modW fun w => w.count (Instr.macr h d x row0 hi cnt dc).counter
      ((List.range (cnt.toNat + 1)).map fun j => .v (d.toNat + j)) true ((List.range (cnt.toNat + 1)).map (s.rowRead x.toNat hi d.toNat row0.toNat))).retire
      (.macr h d x row0 hi cnt dc)) := by
  have hex : exec (.macr h d x row0 hi cnt dc) s = .next (if s.matBusy then s.hold else s.matRows (.macr h d x row0 hi cnt dc) d x row0 cnt _) := rfl
  have hrow : ((List.range (cnt.toNat + 1)).map fun j => RegWrite.ofV (d.toNat + j) s.w.active fun l =>
      ((s.coreAt s.w.core).tile x.toNat).getD ((row0.toNat + j) * 64 + (if hi then 32 else 0) + l) 0) =
      (List.range (cnt.toNat + 1)).map (s.rowRead x.toNat hi d.toNat row0.toNat) := by
    refine List.map_congr_left fun j _ => ?_
    simp only [RegWrite.ofV, State.rowRead, State.cell, Nat.mul_comm 64, Nat.add_assoc]
  rw [hex, hbusy, if_neg Bool.false_ne_true, State.matRows_of_ok _ _ hx hd hrows]
  dsimp only
  rw [hrow, List.map_map]
  rfl

/-- A cell that macw may write, and what it then holds. -/
def Warp.written (w : Warp) (d row cnt c0 m n : Nat) (old : Word) : Word :=
  if row ≤ m ∧ m ≤ row + cnt ∧ c0 ≤ n ∧ n < c0 + 32 ∧ w.active.getLsbD (n - c0) then w.rdV (d + (m - row)) (n - c0) else old

theorem exec_macw {h : Hdr} {d : Vr} {x : Tile} {row0 : BitVec 6} {hi : Bool} {cnt : BitVec 4} {dc : Dc} {s : State} (hbusy : s.matBusy = false) (hx : x.toNat < s.grid.ds.acc)
    (hd : s.w.Plain d.toNat (cnt.toNat + 1)) (hrows : row0.toNat + cnt.toNat ≤ 63) :
    exec (.macw h d x row0 hi cnt dc) s = .next (((s.modCore s.w.core fun c => c.setTile x.toNat (((List.range 4096).zip (c.tile x.toNat)).map fun e =>
      s.w.written d.toNat row0.toNat cnt.toNat (if hi then 32 else 0) (e.1 / 64) (e.1 % 64) e.2)).modW fun w =>
      w.count (Instr.macw h d x row0 hi cnt dc).counter [] true []).retire (.macw h d x row0 hi cnt dc)) := by
  have hex : exec (.macw h d x row0 hi cnt dc) s = .next (if s.matBusy then s.hold else s.matRows (.macw h d x row0 hi cnt dc) d x row0 cnt _) := rfl
  rw [hex, hbusy, if_neg Bool.false_ne_true, State.matRows_of_ok _ _ hx hd hrows]
  rfl

theorem zip_range_cell {x : List Word} (hx : x.length = 4096) (f : Nat → Nat → Word → Word) {m n : Nat} (hm : m < 64) (hn : n < 64) :
    (((List.range 4096).zip x).map fun e => f (e.1 / 64) (e.1 % 64) e.2).getD (64 * m + n) 0 = f m n (x.getD (64 * m + n) 0) := by
  have hk : 64 * m + n < 4096 := by omega
  have hrow : (64 * m + n) / 64 = m := by omega
  have hcol : (64 * m + n) % 64 = n := by omega
  have hlt : 64 * m + n < x.length := hx.symm ▸ hk
  simp [List.getD_eq_getElem?_getD, hk, hlt, hrow, hcol]

theorem Warp.written_row (w : Warp) (d row cnt : Nat) {c0 j l : Nat} (old : Word) (hj : j ≤ cnt) (hl : l < 32) (ha : w.active.getLsbD l = true) :
    w.written d row cnt c0 (row + j) (c0 + l) old = w.rdV (d + j) l := by
  have hcol : c0 + l - c0 = l := by omega
  have hrow : row + j - row = j := by omega
  rw [Warp.written, hcol, hrow, if_pos ⟨by omega, by omega, by omega, by omega, ha⟩]

theorem Warp.written_other {w : Warp} {row cnt c0 m n : Nat} (d : Nat) (old : Word)
    (h : ∀ j l, j ≤ cnt → l < 32 → w.active.getLsbD l = true → ¬ (m = row + j ∧ n = c0 + l)) : w.written d row cnt c0 m n old = old := by
  refine if_neg ?_
  rintro ⟨h1, h2, h3, h4, ha⟩
  exact h (m - row) (n - c0) (by omega) (by omega) ha ⟨by omega, by omega⟩

end Sys2Proof.Machine
end

section
/-! SUPPORT. Lists laid out piece by piece, and the bytes of a number in memory. -/

namespace Sys2Proof.Machine

theorem length_flatMap_const {α β : Type} {k : Nat} {f : α → List β} (hlen : ∀ a, (f a).length = k) (l : List α) : (l.flatMap f).length = l.length * k := by
  simp [List.length_flatMap, hlen]

/-- Item `j` of piece `i` where all pieces have one length. -/
theorem getElem?_flatMap_const {α β : Type} {k : Nat} {f : α → List β} (hlen : ∀ a, (f a).length = k) {l : List α} {i j : Nat} {a : α}
    (ha : l[i]? = some a) (hj : j < k) : (l.flatMap f)[i * k + j]? = (f a)[j]? := by
  induction l generalizing i with
  | nil => exact absurd ha (by simp)
  | cons b l ih =>
    rw [List.flatMap_cons]
    cases i with
    | zero =>
      obtain rfl : b = a := by simpa using ha
      rw [Nat.zero_mul, Nat.zero_add, List.getElem?_append_left (by rw [hlen]; exact hj)]
    | succ i =>
      have hat : (i + 1) * k + j - (f b).length = i * k + j := by rw [hlen, Nat.succ_mul]; omega
      rw [List.getElem?_append_right (by rw [hlen, Nat.succ_mul]; omega), hat, ih (by simpa using ha)]

theorem getElem?_flatMap_range {β : Type} {k n i j : Nat} {f : Nat → List β} (hlen : ∀ i, (f i).length = k) (hi : i < n) (hj : j < k) :
    ((List.range n).flatMap f)[i * k + j]? = (f i)[j]? :=
  getElem?_flatMap_const hlen (List.getElem?_range hi) hj

theorem drop_take_eq_map {α : Type} (d : α) {l : List α} {a k : Nat} (h : a + k ≤ l.length) : (l.drop a).take k = (List.range k).map fun j => l.getD (a + j) d := by
  refine List.ext_getElem (by simp; omega) fun j hj _ => ?_
  have hlt : a + j < l.length := by simp at hj; omega
  simp [List.getD_eq_getElem?_getD, hlt]

theorem ofBytes_toBytes (n x : Nat) : ofBytes (toBytes n x) = x % 256 ^ n := by
  induction n generalizing x with
  | zero => simp [toBytes, ofBytes, Nat.mod_one]
  | succ n ih =>
    rw [toBytes, ofBytes, ih, BitVec.toNat_ofNat, Nat.pow_succ' (m := 256) (n := n)]
    exact Nat.mod_mul.symm

theorem Memory.readN_of_reads {m : Memory} {a : Nat} {bs : List Byte} (h : ∀ (i : Nat) (hi : i < bs.length), m.read (a + i) = bs[i]) : m.readN a bs.length = bs := by
  refine List.ext_getElem (Memory.readN_length m a _) fun i hi hi' => ?_
  rw [← h i hi', ← Memory.readN_getD m a _ i hi', List.getD_eq_getElem?_getD, List.getElem?_eq_getElem hi, Option.getD_some]

/-- A number written among others of `n` bytes reads back. -/
theorem Memory.number_writeN {n : Nat} (m : Memory) (a : Nat) {xs : List Nat} {i x : Nat} (hi : xs[i]? = some x) :
    ofBytes ((m.writeN a (xs.flatMap (toBytes n))).readN (a + i * n) n) = x % 256 ^ n := by
  have hlen (x : Nat) : (toBytes n x).length = n := toBytes_length n x
  have hlt : i < xs.length := (List.getElem?_eq_some_iff.1 hi).1
  have hread : (m.writeN a (xs.flatMap (toBytes n))).readN (a + i * n) (toBytes n x).length = toBytes n x := by
    refine Memory.readN_of_reads fun j hj => ?_
    have hjn : j < n := hlen x ▸ hj
    have hpos : i * n + j < xs.length * n := by
      have := Nat.mul_le_mul_right n (Nat.succ_le_of_lt hlt)
      rw [Nat.succ_mul] at this
      omega
    have hoff : a + i * n + j - a = i * n + j := by omega
    rw [Memory.read_writeN, length_flatMap_const hlen, if_pos ⟨by omega, by omega⟩, hoff, List.getD_eq_getElem?_getD,
      getElem?_flatMap_const hlen hi hjn, List.getElem?_eq_getElem hj, Option.getD_some]
  rw [hlen] at hread
  rw [hread, ofBytes_toBytes]

end Sys2Proof.Machine
end

section
/-! OBLIGATION. mlbld: the tables of a lookup (R175, R176), and Accumulators. -/

namespace Sys2Proof.Machine

/-! ### The activations of a row -/

theorem length_containers (cw x : Nat) : (containers cw x).length = 32 / cw := by simp [containers]

theorem length_fragRow (regs : List (List Word)) (w cw m : Nat) : (fragRow regs w cw m).length = w * (32 / cw) := by
  rw [fragRow, length_flatMap_const fun j => length_containers cw _, List.length_range]

/-- Container `k` of a row: word k div (32 / cw) of the row holds it, at bit cw × (k mod (32 / cw)). -/
theorem fragRow_getD (regs : List (List Word)) {w cw m k : Nat} (hcw : 0 < 32 / cw) (hk : k < w * (32 / cw)) :
    (fragRow regs w cw m).getD k 0 = fld ((regs.getD (m / 32 * w + k / (32 / cw)) []).getD (m % 32) 0).toNat (cw * (k % (32 / cw))) cw := by
  have hsplit : k / (32 / cw) * (32 / cw) + k % (32 / cw) = k := Nat.div_add_mod' k _
  have hrow : (fragRow regs w cw m)[k / (32 / cw) * (32 / cw) + k % (32 / cw)]? = _ :=
    getElem?_flatMap_range (fun j => length_containers cw _) (Nat.div_lt_of_lt_mul (Nat.mul_comm w _ ▸ hk)) (Nat.mod_lt k hcw)
  rw [hsplit] at hrow
  rw [List.getD_eq_getElem?_getD, hrow]
  simp [containers, Nat.mod_lt k hcw]

/-- The lane values of a register that was read. -/
theorem Reads.lanes_getD {vals : Reads} {j l : Nat} (hj : j < vals.length) (hl : l < 32) : ((vals.map fun f => lanes.map f).getD j []).getD l 0 = vals.at_ j l := by
  simp [Reads.at_, List.getD_eq_getElem?_getD, hj, hl, lanes]

/-! ### The words of the tables -/

/-- The entries mlbld makes of `groups` groups from the activations `x` of row and place, in the order they stand in the scratchpad. -/
def bldEntries (pm : Bool) (groups : Nat) (x : Nat → Nat → FVal) : List (Nat × FFlags) :=
  (List.range groups).flatMap fun g => (List.range 64).flatMap fun m => (List.range 16).map fun idx => tableEntry pm ((List.range 4).map fun j => x m (4 * g + j)) idx

theorem length_bldEntries (pm : Bool) (groups : Nat) (x : Nat → Nat → FVal) : (bldEntries pm groups x).length = groups * (64 * 16) := by
  rw [bldEntries, length_flatMap_const (k := 64 * 16), List.length_range]
  exact fun g => by rw [length_flatMap_const (k := 16) (fun m => by simp), List.length_range]

theorem bldEntries_getElem? (pm : Bool) {groups : Nat} (x : Nat → Nat → FVal) {g m idx : Nat} (hg : g < groups) (hm : m < 64) (hidx : idx < 16) :
    (bldEntries pm groups x)[(g * 64 + m) * 16 + idx]? = some (tableEntry pm ((List.range 4).map fun j => x m (4 * g + j)) idx) := by
  have hrow (g m : Nat) : ((List.range 16).map fun idx => tableEntry pm ((List.range 4).map fun j => x m (4 * g + j)) idx).length = 16 := by simp
  have hgroup (g : Nat) : ((List.range 64).flatMap fun m => (List.range 16).map fun idx => tableEntry pm ((List.range 4).map fun j => x m (4 * g + j)) idx).length = 64 * 16 := by
    rw [length_flatMap_const (k := 16) (hrow g), List.length_range]
  have hat : (g * 64 + m) * 16 + idx = g * (64 * 16) + (m * 16 + idx) := by omega
  rw [hat, bldEntries, getElem?_flatMap_range hgroup hg (by omega), getElem?_flatMap_range (hrow g) hm hidx]
  simp [hidx]

theorem Warp.readRegs_length {w : Warp} {regs : List Nat} {cur pops : SMap Nat} {vals : Reads} (h : w.readRegs regs cur = .ok (vals, pops)) : vals.length = regs.length := by
  induction regs generalizing cur pops vals with
  | nil => cases h; rfl
  | cons r rs ih =>
    simp only [Warp.readRegs] at h
    split at h
    · split at h
      · cases h
      · split at h
        · cases h
        · split at h
          · cases h
          · cases h
            exact congrArg Nat.succ (ih ‹_›)
    · split at h
      · cases h
      · cases h
        exact congrArg Nat.succ (ih ‹_›)

/-- The type of the activations of mlbld as a matrix type. -/
def bldMat : BldType → MatType
  | .f16 => .f16
  | .bf16 => .bf16
  | .fmt => .fmt

/-- Elements of a word of activations. -/
def bldPer (ty : BldType) : Nat := if ty = .fmt then 4 else 2

/-- Groups of four in a row of activations. -/
def bldGroups (ty : BldType) : Nat := if ty = .fmt then 8 else 4

/-- Activation `k` of row `m`. -/
def activation (ty : BldType) (f : Nat) (vals : Reads) (m k : Nat) : FVal :=
  matValue (bldMat ty) f (bitsAt (vals.at_ (m / 32 * 8 + k / bldPer ty) (m % 32)) (32 / bldPer ty * (k % bldPer ty)) (32 / bldPer ty))

theorem bldContainer (ty : BldType) {f : Nat} (hf : ty = .fmt → 5 ≤ fwW f) : matCw (bldMat ty) f = 32 / bldPer ty ∧ 32 / matCw (bldMat ty) f = bldPer ty ∧ 8 * bldPer ty = 4 * bldGroups ty ∧ 0 < bldPer ty := by
  have hcw : matCw (bldMat ty) f = 32 / bldPer ty := by
    cases ty with
    | f16 => rfl
    | bf16 => rfl
    | fmt => exact if_pos (hf rfl)
  rw [hcw]
  cases ty <;> decide

/-- The activations of group `g` of row `m`, as they stand in the registers that were read. -/
theorem activations_eq (ty : BldType) {f : Nat} {vals : Reads} (hf : ty = .fmt → 5 ≤ fwW f) (hvals : vals.length = 16) {g m : Nat} (hg : g < bldGroups ty) (hm : m < 64) :
    (((fragRow (vals.map fun f => lanes.map f) 8 (matCw (bldMat ty) f) m).drop (4 * g)).take 4).map (matValue (bldMat ty) f) =
      (List.range 4).map fun j => activation ty f vals m (4 * g + j) := by
  obtain ⟨hcw, hper, hgroups, hpos⟩ := bldContainer ty hf
  rw [drop_take_eq_map 0 (by rw [length_fragRow, hper]; omega), List.map_map]
  refine List.map_congr_left fun j hj => ?_
  have hj : j < 4 := List.mem_range.1 hj
  have hk : 4 * g + j < 8 * bldPer ty := by omega
  have hreg : m / 32 * 8 + (4 * g + j) / bldPer ty < vals.length := by
    have := Nat.div_lt_of_lt_mul (Nat.mul_comm 8 _ ▸ hk)
    omega
  rw [Function.comp_apply, fragRow_getD _ (hper.symm ▸ hpos) (hper.symm ▸ hk), hper, Reads.lanes_getD hreg (Nat.mod_lt m (by decide)), hcw]
  rfl

/-! ### mlbld (R176) -/

/-- A word that writes entries of a table into the scratchpad, pops queue entries, raises the flags of the entries and counts at once. -/
def State.tableWrite (s : State) (i : Instr) (pops : SMap Nat) (at_ : Nat) (es : List (Nat × FFlags)) : State :=
  (((s.popped pops).modGrp fun x => x.setSide s.w.twin ((x.side s.w.twin).writeN at_ (es.flatMap fun e => toBytes 4 e.1))).modW fun w =>
    (w.matFlags w.active (es.foldl (fun x e => x ||| e.2) 0)).count i.counter [] true []).retire i

/-- The entries that mlbld makes from its registers. -/
theorem bldEntries_eq (pm : Bool) (ty : BldType) {f : Nat} {vals : Reads} (hf : ty = .fmt → 5 ≤ fwW f) (hvals : vals.length = 16) :
    ((List.range (bldGroups ty)).flatMap fun g => (List.range 64).flatMap fun m => (List.range 16).map fun idx =>
      tableEntry pm ((((fragRow (vals.map fun f => lanes.map f) 8 (matCw (bldMat ty) f) m).drop (4 * g)).take 4).map (matValue (bldMat ty) f)) idx) =
      bldEntries pm (bldGroups ty) (activation ty f vals) := by
  refine List.flatMap_congr fun g hg => List.flatMap_congr fun m hm => List.map_congr_left fun idx _ => ?_
  rw [activations_eq ty hf hvals (List.mem_range.1 hg) (List.mem_range.1 hm)]

/-- A word that is not the bit-plane word is as legal without it as with it. -/
theorem fwFault_of_not_plane {f : Nat} (h : isPlane f = false) : fwFault false f = fwFault true f := by simp [fwFault, h]

theorem exec_mlbld {h : Hdr} {a : Vr} {kt : Kr} {g0 : BitVec 5} {fw : Vr} {ty : BldType} {pm : Bool} {dc : Dc} {qa : Bool} {s : State} {vals : Reads} {pops : SMap Nat} (hbusy : s.matBusy = false)
    (hplain : qa = false → s.w.Plain a.toNat 16) (hbound : qa = true → s.w.isWindow a.toNat = true)
    (hfmt : ty = .fmt → s.w.Plain fw.toNat 1 ∧ s.w.Agrees fw.toNat ∧ isPlane (s.w.format fw.toNat) = false ∧ 5 ≤ fwW (s.w.format fw.toNat) ∧ fwBlk (s.w.format fw.toNat) = 0)
    (hg : g0.toNat + bldGroups ty ≤ 32) (hbase : (s.w.rdK kt.toNat).toNat % 64 = 0) (hroom : (s.w.rdK kt.toNat).toNat + tableLen ≤ s.grid.ds.spl)
    (hreads : s.w.readRegs (if qa then List.replicate 16 a.toNat else (List.range 16).map (a.toNat + ·)) [] = .ok (vals, pops)) :
    exec (.mlbld h a kt g0 fw ty pm dc qa) s = .next (s.tableWrite (.mlbld h a kt g0 fw ty pm dc qa) pops ((s.w.rdK kt.toNat).toNat + g0.toNat * 4096)
      (bldEntries pm (bldGroups ty) (activation ty (s.w.format fw.toNat) vals))) := by
  have hvals : vals.length = 16 := by rw [Warp.readRegs_length hreads]; cases qa <;> simp
  have hmake := congrArg (fun es => (Host.Outcome.next (s.tableWrite (.mlbld h a kt g0 fw ty pm dc qa) pops ((s.w.rdK kt.toNat).toNat + g0.toNat * 4096) es) : Out)) <| bldEntries_eq pm ty (fun he => (hfmt he).2.2.2.1) hvals
  have hex : exec (.mlbld h a kt g0 fw ty pm dc qa) s = execMlbld h a kt g0 fw ty pm dc qa s := rfl
  have hroom' : ¬ s.splOf s.w.grp < (s.w.rdK kt.toNat).toNat + tableLen := not_lt.2 hroom
  have hgroups : (if (ty == .fmt) = true then 8 else 4) = bldGroups ty := by cases ty <;> rfl
  have hregs : ∀ r ∈ (if qa then [] else (List.range 16).map (a.toNat + ·)) ++ (if (ty == .fmt) = true then [fw.toNat] else []), r < 64 ∧ s.w.isWindow r = false := by
    intro r hr
    rcases List.mem_append.1 hr with hr | hr
    · exact Warp.run_ok hplain r hr
    · split at hr
      · obtain rfl := List.mem_singleton.1 hr
        exact (hfmt (eq_of_beq ‹_›)).1.reg Nat.one_pos
      · exact absurd hr List.not_mem_nil
  have hpops : ∀ r ∈ (if qa then [a.toNat] else []), s.w.isWindow r = true := by
    intro r hr
    split at hr
    · exact List.mem_singleton.1 hr ▸ hbound ‹_›
    · exact absurd hr List.not_mem_nil
  dsimp only [execMlbld] at hex
  rw [hex, hbusy, if_neg Bool.false_ne_true, State.matRegs_of_ok _ _ hregs (fun _ ht => absurd ht (by simp)) hpops, hgroups, if_neg (by omega)]
  cases ty with
  | fmt =>
    obtain ⟨-, hagree, hnot, hwidth, hblk⟩ := hfmt rfl
    rw [if_pos (beq_self_eq_true _), State.vote_of_agreed]
    · refine Eq.trans ?_ hmake
      rw [if_neg (by simp [hblk, hwidth]), if_neg hroom', State.withSrcs_ok _ hreads]
      rfl
    · rintro j hj
      obtain rfl := Nat.lt_one_iff.1 hj
      exact (s.w.dissent_eq_zero_iff _).2 hagree.1
    · rintro j hj
      obtain rfl := Nat.lt_one_iff.1 hj
      exact (fwFault_of_not_plane hnot).trans hagree.2
  | f16 =>
    rw [if_neg (by simp), if_neg (by simp), if_neg hroom', State.withSrcs_ok _ hreads]
    exact hmake
  | bf16 =>
    rw [if_neg (by simp), if_neg (by simp), if_neg hroom', State.withSrcs_ok _ hreads]
    exact hmake

theorem State.popped_onlyWarp {s : State} (h : s.Here) (pops : SMap Nat) : s.OnlyWarp (s.popped pops) := by
  unfold State.popped
  split
  · exact ⟨rfl, fun _ _ => rfl⟩
  · exact State.onlyWarp_modW h _

theorem State.popped_here {s : State} (h : s.Here) (pops : SMap Nat) : (s.popped pops).Here := by
  unfold State.popped
  split
  · exact h
  · exact State.modW_isSome h _

theorem Group.side_setSide (g : Group) (twin : Bool) (m : Memory) : (g.setSide twin m).side twin = m := by cases twin <;> rfl

/-- What a table write leaves: the entries in its side of the group's scratchpad, the pops, flags and a completed count of its warp. -/
theorem State.tableWrite_spec {s : State} (h : s.Here) (i : Instr) {c : Nat} (hc : i.counter = some c) (pops : SMap Nat) (at_ : Nat) (es : List (Nat × FFlags)) :
    let t := s.tableWrite i pops at_ es
    s.OthersSame t ∧ t.mem = s.mem ∧ t.w.runPc = s.w.runPc + BitVec.ofNat 64 (4 * i.words) ∧
      { (t.w.uncounted s.w) with axf := s.w.axf }.still = (s.w.freePops pops).still ∧ t.w.pend = s.w.pend ∧ s.w.Counted t.w c [] [] ∧
      t.grp.side s.w.twin = (s.grp.side s.w.twin).writeN at_ (es.flatMap fun e => toBytes 4 e.1) ∧ ∀ g, g ≠ s.w.grp → t.groupAt g = s.groupAt g := by
  intro t
  have hpop := State.popped_onlyWarp h pops
  have hcur : (s.popped pops).cur = s.cur := hpop.field State.cur
  have hgrp : (s.popped pops).w.grp = s.w.grp := by rw [State.popped_w h]; rfl
  have hread : (s.popped pops).grp = s.grp := by rw [State.grp, hgrp, State.groupAt, hpop.groups_eq]; rfl
  let v := (s.popped pops).modGrp fun x => x.setSide s.w.twin ((x.side s.w.twin).writeN at_ (es.flatMap fun e => toBytes 4 e.1))
  have hgroups : v.groups = SMap.put s.groups s.w.grp (s.grp.setSide s.w.twin ((s.grp.side s.w.twin).writeN at_ (es.flatMap fun e => toBytes 4 e.1))) := by
    dsimp only [v, State.modGrp]
    rw [State.setGroup_groups, hpop.groups_eq, hread, hgrp]
  have hhere : v.Here := State.popped_here h pops
  have hvw : v.w = s.w.freePops pops := State.popped_w h pops
  let u := v.modW fun w => w.matFlags w.active (es.foldl (fun x e => x ||| e.2) 0)
  have huw : u.w = v.w.matFlags v.w.active (es.foldl (fun x e => x ||| e.2) 0) := State.modW_w hhere _
  rw [hvw] at huw
  have ht : t = (u.modW fun w => w.count i.counter [] true []).retire i := by
    dsimp only [t, u, State.tableWrite]
    rw [State.modW_modW]
  obtain ⟨honly, hpc, hstill, hpend, hcounted⟩ := State.counted_passes (s := u) (State.modW_isSome hhere _) i hc [] []
  rw [← ht, huw] at hpc hstill hpend hcounted
  rw [← ht] at honly
  have htgrp : t.groups = v.groups := honly.groups_eq.trans (State.modW_groups _ _)
  have htw : t.w.grp = s.w.grp := by
    have := congrArg Warp.grp hstill
    exact this
  have hat (g : Nat) : t.groupAt g = if g = s.w.grp then s.grp.setSide s.w.twin ((s.grp.side s.w.twin).writeN at_ (es.flatMap fun e => toBytes 4 e.1)) else s.groupAt g := by
    rw [State.groupAt, htgrp, hgroups, SMap.get_put]
    rfl
  refine ⟨⟨?_, fun x hx => ?_⟩, ?_, hpc, ?_, hpend, hcounted, ?_, fun g hg => ?_⟩
  · exact honly.othersSame.1.trans ((State.modW_cur _ _).trans hcur)
  · have hv : x ≠ v.cur := hcur ▸ hx
    exact (honly.2 x (by rwa [State.modW_cur])).trans ((State.modW_other v _ hv).trans (hpop.2 x hx))
  · exact honly.mem_eq.trans ((State.modW_mem _ _).trans hpop.mem_eq)
  · exact congrArg (fun w : Warp => { w with axf := s.w.axf }) hstill
  · rw [State.grp, htw, hat, if_pos rfl, Group.side_setSide]
  · rw [hat, if_neg hg]

/-- An entry that mlbld wrote reads back. -/
theorem readN_bldEntries (m : Memory) (base g0 : Nat) (pm : Bool) {groups : Nat} (x : Nat → Nat → FVal) {g r idx : Nat} (hg : g < groups) (hr : r < 64) (hidx : idx < 16) :
    ofBytes ((m.writeN (base + g0 * 4096) ((bldEntries pm groups x).flatMap fun e => toBytes 4 e.1)).readN (base + ((g0 + g) * 64 + r) * 64 + idx * 4) 4) =
      (tableEntry pm ((List.range 4).map fun j => x r (4 * g + j)) idx).1 % 2 ^ 32 := by
  have hat : base + ((g0 + g) * 64 + r) * 64 + idx * 4 = base + g0 * 4096 + ((g * 64 + r) * 16 + idx) * 4 := by ring
  have hbytes : ((bldEntries pm groups x).flatMap fun e => toBytes 4 e.1) = ((bldEntries pm groups x).map Prod.fst).flatMap (toBytes 4) := by rw [List.flatMap_map]
  rw [hat, hbytes, Memory.number_writeN (x := (tableEntry pm ((List.range 4).map fun j => x r (4 * g + j)) idx).1) m _
    (by rw [List.getElem?_map, bldEntries_getElem? pm x hg hr hidx]; rfl)]
  rfl

theorem read_bldEntries_outside (m : Memory) {base g0 b : Nat} (pm : Bool) {groups : Nat} (x : Nat → Nat → FVal) (h : b < base + g0 * 4096 ∨ base + (g0 + groups) * 4096 ≤ b) :
    (m.writeN (base + g0 * 4096) ((bldEntries pm groups x).flatMap fun e => toBytes 4 e.1)).read b = m.read b := by
  refine Memory.read_writeN_outside _ _ _ _ ?_
  rw [length_flatMap_const (f := fun e : Nat × FFlags => toBytes 4 e.1) fun e => toBytes_length 4 e.1, length_bldEntries]
  omega

/-! ### Accumulators -/

/-- Settles O38: each word writes the tile, the results or the tables that it names, and counts at once. -/
theorem accumulators : Obligations.Accumulators := by
  unfold Obligations.Accumulators
  refine ⟨fun h x val s hhere hbusy hx => ?_, fun h d x row0 hi cnt dc s hhere hbusy hx hd hrows hdc => ⟨?_, fun hlen => ?_⟩,
    fun h a kt g0 fw ty pm dc qa s vals pops hhere hbusy hplain hbound hfmt hg hbase hroom hdc hreads => ?_⟩
  · obtain ⟨hothers, hmem, hgroups, ⟨hpc, hstill, hpend, hcounted⟩, htile⟩ := State.setTile_counted_spec hhere (.macz h x val) (c := 0) rfl x.toNat
      fun _ => List.replicate 4096 (maczWord val)
    refine ⟨_, exec_macz hbusy hx, hothers, hmem, hgroups, hpc, hstill, hpend, hcounted, fun m n hm hn => ?_, fun y hy => (htile y).trans (if_neg hy)⟩
    rw [State.cell, htile, if_pos rfl, List.getD_eq_getElem?_getD, List.getElem?_replicate_of_lt (by omega), Option.getD_some]
    rfl
  · obtain ⟨honly, hpc, hstill, hpend, hcounted⟩ := State.counted_passes hhere (.macr h d x row0 hi cnt dc) (c := dc.toNat) (if_neg hdc)
      ((List.range (cnt.toNat + 1)).map fun j => .v (d.toNat + j)) ((List.range (cnt.toNat + 1)).map (s.rowRead x.toNat hi d.toNat row0.toNat))
    exact ⟨_, exec_macr hbusy hx hd hrows, honly, hpc, hstill, hpend, hcounted⟩
  · obtain ⟨hothers, hmem, hgroups, ⟨hpc, hstill, hpend, hcounted⟩, htile⟩ := State.setTile_counted_spec hhere (.macw h d x row0 hi cnt dc) (c := dc.toNat) (if_neg hdc) x.toNat
      fun c => ((List.range 4096).zip (c.tile x.toNat)).map fun e => s.w.written d.toNat row0.toNat cnt.toNat (if hi then 32 else 0) (e.1 / 64) (e.1 % 64) e.2
    have hcol : (if hi then 32 else 0) ≤ 32 := by split <;> omega
    refine ⟨_, exec_macw hbusy hx hd hrows, hothers, hmem, hgroups, hpc, hstill, hpend, hcounted, fun y hy => (htile y).trans (if_neg hy), fun j l hj hl ha => ?_, fun m n hm hn hout => ?_⟩
    · beta_reduce
      rw [State.cell, htile, if_pos rfl, zip_range_cell hlen _ (by omega) (by omega), Warp.written_row _ _ _ _ _ hj hl ha]
    · rw [State.cell, htile, if_pos rfl, zip_range_cell hlen _ hm hn, Warp.written_other _ _ hout]
      rfl
  · obtain ⟨hothers, hmem, hpc, hstill, hpend, hcounted, hside, hgroup⟩ := State.tableWrite_spec hhere (.mlbld h a kt g0 fw ty pm dc qa) (c := dc.toNat) (if_neg hdc) pops
      ((s.w.rdK kt.toNat).toNat + g0.toNat * 4096) (bldEntries pm (bldGroups ty) (activation ty (s.w.format fw.toNat) vals))
    refine ⟨_, exec_mlbld hbusy hplain hbound (fun he => (hfmt he).2) hg hbase hroom hreads, hothers, hmem, hpc, hstill, hpend, hcounted, fun g m idx hgn hm hidx => ?_, fun b hb => ?_, hgroup⟩
    · rw [hside, readN_bldEntries _ _ _ pm _ (groups := bldGroups ty) hgn hm hidx]
      cases ty <;> rfl
    · rw [hside, read_bldEntries_outside _ pm (groups := bldGroups ty) _ hb]

end Sys2Proof.Machine
end

section
/-! SUPPORT. Effects at memory and the scratchpads: what a store or an atomic of an open grid changes, and what a list of writes leaves behind. -/

namespace Sys2Proof.Machine

/-! ### Lists of writes -/

/-- Writes of bytes one after the other. -/
def writeAll (m : Memory) (xs : List (Nat × List Byte)) : Memory := xs.foldl (fun m x => m.writeN x.1 x.2) m

theorem read_writeAll_outside {m : Memory} {xs : List (Nat × List Byte)} {a : Nat} (h : ∀ x ∈ xs, a < x.1 ∨ x.1 + x.2.length ≤ a) : (writeAll m xs).read a = m.read a := by
  induction xs generalizing m with
  | nil => rfl
  | cons x xs ih =>
    exact (ih (m := m.writeN x.1 x.2) fun y hy => h y (List.mem_cons_of_mem x hy)).trans (Memory.read_writeN_outside _ _ _ _ (h x List.mem_cons_self))

/-- A byte reads as the last write that covers it left it. -/
theorem read_writeAll {m : Memory} {xs : List (Nat × List Byte)} {k j : Nat} {x : Nat × List Byte} (hx : xs[k]? = some x) (hj : j < x.2.length)
    (hlater : ∀ i y, k < i → xs[i]? = some y → x.1 + j < y.1 ∨ y.1 + y.2.length ≤ x.1 + j) : (writeAll m xs).read (x.1 + j) = x.2.getD j 0 := by
  induction xs generalizing m k with
  | nil => exact absurd hx (by simp)
  | cons y ys ih =>
    cases k with
    | zero =>
      obtain rfl : y = x := by simpa using hx
      have hout : ∀ z ∈ ys, y.1 + j < z.1 ∨ z.1 + z.2.length ≤ y.1 + j := by
        intro z hz
        obtain ⟨i, hi⟩ := List.mem_iff_getElem?.1 hz
        exact hlater (i + 1) z (Nat.succ_pos i) (by simpa using hi)
      refine (read_writeAll_outside (m := m.writeN y.1 y.2) hout).trans ?_
      rw [Memory.read_writeN, if_pos ⟨by omega, by omega⟩, Nat.add_sub_cancel_left]
    | succ k => exact ih (m := m.writeN y.1 y.2) (by simpa using hx) fun i z hi hz => hlater (i + 1) z (by omega) (by simpa using hz)

theorem Memory.readN_congr {m n : Memory} {a k : Nat} (h : ∀ j, j < k → m.read (a + j) = n.read (a + j)) : m.readN a k = n.readN a k := by
  refine List.ext_getElem (by rw [Memory.readN_length, Memory.readN_length]) fun i hi hi' => ?_
  have hk : i < k := by rwa [Memory.readN_length] at hi
  have hm := Memory.readN_getD m a k i hk
  have hn := Memory.readN_getD n a k i hk
  rw [List.getD_eq_getElem _ _ hi] at hm
  rw [List.getD_eq_getElem _ _ hi'] at hn
  rw [hm, hn, h i hk]

theorem Memory.readN_eq_map (m : Memory) (a n : Nat) : m.readN a n = (List.range n).map fun i => m.read (a + i) := by
  refine List.ext_getElem (by simp [Memory.readN_length]) fun i hi _ => ?_
  have hk : i < n := by rwa [Memory.readN_length] at hi
  have hm := Memory.readN_getD m a n i hk
  rw [List.getD_eq_getElem _ _ hi] at hm
  simp [hm]

/-! ### A change of memory with its caches -/

/-- Nothing but memory, the caches over it and the host bias of its pages has changed. -/
def State.OnlyMem (s t : State) : Prop := { t with mem := s.mem, cache := s.cache, bias := s.bias } = s

theorem State.OnlyMem.field {α : Type} {s t : State} (h : s.OnlyMem t) (f : State → α) : f { t with mem := s.mem, cache := s.cache, bias := s.bias } = f s := congrArg f h

theorem State.OnlyMem.refl (s : State) : s.OnlyMem s := rfl

theorem State.OnlyMem.trans {s t u : State} (h : s.OnlyMem t) (h' : t.OnlyMem u) : s.OnlyMem u := by
  unfold State.OnlyMem at *
  exact (congrArg (fun x : State => { x with mem := s.mem, cache := s.cache, bias := s.bias }) h').trans h

theorem State.takeBias_onlyMem (s : State) (accs : List (Nat × Nat)) : s.OnlyMem (s.takeBias accs) ∧ (s.takeBias accs).mem = s.mem := by
  unfold State.takeBias
  split <;> exact ⟨rfl, rfl⟩

theorem State.onCaches_onlyMem (s : State) (f : Memory → Caches → Caches) : s.OnlyMem (s.onCaches f) ∧ (s.onCaches f).mem = s.mem := by
  unfold State.onCaches
  exact ⟨rfl, rfl⟩

theorem State.touchWrite_onlyMem (s : State) (core pc hint : Nat) (accs : List (Nat × Nat)) : s.OnlyMem (s.touchWrite core pc hint accs) ∧ (s.touchWrite core pc hint accs).mem = s.mem := by
  obtain ⟨h, hmem⟩ := s.takeBias_onlyMem accs
  exact ⟨h.trans (State.onCaches_onlyMem _ _).1, hmem⟩

theorem State.touchHome_onlyMem (s : State) (die : Nat) (accs : List (Nat × Nat)) : s.OnlyMem (s.touchHome die accs) ∧ (s.touchHome die accs).mem = s.mem := by
  obtain ⟨h, hmem⟩ := s.takeBias_onlyMem accs
  exact ⟨h.trans (State.onCaches_onlyMem _ _).1, hmem⟩

theorem State.writeN_onlyMem (s : State) (pa : Nat) (bs : List Byte) : s.OnlyMem { s with mem := s.mem.writeN pa bs } := by unfold State.OnlyMem; rfl

theorem State.writeThrough_onlyMem (s : State) (pa : Nat) (bs : List Byte) : s.OnlyMem (s.writeThrough pa bs) ∧ (s.writeThrough pa bs).mem = s.mem.writeN pa bs := by
  obtain ⟨h, hmem⟩ := s.takeBias_onlyMem [(pa, bs.length)]
  unfold State.OnlyMem at h ⊢
  unfold State.writeThrough State.onCaches
  exact ⟨h, congrArg (fun m : Memory => m.writeN pa bs) hmem⟩

/-- The word of an atomic of an open grid is memory's, and is written there, wherever the atomic performs. -/
theorem State.readWord_open {s : State} (h : s.inDomain = false) (va pa n : Nat) : s.readWord false va pa n = s.number pa n := by
  rw [State.readWord, State.number, Memory.readN_eq_map]
  simp [State.wordByte, h]

theorem State.writeWord_open {s : State} (h : s.inDomain = false) (sc : Scope) (va pa n x : Nat) :
    s.OnlyMem (s.writeWord false sc va pa n x) ∧ (s.writeWord false sc va pa n x).mem = s.mem.writeN pa (toBytes n x) := by
  rw [State.writeWord, h, if_neg Bool.false_ne_true, if_neg Bool.false_ne_true]
  split
  · exact s.writeThrough_onlyMem pa (toBytes n x)
  · obtain ⟨honly, hmem⟩ := State.touchHome_onlyMem { s with mem := s.mem.writeN pa (toBytes n x) } (coreDie s.w.core) [(pa, n)]
    exact ⟨(s.writeN_onlyMem pa (toBytes n x)).trans honly, hmem⟩

/-! ### Stores of an open grid -/

theorem State.storeAs_global {s : State} (hk : s.w.kind = .normal) (h : s.inDomain = false) (l va pa : Nat) (bs : List Byte) :
    s.storeAs false l va pa bs = { s with mem := s.mem.writeN pa bs } := by
  rw [State.storeAs, hk, h]
  rfl

theorem State.storeAs_pad {s : State} (hk : s.w.kind = .normal) (h : s.inDomain = false) (l va pa : Nat) (bs : List Byte) :
    s.storeAs true l va pa bs = s.modGrp fun g => g.setSide s.w.twin ((g.side s.w.twin).writeN va bs) := by
  have hlane : s.laneWarp l = s.cur := by rw [State.laneWarp, hk]
  rw [State.storeAs, hk, h]
  dsimp only
  rw [if_pos rfl, hlane]
  rfl

end Sys2Proof.Machine
end

section
/-! OBLIGATION. ADD_ON_STORE_APPLY (R174). -/

namespace Sys2Proof.Machine

/-! ### Requests that perform -/

/-- Waiting add-on-stores do not bear on a translation. -/
theorem State.checkVa_adds (s : State) (as : List OrdReq) (core lane ctx va : Nat) (k : Acc) (lost : Nat → Bool) :
    ({ s with adds := as } : State).checkVa core lane ctx va k lost = s.checkVa core lane ctx va k lost := by
  have hleaf : ({ s with adds := as } : State).leafFor core lane ctx va = s.leafFor core lane ctx va := by
    unfold State.leafFor
    rw [State.walk_congr (s := s) (t := { s with adds := as }) rfl rfl]
    rfl
  unfold State.checkVa
  rw [hleaf]
  rfl

theorem State.againOp_adds (s : State) (as : List OrdReq) (r : OrdReq) (o : ReqOp) : ({ s with adds := as } : State).againOp r o = s.againOp r o := by
  unfold State.againOp
  simp only [State.checkVa_adds]
  rfl

/-- A waiting request all of whose accesses still pass goes on as it is. -/
theorem State.again_of_ok {s : State} {r : OrdReq} (h : ∀ o ∈ r.ops, s.againOp r o = (o, none)) : s.again r = .go s r := by
  have hres : r.ops.map (s.againOp r) = r.ops.map fun o => (o, none) := List.map_congr_left h
  have hops : (r.ops.map (s.againOp r)).map Prod.fst = r.ops := by simp [hres, Function.comp_def]
  have hbad : ((r.ops.map (s.againOp r)).filterMap fun x => x.2.map fun d => (x.1, d)) = [] := by simp [hres]
  unfold State.again
  simp only [hops, hbad]
  simp

/-- A request that meets no tile of another group performs at once. -/
theorem State.serve_of_free {s : State} {r : OrdReq} (h : ∀ o ∈ r.ops, ∀ pa ∈ r.paOf o, s.tileOver r.grp pa = none) : s.serve r = s.perform r := by
  have hnone : (r.ops.filterMap fun o => (r.paOf o).bind (s.tileOver r.grp)) = [] :=
    List.filterMap_eq_nil_iff.2 fun o ho => Option.bind_eq_none_iff.2 fun pa hpa => h o ho pa hpa
  unfold State.serve
  simp only [hnone]
  simp

theorem State.tileFull_of_free {s : State} {grp : Nat} {pas : List Nat} (h : ∀ pa ∈ pas, s.tileOver grp pa = none) : s.tileFull grp pas = false := by
  unfold State.tileFull
  rw [Bool.and_eq_false_iff]
  exact .inr (List.any_eq_false.2 fun pa hpa => by simp [h pa hpa])

theorem State.tileOver_of_noTiles {s : State} (h : s.tiles = []) (grp pa : Nat) : s.tileOver grp pa = none := by simp [State.tileOver, h]

/-- The last part of a request completes its instruction. -/
theorem State.finish_of_last {s : State} {r : OrdReq} (h : ∀ q ∈ s.openReqs r.warp, q.seq ≠ r.seq) (ws : List RegWrite) :
    s.finish r ws = s.modWarp r.warp fun w => w.complete r.seq ws := by
  have hnone : ((s.openReqs r.warp).any fun x => x.seq == r.seq) = false := List.any_eq_false.2 fun q hq => by simpa using h q hq
  simp only [State.finish, hnone]
  rfl

/-! ### Adding a region (R174) -/

/-- The sum that one element of an add-on-store takes. -/
def State.addElement (s : State) (o : ReqOp) : State :=
  s.writeWord false .device o.va o.pa 4 (f32.add 0 (s.readWord false o.va o.pa 4) ((o.vals.headD 0).toNat)).1

theorem State.number_of_apart {s t : State} {a k : Nat} (h : ∀ j, j < k → t.mem.read (a + j) = s.mem.read (a + j)) : t.number a k = s.number a k := by
  rw [State.number, State.number, Memory.readN_congr h]

theorem State.addElement_spec {s : State} (h : s.inDomain = false) (o : ReqOp) :
    s.OnlyMem (s.addElement o) ∧ (s.addElement o).number o.pa 4 = (f32.add 0 (s.number o.pa 4) ((o.vals.headD 0).toNat)).1 % 2 ^ 32 ∧
      ∀ a, a < o.pa ∨ o.pa + 4 ≤ a → (s.addElement o).mem.read a = s.mem.read a := by
  obtain ⟨honly, hmem⟩ := State.writeWord_open h .device o.va o.pa 4 (f32.add 0 (s.readWord false o.va o.pa 4) ((o.vals.headD 0).toNat)).1
  rw [State.readWord_open h] at honly hmem
  rw [State.addElement, State.readWord_open h]
  refine ⟨honly, ?_, fun a ha => ?_⟩
  · have hback := Memory.number_writeN (n := 4) s.mem o.pa (xs := [(f32.add 0 (s.number o.pa 4) ((o.vals.headD 0).toNat)).1]) (i := 0) rfl
    simp only [List.flatMap_cons, List.flatMap_nil, List.append_nil, Nat.zero_mul, Nat.add_zero] at hback
    rw [State.number, hmem, hback]
    rfl
  · rw [hmem, Memory.read_writeN_outside _ _ _ _ (by rwa [toBytes_length])]

/-- Elements that lie apart each take their sum. -/
theorem State.addElements_spec {ops : List ReqOp} (hapart : (ops.map (·.pa)).Pairwise fun a b => a + 4 ≤ b ∨ b + 4 ≤ a) {s : State} (h : s.inDomain = false) :
    s.OnlyMem (ops.foldl State.addElement s) ∧ (∀ o ∈ ops, (ops.foldl State.addElement s).number o.pa 4 = (f32.add 0 (s.number o.pa 4) ((o.vals.headD 0).toNat)).1 % 2 ^ 32) ∧
      ∀ a, (∀ o ∈ ops, a < o.pa ∨ o.pa + 4 ≤ a) → (ops.foldl State.addElement s).mem.read a = s.mem.read a := by
  induction ops generalizing s with
  | nil => exact ⟨.refl s, fun o ho => absurd ho List.not_mem_nil, fun _ _ => rfl⟩
  | cons o ops ih =>
    rw [List.map_cons, List.pairwise_cons] at hapart
    obtain ⟨hhead, htail⟩ := hapart
    obtain ⟨honly, hnew, hold⟩ := State.addElement_spec h o
    obtain ⟨honly', hnew', hold'⟩ := ih htail (s := s.addElement o) ((honly.field State.inDomain).trans h)
    have hout (p : ReqOp) (hp : p ∈ ops) : o.pa + 4 ≤ p.pa ∨ p.pa + 4 ≤ o.pa := hhead _ (List.mem_map_of_mem hp)
    rw [List.foldl_cons]
    refine ⟨honly.trans honly', fun p hp => ?_, fun a ha => ?_⟩
    · rcases List.mem_cons.1 hp with rfl | hp
      · rw [State.number_of_apart (s := s.addElement p) fun j hj => hold' _ fun q hq => by have := hout q hq; omega, hnew]
      · rw [hnew' p hp, State.number_of_apart (s := s) fun j hj => hold _ (by have := hout p hp; omega)]
    · rw [hold' a fun q hq => ha q (List.mem_cons_of_mem o hq), hold a (ha o List.mem_cons_self)]

theorem State.addOps_spec {s : State} (h : s.inDomain = false) {ops : List ReqOp} (hapart : (ops.map (·.pa)).Pairwise fun a b => a + 4 ≤ b ∨ b + 4 ≤ a) :
    s.OnlyMem (s.addOps false ops) ∧ (∀ o ∈ ops, (s.addOps false ops).number o.pa 4 = (f32.add 0 (s.number o.pa 4) ((o.vals.headD 0).toNat)).1 % 2 ^ 32) ∧
      ∀ a, (∀ o ∈ ops, a < o.pa ∨ o.pa + 4 ≤ a) → (s.addOps false ops).mem.read a = s.mem.read a := by
  obtain ⟨hbias, hmem⟩ := s.takeBias_onlyMem (accsOf 4 ops)
  obtain ⟨honly, hnew, hold⟩ := State.addElements_spec hapart (s := s.takeBias (accsOf 4 ops)) ((hbias.field State.inDomain).trans h)
  have hnum (pa : Nat) : (s.takeBias (accsOf 4 ops)).number pa 4 = s.number pa 4 := by rw [State.number, hmem, State.number]
  simp only [hnum, hmem] at hnew hold
  exact ⟨hbias.trans honly, hnew, hold⟩

/-- A request that waits at memory performs when its accesses still pass and no tile stands. -/
theorem State.performAgain_of_ok {s : State} {r : OrdReq} (hops : ∀ o ∈ r.ops, s.againOp r o = (o, none)) (htiles : s.tiles = []) :
    s.performAgain r = (s.withWarp r.warp fun s => s.perform r, none) := by
  have hfull : ({ s with cur := r.warp } : State).tileFull r.grp (r.ops.filterMap r.paOf) = false := State.tileFull_of_free fun pa _ => State.tileOver_of_noTiles htiles _ _
  have hserve : ({ s with cur := r.warp } : State).serve r = ({ s with cur := r.warp } : State).perform r := State.serve_of_free fun o _ pa _ => State.tileOver_of_noTiles htiles _ _
  rw [State.performAgain, State.again_of_ok hops]
  dsimp only
  rw [hfull, if_neg Bool.false_ne_true, State.withWarp, State.withWarp, hserve]

theorem State.performHere_add {s : State} {r : OrdReq} {h : Hdr} {x : Tile} {spad : Bool} {kbase kpitch : Kr} {ety : FType} {dc : Dc} {row0 nrows : BitVec 6}
    (hi : r.instr = .mdrn h x spad kbase kpitch true ety dc row0 nrows) : s.performHere r = (s.addOps spad r.ops, []) := by
  simp only [State.performHere, hi]
  rfl

/-- An add-on-store of an open grid applies in one step. -/
theorem exec_addOnStoreApply_open {idx : Nat} {s : State} {r : OrdReq} (hr : s.adds[idx]? = some r) (hopen : s.groupColl r.grp = false)
    (hops : ∀ o ∈ r.ops, s.againOp r o = (o, none)) (htiles : s.tiles = []) :
    exec (.addOnStoreApply idx) s = .next (({ s with adds := s.adds.eraseIdx idx } : State).withWarp r.warp fun s => s.perform r) := by
  have hex : exec (.addOnStoreApply idx) s = execAddOnStoreApply idx s := rfl
  rw [hex, execAddOnStoreApply, hr]
  dsimp only
  rw [hopen, Bool.false_and, Bool.false_and, if_neg Bool.false_ne_true, State.performAgain_of_ok (s := { s with adds := s.adds.eraseIdx idx }) (fun o ho => (s.againOp_adds _ r o).trans (hops o ho)) htiles]

/-- One of a domain goes to its slice where its warp may have another there (Table 13.4). -/
theorem exec_addOnStoreApply_domain {idx : Nat} {s : State} {r : OrdReq} (hr : s.adds[idx]? = some r) (hcoll : s.groupColl r.grp = true) (hkind : (s.warpAt r.warp).kind = .normal) (hseq : r.seq < noSeq) :
    exec (.addOnStoreApply idx) s = .next (if s.reqsFullOf r.warp then s
      else ({ s with adds := s.adds.eraseIdx idx } : State).modDom (s.gridAt (s.groupAt r.grp).grid).pk.domain fun d => { d with reqs := d.reqs ++ [r] }) := by
  have hex : exec (.addOnStoreApply idx) s = execAddOnStoreApply idx s := rfl
  rw [hex, execAddOnStoreApply, hr]
  dsimp only
  rw [hcoll, hkind, if_pos (by simp [hseq])]

/-- What an add-on-store of an open grid leaves when it applies. -/
theorem addOnStoreApply_open {idx : Nat} {s : State} {r : OrdReq} {h : Hdr} {x : Tile} {kbase kpitch : Kr} {dc : Dc} {row0 nrows : BitVec 6} {w : Warp}
    (hr : s.adds[idx]? = some r) (hi : r.instr = .mdrn h x false kbase kpitch true .f32 dc row0 nrows) (hw : SMap.find s.warps r.warp = some w) (hgrp : r.grp = w.grp)
    (hopen : s.groupColl w.grp = false) (htiles : s.tiles = []) (hops : ∀ o ∈ r.ops, s.againOp r o = (o, none)) (hlast : ∀ y ∈ s.adds.eraseIdx idx, y.warp ≠ r.warp ∨ y.seq ≠ r.seq)
    (hapart : (r.ops.map (·.pa)).Pairwise fun a b => a + 4 ≤ b ∨ b + 4 ≤ a) :
    ∃ t, exec (.addOnStoreApply idx) s = .next t ∧ t.adds = s.adds.eraseIdx idx ∧ t.groups = s.groups ∧
      (∀ o ∈ r.ops, t.number o.pa 4 = (f32.add 0 (s.number o.pa 4) ((o.vals.headD 0).toNat)).1 % 2 ^ 32) ∧
      (∀ a, (∀ o ∈ r.ops, a < o.pa ∨ o.pa + 4 ≤ a) → t.mem.read a = s.mem.read a) ∧
      ∀ f ∈ w.inflight, f.seq = r.seq → { f with done := true } ∈ (t.warpAt r.warp).inflight := by
  let c : State := { s with adds := s.adds.eraseIdx idx, cur := r.warp }
  have hcw : c.w = w := State.warpAt_of_find hw
  have hdom : c.inDomain = false := by
    rw [State.inDomain, State.grid, State.grp, hcw]
    exact hopen
  obtain ⟨honly, hnew, hold⟩ := State.addOps_spec hdom hapart
  have hopenReqs : ∀ q ∈ (c.addOps false r.ops).openReqs r.warp, q.seq ≠ r.seq := by
    rw [show (c.addOps false r.ops).openReqs r.warp = c.openReqs r.warp from honly.field fun x => x.openReqs r.warp]
    intro q hq
    simp only [State.openReqs, show c.tiles = [] from htiles, List.flatMap_nil, List.nil_append, List.mem_filter, beq_iff_eq] at hq
    exact (hlast q hq.1).resolve_left (not_not.2 hq.2)
  have hthere : SMap.find (c.addOps false r.ops).warps r.warp = some w := (congrArg (SMap.find · r.warp) (honly.field State.warps)).trans hw
  have hperform : c.perform r = { (c.addOps false r.ops).setWarp r.warp (w.complete r.seq []) with cur := r.warp } := by
    rw [State.perform, State.withWarp, State.performHere_add hi]
    dsimp only
    rw [State.finish_of_last hopenReqs, State.modWarp_eq hthere]
  refine ⟨_, exec_addOnStoreApply_open hr (hgrp ▸ hopen) hops htiles, ?_⟩
  rw [State.withWarp, hperform]
  refine ⟨honly.field State.adds, honly.field State.groups, hnew, hold, fun f hf hseq => ?_⟩
  rw [State.warpAt, State.setWarp_warps, SMap.get_put_same]
  exact List.mem_map.2 ⟨f, hf, by simp [hseq]⟩

end Sys2Proof.Machine
end

section
/-! OBLIGATION. mdrn: the plain drain and the add-on-store at issue (R173, R174). -/

namespace Sys2Proof.Machine

/-! ### Stores of an open grid -/

theorem State.spillRecords_same {s : State} {old : List FoldEntry} (h : s.w.spill = old) : s.spillRecords old = s := by
  subst h
  unfold State.spillRecords
  simp

theorem State.clearWhole_open {s : State} (hk : s.w.kind = .normal) (h : s.inDomain = false) (hlost : s.lost = []) (l : Nat) (vas pas : List (Nat × Nat)) : s.clearWhole l vas pas = s := by
  rw [State.clearWhole, hk, h]
  dsimp only
  rw [hlost]
  rfl

theorem State.storeAs_onlyMem {xs : List (Nat × Nat × Nat × List Byte)} {s : State} (hk : s.w.kind = .normal) (h : s.inDomain = false) :
    s.OnlyMem (xs.foldl (fun s x => s.storeAs false x.1 x.2.1 x.2.2.1 x.2.2.2) s) ∧
      (xs.foldl (fun s x => s.storeAs false x.1 x.2.1 x.2.2.1 x.2.2.2) s).mem = writeAll s.mem (xs.map fun x => x.2.2) := by
  induction xs generalizing s with
  | nil => exact ⟨.refl s, rfl⟩
  | cons x xs ih =>
    have honly := s.writeN_onlyMem x.2.2.1 x.2.2.2
    obtain ⟨honly', hmem⟩ := ih (s := { s with mem := s.mem.writeN x.2.2.1 x.2.2.2 }) hk h
    rw [List.foldl_cons, State.storeAs_global hk h]
    exact ⟨honly.trans honly', hmem⟩

/-- What every store of an open grid reads of the state stays under a change of memory. -/
theorem State.OnlyMem.open_ {s t : State} (h : s.OnlyMem t) : t.w = s.w ∧ t.inDomain = s.inDomain ∧ t.lost = s.lost :=
  ⟨h.field State.w, h.field State.inDomain, h.field State.lost⟩

theorem State.storeList_global {s : State} (hk : s.w.kind = .normal) (h : s.inDomain = false) (hlost : s.lost = []) (core pc hint : Nat) (xs : List (Nat × Nat × Nat × List Byte)) :
    s.OnlyMem (s.storeList false core pc hint xs) ∧ (s.storeList false core pc hint xs).mem = writeAll s.mem (xs.map fun x => x.2.2) := by
  have htouch := s.touchWrite_onlyMem core pc hint (xs.map fun x => (x.2.2.1, x.2.2.2.length))
  have hif : (if (false || s.inDomain) = true then s else s.touchWrite core pc hint (xs.map fun x => (x.2.2.1, x.2.2.2.length))) =
      s.touchWrite core pc hint (xs.map fun x => (x.2.2.1, x.2.2.2.length)) := by rw [h, Bool.false_or, if_neg Bool.false_ne_true]
  rw [State.storeList, hif, if_neg Bool.false_ne_true]
  generalize s.touchWrite core pc hint (xs.map fun x => (x.2.2.1, x.2.2.2.length)) = u at htouch ⊢
  obtain ⟨honly, hmem⟩ := htouch
  obtain ⟨hw, hdom, hl⟩ := honly.open_
  have hstore := State.storeAs_onlyMem (xs := xs) (s := u) (by rw [hw, hk]) (by rw [hdom, h])
  generalize (xs.foldl (fun s x => s.storeAs false x.1 x.2.1 x.2.2.1 x.2.2.2) u) = v at hstore ⊢
  obtain ⟨honly', hmem'⟩ := hstore
  obtain ⟨hw', hdom', hl'⟩ := honly'.open_
  rw [State.spillRecords_same (by rw [hw']), State.clearWhole_open (by rw [hw', hw, hk]) (by rw [hdom', hdom, h]) (by rw [hl', hl, hlost])]
  exact ⟨honly.trans honly', by rw [hmem', hmem]⟩

/-- Stores at memory write their bytes in order and change nothing but memory and its caches. -/
theorem State.storeOps_global {s : State} (hk : s.w.kind = .normal) (h : s.inDomain = false) (hlost : s.lost = []) (pc n hint : Nat) (ops : List ReqOp) :
    s.OnlyMem (s.storeOps false pc n hint ops) ∧ (s.storeOps false pc n hint ops).mem = writeAll s.mem (ops.map fun o => (o.pa, toBytes n ((o.vals.headD 0).toNat))) := by
  obtain ⟨honly, hmem⟩ := State.storeList_global hk h hlost s.w.core pc hint (ops.map fun o => (o.lane, o.va, o.pa, toBytes n ((o.vals.headD 0).toNat)))
  rw [List.map_map] at hmem
  exact ⟨honly, hmem⟩

/-- Nothing but the groups has changed, and of the current warp's group only the scratchpad of its side. -/
structure State.OnlyPad (s t : State) (m : Memory) : Prop where
  rest : { t with groups := s.groups } = s
  grid : t.grp.grid = s.grp.grid
  side : t.grp.side s.w.twin = m

theorem State.OnlyPad.field {α : Type} {s t : State} {m : Memory} (h : s.OnlyPad t m) (f : State → α) : f { t with groups := s.groups } = f s := congrArg f h.rest

theorem State.OnlyPad.inDomain {s t : State} {m : Memory} (h : s.OnlyPad t m) : t.inDomain = s.inDomain := by
  have hgrids : t.grids = s.grids := h.field State.grids
  rw [State.inDomain, State.inDomain, State.grid, State.grid, h.grid, State.gridAt, State.gridAt, hgrids]

theorem State.modGrp_onlyPad (s : State) (va : Nat) (bs : List Byte) :
    s.OnlyPad (s.modGrp fun g => g.setSide s.w.twin ((g.side s.w.twin).writeN va bs)) ((s.grp.side s.w.twin).writeN va bs) := by
  have hgrp : (s.modGrp fun g => g.setSide s.w.twin ((g.side s.w.twin).writeN va bs)).grp = s.grp.setSide s.w.twin ((s.grp.side s.w.twin).writeN va bs) := SMap.get_put_same _ _ _ _
  refine ⟨rfl, ?_, ?_⟩
  · rw [hgrp, Group.setSide]
    split <;> rfl
  · rw [hgrp, Group.setSide, Group.side]
    split <;> simp [*]

theorem State.OnlyPad.refl (s : State) : s.OnlyPad s (s.grp.side s.w.twin) := ⟨rfl, rfl, rfl⟩

theorem State.OnlyPad.w {s t : State} {m : Memory} (h : s.OnlyPad t m) : t.w = s.w := h.field State.w

theorem State.OnlyPad.trans {s t u : State} {m m' : Memory} (h : s.OnlyPad t m) (h' : t.OnlyPad u m') : s.OnlyPad u m' :=
  ⟨(congrArg (fun x : State => { x with groups := s.groups }) h'.rest).trans h.rest, h'.grid.trans h.grid, h.w ▸ h'.side⟩

theorem State.storeAs_onlyPad {xs : List (Nat × Nat × Nat × List Byte)} {s : State} (hk : s.w.kind = .normal) (h : s.inDomain = false) :
    s.OnlyPad (xs.foldl (fun s x => s.storeAs true x.1 x.2.1 x.2.2.1 x.2.2.2) s) (writeAll (s.grp.side s.w.twin) (xs.map fun x => (x.2.1, x.2.2.2))) := by
  induction xs generalizing s with
  | nil => exact .refl s
  | cons x xs ih =>
    have hone := s.modGrp_onlyPad x.2.1 x.2.2.2
    rw [List.foldl_cons, State.storeAs_pad hk h]
    generalize s.modGrp _ = u at hone ⊢
    have hrest := ih (s := u) (by rw [hone.w, hk]) (by rw [hone.inDomain, h])
    rw [hone.w, hone.side] at hrest
    exact hone.trans hrest

/-- Stores at a scratchpad write their bytes in order into the side of the current warp. -/
theorem State.storeOps_pad {s : State} (hk : s.w.kind = .normal) (h : s.inDomain = false) (pc n hint : Nat) (ops : List ReqOp) :
    s.OnlyPad (s.storeOps true pc n hint ops) (writeAll (s.grp.side s.w.twin) (ops.map fun o => (o.va, toBytes n ((o.vals.headD 0).toNat)))) := by
  have hstore := State.storeAs_onlyPad (xs := ops.map fun o => (o.lane, o.va, o.pa, toBytes n ((o.vals.headD 0).toNat))) hk h
  rw [State.storeOps, State.storeList, if_pos rfl, Bool.true_or, if_pos rfl, State.spillRecords_same (by rw [hstore.w])]
  rw [List.map_map] at hstore
  exact hstore

/-! ### A drain's elements -/

/-- The addresses and words of a drain, element by element. -/
theorem drainList_eq (x : List Word) (base pitch es row0 nrows : Nat) :
    drainList x base pitch es row0 nrows = (List.range (64 * nrows)).map fun k => (drainAddr base pitch es k, x.getD (64 * (row0 + k / 64) + k % 64) 0) := by
  have hlen (r : Nat) : ((List.range 64).map fun n => ((base + r * pitch + n * es) % 2 ^ 64, x.getD ((row0 + r) * 64 + n) 0)).length = 64 := by simp
  refine List.ext_getElem? fun k => ?_
  by_cases hk : k < 64 * nrows
  · have hsplit : k / 64 * 64 + k % 64 = k := Nat.div_add_mod' k 64
    have hat := getElem?_flatMap_range hlen (Nat.div_lt_of_lt_mul hk) (Nat.mod_lt k (by decide))
    rw [hsplit] at hat
    rw [drainList, hat, List.getElem?_map, List.getElem?_map, List.getElem?_range (Nat.mod_lt k (by decide)), List.getElem?_range hk, Option.map_some, Option.map_some,
      Nat.mul_comm 64 (row0 + k / 64)]
    rfl
  · rw [List.getElem?_eq_none, List.getElem?_eq_none]
    · simpa using hk
    · rw [drainList, length_flatMap_const hlen, List.length_range]
      omega

/-- A drain's accesses: element `k` goes to `ea k` at `pa k` with its converted word. -/
def drainOps (lane : Nat) (ea pa word : Nat → Nat) (count : Nat) : List ReqOp :=
  (List.range count).map fun k => ⟨lane, ea k, pa k, [BitVec.ofNat 64 (word k)], false⟩

/-! ### What holds a drain at issue -/

theorem State.tileOver_of_clear {s : State} {pas : List Nat} (h : s.TilesClear pas) {pa : Nat} (hpa : pa ∈ pas) : s.tileOver s.w.grp pa = none := by
  refine Option.map_eq_none_iff.2 (List.find?_eq_none.2 fun e he => ?_)
  rcases h e he with hown | hclear
  · simp [hown]
  · simp [hclear pa hpa]

theorem State.meetsOpen_of_noneEarlier {s : State} {spad : Bool} {n : Nat} {as : List (Nat × Nat)} (h : s.NoneEarlier spad n as) : s.meetsOpen spad n as = false := by
  refine List.any_eq_false.2 fun q hq => Bool.eq_false_iff.1 (List.any_eq_false.2 fun o ho => Bool.eq_false_iff.1 (List.any_eq_false.2 fun a ha => ?_))
  obtain ⟨hq, hkind⟩ := List.mem_filter.1 hq
  obtain ⟨ho, hmiss⟩ := List.mem_filter.1 ho
  simp only [Bool.and_eq_true, beq_iff_eq, decide_eq_true_eq] at hkind
  obtain ⟨hva, hpa⟩ := (h q hq).2 hkind.2 hkind.1 o ho (by simpa using hmiss) a ha
  simp only [Bool.or_eq_true, Bool.and_eq_true, decide_eq_true_eq]
  omega

theorem State.reqsFull_open {s : State} (h : s.inDomain = false) : s.reqsFull = false := by
  have hcoll : s.groupColl (s.warpAt s.cur).grp = false := h
  rw [State.reqsFull, State.reqsFullOf, hcoll]
  rfl

theorem State.reaches_tryVa {s : State} (hlost : s.lost = []) {k : Acc} {n l ea pa : Nat} (h : s.Reaches k n l ea pa) : ∃ leaf, s.tryVa k n (fun _ => false) l ea = .ok pa leaf := by
  obtain ⟨halign, x, hx, rfl⟩ := h
  have hnone : (fun a => s.meetsLost a n) = fun _ => false := by
    funext a
    rw [State.meetsLost, hlost]
    rfl
  rw [hnone] at hx
  exact ⟨some x, by rw [State.tryVa, if_neg (not_not.2 halign), hx]⟩

theorem State.reaches_trySp {s : State} (hk : s.w.kind = .normal) {n ea : Nat} (h : s.ReachesSp n ea) (l : Nat) : s.trySp n l ea = .ok ea none := by
  have hlane : s.laneWarp l = s.cur := by rw [State.laneWarp, hk]
  have hroom : ¬ s.splOf (s.warpAt s.cur).grp < ea + n := not_lt.2 h.2
  rw [State.trySp, if_neg (not_not.2 h.1), hlane, if_neg hroom]

/-- What every access of a drain comes to where all of them may perform. -/
theorem drain_results {count : Nat} (e : Nat → Nat × Word) (try_ : Nat → LaneRes) {pa : Nat → Nat} {leaf : Nat → Option Leaf} (h : ∀ k, k < count → try_ (e k).1 = .ok (pa k) (leaf k)) :
    ((List.range count).map e).map (fun e => (e, try_ e.1)) = (List.range count).map fun k => (e k, LaneRes.ok (pa k) (leaf k)) := by
  rw [List.map_map]
  exact List.map_congr_left fun k hk => by rw [Function.comp_apply, h k (List.mem_range.1 hk)]

theorem drain_absent (count : Nat) (e : Nat → Nat × Word) (pa : Nat → Nat) (leaf : Nat → Option Leaf) :
    (((List.range count).map fun k => (e k, LaneRes.ok (pa k) (leaf k))).filter fun r => r.2 == .absent) = [] := by
  refine List.filter_eq_nil_iff.2 fun r hr => ?_
  obtain ⟨k, -, rfl⟩ := List.mem_map.1 hr
  simp

/-- The state in which a drain's word has counted, raised its flags `fl` and named itself as one that sets flags where it converts. -/
def Warp.drains (w : Warp) (c : Option Nat) (ety : FType) (fl : FFlags) : Warp :=
  if ety = .f32 then (w.matFlags w.active fl).count c [] false [] else ((w.matFlags w.active fl).count c [] false []).flagging w.seqNo

/-- The request of a drain. -/
def State.drainReq (s : State) (i : Instr) (ops : List ReqOp) : OrdReq :=
  { key := s.opKey, warp := s.cur, grp := s.w.grp, seq := s.w.seqNo, instr := i, pc := s.w.runPc, act := s.w.active, regs := [], ops := ops }

theorem State.drains_eq {s : State} (h : s.Here) (c : Option Nat) (ety : FType) (fl : FFlags) :
    (if ety = .f32 then s.modW fun w => (w.matFlags w.active fl).count c [] false []
      else (s.modW fun w => (w.matFlags w.active fl).count c [] false []).modW fun x => x.flagging s.w.seqNo) = s.setW (s.w.drains c ety fl) := by
  unfold Warp.drains
  split
  · exact State.modW_eq h _
  · rw [State.modW_modW]
    exact State.modW_eq h _

theorem Warp.drains_kind (w : Warp) (c : Option Nat) (ety : FType) (fl : FFlags) : (w.drains c ety fl).kind = w.kind ∧ (w.drains c ety fl).grp = w.grp := by
  unfold Warp.drains Warp.flagging
  cases c <;> split <;> exact ⟨rfl, rfl⟩

/-- The state of a drain's word is that of its warp in an open grid. -/
theorem State.drains_open {s : State} (hk : s.w.kind = .normal) (h : s.inDomain = false) (c : Option Nat) (ety : FType) (fl : FFlags) :
    let v := s.setW (s.w.drains c ety fl)
    v.w = s.w.drains c ety fl ∧ v.w.kind = .normal ∧ v.inDomain = false := by
  intro v
  have hw : v.w = s.w.drains c ety fl := SMap.get_put_same _ _ _ _
  obtain ⟨hkind, hgrp⟩ := s.w.drains_kind c ety fl
  refine ⟨hw, by rw [hw, hkind, hk], ?_⟩
  rw [State.inDomain, State.grid, State.grp, hw, hgrp]
  exact h

/-- In an open grid a plain drain is served, and an add-on-store waits to be applied. -/
theorem State.drain_goes {s : State} (hk : s.w.kind = .normal) (h : s.inDomain = false) (c : Option Nat) (ety : FType) (fl : FFlags) (add : Bool) (r : OrdReq) :
    let v := s.setW (s.w.drains c ety fl)
    (if (!add || v.w.kind == .surrender) = true then v.serve r else if v.collated = true then v.request r else { v with adds := v.adds ++ [r] }) =
      if add then { v with adds := v.adds ++ [r] } else v.serve r := by
  intro v
  obtain ⟨-, hkind, hopen⟩ := State.drains_open hk h c ety fl
  have hcoll : v.grid.ds.coll = false := hopen
  rw [State.collated, hkind, hcoll]
  cases add <;> rfl

theorem exec_mdrn {h : Hdr} {x : Tile} {spad : Bool} {kbase kpitch : Kr} {add : Bool} {ety : FType} {dc : Dc} {row0 nrows : BitVec 6} {s : State} {pa : Nat → Nat} (hhere : s.Here) (hk : s.w.kind = .normal)
    (hdom : s.inDomain = false) (hbusy : s.matBusy = false) (hx : x.toNat < s.grid.ds.acc) (hrows : row0.toNat + nrows.toNat + 1 ≤ 64) (hlost : s.lost = []) :
    let i := Instr.mdrn h x spad kbase kpitch add ety dc row0 nrows
    let es := if ety = .f32 then 4 else 2
    let base := (s.w.rdK kbase.toNat).toNat
    let pitch := (s.w.rdK kpitch.toNat).toNat
    let count := 64 * (nrows.toNat + 1)
    let ea := drainAddr base pitch es
    let word (k : Nat) : Nat × FFlags := drainElem ety (s.cell s.w.core x.toNat (row0.toNat + k / 64) (k % 64))
    base % 16 = 0 → pitch % 16 = 0 → 64 * es ≤ pitch →
    (∀ k, k < count → if spad then s.ReachesSp es (ea k) ∧ pa k = ea k else s.Reaches (if add then .atomic .device else .store) es (lowLane s.w.active) (ea k) (pa k)) →
    (spad = false → s.TilesClear ((List.range count).map pa)) → s.NoneEarlier spad es ((List.range count).map fun k => (ea k, pa k)) →
    ∃ fl, let r := s.drainReq i (drainOps (lowLane s.w.active) ea pa (fun k => (word k).1) count)
      let v := s.setW (s.w.drains i.counter ety fl)
      exec i s = .next ((if add then { v with adds := v.adds ++ [r] } else v.serve r).retire i) := by
  intro i es base pitch count ea word hbase hpitch hwide hreach hclear hearlier
  have hex : exec i s = execMdrn h x spad kbase kpitch add ety dc row0 nrows s := rfl
  dsimp only [execMdrn] at hex
  rw [hex, hbusy, if_neg Bool.false_ne_true, State.matRegs_of_ok _ _ (fun r hr => absurd hr List.not_mem_nil) (fun t ht => Option.some.inj ht ▸ hx) (fun r hr => absurd hr List.not_mem_nil),
    if_neg (by omega), if_neg (by omega), drainList_eq, hlost]
  simp only [List.isEmpty_nil, Bool.or_true, if_true]
  have hleaf (k : Nat) : ∃ leaf, k < count → (if spad then s.trySp es (lowLane s.w.active) (ea k)
      else s.tryVa (if add then .atomic .device else .store) es (fun _ => false) (lowLane s.w.active) (ea k)) = .ok (pa k) leaf := by
    by_cases hkc : k < count
    · have hone := hreach k hkc
      cases spad with
      | true => exact ⟨none, fun _ => hone.2 ▸ State.reaches_trySp hk hone.1 _⟩
      | false => exact (State.reaches_tryVa hlost hone).imp fun leaf hleaf _ => hleaf
    · exact ⟨none, fun h => absurd h hkc⟩
  choose leaf hleaf using hleaf
  rw [drain_results _ (fun a => if spad then s.trySp es (lowLane s.w.active) a else s.tryVa (if add then .atomic .device else .store) es (fun _ => false) (lowLane s.w.active) a) hleaf]
  have hbad (l : List Nat) : (l.findSome? fun _ => (none : Option (Nat × Nat))) = none := by simp
  have hops (l : List Nat) (f : Nat → ReqOp) : (l.filterMap fun k => some (f k)) = l.map f := congrFun List.filterMap_eq_map _
  have hpas : ∀ a ∈ (if spad = true then [] else (List.range count).map pa), s.tileOver s.w.grp a = none := by
    intro a ha
    cases spad with
    | true => exact absurd ha List.not_mem_nil
    | false => exact State.tileOver_of_clear (hclear rfl) ha
  have hstray (pas : List Nat) : s.strays pas = false := by rw [State.strays, hk]; rfl
  simp only [drain_absent, List.isEmpty_nil, Bool.not_true, Bool.and_false, Bool.false_eq_true, if_false, List.map_map, List.findSome?_map, List.zip_map', List.filterMap_map, Function.comp_def, hops, hbad,
    hstray, hdom, Bool.false_and]
  rw [State.tileFull_of_free hpas, State.meetsOpen_of_noneEarlier hearlier, State.reqsFull_open hdom, Bool.and_false, Bool.and_false, Bool.or_false, Bool.or_false, if_neg Bool.false_ne_true]
  refine ⟨((List.range count).map word).foldl (fun x e => x ||| e.2) 0, ?_⟩
  rw [State.drains_eq hhere, State.drain_goes hk hdom]
  rfl

end Sys2Proof.Machine
end

section
/-! OBLIGATION. Drains: what a drain leaves, and the obligation. -/

namespace Sys2Proof.Machine

/-! ### The warp of a drain -/

theorem Warp.count_bare_uncounted (w : Warp) (c : Option Nat) : (w.count c [] false []).uncounted w = w := by
  cases c with
  | none => rfl
  | some c => rfl

theorem Warp.matFlags_axf (w : Warp) (act : Word) (fl : FFlags) : { w.matFlags act fl with axf := w.axf } = w := rfl

theorem Warp.matFlags_uncounted (t w : Warp) (act : Word) (fl : FFlags) : t.uncounted (w.matFlags act fl) = t.uncounted w := rfl

/-- A drain changes its warp's count and flags alone. -/
theorem Warp.drains_uncounted (w : Warp) (c : Option Nat) (ety : FType) (fl : FFlags) : { ((w.drains c ety fl).uncounted w) with axf := w.axf } = w := by
  have hcount := Warp.count_bare_uncounted (w.matFlags w.active fl) c
  rw [Warp.matFlags_uncounted] at hcount
  unfold Warp.drains
  split
  · rw [hcount, Warp.matFlags_axf]
  · rw [Warp.flagging_uncounted, hcount, Warp.matFlags_axf]

theorem Warp.drains_twin (w : Warp) (c : Option Nat) (ety : FType) (fl : FFlags) : (w.drains c ety fl).twin = w.twin := by
  have h := congrArg Warp.twin (w.drains_uncounted c ety fl)
  exact h

theorem Warp.grp_of_still {t w : Warp} (h : { (t.uncounted w) with axf := w.axf }.still = w.still) : t.grp = w.grp := by
  have h := congrArg Warp.grp h
  exact h

theorem Warp.drains_inflight (w : Warp) (c : Nat) (ety : FType) (fl : FFlags) : (w.drains (some c) ety fl).inflight = w.inflight ++ [⟨w.seqNo, c, false, [], w.sched, []⟩] := by
  unfold Warp.drains
  split <;> rfl

/-- The drain that is done has counted and completed. -/
theorem Warp.drains_counted (w : Warp) (c : Nat) (ety : FType) (fl : FFlags) : w.Counted ((w.drains (some c) ety fl).complete w.seqNo []) c [] [] := by
  have hin : ((w.drains (some c) ety fl).complete w.seqNo []).inflight = (w.inflight ++ [(⟨w.seqNo, c, false, [], w.sched, []⟩ : Inflight)]).map fun f : Inflight =>
      if f.seq == w.seqNo then { f with done := true, writes := f.writes ++ [] } else f := by
    rw [Warp.complete, Warp.drains_inflight]
  refine ⟨?_, fun f hf hne => ⟨f, ?_, rfl, fun _ => rfl⟩, ?_, ?_, ?_⟩
  · rw [hin]
    exact List.mem_map.2 ⟨_, List.mem_append_right _ List.mem_cons_self, by simp⟩
  · rw [hin]
    exact List.mem_map.2 ⟨f, List.mem_append_left _ hf, by simp [hne]⟩
  · unfold Warp.drains
    split <;> rfl
  · unfold Warp.drains
    split <;> rfl
  · unfold Warp.drains
    split <;> exact SMap.get_put_same _ _ _ _

/-- A warp that differs from `w` in its count and flags alone goes past its word. -/
theorem State.retire_uncounted {p : State} (h : p.Here) (i : Instr) {w : Warp} (hp : { (p.w.uncounted w) with axf := w.axf } = w) :
    let t := p.retire i
    p.OnlyWarp t ∧ t.w.runPc = w.runPc + BitVec.ofNat 64 (4 * i.words) ∧ { (t.w.uncounted w) with axf := w.axf }.still = w.still ∧ t.w.pend = w.pend ∧ t.w.inflight = p.w.inflight ∧
      ∀ c regs ws, w.Counted p.w c regs ws → w.Counted t.w c regs ws := by
  intro t
  obtain ⟨honly, ⟨hpc, -⟩, hstill, hpend⟩ := State.retire_spec h i
  have hin := State.retire_inflight h i
  have hbase {α : Type} (f : Warp → α) (hf : ∀ x : Warp, f { (x.uncounted w) with axf := w.axf } = f x) : f p.w = f w := (hf p.w).symm.trans (congrArg f hp)
  have hkept {α : Type} (f : Warp → α) (hf : ∀ x : Warp, f x.still = f x) : f t.w = f p.w := by rw [← hf, hstill, hf]
  refine ⟨honly, hpc.trans (by rw [hbase Warp.runPc fun _ => rfl]), ?_, hpend.trans (hbase Warp.pend fun _ => rfl), hin, ?_⟩
  · calc { (t.w.uncounted w) with axf := w.axf }.still = { (t.w.still.uncounted w.still) with axf := w.axf } := rfl
      _ = { (p.w.uncounted w) with axf := w.axf }.still := by rw [hstill]; rfl
      _ = w.still := by rw [hp]
  · rintro c regs ws ⟨hmem, hothers, hseq, hmarks, hissued⟩
    rw [← hin] at hmem hothers
    exact ⟨hmem, hothers, (hkept Warp.seqNo fun _ => rfl).trans hseq, (hkept Warp.marks fun _ => rfl).trans hmarks, by rw [hkept Warp.dcIssued fun _ => rfl, hissued]⟩

/-! ### What a drain writes -/

/-- The bytes of a drain, element by element. -/
def drainWrites (es : Nat) (pa word : Nat → Nat) (count : Nat) : List (Nat × List Byte) :=
  (List.range count).map fun k => (pa k, toBytes es (BitVec.ofNat 64 (word k)).toNat)

theorem byte_of_word (x : Nat) {b : Nat} (hb : b < 8) : BitVec.ofNat 8 ((BitVec.ofNat 64 x).toNat / 256 ^ b) = BitVec.ofNat 8 (x / 256 ^ b) := by
  have hsplit : (2 : Nat) ^ 64 = 256 ^ b * 256 ^ (8 - b) := by
    rw [← pow_add, Nat.add_sub_cancel' (le_of_lt hb)]
    norm_num
  have hdvd : 2 ^ 8 ∣ 256 ^ (8 - b) := dvd_pow_self _ (by omega)
  apply BitVec.eq_of_toNat_eq
  rw [BitVec.toNat_ofNat, BitVec.toNat_ofNat, BitVec.toNat_ofNat, hsplit, Nat.mod_mul_right_div_self, Nat.mod_mod_of_dvd _ hdvd]

/-- Each byte of an element that no later one covers. -/
theorem read_drainWrites {m : Memory} {es count k b : Nat} {pa word : Nat → Nat} (hes : es ≤ 8) (hk : k < count) (hb : b < es)
    (hlater : ∀ k', k < k' → k' < count → pa k + b < pa k' ∨ pa k' + es ≤ pa k + b) : (writeAll m (drainWrites es pa word count)).read (pa k + b) = BitVec.ofNat 8 (word k / 256 ^ b) := by
  have hat (i : Nat) : (drainWrites es pa word count)[i]? = if i < count then some (pa i, toBytes es (BitVec.ofNat 64 (word i)).toNat) else none := by
    rw [drainWrites, List.getElem?_map]
    split
    · rw [List.getElem?_range ‹_›]; rfl
    · rw [List.getElem?_eq_none (by simpa using ‹¬ i < count›)]; rfl
  have hlen (i : Nat) : (toBytes es (BitVec.ofNat 64 (word i)).toNat).length = es := toBytes_length _ _
  have hread := read_writeAll (m := m) (xs := drainWrites es pa word count) ((hat k).trans (if_pos hk)) (j := b) (by rwa [hlen]) ?_
  · have hbl : b < (toBytes es (BitVec.ofNat 64 (word k)).toNat).length := by rwa [hlen]
    rw [hread, List.getD_eq_getElem _ _ hbl, getElem_toBytes, byte_of_word _ (by omega)]
  · intro i y hi hy
    rw [hat] at hy
    split at hy
    · obtain rfl := Option.some.inj hy
      rw [hlen]
      exact hlater i hi ‹_›
    · cases hy

theorem read_drainWrites_outside {m : Memory} {es count a : Nat} {pa word : Nat → Nat} (h : ∀ k, k < count → a < pa k ∨ pa k + es ≤ a) :
    (writeAll m (drainWrites es pa word count)).read a = m.read a := by
  refine read_writeAll_outside fun y hy => ?_
  obtain ⟨k, hk, rfl⟩ := List.mem_map.1 hy
  rw [toBytes_length]
  exact h k (List.mem_range.1 hk)

/-! ### A drain that performs -/

theorem State.performHere_drain {s : State} {r : OrdReq} {h : Hdr} {x : Tile} {spad : Bool} {kbase kpitch : Kr} {ety : FType} {dc : Dc} {row0 nrows : BitVec 6}
    (hi : r.instr = .mdrn h x spad kbase kpitch false ety dc row0 nrows) : s.performHere r = (s.storeOps spad r.pc.toNat (if ety = .f32 then 4 else 2) 0 r.ops, []) := by
  simp only [State.performHere, hi]
  rfl

/-- Stores keep the warps and what waits. -/
structure State.KeepsWarps (s t : State) : Prop where
  cur : t.cur = s.cur
  warps : t.warps = s.warps
  tiles : t.tiles = s.tiles
  adds : t.adds = s.adds

theorem State.OnlyMem.keepsWarps {s t : State} (h : s.OnlyMem t) : s.KeepsWarps t := ⟨h.field State.cur, h.field State.warps, h.field State.tiles, h.field State.adds⟩
theorem State.OnlyPad.keepsWarps {s t : State} {m : Memory} (h : s.OnlyPad t m) : s.KeepsWarps t := ⟨h.field State.cur, h.field State.warps, h.field State.tiles, h.field State.adds⟩

/-- A request of the current warp that performs as stores, and is the last part of its instruction, completes it. -/
theorem State.perform_stores {s u : State} {r : OrdReq} (h : s.Here) (hr : r.warp = s.cur) (hu : s.performHere r = (u, [])) (hkeep : s.KeepsWarps u)
    (hlast : ∀ q ∈ s.openReqs s.cur, q.seq ≠ r.seq) : s.perform r = { u.setWarp s.cur (s.w.complete r.seq []) with cur := s.cur } := by
  obtain ⟨w, hw⟩ := Option.isSome_iff_exists.1 h
  have hsw : s.w = w := State.warpAt_of_find hw
  have hthere : SMap.find u.warps s.cur = some w := by rw [hkeep.warps, hw]
  have hopen : ∀ q ∈ u.openReqs r.warp, q.seq ≠ r.seq := by
    rw [hr, State.openReqs, hkeep.tiles, hkeep.adds]
    exact hlast
  have hhere : ({ s with cur := r.warp } : State) = s := by rw [hr]
  rw [State.perform, State.withWarp, hhere, hu]
  dsimp only
  rw [State.finish_of_last hopen, hr, State.modWarp_eq hthere, hsw]

/-- What a performed drain's word leaves: its warp has counted and completed it, no other warp has changed, and memory and the groups are as the stores `u` left them. -/
theorem State.drained_retire {s u p : State} (i : Instr) {c : Option Nat} {ety : FType} {fl : FFlags}
    (hkeep : (s.setW (s.w.drains c ety fl)).KeepsWarps u) (hp : p = { u.setWarp s.cur ((s.w.drains c ety fl).complete s.w.seqNo []) with cur := s.cur }) :
    let t := p.retire i
    s.OthersSame t ∧ t.w.runPc = s.w.runPc + BitVec.ofNat 64 (4 * i.words) ∧ { (t.w.uncounted s.w) with axf := s.w.axf }.still = s.w.still ∧ t.w.pend = s.w.pend ∧
      t.mem = u.mem ∧ t.groups = u.groups ∧ ∀ k, c = some k → s.w.Counted t.w k [] [] := by
  intro t
  have hwarps : p.warps = SMap.put (SMap.put s.warps s.cur (s.w.drains c ety fl)) s.cur ((s.w.drains c ety fl).complete s.w.seqNo []) := by rw [hp, State.setWarp_warps, hkeep.warps]; rfl
  have hcur : p.cur = s.cur := by rw [hp]
  have hpw : p.w = (s.w.drains c ety fl).complete s.w.seqNo [] := by rw [State.w, hcur, hwarps, SMap.get_put_same]
  have hhere : p.Here := by rw [State.Here, hcur, hwarps, SMap.find_put_same]; rfl
  have hun : { (p.w.uncounted s.w) with axf := s.w.axf } = s.w := by
    rw [hpw]
    exact s.w.drains_uncounted c ety fl
  obtain ⟨honly, hpc, hstill, hpend, -, hcounted⟩ := State.retire_uncounted hhere i hun
  refine ⟨⟨honly.othersSame.1.trans hcur, fun k hk => ?_⟩, hpc, hstill, hpend, honly.mem_eq.trans (by rw [hp]; rfl), honly.groups_eq.trans (by rw [hp]; rfl), fun k hk => hcounted _ _ _ ?_⟩
  · rw [honly.2 k (by rwa [hcur]), hwarps, SMap.find_put_other _ _ hk, SMap.find_put_other _ _ hk]
  · subst hk
    rw [hpw]
    exact s.w.drains_counted k ety fl

/-- A drain that meets no tile performs at once. -/
theorem State.drain_serves {s v : State} (htiles : v.tiles = s.tiles) {h : Hdr} {x : Tile} {spad : Bool} {kbase kpitch : Kr} {add : Bool} {ety : FType} {dc : Dc} {row0 nrows : BitVec 6} {lane count : Nat} {ea pa word : Nat → Nat}
    (hclear : spad = false → s.TilesClear ((List.range count).map pa)) :
    let r := s.drainReq (.mdrn h x spad kbase kpitch add ety dc row0 nrows) (drainOps lane ea pa word count)
    v.serve r = v.perform r := by
  refine State.serve_of_free fun o ho a ha => ?_
  obtain ⟨k, hk, rfl⟩ := List.mem_map.1 ho
  cases spad with
  | true => cases ha
  | false =>
    obtain rfl : pa k = a := Option.some.inj ha
    rw [State.tileOver, htiles]
    exact State.tileOver_of_clear (hclear rfl) (List.mem_map_of_mem hk)

/-- The writes of a drain's accesses at memory, and at the scratchpad where each goes to its address. -/
theorem drainOps_writes (lane es : Nat) (ea pa word : Nat → Nat) (count : Nat) :
    ((drainOps lane ea pa word count).map fun o => (o.pa, toBytes es ((o.vals.headD 0).toNat))) = drainWrites es pa word count := by
  rw [drainOps, List.map_map]
  rfl

theorem drainOps_padWrites (lane es : Nat) {ea pa : Nat → Nat} (word : Nat → Nat) {count : Nat} (h : ∀ k, k < count → pa k = ea k) :
    ((drainOps lane ea pa word count).map fun o => (o.va, toBytes es ((o.vals.headD 0).toNat))) = drainWrites es pa word count := by
  rw [drainOps, List.map_map]
  exact List.map_congr_left fun k hk => by rw [h k (List.mem_range.1 hk)]; rfl

/-- A plain drain of an open grid leaves its elements in memory or in the scratchpad, and a completed count. -/
theorem State.drain_spec {s : State} (hk : s.w.kind = .normal) (hdom : s.inDomain = false) (hlost : s.lost = []) {h : Hdr} {x : Tile} {spad : Bool} {kbase kpitch : Kr} {ety : FType} {dc : Dc} {row0 nrows : BitVec 6}
    {lane count : Nat} {ea pa word : Nat → Nat} (fl : FFlags) (hpad : spad = true → ∀ k, k < count → pa k = ea k) (hclear : spad = false → s.TilesClear ((List.range count).map pa))
    (hlast : ∀ q ∈ s.openReqs s.cur, q.seq ≠ s.w.seqNo) :
    let i := Instr.mdrn h x spad kbase kpitch false ety dc row0 nrows
    let es := if ety = .f32 then 4 else 2
    let t := ((s.setW (s.w.drains i.counter ety fl)).serve (s.drainReq i (drainOps lane ea pa word count))).retire i
    s.OthersSame t ∧ t.w.runPc = s.w.runPc + 8 ∧ { (t.w.uncounted s.w) with axf := s.w.axf }.still = s.w.still ∧ t.w.pend = s.w.pend ∧ (dc ≠ 7 → s.w.Counted t.w dc.toNat [] []) ∧
      if spad then t.mem = s.mem ∧ t.grp.side s.w.twin = writeAll (s.grp.side s.w.twin) (drainWrites es pa word count)
      else t.groups = s.groups ∧ t.mem = writeAll s.mem (drainWrites es pa word count) := by
  intro i es t
  let v := s.setW (s.w.drains i.counter ety fl)
  let r := s.drainReq i (drainOps lane ea pa word count)
  obtain ⟨hvw, hvk, hvdom⟩ := State.drains_open hk hdom i.counter ety fl
  have hvhere : v.Here := by rw [State.Here, State.setW_warps, State.setW_cur, SMap.find_put_same]; rfl
  have hseq : v.w.complete r.seq [] = (s.w.drains i.counter ety fl).complete s.w.seqNo [] := by rw [hvw]; rfl
  have hserve : v.serve r = v.perform r := State.drain_serves (s := s) (v := v) rfl hclear
  have hcounter (hdc : dc ≠ 7) : i.counter = some dc.toNat := if_neg hdc
  cases spad with
  | true =>
    have hstore := State.storeOps_pad hvk hvdom r.pc.toNat es 0 r.ops
    have hperform := State.perform_stores hvhere rfl (State.performHere_drain rfl) hstore.keepsWarps hlast
    rw [hseq, ← hserve] at hperform
    obtain ⟨hothers, hpc, hstill, hpend, hmem, hgroups, hcounted⟩ := State.drained_retire i hstore.keepsWarps hperform
    refine ⟨hothers, hpc, hstill, hpend, fun hdc => hcounted _ (hcounter hdc), ?_⟩
    rw [if_pos rfl]
    have hgrp : t.w.grp = s.w.grp := Warp.grp_of_still hstill
    have hkept := (s.w.drains_kind i.counter ety fl).2
    have hvgrp : v.grp = s.grp := by rw [State.grp, hvw, hkept]; rfl
    have htwin : v.w.twin = s.w.twin := by rw [hvw, Warp.drains_twin]
    have hside := hstore.side
    rw [State.grp, hstore.w, htwin, hvgrp, hvw, hkept] at hside
    refine ⟨hmem.trans (hstore.field State.mem), ?_⟩
    rw [State.grp, hgrp, State.groupAt, hgroups]
    exact hside.trans (congrArg _ (drainOps_padWrites lane es word (hpad rfl)))
  | false =>
    obtain ⟨hstore, hwrites⟩ := State.storeOps_global hvk hvdom hlost r.pc.toNat es 0 r.ops
    have hperform := State.perform_stores hvhere rfl (State.performHere_drain rfl) hstore.keepsWarps hlast
    rw [hseq, ← hserve] at hperform
    obtain ⟨hothers, hpc, hstill, hpend, hmem, hgroups, hcounted⟩ := State.drained_retire i hstore.keepsWarps hperform
    refine ⟨hothers, hpc, hstill, hpend, fun hdc => hcounted _ (hcounter hdc), ?_⟩
    rw [if_neg Bool.false_ne_true]
    exact ⟨hgroups.trans (hstore.field State.groups), hmem.trans (hwrites.trans (congrArg _ (drainOps_writes ..)))⟩

/-- An add-on-store of an open grid waits with its elements, its word counted and not completed. -/
theorem State.addOnStore_spec {s : State} {h : Hdr} {x : Tile} {spad : Bool} {kbase kpitch : Kr} {ety : FType} {dc : Dc} {row0 nrows : BitVec 6} (fl : FFlags) (ops : List ReqOp) :
    let i := Instr.mdrn h x spad kbase kpitch true ety dc row0 nrows
    let v := s.setW (s.w.drains i.counter ety fl)
    let t := ({ v with adds := v.adds ++ [s.drainReq i ops] } : State).retire i
    s.OthersSame t ∧ t.w.runPc = s.w.runPc + 8 ∧ { (t.w.uncounted s.w) with axf := s.w.axf }.still = s.w.still ∧ t.w.pend = s.w.pend ∧ t.mem = s.mem ∧ t.groups = s.groups ∧
      (dc ≠ 7 → ⟨s.w.seqNo, dc.toNat, false, [], s.w.sched, []⟩ ∈ t.w.inflight) ∧ t.adds = s.adds ++ [s.drainReq i ops] := by
  intro i v t
  let p : State := { v with adds := v.adds ++ [s.drainReq i ops] }
  have hpw : p.w = s.w.drains i.counter ety fl := s.setW_w _
  have hhere : p.Here := by
    have hthere : (SMap.find (SMap.put s.warps s.cur (s.w.drains i.counter ety fl)) s.cur).isSome = true := by rw [SMap.find_put_same]; rfl
    exact hthere
  have hun : { (p.w.uncounted s.w) with axf := s.w.axf } = s.w := by rw [hpw, Warp.drains_uncounted]
  obtain ⟨honly, hpc, hstill, hpend, hin, -⟩ := State.retire_uncounted hhere i hun
  refine ⟨⟨honly.othersSame.1, fun k hk => ?_⟩, hpc, hstill, hpend, honly.mem_eq, honly.groups_eq, fun hdc => ?_, honly.field State.adds⟩
  · exact (honly.2 k hk).trans (SMap.find_put_other _ _ hk)
  · have hcounter : i.counter = some dc.toNat := if_neg hdc
    rw [hin, hpw, hcounter, Warp.drains_inflight]
    exact List.mem_append_right _ List.mem_cons_self

/-- A base or pitch that breaks R173 stops the strand. -/
theorem exec_mdrn_fault {h : Hdr} {x : Tile} {spad : Bool} {kbase kpitch : Kr} {add : Bool} {ety : FType} {dc : Dc} {row0 nrows : BitVec 6} {s : State} (hbusy : s.matBusy = false) (hx : x.toNat < s.grid.ds.acc)
    (hrows : row0.toNat + nrows.toNat + 1 ≤ 64)
    (hbad : (s.w.rdK kbase.toNat).toNat % 16 ≠ 0 ∨ (s.w.rdK kpitch.toNat).toNat % 16 ≠ 0 ∨ (s.w.rdK kpitch.toNat).toNat < 64 * (if ety = .f32 then 4 else 2)) :
    exec (.mdrn h x spad kbase kpitch add ety dc row0 nrows) s = .next (s.memFaultAll (.mdrn h x spad kbase kpitch add ety dc row0 nrows) 0x01 (s.w.rdK kbase.toNat).toNat 0) := by
  have hex : exec (.mdrn h x spad kbase kpitch add ety dc row0 nrows) s = execMdrn h x spad kbase kpitch add ety dc row0 nrows s := rfl
  dsimp only [execMdrn] at hex
  rw [hex, hbusy, if_neg Bool.false_ne_true, State.matRegs_of_ok _ _ (fun r hr => absurd hr List.not_mem_nil) (fun t ht => Option.some.inj ht ▸ hx) (fun r hr => absurd hr List.not_mem_nil),
    if_neg (by omega), if_pos hbad]

/-- Settles O39: a drain's elements go to the addresses of R173, an add-on-store takes effect once over its region, and a bad base or pitch stops the strand. -/
theorem drains : Obligations.Drains := by
  unfold Obligations.Drains
  refine ⟨?_, ?_, ?_⟩
  · intro h x spad kbase kpitch add ety dc row0 nrows s pa i es base pitch count ea word hhere hk hdom hact hbusy hx hrows hf32
    refine ⟨fun hbad => ⟨_, exec_mdrn_fault hbusy hx hrows hbad, State.trapped_takeTrap hhere hk ..⟩, fun hbase hpitch hwide hlost hreach hclear hearlier => ?_⟩
    have hpad : spad = true → ∀ k, k < count → pa k = ea k := fun hsp k hkc => by
      have := hreach k hkc
      rw [if_pos hsp] at this
      exact this.2
    have hlast : ∀ q ∈ s.openReqs s.cur, q.seq ≠ s.w.seqNo := fun q hq => (hearlier q hq).1
    obtain ⟨fl, hex⟩ := exec_mdrn hhere hk hdom hbusy hx hrows hlost hbase hpitch hwide hreach hclear hearlier
    cases add with
    | true =>
      obtain ⟨hothers, hpc, hstill, hpend, hmem, hgroups, hin, hadds⟩ := State.addOnStore_spec (s := s) (h := h) (x := x) (spad := spad) (kbase := kbase) (kpitch := kpitch) (ety := ety) (dc := dc) (row0 := row0)
        (nrows := nrows) fl (drainOps (lowLane s.w.active) ea pa word count)
      refine ⟨_, hex, hothers, hpc, hstill, hpend, fun _ => ⟨hmem, hgroups, hin, _, hadds, rfl, rfl, rfl, rfl, ?_⟩, fun hadd => absurd hadd Bool.noConfusion⟩
      simp [State.drainReq, drainOps]
    | false =>
      obtain ⟨hothers, hpc, hstill, hpend, hcounted, hleaves⟩ := State.drain_spec hk hdom hlost (h := h) (x := x) (kbase := kbase) (kpitch := kpitch) (ety := ety) (dc := dc) (row0 := row0) (nrows := nrows)
        (lane := lowLane s.w.active) (word := word) fl hpad hclear hlast
      have hes : es ≤ 8 := by dsimp only [es]; split <;> omega
      refine ⟨_, hex, hothers, hpc, hstill, hpend, fun hadd => absurd hadd Bool.noConfusion, fun _ => ⟨hcounted, ?_⟩⟩
      cases spad with
      | true =>
        obtain ⟨hmem, hside⟩ := hleaves
        exact ⟨hmem, fun k b hkc hb hlater => (congrArg (fun m : Memory => m.read (pa k + b)) hside).trans (read_drainWrites hes hkc hb hlater),
          fun a ha => (congrArg (fun m : Memory => m.read a) hside).trans (read_drainWrites_outside ha)⟩
      | false =>
        obtain ⟨hgroups, hmem⟩ := hleaves
        exact ⟨hgroups, fun k b hkc hb hlater => (congrArg (fun m : Memory => m.read (pa k + b)) hmem).trans (read_drainWrites hes hkc hb hlater),
          fun a ha => (congrArg (fun m : Memory => m.read a) hmem).trans (read_drainWrites_outside ha)⟩
  · intro idx s r h x kbase kpitch dc row0 nrows w hr hi hw hgrp hk hcoll htiles hops hlast hapart
    exact addOnStoreApply_open hr hi hw hgrp hcoll htiles hops hlast hapart
  · intro idx s r w hr hw hgrp hk hcoll hseq dom mine
    have hwarp : s.warpAt r.warp = w := State.warpAt_of_find hw
    have hgroup : s.groupColl w.grp = true := hcoll
    have hfull : s.reqsFullOf r.warp = decide (16 ≤ mine.length) := by
      rw [State.reqsFullOf, hwarp, hgroup, hk]
      rfl
    rw [exec_addOnStoreApply_domain hr (hgrp ▸ hgroup) (by rw [hwarp, hk]) hseq, hfull, hgrp]
    exact ⟨fun hmany => by rw [decide_eq_true hmany, if_pos rfl], fun hfew => by rw [decide_eq_false (not_le.2 hfew), if_neg Bool.false_ne_true]⟩

end Sys2Proof.Machine
end

section
/-! SUPPORT. The canonical form of home memory through the caches (R182, R189): the bytes of home memory change by writes alone, whatever the protocol does. -/

namespace Sys2Proof.Machine

-- One proof is checked after another: hundreds of short lemmas checked at once need more threads than there is room for.
set_option Elab.async false

/-- Home memory behind the caches is in canonical form. -/
def Caches.Canonical (c : Caches) : Prop := c.home.wf = true

namespace Caches.Canonical

variable {c d : Caches} {m : Memory} {wb : Caches → Quire → Caches} {α : Type}

theorem of_home (h : c.Canonical) (e : d.home = c.home) : d.Canonical := by
  unfold Caches.Canonical at *; rwa [e]

/-- A fold whose every step keeps the canonical form keeps it. -/
theorem foldl {f : Caches → α → Caches} {l : List α} (h : c.Canonical) (hf : ∀ b a, b.Canonical → (f b a).Canonical) : (l.foldl f c).Canonical :=
  List.foldlRecOn l f h fun b hb a _ => hf b a hb

/-! ### Quires, room and splits -/

theorem put (h : c.Canonical) (a : Nat) (qs : List Quire) : (c.put a qs).Canonical := h

theorem eraseL2 (h : c.Canonical) (x : Nat) : (c.eraseL2 x).Canonical := h

theorem toL2 (h : c.Canonical) (d x : Nat) : (c.toL2 m d x).Canonical := h

theorem toHome (h : c.Canonical) (x : Nat) : (c.toHome m x).Canonical := Memory.wf_writeN h _ _

theorem train (h : c.Canonical) (a : Nat) (q : Quire) : (c.train a q).Canonical := by
  unfold Caches.train; split <;> exact h

theorem evict (h : c.Canonical) (a : Nat) (q : Quire) : (c.evict a q).Canonical := (h.put a _).train a q

theorem soil (h : c.Canonical) (a f : Nat) (l : List Nat) : (c.soil a f l).Canonical := h.put a _

theorem l2Back (h : c.Canonical) (q : Quire) : (c.l2Back m q).Canonical := h.foldl fun _ x h => h.toHome x

theorem finish (h : c.Canonical) (r : CohReq) : (c.finish m r).Canonical := by
  unfold Caches.finish; grind [soil, l2Back, put, foldl, of_home]

theorem room (hwb : ∀ c q, c.Canonical → (wb c q).Canonical) (a f t n : Nat) (but : Quire → Bool) (force : Bool) (fuel : Nat) (h : c.Canonical) :
    (c.room m wb a f t n but force fuel).1.Canonical := by
  induction fuel generalizing c with
  | zero => exact h
  | succ fuel ih => unfold Caches.room; grind [put, evict, finish, foldl]

theorem recutOne (hwb : ∀ c q, c.Canonical → (wb c q).Canonical) (h : c.Canonical) (a x y : Nat) (r : Option (QState × Bool)) (q : Quire) :
    (c.recutOne m wb a x y r q).Canonical := by
  unfold Caches.recutOne; grind [put, room, foldl]

theorem recutBy (hwb : ∀ c q, c.Canonical → (wb c q).Canonical) (h : c.Canonical) (a f x y : Nat) (w : Quire → Bool) (g : Quire → Option (QState × Bool)) :
    (c.recutBy m wb a f x y w g).Canonical := by
  unfold Caches.recutBy; grind [recutOne, foldl]

theorem placeRun (hwb : ∀ c q, c.Canonical → (wb c q).Canonical) (h : c.Canonical) (a f : Nat) (st : QState) (p : Nat) (fwd : Option Nat) (r : Nat × Nat) :
    (c.placeRun m wb a f st p fwd r).Canonical := by
  unfold Caches.placeRun; grind [put, room]

theorem placeBy (hwb : ∀ c q, c.Canonical → (wb c q).Canonical) (h : c.Canonical) (a f x y : Nat) (st : QState) (p : Nat) (fwd : Option Nat) :
    (c.placeBy m wb a f x y st p fwd).Canonical :=
  foldl (h.put a _) fun _ r h => placeRun hwb h a f st p fwd r

/-! ### Write-backs and grants -/

theorem l2Take (h : c.Canonical) (die f : Nat) (b : Bool) (r : Nat × Nat) : (c.l2Take m die f b r).Canonical := by
  have step (x : Nat) (c : Caches) (st : QState) (g : Quire → Option (QState × Bool)) (h : c.Canonical) :
      (((c.recutBy m (Caches.l2Back m) (l2Agent die) f x x Quire.tracked g).placeBy m (Caches.l2Back m) (l2Agent die) f x x st 0 none).soil (l2Agent die) f [x]).Canonical :=
    (placeBy (fun _ q h => h.l2Back q) (recutBy (fun _ q h => h.l2Back q) h _ _ _ _ _ _) _ _ _ _ _ _ _).soil _ _ _
  unfold Caches.l2Take
  refine foldl ?_ fun c x h => step x c _ _ h
  split
  · exact h.foldl fun _ x h => h.toL2 _ _
  · exact h

theorem writeBack (h : c.Canonical) (a : Nat) (q : Quire) : (Caches.writeBack m a c q).Canonical := by
  unfold Caches.writeBack; grind [l2Take, l2Back, foldl]

theorem recut (h : c.Canonical) (a f x y : Nat) (g : Quire → Option (QState × Bool)) : (c.recut m a f x y g).Canonical :=
  recutBy (fun _ q h => h.writeBack a q) h a f x y _ g

theorem place (h : c.Canonical) (a f x y : Nat) (st : QState) (p : Nat) (fwd : Option Nat) : (c.place m a f x y st p fwd).Canonical :=
  placeBy (fun _ q h => h.writeBack a q) h a f x y st p fwd

theorem settle (h : c.Canonical) (a : Nat) (q : Quire) : (c.settle m a q).Canonical := (h.put a _).writeBack a q

theorem settleOwn (h : c.Canonical) (a f x y : Nat) : (c.settleOwn m a f x y).Canonical := h.foldl fun _ q h => h.settle a q

theorem touchAcc (h : c.Canonical) (a f x : Nat) : (Caches.touchAcc a f c x).Canonical := h.put a _

theorem dropFwd (h : c.Canonical) (a f x y : Nat) : (c.dropFwd m a f x y).Canonical :=
  recutBy (fun _ q h => h.writeBack a q) h a f x y _ _

theorem snoopAway (h : c.Canonical) (a f x y : Nat) : (c.snoopAway m a f x y).1.Canonical :=
  foldl (h.foldl fun _ _ h => h.recut _ _ _ _ _) fun _ _ h => h.toL2 _ _

theorem grantM (h : c.Canonical) (a f x y p : Nat) : (c.grantM m a f x y p).Canonical :=
  (((((h.settleOwn a f x y).dropFwd a f x y).snoopAway a f x y).recut _ _ _ _ _).place _ _ _ _ _ _ _).soil _ _ _

theorem grantS (h : c.Canonical) (a f x y p : Nat) : (c.grantS m a f x y p).Canonical :=
  place (foldl (h.settleOwn a f x y) fun _ _ h => h.recut _ _ _ _ _) _ _ _ _ _ _ _

/-! ### Directories -/

theorem record (h : c.Canonical) (f : Nat) : (c.record f).Canonical := by
  unfold Caches.record; grind [foldl, of_home]

theorem recallHome (h : c.Canonical) (die sl fuel : Nat) : (Caches.recallHome m die sl fuel c).Canonical := by
  induction fuel generalizing c with
  | zero => exact h
  | succ fuel ih => unfold Caches.recallHome; grind [foldl, recut, writeBack, record]

theorem recallSpine (h : c.Canonical) (fuel : Nat) : (Caches.recallSpine m fuel c).Canonical := by
  induction fuel generalizing c with
  | zero => exact h
  | succ fuel ih => unfold Caches.recallSpine; grind [foldl, l2Back, put, record]

theorem recordFrom (h : c.Canonical) (old : Caches) : (c.recordFrom old).Canonical := h.foldl fun _ f h => h.record f

theorem follow (h : c.Canonical) (old : Caches) : (c.follow old m).Canonical :=
  (recallSpine (foldl (h.recordFrom old) fun _ _ h => h.foldl fun _ _ h => h.recallHome _ _ _) _).recordFrom _

/-! ### Accesses and messages -/

theorem byFrame {g : Caches → Nat → List Nat → Caches} (h : c.Canonical) (hg : ∀ c f l, c.Canonical → (g c f l).Canonical) (accs : List (Nat × Nat)) :
    (c.byFrame g accs).Canonical := h.foldl fun _ _ h => hg _ _ _ h

theorem ask (h : c.Canonical) (a f p : Nat) (pr : Bool) (want acc : List Nat) : (c.ask a f p pr want acc).Canonical := h

theorem read (h : c.Canonical) (core pc hint : Nat) (pr : Nat → Bool) (accs : List (Nat × Nat)) : (c.read m core pc hint pr accs).Canonical := by
  unfold Caches.read; grind [byFrame, foldl, settleOwn, touchAcc, ask]

theorem write (h : c.Canonical) (core pc hint : Nat) (accs : List (Nat × Nat)) : (c.write m core pc hint accs).Canonical := by
  unfold Caches.write; grind [byFrame, foldl, grantM, recut, soil, touchAcc]

theorem atHome (h : c.Canonical) (die : Nat) (accs : List (Nat × Nat)) : (c.atHome m die accs).Canonical := by
  unfold Caches.atHome; grind [byFrame, foldl, grantM, soil, toL2]

theorem expel (h : c.Canonical) (l : List Nat) : (c.expel m l).Canonical := by
  unfold Caches.expel; grind [foldl, toHome, eraseL2, recut]

theorem toPoint (h : c.Canonical) (dev dirty : Bool) (die x : Nat) : (c.toPoint m dev dirty die x).Canonical := by
  unfold Caches.toPoint; grind [toHome, l2Take]

theorem dropIn (h : c.Canonical) (dev : Bool) (as : List Nat) (x : Nat) : (c.dropIn m dev as x).Canonical := by
  unfold Caches.dropIn; grind [foldl, recut, dropFwd]

theorem fits (h : c.Canonical) (a f x y : Nat) : (c.fits m a f x y).1.Canonical := by
  unfold Caches.fits; grind [room, writeBack]

theorem grant (h : c.Canonical) (q : CohReq) : (c.grant m q).Canonical := by
  unfold Caches.grant Caches.hostTake; grind [snoopAway, put, grantM, grantS, soil, touchAcc, foldl]

theorem askCoh (h : c.Canonical) (a f x y : Nat) (own upg : Bool) : (c.askCoh a f x y own upg).Canonical := by
  unfold Caches.askCoh; split <;> exact h

theorem inFlight (h : c.Canonical) (a f x y : Nat) : (c.inFlight a f x y).Canonical := by
  unfold Caches.inFlight; split <;> exact h

theorem supply (h : c.Canonical) (a f : Nat) (l : List Nat) : (c.supply m a f l).Canonical := by
  unfold Caches.supply; grind [foldl, writeBack, toL2, l2Take, of_home]

end Caches.Canonical
end Sys2Proof.Machine
end

section
/-! SUPPORT. The canonical form of every byte memory through the operations that instructions and events share: one lemma for each operation of the state. -/

namespace Sys2Proof.Machine

-- One proof is checked after another: hundreds of short lemmas checked at once need more threads than there is room for.
set_option Elab.async false

/-! ### Groups, states and answers -/

/-- Both scratchpads of a group are in canonical form. -/
def Group.Canonical (g : Group) : Prop := g.spad.wf = true ∧ g.spadF.wf = true

/-- An answer keeps the canonical form: the next state, where there is one, has it. -/
def Out.Canonical : Out → Prop
  | .next t => t.Canonical
  | _ => True

theorem Out.canonical_next {t : State} : Out.Canonical (.next t) ↔ t.Canonical := Iff.rfl

theorem Group.canonical_iff {g : Group} : g.Canonical ↔ g.spad.wf = true ∧ g.spadF.wf = true := Iff.rfl

theorem State.canonical_iff {s : State} :
    s.Canonical ↔ s.mem.wf = true ∧ s.hostMem.wf = true ∧ s.cache.Canonical ∧ ∀ e ∈ s.groups, e.2.Canonical := Iff.rfl

/-- Bytes written one after another keep the canonical form of a memory. -/
theorem wf_foldl_write {α : Type} {f : Memory → α → Memory} {l : List α} {m : Memory} (hm : m.wf = true) (hf : ∀ m a, m.wf = true → (f m a).wf = true) :
    (l.foldl f m).wf = true := List.foldlRecOn l f hm fun b hb a _ => hf b a hb

/-- The bytes of a list that are not blank, at their places, are a memory in canonical form. -/
theorem wf_zipIdx (l : List Byte) : Memory.wf ((l.zipIdx.filter fun b => b.1 != 0).map fun b => (b.2, b.1)) = true := by
  have rising (k : Nat) : SMap.rising (((l.zipIdx k).filter fun b => b.1 != 0).map fun b => (b.2, b.1)) = true := by
    induction l generalizing k with
    | nil => rfl
    | cons x l ih =>
      rw [List.zipIdx_cons, List.filter_cons]
      split
      · refine SMap.rising_cons.2 ⟨ih (k + 1), fun e he => ?_⟩
        obtain ⟨b, hb, rfl⟩ := List.mem_map.1 he
        exact (List.mem_zipIdx (List.mem_of_mem_filter hb)).1
      · exact ih (k + 1)
  refine (Memory.wf_iff _).2 ⟨rising 0, fun e he => ?_⟩
  obtain ⟨b, hb, rfl⟩ := List.mem_map.1 he
  simpa [Memory.blank] using (List.mem_filter.1 hb).2

namespace Group.Canonical

variable {g : Group}

theorem foldl {α : Type} {f : Group → α → Group} {l : List α} (h : g.Canonical) (hf : ∀ b a, b.Canonical → (f b a).Canonical) : (l.foldl f g).Canonical :=
  List.foldlRecOn l f h fun b hb a _ => hf b a hb

theorem side (h : g.Canonical) (twin : Bool) : (g.side twin).wf = true := by
  unfold Group.side; grind [Group.canonical_iff]

theorem setSide (h : g.Canonical) (twin : Bool) {m : Memory} (hm : m.wf = true) : (g.setSide twin m).Canonical := by
  unfold Group.setSide; grind [Group.canonical_iff]

theorem putTurn (h : g.Canonical) (twin : Bool) (a : Nat) (b : Byte) : (g.putTurn twin a b).Canonical := by
  unfold Group.putTurn; grind [Group.canonical_iff]

theorem setChan (h : g.Canonical) (side : Bool) (c : Nat) (x : Chan) : (g.setChan side c x).Canonical := by
  unfold Group.setChan; split <;> exact h

theorem setSem (h : g.Canonical) (side : Bool) (n : Nat) (v : Word) : (g.setSem side n v).Canonical := by
  unfold Group.setSem; split <;> exact h

end Group.Canonical

namespace State.Canonical

variable {s t : State}

/-- What changes no byte memory and no group keeps the canonical form. -/
theorem of_eq (hs : s.Canonical) (hm : t.mem = s.mem) (hh : t.hostMem = s.hostMem) (hc : t.cache = s.cache) (hg : t.groups = s.groups) : t.Canonical := by
  unfold State.Canonical at *; rwa [hm, hh, hc, hg]

theorem foldl {α : Type} {f : State → α → State} {l : List α} (hs : s.Canonical) (hf : ∀ s a, s.Canonical → (f s a).Canonical) : (l.foldl f s).Canonical :=
  List.foldlRecOn l f hs fun b hb a _ => hf b a hb

theorem ite {p : Prop} [Decidable p] (hs : s.Canonical) (ht : t.Canonical) : (if p then s else t).Canonical := by
  split <;> assumption

/-- A fold that carries a value beside the state. -/
theorem foldl_fst {α β : Type} {f : State × β → α → State × β} {l : List α} {p : State × β} (hs : p.1.Canonical) (hf : ∀ p a, p.1.Canonical → (f p a).1.Canonical) :
    (l.foldl f p).1.Canonical := List.foldlRecOn (motive := fun p : State × β => p.1.Canonical) l f hs fun b hb a _ => hf b a hb

/-! ### The records of the state -/

theorem groupAt (hs : s.Canonical) (g : Nat) : (s.groupAt g).Canonical := by
  obtain ⟨-, -, -, hg⟩ := hs
  rw [State.groupAt, SMap.get_eq_find]
  cases h : SMap.find s.groups g with
  | none => exact ⟨rfl, rfl⟩
  | some x => exact hg (g, x) (SMap.mem_of_find h)

theorem of_find (hs : s.Canonical) {g : Nat} {x : Group} (h : SMap.find s.groups g = some x) : x.Canonical := by
  obtain ⟨-, -, -, hg⟩ := hs
  exact hg (g, x) (SMap.mem_of_find h)

theorem grp (hs : s.Canonical) : s.grp.Canonical := hs.groupAt _

theorem setGroup (hs : s.Canonical) (g : Nat) {x : Group} (hx : x.Canonical) : (s.setGroup g x).Canonical := by
  obtain ⟨hm, hh, hc, hg⟩ := hs
  refine ⟨hm, hh, hc, fun e he => ?_⟩
  rcases SMap.mem_put he with rfl | he
  · exact hx
  · exact hg e he

/-- Every group of the machine is changed at once. -/
theorem mapGroups (hs : s.Canonical) {f : Nat × Group → Nat × Group} (hf : ∀ e, e.2.Canonical → (f e).2.Canonical) : { s with groups := s.groups.map f }.Canonical := by
  obtain ⟨hm, hh, hc, hg⟩ := hs
  refine ⟨hm, hh, hc, fun e he => ?_⟩
  obtain ⟨x, hx, rfl⟩ := List.mem_map.1 he
  exact hf x (hg x hx)

theorem modGrp (hs : s.Canonical) {f : Group → Group} (hf : ∀ g, g.Canonical → (f g).Canonical) : (s.modGrp f).Canonical :=
  hs.setGroup _ (hf _ hs.grp)

theorem setW (hs : s.Canonical) (w : Warp) : (s.setW w).Canonical := hs

theorem modW (hs : s.Canonical) (f : Warp → Warp) : (s.modW f).Canonical := by
  unfold State.modW; grind [setW]

theorem setWarp (hs : s.Canonical) (h : Nat) (w : Warp) : (s.setWarp h w).Canonical := hs

theorem modWarp (hs : s.Canonical) (h : Nat) (f : Warp → Warp) : (s.modWarp h f).Canonical := by
  unfold State.modWarp; grind [setWarp]

theorem withWarp (hs : s.Canonical) (h : Nat) {f : State → State} (hf : ∀ s, s.Canonical → (f s).Canonical) : (s.withWarp h f).Canonical :=
  hf { s with cur := h } hs

theorem setGrid (hs : s.Canonical) (g : Nat) (x : Grid) : (s.setGrid g x).Canonical := hs

theorem modGrid (hs : s.Canonical) (g : Nat) (f : Grid → Grid) : (s.modGrid g f).Canonical := by
  unfold State.modGrid; grind [setGrid]

theorem setCtx (hs : s.Canonical) (c : Nat) (x : Ctx) : (s.setCtx c x).Canonical := hs

theorem setCore (hs : s.Canonical) (c : Nat) (x : Core) : (s.setCore c x).Canonical := hs

theorem modCore (hs : s.Canonical) (c : Nat) (f : Core → Core) : (s.modCore c f).Canonical := hs

theorem setDie (hs : s.Canonical) (d : Nat) (x : Die) : (s.setDie d x).Canonical := hs

theorem setQueue (hs : s.Canonical) (q : Nat) (x : Queue) : (s.setQueue q x).Canonical := hs

theorem setDom (hs : s.Canonical) (d : Nat) (x : Domain) : (s.setDom d x).Canonical := hs

theorem modDom (hs : s.Canonical) (d : Nat) (f : Domain → Domain) : (s.modDom d f).Canonical := hs

theorem modMgmt (hs : s.Canonical) (f : Mgmt → Mgmt) : (s.modMgmt f).Canonical := hs

/-! ### Translation (R199 to R206) -/

theorem holdLeaf (hs : s.Canonical) (core lane ctx : Nat) (x : Leaf) : (s.holdLeaf core lane ctx x).Canonical := ite hs ((hs.setCore ..).setDie ..)

theorem requestPage (hs : s.Canonical) (ctx va : Nat) : (s.requestPage ctx va).Canonical := by
  unfold State.requestPage; grind [State.canonical_iff]

/-! ### Caches (R208 to R228) -/

theorem onCaches (hs : s.Canonical) {f : Memory → Caches → Caches} (hf : ∀ m c, c.Canonical → (f m c).Canonical) : (s.onCaches f).Canonical := by
  obtain ⟨hm, hh, hc, hg⟩ := hs
  exact ⟨hm, hh, (hf s.mem s.cache hc).follow _, hg⟩

theorem takeBias (hs : s.Canonical) (accs : List (Nat × Nat)) : (s.takeBias accs).Canonical := by
  unfold State.takeBias; grind [State.canonical_iff]

theorem touchRead (hs : s.Canonical) (core pc hint : Nat) (accs : List (Nat × Nat)) : (s.touchRead core pc hint accs).Canonical := by
  unfold State.touchRead; grind [takeBias, onCaches, Caches.Canonical.read]

theorem touchWrite (hs : s.Canonical) (core pc hint : Nat) (accs : List (Nat × Nat)) : (s.touchWrite core pc hint accs).Canonical := by
  unfold State.touchWrite; grind [takeBias, onCaches, Caches.Canonical.write]

theorem touchHome (hs : s.Canonical) (die : Nat) (accs : List (Nat × Nat)) : (s.touchHome die accs).Canonical := by
  unfold State.touchHome; grind [takeBias, onCaches, Caches.Canonical.atHome]

theorem touchPref (hs : s.Canonical) (agent core pc hint : Nat) (accs : List (Nat × Nat)) : (s.touchPref agent core pc hint accs).Canonical := by
  unfold State.touchPref; grind [takeBias, onCaches, Caches.Canonical.byFrame, Caches.Canonical.ask]

theorem writeThrough (hs : s.Canonical) (pa : Nat) (bs : List Byte) : (s.writeThrough pa bs).Canonical := by
  obtain ⟨hm, hh, hc, hg⟩ := (hs.takeBias [(pa, bs.length)]).onCaches (f := fun m c => c.expel m (sectorsOf [(pa, bs.length)])) fun _ _ h => h.expel _
  exact ⟨Memory.wf_writeN hm _ _, hh, Memory.wf_writeN hc _ _, hg⟩

theorem pokeHome (hs : s.Canonical) (l : List (Nat × Byte)) : (s.pokeHome l).Canonical := by
  obtain ⟨hm, hh, hc, hg⟩ := hs.onCaches (f := fun m c => c.expel m (sectorsOf (l.map fun e => (e.1, 1)))) fun _ _ h => h.expel _
  exact ⟨wf_foldl_write hm fun _ _ h => Memory.wf_write h _ _, hh, wf_foldl_write hc fun _ _ h => Memory.wf_write h _ _, hg⟩

theorem pokePa (hs : s.Canonical) (l : List (Nat × Byte)) : (s.pokePa l).Canonical := (hs.takeBias ..).pokeHome ..

/-! ### Retiring, records, traps (R38 to R40, R379 to R388, R426) -/

theorem retire (hs : s.Canonical) (i : Instr) : (s.retire i).Canonical := hs.modW ..

theorem retireTo (hs : s.Canonical) (i : Instr) (tgt : Nat → DWord) : (s.retireTo i tgt).Canonical := hs.modW ..

theorem hold (hs : s.Canonical) : s.hold.Canonical := hs.modW ..

theorem holdFree (hs : s.Canonical) : (s.holdFree).Canonical := (hs.modCore ..).hold ..

theorem jumpRetry (hs : s.Canonical) : (s.jumpRetry).Canonical := hs.modW ..

theorem jumpDone (hs : s.Canonical) : (s.jumpDone).Canonical := ite (hs.modW ..) hs

theorem bar (hs : s.Canonical) {f : State} (hf : f.Canonical) : (s.bar f).Canonical := by
  unfold State.bar; split <;> assumption

theorem flushErrs (hs : s.Canonical) (fuel : Nat) : (s.flushErrs fuel).Canonical := by
  induction fuel generalizing s with
  | zero => exact hs
  | succ fuel ih => unfold State.flushErrs; grind [modMgmt, Memory.wf_writeN, State.canonical_iff]

theorem raiseErr (hs : s.Canonical) (r : ErrRec) : (s.raiseErr r).Canonical := ite hs ((hs.modMgmt ..).flushErrs ..)

theorem setTile (hs : s.Canonical) (t : Nat) (e : TileEntry) : (s.setTile t e).Canonical := hs

theorem modTile (hs : s.Canonical) (t : Nat) (f : TileEntry → TileEntry) : (s.modTile t f).Canonical := by
  unfold State.modTile; grind [setTile]

theorem surrender (hs : s.Canonical) (t : Nat) (x : Nat × Nat) : (s.surrender t x).Canonical := hs.modTile ..

theorem dropWarp (hs : s.Canonical) (h : Nat) : (s.dropWarp h).Canonical := by
  unfold State.dropWarp; grind [modCore, modTile, State.canonical_iff, foldl]

theorem unlive (hs : s.Canonical) (ctx idx : Nat) : (s.unlive ctx idx).Canonical := by
  unfold State.unlive; grind [writeThrough, requestPage, State.canonical_iff]

theorem flushUnlives (hs : s.Canonical) : (s.flushUnlives).Canonical := by
  unfold State.flushUnlives; grind [unlive, State.canonical_iff, foldl]

theorem killGrid (hs : s.Canonical) (grid code addr data : Nat) : (s.killGrid grid code addr data).Canonical := by
  unfold State.killGrid; grind [raiseErr, unlive, setCtx, dropWarp, setGrid, State.canonical_iff, foldl]

/-- The state after a trap record has been written. -/
theorem writeRecord_written (hs : s.Canonical) {ctx n : Nat} {bytes : List Byte} (h : s.writeRecord ctx bytes = .written t n) : t.Canonical := by
  unfold State.writeRecord at h; grind [writeThrough, setCtx, of_eq]

/-- The state in which a trap record waits for its slot or its page. -/
theorem writeRecord_wait (hs : s.Canonical) {ctx : Nat} {bytes : List Byte} (h : s.writeRecord ctx bytes = .wait t) : t.Canonical := by
  unfold State.writeRecord at h; grind [requestPage]

theorem endRoutine (hs : s.Canonical) (status cause : Nat) : (s.endRoutine status cause).Canonical := by
  unfold State.endRoutine; grind [dropWarp, raiseErr, surrender]

theorem faultRecords (hs : s.Canonical) (cause detail ea : Nat → Nat) (ls : List Nat) (first : Option Nat) : (s.faultRecords cause detail ea ls first).1.Canonical := by
  induction ls generalizing s first with
  | nil => exact hs
  | cons l ls ih => unfold State.faultRecords; grind [writeRecord_written, writeRecord_wait]

theorem handlerFault (hs : s.Canonical) (mask : Word) (cause : Nat → Nat) (detail ea : Nat → Nat) : (s.handlerFault mask cause detail ea).Canonical := by
  unfold State.handlerFault; grind [faultRecords, killGrid, hold, State.canonical_iff]

theorem takeTrap (hs : s.Canonical) (cause : Nat) (mask recMask : Word) (detail ea : Nat → Nat) (aux : Nat) (resume skip : DWord) : (s.takeTrap cause mask recMask detail ea aux resume skip).Canonical := by
  unfold State.takeTrap; grind [modW, handlerFault, endRoutine]

theorem weigh (hs : s.Canonical) (i : Instr) : (s.weigh i).Canonical := hs.modW ..

theorem trapAll (hs : s.Canonical) (i : Instr) (cause detail aux : Nat) : (s.trapAll i cause detail aux).Canonical := hs.takeTrap ..

theorem trapSelf (hs : s.Canonical) (i : Instr) (cause : Nat) (mask : Word) (detail ea : Nat → Nat) : (s.trapSelf i cause mask detail ea).Canonical := by
  unfold State.trapSelf; grind [retire, weigh, takeTrap, modW]

theorem illegalOperand (hs : s.Canonical) (i : Instr) (detail : Nat) : (s.illegalOperand i detail).Canonical := hs.trapAll ..

theorem memFaultAll (hs : s.Canonical) (i : Instr) (detail ea aux : Nat) : (s.memFaultAll i detail ea aux).Canonical := hs.takeTrap ..

theorem noteSlice (hs : s.Canonical) (n : Nat) (x : SliceNote) : (s.noteSlice n x).Canonical := hs.modW ..

theorem copyTrap (hs : s.Canonical) (i : Instr) (detail ea : Nat) (at_ : Nat × Bool × Nat) : (s.copyTrap i detail ea at_).Canonical :=
  (hs.memFaultAll ..).modW ..

theorem memFault (hs : s.Canonical) (i : Instr) (mask : Word) (detail ea : Nat → Nat) : (s.memFault i mask detail ea).Canonical := ite hs (hs.takeTrap ..)

/-! ### Operands and the shapes of an instruction (R81, R244, R245) -/

theorem popFault (hs : s.Canonical) (i : Instr) (t q : Nat) (e : QEntry) : (s.popFault i t q e).Canonical := (hs.takeTrap ..).noteSlice ..

theorem popStop (hs : s.Canonical) (i : Instr) (t : Nat) (x : PopStop) : (s.popStop i t x).Canonical := by
  unfold State.popStop; grind [popFault, hold, illegalOperand, noteSlice]

theorem withSrcs (hs : s.Canonical) (i : Instr) (regs : List Nat) {k : List (Nat → Word) → State → State} (hk : ∀ fs s, s.Canonical → (k fs s).Canonical) :
    (s.withSrcs i regs k).Canonical := by
  unfold State.withSrcs; grind [popStop, modW]

theorem lanewise (hs : s.Canonical) (i : Instr) (lat : Nat) (x : Bx) (d : Vr) (srcs : List Vr) (f : List Word → Word) : (s.lanewise i lat x d srcs f).Canonical := by
  unfold State.lanewise
  exact ite (hs.illegalOperand _ _) (ite (hs.illegalOperand _ _) (hs.withSrcs _ _ fun _ _ h => (h.modW _).retire _))

theorem crosslane (hs : s.Canonical) (i : Instr) (lat : Nat) (d : Vr) (srcs : List Vr) (f : List (Nat → Word) → Nat → Word) : (s.crosslane i lat d srcs f).Canonical := by
  unfold State.crosslane; grind [illegalOperand, withSrcs, modW, retire]

theorem uniform (hs : s.Canonical) (i : Instr) (lat : Nat) (kd : Kr) (x : DWord) : (s.uniform i lat kd x).Canonical := (hs.modW ..).retire ..

theorem predicate (hs : s.Canonical) (i : Instr) (lat : Nat) (p : Pr) (f : Nat → Bool) : (s.predicate i lat p f).Canonical := (hs.modW ..).retire ..

theorem selectBlock (hs : s.Canonical) (i : Instr) (x : Bx) (d a b : Vr) (p : Pr) : (s.selectBlock i x d a b p).Canonical := by
  unfold State.selectBlock; grind [illegalOperand, withSrcs, modW, retire]

theorem execIcmp (hs : s.Canonical) (h : Hdr) (p : Pr) (a b : Vr) (cond : ICond) (comb : Comb) (q : Pr) : Out.Canonical (Machine.execIcmp h p a b cond comb q s) := by
  unfold Machine.execIcmp; grind [withSrcs, predicate, Out.canonical_next]

theorem execKfromv (hs : s.Canonical) (h : Hdr) (kd : Kr) (va : Vr) (lane : BitVec 6) (f : KfvMode) : Out.Canonical (Machine.execKfromv h kd va lane f s) := by
  unfold Machine.execKfromv; grind [withSrcs, uniform, Out.canonical_next]

theorem execVtop (hs : s.Canonical) (h : Hdr) (p : Pr) (va : Vr) : Out.Canonical (Machine.execVtop h p va s) := by
  unfold Machine.execVtop; grind [withSrcs, predicate, Out.canonical_next]

theorem execQhlp (hs : s.Canonical) (h : Hdr) (mode : HelperMode) : Out.Canonical (Machine.execQhlp h mode s) := (hs.modW ..).retire ..

theorem lanewiseF (hs : s.Canonical) (i : Instr) (x : Bx) (d : Vr) (srcs : List Vr) (f : BitVec 4 → List Word → Word × FFlags) : (s.lanewiseF i x d srcs f).Canonical := by
  unfold State.lanewiseF
  refine ite (hs.illegalOperand _ _) (ite (hs.illegalOperand _ _) (hs.withSrcs _ _ fun _ _ h => ?_))
  dsimp only
  split <;> exact ((h.modW _).modW _).retire _

/-! ### Barriers and exits (R271 to R275) -/

theorem yieldHere (hs : s.Canonical) : (s.yieldHere).Canonical := hs.modW ..

theorem leaveLanes (hs : s.Canonical) (m : Word) : (s.leaveLanes m).Canonical := ite hs (hs.modW ..)

theorem mergeSpad (hs : s.Canonical) (g : Nat) : (s.mergeSpad g).Canonical := by
  have hx := hs.groupAt g
  unfold State.mergeSpad; grind [foldl, modWarp, setGroup, Group.canonical_iff, Group.Canonical.foldl, wf_foldl_write, Memory.wf_write]

theorem endPhase (hs : s.Canonical) (g id q clk : Nat) : (s.endPhase g id q clk).Canonical := by
  unfold State.endPhase; grind [mergeSpad, setGroup, modWarp, foldl, groupAt, Group.canonical_iff]

theorem arrive (hs : s.Canonical) (h id cnt clk : Nat) : (s.arrive h id cnt clk).Canonical := by
  unfold State.arrive; grind [setGroup, setWarp, groupAt, Group.canonical_iff]

theorem barSettle (hs : s.Canonical) (g id fuel : Nat) : (s.barSettle g id fuel).Canonical := by
  induction fuel generalizing s with
  | zero => exact hs
  | succ fuel ih => unfold State.barSettle; grind [foldl, arrive, endPhase]

theorem gbarSettle (hs : s.Canonical) (grid : Nat) : (s.gbarSettle grid).Canonical := by
  unfold State.gbarSettle; grind [setGrid, modWarp, foldl]

theorem parkAt (hs : s.Canonical) (h : Nat) (on : ParkOn) (clk : Nat) : (s.parkAt h on clk).Canonical := (hs.modCore ..).modWarp ..

theorem exitArrive (hs : s.Canonical) (h clk : Nat) : (s.exitArrive h clk).Canonical := by
  unfold State.exitArrive; grind [modWarp, barSettle, parkAt, setGrid, gbarSettle, foldl]

theorem exited (hs : s.Canonical) (i : Instr) (clk : Nat) : (s.exited i clk).Canonical := by
  unfold State.exited; grind [modDom, exitArrive]

theorem barArriving (hs : s.Canonical) (i : Instr) (id : BitVec 4) (kcnt : Kr) {k : State → State} (hk : ∀ s, s.Canonical → (k s).Canonical) :
    (s.barArriving i id kcnt k).Canonical := by
  unfold State.barArriving; grind [illegalOperand, yieldHere, modW, leaveLanes, arrive]

theorem barWaiting (hs : s.Canonical) (i : Instr) (id : BitVec 4) : (s.barWaiting i id).Canonical := ite (hs.retire ..) (hs.modW ..)

theorem execBarSync (hs : s.Canonical) (h : Hdr) (id : BitVec 4) (kcnt : Kr) (scope : Scope) : Out.Canonical (Machine.execBarSync h id kcnt scope s) := by
  unfold Machine.execBarSync; grind [barArriving, barWaiting, barSettle, Out.canonical_next]

theorem execBarArrive (hs : s.Canonical) (h : Hdr) (id : BitVec 4) (kcnt : Kr) (scope : Scope) : Out.Canonical (Machine.execBarArrive h id kcnt scope s) := by
  unfold Machine.execBarArrive; grind [barArriving, retire, barSettle, Out.canonical_next]

theorem execBart (hs : s.Canonical) (h : Hdr) (id : BitVec 4) (ktime : Kr) (scope : Scope) (p : Pr) (dc : Dc) : Out.Canonical (Machine.execBart h id ktime scope p dc s) := by
  unfold Machine.execBart; grind [modW, retire, barWaiting, Out.canonical_next]

theorem execBartTimeout (hs : s.Canonical) (wp seq : Nat) : Out.Canonical (Machine.execBartTimeout wp seq s) := by
  unfold Machine.execBartTimeout; grind [modWarp, Out.canonical_next]

theorem execGbar (hs : s.Canonical) (h : Hdr) : Out.Canonical (Machine.execGbar h s) := by
  unfold Machine.execGbar; grind [illegalOperand, trapAll, setGrid, modW, gbarSettle, Out.canonical_next]

/-! ### What accesses change (R189, R302 to R304) -/

theorem spillRecords (hs : s.Canonical) (old : List FoldEntry) : (s.spillRecords old).Canonical := by
  unfold State.spillRecords; grind [writeThrough, State.canonical_iff, foldl]

theorem clearLost (hs : s.Canonical) (l : List Nat) : (s.clearLost l).Canonical := hs

theorem clearWhole (hs : s.Canonical) (l : Nat) (vas pas : List (Nat × Nat)) : (s.clearWhole l vas pas).Canonical := by
  unfold State.clearWhole; grind [clearLost, modW, modWarp, modDom]

theorem storeAs (hs : s.Canonical) (spad : Bool) (l va pa : Nat) (bs : List Byte) : (s.storeAs spad l va pa bs).Canonical := by
  unfold State.storeAs; grind [modW, modWarp, modGrp, modDom, setGroup, groupAt, Group.Canonical.foldl, Group.Canonical.putTurn, Group.Canonical.setSide, Group.Canonical.side, Memory.wf_writeN, State.canonical_iff]

theorem storeList (hs : s.Canonical) (spad : Bool) (core pc hint : Nat) (xs : List (Nat × Nat × Nat × List Byte)) : (s.storeList spad core pc hint xs).Canonical := by
  unfold State.storeList; grind [touchWrite, storeAs, spillRecords, clearWhole, foldl]

theorem writeWord (hs : s.Canonical) (spad : Bool) (sc : Scope) (va pa n x : Nat) : (s.writeWord spad sc va pa n x).Canonical := by
  unfold State.writeWord; grind [modGrp, modDom, Group.Canonical.foldl, Group.Canonical.putTurn, Group.Canonical.setSide, Group.Canonical.side, Memory.wf_writeN, writeThrough, touchHome, State.canonical_iff]

/-! ### Requests that perform (R174, R190, R238, R264, R298, R309, R329) -/

theorem touchLoads (hs : s.Canonical) (spad : Bool) (pc n hint : Nat) (ops : List ReqOp) : (s.touchLoads spad pc n hint ops).Canonical :=
  ite hs (hs.touchRead ..)

theorem storeOps (hs : s.Canonical) (spad : Bool) (pc n hint : Nat) (ops : List ReqOp) : (s.storeOps spad pc n hint ops).Canonical := hs.storeList ..

theorem biasOps (hs : s.Canonical) (spad : Bool) (n : Nat) (ops : List ReqOp) : (s.biasOps spad n ops).Canonical := ite hs (hs.takeBias ..)

theorem atomOps (hs : s.Canonical) (spad : Bool) (sc : Scope) (op : AtomOp) (n : Nat) (ops : List ReqOp) : (s.atomOps spad sc op n ops).1.Canonical := by
  unfold State.atomOps; grind [writeWord, biasOps, foldl_fst]

theorem unlockOp (hs : s.Canonical) (r : OrdReq) (sc : Scope) (p : Nat) (o : ReqOp) : (s.unlockOp r sc p o).1.Canonical := by
  unfold State.unlockOp; grind [biasOps, writeWord, modDom]

theorem lockOp (hs : s.Canonical) (sc : Scope) (o : ReqOp) : (s.lockOp sc o).1.Canonical := by
  unfold State.lockOp; grind [biasOps, writeWord]

theorem zeroFill (hs : s.Canonical) (pa len : Nat) : (s.zeroFill pa len).Canonical := by
  unfold State.zeroFill; grind [takeBias, modDom, writeThrough, clearLost]

theorem addOps (hs : s.Canonical) (spad : Bool) (ops : List ReqOp) : (s.addOps spad ops).Canonical := by
  unfold State.addOps; grind [writeWord, biasOps, foldl]

theorem queueAtTile (hs : s.Canonical) (t : Nat) (r : OrdReq) : (s.queueAtTile t r).Canonical := hs.modTile ..

end State.Canonical
end Sys2Proof.Machine
end

section
/-! SUPPORT. The canonical form of every byte memory through requests, accesses, coherence traffic and control instructions. -/

namespace Sys2Proof.Machine

-- One proof is checked after another: hundreds of short lemmas checked at once need more threads than there is room for.
set_option Elab.async false
namespace State.Canonical

variable {s t : State}

theorem copyDone (hs : s.Canonical) (cp : Copy) : (s.copyDone cp).Canonical := ite hs (hs.modWarp ..)

theorem copyNow (hs : s.Canonical) (cp : Copy) : (s.copyNow cp).1.Canonical := by
  unfold State.copyNow; grind [storeList, foldl_fst]

theorem copyMoved (hs : s.Canonical) (grp : Nat) (side : Bool) (ch n : Nat) : (s.copyMoved grp side ch n).Canonical := by
  unfold State.copyMoved; grind [setGroup, copyDone, groupAt, Group.Canonical.setChan]

theorem copyPiece (hs : s.Canonical) (grp : Nat) (side : Bool) (ch : Nat) (pass : Bool) : (s.copyPiece grp side ch pass).Canonical := by
  unfold State.copyPiece; grind [setGroup, copyMoved, requestPage, queueAtTile, storeList, touchRead, groupAt, Group.Canonical.setSide, Group.Canonical.setChan, Group.Canonical.side, Memory.wf_writeN]

theorem copyAs (hs : s.Canonical) (grp : Nat) (side : Bool) (ch : Nat) (pass : Bool) : (s.copyAs grp side ch pass).Canonical := by
  unfold State.copyAs; grind [withWarp, copyPiece]

theorem copyCatch (hs : s.Canonical) (dom : Nat) : (s.copyCatch dom).Canonical := by
  unfold State.copyCatch
  refine hs.mapGroups fun e he => ?_
  split <;> exact he

theorem modSlice (hs : s.Canonical) (f : Slice → Slice) : (s.modSlice f).Canonical := hs.modW ..

theorem sliceNext (hs : s.Canonical) (i : Instr) (res : Option (Kr × DWord)) : (s.sliceNext i res).Canonical := hs.modSlice ..

theorem dropSliceLoads (hs : s.Canonical) (h : Nat) : (s.dropSliceLoads h).Canonical := by
  unfold State.dropSliceLoads; grind [modTile, State.canonical_iff, foldl]

theorem sliceGo (hs : s.Canonical) (i : Instr) (ops : List ReqOp) : (s.sliceGo i ops).Canonical := by
  unfold State.sliceGo; grind [holdLeaf, touchRead, queueAtTile, modSlice, State.canonical_iff, foldl]

theorem sliceLoad (hs : s.Canonical) (i : Instr) : (s.sliceLoad i).Canonical := by
  unfold State.sliceLoad; grind [requestPage, sliceGo, foldl]

theorem sliceServe (hs : s.Canonical) (r : OrdReq) : (s.sliceServe r).Canonical := ite (hs.sliceGo ..) hs

theorem performHere (hs : s.Canonical) (r : OrdReq) : (s.performHere r).1.Canonical := by
  unfold State.performHere; grind [touchLoads, storeOps, atomOps, unlockOp, addOps, zeroFill, exitArrive, copyAs, sliceServe, lockOp, modW, foldl]

theorem finish (hs : s.Canonical) (r : OrdReq) (ws : List RegWrite) : (s.finish r ws).Canonical := hs.modWarp ..

theorem perform (hs : s.Canonical) (r : OrdReq) : (s.perform r).Canonical := by
  unfold State.perform; grind [withWarp, performHere, finish]

theorem serve (hs : s.Canonical) (r : OrdReq) : (s.serve r).Canonical := by
  unfold State.serve; grind [perform, queueAtTile, foldl]

/-- The state of a waiting request that waits on. -/
theorem again_wait (hs : s.Canonical) {r r' : OrdReq} (h : s.again r = .wait t r') : t.Canonical := by
  unfold State.again at h; grind [foldl, requestPage]

/-- The state of a waiting request of which nothing is left. -/
theorem again_over (hs : s.Canonical) {r : OrdReq} (h : s.again r = .over_ t) : t.Canonical := by
  unfold State.again at h; grind [modWarp, withWarp, handlerFault, endRoutine, finish]

/-- The state of a waiting request that may perform. -/
theorem again_go (hs : s.Canonical) {r r' : OrdReq} (h : s.again r = .go t r') : t.Canonical := by
  unfold State.again at h; grind [modWarp, withWarp, handlerFault, endRoutine]

theorem performAgain (hs : s.Canonical) (r : OrdReq) : (s.performAgain r).1.Canonical := by
  unfold State.performAgain; grind [again_wait, again_over, again_go, withWarp, serve]

theorem retry (hs : s.Canonical) (r : OrdReq) : (s.retry r).Canonical := by
  unfold State.retry; grind [performAgain, State.canonical_iff]

theorem reissue (hs : s.Canonical) (r : OrdReq) : (s.reissue r).Canonical := by
  unfold State.reissue; grind [withWarp, modW, modDom, retry, State.canonical_iff]

theorem againHere (hs : s.Canonical) (r : OrdReq) : (s.againHere r).1.Canonical := by
  unfold State.againHere; grind [again_wait, again_over, again_go]

theorem retranslate (hs : s.Canonical) (hit : OrdReq → Bool) : (s.retranslate hit).Canonical := by
  unfold State.retranslate; grind [modTile, retry, againHere, modDom, State.canonical_iff, foldl, foldl_fst]

theorem request (hs : s.Canonical) (r : OrdReq) : (s.request r).Canonical := ite (hs.perform ..) (hs.modDom ..)

/-! ### Accesses, pref and preq (R182 to R198) -/

theorem access (hs : s.Canonical) (ht : t.Canonical) (i : Instr) (a : AccKind) (mask : Word) (ea : Nat → Nat) (vals : Nat → List DWord) :
    (s.access i a mask ea vals t).Canonical := by
  have hold_leaf (s : State) (r : Nat × LaneRes) (h : s.Canonical) :
      (match r.2 with | .ok _ (some x) => s.holdLeaf s.w.core r.1 s.ctxNo x | _ => s : State).Canonical := by
    split
    · exact h.holdLeaf _ _ _ _
    · exact h
  unfold State.access
  refine ite (hold (foldl hs fun _ _ h => h.requestPage _ _)) <| ite (hs.handlerFault _ _ _ _) <| ite (ht.endRoutine _ _) <| ite (ht.endRoutine _ _) <|
    ite (hs.trapAll _ _ _ _) <| ite hs.hold <| ite (hs.memFaultAll _ _ _ _) <| ite (hs.memFault _ _ _ _) ?_
  have hu := memFault (foldl (l := t.tryLanes a.spad a.acc a.n (lanesOf mask) ea) ht hold_leaf) i
  exact ite (hu _ _ _) (retire (ite (((hu _ _ _).modW _).request _) (((hu _ _ _).modW _).serve _)) _)

theorem loadV (hs : s.Canonical) (i : Instr) (spad : Bool) (d : Vr) (kbase : Kr) (voff : Vr) (n scale : Nat) (disp : Int) (probe : Pr) :
    (s.loadV i spad d kbase voff n scale disp probe).Canonical := by
  unfold State.loadV
  exact ite (hs.illegalOperand _ _) (ite (hs.illegalOperand _ _) (hs.withSrcs _ _ fun _ _ h => hs.access h _ _ _ _ _))

theorem storeV (hs : s.Canonical) (i : Instr) (spad : Bool) (d : Vr) (kbase : Kr) (voff : Vr) (n scale : Nat) (disp : Int) :
    (s.storeV i spad d kbase voff n scale disp).Canonical := by
  unfold State.storeV
  exact ite (hs.illegalOperand _ _) (hs.withSrcs _ _ fun _ _ h => hs.access h _ _ _ _ _)

theorem execLdk (hs : s.Canonical) (h : Hdr) (kd kbase : Kr) (sx : Bool) (size : ESize) (imm : BitVec 16) (dc : Dc) : Out.Canonical (Machine.execLdk h kd kbase sx size imm dc s) := by
  unfold Machine.execLdk; grind [access, Out.canonical_next]

theorem execStk (hs : s.Canonical) (h : Hdr) (kd kbase : Kr) (size : ESize) (imm : BitVec 16) (dc : Dc) : Out.Canonical (Machine.execStk h kd kbase size imm dc s) := by
  unfold Machine.execStk; grind [access, Out.canonical_next]

theorem execPref (hs : s.Canonical) (h : Hdr) (l2 : Bool) (kbase : Kr) (voff : Vr) (size : ESize) (imm : BitVec 16) (hint : BitVec 3) (scale : Scale) : Out.Canonical (Machine.execPref h l2 kbase voff size imm hint scale s) := by
  unfold Machine.execPref; grind [withSrcs, touchPref, retire, Out.canonical_next]

theorem semAdd (hs : s.Canonical) (grp : Nat) (twin : Bool) (n : Nat) (v : Word) : (s.semAdd grp twin n v).Canonical := by
  unfold State.semAdd; grind [setGroup, groupAt, Group.canonical_iff]

theorem preqDone (hs : s.Canonical) (q : Preq) : (s.preqDone q).Canonical := by
  unfold State.preqDone; grind [modWarp, semAdd]

theorem execPreq (hs : s.Canonical) (h : Hdr) (klen kbase : Kr) (sem : BitVec 6) (useSem : Bool) (imm : BitVec 16) (dc : Dc) : Out.Canonical (Machine.execPreq h klen kbase sem useSem imm dc s) := by
  unfold Machine.execPreq; grind [modW, preqDone, retire, memFaultAll, hold, requestPage, modCore, foldl, Out.canonical_next]

theorem execPreqComplete (hs : s.Canonical) (core idx : Nat) : Out.Canonical (Machine.execPreqComplete core idx s) := by
  unfold Machine.execPreqComplete; grind [modCore, preqDone, Out.canonical_next]

theorem setResident (hs : s.Canonical) (ctx va : Nat) : (s.setResident ctx va).Canonical := by
  unfold State.setResident; grind [writeThrough, foldl]

theorem execPageResident (hs : s.Canonical) (ctx va : Nat) : Out.Canonical (Machine.execPageResident ctx va s) := by
  unfold Machine.execPageResident; grind [setResident, State.canonical_iff, Out.canonical_next]

/-! ### Atomics and locks (R263 to R311) -/

theorem atomic (hs : s.Canonical) (i : Instr) (spad : Bool) (d : Option Nat) (kbase : Kr) (voff : Vr) (n : Nat) (vs : Vr) (op : AtomOp) (scope : Scope) (imm : BitVec 13) :
    (s.atomic i spad d kbase voff n vs op scope imm).Canonical := by
  unfold State.atomic
  exact ite (hs.illegalOperand _ _) (ite (hs.illegalOperand _ _) (hs.withSrcs _ _ fun _ _ h => hs.access h _ _ _ _ _))

theorem clkTo (hs : s.Canonical) (i : Instr) (n : Nat) : (s.clkTo i n).Canonical := by
  unfold State.clkTo; grind [trapAll, modW, retire]

theorem askTile (hs : s.Canonical) (i : Instr) (t : Nat) (o : ReqOp) : (s.askTile i t o).Canonical := ite hs (hs.queueAtTile ..)

theorem locking (hs : s.Canonical) (i : Instr) (p : Pr) (kbase kval : Kr) (imm : BitVec 16) (scope : Scope) {at_ : State → Nat → ReqOp → State} {fail : State → Nat → State}
    (ha : ∀ s t o, s.Canonical → (at_ s t o).Canonical) (hf : ∀ t n, t.Canonical → (fail t n).Canonical) : (s.locking i p kbase kval imm scope at_ fail).Canonical := by
  unfold State.locking; grind [modW, retire, memFaultAll, requestPage, hold, illegalOperand, holdLeaf, lockOp]

theorem execLock (hs : s.Canonical) (h : Hdr) (kbase kval : Kr) (imm : BitVec 16) (dc : Dc) (scope : Scope) : Out.Canonical (Machine.execLock h kbase kval imm dc scope s) := by
  unfold Machine.execLock; grind [modW, retire, locking, askTile, holdFree, illegalOperand, jumpRetry, Out.canonical_next]

theorem execLockTry (hs : s.Canonical) (h : Hdr) (p : Pr) (kbase kval : Kr) (imm : BitVec 16) (dc : Dc) (scope : Scope) : Out.Canonical (Machine.execLockTry h p kbase kval imm dc scope s) := by
  unfold Machine.execLockTry; grind [locking, hold, modW, queueAtTile, retire, Out.canonical_next]

theorem execUnlock (hs : s.Canonical) (h : Hdr) (p : Pr) (kbase kval : Kr) (imm : BitVec 16) (dc : Dc) (scope : Scope) : Out.Canonical (Machine.execUnlock h p kbase kval imm dc scope s) := by
  unfold Machine.execUnlock; grind [illegalOperand, access, Out.canonical_next]

/-! ### Range maintenance (R233 to R238) -/

theorem discardSector (hs : s.Canonical) (device : Bool) (die sec : Nat) : (s.discardSector device die sec).Canonical := by
  unfold State.discardSector; grind [State.canonical_iff, Memory.wf_writeN]

theorem maintSector (hs : s.Canonical) (op : MaintOp) (device : Bool) (die : Nat) (whole : Bool) (sec : Nat) : (s.maintSector op device die whole sec).Canonical := by
  unfold State.maintSector; grind [onCaches, Caches.Canonical.recut, Caches.Canonical.toPoint, Caches.Canonical.dropIn, discardSector, Caches.Canonical.eraseL2, Caches.Canonical.l2Take, foldl, Caches.Canonical.foldl, Caches.Canonical.of_home]

theorem maintRange (hs : s.Canonical) (op : MaintOp) (device : Bool) (die pa n : Nat) : (s.maintRange op device die pa n).Canonical := by
  unfold State.maintRange; grind [maintSector, foldl]

theorem overPages (hs : s.Canonical) (inv : Bool) (ea len : Nat) {act : State → Nat → Nat → Nat → State} (ha : ∀ s a pa n, s.Canonical → (act s a pa n).Canonical)
    (l : List (Nat × Except Nat Leaf)) : (s.overPages inv ea len act l).1.Canonical := by
  induction l generalizing s with
  | nil => exact hs
  | cons e l ih => unfold State.overPages; grind

theorem maintain (hs : s.Canonical) (i : Instr) (op : MaintOp) (klen kbase : Kr) (scope : Scope) (imm : BitVec 16) : (s.maintain i op klen kbase scope imm).Canonical := by
  unfold State.maintain; grind [modW, retire, memFaultAll, endRoutine, overPages, maintRange]

theorem zeroRange (hs : s.Canonical) (i : Instr) (klen kbase : Kr) (imm : BitVec 16) : (s.zeroRange i klen kbase imm).Canonical := by
  unfold State.zeroRange; grind [illegalOperand, modW, retire, memFaultAll, endRoutine, request, serve]

theorem execCinv (hs : s.Canonical) (h : Hdr) (klen kbase : Kr) (scope : Scope) (imm : BitVec 16) (dc : Dc) (zf : Bool) : Out.Canonical (Machine.execCinv h klen kbase scope imm dc zf s) :=
  ite (hs.zeroRange ..) (hs.maintain ..)

/-! ### Coherence traffic and failures (R204 to R232) -/

theorem execQuireFill (hs : s.Canonical) (agent frame first last : Nat) (qs : QState) : Out.Canonical (Machine.execQuireFill agent frame first last qs s) := by
  unfold Machine.execQuireFill; grind [onCaches, Caches.Canonical.fits, Caches.Canonical.grant, Caches.Canonical.of_home, Out.canonical_next]

theorem execGetm (hs : s.Canonical) (agent frame first last : Nat) : Out.Canonical (Machine.execGetm agent frame first last s) := by
  unfold Machine.execGetm; grind [onCaches, Caches.Canonical.askCoh, Out.canonical_next]

theorem execGetsRequest (hs : s.Canonical) (agent frame first last : Nat) : Out.Canonical (Machine.execGetsRequest agent frame first last s) := by
  unfold Machine.execGetsRequest; grind [onCaches, Caches.Canonical.askCoh, Out.canonical_next]

theorem execUpg (hs : s.Canonical) (agent frame first last : Nat) : Out.Canonical (Machine.execUpg agent frame first last s) := by
  unfold Machine.execUpg; grind [onCaches, Caches.Canonical.askCoh, Out.canonical_next]

theorem execCoherenceGrant (hs : s.Canonical) (agent frame first last : Nat) : Out.Canonical (Machine.execCoherenceGrant agent frame first last s) := by
  unfold Machine.execCoherenceGrant; grind [onCaches, Caches.Canonical.fits, Caches.Canonical.grant, Caches.Canonical.of_home, Out.canonical_next]

theorem execPutm (hs : s.Canonical) (agent frame first last : Nat) : Out.Canonical (Machine.execPutm agent frame first last s) := by
  unfold Machine.execPutm; grind [onCaches, Caches.Canonical.writeBack, Caches.Canonical.put, foldl, Caches.Canonical.foldl, Out.canonical_next]

theorem execWriteBackAcknowledgement (hs : s.Canonical) (agent frame first last : Nat) : Out.Canonical (Machine.execWriteBackAcknowledgement agent frame first last s) := by
  unfold Machine.execWriteBackAcknowledgement; grind [onCaches, Caches.Canonical.put, Out.canonical_next]

theorem execPuts (hs : s.Canonical) (agent frame first last : Nat) : Out.Canonical (Machine.execPuts agent frame first last s) := by
  unfold Machine.execPuts; grind [onCaches, Caches.Canonical.recut, Out.canonical_next]

theorem execSnpShare (hs : s.Canonical) (agent frame first last : Nat) : Out.Canonical (Machine.execSnpShare agent frame first last s) := by
  unfold Machine.execSnpShare; grind [onCaches, Caches.Canonical.recut, Caches.Canonical.inFlight, Out.canonical_next]

theorem execSnpInv (hs : s.Canonical) (agent frame first last : Nat) : Out.Canonical (Machine.execSnpInv agent frame first last s) := by
  unfold Machine.execSnpInv; grind [onCaches, Caches.Canonical.recut, Caches.Canonical.supply, Caches.Canonical.inFlight, Out.canonical_next]

theorem execInFlightReply (hs : s.Canonical) (agent frame first last : Nat) : Out.Canonical (Machine.execInFlightReply agent frame first last s) := by
  unfold Machine.execInFlightReply; grind [onCaches, Caches.Canonical.inFlight, Out.canonical_next]

theorem execAbsorbedAck (hs : s.Canonical) (agent frame first last : Nat) : Out.Canonical (Machine.execAbsorbedAck agent frame first last s) := by
  unfold Machine.execAbsorbedAck; grind [onCaches, Caches.Canonical.put, Caches.Canonical.l2Take, Caches.Canonical.toL2, Caches.Canonical.grant, Caches.Canonical.settle, foldl, Caches.Canonical.foldl, Caches.Canonical.of_home, Out.canonical_next]

theorem execSnoopReply (hs : s.Canonical) (agent frame first last : Nat) : Out.Canonical (Machine.execSnoopReply agent frame first last s) := by
  unfold Machine.execSnoopReply; grind [onCaches, Caches.Canonical.of_home, Out.canonical_next]

theorem execPeerForwardProbe (hs : s.Canonical) (core cluster frame first last : Nat) : Out.Canonical (Machine.execPeerForwardProbe core cluster frame first last s) := by
  unfold Machine.execPeerForwardProbe; grind [onCaches, Caches.Canonical.touchAcc, Caches.Canonical.place, Caches.Canonical.askCoh, foldl, Caches.Canonical.foldl, Caches.Canonical.of_home, Out.canonical_next]

theorem dropForwarded (hs : s.Canonical) (ctx : Nat) : (s.dropForwarded ctx).Canonical := by
  unfold State.dropForwarded; grind [onCaches, Caches.Canonical.put, foldl, Caches.Canonical.foldl]

theorem drainRange (hs : s.Canonical) (pa n : Nat) : (s.drainRange pa n).Canonical := hs.maintRange ..

theorem execBackInvalidation (hs : s.Canonical) (frame first last : Nat) : Out.Canonical (Machine.execBackInvalidation frame first last s) := by
  unfold Machine.execBackInvalidation; grind [drainRange, onCaches, Caches.Canonical.recut, Caches.Canonical.inFlight, Caches.Canonical.askCoh, foldl, Caches.Canonical.foldl, Out.canonical_next]

theorem flipBias (hs : s.Canonical) (pa : Nat) (toHost : Bool) : (s.flipBias pa toHost).Canonical := by
  unfold State.flipBias; grind [drainRange, State.canonical_iff]

theorem execBiasFlip (hs : s.Canonical) (page : Nat) (toHost : Bool) : Out.Canonical (Machine.execBiasFlip page toHost s) := ite (hs.flipBias ..) hs

theorem hostTakes (hs : s.Canonical) (page : Nat) : (s.hostTakes page).Canonical := by
  unfold State.hostTakes; grind [flipBias]

theorem dropLeaves (hs : s.Canonical) (va len : Nat) (pasid : Option Nat) : (s.dropLeaves va len pasid).Canonical := by
  unfold State.dropLeaves; grind [State.canonical_iff]

theorem invalidate (hs : s.Canonical) (va len : Nat) (pasid : Option Nat) : (s.invalidate va len pasid).Canonical := by
  unfold State.invalidate; grind [dropLeaves, retranslate, State.canonical_iff]

theorem execInvalidationCompletion (hs : s.Canonical) (idx : Nat) : Out.Canonical (Machine.execInvalidationCompletion idx s) := by
  unfold Machine.execInvalidationCompletion; grind [State.canonical_iff, Out.canonical_next]

theorem losePage (hs : s.Canonical) (pa : Nat) : (s.losePage pa).Canonical := by
  unfold State.losePage; grind [writeThrough, invalidate, raiseErr, State.canonical_iff, foldl]

theorem loseRun (hs : s.Canonical) (die : Option Nat) (frame first last : Nat) : (s.loseRun die frame first last).Canonical := by
  unfold State.loseRun; grind [discardSector, raiseErr, losePage, State.canonical_iff, foldl]

theorem agentGone (hs : s.Canonical) (agent : Nat) : (s.agentGone agent).Canonical := by
  unfold State.agentGone; grind [loseRun, onCaches, Caches.Canonical.put, Caches.Canonical.l2Take, foldl, Caches.Canonical.foldl, Caches.Canonical.of_home]

theorem salvage (hs : s.Canonical) (home frame first last : Nat) : (s.salvage home frame first last).Canonical := by
  unfold State.salvage; grind [writeThrough, raiseErr, State.canonical_iff]

theorem execHomeFailure (hs : s.Canonical) (home base len : Nat) : Out.Canonical (Machine.execHomeFailure home base len s) := by
  unfold Machine.execHomeFailure; grind [salvage, Caches.Canonical.recut, Caches.Canonical.dropFwd, onCaches, State.canonical_iff, foldl, Caches.Canonical.foldl, Out.canonical_next]

/-! ### Control instructions (R66 to R79) -/

theorem jump (hs : s.Canonical) (i : Instr) (ka : Kr) (link : Warp → Warp) : (s.jump i ka link).Canonical := by
  unfold State.jump; grind [modW, retireTo, trapAll]

theorem execCall (hs : s.Canonical) (h : Hdr) (k : Kr) (off : BitVec 14) : Out.Canonical (Machine.execCall h k off s) := (hs.modW ..).retireTo ..

theorem execExit (hs : s.Canonical) (h : Hdr) : Out.Canonical (Machine.execExit h s) := by
  unfold Machine.execExit; grind [killGrid, endRoutine, modW, exited, retire, Out.canonical_next]

theorem holdRun (hs : s.Canonical) : (s.holdRun).Canonical := ite (hs.holdFree ..) (hs.hold ..)

theorem execDwait (hs : s.Canonical) (h : Hdr) (mask : BitVec 7) (n : BitVec 6) : Out.Canonical (Machine.execDwait h mask n s) := by
  unfold Machine.execDwait; grind [modW, retire, copyTrap, holdRun, Out.canonical_next]

theorem execChkm (hs : s.Canonical) (h : Hdr) (mode : CheckMode) : Out.Canonical (Machine.execChkm h mode s) := (hs.modW ..).retire ..

end State.Canonical
end Sys2Proof.Machine
end

section
/-! SUPPORT. The canonical form of every byte memory through the engines, conversions, matrix instructions and tiles. -/

namespace Sys2Proof.Machine

-- One proof is checked after another: hundreds of short lemmas checked at once need more threads than there is room for.
set_option Elab.async false
namespace State.Canonical

variable {s t : State}

/-! ### The engines (R239 to R256) -/

theorem sliceFail (hs : s.Canonical) (detail fetch : Nat) : (s.sliceFail detail fetch).Canonical := hs.modSlice ..

theorem refill (hs : s.Canonical) (h : Nat) : (s.refill h).Canonical := by
  unfold State.refill; grind [withWarp, modW]

theorem execSliceLdl (hs : s.Canonical) (h : Hdr) (d : Vr) (kbase kstride : Kr) (size : ESize) (imm : BitVec 16) (hint : BitVec 3) (sx : Bool) : Out.Canonical (Machine.execSliceLdl h d kbase kstride size imm hint sx s) :=
  hs.sliceLoad ..

theorem execAecfg (hs : s.Canonical) (h : Hdr) (mask : BitVec 8) : Out.Canonical (Machine.execAecfg h mask s) := by
  unfold Machine.execAecfg; grind [illegalOperand, modW, retire, Out.canonical_next]

theorem execAego (hs : s.Canonical) (h : Hdr) (off : BitVec 14) : Out.Canonical (Machine.execAego h off s) := by
  unfold Machine.execAego; grind [illegalOperand, dropSliceLoads, modSlice, retire, Out.canonical_next]

theorem execAestop (hs : s.Canonical) (h : Hdr) : Out.Canonical (Machine.execAestop h s) := by
  unfold Machine.execAestop; grind [modSlice, hold, retire, Out.canonical_next]

theorem execQbind (hs : s.Canonical) (h : Hdr) (mask : BitVec 8) : Out.Canonical (Machine.execQbind h mask s) := (hs.modW ..).retire ..

theorem putCopy (hs : s.Canonical) (to_ : List Nat) (side : Bool) (ch : Nat) (cp : Copy) : (s.putCopy to_ side ch cp).Canonical := by
  unfold State.putCopy; grind [setGroup, foldl, groupAt, Group.Canonical.setChan]

theorem copying (hs : s.Canonical) (i : Instr) (s2g : Bool) (ch : BitVec 4) (kdst kfrom klen : Kr) (mask : Option (BitVec 8)) : (s.copying i s2g ch kdst kfrom klen mask).Canonical := by
  unfold State.copying; grind [illegalOperand, memFaultAll, modW, retire, hold, trapAll, copyNow, putCopy]

theorem execCpyw (hs : s.Canonical) (h : Hdr) (kval : Kr) (ch : BitVec 4) : Out.Canonical (Machine.execCpyw h kval ch s) := by
  unfold Machine.execCpyw; grind [illegalOperand, retire, copyTrap, holdRun, Out.canonical_next]

theorem execCpyq (hs : s.Canonical) (h : Hdr) (kd : Kr) (ch : BitVec 4) (ip : Bool) (dc : Dc) : Out.Canonical (Machine.execCpyq h kd ch ip dc s) := by
  unfold Machine.execCpyq; grind [illegalOperand, modW, retire, Out.canonical_next]

theorem semUpdate (hs : s.Canonical) (i : Instr) (sm : BitVec 6) (f : Word → Word) : (s.semUpdate i sm f).Canonical := by
  unfold State.semUpdate; grind [illegalOperand, modGrp, retire, Group.Canonical.setSem]

theorem execSemwait (hs : s.Canonical) (h : Hdr) (sm : BitVec 6) (ka : Kr) (imm : BitVec 6) : Out.Canonical (Machine.execSemwait h sm ka imm s) := by
  unfold Machine.execSemwait; grind [illegalOperand, retire, holdRun, Out.canonical_next]

theorem sliceEffect (hs : s.Canonical) (i : Instr) {f : State → State} (hf : ∀ s, s.Canonical → (f s).Canonical) : (s.sliceEffect i f).Canonical := by
  unfold State.sliceEffect; grind [modSlice, sliceNext]

theorem sliceCopy (hs : s.Canonical) (i : Instr) (s2g : Bool) (ch : BitVec 4) (kdst kfrom klen : Kr) (mask : Option (BitVec 8)) : (s.sliceCopy i s2g ch kdst kfrom klen mask).Canonical := by
  unfold State.sliceCopy; grind [sliceFail, sliceNext, sliceEffect, copyNow, putCopy]

theorem sliceExec (hs : s.Canonical) (i : Instr) : (s.sliceExec i).Canonical := by
  have wait : (s.sliceEffect i id).Canonical := hs.sliceEffect _ fun _ h => h
  have ldl (h d kb ks sz imm hint sx) := hs.execSliceLdl h d kb ks sz imm hint sx
  unfold State.sliceExec
  dsimp only
  split
  case h_9 | h_10 => exact ite (hs.sliceFail _ _) (hs.sliceEffect _ fun _ h => h.modGrp fun _ h => h.setSem _ _ _)
  all_goals grind [modSlice, sliceFail, sliceNext, sliceCopy, Out.canonical_next]

theorem sliceStep (hs : s.Canonical) (h : Nat) : (s.sliceStep h).Canonical := by
  unfold State.sliceStep; grind [withWarp, sliceFail, requestPage, sliceExec]

/-! ### Collectives (R257 to R261) -/

theorem modComm (hs : s.Canonical) (c : Nat) (f : Comm → Comm) : (s.modComm c f).Canonical := by
  unfold State.modComm; grind [State.canonical_iff]

theorem execColl (hs : s.Canonical) (h : Hdr) (kdesc kd : Kr) (dc : Dc) : Out.Canonical (Machine.execColl h kdesc kd dc s) := by
  unfold Machine.execColl; grind [hold, requestPage, modComm, modW, retire, State.canonical_iff, Out.canonical_next]

theorem execCollw (hs : s.Canonical) (h : Hdr) (kcomm kseq : Kr) : Out.Canonical (Machine.execCollw h kcomm kseq s) := by
  unfold Machine.execCollw; grind [holdRun, retire, jumpDone, State.canonical_iff, Out.canonical_next]

theorem execCollectiveComplete (hs : s.Canonical) (comm : Nat) (peers : List (List Byte)) (fault : Nat) :
    Out.Canonical (Machine.execCollectiveComplete comm peers fault s) := by
  have colls (s : State) (l : List Coll) (h : s.Canonical) : { s with colls := l }.Canonical := h
  have freeCount (s : State) (n : Nat) (h : s.Canonical) : { s with freeCount := n }.Canonical := h
  unfold Machine.execCollectiveComplete; grind [requestPage, modComm, raiseErr, pokePa, modWarp, Out.canonical_next]

theorem publishColls (hs : s.Canonical) (dom wave clk : Nat) : (s.publishColls dom wave clk).Canonical := by
  unfold State.publishColls; grind [pokePa, State.canonical_iff, foldl]

/-! ### Float instructions and conversions (R125 to R152) -/

theorem execFcmp (hs : s.Canonical) (h : Hdr) (p : Pr) (a b : Vr) (cond : FCond) (comb : Comb) (q : Pr) : Out.Canonical (Machine.execFcmp h p a b cond comb q s) := by
  unfold Machine.execFcmp; grind [withSrcs, modW, predicate, Out.canonical_next]

theorem execFsetm (hs : s.Canonical) (h : Hdr) (d : Vr) (mask value : BitVec 4) : Out.Canonical (Machine.execFsetm h d mask value s) := by
  unfold Machine.execFsetm; grind [illegalOperand, modW, retire, Out.canonical_next]

theorem formatFault (hs : s.Canonical) (i : Instr) (bad : List (Nat × Nat)) : (s.formatFault i bad).Canonical := hs.takeTrap ..

theorem execFpack (hs : s.Canonical) (h : Hdr) (d a b : Vr) (pos : BitVec 2) (kseed : Kr) : Out.Canonical (Machine.execFpack h d a b pos kseed s) := by
  unfold Machine.execFpack; grind [illegalOperand, withSrcs, formatFault, trapAll, modW, retire, Out.canonical_next]

theorem execFunpk (hs : s.Canonical) (h : Hdr) (d a b : Vr) (pos : BitVec 2) (c : Vr) (sc : Bool) : Out.Canonical (Machine.execFunpk h d a b pos c sc s) := by
  unfold Machine.execFunpk; grind [withSrcs, formatFault, illegalOperand, modW, retire, Out.canonical_next]

theorem execFsca (hs : s.Canonical) (h : Hdr) (d a b c : Vr) : Out.Canonical (Machine.execFsca h d a b c s) := by
  unfold Machine.execFsca; grind [illegalOperand, withSrcs, formatFault, modW, retire, Out.canonical_next]

theorem execFzct (hs : s.Canonical) (h : Hdr) (d : Vr) (peek : Bool) : Out.Canonical (Machine.execFzct h d peek s) := by
  unfold Machine.execFzct; grind [illegalOperand, modW, retire, Out.canonical_next]

/-! ### Matrix instructions (R153 to R181) -/

theorem modOps (hs : s.Canonical) (core : Nat) (f : List MatOp → List MatOp) : (s.modOps core f).Canonical := hs.modCore ..

theorem modOp (hs : s.Canonical) (o : MatOp) (f : MatOp → MatOp) : (s.modOp o f).Canonical := hs.modOps ..

theorem dropOp (hs : s.Canonical) (o : MatOp) : (s.dropOp o).Canonical := hs.modOps ..

theorem cancelOp (hs : s.Canonical) (o : MatOp) : (s.cancelOp o).Canonical := (hs.dropOp ..).modWarp ..

theorem shedLane (hs : s.Canonical) (h lane : Nat) (pc : DWord) : (s.shedLane h lane pc).Canonical := ite hs ((hs.modOps ..).modWarp ..)

theorem divergence (hs : s.Canonical) (i : Instr) (mask : Word) (word : Nat) : (s.divergence i mask word).Canonical := hs.takeTrap ..

theorem vote (hs : s.Canonical) (i : Instr) (plane : Bool) (r n : Nat) {k : List Nat → State} (hk : ∀ ws, (k ws).Canonical) : (s.vote i plane r n k).Canonical := by
  unfold State.vote; grind [divergence, formatFault]

theorem matRegs (hs : s.Canonical) (i : Instr) (regs pops : List Nat) (tile : Option Tile) {k : State} (hk : k.Canonical) : (s.matRegs i regs pops tile k).Canonical := by
  unfold State.matRegs; grind [illegalOperand]

theorem matIssue (hs : s.Canonical) (i : Instr) (o : MatOp) : (s.matIssue i o).Canonical := by
  unfold State.matIssue; grind [trapAll, modOps, modW, retire, hold, holdFree]

theorem resumeOp (hs : s.Canonical) (i : Instr) (o : MatOp) : (s.resumeOp i o).Canonical := by
  unfold State.resumeOp; grind [dropOp, modOps, modW, hold, modWarp, holdFree]

theorem matStep (hs : s.Canonical) (i : Instr) {fresh : State → State} (hf : ∀ s, s.Canonical → (fresh s).Canonical) : (s.matStep i fresh).Canonical := by
  unfold State.matStep; grind [dropOp, retire, holdFree, hold, resumeOp]

theorem execMma (hs : s.Canonical) (h : Hdr) (a b : Vr) (t : Tile) (sr : Semiring) (qa qb : Bool) (fw sc : Vr) (ty : MatType) (z : Bool) (n : BitVec 4) (dc : Dc) : Out.Canonical (Machine.execMma h a b t sr qa qb fw sc ty z n dc s) := by
  unfold Machine.execMma; grind [matStep, illegalOperand, matRegs, matIssue, vote, Out.canonical_next]

theorem execMlut (hs : s.Canonical) (h : Hdr) (b : Vr) (kt : Kr) (t : Tile) (fw : Vr) (qb z : Bool) (dc : Dc) (e : BitVec 2) (neg : Bool) : Out.Canonical (Machine.execMlut h b kt t fw qb z dc e neg s) := by
  unfold Machine.execMlut; grind [matStep, matRegs, illegalOperand, vote, matIssue, Out.canonical_next]

theorem leavePair (hs : s.Canonical) (x y : Nat) : (s.leavePair x y).Canonical := (hs.modWarp ..).modWarp ..

theorem mismatchTrap (hs : s.Canonical) (h : Nat) (i : Instr) (detail : Nat) : (s.mismatchTrap h i detail).Canonical := by
  unfold State.mismatchTrap; grind [withWarp, trapAll]

theorem execPairedOperationStart (hs : s.Canonical) (core : Nat) : Out.Canonical (Machine.execPairedOperationStart core s) := by
  unfold Machine.execPairedOperationStart; grind [leavePair, cancelOp, mismatchTrap, modOp, Out.canonical_next]

theorem mpair (hs : s.Canonical) (i : Instr) (rel : Bool) : (s.mpair i rel).Canonical := by
  unfold State.mpair; grind [illegalOperand, trapAll, modW, holdFree]

theorem execMpairRendezvous (hs : s.Canonical) (wp : Nat) : Out.Canonical (Machine.execMpairRendezvous wp s) := by
  unfold Machine.execMpairRendezvous; grind [leavePair, withWarp, modW, retire, Out.canonical_next]

theorem chunkStop (hs : s.Canonical) (o : MatOp) (x : ChunkStop) : (s.chunkStop o x).Canonical := by
  unfold State.chunkStop; grind [modOp, modWarp, withWarp, memFaultAll, popStop]

theorem chunkHalf (hs : s.Canonical) (lead o : MatOp) (la lb : Operands) (cur : SMap Nat) : (s.chunkHalf lead o la lb cur).1.Canonical := by
  unfold State.chunkHalf; grind [modCore, modWarp, modOps]

theorem execMmaChunk (hs : s.Canonical) (core : Nat) : Out.Canonical (Machine.execMmaChunk core s) := by
  unfold Machine.execMmaChunk
  split
  · exact hs
  next o q hq =>
  split
  · exact hs.chunkStop _ _
  next la cur hr =>
  have finish (s : State) (fl : FFlags) (h : s.Canonical) :
      (if o.chunk + 1 < o.shape.2 then s.modOp o fun o => { o with axf := fl }
        else
          let s := s.modWarp o.warp fun w => (w.matFlags o.act fl).complete o.seq []
          let s := match q with
            | some p => s.modWarp p.warp fun w => w.complete p.seq []
            | none => s
          if o.held then s else s.dropOp o).Canonical := by
    cases q <;> grind [modOp, modWarp, dropOp]
  cases q with
  | none => exact finish _ _ (hs.chunkHalf _ _ _ _ _)
  | some p =>
    dsimp only
    split
    · exact hs.chunkStop _ _
    · exact finish _ _ ((hs.chunkHalf _ _ _ _ _).chunkHalf _ _ _ _ _)

theorem execMlbld (hs : s.Canonical) (h : Hdr) (a : Vr) (kt : Kr) (g0 : BitVec 5) (fw : Vr) (ty : BldType) (pm : Bool) (dc : Dc) (qa : Bool) : Out.Canonical (Machine.execMlbld h a kt g0 fw ty pm dc qa s) := by
  unfold Machine.execMlbld; grind [hold, matRegs, illegalOperand, memFaultAll, withSrcs, modGrp, modW, retire, vote, Group.Canonical.setSide, Group.Canonical.side, Memory.wf_writeN, Out.canonical_next]

theorem execMacz (hs : s.Canonical) (h : Hdr) (t : Tile) (val : MaczVal) : Out.Canonical (Machine.execMacz h t val s) := by
  unfold Machine.execMacz; grind [hold, matRegs, modCore, modW, retire, Out.canonical_next]

theorem matRows (hs : s.Canonical) (i : Instr) (d : Vr) (t : Tile) (row0 : BitVec 6) (cnt : BitVec 4) {k : State} (hk : k.Canonical) : (s.matRows i d t row0 cnt k).Canonical :=
  hs.matRegs _ _ _ _ (ite (hs.illegalOperand _ _) hk)

theorem execMacr (hs : s.Canonical) (h : Hdr) (d : Vr) (t : Tile) (row0 : BitVec 6) (hi : Bool) (cnt : BitVec 4) (dc : Dc) :
    Out.Canonical (Machine.execMacr h d t row0 hi cnt dc s) :=
  ite hs.hold (hs.matRows _ _ _ _ _ ((hs.modW _).retire _))

theorem execMacw (hs : s.Canonical) (h : Hdr) (d : Vr) (t : Tile) (row0 : BitVec 6) (hi : Bool) (cnt : BitVec 4) (dc : Dc) :
    Out.Canonical (Machine.execMacw h d t row0 hi cnt dc s) :=
  ite hs.hold (hs.matRows _ _ _ _ _ (((hs.modCore _ _).modW _).retire _))

theorem execMdrn (hs : s.Canonical) (h : Hdr) (t : Tile) (spad : Bool) (kbase kpitch : Kr) (add : Bool) (ety : FType) (dc : Dc) (row0 nrows : BitVec 6) :
    Out.Canonical (Machine.execMdrn h t spad kbase kpitch add ety dc row0 nrows s) := by
  refine ite hs.hold (hs.matRegs _ _ _ _ (ite (hs.illegalOperand _ _) (ite (hs.memFaultAll _ _ _ _) (ite (hold (foldl hs fun _ _ h => h.requestPage _ _)) ?_))))
  split
  · exact hs.memFaultAll _ _ _ _
  · refine ite (hs.endRoutine _ _) (ite (hs.trapAll _ _ _ _) (ite hs.hold (retire ?_ _)))
    have hu (f g : Warp → Warp) : (if ety = .f32 then s.modW f else (s.modW f).modW g).Canonical := ite (hs.modW _) ((hs.modW _).modW _)
    exact ite ((hu _ _).serve _) (ite ((hu _ _).request _) (hu _ _))

theorem execAddOnStoreApply (hs : s.Canonical) (idx : Nat) : Out.Canonical (Machine.execAddOnStoreApply idx s) := by
  unfold Machine.execAddOnStoreApply; grind [modDom, performAgain, State.canonical_iff, Out.canonical_next]

/-! ### Negotiated tiles (R323 to R340) -/

theorem dropTile (hs : s.Canonical) (t : Nat) : (s.dropTile t).Canonical := by
  unfold State.dropTile; grind [State.canonical_iff]

theorem giveSlot (hs : s.Canonical) (c : Claim) : (s.giveSlot c).Canonical := hs.modCore ..

theorem takeFrames (hs : s.Canonical) (frames cores : List Nat) : (s.takeFrames frames cores).Canonical := by
  unfold State.takeFrames; grind [onCaches, Caches.Canonical.toHome, Caches.Canonical.recut, foldl, Caches.Canonical.foldl]

theorem grant (hs : s.Canonical) (t : Nat) (c : Claim) (status cause : Nat) (queue : List TileReq) : (s.grant t c status cause queue).Canonical := by
  unfold State.grant; grind [takeFrames, modCore, setTile, modWarp]

theorem setRefusals (hs : s.Canonical) (x : Option (Nat × Bool)) : (s.setRefusals x).Canonical := by
  unfold State.setRefusals; grind [modGrp, Group.canonical_iff]

theorem claimGate (hs : s.Canonical) (i : Instr) : ∀ t, s.claimGate i = some t → t.Canonical := by
  unfold State.claimGate; grind [setRefusals, jumpRetry, holdFree, requestPage, hold, modCore, setTile, foldl]

theorem execTclaim (hs : s.Canonical) (h : Hdr) (kd kbase kgeo karg : Kr) (routine : BitVec 3) (keep : Bool) (dc : Dc) (try_ : Bool) :
    Out.Canonical (Machine.execTclaim h kd kbase kgeo karg routine keep dc try_ s) := by
  have done (s : State) (f : Warp → Warp) (i : Instr) (h : s.Canonical) : (((s.setRefusals none).modW f).retire i).Canonical := ((h.setRefusals _).modW _).retire _
  unfold Machine.execTclaim
  dsimp only
  split
  · exact hs.claimGate _ _ ‹_›
  · split <;> grind [modW, retire, illegalOperand, memFaultAll, requestPage, hold, setTile, jumpDone, grant, modTile, modCore, foldl, Out.canonical_next]

theorem execTrel (hs : s.Canonical) (h : Hdr) (kbase : Kr) (dc : Dc) : Out.Canonical (Machine.execTrel h kbase dc s) := by
  unfold Machine.execTrel; grind [memFaultAll, illegalOperand, hold, setTile, surrender, modW, retire, Out.canonical_next]

theorem refuseHead (hs : s.Canonical) (t : Nat) (e : TileEntry) (until_ : Option Nat) : (s.refuseHead t e until_).Canonical := by
  unfold State.refuseHead; grind [giveSlot, setGroup, setTile, groupAt, Group.canonical_iff]

theorem execTsurr (hs : s.Canonical) (h : Hdr) (kdelay : Kr) (outcome : TOutcome) : Out.Canonical (Machine.execTsurr h kdelay outcome s) := by
  unfold Machine.execTsurr; grind [illegalOperand, endRoutine, dropWarp, refuseHead, Out.canonical_next]

theorem execTquery (hs : s.Canonical) (h : Hdr) (kd kbase : Kr) (dc : Dc) : Out.Canonical (Machine.execTquery h kd kbase dc s) := by
  unfold Machine.execTquery; grind [memFaultAll, requestPage, hold, modW, retire, Out.canonical_next]

theorem forceSurrender (hs : s.Canonical) (t : Nat) (cause : Nat) : (s.forceSurrender t cause).Canonical := by
  unfold State.forceSurrender; grind [dropWarp, raiseErr, surrender]

theorem execRecallStart (hs : s.Canonical) (tile : Nat) : Out.Canonical (Machine.execRecallStart tile s) := by
  unfold Machine.execRecallStart; grind [refuseHead, forceSurrender, setWarp, setTile, modCore, Out.canonical_next]

theorem surrenderDone (hs : s.Canonical) (tile : Nat) : (s.surrenderDone tile).Canonical := by
  unfold State.surrenderDone; grind [giveSlot, modWarp, dropTile, setTile]

theorem grantHead (hs : s.Canonical) (tile : Nat) (e : TileEntry) (c : Claim) (status cause : Nat) (rest : List TileReq) : (s.grantHead tile e c status cause rest).Canonical := by
  unfold State.grantHead; grind [modWarp, giveSlot, setTile, grant]

theorem letThrough (hs : s.Canonical) (rs : List OrdReq) : (s.letThrough rs).Canonical := by
  unfold State.letThrough; grind [retry, foldl]

theorem execTileGrant (hs : s.Canonical) (tile : Nat) : Out.Canonical (Machine.execTileGrant tile s) := by
  unfold Machine.execTileGrant; grind [dropTile, grantHead, letThrough, Out.canonical_next]

theorem releaseTiles (hs : s.Canonical) (grp : Nat) : (s.releaseTiles grp).Canonical := by
  unfold State.releaseTiles; grind [surrender, surrenderDone, foldl]

end State.Canonical
end Sys2Proof.Machine
end

section
/-! SUPPORT. The canonical form of every byte memory through launch, collation, traps and segments. -/

namespace Sys2Proof.Machine

-- One proof is checked after another: hundreds of short lemmas checked at once need more threads than there is room for.
set_option Elab.async false
namespace State.Canonical

variable {s t : State}

/-! ### Launch (R345 to R376) -/

theorem accept (hs : s.Canonical) (ctx queue prio : Nat) (inRing : Bool) (a : Accepted) : (s.accept ctx queue prio inRing a).1.Canonical := by
  unfold State.accept; grind [setCtx, setGrid, setDom, setQueue]

theorem writeDone (hs : s.Canonical) (ctx va word : Nat) : (s.writeDone ctx va word).Canonical := by
  unfold State.writeDone; grind [pokePa, requestPage, State.canonical_iff]

theorem flushDones (hs : s.Canonical) : (s.flushDones).Canonical := by
  unfold State.flushDones; grind [writeDone, State.canonical_iff, foldl]

theorem execTailWrite (hs : s.Canonical) (q p v : Nat) : Out.Canonical (Machine.execTailWrite q p v s) :=
  hs.bar (ite hs (ite (hs.setQueue _ _) (hs.setQueue _ _)))

theorem execQctlEnWrite (hs : s.Canonical) (q v : Nat) : Out.Canonical (Machine.execQctlEnWrite q v s) := by
  unfold Machine.execQctlEnWrite; grind [bar, setQueue, Out.canonical_next]

theorem execQerrErrClear (hs : s.Canonical) (q : Nat) : Out.Canonical (Machine.execQerrErrClear q s) := by
  unfold Machine.execQerrErrClear; grind [bar, setQueue, Out.canonical_next]

theorem execPacketService (hs : s.Canonical) (q p : Nat) : Out.Canonical (Machine.execPacketService q p s) := by
  unfold Machine.execPacketService; grind [requestPage, setQueue, raiseErr, accept, writeDone, State.canonical_iff, Out.canonical_next]

theorem dealNext (hs : s.Canonical) (grid : Nat) : (s.dealNext grid).Canonical := by
  unfold State.dealNext; grind [setGrid]

theorem level (hs : s.Canonical) (grid : Nat) : (s.level grid).Canonical := hs.setGrid ..

theorem edgeStep (hs : s.Canonical) (grid : Nat) (op : MaintOp) (e : Edge) (addr : Nat) : (s.edgeStep grid op e addr).Canonical := by
  unfold State.edgeStep; grind [overPages, maintRange, raiseErr, foldl]

theorem execGridRelease (hs : s.Canonical) (grid : Nat) : Out.Canonical (Machine.execGridRelease grid s) := by
  unfold Machine.execGridRelease; grind [edgeStep, setGrid, dealNext, level, Out.canonical_next]

theorem claimCore (hs : s.Canonical) (grid c : Nat) : (s.claimCore grid c).Canonical := ite hs (hs.modCore ..)

theorem startGroup (hs : s.Canonical) (grid gidx c : Nat) : (s.startGroup grid gidx c).Canonical :=
  foldl (setGroup (foldl hs fun _ _ h => h.claimCore _ _) _ ⟨rfl, rfl⟩) fun _ _ h => h.foldl fun _ _ h => h.setWarp _ _

theorem startGang (hs : s.Canonical) (grid k : Nat) (l : List Nat) : ∀ t, s.startGang grid k l = some t → t.Canonical := by
  induction l generalizing s with
  | nil => grind [State.startGang]
  | cons g l ih => grind [State.startGang, startGroup]

theorem tryGang (hs : s.Canonical) (grid k : Nat) : ∀ t, s.tryGang grid k = some t → t.Canonical := by
  unfold State.tryGang; grind [startGang, setGrid, dealNext]

theorem execGangStart (hs : s.Canonical) (cluster : Nat) : Out.Canonical (Machine.execGangStart cluster s) := by
  unfold Machine.execGangStart
  cases h : s.grids.findSome? fun e => s.tryGang e.1 cluster with
  | none => exact hs
  | some t =>
    obtain ⟨e, -, he⟩ := List.exists_of_findSome?_eq_some h
    exact hs.tryGang _ _ _ he

theorem execGangSteal (hs : s.Canonical) (cluster : Nat) : Out.Canonical (Machine.execGangSteal cluster s) := by
  unfold Machine.execGangSteal; grind [modGrid, Out.canonical_next]

theorem eraseGroup (hs : s.Canonical) (grp : Nat) : (s.eraseGroup grp).Canonical := by
  obtain ⟨hm, hh, hc, hg⟩ := hs.foldl (f := State.dropWarp) (l := (s.warps.filter fun e => e.2.grp == grp).map Prod.fst) fun _ h hs => hs.dropWarp h
  exact ⟨hm, hh, hc, fun e he => hg e (List.mem_of_mem_filter he)⟩

theorem endGroup (hs : s.Canonical) (grp : Nat) : (s.endGroup grp).Canonical := ite (hs.releaseTiles ..) ((hs.releaseTiles ..).eraseGroup ..)

theorem orphanHalf (hs : s.Canonical) (h : Nat) : (s.orphanHalf h).Canonical := by
  unfold State.orphanHalf; grind [modWarp, cancelOp, mismatchTrap]

theorem execWarpEnd (hs : s.Canonical) (wp : Nat) : Out.Canonical (Machine.execWarpEnd wp s) := by
  unfold Machine.execWarpEnd; grind [dropWarp, modCore, modWarp, orphanHalf, setGroup, endGroup, modGrid, gbarSettle, groupAt, Group.canonical_iff, Out.canonical_next]

theorem execEndEdgeStep (hs : s.Canonical) (grid : Nat) : Out.Canonical (Machine.execEndEdgeStep grid s) := by
  unfold Machine.execEndEdgeStep; grind [edgeStep, modGrid, Out.canonical_next]

theorem restartTimer (hs : s.Canonical) (q : Nat) : (s.restartTimer q).Canonical := hs.setQueue ..

theorem execGridComplete (hs : s.Canonical) (grid : Nat) : Out.Canonical (Machine.execGridComplete grid s) := by
  unfold Machine.execGridComplete; grind [releaseTiles, eraseGroup, setCtx, dropForwarded, restartTimer, writeDone, State.canonical_iff, foldl, Out.canonical_next]

theorem readPacket (hs : s.Canonical) (i : Instr) (va : Nat) {k : List Byte → State} (hk : ∀ b, (k b).Canonical) : (s.readPacket i va k).Canonical := by
  unfold State.readPacket; grind [memFaultAll, requestPage, hold]

theorem mapResult (hs : s.Canonical) (i : Instr) (kd : Kr) (x : Nat) : (s.mapResult i kd x).Canonical := (hs.modW ..).retire ..

theorem execLnch (hs : s.Canonical) (h : Hdr) (kd ka : Kr) (dc : Dc) : Out.Canonical (Machine.execLnch h kd ka dc s) := by
  unfold Machine.execLnch; grind [readPacket, mapResult, accept, writeDone, Out.canonical_next]

theorem execLnwait (hs : s.Canonical) (h : Hdr) (kd ka : Kr) (dc : Dc) : Out.Canonical (Machine.execLnwait h kd ka dc s) := by
  unfold Machine.execLnwait; grind [jumpDone, mapResult, holdRun, modW, retire, Out.canonical_next]

theorem execQpost (hs : s.Canonical) (h : Hdr) (kd ka : Kr) (q : BitVec 6) (prio : BitVec 2) (dc : Dc) : Out.Canonical (Machine.execQpost h kd ka q prio dc s) := by
  unfold Machine.execQpost; grind [readPacket, mapResult, requestPage, hold, memFaultAll, pokePa, setQueue, Out.canonical_next]

/-! ### Collation (R293 to R304) -/

theorem applyEntry (hs : s.Canonical) (dom h : Nat) (e : FoldEntry) : (s.applyEntry dom h e).Canonical := by
  unfold State.applyEntry
  refine ite (hs.setGroup _ ((hs.groupAt _).setSide _ (wf_foldl_write ((hs.groupAt _).side _) fun _ _ h => Memory.wf_write h _ _))) ?_
  split
  · exact ite ((hs.pokePa _).clearLost _) (hs.pokePa _)
  · exact hs.raiseErr _

theorem takeTurn (hs : s.Canonical) (dom h : Nat) : (s.takeTurn dom h).Canonical := by
  unfold State.takeTurn; grind [applyEntry, pokePa, clearLost, unlive, modWarp, foldl]

theorem foldTurns (hs : s.Canonical) (dom : Nat) : (s.foldTurns dom).Canonical := by
  unfold State.foldTurns
  apply modDom
  refine (hs.pokePa _).mapGroups fun e he => ?_
  dsimp only
  split
  · exact ⟨wf_foldl_write he.1 fun _ _ h => Memory.wf_write h _ _, wf_foldl_write he.2 fun _ _ h => Memory.wf_write h _ _⟩
  · exact he

theorem publish (hs : s.Canonical) (dom : Nat) (p : Nat × Nat) : (s.publish dom p).Canonical := by
  unfold State.publish; grind [requestPage, copyCatch, foldTurns, publishColls, refill, takeTurn, modDom, foldl]

theorem execPublication (hs : s.Canonical) (dom : Nat) : Out.Canonical (Machine.execPublication dom s) := by
  unfold Machine.execPublication; grind [publish, Out.canonical_next]

theorem execMinimumDelivery (hs : s.Canonical) (dom : Nat) : Out.Canonical (Machine.execMinimumDelivery dom s) := by
  unfold Machine.execMinimumDelivery; grind [modDom, Out.canonical_next]

theorem execOrderedRequestPerform (hs : s.Canonical) (dom : Nat) : Out.Canonical (Machine.execOrderedRequestPerform dom s) := by
  unfold Machine.execOrderedRequestPerform; grind [modDom, performAgain, Out.canonical_next]

/-! ### Traps and handlers (R379 to R413) -/

theorem endRecord (hs : s.Canonical) (h idx : Nat) (byHandler : Bool) : (s.endRecord h idx byHandler).Canonical := by
  unfold State.endRecord; grind [setCtx, modWarp, unlive]

theorem retryCopies (hs : s.Canonical) (at_ : Nat × Bool × Nat) : (s.retryCopies at_).Canonical := by
  unfold State.retryCopies
  split
  next g hg => exact hs.setGroup _ ((hs.of_find hg).setChan _ _ _)
  next => exact hs

theorem disposeThread (hs : s.Canonical) (h lane : Nat) (mode : RftMode) (idx : Nat) (byHandler : Bool) : (s.disposeThread h lane mode idx byHandler).Canonical := by
  unfold State.disposeThread; grind [endRecord, killGrid, modWarp, retryCopies, reissue, shedLane, withWarp, modW, exited]

theorem joinWave (hs : s.Canonical) (h lane idx : Nat) : (s.joinWave h lane idx).Canonical := by
  unfold State.joinWave; grind [setDie]

theorem dispatchAll (hs : s.Canonical) (h : Nat) (l : List Stop) (bad : Option (Nat × Nat × Nat)) : (State.dispatchAll h l s bad).1.Canonical := by
  induction l generalizing s bad with
  | nil => exact hs
  | cons t l ih => unfold State.dispatchAll; grind [writeRecord_written, writeRecord_wait, setCtx, modWarp]

theorem joinAll (hs : s.Canonical) (h : Nat) (new : List Nat) : (s.joinAll h new).Canonical := by
  unfold State.joinAll; grind [joinWave, foldl]

theorem execTrapDispatch (hs : s.Canonical) (wp : Nat) : Out.Canonical (Machine.execTrapDispatch wp s) := by
  unfold Machine.execTrapDispatch; grind [modWarp, dispatchAll, joinAll, killGrid, State.canonical_iff, Out.canonical_next]

theorem execHandlerWaveStart (hs : s.Canonical) (die : Nat) : Out.Canonical (Machine.execHandlerWaveStart die s) := by
  unfold Machine.execHandlerWaveStart; grind [setDie, setWarp, modCore, Out.canonical_next]

theorem execTfence (hs : s.Canonical) (h : Hdr) : Out.Canonical (Machine.execTfence h s) := ite (hs.holdRun ..) (hs.trapSelf ..)

theorem execRft (hs : s.Canonical) (h : Hdr) (mode : RftMode) : Out.Canonical (Machine.execRft h mode s) := by
  unfold Machine.execRft; grind [illegalOperand, modW, retire, disposeThread, foldl, Out.canonical_next]

theorem execTmask (hs : s.Canonical) (h : Hdr) (en m : BitVec 6) (ho : HoldOp) : Out.Canonical (Machine.execTmask h en m ho s) := (hs.modW ..).retire ..

theorem execGets (hs : s.Canonical) (h : Hdr) (r : BitVec 6) (sr : SReg) (rk : Bool) : Out.Canonical (Machine.execGets h r sr rk s) := by
  unfold Machine.execGets; grind [holdRun, uniform, illegalOperand, modW, retire, Out.canonical_next]

theorem execSets (hs : s.Canonical) (h : Hdr) (r : BitVec 6) (sr : SReg) (rk : Bool) : Out.Canonical (Machine.execSets h r sr rk s) := by
  unfold Machine.execSets; grind [modW, retire, illegalOperand, withSrcs, Out.canonical_next]

theorem execOrgr (hs : s.Canonical) (h : Hdr) (vd : Vr) (n : BitVec 6) (cls : OrgClass) (dc : Dc) : Out.Canonical (Machine.execOrgr h vd n cls dc s) := by
  unfold Machine.execOrgr; grind [illegalOperand, modW, retire, Out.canonical_next]

theorem execOrgw (hs : s.Canonical) (h : Hdr) (va : Vr) (n : BitVec 6) (cls : OrgClass) (dc : Dc) : Out.Canonical (Machine.execOrgw h va n cls dc s) := by
  unfold Machine.execOrgw; grind [illegalOperand, modWarp, modW, retire, foldl, Out.canonical_next]

/-! ### Segments (R402 to R405) -/

theorem putSegs (hs : s.Canonical) (c logical i : Nat) (segs : List (List Byte)) : (s.putSegs c logical i segs).Canonical := hs.pokePa ..

theorem unstage (hs : s.Canonical) (core : Nat) : (s.unstage core).Canonical := by
  unfold State.unstage; grind [putSegs, State.canonical_iff]

theorem storeImage (hs : s.Canonical) (c : Nat) (m : CoreImage) : (s.storeImage c m).Canonical := by
  unfold State.storeImage; grind [unstage, putSegs, State.canonical_iff]

theorem dropShadow (hs : s.Canonical) (c : Nat) : (s.dropShadow c).Canonical := by
  unfold State.dropShadow; grind [State.canonical_iff]

theorem stage (hs : s.Canonical) (c : Nat) : (s.stage c).Canonical := by
  unfold State.stage; grind [State.canonical_iff, foldl]

theorem loadImage (hs : s.Canonical) (c : Nat) (m : CoreImage) : (s.loadImage c m).1.Canonical :=
  foldl_fst (foldl hs fun _ _ h => h.modWarp _ _) fun _ _ h => h.setGroup _ ((h.groupAt _).setSide _ (wf_zipIdx _))

end State.Canonical
end Sys2Proof.Machine
end

section
/-! OBLIGATION. Every step keeps the canonical form of every byte memory (R182, R189). -/

namespace Sys2Proof.Machine

-- One proof is checked after another: hundreds of short lemmas checked at once need more threads than there is room for.
set_option Elab.async false
namespace State.Canonical

variable {s t : State}

/-! ### Contexts, fences, the watchdog (R366 to R407) -/

theorem modCtx (hs : s.Canonical) (c : Nat) (f : Ctx → Ctx) : (s.modCtx c f).Canonical := hs.setCtx ..

theorem requestSave (hs : s.Canonical) (c : Nat) (fence : Bool) : (s.requestSave c fence).Canonical := by
  unfold State.requestSave; grind [setCtx]

theorem requestRestore (hs : s.Canonical) (c : Nat) : (s.requestRestore c).Canonical := by
  unfold State.requestRestore; grind [setCtx, stage, raiseErr]

theorem execCtxctlPrq (hs : s.Canonical) (c : Nat) : Out.Canonical (Machine.execCtxctlPrq c s) := by
  unfold Machine.execCtxctlPrq; grind [bar, requestSave, Out.canonical_next]

theorem execCtxctlRsq (hs : s.Canonical) (c : Nat) : Out.Canonical (Machine.execCtxctlRsq c s) := by
  unfold Machine.execCtxctlRsq; grind [bar, requestRestore, Out.canonical_next]

theorem execTrresWrite (hs : s.Canonical) (c idx : Nat) : Out.Canonical (Machine.execTrresWrite c idx s) := by
  unfold Machine.execTrresWrite; grind [bar, disposeThread, Out.canonical_next]

theorem execCtxpasidWrite (hs : s.Canonical) (c v : Nat) : Out.Canonical (Machine.execCtxpasidWrite c v s) := by
  unfold Machine.execCtxpasidWrite; grind [bar, modCtx, Out.canonical_next]

theorem execPreemptDeadline (hs : s.Canonical) (c : Nat) : Out.Canonical (Machine.execPreemptDeadline c s) := ite (hs.setCtx ..) hs

theorem execSegmentCut (hs : s.Canonical) (c : Nat) : Out.Canonical (Machine.execSegmentCut c s) := by
  refine ite hs (modCtx ?_ _ _)
  refine mapGroups (foldl (foldl hs fun _ _ h => h.storeImage _ _) fun _ _ h => h.preqDone _) fun e he => ?_
  split <;> exact he

theorem stopTimers (hs : s.Canonical) (c : Nat) : (s.stopTimers c).Canonical := by
  unfold State.stopTimers; grind [setQueue, foldl]

theorem execSaveComplete (hs : s.Canonical) (c : Nat) : Out.Canonical (Machine.execSaveComplete c s) := ite ((hs.setCtx ..).stopTimers ..) hs

theorem loseTile (hs : s.Canonical) (t : Nat) : (s.loseTile t).Canonical := by
  unfold State.loseTile; grind [loseRun, forceSurrender, foldl]

theorem failImage (hs : s.Canonical) (c : Nat) : (s.failImage c).Canonical := by
  unfold State.failImage; grind [loseTile, modCtx, dropShadow, killGrid, foldl]

theorem execSaveDeadline (hs : s.Canonical) (c : Nat) : Out.Canonical (Machine.execSaveDeadline c s) := ite (hs.failImage ..) hs

theorem reslot (hs : s.Canonical) (t : Nat) : (s.reslot t).Canonical := by
  unfold State.reslot; grind [setTile, modCore]

theorem rewave (hs : s.Canonical) (c : Nat) (l : List Nat) : ∀ t, s.rewave c l = some t → t.Canonical := by
  induction l generalizing s with
  | nil => grind [State.rewave]
  | cons h l ih => grind [State.rewave, modWarp, modCore]

theorem recontext (hs : s.Canonical) (hs : List Nat) : (s.recontext hs).Canonical := by
  unfold State.recontext; grind [modWarp, foldl]

theorem regather (hs : s.Canonical) (c : Nat) : (s.regather c).Canonical := by
  unfold State.regather; grind [joinWave, foldl]

theorem putImages (hs : s.Canonical) (c : Nat) (images : List CoreImage) (to_ : SMap Nat) : ∀ t, s.putImages c images to_ = some t → t.Canonical := by
  have loaded : (images.foldl (fun (x : State × List CoreImage) m => let y := x.1.loadImage c m; (y.1, x.2 ++ [y.2])) (s, [])).1.Canonical :=
    foldl_fst hs fun _ _ h => h.loadImage _ _
  unfold State.putImages
  intro t ht
  dsimp only at ht
  split at ht
  · cases ht
  next u hu =>
  cases ht
  refine regather (recontext (rewave (foldl (foldl ?_ fun _ _ h => h.modCore _ _) fun _ _ h => h.reslot _) _ _ _ hu) _) _
  refine loaded.mapGroups fun e he => ?_
  split <;> exact he

theorem execRestoreComplete (hs : s.Canonical) (c : Nat) : Out.Canonical (Machine.execRestoreComplete c s) := by
  unfold Machine.execRestoreComplete; grind [failImage, putImages, modCtx, dropShadow, restartTimer, requestSave, foldl, Out.canonical_next]

theorem residencyFault (hs : s.Canonical) (grid : Nat) : (s.residencyFault grid).Canonical := by
  unfold State.residencyFault; grind [modGrid, modWarp, foldl]

theorem redeal (hs : s.Canonical) (k : Nat) : (s.redeal k).Canonical := by
  unfold State.redeal; grind [State.canonical_iff]

theorem fenceTables (hs : s.Canonical) (cores : List Nat) : (s.fenceTables cores).Canonical := by
  unfold State.fenceTables; grind [setDie, modMgmt, foldl]

theorem fenceCores (hs : s.Canonical) (u : FUnit) (code unit : Nat) : (s.fenceCores u code unit).Canonical := by
  unfold State.fenceCores; grind [fenceTables, raiseErr, requestSave, redeal, agentGone, residencyFault, foldl]

theorem loseLane (hs : s.Canonical) (port : Nat) : (s.loseLane port).Canonical := by
  unfold State.loseLane; grind [raiseErr, State.canonical_iff]

theorem fenceNow (hs : s.Canonical) (u : FUnit) : (s.fenceNow u).Canonical := by
  unfold State.fenceNow; grind [fenceCores, loseRun, fenceTables, raiseErr, loseLane, foldl]

theorem fence (hs : s.Canonical) (u : FUnit) : (s.fence u).Canonical := by
  unfold State.fence; grind [modMgmt, fenceNow]

theorem execFenceUnit (hs : s.Canonical) (sec : Bool) (u : FUnit) : Out.Canonical (Machine.execFenceUnit sec u s) := ite hs (hs.fence ..)

theorem loseCores (hs : s.Canonical) (cores : List Nat) : (s.loseCores cores).Canonical := by
  unfold State.loseCores; grind [forceSurrender, killGrid, State.canonical_iff, foldl]

theorem execAgentFailure (hs : s.Canonical) (u : FUnit) : Out.Canonical (Machine.execAgentFailure u s) := by
  unfold Machine.execAgentFailure; grind [agentGone, loseCores, foldl, Out.canonical_next]

theorem execWatchdogPreempt (hs : s.Canonical) (q : Nat) : Out.Canonical (Machine.execWatchdogPreempt q s) := by
  unfold Machine.execWatchdogPreempt; grind [setQueue, requestSave, foldl, Out.canonical_next]

theorem execWatchdogKill (hs : s.Canonical) (q : Nat) : Out.Canonical (Machine.execWatchdogKill q s) := by
  unfold Machine.execWatchdogKill; grind [setQueue, killGrid, foldl, Out.canonical_next]

theorem execWatchdogFence (hs : s.Canonical) (q : Nat) : Out.Canonical (Machine.execWatchdogFence q s) := by
  unfold Machine.execWatchdogFence; grind [fence, setQueue, foldl, Out.canonical_next]

theorem execAssignPartition (hs : s.Canonical) (sec : Bool) (c mask : Nat) : Out.Canonical (Machine.execAssignPartition sec c mask s) := by
  unfold Machine.execAssignPartition
  generalize mask % 2 ^ 288 = m
  refine ite hs ?_
  exact ite (hs.setCtx ..) ((hs.setCtx ..).modMgmt ..)

theorem execAssignDomain (hs : s.Canonical) (sec : Bool) (dom c : Nat) : Out.Canonical (Machine.execAssignDomain sec dom c s) := ite hs (hs.modDom ..)

theorem execSetCommunicator (hs : s.Canonical) (sec : Bool) (comm ranks rank : Nat) : Out.Canonical (Machine.execSetCommunicator sec comm ranks rank s) :=
  ite hs (hs.modComm ..)

theorem execReturnLostPage (hs : s.Canonical) (sec : Bool) (page : Nat) : Out.Canonical (Machine.execReturnLostPage sec page s) := by
  unfold Machine.execReturnLostPage
  generalize s.lostSize page = size
  exact ite hs (of_eq (hs.writeThrough page (List.replicate size 0)) rfl rfl rfl rfl)

/-! ### The management plane, links, the host -/

theorem execSetPowerLimit (hs : s.Canonical) (sec : Bool) (v : Nat) : Out.Canonical (Machine.execSetPowerLimit sec v s) := ite (hs.modMgmt ..) hs

theorem setErrAck (hs : s.Canonical) (v : Nat) : (s.setErrAck v).Canonical :=
  ite ((hs.modMgmt _).flushErrs _) hs

theorem execErrackWrite (hs : s.Canonical) (v : Nat) : Out.Canonical (Machine.execErrackWrite v s) := by
  unfold Machine.execErrackWrite; grind [bar, setErrAck, Out.canonical_next]

theorem setErrBase (hs : s.Canonical) (v : Nat) : (s.setErrBase v).Canonical := (hs.modMgmt _).flushErrs _

theorem execErrbaseWrite (hs : s.Canonical) (v : Nat) : Out.Canonical (Machine.execErrbaseWrite v s) := by
  unfold Machine.execErrbaseWrite; grind [bar, setErrBase, Out.canonical_next]

theorem hostRead (hs : s.Canonical) (x : Nat) : (s.hostRead x).Canonical := hs.modMgmt ..

theorem execErrlostRead (hs : s.Canonical) : Out.Canonical (Machine.execErrlostRead s) := by
  unfold Machine.execErrlostRead; grind [bar, hostRead, modMgmt, Out.canonical_next]

theorem execErrorRecord (hs : s.Canonical) (r : ErrRec) : Out.Canonical (Machine.execErrorRecord r s) := ite (hs.raiseErr ..) hs

theorem orNext (hs : s.Canonical) {o : Out} (ho : Out.Canonical o) : (s.orNext o).Canonical := by
  cases o <;> assumption

theorem queueWrite (hs : s.Canonical) (q o v : Nat) : (s.queueWrite q o v).Canonical := by
  unfold State.queueWrite; grind [orNext, execQctlEnWrite, execQerrErrClear, setQueue, execTailWrite]

theorem contextWrite (hs : s.Canonical) (c o v : Nat) : (s.contextWrite c o v).Canonical := by
  unfold State.contextWrite; grind [setCtx, requestRestore, requestSave, orNext, execTrresWrite, execCtxpasidWrite]

theorem regWrite (hs : s.Canonical) (a v : Nat) : (s.regWrite a v).Canonical := by
  unfold State.regWrite; grind [modMgmt, bar, setErrBase, setErrAck, queueWrite, contextWrite]

theorem regPart (hs : s.Canonical) (off v size : Nat) (a : Nat) : (State.regPart off v size s a).Canonical := by
  unfold State.regPart; grind [regWrite]

theorem execRegisterWrite (hs : s.Canonical) (off v size : Nat) : Out.Canonical (Machine.execRegisterWrite off v size s) := by
  unfold Machine.execRegisterWrite; grind [regPart, foldl, Out.canonical_next]

theorem execPackageReset (hs : s.Canonical) : Out.Canonical (Machine.execPackageReset s) := by
  obtain ⟨hm, hh, -, -⟩ := hs
  exact ⟨hm, hh, hm, fun _ he => nomatch he⟩

theorem release (hs : s.Canonical) (d : Nat) : (s.release d).Canonical := hs.setDie ..

theorem bootPass (hs : s.Canonical) (step k : Nat) : (s.bootPass step k).Canonical := by
  unfold State.bootPass; grind [modMgmt, release]

theorem bootAlt (hs : s.Canonical) (step k : Nat) : (s.bootAlt step k).Canonical := by
  unfold State.bootAlt; grind [fenceTables, raiseErr, modMgmt, State.canonical_iff]

theorem logBoot (hs : s.Canonical) (step k result : Nat) : (s.logBoot step k result).Canonical := ite ((hs.modMgmt ..).raiseErr ..) hs

theorem execStartUpStep (hs : s.Canonical) (unit sub : Nat) (passed : Bool) : Out.Canonical (Machine.execStartUpStep unit sub passed s) := by
  unfold Machine.execStartUpStep; grind [logBoot, bootAlt, bootPass, Out.canonical_next]

theorem spdm (hs : s.Canonical) (kind need next : Nat) (content : List Byte) : (s.spdm kind need next content).Canonical := hs.modMgmt ..

theorem execBubbleSchedule (hs : s.Canonical) (len t : Nat) : Out.Canonical (Machine.execBubbleSchedule len t s) := by
  unfold Machine.execBubbleSchedule; grind [modMgmt, setDie, foldl, Out.canonical_next]

theorem execBubbleAck (hs : s.Canonical) (die : Nat) : Out.Canonical (Machine.execBubbleAck die s) := ite hs (hs.setDie ..)

theorem execBubbleCancel (hs : s.Canonical) : Out.Canonical (Machine.execBubbleCancel s) := by
  unfold Machine.execBubbleCancel; grind [modMgmt, Out.canonical_next]

theorem execBubbleStart (hs : s.Canonical) (die : Nat) : Out.Canonical (Machine.execBubbleStart die s) := by
  unfold Machine.execBubbleStart; grind [setDie, Out.canonical_next]

theorem execBubbleEnd (hs : s.Canonical) (die : Nat) : Out.Canonical (Machine.execBubbleEnd die s) := by
  unfold Machine.execBubbleEnd; grind [setDie, modMgmt, Out.canonical_next]

theorem execTimeMasterUpdate (hs : s.Canonical) (die : Nat) (off rate : Int) : Out.Canonical (Machine.execTimeMasterUpdate die off rate s) :=
  ite hs (hs.setDie ..)

theorem modPort (hs : s.Canonical) (p : Nat) (f : Port → Port) : (s.modPort p f).Canonical := by
  unfold State.modPort; grind [State.canonical_iff]

theorem execFlitReceive (hs : s.Canonical) (port : Nat) (flit : Flit) (crcOk : Bool) : Out.Canonical (Machine.execFlitReceive port flit crcOk s) :=
  ite hs (hs.modPort ..)

theorem execFlitAck (hs : s.Canonical) (port seq : Nat) : Out.Canonical (Machine.execFlitAck port seq s) := ite hs (hs.modPort ..)

theorem execLaneFailure (hs : s.Canonical) (port lane : Nat) : Out.Canonical (Machine.execLaneFailure port lane s) := ite hs (hs.loseLane ..)

theorem outsideWrite (hs : s.Canonical) (pa : Nat) (bytes : List Byte) : (s.outsideWrite pa bytes).Canonical := hs.pokePa ..

theorem performHeld (hs : s.Canonical) (key fuel : Nat) : (s.performHeld key fuel).Canonical := by
  induction fuel generalizing s with
  | zero => exact hs
  | succ fuel ih => unfold State.performHeld; grind [outsideWrite, State.canonical_iff]

theorem execStreamWriteAccept (hs : s.Canonical) (src cls num : Nat) (rel : Bool) (pa : Nat) (bytes : List Byte) : Out.Canonical (Machine.execStreamWriteAccept src cls num rel pa bytes s) := by
  unfold Machine.execStreamWriteAccept; grind [performHeld, pokePa, State.canonical_iff, Out.canonical_next]

theorem execHostCxlMemAccess (hs : s.Canonical) (pa : Nat) (store : Bool) (bytes : List Byte) : Out.Canonical (Machine.execHostCxlMemAccess pa store bytes s) := by
  have hu (l : List Nat) : (l.foldl State.hostTakes s).Canonical := hs.foldl fun _ _ h => h.hostTakes _
  unfold Machine.execHostCxlMemAccess
  split
  · trivial
  · exact ite hs (ite ((hu _).pokeHome _) ((hu _).hostRead _))

/-! ### Issue and time (R37 to R58) -/

theorem groupTrap (hs : s.Canonical) (cause detail ea : Nat) : (s.groupTrap cause detail ea).Canonical := hs.takeTrap ..

theorem checked (hs : s.Canonical) (is : List Instr) {k : State → State} (hk : ∀ s, s.Canonical → (k s).Canonical) : (s.checked is k).Canonical := by
  unfold State.checked
  refine ite (hk _ hs) ?_
  dsimp only
  split
  · exact hk _ hs
  · exact ite (hs.groupTrap _ _ _) (ite (hs.modW _) (ite hs.hold (ite (groupTrap (ite hs (hs.modW _)) _ _ _) (hk _ (ite hs (hs.modW _))))))

theorem beginGroup (hs : s.Canonical) (is : List Instr) : (s.beginGroup is).Canonical := by
  unfold State.beginGroup; grind [modW, State.canonical_iff]

theorem admitGroup (hs : s.Canonical) (is : List Instr) : (s.admitGroup is).Canonical := by
  have hu := hs.modW Warp.atGroup
  refine ite (hu.modW _) (ite hu.holdFree (ite (hu.endRoutine _ _) (hu.checked _ fun s h =>
    ite (h.beginGroup _) (ite (h.groupTrap _ _ _) (ite h.hold (ite h.holdRun (ite h.jumpRetry ?_)))))))
  split
  next t ht =>
    obtain ⟨e, -, he⟩ := List.exists_of_findSome?_eq_some ht
    exact h.claimGate _ _ he
  next => exact h.beginGroup _

theorem tryGroup (hs : s.Canonical) : (s.tryGroup).Canonical := by
  unfold State.tryGroup; grind [modW, groupTrap, requestPage, holdRun, beginGroup, admitGroup]

theorem attempt (hs : s.Canonical) (h : Nat) : (s.attempt h).Canonical := by
  unfold State.attempt; grind [tryGroup, State.canonical_iff]

theorem execSlotFill (hs : s.Canonical) (core : Nat) : Out.Canonical (Machine.execSlotFill core s) := by
  unfold Machine.execSlotFill; grind [modCore, modWarp, Out.canonical_next]

theorem runWord (hs : s.Canonical) {run : Instr → State → Out} (hrun : ∀ i s, s.Canonical → Out.Canonical (run i s)) (i : Instr) : Out.Canonical (s.runWord run i) := by
  unfold State.runWord; grind [holdRun, hold, handlerFault, endRoutine, Out.canonical_next]

theorem firstOf (hs : s.Canonical) {run : Instr → State → Out} (hrun : ∀ i s, s.Canonical → Out.Canonical (run i s)) (es : List Instr) (h : s.firstOf run es = some t) : t.Canonical := by
  obtain ⟨e, -, he⟩ := List.exists_of_findSome?_eq_some h
  have := hrun e s hs
  grind [Out.canonical_next]

theorem afterEvent (hs : s.Canonical) {run : Instr → State → Out} (hrun : ∀ i s, s.Canonical → Out.Canonical (run i s)) (h : s.afterEvent run = some t) : t.Canonical := hs.firstOf hrun _ h

theorem tick (hs : s.Canonical) : (s.tick).Canonical := by
  unfold State.tick; grind [flushDones, flushUnlives, sliceStep, State.canonical_iff, foldl]

theorem groupWaits (hs : s.Canonical) {run : Instr → State → Out} (hrun : ∀ i s, s.Canonical → Out.Canonical (run i s)) (n : Nat) (x : Instr × DWord) : (State.groupWaits run s n x).Canonical := by
  unfold State.groupWaits; grind [modW, runWord, holdRun, State.canonical_iff, Out.canonical_next]

theorem idleStep (hs : s.Canonical) {run : Instr → State → Out} (hrun : ∀ i s, s.Canonical → Out.Canonical (run i s)) : Out.Canonical (s.idleStep run) := by
  unfold State.idleStep
  split
  · split
    · exact hrun _ _ hs
    · exact hs
  split
  next t ht => exact hs.afterEvent hrun ht
  split
  · cases h : s.firstOf run s.lateEvents with
    | none => exact hs.tick
    | some t => exact hs.firstOf hrun _ h
  next h _ =>
  dsimp only
  split
  · have ht := hs.attempt h
    split
    · exact ht
    · split
      · exact ht.runWord hrun _
      · split
        · exact ht.groupWaits hrun _ _
        · exact ht.runWord hrun _
  · exact hs.attempt h

theorem advance (hs : s.Canonical) {run : Instr → State → Out} (hrun : ∀ i s, s.Canonical → Out.Canonical (run i s)) : Out.Canonical (s.advance run) := by
  unfold State.advance; grind [idleStep, runWord]

/-! ### Every instruction and event, and one step -/

theorem exec (hs : s.Canonical) (i : Instr) : Out.Canonical (Machine.exec i s) := by
  cases i with
  | nop | fence => exact hs.retire ..
  | bra | brp | brn | bru | bruz => exact hs.retireTo ..
  | jmpx | callx | ret => exact hs.jump ..
  | call => exact hs.execCall ..
  | exit => exact hs.execExit ..
  | dwait => exact hs.execDwait ..
  | chkm => exact hs.execChkm ..
  | brk | trap => exact hs.trapSelf ..
  | iadd | isub | imul | imulhS | imulhN | imad | iaddi | iminS | iminN | imaxS | imaxN | shl | shr | sar | shli | shri | sari | roti | and | or
  | xor | andn | andi | ori | xori | not | popc | clz | brev | iabs | ineg | bfx | bfi | lea | movi | movk | idot4 => exact hs.lanewise ..
  | icmp => exact hs.execIcmp ..
  | sel => exact hs.selectBlock ..
  | kadd | ksub | kmul | kand | kor | kxor | kshl | kshr | kaddi | kset | kcmp | kmov => exact hs.uniform ..
  | kfromv => exact hs.execKfromv ..
  | pand | por | pxor | pandn | pclr | pset | pnot | pmov => exact hs.predicate ..
  | ptov | qswp | qbc | wshf | wshx | wvote | wred => exact hs.crosslane ..
  | vtop => exact hs.execVtop ..
  | qhlp => exact hs.execQhlp ..
  | fadd | fsub | fmul | ffma | fmin | fmax | fabs | fneg | frcp | frsq | fsqrt | fex2 | flg2 | fsin | fcos | fdot2 | hadd2 | hmul2 | hfma2 | frnd
  | fcvt | fcvti | icvtf | fscl => exact hs.lanewiseF ..
  | fcmp => exact hs.execFcmp ..
  | fsetm => exact hs.execFsetm ..
  | fpack => exact hs.execFpack ..
  | funpk => exact hs.execFunpk ..
  | fsca => exact hs.execFsca ..
  | fzct => exact hs.execFzct ..
  | mma => exact hs.execMma ..
  | mlut => exact hs.execMlut ..
  | mlbld => exact hs.execMlbld ..
  | macz => exact hs.execMacz ..
  | macr => exact hs.execMacr ..
  | macw => exact hs.execMacw ..
  | mdrn => exact hs.execMdrn ..
  | mpairBind | mpairRel => exact hs.mpair ..
  | ld | ldl | lds => exact hs.loadV ..
  | st | stl | sts => exact hs.storeV ..
  | ldk => exact hs.execLdk ..
  | stk => exact hs.execStk ..
  | pref => exact hs.execPref ..
  | cwb | cflu => exact hs.maintain ..
  | cinv => exact hs.execCinv ..
  | preq => exact hs.execPreq ..
  | atom | red | atoms => exact hs.atomic ..
  | barSync => exact hs.execBarSync ..
  | barArrive => exact hs.execBarArrive ..
  | barWait => exact hs.barWaiting ..
  | bart => exact hs.execBart ..
  | gbar => exact hs.execGbar ..
  | clkjAdd | clkjAddk | clkjSetk | clkjNb => exact hs.clkTo ..
  | lock => exact hs.execLock ..
  | lockTry => exact hs.execLockTry ..
  | unlock => exact hs.execUnlock ..
  | aecfg => exact hs.execAecfg ..
  | aego => exact hs.execAego ..
  | aestop => exact hs.execAestop ..
  | qbind => exact hs.execQbind ..
  | sliceLdl => exact hs.execSliceLdl ..
  | cpy | cpym => exact hs.copying ..
  | cpyw => exact hs.execCpyw ..
  | cpyq => exact hs.execCpyq ..
  | semset | semadd => exact hs.semUpdate ..
  | semwait => exact hs.execSemwait ..
  | coll => exact hs.execColl ..
  | collw => exact hs.execCollw ..
  | tclaim => exact hs.execTclaim ..
  | trel => exact hs.execTrel ..
  | tsurr => exact hs.execTsurr ..
  | tquery => exact hs.execTquery ..
  | lnch => exact hs.execLnch ..
  | lnwait => exact hs.execLnwait ..
  | qpost => exact hs.execQpost ..
  | lmap | tmr => exact hs.mapResult ..
  | tfence => exact hs.execTfence ..
  | rft => exact hs.execRft ..
  | tmask => exact hs.execTmask ..
  | gets => exact hs.execGets ..
  | sets => exact hs.execSets ..
  | orgr => exact hs.execOrgr ..
  | orgw => exact hs.execOrgw ..
  | slotFill => exact hs.execSlotFill ..
  | counterRelease | sliceEntryPush => exact hs.modWarp ..
  | trapDispatch => exact hs.execTrapDispatch ..
  | handlerWaveStart => exact hs.execHandlerWaveStart ..
  | warpEnd => exact hs.execWarpEnd ..
  | pairedOperationStart => exact hs.execPairedOperationStart ..
  | mpairRendezvous => exact hs.execMpairRendezvous ..
  | mmaChunk => exact hs.execMmaChunk ..
  | addOnStoreApply => exact hs.execAddOnStoreApply ..
  | getm => exact hs.execGetm ..
  | putm => exact hs.execPutm ..
  | coherenceGrant => exact hs.execCoherenceGrant ..
  | absorbedAck => exact hs.execAbsorbedAck ..
  | invalidationCompletion => exact hs.execInvalidationCompletion ..
  | preqComplete => exact hs.execPreqComplete ..
  | copyDelivery => exact hs.copyAs ..
  | bartTimeout => exact hs.execBartTimeout ..
  | minimumDelivery => exact hs.execMinimumDelivery ..
  | orderedRequestPerform => exact hs.execOrderedRequestPerform ..
  | publication => exact hs.execPublication ..
  | tileGrant => exact hs.execTileGrant ..
  | recallStart => exact hs.execRecallStart ..
  | recallDelayExpiry => exact hs.modTile ..
  | surrenderComplete => exact hs.surrenderDone ..
  | packetService => exact hs.execPacketService ..
  | gridRelease => exact hs.execGridRelease ..
  | gangStart => exact hs.execGangStart ..
  | gangSteal => exact hs.execGangSteal ..
  | endEdgeStep => exact hs.execEndEdgeStep ..
  | gridComplete => exact hs.execGridComplete ..
  | watchdogPreempt => exact hs.execWatchdogPreempt ..
  | watchdogKill => exact hs.execWatchdogKill ..
  | watchdogFence => exact hs.execWatchdogFence ..
  | preemptDeadline => exact hs.execPreemptDeadline ..
  | segmentCut => exact hs.execSegmentCut ..
  | saveComplete => exact hs.execSaveComplete ..
  | saveDeadline => exact hs.execSaveDeadline ..
  | restoreComplete => exact hs.execRestoreComplete ..
  | fenceUnit => exact hs.execFenceUnit ..
  | bubbleCancel => exact hs.execBubbleCancel ..
  | bubbleStart => exact hs.execBubbleStart ..
  | bubbleEnd => exact hs.execBubbleEnd ..
  | getsRequest => exact hs.execGetsRequest ..
  | writeBackAcknowledgement => exact hs.execWriteBackAcknowledgement ..
  | illegalInstructionWord => exact hs.groupTrap ..
  | quireFill => exact hs.execQuireFill ..
  | upg => exact hs.execUpg ..
  | puts => exact hs.execPuts ..
  | snpShare => exact hs.execSnpShare ..
  | snpInv => exact hs.execSnpInv ..
  | inFlightReply => exact hs.execInFlightReply ..
  | peerForwardProbe => exact hs.execPeerForwardProbe ..
  | backInvalidation => exact hs.execBackInvalidation ..
  | biasFlip => exact hs.execBiasFlip ..
  | atsInvalidation => exact hs.invalidate ..
  | agentFailure => exact hs.execAgentFailure ..
  | homeFailure => exact hs.execHomeFailure ..
  | pageResident => exact hs.execPageResident ..
  | collectiveComplete => exact hs.execCollectiveComplete ..
  | streamWriteAccept => exact hs.execStreamWriteAccept ..
  | tailWrite => exact hs.execTailWrite ..
  | qctlEnWrite => exact hs.execQctlEnWrite ..
  | qerrErrClear => exact hs.execQerrErrClear ..
  | ctxctlPrq => exact hs.execCtxctlPrq ..
  | ctxctlRsq => exact hs.execCtxctlRsq ..
  | trresWrite => exact hs.execTrresWrite ..
  | ctxpasidWrite => exact hs.execCtxpasidWrite ..
  | packageReset => exact hs.execPackageReset ..
  | startUpStep => exact hs.execStartUpStep ..
  | pwrlimWrite => exact hs.modMgmt ..
  | errackWrite => exact hs.execErrackWrite ..
  | errbaseWrite => exact hs.execErrbaseWrite ..
  | errlostRead => exact hs.execErrlostRead ..
  | errorRecord => exact hs.execErrorRecord ..
  | registerWrite => exact hs.execRegisterWrite ..
  | assignDomain => exact hs.execAssignDomain ..
  | setCommunicator => exact hs.execSetCommunicator ..
  | returnLostPage => exact hs.execReturnLostPage ..
  | assignPartition => exact hs.execAssignPartition ..
  | setPowerLimit => exact hs.execSetPowerLimit ..
  | getVersion | getCapabilities | negotiateAlgorithms | getDigests | getCertificate | challenge | getMeasurements => exact hs.spdm ..
  | bubbleSchedule => exact hs.execBubbleSchedule ..
  | bubbleAck => exact hs.execBubbleAck ..
  | timeMasterUpdate => exact hs.execTimeMasterUpdate ..
  | flitReceive => exact hs.execFlitReceive ..
  | flitAck => exact hs.execFlitAck ..
  | laneFailure => exact hs.execLaneFailure ..
  | snoopReply => exact hs.execSnoopReply ..
  | hostCxlMemAccess => exact hs.execHostCxlMemAccess ..

end State.Canonical

/-- Settles O60: each branch of a step is an operation that keeps the canonical form, and `exec` keeps it instruction by instruction. -/
theorem stepKeepsCanonical : Obligations.StepKeepsCanonical := by
  intro s t hs ht
  have h : Out.Canonical (step s) := hs.advance fun i s h => h.exec i
  rwa [ht] at h

end Sys2Proof.Machine
end

section
/-! SUPPORT. The access (R187, R190): what the checks of its lanes come to, what of it performs, and what a performed request leaves of its warp. -/

namespace Sys2Proof.Machine

/-! ### What a check depends on -/

/-- A check reads memory, the translation caches, the tables of the context and the lists of what is lost or failed. -/
theorem State.checkVa_congr {s t : State} (hmem : t.mem = s.mem) (hcores : t.cores = s.cores) (hdies : t.dies = s.dies) (hctxs : t.ctxs = s.ctxs) (hpages : t.lostPages = s.lostPages)
    (hhomes : t.failedHomes = s.failedHomes) (core lane ctx va : Nat) (k : Acc) (lost : Nat → Bool) : t.checkVa core lane ctx va k lost = s.checkVa core lane ctx va k lost := by
  have hcached : t.cachedLeaf core lane ctx va = s.cachedLeaf core lane ctx va := by
    unfold State.cachedLeaf State.coreAt State.dieAt
    rw [hcores, hdies]
  have hwalk : t.walk ctx va = s.walk ctx va := State.walk_congr hmem (by rw [State.ctxAt, State.ctxAt, hctxs]) va
  unfold State.checkVa State.leafFor State.pageLost State.homeFailed
  rw [hcached, hwalk, hpages, hhomes]

theorem State.checkVa_modW (s : State) (f : Warp → Warp) (core lane ctx va : Nat) (k : Acc) (lost : Nat → Bool) : (s.modW f).checkVa core lane ctx va k lost = s.checkVa core lane ctx va k lost :=
  State.checkVa_congr (s.modW_mem f) (s.modW_cores f) (s.modW_dies f) (s.modW_ctxs f) (s.modW_lostPages f) (s.modW_failedHomes f) ..

/-- A check with no data lost answers as one that meets none. -/
theorem State.meetsLost_of_none {s : State} (h : s.lost = []) (pa n : Nat) : s.meetsLost pa n = false := by rw [State.meetsLost, h]; rfl

/-- What passes passes also where less counts as lost. -/
theorem State.checkVa_of_less {s : State} {core lane ctx va : Nat} {k : Acc} {lost less : Nat → Bool} {x : Leaf} (hless : ∀ a, less a = true → lost a = true)
    (h : s.checkVa core lane ctx va k lost = .ok x) : s.checkVa core lane ctx va k less = .ok x := by
  unfold State.checkVa at h ⊢
  split at h
  · cases h
  rw [if_neg ‹_›]
  split at h
  · cases h
  dsimp only at h ⊢
  have hsame : ∀ a, lost a = false → less a = false := fun a ha => Bool.eq_false_iff.2 fun hb => by simp [hless a hb] at ha
  split_ifs at h ⊢ <;> simp_all

/-! ### Stopping some of the lanes (R188) -/

/-- A trap of some lanes: the stops of those that are active are added, they are active no more, and nothing else of the warp changes but what retiring moves. -/
theorem Warp.stopLanes_spec (w : Warp) (coll : Bool) (g clk cause aux : Nat) (mask m : Word) (detail ea : Nat → Nat) (resume skip : DWord) :
    let t := w.stopLanes coll g clk cause mask m detail ea aux resume skip
    t.still = ({ w with stops := w.stops ++ (lanesOf (mask &&& w.active)).map (w.recordStop cause aux m detail ea resume skip) } : Warp).still ∧
      t.pend = w.pend ∧ t.active = w.active &&& ~~~mask := by
  intro t
  let u : Warp :=
    { w with
      stops := w.stops ++ (lanesOf (mask &&& w.active)).map (w.recordStop cause aux m detail ea resume skip)
      pcs := (lanesOf (mask &&& w.active)).foldl (fun m l => SMap.put m l resume) w.pcs
      active := w.active &&& ~~~mask }
  have ht : t = if u.active = 0 then { (if u.runPc = u.grpPc ∧ u.lclk = u.grpLclk then { u with deferred := [], grpS := 0, grpW := 0 } else u.closeGroup coll g clk) with
      inRun := false, todo := [], endRun := false } else u := rfl
  obtain ⟨hstill, hpend, -, -, -, -, -, -, -, hact, -⟩ := u.closeGroup_spec coll g clk
  rw [ht]
  split_ifs
  · exact ⟨rfl, rfl, rfl⟩
  · exact ⟨hstill, hpend, hact⟩
  · exact ⟨rfl, rfl, rfl⟩

theorem State.inDomain_congr {s t : State} (hw : t.w.grp = s.w.grp) (hgroups : t.groups = s.groups) (hgrids : t.grids = s.grids) : t.inDomain = s.inDomain := by
  rw [State.inDomain, State.inDomain, State.grid, State.grid, State.grp, State.grp, hw, State.gridAt, State.gridAt, State.groupAt, State.groupAt, hgroups, hgrids]

theorem State.inDomain_modW {s : State} (h : s.Here) {f : Warp → Warp} (hf : (f s.w).grp = s.w.grp) : (s.modW f).inDomain = s.inDomain :=
  State.inDomain_congr (by rw [State.modW_w h, hf]) (s.modW_groups f) (s.modW_grids f)

theorem State.memFault_normal {s : State} (hk : s.w.kind = .normal) (i : Instr) (mask : Word) (detail ea : Nat → Nat) :
    s.memFault i mask detail ea = if mask &&& s.w.active = 0 then s else
      s.modW fun w => w.stopLanes s.collated s.g s.clk 0x04 mask (mask &&& s.w.active) detail ea 0 s.w.runPc (s.nextPc i) := by
  rw [State.memFault, State.takeTrap, hk]

/-- A memory fault changes the current warp alone: it adds the stops of the active lanes of the mask, and they are active no more. -/
theorem State.memFault_spec {s : State} (h : s.Here) (hk : s.w.kind = .normal) (i : Instr) (mask : Word) (detail ea : Nat → Nat) :
    let t := s.memFault i mask detail ea
    s.OnlyWarp t ∧ t.Here ∧ t.w.active = s.w.active &&& ~~~mask ∧ t.w.pend = s.w.pend ∧
      t.w.still = ({ s.w with stops := s.w.stops ++ (lanesOf (mask &&& s.w.active)).map (s.w.recordStop 0x04 0 (mask &&& s.w.active) detail ea s.w.runPc (s.nextPc i)) } : Warp).still := by
  intro t
  have ht := State.memFault_normal hk i mask detail ea
  by_cases hnone : mask &&& s.w.active = 0
  · rw [if_pos hnone] at ht
    have hact : s.w.active &&& ~~~mask = s.w.active := by
      refine BitVec.eq_of_getLsbD_eq fun l hl => ?_
      have hl' := congrArg (fun m : Word => m.getLsbD l) hnone
      simp only [BitVec.getLsbD_and, BitVec.getLsbD_not, hl, decide_true, Bool.true_and] at hl' ⊢
      cases hm : mask.getLsbD l <;> simp_all
    have hnil : lanesOf (mask &&& s.w.active) = [] := by rw [hnone]; rfl
    rw [show t = s from ht, hact, hnil, List.map_nil, List.append_nil]
    exact ⟨⟨rfl, fun _ _ => rfl⟩, h, rfl, rfl, rfl⟩
  · rw [if_neg hnone] at ht
    obtain ⟨hstill, hpend, hact⟩ := s.w.stopLanes_spec s.collated s.g s.clk 0x04 0 mask (mask &&& s.w.active) detail ea s.w.runPc (s.nextPc i)
    have hw : t.w = _ := (congrArg State.w ht).trans (State.modW_w h _)
    rw [hw]
    refine ⟨?_, ?_, hact, hpend, hstill⟩
    · rw [show t = _ from ht]
      exact State.onlyWarp_modW h _
    · rw [show t = _ from ht]
      exact State.modW_isSome h _

theorem Warp.count_uncounted (w : Warp) (c : Option Nat) (regs : List RegId) (done : Bool) (ws : List RegWrite) : (w.count c regs done ws).uncounted w = w := by
  cases c with
  | none => rfl
  | some c =>
    obtain ⟨g, hg, -⟩ := Warp.overruleAll_eq regs (fun w r => laneMask w.active r) w
    rw [Warp.count, hg]
    rfl

/-- Counting keeps whatever of a warp does not depend on its records of counted instructions. -/
theorem Warp.count_same {α : Type} (w : Warp) (c : Option Nat) (regs : List RegId) (done : Bool) (ws : List RegWrite) (f : Warp → α) (hf : ∀ x, f (x.uncounted w) = f x) :
    f (w.count c regs done ws) = f w := (hf _).symm.trans (congrArg f (w.count_uncounted c regs done ws))

theorem Warp.complete_uncounted (w u : Warp) (n : Nat) (ws : List RegWrite) : (w.complete n ws).uncounted u = w.uncounted u := rfl

/-! ### What the lanes come to -/

/-- The access that a lane makes of its check: none where it has a cause. -/
def LaneRes.op (probe : Bool) (l va : Nat) (vals : List DWord) : LaneRes → Option ReqOp
  | .ok pa _ => some ⟨l, va, pa, vals, false⟩
  | .absent => if probe then some ⟨l, va, 0, vals, true⟩ else none
  | .bad _ => none

/-- A lane with its cause: a page that is not resident is one where the access does not probe. -/
def LaneRes.fault (probe : Bool) (l : Nat) : LaneRes → Option (Nat × Nat)
  | .ok _ _ => none
  | .absent => if probe then none else some (l, 0x07)
  | .bad d => some (l, d)

/-- The accesses of the lanes that have no cause. -/
def accessOps (probe : Bool) (ea : Nat → Nat) (vals : Nat → List DWord) (res : List (Nat × LaneRes)) : List ReqOp :=
  res.filterMap fun r => r.2.op probe r.1 (ea r.1) (vals r.1)

/-- The lanes that have a cause, with it. -/
def accessBad (probe : Bool) (res : List (Nat × LaneRes)) : List (Nat × Nat) := res.filterMap fun r => r.2.fault probe r.1

/-- The cause of a lane among those that have one. -/
def causeIn (bad : List (Nat × Nat)) (l : Nat) : Nat := ((bad.find? fun b => b.1 == l).map (·.2)).getD 0

/-- The translations that an access has used are held. -/
def State.holdAll (s : State) (res : List (Nat × LaneRes)) : State :=
  res.foldl (fun s r => match r.2 with
    | .ok _ (some x) => s.holdLeaf s.w.core r.1 s.ctxNo x
    | _ => s) s

/-- The request of the present word for these accesses. -/
def State.accessReq (s : State) (i : Instr) (regs : List RegId) (ops : List ReqOp) : OrdReq :=
  { key := s.opKey, warp := s.cur, grp := s.w.grp, seq := s.w.seqNo, instr := i, pc := s.w.runPc, act := s.w.active, regs := regs, ops := ops }

/-- The present word counts, its accesses are served, and it retires. -/
def State.accessServe (s : State) (i : Instr) (regs : List RegId) (ops : List ReqOp) : State :=
  ((s.modW fun w => w.count i.counter regs false []).serve (s.accessReq i regs ops)).retire i

/-- The addresses of the accesses that meet memory. -/
def metOf (ops : List ReqOp) : List ReqOp := ops.filter fun o => !o.miss

/-- Nothing but what the cores and dies hold has changed. -/
def State.OnlyUnits (s t : State) : Prop := { t with cores := s.cores, dies := s.dies } = s

theorem State.OnlyUnits.field {α : Type} {s t : State} (h : s.OnlyUnits t) (f : State → α) : f { t with cores := s.cores, dies := s.dies } = f s := congrArg f h

theorem State.holdLeaf_onlyUnits (s : State) (core lane ctx : Nat) (x : Leaf) : s.OnlyUnits (s.holdLeaf core lane ctx x) := by
  unfold State.holdLeaf
  split <;> rfl

theorem State.OnlyUnits.trans {s t u : State} (h : s.OnlyUnits t) (h' : t.OnlyUnits u) : s.OnlyUnits u := by
  unfold State.OnlyUnits at *
  exact (congrArg (fun x : State => { x with cores := s.cores, dies := s.dies }) h').trans h

theorem State.holdAll_onlyUnits (s : State) (res : List (Nat × LaneRes)) : s.OnlyUnits (s.holdAll res) := by
  refine List.foldlRecOn (motive := fun t => s.OnlyUnits t) res _ rfl fun t ht r _ => ?_
  split
  · exact ht.trans (t.holdLeaf_onlyUnits ..)
  · exact ht

/-- In a normal warp of an open grid an access with nothing in its way holds the translations of its lanes, stops those that have a cause, and serves the others. -/
theorem State.access_open {s0 s : State} (h : s.Here) (i : Instr) (a : AccKind) {mask : Word} {ea : Nat → Nat} {vals : Nat → List DWord} (hk : s.w.kind = .normal) (hdom : s.inDomain = false)
    {res : List (Nat × LaneRes)} (hres : s.tryLanes a.spad a.acc a.n (lanesOf mask) ea = res)
    (hfull : s.tileFull s.w.grp (if a.spad then [] else (metOf (accessOps a.probe ea vals res)).map (·.pa)) = false)
    (hmeets : s.meetsOpen a.spad a.n ((metOf (accessOps a.probe ea vals res)).map fun o => (o.va, o.pa)) = false) :
    s0.access i a mask ea vals s =
      let ops := accessOps a.probe ea vals res
      let bad := accessBad a.probe res
      if a.uniform = true ∧ bad ≠ [] then s0.memFaultAll i (causeIn bad (lowLane mask)) (ea (lowLane mask)) 0
      else if bad ≠ [] ∧ ops = [] then s0.memFault i mask (causeIn bad) ea
      else
        let u := (s.holdAll res).memFault i (maskOf (bad.map (·.1))) (causeIn bad) ea
        if u.w.active = 0 then u else u.accessServe i a.regs ops := by
  have hstray (pas : List Nat) : s.strays pas = false := by rw [State.strays, hk]; rfl
  have hout : (if s.w.kind == .handler && a.acc == .store then s.outsideRing a.n (lanesOf mask) ea else []) = [] := by rw [hk]; rfl
  have hsurr : (s.w.kind == .surrender) = false := by rw [hk]; rfl
  have hfull' : s.reqsFull = false := State.reqsFull_open hdom
  subst hres
  have hacc : s0.access i a mask ea vals s =
      let res := s.tryLanes a.spad a.acc a.n (lanesOf mask) ea
      let absent := (res.filter fun r => r.2 == .absent).map (·.1)
      let ops := accessOps a.probe ea vals res
      let bad := accessBad a.probe res
      let outside := if s.w.kind == .handler && a.acc == .store then s.outsideRing a.n (lanesOf mask) ea else []
      let pas := if a.spad then [] else (metOf ops).map (·.pa)
      if s.inDomain && !absent.isEmpty && !a.spad then (absent.foldl (fun s l => s.requestPage s.ctxNo (ea l)) s0).hold
      else if !outside.isEmpty then
        s0.handlerFault (if a.uniform then s.w.active else maskOf (if a.uniform then lanesOf mask else (lanesOf mask).filter fun l => outside.contains l || bad.any fun b => b.1 == l))
          (fun l => if a.uniform || outside.contains l then 0 else 0x04) (fun l => if a.uniform || outside.contains l then 0x02 else causeIn bad l) fun l => if a.uniform then ea (lowLane mask) else ea l
      else if s.strays pas then s.endRoutine 3 4
      else if s.w.kind == .surrender && !bad.isEmpty then s.endRoutine 3 3
      else if s.w.kind == .normal && s.inDomain && a.acc == .store && !(s.foldRoom a.spad (ops.map fun o => o.va / 32)) then s0.trapAll i 0x08 0x01 0
      else if s.tileFull s.w.grp pas || s.meetsOpen a.spad a.n ((metOf ops).map fun o => (o.va, o.pa)) || (a.ordered && s.reqsFull) then s0.hold
      else if a.uniform && !bad.isEmpty then s0.memFaultAll i (causeIn bad (lowLane mask)) (ea (lowLane mask)) 0
      else if !bad.isEmpty && ops.isEmpty then s0.memFault i mask (causeIn bad) ea
      else
        let s := (s.holdAll res).memFault i (maskOf (bad.map (·.1))) (causeIn bad) ea
        if s.w.active = 0 then s
        else
          let r := s.accessReq i a.regs ops
          let s := s.modW fun w => w.count i.counter a.regs false []
          let s := if a.ordered && s.collated then s.request r else s.serve r
          s.retire i := rfl
  rw [hacc]
  dsimp only
  rw [hout, hdom, hstray, hsurr, hfull, hmeets, hfull']
  simp only [Bool.false_and, Bool.and_false, Bool.or_false, Bool.false_eq_true, if_false, List.isEmpty_nil, Bool.not_true]
  have hunits := s.holdAll_onlyUnits (s.tryLanes a.spad a.acc a.n (lanesOf mask) ea)
  generalize s.holdAll (s.tryLanes a.spad a.acc a.n (lanesOf mask) ea) = v at hunits
  have hvw : v.w = s.w := hunits.field State.w
  have hvdom : v.inDomain = false := (hunits.field State.inDomain).trans hdom
  have hvhere : v.Here := (iff_of_eq (hunits.field State.Here)).2 h
  obtain ⟨honly, huhere, -, -, hstill⟩ := State.memFault_spec hvhere (hvw ▸ hk) i (maskOf ((accessBad a.probe (s.tryLanes a.spad a.acc a.n (lanesOf mask) ea)).map (·.1)))
    (causeIn (accessBad a.probe (s.tryLanes a.spad a.acc a.n (lanesOf mask) ea))) ea
  generalize v.memFault i _ _ ea = u at honly huhere hstill
  have hugrp : u.w.grp = v.w.grp := by
    have hgrp := congrArg Warp.grp hstill
    exact hgrp
  have hcoll : (u.modW fun w => w.count i.counter a.regs false []).collated = false := by
    refine State.not_collated_of_not_inDomain ?_
    rw [State.inDomain_modW huhere (Warp.count_same _ _ _ _ _ Warp.grp fun _ => rfl), State.inDomain_congr hugrp honly.groups_eq (honly.field State.grids), hvdom]
  rw [hcoll, Bool.and_false, if_neg Bool.false_ne_true]
  simp only [Bool.and_eq_true, Bool.not_eq_true', List.isEmpty_eq_false_iff, List.isEmpty_iff]
  rfl

/-! ### A request that performs at once -/

/-- A counted instruction that has completed with its results. -/
theorem Warp.count_complete_counted (w : Warp) (c : Nat) (regs : List RegId) (ws : List RegWrite) : w.Counted ((w.count (some c) regs false []).complete w.seqNo ws) c regs ws := by
  obtain ⟨g, hg, hceded⟩ := Warp.overruleAll_eq regs (fun w r => laneMask w.active r) w
  have hcount : w.count (some c) regs false [] =
      { w with
        seqNo := w.seqNo + 1
        dcIssued := SMap.put w.dcIssued c (SMap.get 0 w.dcIssued c + 1)
        inflight := w.inflight.map g ++ [⟨w.seqNo, c, false, [], w.sched, []⟩]
        marks := w.marks ++ regs.map fun r => ⟨r, c, SMap.get 0 w.dcIssued c + 1⟩ } := by
    rw [Warp.count, hg]
  have hseq (f : Inflight) : (g f).seq = f.seq := by
    have hbare := congrArg Inflight.seq (hceded f).1
    exact hbare
  rw [hcount]
  refine ⟨List.mem_map.2 ⟨_, List.mem_append_right _ List.mem_cons_self, ?_⟩, fun f hf hne => ⟨g f, List.mem_map.2 ⟨g f, List.mem_append_left _ (List.mem_map_of_mem hf), ?_⟩, hceded f⟩, rfl, rfl,
    SMap.get_put_same _ _ _ _⟩
  · simp
  · simp [hseq, hne]

/-- A request of the current warp that performs with the warps and what waits kept, and is the last part of its instruction, completes it. -/
theorem State.perform_of_keeps {s u : State} {r : OrdReq} {ws : List RegWrite} (h : s.Here) (hr : r.warp = s.cur) (hu : s.performHere r = (u, ws)) (hkeep : s.KeepsWarps u)
    (hlast : ∀ q ∈ s.openReqs s.cur, q.seq ≠ r.seq) : s.perform r = { u.setWarp s.cur (s.w.complete r.seq ws) with cur := s.cur } := by
  obtain ⟨w, hw⟩ := Option.isSome_iff_exists.1 h
  have hsw : s.w = w := State.warpAt_of_find hw
  have hthere : SMap.find u.warps s.cur = some w := by rw [hkeep.warps, hw]
  have hopen : ∀ q ∈ u.openReqs r.warp, q.seq ≠ r.seq := by
    rw [hr, State.openReqs, hkeep.tiles, hkeep.adds]
    exact hlast
  have hhere : ({ s with cur := r.warp } : State) = s := by rw [hr]
  rw [State.perform, State.withWarp, hhere, hu]
  dsimp only
  rw [State.finish_of_last hopen, hr, State.modWarp_eq hthere, hsw]

/-- A word has counted, performed with results `ws` and retired: its warp goes past it with a completed count, no other warp changes, and memory and the groups stand as the request `u` left them. -/
structure State.Performed (s u t : State) (i : Instr) (regs : List RegId) (ws : List RegWrite) : Prop where
  others : s.OthersSame t
  runPc : t.w.runPc = s.w.runPc + BitVec.ofNat 64 (4 * i.words)
  specials : s.w.deferred = [] → t.w.specials = s.w.specials
  still : (t.w.uncounted s.w).still = s.w.still
  pend : t.w.pend = s.w.pend
  mem : t.mem = u.mem
  groups : t.groups = u.groups
  counted : ∀ c, i.counter = some c → s.w.Counted t.w c regs ws

theorem State.accessServe_spec {s u : State} (h : s.Here) {i : Instr} {regs : List RegId} {ops : List ReqOp} {ws : List RegWrite}
    (hfree : ∀ o ∈ ops, ∀ pa ∈ (s.accessReq i regs ops).paOf o, s.tileOver s.w.grp pa = none) (hlast : ∀ q ∈ s.openReqs s.cur, q.seq ≠ s.w.seqNo)
    (hu : (s.modW fun w => w.count i.counter regs false []).performHere (s.accessReq i regs ops) = (u, ws))
    (hkeep : (s.modW fun w => w.count i.counter regs false []).KeepsWarps u) : s.Performed u (s.accessServe i regs ops) i regs ws := by
  have hv := State.modW_eq h fun w => w.count i.counter regs false []
  have hvw := State.modW_w h fun w => w.count i.counter regs false []
  have hvhere : (s.modW fun w => w.count i.counter regs false []).Here := State.modW_isSome h _
  unfold State.accessServe
  generalize (s.modW fun w => w.count i.counter regs false []) = v at *
  have htiles : v.tiles = s.tiles := by rw [hv]; rfl
  have hadds : v.adds = s.adds := by rw [hv]; rfl
  have hcur : v.cur = s.cur := by rw [hv]; rfl
  have hserve : v.serve (s.accessReq i regs ops) = v.perform (s.accessReq i regs ops) := State.serve_of_free fun o ho pa hpa => by
    rw [State.tileOver, htiles]
    exact hfree o ho pa hpa
  have hperform := State.perform_of_keeps hvhere (r := s.accessReq i regs ops) hcur.symm hu hkeep (by rwa [State.openReqs, htiles, hadds, hcur])
  rw [← hserve, hcur, hvw] at hperform
  generalize v.serve (s.accessReq i regs ops) = p at hperform
  have hwarps : p.warps = SMap.put s.warps s.cur ((s.w.count i.counter regs false []).complete s.w.seqNo ws) := by
    rw [hperform, State.setWarp_warps, hkeep.warps, hv, State.setW_warps]
    exact SMap.put_put ..
  have hpcur : p.cur = s.cur := by rw [hperform]
  have hpw : p.w = (s.w.count i.counter regs false []).complete s.w.seqNo ws := by rw [State.w, hpcur, hwarps, SMap.get_put_same]
  have hphere : p.Here := by rw [State.Here, hpcur, hwarps, SMap.find_put_same]; rfl
  have hun : p.w.uncounted s.w = s.w := by rw [hpw, Warp.complete_uncounted, Warp.count_uncounted]
  have hbase {α : Type} (f : Warp → α) (hf : ∀ x : Warp, f (x.uncounted s.w) = f x) : f p.w = f s.w := (hf p.w).symm.trans (congrArg f hun)
  obtain ⟨honly, ⟨hpc, hspec⟩, hstill, hpend⟩ := State.retire_spec hphere i
  have hin := State.retire_inflight hphere i
  have hkept {α : Type} (f : Warp → α) (hf : ∀ x : Warp, f x.still = f x) : f (p.retire i).w = f p.w := by rw [← hf, hstill, hf]
  refine ⟨⟨honly.othersSame.1.trans hpcur, fun k hk => ?_⟩, by rw [hpc, hbase Warp.runPc fun _ => rfl], fun hd => ?_, ?_, hpend.trans (hbase Warp.pend fun _ => rfl),
    honly.mem_eq.trans (by rw [hperform]; rfl), honly.groups_eq.trans (by rw [hperform]; rfl), fun c hc => ?_⟩
  · rw [honly.2 k (by rwa [hpcur]), hwarps, SMap.find_put_other _ _ hk]
  · rw [hspec ((hbase Warp.deferred fun _ => rfl).trans hd), hbase Warp.specials fun _ => rfl]
  · rw [Warp.uncounted_still, hstill, ← Warp.uncounted_still, hun]
  · have hcounted := s.w.count_complete_counted c regs ws
    rw [← hc, ← hpw] at hcounted
    obtain ⟨hmem, hothers, hseq, hmarks, hissued⟩ := hcounted
    rw [← hin] at hmem hothers
    exact ⟨hmem, hothers, (hkept Warp.seqNo fun _ => rfl).trans hseq, (hkept Warp.marks fun _ => rfl).trans hmarks, by rw [hkept Warp.dcIssued fun _ => rfl, hissued]⟩

/-! ### Pops before an access -/

theorem State.popped_grp {s : State} (h : s.Here) (pops : SMap Nat) : (s.popped pops).grp = s.grp := by
  rw [State.grp, State.popped_w h, State.groupAt, (State.popped_onlyWarp h pops).groups_eq]
  rfl

theorem State.popped_grid {s : State} (h : s.Here) (pops : SMap Nat) : (s.popped pops).grid = s.grid := by
  rw [State.grid, State.popped_grp h, State.gridAt, (State.popped_onlyWarp h pops).field State.grids]
  rfl

theorem State.popped_inDomain {s : State} (h : s.Here) (pops : SMap Nat) : (s.popped pops).inDomain = s.inDomain := by rw [State.inDomain, State.popped_grid h, State.inDomain]

theorem State.popped_checkVa {s : State} (h : s.Here) (pops : SMap Nat) (core lane ctx va : Nat) (k : Acc) (lost : Nat → Bool) :
    (s.popped pops).checkVa core lane ctx va k lost = s.checkVa core lane ctx va k lost := by
  have honly := State.popped_onlyWarp h pops
  exact State.checkVa_congr honly.mem_eq (honly.field State.cores) (honly.field State.dies) (honly.field State.ctxs) (honly.field State.lostPages) (honly.field State.failedHomes) ..

/-- Pops change no check. -/
theorem State.popped_tryVa {s : State} (h : s.Here) (pops : SMap Nat) (k : Acc) (n : Nat) (lost : Nat → Bool) (l ea : Nat) : (s.popped pops).tryVa k n lost l ea = s.tryVa k n lost l ea := by
  rw [State.tryVa, State.tryVa, State.ctxNo, State.popped_grid h, State.popped_checkVa h, State.popped_w h]
  rfl

theorem State.popped_lost {s : State} (h : s.Here) (pops : SMap Nat) : (s.popped pops).lost = s.lost := (State.popped_onlyWarp h pops).field State.lost

theorem State.trySp_normal {s : State} (hk : s.w.kind = .normal) (n l ea : Nat) :
    s.trySp n l ea = if ea % n ≠ 0 then .bad 0x01 else if s.grid.ds.spl < ea + n then .bad 0x02 else .ok ea none := by
  have hlane : s.laneWarp l = s.cur := by rw [State.laneWarp, hk]
  rw [State.trySp, hlane]
  rfl

theorem State.popped_tryLanes {s : State} (h : s.Here) (hk : s.w.kind = .normal) (pops : SMap Nat) (spad : Bool) (k : Acc) (n : Nat) (ls : List Nat) (ea : Nat → Nat) :
    (s.popped pops).tryLanes spad k n ls ea = s.tryLanes spad k n ls ea := by
  have hw := State.popped_w h pops
  have hlost (pa : Nat) : (s.popped pops).meetsLost pa n = s.meetsLost pa n := by rw [State.meetsLost, State.meetsLost, State.popped_lost h]
  have hsp (l a : Nat) : (s.popped pops).trySp n l a = s.trySp n l a := by
    rw [State.trySp_normal (hw ▸ hk), State.trySp_normal hk, State.popped_grid h]
  unfold State.tryLanes
  simp only [State.popped_tryVa h, State.popped_lost h, hlost, hsp]

theorem State.popped_tilesClear {s : State} (h : s.Here) (pops : SMap Nat) (pas : List Nat) : (s.popped pops).TilesClear pas ↔ s.TilesClear pas := by
  rw [State.TilesClear, State.TilesClear, (State.popped_onlyWarp h pops).field State.tiles, State.popped_w h]
  rfl

theorem State.popped_openReqs {s : State} (h : s.Here) (pops : SMap Nat) (x : Nat) : (s.popped pops).openReqs x = s.openReqs x := (State.popped_onlyWarp h pops).field fun t => t.openReqs x

theorem State.popped_noneEarlier {s : State} (h : s.Here) (pops : SMap Nat) (spad : Bool) (n : Nat) (as : List (Nat × Nat)) : (s.popped pops).NoneEarlier spad n as ↔ s.NoneEarlier spad n as := by
  rw [State.NoneEarlier, State.NoneEarlier, (State.popped_onlyWarp h pops).field State.cur, State.popped_openReqs h, State.popped_w h]
  rfl

/-! ### Lanes that may perform -/

theorem State.tryVa_of_reaches {s : State} {k : Acc} {n l ea pa : Nat} (h : s.Reaches k n l ea pa) : ∃ x, s.tryVa k n (fun a => s.meetsLost a n) l ea = .ok pa (some x) := by
  obtain ⟨halign, x, hx, rfl⟩ := h
  exact ⟨x, by rw [State.tryVa, if_neg (not_not.2 halign), hx]⟩

/-- A store that meets no lost sector passes whatever part of a sector it writes. -/
theorem State.tryVa_of_reaches_less {s : State} {k : Acc} {n l ea pa : Nat} {less : Nat → Bool} (h : s.Reaches k n l ea pa) (hless : ∀ a, less a = true → s.meetsLost a n = true) :
    ∃ x, s.tryVa k n less l ea = .ok pa (some x) := by
  obtain ⟨halign, x, hx, rfl⟩ := h
  exact ⟨x, by rw [State.tryVa, if_neg (not_not.2 halign), State.checkVa_of_less hless hx]⟩

/-- The checks of an access that is no store, lane by lane. -/
theorem State.tryLanes_eq {s : State} {k : Acc} (hstore : k ≠ .store) (spad : Bool) (n : Nat) (ls : List Nat) (ea : Nat → Nat) :
    s.tryLanes spad k n ls ea = ls.map fun l => (l, if spad then s.trySp n l (ea l) else s.tryVa k n (fun a => s.meetsLost a n) l (ea l)) := by
  rw [State.tryLanes, if_pos hstore]
  cases spad <;> rfl

/-- The checks of a store, lane by lane: those of memory count as lost no more than what the store meets. -/
theorem State.tryLanes_store (s : State) (spad : Bool) (n : Nat) (ls : List Nat) (ea : Nat → Nat) :
    ∃ less : Nat → Bool, (∀ a, less a = true → s.meetsLost a n = true) ∧
      s.tryLanes spad .store n ls ea = ls.map fun l => (l, if spad then s.trySp n l (ea l) else s.tryVa .store n less l (ea l)) := by
  unfold State.tryLanes
  cases spad with
  | true => exact ⟨fun _ => false, nofun, rfl⟩
  | false =>
    simp only [Bool.false_eq_true, if_false, ne_eq, not_true_eq_false]
    split_ifs
    · exact ⟨fun _ => false, nofun, rfl⟩
    · exact ⟨_, fun a ha => (Bool.and_eq_true_iff.1 ha).1, rfl⟩

/-! ### The state in which an access is served -/

/-- The state in which the accesses of a word are served: its pops are done and its translations held, and nothing else has changed. -/
structure State.Ready (s u : State) (pops : SMap Nat) : Prop where
  rest : { u with warps := s.warps, cores := s.cores, dies := s.dies } = s
  others : ∀ h, h ≠ s.cur → SMap.find u.warps h = SMap.find s.warps h
  here : u.Here
  w : u.w = s.w.freePops pops

theorem State.popped_ready {s : State} (h : s.Here) (pops : SMap Nat) {u : State} (hu : (s.popped pops).OnlyUnits u) : s.Ready u pops := by
  have honly := State.popped_onlyWarp h pops
  refine ⟨?_, fun k hk => (congrArg (SMap.find · k) (hu.field State.warps)).trans (honly.2 k hk), (iff_of_eq (hu.field State.Here)).2 (State.popped_here h pops), (hu.field State.w).trans (State.popped_w h pops)⟩
  exact (congrArg (fun x : State => { x with warps := s.warps, cores := s.cores, dies := s.dies }) hu).trans (congrArg (fun x : State => { x with cores := s.cores, dies := s.dies }) honly.1)

namespace State.Ready

variable {s u : State} {pops : SMap Nat}

theorem field {α : Type} (h : s.Ready u pops) (f : State → α) : f { u with warps := s.warps, cores := s.cores, dies := s.dies } = f s := congrArg f h.rest

theorem grp (h : s.Ready u pops) : u.grp = s.grp := by
  rw [State.grp, h.w, State.groupAt, h.field State.groups]
  rfl

theorem inDomain (h : s.Ready u pops) : u.inDomain = s.inDomain := State.inDomain_congr (by rw [h.w]; rfl) (h.field State.groups) (h.field State.grids)

theorem tilesClear (h : s.Ready u pops) {pas : List Nat} (hs : s.TilesClear pas) : u.TilesClear pas := by
  rw [State.TilesClear, h.field State.tiles, h.w]
  exact hs

/-- No part of the present word waits. -/
theorem last (h : s.Ready u pops) (hs : ∀ q ∈ s.openReqs s.cur, q.seq ≠ s.w.seqNo) : ∀ q ∈ u.openReqs u.cur, q.seq ≠ u.w.seqNo := by
  rw [h.w, show u.openReqs u.cur = s.openReqs s.cur from h.field fun t => t.openReqs t.cur]
  exact hs

/-- What a performed word leaves, for the state before its pops. -/
theorem performed {x t : State} {i : Instr} {regs : List RegId} {ws : List RegWrite} (h : s.Ready u pops) (hp : u.Performed x t i regs ws) :
    s.OthersSame t ∧ t.w.runPc = s.w.runPc + BitVec.ofNat 64 (4 * i.words) ∧ (s.w.deferred = [] → t.w.specials = s.w.specials) ∧
      (t.w.uncounted s.w).still = (s.w.freePops pops).still ∧ t.w.pend = s.w.pend ∧ ∀ c, i.counter = some c → s.w.Counted t.w c regs ws := by
  obtain ⟨⟨hcur, hothers⟩, hpc, hspec, hstill, hpend, -, -, hcounted⟩ := hp
  rw [h.w] at hpc hspec hstill hpend hcounted
  refine ⟨⟨hcur.trans (h.field State.cur), fun k hk => (hothers k ?_).trans (h.others k hk)⟩, hpc, hspec, hstill, hpend, hcounted⟩
  rwa [show u.cur = s.cur from h.field State.cur]

end State.Ready

/-! ### An access that nothing stops -/

/-- The accesses of lanes that may perform, at `pa`, or miss. -/
def laneOps (mask : Word) (ea pa : Nat → Nat) (vals : Nat → List DWord) (miss : Nat → Bool) : List ReqOp :=
  (lanesOf mask).map fun l => ⟨l, ea l, if miss l then 0 else pa l, vals l, miss l⟩

theorem metOf_laneOps (mask : Word) (ea pa : Nat → Nat) (vals : Nat → List DWord) (miss : Nat → Bool) :
    metOf (laneOps mask ea pa vals miss) = ((lanesOf mask).filter fun l => !miss l).map fun l => ⟨l, ea l, pa l, vals l, false⟩ := by
  rw [metOf, laneOps, List.filter_map]
  refine List.map_congr_left fun l hl => ?_
  have hmiss : miss l = false := by simpa using (List.mem_filter.1 hl).2
  simp [hmiss]

/-- In a normal warp of an open grid an access that passes its checks in every lane, or misses there as a probe may, meets no tile of another group and no earlier access, is served. -/
theorem State.access_of_ok {s : State} (h : s.Here) (hk : s.w.kind = .normal) (hdom : s.inDomain = false) (hact : s.w.active ≠ 0) (pops : SMap Nat) (i : Instr) (a : AccKind) {mask : Word} {ea pa : Nat → Nat}
    (vals : Nat → List DWord) {miss : Nat → Bool} {check : Nat → LaneRes} (hres : s.tryLanes a.spad a.acc a.n (lanesOf mask) ea = (lanesOf mask).map fun l => (l, check l))
    (hcheck : ∀ l ∈ lanesOf mask, (miss l = false ∧ ∃ x, check l = .ok (pa l) x) ∨ (miss l = true ∧ a.probe = true ∧ check l = .absent))
    (hclear : a.spad = false → s.TilesClear (((lanesOf mask).filter fun l => !miss l).map pa))
    (hearlier : s.NoneEarlier a.spad a.n (((lanesOf mask).filter fun l => !miss l).map fun l => (ea l, pa l))) :
    ∃ u, s.Ready u pops ∧ s.access i a mask ea vals (s.popped pops) = u.accessServe i a.regs (laneOps mask ea pa vals miss) := by
  have hops : accessOps a.probe ea vals ((lanesOf mask).map fun l => (l, check l)) = laneOps mask ea pa vals miss := by
    rw [accessOps, List.filterMap_map, laneOps, ← List.filterMap_eq_map]
    refine List.filterMap_congr fun l hl => ?_
    rcases hcheck l hl with ⟨hmiss, x, hx⟩ | ⟨hmiss, hprobe, habsent⟩
    · simp [hx, LaneRes.op, hmiss]
    · simp [habsent, LaneRes.op, hprobe, hmiss]
  have hbad : accessBad a.probe ((lanesOf mask).map fun l => (l, check l)) = [] := by
    rw [accessBad, List.filterMap_map]
    refine List.filterMap_eq_nil_iff.2 fun l hl => ?_
    rcases hcheck l hl with ⟨-, x, hx⟩ | ⟨-, hprobe, habsent⟩
    · simp [hx, LaneRes.fault]
    · simp [habsent, LaneRes.fault, hprobe]
  have hmet := metOf_laneOps mask ea pa vals miss
  have hpw := State.popped_w h pops
  have hheld := (s.popped pops).holdAll_onlyUnits ((lanesOf mask).map fun l => (l, check l))
  refine ⟨_, State.popped_ready h pops hheld, ?_⟩
  rw [State.access_open (State.popped_here h pops) i a (hpw ▸ hk) ((State.popped_inDomain h pops).trans hdom) ((State.popped_tryLanes h hk pops ..).trans hres)]
  · dsimp only
    have hheldw : ((s.popped pops).holdAll ((lanesOf mask).map fun l => (l, check l))).w = s.w.freePops pops := (hheld.field State.w).trans hpw
    have hnone : (maskOf ([] : List Nat)) &&& ((s.popped pops).holdAll ((lanesOf mask).map fun l => (l, check l))).w.active = 0 := BitVec.zero_and
    rw [hbad, hops, if_neg fun hb => hb.2 rfl, if_neg fun hb => hb.1 rfl, State.memFault, List.map_nil, if_pos hnone, hheldw, if_neg (show (s.w.freePops pops).active ≠ 0 from hact)]
  · rw [hops, hmet, List.map_map]
    refine State.tileFull_of_free fun p hp => ?_
    cases hs : a.spad with
    | true => rw [hs] at hp; exact absurd hp List.not_mem_nil
    | false => rw [hs] at hp; exact State.tileOver_of_clear ((State.popped_tilesClear h pops _).2 (hclear hs)) hp
  · rw [hops, hmet, List.map_map]
    exact State.meetsOpen_of_noneEarlier ((State.popped_noneEarlier h pops ..).2 hearlier)

end Sys2Proof.Machine
end

section
/-! SUPPORT. Loads and stores that perform in an open grid (R186, R190): what they read, what they write, and what they leave. -/

namespace Sys2Proof.Machine

/-! ### The rows -/

/-- A load's probe predicate as its word gives it. -/
def AccRow.probeReg (r : AccRow) : Pr := r.probe.getD 62

/-- The registers that a load writes. -/
def AccRow.written (r : AccRow) : List RegId := r.regs.map .v ++ (r.probe.map fun p => RegId.p p.toNat).toList

theorem exec_of_loadRow {i : Instr} {r : AccRow} (h : loadRow i = some r) (s : State) :
    exec i s = .next (s.loadV i r.spad r.d r.kbase r.voff r.n r.scale r.disp r.probeReg) ∧ (r.probe.isSome = (r.probeReg != 62)) ∧ r.probe ≠ some 62 := by
  unfold loadRow at h
  split at h
  · cases h; exact ⟨rfl, rfl, nofun⟩
  · cases h; exact ⟨rfl, rfl, nofun⟩
  · obtain rfl := Option.some.inj h
    rename_i probe _ _ _
    by_cases hp : probe = 62
    · subst hp; exact ⟨rfl, rfl, nofun⟩
    · simp only [AccRow.probeReg, if_neg hp, Option.getD_some]
      exact ⟨rfl, by simpa using hp, by simpa using hp⟩
  · cases h

theorem exec_of_storeRow {i : Instr} {r : AccRow} (h : storeRow i = some r) (s : State) : exec i s = .next (s.storeV i r.spad r.d r.kbase r.voff r.n r.scale r.disp) := by
  unfold storeRow at h
  split at h
  · cases h; rfl
  · cases h; rfl
  · cases h; rfl
  · cases h

/-- What a load's request does when it performs. -/
theorem performHere_of_loadRow {q : OrdReq} {r : AccRow} (h : loadRow q.instr = some r) :
    ∃ hint, ∀ s : State, s.performHere q = (s.touchLoads r.spad q.pc.toNat r.n hint q.ops, s.loadWrites r.spad r.d.toNat r.n r.sx (r.probe.map BitVec.toNat) q.ops) := by
  unfold loadRow at h
  split at h
  · cases h; exact ⟨0, fun s => by simp only [State.performHere, *]; rfl⟩
  · cases h; exact ⟨0, fun s => by simp only [State.performHere, *]; rfl⟩
  · obtain rfl := Option.some.inj h
    rename_i probe hint _ _ _
    refine ⟨hint.toNat, fun s => ?_⟩
    simp only [State.performHere, *]
    split_ifs <;> rfl
  · cases h

/-- What a store's request does when it performs. -/
theorem performHere_of_storeRow {q : OrdReq} {r : AccRow} (h : storeRow q.instr = some r) : ∃ hint, ∀ s : State, s.performHere q = (s.storeOps r.spad q.pc.toNat r.n hint q.ops, []) := by
  unfold storeRow at h
  split at h
  · cases h; exact ⟨0, fun s => by simp only [State.performHere, *]⟩
  · cases h; exact ⟨0, fun s => by simp only [State.performHere, *]⟩
  · cases h
    rename_i hint _ _
    exact ⟨hint.toNat, fun s => by simp only [State.performHere, *]⟩
  · cases h

/-- A load or store meets tiles where it is one of memory and its lane does not miss. -/
theorem paOf_of_row {q : OrdReq} {r : AccRow} (h : loadRow q.instr = some r ∨ storeRow q.instr = some r) {o : ReqOp} {a : Nat} (ha : a ∈ q.paOf o) : r.spad = false ∧ o.miss = false ∧ a = o.pa := by
  have key : (q.paOf o = none ∨ q.paOf o = (if o.miss then none else some o.pa)) ∧ (q.paOf o = none ∨ r.spad = false) := by
    unfold loadRow storeRow at h
    rcases h with h | h <;> split at h <;> cases h <;> simp only [OrdReq.paOf, *] <;> simp
  obtain ⟨hpa | hpa, hsp⟩ := key
  · rw [hpa] at ha; cases ha
  · rw [hpa] at ha hsp
    cases hm : o.miss <;> simp_all

/-! ### Values read -/

theorem sextInt_eq_toInt {x n : Nat} (hn : 0 < n) : sextInt x n = (BitVec.ofNat n x).toInt := by
  have hmsb : (BitVec.ofNat n x).msb = bitAt x (n - 1) := by
    rw [BitVec.msb_eq_getLsbD_last, BitVec.getLsbD_ofNat, bitAt, Nat.testBit_eq_decide_div_mod_eq]
    simp [hn, beq_eq_decide]
  rw [sextInt, BitVec.toInt_eq_msb_cond, hmsb, BitVec.toNat_ofNat]
  split <;> push_cast <;> rfl

theorem ofNat_widen (sx : Bool) {n : Nat} (hn : 0 < n) (x k : Nat) : BitVec.ofNat k (widen sx n x k) = if sx then (BitVec.ofNat (8 * n) x).signExtend k else BitVec.ofNat k x := by
  cases sx with
  | false =>
    apply BitVec.eq_of_toNat_eq
    simp [widen]
  | true =>
    rw [widen, if_pos rfl, if_pos rfl, ofNat_truncInt, sextInt_eq_toInt (by omega), BitVec.signExtend]

theorem widen_lt (sx : Bool) (n x k : Nat) : widen sx n x k < 2 ^ k := by
  have hpos : (0 : Int) < 2 ^ k := by positivity
  unfold widen truncInt
  split
  · have := Int.emod_lt_of_pos (sextInt x (8 * n)) hpos
    have := Int.emod_nonneg (sextInt x (8 * n)) hpos.ne'
    zify
    omega
  · exact Nat.mod_lt _ (by positivity)

theorem ofNat_widen_loaded (sx : Bool) {n : Nat} (hn : 0 < n) (x : Nat) : BitVec.ofNat 64 (widen sx n x 32) = (loaded sx n x).zeroExtend 64 := by
  have hlt := widen_lt sx n x 32
  rw [loaded, ← ofNat_widen sx hn x 32]
  apply BitVec.eq_of_toNat_eq
  rw [BitVec.toNat_setWidth, BitVec.toNat_ofNat, BitVec.toNat_ofNat, Nat.mod_eq_of_lt hlt]

/-- In an open grid a lane reads memory, or the scratchpad of its side. -/
theorem State.seeN_open {s : State} (hk : s.w.kind = .normal) (hdom : s.inDomain = false) (spad : Bool) (l va pa n : Nat) :
    s.seeN spad l va pa n = if spad then ofBytes ((s.grp.side s.w.twin).readN va n) else s.number pa n := by
  have hlane : s.laneWarp l = s.cur := by rw [State.laneWarp, hk]
  have hsee (i : Nat) : s.see spad l (va + i) (pa + i) = if spad then (s.grp.side s.w.twin).read (va + i) else s.mem.read (pa + i) := by
    rw [State.see, hlane, hdom]
    rfl
  rw [State.seeN, State.number, Memory.readN_eq_map, Memory.readN_eq_map]
  simp only [hsee]
  cases spad <;> rfl

theorem State.touchRead_onlyMem (s : State) (core pc hint : Nat) (accs : List (Nat × Nat)) : s.OnlyMem (s.touchRead core pc hint accs) ∧ (s.touchRead core pc hint accs).mem = s.mem := by
  obtain ⟨h, hmem⟩ := s.takeBias_onlyMem accs
  exact ⟨h.trans (State.onCaches_onlyMem _ _).1, hmem⟩

/-- A load at memory changes the caches, and at a scratchpad nothing. -/
theorem State.touchLoads_onlyMem (s : State) (spad : Bool) (pc n hint : Nat) (ops : List ReqOp) :
    s.OnlyMem (s.touchLoads spad pc n hint ops) ∧ (s.touchLoads spad pc n hint ops).mem = s.mem := by
  cases spad with
  | true => exact ⟨.refl s, rfl⟩
  | false => exact s.touchRead_onlyMem s.w.core pc hint (accsOf n ops)

/-- What a load gives its registers where its lanes read `val`. -/
theorem State.loadWrites_eq {s : State} (hk : s.w.kind = .normal) (hdom : s.inDomain = false) {r : AccRow} (hn : 0 < r.n) {act : Word} {ea pa : Nat → Nat} {val : Nat → Option Nat}
    (hval : ∀ l ∈ lanesOf act, ∀ x, val l = some x → x = if r.spad then ofBytes ((s.grp.side s.w.twin).readN (ea l) r.n) else s.number (pa l) r.n) :
    s.loadWrites r.spad r.d.toNat r.n r.sx (r.probe.map BitVec.toNat) (laneOps act ea pa (fun _ => []) fun l => (val l).isNone) = r.results act val := by
  have hread : ∀ l ∈ lanesOf act, (if (val l).isNone = true then 0 else s.seeN r.spad l (ea l) (if (val l).isNone then 0 else pa l) r.n) = (val l).getD 0 := by
    intro l hl
    cases hv : val l with
    | none => rfl
    | some x => simp [State.seeN_open hk hdom, ← hval l hl x hv]
  have hreg (f : Nat → Nat) : (laneOps act ea pa (fun _ => []) fun l => (val l).isNone).map (fun o => (o.lane, BitVec.ofNat 64 (f (if o.miss then 0 else s.seeN r.spad o.lane o.va o.pa r.n)))) =
      (lanesOf act).map fun l => (l, BitVec.ofNat 64 (f ((val l).getD 0))) := by
    rw [laneOps, List.map_map]
    exact List.map_congr_left fun l hl => by simp only [Function.comp_apply, hread l hl]
  have hmiss : (laneOps act ea pa (fun _ => []) fun l => (val l).isNone).map (fun o => (o.lane, if o.miss then (1 : DWord) else 0)) = (lanesOf act).map fun l => (l, if (val l).isSome then 0 else 1) := by
    rw [laneOps, List.map_map]
    exact List.map_congr_left fun l _ => by simp only [Function.comp_apply]; cases val l <;> rfl
  unfold State.loadWrites AccRow.results
  dsimp only
  rw [hreg fun x => x % 2 ^ 32, hreg fun x => x / 2 ^ 32, hreg fun x => widen r.sx r.n x 32]
  simp only [hmiss, ofNat_widen_loaded r.sx hn]
  cases r.probe <;> rfl

/-! ### Loads (R182 to R186, R189, R190, R196) -/

theorem AccRow.ea_eq (r : AccRow) (w : Warp) (fs : Reads) (l : Nat) :
    effAddr (w.rdK r.kbase.toNat) ((fs.headD fun _ => 0) l) r.scale r.disp = r.ea w (fs.at_ 0) l := by
  have hhead : fs.headD (fun _ => 0) = fs.at_ 0 := by cases fs <;> rfl
  rw [AccRow.ea, effAddr, truncInt, hhead]
  split
  · simp [*]
  · push_cast
    rfl

/-- A load of v registers whose operands can be read accesses memory or its scratchpad. -/
theorem State.loadV_eq {s : State} {i : Instr} {r : AccRow} (h : loadRow i = some r) (h8 : r.n = 8 → r.d ≠ 63) (hwin : ∀ x ∈ r.regs, s.w.isWindow x = false) {fs : Reads} {pops : SMap Nat}
    (hreads : s.w.readRegs r.offs [] = .ok (fs, pops)) :
    exec i s = .next (s.access i { spad := r.spad, acc := .load, n := r.n, probe := r.probe.isSome, uniform := false, ordered := false, regs := r.written } s.w.active (r.ea s.w (fs.at_ 0)) (fun _ => [])
      (s.popped pops)) := by
  obtain ⟨hex, hsome, hnot⟩ := exec_of_loadRow h s
  have hany : r.regs.any s.w.isWindow = false := List.any_eq_false.2 fun x hx => by simp [hwin x hx]
  have hregs : (r.regs.map RegId.v ++ (if r.probeReg = 62 then [] else [.p r.probeReg.toNat])) = r.written := by
    rw [AccRow.written, AccRow.probeReg]
    cases hp : r.probe with
    | none => rfl
    | some p =>
      have hp62 : p ≠ 62 := fun he => hnot (he ▸ hp)
      simpa using hp62
  have hload : s.loadV i r.spad r.d r.kbase r.voff r.n r.scale r.disp r.probeReg =
      if r.n = 8 ∧ r.d = 63 then s.illegalOperand i 0x02
      else if r.regs.any s.w.isWindow then s.illegalOperand i 0x05
      else s.withSrcs i r.offs fun fs s' => s.access i
        { spad := r.spad, acc := .load, n := r.n, probe := r.probeReg != 62, uniform := false, ordered := false, regs := r.regs.map RegId.v ++ (if r.probeReg = 62 then [] else [.p r.probeReg.toNat]) }
        s.w.active (fun l => effAddr (s.w.rdK r.kbase.toNat) ((fs.headD fun _ => 0) l) r.scale r.disp) (fun _ => []) s' := rfl
  rw [hex, hload, if_neg fun hb => h8 hb.1 hb.2, hany, if_neg Bool.false_ne_true, State.withSrcs_ok i hreads, hregs, ← hsome]
  simp only [AccRow.ea_eq]

end Sys2Proof.Machine
end

section
/-! OBLIGATION. Loads (R182 to R186, R189, R190, R196). -/

namespace Sys2Proof.Machine

theorem loadRow_bytes {i : Instr} {r : AccRow} (h : loadRow i = some r) : 0 < r.n := by
  have hpos (sz : ESize) : 0 < sz.bytes := by cases sz <;> decide
  unfold loadRow at h
  split at h <;> cases h <;> exact hpos _

theorem loadRow_probe_spad {i : Instr} {r : AccRow} (h : loadRow i = some r) (hp : r.probe ≠ none) : r.spad = false := by
  unfold loadRow at h
  split at h <;> cases h
  · rfl
  · exact absurd rfl hp
  · rfl

/-- The state in which a counted word's request performs reads the same memory and the same scratchpad. -/
theorem State.count_open {u : State} (h : u.Here) (c : Option Nat) (regs : List RegId) :
    let v := u.modW fun w => w.count c regs false []
    v.w.kind = u.w.kind ∧ v.w.twin = u.w.twin ∧ v.w.core = u.w.core ∧ v.w.grp = u.w.grp ∧ v.inDomain = u.inDomain ∧ v.grp = u.grp := by
  intro v
  have hw : v.w = u.w.count c regs false [] := State.modW_w h _
  have hgrp : v.w.grp = u.w.grp := by rw [hw, Warp.count_same _ _ _ _ _ Warp.grp fun _ => rfl]
  refine ⟨?_, ?_, ?_, hgrp, State.inDomain_modW h (Warp.count_same _ _ _ _ _ Warp.grp fun _ => rfl), ?_⟩
  · rw [hw, Warp.count_same _ _ _ _ _ Warp.kind fun _ => rfl]
  · rw [hw, Warp.count_same _ _ _ _ _ Warp.twin fun _ => rfl]
  · rw [hw, Warp.count_same _ _ _ _ _ Warp.core fun _ => rfl]
  · rw [State.grp, hgrp, State.groupAt, State.modW_groups]
    rfl

/-- A load that is served reads its lanes' values, and changes the caches alone. -/
theorem State.accessServe_load {u : State} (h : u.Here) (hk : u.w.kind = .normal) (hdom : u.inDomain = false) {i : Instr} {r : AccRow} (hi : loadRow i = some r) {act : Word} {ea pa : Nat → Nat}
    {val : Nat → Option Nat} (hval : ∀ l ∈ lanesOf act, ∀ x, val l = some x → x = if r.spad then ofBytes ((u.grp.side u.w.twin).readN (ea l) r.n) else u.number (pa l) r.n)
    (hclear : r.spad = false → u.TilesClear (((lanesOf act).filter fun l => !(val l).isNone).map pa)) (hlast : ∀ q ∈ u.openReqs u.cur, q.seq ≠ u.w.seqNo) (regs : List RegId) :
    ∃ x : State, x.mem = u.mem ∧ x.groups = u.groups ∧
      u.Performed x (u.accessServe i regs (laneOps act ea pa (fun _ => []) fun l => (val l).isNone)) i regs (r.results act val) := by
  obtain ⟨hint, hperform⟩ := performHere_of_loadRow (q := u.accessReq i regs (laneOps act ea pa (fun _ => []) fun l => (val l).isNone)) hi
  obtain ⟨hkv, htwin, -, -, hdv, hgrp⟩ := State.count_open h i.counter regs
  have hmem := u.modW_mem fun w => w.count i.counter regs false []
  have hgroups := u.modW_groups fun w => w.count i.counter regs false []
  obtain ⟨honly, hsame⟩ := (u.modW fun w => w.count i.counter regs false []).touchLoads_onlyMem r.spad u.w.runPc.toNat r.n hint (laneOps act ea pa (fun _ => []) fun l => (val l).isNone)
  have hwrites : (u.modW fun w => w.count i.counter regs false []).loadWrites r.spad r.d.toNat r.n r.sx (r.probe.map BitVec.toNat) (laneOps act ea pa (fun _ => []) fun l => (val l).isNone) = r.results act val := by
    refine State.loadWrites_eq (hkv.trans hk) (hdv.trans hdom) (loadRow_bytes hi) fun l hl x hx => ?_
    rw [hgrp, htwin, State.number, hmem]
    exact hval l hl x hx
  refine ⟨_, hsame.trans hmem, (honly.field State.groups).trans hgroups, State.accessServe_spec h (fun o ho a ha => ?_) hlast ((hperform _).trans (by rw [← hwrites]; rfl)) honly.keepsWarps⟩
  obtain ⟨hsp, hmiss, rfl⟩ := paOf_of_row (.inl hi) ha
  have hmet : o ∈ metOf (laneOps act ea pa (fun _ => []) fun l => (val l).isNone) := List.mem_filter.2 ⟨ho, by simp [hmiss]⟩
  rw [metOf_laneOps] at hmet
  obtain ⟨l, hl, rfl⟩ := List.mem_map.1 hmet
  exact State.tileOver_of_clear (hclear hsp) (List.mem_map_of_mem hl)

/-- A lane of a load may perform and reads `val`, or, with a probe predicate, meets a page that is not resident. -/
def State.LaneLoads (s : State) (spad : Bool) (n l ea pa : Nat) (probe : Option Pr) (val : Option Nat) : Prop :=
  if spad then s.ReachesSp n ea ∧ val = some (ofBytes ((s.grp.side s.w.twin).readN ea n))
  else (s.Reaches .load n l ea pa ∧ val = some (s.number pa n)) ∨
    probe ≠ none ∧ ea % n = 0 ∧ val = none ∧ s.checkVa s.w.core l s.ctxNo ea .load (fun a => s.meetsLost a n) = .error 0x07

/-- The checks of a load come to accesses at `pa`, or to misses where `val` has no value. -/
theorem State.load_check {s : State} (hk : s.w.kind = .normal) {spad : Bool} {n l ea pa : Nat} {probe : Option Pr} {val : Option Nat}
    (h : s.LaneLoads spad n l ea pa probe val) :
    let check := if spad then s.trySp n l ea else s.tryVa .load n (fun a => s.meetsLost a n) l ea
    (val.isNone = false ∧ ∃ x, check = .ok (if spad then ea else pa) x) ∨ (val.isNone = true ∧ probe.isSome = true ∧ check = .absent) := by
  intro check
  cases spad with
  | true =>
    obtain ⟨⟨halign, hroom⟩, rfl⟩ := h
    refine .inl ⟨rfl, none, ?_⟩
    exact (State.trySp_normal hk n l ea).trans (by rw [if_neg (not_not.2 halign), if_neg (not_lt.2 hroom)]; rfl)
  | false =>
    rcases h with ⟨hreach, rfl⟩ | ⟨hprobe, halign, rfl, herr⟩
    · exact .inl ⟨rfl, (State.tryVa_of_reaches hreach).imp' some fun _ hx => hx⟩
    · refine .inr ⟨rfl, Option.isSome_iff_ne_none.2 hprobe, ?_⟩
      have hmiss : s.tryVa .load n (fun a => s.meetsLost a n) l ea = .absent := by
        rw [State.tryVa, if_neg (not_not.2 halign), herr]
        rfl
      exact hmiss

theorem State.load_value {s : State} {spad : Bool} {n l ea pa : Nat} {probe : Option Pr} {val : Option Nat}
    (h : s.LaneLoads spad n l ea pa probe val) {x : Nat} (hx : val = some x) :
    x = if spad then ofBytes ((s.grp.side s.w.twin).readN ea n) else s.number (if spad then ea else pa) n := by
  cases spad with
  | true => exact Option.some.inj (hx.symm.trans h.2)
  | false =>
    rcases h with ⟨-, hv⟩ | ⟨-, -, hv, -⟩
    · exact Option.some.inj (hx.symm.trans hv)
    · cases hx.symm.trans hv

/-- Settles O18: each lane's check passes, or misses where the load probes, so that the load is served as it issues and reads memory or the scratchpad as they stand. -/
theorem loads : Obligations.Loads := by
  unfold Obligations.Loads
  intro i r s c fs pops pa val hi hc h hk hdom hact h8 hwin hreads hlanes met hclear hearlier
  let ea := r.ea s.w (fs.at_ 0)
  let at_ (l : Nat) : Nat := if r.spad then ea l else pa l
  have hlane (l : Nat) (hl : l ∈ lanesOf s.w.active) : s.LaneLoads r.spad r.n l (ea l) (pa l) r.probe (val l) := hlanes l ((mem_lanesOf _ _).1 hl).1 ((mem_lanesOf _ _).1 hl).2
  have hmet : met = (lanesOf s.w.active).filter fun l => !(val l).isNone := List.filter_congr fun l _ => by cases val l <;> rfl
  have hclear' : r.spad = false → s.TilesClear (((lanesOf s.w.active).filter fun l => !(val l).isNone).map at_) := fun hsp => by
    have hat : at_ = pa := funext fun l => by simp [at_, hsp]
    rw [hat, ← hmet]
    exact hclear hsp
  obtain ⟨u, hready, hserve⟩ := State.access_of_ok h hk hdom hact pops i
    { spad := r.spad, acc := .load, n := r.n, probe := r.probe.isSome, uniform := false, ordered := false, regs := r.written } (fun _ => []) (State.tryLanes_eq (k := .load) nofun r.spad r.n _ ea)
    (fun l hl => State.load_check hk (hlane l hl)) hclear' (hmet ▸ hearlier)
  obtain ⟨x, hmem, hgroups, hperf⟩ := State.accessServe_load hready.here (by rw [hready.w]; exact hk) (hready.inDomain.trans hdom) hi (ea := ea) (pa := at_) (val := val)
    (fun l hl x hx => by rw [hready.grp, hready.w, State.number, hready.field State.mem]; exact State.load_value (hlane l hl) hx)
    (fun hsp => hready.tilesClear (hclear' hsp)) (hready.last fun q hq => (hearlier q hq).1) r.written
  obtain ⟨hothers, hpc, hspec, hstill, hpend, hcounted⟩ := hready.performed hperf
  refine ⟨_, (State.loadV_eq hi h8 hwin hreads).trans (congrArg _ hserve), hothers, fun a => ?_, ?_, hpc, hspec, hstill, hpend, hcounted c hc⟩
  · rw [hperf.mem, hmem, hready.field State.mem]
  · rw [hperf.groups, hgroups, hready.field State.groups]

end Sys2Proof.Machine
end

section
/-! OBLIGATION. Stores (R182 to R185, R189, R190). -/

namespace Sys2Proof.Machine

/-! ### Writes of lanes -/

theorem lanesOf_pairwise (m : Word) : (lanesOf m).Pairwise (· < ·) := List.pairwise_lt_range.filter _

/-- The bytes that lanes store, lane by lane. -/
def laneWrites (n : Nat) (ls : List Nat) (pa : Nat → Nat) (x : Nat → Nat) : List (Nat × List Byte) := ls.map fun l => (pa l, toBytes n (x l))

theorem read_laneWrites_outside {m : Memory} {n a : Nat} {ls : List Nat} {pa x : Nat → Nat} (h : ∀ l ∈ ls, ¬ (pa l ≤ a ∧ a < pa l + n)) : (writeAll m (laneWrites n ls pa x)).read a = m.read a := by
  refine read_writeAll_outside fun y hy => ?_
  obtain ⟨l, hl, rfl⟩ := List.mem_map.1 hy
  have := h l hl
  rw [toBytes_length]
  dsimp only
  omega

/-- A byte that several lanes store ends with the highest one's (R190). -/
theorem read_laneWrites {m : Memory} {n l a : Nat} {ls : List Nat} {pa x : Nat → Nat} (hsorted : ls.Pairwise (· < ·)) (hl : l ∈ ls) (hlow : pa l ≤ a) (hhigh : a < pa l + n)
    (hlast : ∀ k ∈ ls, l < k → ¬ (pa k ≤ a ∧ a < pa k + n)) : (writeAll m (laneWrites n ls pa x)).read a = BitVec.ofNat 8 (x l / 256 ^ (a - pa l)) := by
  obtain ⟨pre, post, rfl⟩ := List.append_of_mem hl
  have hafter : ∀ k ∈ post, l < k := fun k hk => (List.pairwise_cons.1 (List.pairwise_append.1 hsorted).2.1).1 k hk
  have hsplit : writeAll m (laneWrites n (pre ++ l :: post) pa x) = writeAll ((writeAll m (laneWrites n pre pa x)).writeN (pa l) (toBytes n (x l))) (laneWrites n post pa x) := by
    simp only [writeAll, laneWrites, List.map_append, List.map_cons, List.foldl_append, List.foldl_cons]
  have hin : a - pa l < (toBytes n (x l)).length := by rw [toBytes_length]; omega
  rw [hsplit, read_laneWrites_outside fun k hk => hlast k (List.mem_append_right _ (List.mem_cons_of_mem l hk)) (hafter k hk), Memory.read_writeN, toBytes_length, if_pos ⟨hlow, hhigh⟩,
    List.getD_eq_getElem _ _ hin, getElem_toBytes]

/-! ### What a store leaves -/

/-- Stores have left these writes in memory, or in the scratchpad of the current warp's side. -/
structure State.Stored (s u : State) (spad : Bool) (xs : List (Nat × List Byte)) : Prop where
  memory : spad = false → u.groups = s.groups ∧ u.mem = writeAll s.mem xs
  pad : spad = true → u.mem = s.mem ∧ (∀ g, g ≠ s.w.grp → u.groupAt g = s.groupAt g) ∧ u.groupAt s.w.grp = s.grp.setSide s.w.twin (writeAll (s.grp.side s.w.twin) xs)

theorem Group.setSide_setSide (g : Group) (twin : Bool) (m n : Memory) : (g.setSide twin m).setSide twin n = g.setSide twin n := by cases twin <;> rfl
theorem Group.setSide_side (g : Group) (twin : Bool) : g.setSide twin (g.side twin) = g := by cases twin <;> rfl

/-- Stores at a scratchpad, one after the other. -/
theorem State.storeAs_stored {xs : List (Nat × Nat × Nat × List Byte)} {s : State} (hk : s.w.kind = .normal) (h : s.inDomain = false) :
    s.KeepsWarps (xs.foldl (fun s x => s.storeAs true x.1 x.2.1 x.2.2.1 x.2.2.2) s) ∧ s.Stored (xs.foldl (fun s x => s.storeAs true x.1 x.2.1 x.2.2.1 x.2.2.2) s) true (xs.map fun x => (x.2.1, x.2.2.2)) := by
  induction xs generalizing s with
  | nil => exact ⟨⟨rfl, rfl, rfl, rfl⟩, nofun, fun _ => ⟨rfl, fun _ _ => rfl, (Group.setSide_side ..).symm⟩⟩
  | cons x xs ih =>
    have hone := s.modGrp_onlyPad x.2.1 x.2.2.2
    have hown : (s.modGrp fun g => g.setSide s.w.twin ((g.side s.w.twin).writeN x.2.1 x.2.2.2)).grp = s.grp.setSide s.w.twin ((s.grp.side s.w.twin).writeN x.2.1 x.2.2.2) := SMap.get_put_same _ _ _ _
    have hother (g : Nat) (hg : g ≠ s.w.grp) : (s.modGrp fun g => g.setSide s.w.twin ((g.side s.w.twin).writeN x.2.1 x.2.2.2)).groupAt g = s.groupAt g := SMap.get_put_other _ _ _ hg
    rw [List.foldl_cons, State.storeAs_pad hk h]
    generalize s.modGrp _ = u at hone hown hother ⊢
    obtain ⟨hkeeps, -, hpad⟩ := ih (s := u) (by rw [hone.w, hk]) (by rw [hone.inDomain, h])
    obtain ⟨hmem, hothers, hgrp⟩ := hpad rfl
    obtain ⟨hcur, hwarps, htiles, hadds⟩ := hone.keepsWarps
    rw [hone.w] at hothers hgrp
    refine ⟨⟨hkeeps.cur.trans hcur, hkeeps.warps.trans hwarps, hkeeps.tiles.trans htiles, hkeeps.adds.trans hadds⟩, nofun, fun _ => ⟨hmem.trans (hone.field State.mem), fun g hg => (hothers g hg).trans (hother g hg), ?_⟩⟩
    rw [hgrp, hown, Group.setSide_setSide, Group.side_setSide]
    rfl

/-- A store of an open grid takes lost marks away at most. -/
theorem State.clearWhole_spec {s : State} (h : s.inDomain = false) (l : Nat) (vas pas : List (Nat × Nat)) : ∃ lost, s.clearWhole l vas pas = { s with lost := lost } := by
  rw [State.clearWhole, h]
  cases s.w.kind <;> dsimp only <;> split <;> exact ⟨_, rfl⟩

/-- The stores of one instruction of an open grid. -/
theorem State.storeOps_stored {s : State} (hk : s.w.kind = .normal) (h : s.inDomain = false) (spad : Bool) (pc n hint : Nat) (ops : List ReqOp) :
    s.KeepsWarps (s.storeOps spad pc n hint ops) ∧ s.Stored (s.storeOps spad pc n hint ops) spad (ops.map fun o => (if spad then o.va else o.pa, toBytes n ((o.vals.headD 0).toNat))) := by
  cases spad with
  | true =>
    have hstore := State.storeAs_stored (xs := ops.map fun o => (o.lane, o.va, o.pa, toBytes n ((o.vals.headD 0).toNat))) hk h
    have hpad := State.storeAs_onlyPad (xs := ops.map fun o => (o.lane, o.va, o.pa, toBytes n ((o.vals.headD 0).toNat))) hk h
    rw [State.storeOps, State.storeList, if_pos rfl, Bool.true_or, if_pos rfl, State.spillRecords_same (by rw [hpad.w])]
    rw [List.map_map] at hstore
    exact hstore
  | false =>
    obtain ⟨htouch, htmem⟩ := s.touchWrite_onlyMem s.w.core pc hint (ops.map fun o => (o.pa, (toBytes n ((o.vals.headD 0).toNat)).length))
    have hlist : s.storeOps false pc n hint ops =
        let xs := ops.map fun o => (o.lane, o.va, o.pa, toBytes n ((o.vals.headD 0).toNat))
        let t := s.touchWrite s.w.core pc hint (ops.map fun o => (o.pa, (toBytes n ((o.vals.headD 0).toNat)).length))
        ((xs.foldl (fun s x => s.storeAs false x.1 x.2.1 x.2.2.1 x.2.2.2) t).spillRecords t.w.spill).clearWhole ((xs.head?.map Prod.fst).getD 0) (xs.map fun x => (x.2.1, x.2.2.2.length))
          (xs.map fun x => (x.2.2.1, x.2.2.2.length)) := by
      rw [State.storeOps, State.storeList, h, if_neg Bool.false_ne_true]
      simp only [Bool.or_false, Bool.false_eq_true, if_false, List.map_map]
      rfl
    rw [hlist]
    generalize s.touchWrite s.w.core pc hint (ops.map fun o => (o.pa, (toBytes n ((o.vals.headD 0).toNat)).length)) = t at htouch htmem ⊢
    obtain ⟨htw, htdom, -⟩ := htouch.open_
    obtain ⟨hstore, hmem⟩ := State.storeAs_onlyMem (xs := ops.map fun o => (o.lane, o.va, o.pa, toBytes n ((o.vals.headD 0).toNat))) (s := t) (by rw [htw, hk]) (by rw [htdom, h])
    dsimp only
    generalize (ops.map fun o => (o.lane, o.va, o.pa, toBytes n ((o.vals.headD 0).toNat))).foldl (fun s x => s.storeAs false x.1 x.2.1 x.2.2.1 x.2.2.2) t = v at hstore hmem ⊢
    obtain ⟨hvw, hvdom, -⟩ := hstore.open_
    have honly := htouch.trans hstore
    rw [State.spillRecords_same (by rw [hvw])]
    obtain ⟨lost, hclear⟩ := State.clearWhole_spec (s := v) (by rw [hvdom, htdom, h]) (((ops.map fun o => (o.lane, o.va, o.pa, toBytes n ((o.vals.headD 0).toNat))).head?.map Prod.fst).getD 0)
      ((ops.map fun o => (o.lane, o.va, o.pa, toBytes n ((o.vals.headD 0).toNat))).map fun x => (x.2.1, x.2.2.2.length))
      ((ops.map fun o => (o.lane, o.va, o.pa, toBytes n ((o.vals.headD 0).toNat))).map fun x => (x.2.2.1, x.2.2.2.length))
    rw [hclear]
    refine ⟨⟨honly.field State.cur, honly.field State.warps, honly.field State.tiles, honly.field State.adds⟩, fun _ => ⟨honly.field State.groups, ?_⟩, nofun⟩
    rw [htmem, List.map_map] at hmem
    exact hmem

/-- A store that is served leaves its lanes' bytes. -/
theorem State.accessServe_store {u : State} (h : u.Here) (hk : u.w.kind = .normal) (hdom : u.inDomain = false) {i : Instr} {spad : Bool} {n : Nat} {mask : Word} {ea pa : Nat → Nat} {vals : Nat → List DWord}
    (hperform : ∃ pc hint, ∀ s : State, s.performHere (u.accessReq i [] (laneOps mask ea pa vals fun _ => false)) = (s.storeOps spad pc n hint (laneOps mask ea pa vals fun _ => false), []))
    (hpas : ∀ o ∈ laneOps mask ea pa vals fun _ => false, ∀ a ∈ (u.accessReq i [] (laneOps mask ea pa vals fun _ => false)).paOf o, spad = false ∧ a = o.pa)
    (hpad : spad = true → ∀ l ∈ lanesOf mask, pa l = ea l) (hclear : spad = false → u.TilesClear ((lanesOf mask).map pa)) (hlast : ∀ q ∈ u.openReqs u.cur, q.seq ≠ u.w.seqNo) :
    ∃ x, u.Stored x spad (laneWrites n (lanesOf mask) pa fun l => ((vals l).headD 0).toNat) ∧ u.Performed x (u.accessServe i [] (laneOps mask ea pa vals fun _ => false)) i [] [] := by
  obtain ⟨pc, hint, hperform⟩ := hperform
  obtain ⟨hkv, htwin, -, hgrpNo, hdv, hgrp⟩ := State.count_open h i.counter []
  have hv := State.modW_eq h fun w => w.count i.counter [] false []
  have hstored := State.storeOps_stored (hkv.trans hk) (hdv.trans hdom) spad pc n hint (laneOps mask ea pa vals fun _ => false)
  have hxs : ((laneOps mask ea pa vals fun _ => false).map fun o => (if spad then o.va else o.pa, toBytes n ((o.vals.headD 0).toNat))) = laneWrites n (lanesOf mask) pa fun l => ((vals l).headD 0).toNat := by
    rw [laneOps, List.map_map, laneWrites]
    refine List.map_congr_left fun l hl => ?_
    cases hs : spad with
    | true => simp [hpad hs l hl]
    | false => simp
  rw [hxs] at hstored
  obtain ⟨hkeeps, hmemory, hpadded⟩ := hstored
  rw [State.modW_mem, State.modW_groups] at hmemory
  rw [State.modW_mem, hgrpNo, hgrp, htwin] at hpadded
  refine ⟨_, ⟨hmemory, fun hs => ?_⟩, State.accessServe_spec h (fun o ho a ha => ?_) hlast (hperform _) hkeeps⟩
  · simpa only [State.groupAt, State.modW_groups] using hpadded hs
  · obtain ⟨hs, rfl⟩ := hpas o ho a ha
    obtain ⟨l, hl, rfl⟩ := List.mem_map.1 ho
    exact State.tileOver_of_clear (hclear hs) (List.mem_map_of_mem hl)

/-- The value that a lane of a store holds in its data registers. -/
def AccRow.stored (r : AccRow) (fs : Reads) (l : Nat) : DWord := fs.at_ (r.offs.length + 1) l ++ fs.at_ r.offs.length l

theorem AccRow.stored_toNat (r : AccRow) {fs : Reads} (hlen : fs.length = (r.offs ++ r.regs).length) (l : Nat) :
    (r.stored fs l).toNat = (fs.at_ r.offs.length l).toNat + (if r.n = 8 then (fs.at_ (r.offs.length + 1) l).toNat * 2 ^ 32 else 0) := by
  have happ : (r.stored fs l).toNat = (fs.at_ (r.offs.length + 1) l).toNat * 2 ^ 32 + (fs.at_ r.offs.length l).toNat := by
    rw [AccRow.stored, BitVec.toNat_append, ← Nat.shiftLeft_add_eq_or_of_lt (BitVec.isLt _), Nat.shiftLeft_eq]
  rw [happ]
  split_ifs with h8
  · exact Nat.add_comm ..
  · have hout : fs.at_ (r.offs.length + 1) l = 0 := by
      have hregs : r.regs.length = 1 := by rw [AccRow.regs, if_neg h8]; rfl
      rw [Reads.at_, List.getD_eq_default _ _ (by rw [hlen, List.length_append, hregs])]
    rw [hout]
    simp

/-- A store of v registers whose operands can be read accesses memory or its scratchpad. -/
theorem State.storeV_eq {s : State} {i : Instr} {r : AccRow} (h : storeRow i = some r) (h8 : r.n = 8 → r.d ≠ 63) {fs : Reads} {pops : SMap Nat} (hreads : s.w.readRegs (r.offs ++ r.regs) [] = .ok (fs, pops)) :
    exec i s = .next (s.access i { spad := r.spad, acc := .store, n := r.n, probe := false, uniform := false, ordered := false, regs := [] } s.w.active (r.ea s.w (fs.at_ 0)) (fun l => [r.stored fs l])
      (s.popped pops)) := by
  have hstore : s.storeV i r.spad r.d r.kbase r.voff r.n r.scale r.disp =
      if r.n = 8 ∧ r.d = 63 then s.illegalOperand i 0x02
      else s.withSrcs i (r.offs ++ r.regs) fun fs s' => s.access i { spad := r.spad, acc := .store, n := r.n, probe := false, uniform := false, ordered := false, regs := [] } s.w.active
        (fun l => effAddr (s.w.rdK r.kbase.toNat) (if r.scale = 0 then 0 else (fs.headD fun _ => 0) l) r.scale r.disp)
        (fun l => [((fs.drop r.offs.length).getD 1 fun _ => 0) l ++ ((fs.drop r.offs.length).getD 0 fun _ => 0) l]) s' := rfl
  have hea : (fun l => effAddr (s.w.rdK r.kbase.toNat) (if r.scale = 0 then 0 else (fs.headD fun _ => 0) l) r.scale r.disp) = r.ea s.w (fs.at_ 0) := by
    funext l
    rw [← AccRow.ea_eq, effAddr, effAddr]
    split_ifs with h0
    · simp [h0]
    · rfl
  have hval : (fun l => [((fs.drop r.offs.length).getD 1 fun _ => 0) l ++ ((fs.drop r.offs.length).getD 0 fun _ => 0) l]) = fun l => [r.stored fs l] := by
    funext l
    simp [AccRow.stored, Reads.at_, List.getD_eq_getElem?_getD]
  rw [exec_of_storeRow h, hstore, if_neg fun hb => h8 hb.1 hb.2, State.withSrcs_ok i hreads, hea, hval]

/-- Settles O19: each lane's check passes, so that the store is served as it issues; its writes follow one another in ascending lane. -/
theorem stores : Obligations.Stores := by
  unfold Obligations.Stores
  intro i r s fs pops pa hi h hk hdom hact h8 hreads data ea hits hlanes met hclear hearlier
  have hlane (l : Nat) (hl : l ∈ lanesOf s.w.active) := hlanes l ((mem_lanesOf _ _).1 hl).1 ((mem_lanesOf _ _).1 hl).2
  have hfilter : ((lanesOf s.w.active).filter fun l => !(fun _ => false : Nat → Bool) l) = lanesOf s.w.active := by simp
  obtain ⟨less, hless, htry⟩ := s.tryLanes_store r.spad r.n (lanesOf s.w.active) ea
  have hpad : r.spad = true → ∀ l ∈ lanesOf s.w.active, pa l = ea l := fun hsp l hl => (if_pos hsp ▸ hlane l hl).2
  have hcheck (l : Nat) (hl : l ∈ lanesOf s.w.active) : ∃ x, (if r.spad then s.trySp r.n l (ea l) else s.tryVa .store r.n less l (ea l)) = .ok (pa l) x := by
    have hone := hlane l hl
    cases hsp : r.spad with
    | true =>
      obtain ⟨hroom, heq⟩ := if_pos hsp ▸ hone
      exact ⟨none, heq ▸ State.reaches_trySp hk hroom l⟩
    | false =>
      rw [hsp, if_neg Bool.false_ne_true] at hone
      exact (State.tryVa_of_reaches_less hone hless).imp' some fun _ hx => hx
  obtain ⟨u, hready, hserve⟩ := State.access_of_ok h hk hdom hact pops i { spad := r.spad, acc := .store, n := r.n, probe := false, uniform := false, ordered := false, regs := [] }
    (fun l => [r.stored fs l]) htry (miss := fun _ => false) (fun l hl => .inl ⟨rfl, hcheck l hl⟩) (by rw [hfilter]; exact hclear) (by rw [hfilter]; exact hearlier)
  obtain ⟨x, ⟨hmemory, hpadded⟩, hperf⟩ := State.accessServe_store hready.here (by rw [hready.w]; exact hk) (hready.inDomain.trans hdom) (i := i) (spad := r.spad) (n := r.n)
    (mask := s.w.active) (ea := ea) (pa := pa) (vals := fun l => [r.stored fs l]) ⟨_, performHere_of_storeRow (q := u.accessReq i [] _) hi⟩
    (fun o _ a ha => ⟨(paOf_of_row (.inr hi) ha).1, (paOf_of_row (.inr hi) ha).2.2⟩) hpad (fun hsp => hready.tilesClear (hclear hsp)) (hready.last fun q hq => (hearlier q hq).1)
  obtain ⟨hothers, hpc, hspec, hstill, hpend, hcounted⟩ := hready.performed hperf
  have hval (l : Nat) : (([r.stored fs l] : List DWord).headD 0).toNat = data l := r.stored_toNat (Warp.readRegs_length hreads) l
  simp only [hval] at hmemory hpadded
  have hout (m : Memory) (a : Nat) (ha : ∀ l, ¬ hits l a) : (writeAll m (laneWrites r.n (lanesOf s.w.active) pa data)).read a = m.read a :=
    read_laneWrites_outside fun l hl hin => ha l ⟨((mem_lanesOf _ _).1 hl).1, ((mem_lanesOf _ _).1 hl).2, hin⟩
  have hin (m : Memory) (l a : Nat) (hl : hits l a) (hlast : ∀ k, l < k → ¬ hits k a) : (writeAll m (laneWrites r.n (lanesOf s.w.active) pa data)).read a = BitVec.ofNat 8 (data l / 256 ^ (a - pa l)) := by
    obtain ⟨hlt, hact, hlow, hhigh⟩ := hl
    exact read_laneWrites (lanesOf_pairwise _) ((mem_lanesOf _ _).2 ⟨hlt, hact⟩) hlow hhigh fun k hk hlk hin => hlast k hlk ⟨((mem_lanesOf _ _).1 hk).1, ((mem_lanesOf _ _).1 hk).2, hin⟩
  refine ⟨_, (State.storeV_eq hi h8 hreads).trans (congrArg _ hserve), hothers, hpc, hspec, hstill, hpend, hcounted, fun hsp => ?_, fun hsp => ?_⟩
  · obtain ⟨hgroups, hmem⟩ := hmemory hsp
    rw [hperf.mem, hperf.groups, hgroups, hmem, hready.field State.mem, hready.field State.groups]
    exact ⟨rfl, hout s.mem, hin s.mem⟩
  · obtain ⟨hmem, hgroups, hown⟩ := hpadded hsp
    have hgrp : (u.accessServe i [] (laneOps s.w.active ea pa (fun l => [r.stored fs l]) fun _ => false)).grp = s.grp.setSide s.w.twin (writeAll (s.grp.side s.w.twin) (laneWrites r.n (lanesOf s.w.active) pa data)) := by
      have hno := congrArg Warp.grp hstill
      rw [State.grp, State.groupAt, hperf.groups, show (u.accessServe i [] _).w.grp = s.w.grp from hno]
      rw [hready.grp, hready.w] at hown
      exact hown
    rw [hperf.mem, hmem, hready.field State.mem, hgrp, Group.setSide_setSide, Group.side_setSide]
    refine ⟨fun _ => rfl, fun g hg => ?_, rfl, hout _, hin _⟩
    rw [hready.w] at hgroups
    rw [State.groupAt, hperf.groups]
    exact (hgroups g hg).trans (hready.field fun t => t.groupAt g)

end Sys2Proof.Machine
end

section
/-! OBLIGATION. Uniform accesses (R192). -/

namespace Sys2Proof.Machine

theorem lanesOf_maskOf_single {l : Nat} (h : l < 32) : lanesOf (maskOf [l]) = [l] := by
  have hall : ∀ l < 32, lanesOf (maskOf [l]) = [l] := by decide
  exact hall l h

theorem lowLane_lt {m : Word} (h : m ≠ 0) : lowLane m < 32 := ((mem_lanesOf _ _).1 (lowLane_mem h)).1

/-- The one access of a uniform instruction. -/
theorem laneOps_single {l : Nat} (h : l < 32) (ea pa : Nat → Nat) (vals : Nat → List DWord) (miss : Nat → Bool) :
    laneOps (maskOf [l]) ea pa vals miss = [⟨l, ea l, if miss l then 0 else pa l, vals l, miss l⟩] := by
  rw [laneOps, lanesOf_maskOf_single h]
  rfl

/-- A uniform access that may perform is served for the lowest active lane. -/
theorem State.access_uniform {s : State} (h : s.Here) (hk : s.w.kind = .normal) (hdom : s.inDomain = false) (hact : s.w.active ≠ 0) (i : Instr) {k : Acc} {n ea pa : Nat} {regs : List RegId} (vals : List DWord)
    (hreach : s.Reaches k n (lowLane s.w.active) ea pa) (hclear : s.TilesClear [pa]) (hearlier : s.NoneEarlier false n [(ea, pa)]) :
    ∃ u, s.Ready u [] ∧ s.access i { spad := false, acc := k, n := n, probe := false, uniform := true, ordered := false, regs := regs } (maskOf [lowLane s.w.active]) (fun _ => ea) (fun _ => vals) s =
      u.accessServe i regs (laneOps (maskOf [lowLane s.w.active]) (fun _ => ea) (fun _ => pa) (fun _ => vals) fun _ => false) := by
  have hlow := lanesOf_maskOf_single (lowLane_lt hact)
  have htry : ∃ check : Nat → LaneRes, s.tryLanes false k n (lanesOf (maskOf [lowLane s.w.active])) (fun _ => ea) = (lanesOf (maskOf [lowLane s.w.active])).map (fun l => (l, check l)) ∧
      ∃ x, check (lowLane s.w.active) = .ok pa x := by
    by_cases hstore : k = .store
    · subst hstore
      obtain ⟨less, hless, htry⟩ := s.tryLanes_store false n (lanesOf (maskOf [lowLane s.w.active])) fun _ => ea
      exact ⟨_, htry, (State.tryVa_of_reaches_less hreach hless).imp' some fun _ hx => hx⟩
    · exact ⟨_, State.tryLanes_eq hstore .., (State.tryVa_of_reaches hreach).imp' some fun _ hx => hx⟩
  obtain ⟨check, htry, hcheck⟩ := htry
  refine State.access_of_ok h hk hdom hact [] i { spad := false, acc := k, n := n, probe := false, uniform := true, ordered := false, regs := regs } (fun _ => vals) htry
    (fun l hl => .inl ⟨rfl, ?_⟩) ?_ ?_
  · rw [hlow] at hl
    exact List.mem_singleton.1 hl ▸ hcheck
  · rw [hlow]
    exact fun _ => hclear
  · rw [hlow]
    exact hearlier

theorem bytes_pos (sz : ESize) : 0 < sz.bytes := by cases sz <;> decide

theorem performHere_ldk {q : OrdReq} {h : Hdr} {kd kbase : Kr} {sx : Bool} {size : ESize} {imm : BitVec 16} {dc : Dc} (hi : q.instr = .ldk h kd kbase sx size imm dc) {o : ReqOp} (ho : q.ops = [o]) (s : State) :
    s.performHere q = (s.touchLoads false q.pc.toNat size.bytes 0 [o], [RegWrite.ofK kd.toNat (BitVec.ofNat 64 (widen sx size.bytes (s.seeN false o.lane o.va o.pa size.bytes) 64))]) := by
  simp only [State.performHere, hi, ho]

theorem performHere_stk {q : OrdReq} {h : Hdr} {kd kbase : Kr} {size : ESize} {imm : BitVec 16} {dc : Dc} (hi : q.instr = .stk h kd kbase size imm dc) (s : State) :
    s.performHere q = (s.storeOps false q.pc.toNat size.bytes 0 q.ops, []) := by
  simp only [State.performHere, hi]

/-- A uniform load that is served reads its number, and changes the caches alone. -/
theorem State.accessServe_ldk {u : State} (h : u.Here) (hk : u.w.kind = .normal) (hdom : u.inDomain = false) {hd : Hdr} {kd kbase : Kr} {sx : Bool} {size : ESize} {imm : BitVec 16} {dc : Dc} {l ea pa : Nat}
    (hclear : u.TilesClear [pa]) (hlast : ∀ q ∈ u.openReqs u.cur, q.seq ≠ u.w.seqNo) (regs : List RegId) :
    let i := Instr.ldk hd kd kbase sx size imm dc
    ∃ x : State, x.mem = u.mem ∧ x.groups = u.groups ∧ u.Performed x (u.accessServe i regs [⟨l, ea, pa, [], false⟩]) i regs
      [⟨.k kd.toNat, [(0, if sx then (BitVec.ofNat (8 * size.bytes) (u.number pa size.bytes)).signExtend 64 else BitVec.ofNat 64 (u.number pa size.bytes))]⟩] := by
  intro i
  obtain ⟨hkv, -, -, -, hdv, -⟩ := State.count_open h i.counter regs
  have hmem := u.modW_mem fun w => w.count i.counter regs false []
  have hgroups := u.modW_groups fun w => w.count i.counter regs false []
  obtain ⟨honly, hsame⟩ := (u.modW fun w => w.count i.counter regs false []).touchLoads_onlyMem false u.w.runPc.toNat size.bytes 0 [⟨l, ea, pa, [], false⟩]
  refine ⟨_, hsame.trans hmem, (honly.field State.groups).trans hgroups, State.accessServe_spec h (fun o ho a ha => ?_) hlast ((performHere_ldk rfl rfl _).trans ?_) honly.keepsWarps⟩
  · obtain rfl := List.mem_singleton.1 ho
    obtain rfl : pa = a := Option.some.inj ha
    exact State.tileOver_of_clear hclear (List.mem_singleton_self _)
  · have hsee : (u.modW fun w => w.count i.counter regs false []).seeN false l ea pa size.bytes = u.number pa size.bytes := by
      rw [State.seeN_open (hkv.trans hk) (hdv.trans hdom), if_neg Bool.false_ne_true, State.number, hmem, State.number]
    dsimp only
    rw [hsee, ofNat_widen sx (bytes_pos size)]
    rfl

/-- Settles O20: a uniform access is the one access of the lowest active lane, served as it issues. -/
theorem uniformAccesses : Obligations.UniformAccesses := by
  unfold Obligations.UniformAccesses
  constructor
  · intro hd kd kbase sx size imm dc s pa i hdc h hk hdom hact hreach hclear hearlier
    obtain ⟨u, hready, hserve⟩ := State.access_uniform h hk hdom hact i (regs := [.k kd.toNat]) [] hreach hclear hearlier
    rw [laneOps_single (lowLane_lt hact), if_neg Bool.false_ne_true] at hserve
    obtain ⟨x, hmem, hgroups, hperf⟩ := State.accessServe_ldk hready.here (by rw [hready.w]; exact hk) (hready.inDomain.trans hdom) (hd := hd) (kd := kd) (kbase := kbase) (sx := sx) (size := size) (imm := imm) (dc := dc)
      (l := lowLane s.w.active) (ea := s.w.place kbase imm) (hready.tilesClear hclear) (hready.last fun q hq => (hearlier q hq).1) [.k kd.toNat]
    obtain ⟨hothers, hpc, -, hstill, hpend, hcounted⟩ := hready.performed hperf
    refine ⟨_, congrArg Host.Outcome.next hserve, hothers, fun a => congrArg (·.read a) (hperf.mem.trans (hmem.trans (hready.field State.mem))), hperf.groups.trans (hgroups.trans (hready.field State.groups)), hpc, hstill, hpend, ?_⟩
    · have hc := hcounted dc.toNat (if_neg hdc)
      rwa [State.number, hready.field State.mem] at hc
  · intro hd kd kbase size imm dc s pa i h hk hdom hact hreach hclear hearlier
    obtain ⟨u, hready, hserve⟩ := State.access_uniform h hk hdom hact i (regs := []) [s.w.rdK kd.toNat] hreach hclear hearlier
    have hlow := lanesOf_maskOf_single (lowLane_lt hact)
    let ops := laneOps (maskOf [lowLane s.w.active]) (fun _ => s.w.place kbase imm) (fun _ => pa) (fun _ => [s.w.rdK kd.toNat]) fun _ => false
    have hpas : ∀ o ∈ ops, ∀ a ∈ (u.accessReq i [] ops).paOf o, false = false ∧ a = o.pa := fun o ho a ha => by
      rw [show ops = _ from laneOps_single (lowLane_lt hact) ..] at ho
      obtain rfl := List.mem_singleton.1 ho
      exact ⟨rfl, (Option.some.inj ha).symm⟩
    obtain ⟨x, ⟨hmemory, -⟩, hperf⟩ := State.accessServe_store hready.here (by rw [hready.w]; exact hk) (hready.inDomain.trans hdom) (i := i) (spad := false) (n := size.bytes)
      (mask := maskOf [lowLane s.w.active]) (ea := fun _ => s.w.place kbase imm) (pa := fun _ => pa) (vals := fun _ => [s.w.rdK kd.toNat]) ⟨_, 0, fun v => performHere_stk rfl v⟩
      hpas nofun (fun _ => by rw [hlow]; exact hready.tilesClear hclear) (hready.last fun q hq => (hearlier q hq).1)
    · obtain ⟨hothers, hpc, -, hstill, hpend, hcounted⟩ := hready.performed hperf
      obtain ⟨hgroups, hmem⟩ := hmemory rfl
      refine ⟨_, congrArg Host.Outcome.next hserve, hothers, hperf.groups.trans (hgroups.trans (hready.field State.groups)), hpc, hstill, hpend, fun hdc => hcounted dc.toNat (if_neg hdc), fun a => ?_⟩
      refine (congrArg (·.read a) (hperf.mem.trans hmem)).trans ?_
      rw [hready.field State.mem, hlow]
      split_ifs with hin
      · exact read_laneWrites (List.pairwise_singleton _ _) (List.mem_singleton_self _) hin.1 hin.2 fun k hk hlk => absurd (List.mem_singleton.1 hk) hlk.ne'
      · exact read_laneWrites_outside fun _ _ => hin

end Sys2Proof.Machine
end

section
/-! SUPPORT. Where a load, a store or an atomic of an open grid writes (R190, R264, R266). -/

namespace Sys2Proof.Machine

/-- No byte has changed but those that accesses of `n` bytes touch: of memory, or of the scratchpad of the current warp's side. -/
structure State.WritesWithin (s u : State) (spad : Bool) (n : Nat) (ops : List ReqOp) : Prop where
  keeps : s.KeepsWarps u
  grids : u.grids = s.grids
  memory : spad = false → u.groups = s.groups ∧ ∀ b, (∀ o ∈ ops, b < o.pa ∨ o.pa + n ≤ b) → u.mem.read b = s.mem.read b
  pad : spad = true → u.mem = s.mem ∧ u.grp.grid = s.grp.grid ∧ ∀ b, (∀ o ∈ ops, b < o.va ∨ o.va + n ≤ b) → (u.grp.side s.w.twin).read b = (s.grp.side s.w.twin).read b

theorem State.OnlyMem.writesWithin {s u : State} (h : s.OnlyMem u) (spad : Bool) (n : Nat) {ops : List ReqOp} (hread : spad = false → ∀ b, (∀ o ∈ ops, b < o.pa ∨ o.pa + n ≤ b) → u.mem.read b = s.mem.read b)
    (hmem : spad = true → u.mem = s.mem) : s.WritesWithin u spad n ops :=
  have hgrp : u.grp = s.grp := h.field State.grp
  ⟨h.keepsWarps, h.field State.grids, fun hs => ⟨h.field State.groups, hread hs⟩, fun hs => ⟨hmem hs, by rw [hgrp], fun b _ => by rw [hgrp]⟩⟩

namespace State.WritesWithin

variable {s t u : State} {spad : Bool} {n : Nat} {ops : List ReqOp}

theorem refl (s : State) (spad : Bool) (n : Nat) (ops : List ReqOp) : s.WritesWithin s spad n ops := ⟨⟨rfl, rfl, rfl, rfl⟩, rfl, fun _ => ⟨rfl, fun _ _ => rfl⟩, fun _ => ⟨rfl, rfl, fun _ _ => rfl⟩⟩

theorem w (h : s.WritesWithin u spad n ops) : u.w = s.w := by rw [State.w, State.w, h.keeps.warps, h.keeps.cur]

theorem inDomain (h : s.WritesWithin u spad n ops) : u.inDomain = s.inDomain := by
  have hgrid : u.grp.grid = s.grp.grid := by
    cases spad with
    | true => exact (h.pad rfl).2.1
    | false => rw [State.grp, State.grp, h.w, State.groupAt, State.groupAt, (h.memory rfl).1]
  rw [State.inDomain, State.inDomain, State.grid, State.grid, hgrid, State.gridAt, State.gridAt, h.grids]

theorem trans (h : s.WritesWithin t spad n ops) (h' : t.WritesWithin u spad n ops) : s.WritesWithin u spad n ops := by
  obtain ⟨hkeeps, hgrids, hmemory, hpad⟩ := h
  obtain ⟨hkeeps', hgrids', hmemory', hpad'⟩ := h'
  refine ⟨⟨hkeeps'.cur.trans hkeeps.cur, hkeeps'.warps.trans hkeeps.warps, hkeeps'.tiles.trans hkeeps.tiles, hkeeps'.adds.trans hkeeps.adds⟩, hgrids'.trans hgrids, fun hs => ?_, fun hs => ?_⟩
  · obtain ⟨hgroups, hread⟩ := hmemory hs
    obtain ⟨hgroups', hread'⟩ := hmemory' hs
    exact ⟨hgroups'.trans hgroups, fun b hb => (hread' b hb).trans (hread b hb)⟩
  · obtain ⟨hmem, hgrid, hread⟩ := hpad hs
    obtain ⟨hmem', hgrid', hread'⟩ := hpad' hs
    have htw : t.w = s.w := by rw [State.w, State.w, hkeeps.warps, hkeeps.cur]
    rw [htw] at hread'
    exact ⟨hmem'.trans hmem, hgrid'.trans hgrid, fun b hb => (hread' b hb).trans (hread b hb)⟩

end State.WritesWithin

/-- The word of an atomic is written where the atomic is. -/
theorem State.writeWord_within {s : State} (hdom : s.inDomain = false) {spad : Bool} (sc : Scope) {n : Nat} (x : Nat) {ops : List ReqOp} {o : ReqOp} (ho : o ∈ ops) :
    s.WritesWithin (s.writeWord spad sc o.va o.pa n x) spad n ops := by
  cases spad with
  | false =>
    obtain ⟨honly, hmem⟩ := State.writeWord_open hdom sc o.va o.pa n x
    refine honly.writesWithin false n (fun _ b hb => ?_) nofun
    rw [hmem, Memory.read_writeN_outside _ _ _ _ (by rw [toBytes_length]; exact hb o ho)]
  | true =>
    have hpad := s.modGrp_onlyPad o.va (toBytes n x)
    have hword : s.writeWord true sc o.va o.pa n x = s.modGrp fun g => g.setSide s.w.twin ((g.side s.w.twin).writeN o.va (toBytes n x)) := by
      rw [State.writeWord, hdom]
      rfl
    rw [hword]
    refine ⟨hpad.keepsWarps, rfl, nofun, fun _ => ⟨rfl, hpad.grid, fun b hb => ?_⟩⟩
    rw [hpad.side, Memory.read_writeN_outside _ _ _ _ (by rw [toBytes_length]; exact hb o ho)]

/-- Atomics one after the other write nowhere but where they are. -/
theorem State.atomOps_within {s : State} (hdom : s.inDomain = false) (spad : Bool) (sc : Scope) (op : AtomOp) (n : Nat) (ops : List ReqOp) : s.WritesWithin (s.atomOps spad sc op n ops).1 spad n ops := by
  have hbias : s.WritesWithin (s.biasOps spad n ops) spad n ops := by
    cases spad with
    | true => exact .refl s true n ops
    | false =>
      obtain ⟨honly, hmem⟩ := s.takeBias_onlyMem (accsOf n ops)
      exact honly.writesWithin false n (fun _ b _ => congrArg (·.read b) hmem) nofun
  refine List.foldlRecOn (motive := fun (acc : State × List (Nat × Nat)) => s.WritesWithin acc.1 spad n ops) ops _ hbias fun acc hacc o ho => ?_
  have hdom' : acc.1.inDomain = false := hacc.inDomain.trans hdom
  dsimp only
  split
  · exact hacc.trans (State.writeWord_within hdom' sc _ ho)
  · rw [hdom', if_neg Bool.false_ne_true]
    exact hacc

theorem State.loadOps_within (s : State) (spad : Bool) (pc n hint : Nat) (ops : List ReqOp) : s.WritesWithin (s.touchLoads spad pc n hint ops) spad n ops := by
  obtain ⟨honly, hmem⟩ := s.touchLoads_onlyMem spad pc n hint ops
  exact honly.writesWithin spad n (fun _ b _ => congrArg (·.read b) hmem) fun _ => hmem

theorem State.storeOps_within {s : State} (hk : s.w.kind = .normal) (hdom : s.inDomain = false) (hlost : s.lost = []) (spad : Bool) (pc n hint : Nat) (ops : List ReqOp) :
    s.WritesWithin (s.storeOps spad pc n hint ops) spad n ops := by
  have hout (m : Memory) (at_ : ReqOp → Nat) (b : Nat) (hb : ∀ o ∈ ops, b < at_ o ∨ at_ o + n ≤ b) : (writeAll m (ops.map fun o => (at_ o, toBytes n ((o.vals.headD 0).toNat)))).read b = m.read b := by
    refine read_writeAll_outside fun y hy => ?_
    obtain ⟨o, ho, rfl⟩ := List.mem_map.1 hy
    rw [toBytes_length]
    exact hb o ho
  cases spad with
  | false =>
    obtain ⟨honly, hmem⟩ := State.storeOps_global hk hdom hlost pc n hint ops
    exact honly.writesWithin false n (fun _ b hb => (congrArg (·.read b) hmem).trans (hout _ (·.pa) b hb)) nofun
  | true =>
    have hpad := State.storeOps_pad hk hdom pc n hint ops
    exact ⟨hpad.keepsWarps, hpad.field State.grids, nofun, fun _ => ⟨hpad.field State.mem, hpad.grid, fun b hb => (congrArg (·.read b) hpad.side).trans (hout _ (·.va) b hb)⟩⟩

/-! ### The forms -/

theorem exec_of_atomRow {i : Instr} {r : AtomRow} (h : atomRow i = some r) (s : State) :
    ∃ imm : BitVec 13, imm.toInt = r.imm ∧ exec i s = .next (s.atomic i r.spad (r.d.map BitVec.toNat) r.kbase r.voff r.n r.vs r.op r.scope imm) := by
  unfold atomRow at h
  split at h <;> cases h <;> exact ⟨_, rfl, rfl⟩

theorem performHere_of_atomRow {q : OrdReq} {r : AtomRow} (h : atomRow q.instr = some r) (s : State) : (s.performHere q).1 = (s.atomOps r.spad r.scope r.op r.n q.ops).1 := by
  unfold atomRow at h
  split at h <;> cases h <;> simp only [State.performHere, *]

/-- An instruction with an access form, whose operands can be read, makes the access in every active lane. -/
theorem State.HasForm.exec_eq {s : State} {i : Instr} {a : LaneForm} (h : s.HasForm i a) : ∃ (ordered : Bool) (regs : List RegId) (vals : Nat → List DWord) (pops : SMap Nat),
    exec i s = .next (s.access i { spad := a.spad, acc := a.acc, n := a.n, probe := false, uniform := false, ordered := ordered, regs := regs } s.w.active a.ea vals (s.popped pops)) := by
  rcases h with ⟨r, fs, pops, hi, hprobe, h8, hwin, hreads, rfl⟩ | ⟨r, fs, pops, hi, h8, hreads, rfl⟩ | ⟨r, fs, pops, hi, hdst, hvs, hreads, rfl⟩
  · refine ⟨false, r.written, fun _ => [], pops, (State.loadV_eq hi h8 hwin hreads).trans ?_⟩
    rw [hprobe]
    rfl
  · exact ⟨false, [], fun l => [r.stored fs l], pops, State.storeV_eq hi h8 hreads⟩
  · obtain ⟨imm, himm, hex⟩ := exec_of_atomRow hi s
    have hdstEq : (match r.d.map BitVec.toNat with
        | some d => if r.n = 8 then [d, d + 1] else [d]
        | none => []) = r.dst := by
      rw [AtomRow.dst]
      cases r.d <;> rfl
    have hlow : (r.dst ++ (List.range r.count).map (r.vs.toNat + ·)).any (fun x => decide (63 < x)) = false := by
      refine List.any_eq_false.2 fun x hx => ?_
      rw [decide_eq_true_eq]
      rcases List.mem_append.1 hx with hx | hx
      · have := (hdst x hx).1
        omega
      · obtain ⟨j, hj, rfl⟩ := List.mem_map.1 hx
        have := List.mem_range.1 hj
        omega
    have hplain : r.dst.any s.w.isWindow = false := List.any_eq_false.2 fun x hx => by simp [(hdst x hx).2]
    have hatomic : s.atomic i r.spad (r.d.map BitVec.toNat) r.kbase r.voff r.n r.vs r.op r.scope imm =
        if (r.dst ++ (List.range r.count).map (r.vs.toNat + ·)).any (fun x => decide (63 < x)) then s.illegalOperand i 0x02
        else if r.dst.any s.w.isWindow then s.illegalOperand i 0x05
        else s.withSrcs i (r.voff.toNat :: (List.range r.count).map (r.vs.toNat + ·)) fun fs s' =>
          s.access i { spad := r.spad, acc := .atomic r.scope, n := r.n, probe := false, uniform := false, ordered := true, regs := r.dst.map RegId.v } s.w.active
            (fun l => effAddr (s.w.rdK r.kbase.toNat) ((fs.headD fun _ => 0) l) r.n imm.toInt) (atomVals r.n (fs.drop 1)) s' := by
      rw [← hdstEq]
      rfl
    have hea : (fun l => effAddr (s.w.rdK r.kbase.toNat) ((fs.headD fun _ => 0) l) r.n imm.toInt) = fun l => (((s.w.rdK r.kbase.toNat).toNat + (fs.at_ 0 l).toNat * r.n + r.imm) % 2 ^ 64).toNat := by
      funext l
      have hhead : fs.headD (fun _ => 0) = fs.at_ 0 := by cases fs <;> rfl
      rw [effAddr, truncInt, hhead, himm]
    refine ⟨true, r.dst.map RegId.v, atomVals r.n (fs.drop 1), pops, ?_⟩
    rw [hex, hatomic, hlow, hplain, if_neg Bool.false_ne_true, if_neg Bool.false_ne_true, State.withSrcs_ok i hreads, hea]

/-- What a request of such an instruction writes. -/
theorem State.HasForm.performs {s0 : State} {i : Instr} {a : LaneForm} (h : s0.HasForm i a) {q : OrdReq} (hq : q.instr = i) {s : State} (hk : s.w.kind = .normal) (hdom : s.inDomain = false) (hlost : s.lost = []) :
    s.WritesWithin (s.performHere q).1 a.spad a.n q.ops := by
  subst hq
  rcases h with ⟨r, fs, pops, hi, -, -, -, -, rfl⟩ | ⟨r, fs, pops, hi, -, -, rfl⟩ | ⟨r, fs, pops, hi, -, -, -, rfl⟩
  · obtain ⟨hint, hp⟩ := performHere_of_loadRow hi
    rw [hp]
    exact s.loadOps_within ..
  · obtain ⟨hint, hp⟩ := performHere_of_storeRow hi
    rw [hp]
    exact State.storeOps_within hk hdom hlost ..
  · rw [performHere_of_atomRow hi]
    exact State.atomOps_within hdom ..

end Sys2Proof.Machine
end

section
/-! OBLIGATION. Memory faults (R187 to R189, R192, R266, R309). -/

namespace Sys2Proof.Machine

/-! ### The causes of the lanes -/

/-- The cause that a lane's access meets, where nothing is lost (Table 8.3). -/
def State.laneFault (s : State) (a : LaneForm) (l : Nat) : Option Nat :=
  if a.ea l % a.n ≠ 0 then some 0x01
  else if a.spad = true then (if s.grid.ds.spl < a.ea l + a.n then some 0x02 else none)
  else match s.checkVa s.w.core l s.ctxNo (a.ea l) a.acc (fun _ => false) with
    | .ok _ => none
    | .error d => some d

/-- What the check of a lane comes to, where nothing is lost. -/
def State.laneCheck (s : State) (a : LaneForm) (l : Nat) : LaneRes := if a.spad then s.trySp a.n l (a.ea l) else s.tryVa a.acc a.n (fun _ => false) l (a.ea l)

theorem State.tryLanes_of_noneLost {s : State} (hlost : s.lost = []) (a : LaneForm) (ls : List Nat) : s.tryLanes a.spad a.acc a.n ls a.ea = ls.map fun l => (l, s.laneCheck a l) := by
  have hnone (pa : Nat) : s.meetsLost pa a.n = false := State.meetsLost_of_none hlost pa a.n
  unfold State.tryLanes State.laneCheck
  simp only [hnone, hlost, List.isEmpty_nil, if_true, ite_self]
  cases a.spad <;> rfl

theorem State.laneCheck_fault {s : State} (hk : s.w.kind = .normal) (a : LaneForm) (l : Nat) : (s.laneCheck a l).fault false l = (s.laneFault a l).map fun d => (l, d) := by
  unfold State.laneCheck State.laneFault
  by_cases halign : a.ea l % a.n ≠ 0
  · rw [if_pos halign, State.trySp_normal hk, State.tryVa, if_pos halign, if_pos halign, ite_self]
    rfl
  · rw [if_neg halign, State.trySp_normal hk, State.tryVa, if_neg halign, if_neg halign]
    cases a.spad with
    | true =>
      rw [if_pos rfl, if_pos rfl]
      split <;> rfl
    | false =>
      rw [if_neg Bool.false_ne_true, if_neg Bool.false_ne_true]
      cases s.checkVa s.w.core l s.ctxNo (a.ea l) a.acc (fun _ => false) with
      | ok x => rfl
      | error d =>
        dsimp only
        split_ifs with h7
        · rw [h7]; rfl
        · rfl

/-- A lane with no cause makes its access: at its scratchpad address, or at the physical address of its check. -/
theorem State.laneCheck_op {s : State} (hk : s.w.kind = .normal) {a : LaneForm} {l : Nat} {vals : List DWord} {o : ReqOp} (ho : (s.laneCheck a l).op false l (a.ea l) vals = some o) :
    s.laneFault a l = none ∧ o.va = a.ea l ∧ (a.spad = false → ∃ x, s.checkVa s.w.core l s.ctxNo (a.ea l) a.acc (fun _ => false) = .ok x ∧ o.pa = x.pa (a.ea l)) := by
  have hfault := State.laneCheck_fault hk a l
  obtain ⟨pa, x, hok, hva, hpa⟩ : ∃ pa x, s.laneCheck a l = .ok pa x ∧ o.va = a.ea l ∧ o.pa = pa := by
    cases hc : s.laneCheck a l with
    | ok pa x =>
      rw [hc] at ho
      cases ho
      exact ⟨pa, x, rfl, rfl, rfl⟩
    | absent => rw [hc] at ho; cases ho
    | bad d => rw [hc] at ho; cases ho
  rw [hok] at hfault
  refine ⟨Option.map_eq_none_iff.1 hfault.symm, hva, fun hsp => ?_⟩
  rw [State.laneCheck, if_neg (by simp [hsp]), State.tryVa] at hok
  split at hok
  · cases hok
  split at hok
  · cases hok
    exact ⟨_, ‹_›, hpa⟩
  · split at hok <;> cases hok

theorem State.laneCheck_some {s : State} (hk : s.w.kind = .normal) {a : LaneForm} {l : Nat} (h : s.laneFault a l = none) (vals : List DWord) : ∃ o, (s.laneCheck a l).op false l (a.ea l) vals = some o := by
  have hfault := State.laneCheck_fault hk a l
  rw [h] at hfault
  cases hc : s.laneCheck a l with
  | ok pa x => exact ⟨_, rfl⟩
  | absent => rw [hc] at hfault; cases hfault
  | bad d => rw [hc] at hfault; cases hfault

/-! ### The lanes that stop -/

/-- The lanes of `act` that have a cause, with it. -/
def badLanes (act : Word) (fault : Nat → Option Nat) : List (Nat × Nat) := (lanesOf act).filterMap fun l => (fault l).map fun d => (l, d)

theorem mem_badLanes {act : Word} {fault : Nat → Option Nat} {b : Nat × Nat} : b ∈ badLanes act fault ↔ b.1 ∈ lanesOf act ∧ fault b.1 = some b.2 := by
  simp only [badLanes, List.mem_filterMap, Option.map_eq_some_iff]
  constructor
  · rintro ⟨l, hl, d, hd, rfl⟩
    exact ⟨hl, hd⟩
  · rintro ⟨hl, hd⟩
    exact ⟨b.1, hl, b.2, hd, rfl⟩

/-- Among the lanes that have a cause each is found with its own. -/
theorem causeIn_badLanes {act : Word} {fault : Nat → Option Nat} {l d : Nat} (hl : l ∈ lanesOf act) (hd : fault l = some d) : causeIn (badLanes act fault) l = d := by
  cases hfind : (badLanes act fault).find? fun b => b.1 == l with
  | none => exact absurd (List.find?_eq_none.1 hfind (l, d) (mem_badLanes.2 ⟨hl, hd⟩)) (by simp)
  | some b =>
    have hb : b.1 = l := by simpa using List.find?_some hfind
    have hcause := (mem_badLanes.1 (List.mem_of_find?_eq_some hfind)).2
    rw [hb, hd] at hcause
    rw [causeIn, hfind]
    exact (Option.some.inj hcause).symm

/-- A fault of the lanes that have a cause stops these and no others. -/
theorem State.memFault_stops {s : State} (h : s.Here) (hk : s.w.kind = .normal) (i : Instr) {mask : Word} {fault : Nat → Option Nat} {detail ea : Nat → Nat}
    (hmask : ∀ l, l < 32 → s.w.active.getLsbD l = true → (mask.getLsbD l = true ↔ fault l ≠ none)) (hdetail : ∀ l d, l < 32 → s.w.active.getLsbD l = true → fault l = some d → detail l = d) :
    let t := s.memFault i mask detail ea
    (∀ l d, (l < 32 ∧ s.w.active.getLsbD l = true) → fault l = some d → ∃ p ∈ t.w.stops, p.lane = l ∧ p.cause = 0x04 ∧ p.detail = d ∧ p.ea = ea l ∧ p.pc = s.w.runPc ∧ p.resume = s.w.runPc) ∧
      ∀ p ∈ t.w.stops, p ∈ s.w.stops ∨ (s.w.active.getLsbD p.lane = true ∧ fault p.lane ≠ none) := by
  intro t
  obtain ⟨-, -, -, -, hstill⟩ := State.memFault_spec h hk i mask detail ea
  have hstops : t.w.stops = s.w.stops ++ (lanesOf (mask &&& s.w.active)).map (s.w.recordStop 0x04 0 (mask &&& s.w.active) detail ea s.w.runPc (s.nextPc i)) := by
    have hfield := congrArg Warp.stops hstill
    exact hfield
  rw [hstops]
  refine ⟨fun l d hl hd => ?_, fun p hp => (List.mem_append.1 hp).imp id fun hp => ?_⟩
  · have hin : l ∈ lanesOf (mask &&& s.w.active) := (mem_lanesOf _ _).2 ⟨hl.1, by simp [hl.2, (hmask l hl.1 hl.2).2 (by simp [hd])]⟩
    exact ⟨_, List.mem_append_right _ (List.mem_map_of_mem hin), rfl, rfl, hdetail l d hl.1 hl.2 hd, rfl, rfl, rfl⟩
  · obtain ⟨l, hl, rfl⟩ := List.mem_map.1 hp
    obtain ⟨hlt, hboth⟩ := (mem_lanesOf _ _).1 hl
    rw [BitVec.getLsbD_and, Bool.and_eq_true] at hboth
    exact ⟨hboth.2, (hmask l hlt hboth.2).1 hboth.1⟩

/-- What a fault of lanes leaves: the stops of these lanes, and no byte changed but where a lane without a cause makes its access. -/
structure State.FaultedLanes (s t : State) (a : LaneForm) : Prop where
  others : s.OthersSame t
  stopped : ∀ l d, (l < 32 ∧ s.w.active.getLsbD l = true) → s.laneFault a l = some d → ∃ p ∈ t.w.stops, p.lane = l ∧ p.cause = 0x04 ∧ p.detail = d ∧ p.ea = a.ea l ∧ p.pc = s.w.runPc ∧ p.resume = s.w.runPc
  only : ∀ p ∈ t.w.stops, p ∈ s.w.stops ∨ (s.w.active.getLsbD p.lane = true ∧ s.laneFault a p.lane ≠ none)
  memory : a.spad = false → t.groups = s.groups ∧ ∀ b, (∀ l x, (l < 32 ∧ s.w.active.getLsbD l = true) → s.laneFault a l = none →
    s.checkVa s.w.core l s.ctxNo (a.ea l) a.acc (fun _ => false) = .ok x → b < x.pa (a.ea l) ∨ x.pa (a.ea l) + a.n ≤ b) → t.mem.read b = s.mem.read b
  pad : a.spad = true → t.mem = s.mem ∧ ∀ b, (∀ l, (l < 32 ∧ s.w.active.getLsbD l = true) → s.laneFault a l = none → b < a.ea l ∨ a.ea l + a.n ≤ b) → (t.grp.side s.w.twin).read b = (s.grp.side s.w.twin).read b

/-- A fault of lanes that ends the word there: no byte changes. -/
theorem State.faultedLanes_of_memFault {s v : State} {pops : SMap Nat} (hready : s.Ready v pops) (hk : s.w.kind = .normal) (i : Instr) {a : LaneForm} {mask : Word} {detail : Nat → Nat}
    (hmask : ∀ l, l < 32 → s.w.active.getLsbD l = true → (mask.getLsbD l = true ↔ s.laneFault a l ≠ none)) (hdetail : ∀ l d, l < 32 → s.w.active.getLsbD l = true → s.laneFault a l = some d → detail l = d) :
    s.FaultedLanes (v.memFault i mask detail a.ea) a := by
  have hvw := hready.w
  have hvk : v.w.kind = .normal := by rw [hvw]; exact hk
  obtain ⟨honly, -, -, -, hstill⟩ := State.memFault_spec hready.here hvk i mask detail a.ea
  have hstops := State.memFault_stops hready.here hvk i (fault := s.laneFault a) (detail := detail) (ea := a.ea) (mask := mask) (by rw [hvw]; exact hmask) (by rw [hvw]; exact hdetail)
  rw [hvw] at hstops hstill
  generalize v.memFault i mask detail a.ea = t at honly hstill hstops ⊢
  have hgrp : t.grp = s.grp := by
    have hno := congrArg Warp.grp hstill
    rw [State.grp, State.groupAt, honly.groups_eq, hready.field State.groups, show t.w.grp = s.w.grp from hno]
    rfl
  refine ⟨⟨honly.othersSame.1.trans (hready.field State.cur), fun k hk => ?_⟩, hstops.1, hstops.2, fun _ => ⟨honly.groups_eq.trans (hready.field State.groups), fun b _ => ?_⟩, fun _ => ⟨?_, fun b _ => by rw [hgrp]⟩⟩
  · exact (honly.2 k (by rwa [show v.cur = s.cur from hready.field State.cur])).trans (hready.others k hk)
  · rw [honly.mem_eq, hready.field State.mem]
  · rw [honly.mem_eq, hready.field State.mem]

/-- A fault of lanes after which the others make their accesses: no byte changes but where these write. -/
theorem State.faultedLanes_of_serve {s v : State} {pops : SMap Nat} (hready : s.Ready v pops) (hk : s.w.kind = .normal) (hdom : s.inDomain = false) (htiles : s.tiles = []) (hadds : s.adds = []) (hlost : s.lost = [])
    {i : Instr} {a : LaneForm} (hform : s.HasForm i a) {mask : Word} {detail : Nat → Nat} (hmask : ∀ l, l < 32 → s.w.active.getLsbD l = true → (mask.getLsbD l = true ↔ s.laneFault a l ≠ none))
    (hdetail : ∀ l d, l < 32 → s.w.active.getLsbD l = true → s.laneFault a l = some d → detail l = d) (regs : List RegId) {ops : List ReqOp}
    (hops : ∀ o ∈ ops, ∃ l, (l < 32 ∧ s.w.active.getLsbD l = true) ∧ s.laneFault a l = none ∧ o.va = a.ea l ∧
      (a.spad = false → ∃ x, s.checkVa s.w.core l s.ctxNo (a.ea l) a.acc (fun _ => false) = .ok x ∧ o.pa = x.pa (a.ea l))) :
    s.FaultedLanes ((v.memFault i mask detail a.ea).accessServe i regs ops) a := by
  obtain ⟨hothers, hstopped, honlyStops, -, -⟩ := State.faultedLanes_of_memFault hready hk i hmask hdetail
  have hvk : v.w.kind = .normal := by rw [hready.w]; exact hk
  obtain ⟨honly, huhere, -, -, hstill⟩ := State.memFault_spec hready.here hvk i mask detail a.ea
  rw [hready.w] at hstill
  generalize v.memFault i mask detail a.ea = u at *
  have hu {α : Type} (f : State → α) (hf : ∀ x : State, f { x with warps := v.warps } = f x) (hf' : ∀ x : State, f { x with warps := s.warps, cores := s.cores, dies := s.dies } = f x) : f u = f s :=
    ((hf u).symm.trans (honly.field f)).trans ((hf' v).symm.trans (hready.field f))
  have hugroups : u.groups = s.groups := hu State.groups (fun _ => rfl) fun _ => rfl
  have humem : u.mem = s.mem := hu State.mem (fun _ => rfl) fun _ => rfl
  have hutiles : u.tiles = [] := (hu State.tiles (fun _ => rfl) fun _ => rfl).trans htiles
  have huadds : u.adds = [] := (hu State.adds (fun _ => rfl) fun _ => rfl).trans hadds
  have hulost : u.lost = [] := (hu State.lost (fun _ => rfl) fun _ => rfl).trans hlost
  have hsame {α : Type} (f : Warp → α) (hf : ∀ x : Warp, f x.still = f x) (hs : ∀ st, f { s.w.freePops pops with stops := st } = f s.w) : f u.w = f s.w := ((hf _).symm.trans (congrArg f hstill)).trans ((hf _).trans (hs _))
  have hugrp : u.w.grp = s.w.grp := hsame Warp.grp (fun _ => rfl) fun _ => rfl
  have huk : u.w.kind = .normal := (hsame Warp.kind (fun _ => rfl) fun _ => rfl).trans hk
  have hutwin : u.w.twin = s.w.twin := hsame Warp.twin (fun _ => rfl) fun _ => rfl
  have hudom : u.inDomain = false := (State.inDomain_congr hugrp hugroups (hu State.grids (fun _ => rfl) fun _ => rfl)).trans hdom
  obtain ⟨hck, hctwin, -, hcgrpNo, hcdom, hcgrp⟩ := State.count_open huhere i.counter regs
  have hwithin := hform.performs (q := u.accessReq i regs ops) rfl (hck.trans huk) (hcdom.trans hudom) ((State.modW_lost ..).trans hulost)
  have hperf := State.accessServe_spec huhere (fun o _ pa _ => State.tileOver_of_noTiles hutiles ..) (by simp [State.openReqs, hutiles, huadds]) (Prod.mk.eta (p := State.performHere _ (u.accessReq i regs ops))).symm hwithin.keeps
  have hxw := hwithin.w
  obtain ⟨hkeeps, -, hmemory, hpad⟩ := hwithin
  generalize ((u.modW fun w => w.count i.counter regs false []).performHere (u.accessReq i regs ops)).1 = x at *
  generalize u.accessServe i regs ops = t at hperf ⊢
  have hafter {α : Type} (f : Warp → α) (hf : ∀ w : Warp, f (w.uncounted u.w).still = f w) (hf' : ∀ w : Warp, f w.still = f w) : f t.w = f u.w := ((hf _).symm.trans (congrArg f hperf.still)).trans (hf' _)
  have htstops : t.w.stops = u.w.stops := hafter Warp.stops (fun _ => rfl) fun _ => rfl
  have htgrp : t.grp = x.grp := by
    rw [State.grp, State.grp, hxw, hcgrpNo, hafter Warp.grp (fun _ => rfl) fun _ => rfl, State.groupAt, State.groupAt, hperf.groups]
  refine ⟨⟨hperf.others.1.trans hothers.1, fun k hk => (hperf.others.2 k ?_).trans (hothers.2 k hk)⟩, by rwa [htstops], by rwa [htstops], fun hsp => ?_, fun hsp => ?_⟩
  · rwa [hothers.1]
  · obtain ⟨hgroups, hread⟩ := hmemory hsp
    rw [State.modW_groups] at hgroups
    rw [State.modW_mem] at hread
    refine ⟨hperf.groups.trans (hgroups.trans hugroups), fun b hb => ?_⟩
    rw [hperf.mem, hread b fun o ho => ?_, humem]
    obtain ⟨l, hl, hfault, -, hpa⟩ := hops o ho
    obtain ⟨y, hy, hoy⟩ := hpa hsp
    rw [hoy]
    exact hb l y hl hfault hy
  · obtain ⟨hmem, -, hread⟩ := hpad hsp
    rw [State.modW_mem] at hmem
    rw [hctwin, hcgrp, hutwin] at hread
    refine ⟨hperf.mem.trans (hmem.trans humem), fun b hb => ?_⟩
    have hugrp' : u.grp = s.grp := by rw [State.grp, State.grp, hugrp, State.groupAt, State.groupAt, hugroups]
    rw [htgrp, hread b fun o ho => ?_, hugrp']
    obtain ⟨l, hl, hfault, hva, -⟩ := hops o ho
    rw [hva]
    exact hb l hl hfault

/-- An instruction with an access form stops the lanes that have a cause, and makes the accesses of the others. -/
theorem State.HasForm.faults {s : State} {i : Instr} {a : LaneForm} (hform : s.HasForm i a) (h : s.Here) (hk : s.w.kind = .normal) (hdom : s.inDomain = false) (htiles : s.tiles = []) (hadds : s.adds = [])
    (hlost : s.lost = []) : ∃ t, exec i s = .next t ∧ s.FaultedLanes t a := by
  obtain ⟨ordered, regs, vals, pops, hex⟩ := hform.exec_eq
  have hpw := State.popped_w h pops
  let res := (lanesOf s.w.active).map fun l => (l, s.laneCheck a l)
  have hbad : accessBad false res = badLanes s.w.active (s.laneFault a) := by
    rw [accessBad, List.filterMap_map]
    exact List.filterMap_congr fun l _ => State.laneCheck_fault hk a l
  have hmem (o : ReqOp) (ho : o ∈ accessOps false a.ea vals res) : ∃ l, (l < 32 ∧ s.w.active.getLsbD l = true) ∧ s.laneFault a l = none ∧ o.va = a.ea l ∧
      (a.spad = false → ∃ x, s.checkVa s.w.core l s.ctxNo (a.ea l) a.acc (fun _ => false) = .ok x ∧ o.pa = x.pa (a.ea l)) := by
    obtain ⟨r, hr, ho⟩ := List.mem_filterMap.1 ho
    obtain ⟨l, hl, rfl⟩ := List.mem_map.1 hr
    exact ⟨l, (mem_lanesOf _ _).1 hl, State.laneCheck_op hk ho⟩
  have hcause : ∀ l d, l < 32 → s.w.active.getLsbD l = true → s.laneFault a l = some d → causeIn (accessBad false res) l = d := fun l d hl ha hd => by
    rw [hbad]
    exact causeIn_badLanes ((mem_lanesOf _ _).2 ⟨hl, ha⟩) hd
  have hmask : ∀ l, l < 32 → s.w.active.getLsbD l = true → ((maskOf ((accessBad false res).map (·.1))).getLsbD l = true ↔ s.laneFault a l ≠ none) := fun l hl ha => by
    rw [getLsbD_maskOf, decide_eq_true_eq, hbad, List.mem_map, Option.ne_none_iff_exists']
    constructor
    · rintro ⟨-, b, hb, rfl⟩
      exact ⟨b.2, (mem_badLanes.1 hb).2⟩
    · rintro ⟨d, hd⟩
      exact ⟨hl, (l, d), mem_badLanes.2 ⟨(mem_lanesOf _ _).2 ⟨hl, ha⟩, hd⟩, rfl⟩
  have hopenReqs (n : Nat) : (s.popped pops).openReqs n = [] := by
    rw [State.popped_openReqs h, State.openReqs, htiles, hadds]
    rfl
  refine ⟨_, hex, ?_⟩
  rw [State.access_open (State.popped_here h pops) i _ (hpw ▸ hk) ((State.popped_inDomain h pops).trans hdom) ((State.popped_tryLanes h hk pops ..).trans (State.tryLanes_of_noneLost hlost a _))
    (State.tileFull_of_free fun pa _ => State.tileOver_of_noTiles (((State.popped_onlyWarp h pops).field State.tiles).trans htiles) ..) (by rw [State.meetsOpen, hopenReqs]; rfl)]
  dsimp only
  rw [if_neg (by simp)]
  split_ifs with hall hnone
  · refine State.faultedLanes_of_memFault ⟨rfl, fun _ _ => rfl, h, rfl⟩ (pops := []) hk i (fun l hl ha => ⟨fun _ hfault => ?_, fun _ => ha⟩) hcause
    obtain ⟨o, ho⟩ := State.laneCheck_some hk hfault (vals l)
    exact List.ne_nil_of_mem (List.mem_filterMap.2 ⟨(l, s.laneCheck a l), List.mem_map.2 ⟨l, (mem_lanesOf _ _).2 ⟨hl, ha⟩, rfl⟩, ho⟩) hall.2
  · refine State.faultedLanes_of_memFault (State.popped_ready h pops (State.holdAll_onlyUnits ..)) hk i hmask hcause
  · exact State.faultedLanes_of_serve (State.popped_ready h pops (State.holdAll_onlyUnits ..)) hk hdom htiles hadds hlost hform hmask hcause _ hmem

/-! ### Uniform causes (R188) -/

/-- The access of a uniform form whose check has a cause. -/
def LaneRes.stops : LaneRes → Option Nat
  | .ok _ _ => none
  | .absent => some 0x07
  | .bad d => some d

theorem State.tryVa_stops {s : State} {n ea d l : Nat} {k : Acc} (h : ea % n ≠ 0 ∧ d = 0x01 ∨ ea % n = 0 ∧ s.checkVa s.w.core l s.ctxNo ea k (fun _ => false) = .error d) :
    (s.tryVa k n (fun _ => false) l ea).stops = some d := by
  rcases h with ⟨halign, rfl⟩ | ⟨halign, hd⟩
  · rw [State.tryVa, if_pos halign]
    rfl
  · rw [State.tryVa, if_neg (not_not.2 halign), hd]
    dsimp only
    split_ifs with h7
    · rw [h7]; rfl
    · rfl

theorem State.trapped_memFaultAll {s : State} (h : s.Here) (hk : s.w.kind = .normal) (i : Instr) (d ea : Nat) :
    s.Trapped (s.memFaultAll i d ea 0) 0x04 (fun _ => d) (fun l => s.w.active.getLsbD l) s.w.runPc ∧ ∀ p ∈ (s.memFaultAll i d ea 0).w.stops, p ∈ s.w.stops ∨ p.ea = ea := by
  refine ⟨State.trapped_takeTrap h hk .., fun p hp => ?_⟩
  have hw : (s.memFaultAll i d ea 0).w = _ := (congrArg State.w (State.memFaultAll_normal hk i d ea 0)).trans (State.modW_w h _)
  obtain ⟨hstill, -, -⟩ := s.w.stopLanes_spec s.collated s.g s.clk 0x04 0 s.w.active s.w.active (fun _ => d) (fun _ => ea) s.w.runPc (s.nextPc i)
  have hstops := congrArg Warp.stops hstill
  rw [hw] at hp
  rcases List.mem_append.1 (hstops ▸ hp) with hp | hp
  · exact .inl hp
  · obtain ⟨l, -, rfl⟩ := List.mem_map.1 hp
    exact .inr rfl

/-- A uniform access with a cause stops its strand. -/
theorem State.access_uniform_faults {s : State} (h : s.Here) (hk : s.w.kind = .normal) (hdom : s.inDomain = false) (htiles : s.tiles = []) (hadds : s.adds = []) (hlost : s.lost = []) (hact : s.w.active ≠ 0)
    (i : Instr) {k : Acc} {n ea d : Nat} (regs : List RegId) (ordered : Bool) (vals : List DWord) (hd : (s.tryVa k n (fun _ => false) (lowLane s.w.active) ea).stops = some d) :
    s.access i { spad := false, acc := k, n := n, probe := false, uniform := true, ordered := ordered, regs := regs } (maskOf [lowLane s.w.active]) (fun _ => ea) (fun _ => vals) s = s.memFaultAll i d ea 0 := by
  have hlow := lanesOf_maskOf_single (lowLane_lt hact)
  have hres : s.tryLanes false k n (lanesOf (maskOf [lowLane s.w.active])) (fun _ => ea) = [(lowLane s.w.active, s.tryVa k n (fun _ => false) (lowLane s.w.active) ea)] := by
    rw [hlow]
    exact State.tryLanes_of_noneLost hlost ⟨false, n, k, fun _ => ea⟩ [lowLane s.w.active]
  have hbad : accessBad false [(lowLane s.w.active, s.tryVa k n (fun _ => false) (lowLane s.w.active) ea)] = [(lowLane s.w.active, d)] := by
    cases hc : s.tryVa k n (fun _ => false) (lowLane s.w.active) ea with
    | ok pa x => rw [hc] at hd; cases hd
    | absent => rw [hc] at hd; cases hd; rfl
    | bad e => rw [hc] at hd; cases hd; rfl
  have hmask : lowLane (maskOf [lowLane s.w.active]) = lowLane s.w.active := by
    have hmem : lowLane (maskOf [lowLane s.w.active]) ∈ lanesOf (maskOf [lowLane s.w.active]) := lowLane_mem fun hzero => by
      rw [hzero] at hlow
      cases hlow
    rw [hlow] at hmem
    exact List.mem_singleton.1 hmem
  rw [State.access_open h i _ hk hdom hres (State.tileFull_of_free fun pa _ => State.tileOver_of_noTiles htiles ..) (by rw [State.meetsOpen, State.openReqs, htiles, hadds]; rfl)]
  dsimp only
  rw [hbad, if_pos ⟨rfl, List.cons_ne_nil _ _⟩, hmask, causeIn]
  simp

theorem State.tryLock_of_noneLost {s : State} (hlost : s.lost = []) (kbase : Kr) (imm : BitVec 16) (scope : Scope) :
    s.tryLock kbase imm scope = s.tryVa (.atomic scope) 8 (fun _ => false) (lowLane s.w.active) (s.w.place kbase imm) := by
  have hnone : (fun pa => s.meetsLost pa 8) = fun _ => false := funext fun pa => State.meetsLost_of_none hlost pa 8
  rw [State.tryLock, hnone]
  rfl

/-- An attempt on a lock word with a cause stops its strand. -/
theorem State.locking_faults {s : State} (hdom : s.inDomain = false) (hlost : s.lost = []) (i : Instr) (p : Pr) {kbase : Kr} (kval : Kr) {imm : BitVec 16} {scope : Scope} (at_ : State → Nat → ReqOp → State)
    (fail : State → Nat → State) {d : Nat} (hd : (s.tryVa (.atomic scope) 8 (fun _ => false) (lowLane s.w.active) (s.w.place kbase imm)).stops = some d) :
    s.locking i p kbase kval imm scope at_ fail = s.memFaultAll i d (s.w.place kbase imm) 0 := by
  unfold State.locking
  rw [State.tryLock_of_noneLost hlost]
  cases hc : s.tryVa (.atomic scope) 8 (fun _ => false) (lowLane s.w.active) (s.w.place kbase imm) with
  | ok pa x => rw [hc] at hd; cases hd
  | absent =>
    rw [hc] at hd
    cases hd
    dsimp only
    rw [hdom]
    rfl
  | bad e => rw [hc] at hd; cases hd; rfl

/-- An instruction with a uniform form, whose access has a cause. -/
theorem State.uniformForm_faults {s : State} {i : Instr} {n ea d : Nat} {k : Acc} (hform : s.w.uniformForm i = some (n, ea, k)) (h : s.Here) (hk : s.w.kind = .normal) (hdom : s.inDomain = false)
    (htiles : s.tiles = []) (hadds : s.adds = []) (hlost : s.lost = []) (hact : s.w.active ≠ 0) (hgot : s.w.gotLock = false) (hd : (s.tryVa k n (fun _ => false) (lowLane s.w.active) ea).stops = some d) :
    exec i s = .next (s.memFaultAll i d ea 0) := by
  unfold Warp.uniformForm at hform
  split at hform <;> cases hform
  case h_1 => exact congrArg Host.Outcome.next (State.access_uniform_faults h hk hdom htiles hadds hlost hact _ _ _ _ hd)
  case h_2 => exact congrArg Host.Outcome.next (State.access_uniform_faults h hk hdom htiles hadds hlost hact _ _ _ _ hd)
  case h_3 hdr kbase kval imm dc scope =>
    have hex : exec (.lock hdr kbase kval imm dc scope) s = .next (if s.w.gotLock then _ else s.locking _ 62 kbase kval imm scope _ _) := rfl
    rw [hex, hgot, if_neg Bool.false_ne_true, State.locking_faults hdom hlost _ _ _ _ _ hd]
  case h_4 => exact congrArg Host.Outcome.next (State.locking_faults hdom hlost _ _ _ _ _ hd)
  case h_5 hdr p kbase kval imm dc scope =>
    have hok : (match s.tryLock kbase imm scope with
        | .ok _ _ => true
        | _ => false) = false := by
      rw [State.tryLock_of_noneLost hlost]
      cases hc : s.tryVa (.atomic scope) 8 (fun _ => false) (lowLane s.w.active) (s.w.place kbase imm) with
      | ok pa x => rw [hc] at hd; cases hd
      | absent => rfl
      | bad e => rfl
    have hex : exec (.unlock hdr p kbase kval imm dc scope) s = .next (if (match s.tryLock kbase imm scope with
        | .ok _ _ => true
        | _ => false) && s.w.rdK kval.toNat == 0 then s.illegalOperand (.unlock hdr p kbase kval imm dc scope) 0x0D
      else s.access (.unlock hdr p kbase kval imm dc scope) { spad := false, acc := .atomic scope, n := 8, probe := false, uniform := true, ordered := true, regs := [.p p.toNat] }
        (maskOf [lowLane s.w.active]) (fun _ => s.w.place kbase imm) (fun _ => [s.w.rdK kval.toNat, s.w.active.zeroExtend 64]) s) := rfl
    rw [hex, hok, Bool.false_and, if_neg Bool.false_ne_true, State.access_uniform_faults h hk hdom htiles hadds hlost hact _ _ _ _ hd]

/-- Settles O21: the lanes that have a cause stop, the others make their accesses; a uniform cause stops the strand. -/
theorem memoryFaults : Obligations.MemoryFaults := by
  unfold Obligations.MemoryFaults
  constructor
  · intro i a s fault hform h hk hdom htiles hadds hlost here hfault _
    obtain rfl : fault = s.laneFault a := funext hfault
    obtain ⟨t, hex, hothers, hstopped, honly, hmemory, hpad⟩ := hform.faults h hk hdom htiles hadds hlost
    exact ⟨t, hex, hothers, hstopped, honly, hmemory, hpad⟩
  · intro i n ea k s d hform h hk hdom htiles hadds hlost hact hgot hd
    obtain ⟨htrap, hea⟩ := State.trapped_memFaultAll h hk i d ea
    exact ⟨_, State.uniformForm_faults hform h hk hdom htiles hadds hlost hact hgot (State.tryVa_stops hd), htrap, hea⟩

end Sys2Proof.Machine
end

section
/-! SUPPORT. The directories while no quire changes, and what a prefetch asks for (R218, R221). -/

namespace Sys2Proof.Machine

theorem Caches.changed_of_same_quires {c d : Caches} (h : d.quires = c.quires) : c.changed d = [] := by
  have hat (a : Nat) : d.at_ a = c.at_ a := by rw [Caches.at_, Caches.at_, h]
  have hagents : d.agents = c.agents := by rw [Caches.agents, Caches.agents, h]
  simp only [Caches.changed, hat, hagents]
  have hnone (a : Nat) (key : Quire → Nat × Nat × Nat × QState) :
      (c.at_ a).filter (fun q => q.tracked && !(((c.at_ a).filter Quire.tracked).map key).contains (key q)) = [] := by
    refine List.filter_eq_nil_iff.2 fun q hq hkeep => ?_
    obtain ⟨htracked, hnot⟩ := Bool.and_eq_true_iff.1 hkeep
    simp only [Bool.not_eq_true', List.contains_eq_mem, decide_eq_false_iff_not] at hnot
    exact hnot (List.mem_map_of_mem (List.mem_filter.2 ⟨hq, htracked⟩))
  have hno (l : List Nat) : l.flatMap (fun _ => ([] : List Nat)) = [] := List.flatMap_eq_nil_iff.2 fun _ _ => rfl
  simp only [hnone, List.map_nil, hno, List.append_nil, List.eraseDups_nil]

theorem Caches.recordFrom_of_same_quires {c old : Caches} (h : c.quires = old.quires) : c.recordFrom old = c := by
  rw [Caches.recordFrom, Caches.changed_of_same_quires h, List.foldl_nil]

/-- Where no quire has changed the directories stay as they are. -/
theorem Caches.follow_of_same_quires {c old : Caches} (h : c.quires = old.quires) (m : Memory) : c.follow old m = c := by
  have hdirs (l : SMap (List DirEntry)) (d : Caches) : l.foldl (fun c _ => c) d = d := by
    induction l with
    | nil => rfl
    | cons e t ih => exact ih
  simp only [Caches.follow, Caches.changed_of_same_quires h, Caches.recordFrom_of_same_quires h, List.map_nil, List.eraseDups_nil, List.foldl_nil, hdirs, List.length_nil, Caches.recallSpine, Caches.recordFrom_of_same_quires]

/-- The quires stay, and so does every request that stands. -/
def Caches.OnlyAsks (c d : Caches) : Prop := d.quires = c.quires ∧ ∀ q ∈ c.coh, q ∈ d.coh

theorem Caches.ask_onlyAsks (c : Caches) (agent frame pred : Nat) (probe : Bool) (want : List Nat) : c.OnlyAsks (c.ask agent frame pred probe want []) := by
  refine ⟨rfl, fun q hq => ?_⟩
  rw [Caches.ask]
  refine List.mem_map.2 ⟨q, List.mem_append_left _ hq, ?_⟩
  simp

theorem Caches.byFrame_onlyAsks {f : Caches → Nat → List Nat → Caches} (hf : ∀ (c : Caches) (frame : Nat) (secs : List Nat), c.OnlyAsks (f c frame secs)) (c : Caches) (accs : List (Nat × Nat)) :
    c.OnlyAsks (c.byFrame f accs) := by
  refine List.foldlRecOn (motive := fun d => c.OnlyAsks d) _ _ ⟨rfl, fun q hq => hq⟩ fun d hd frame _ => ?_
  obtain ⟨hquires, hcoh⟩ := hf d frame _
  exact ⟨hquires.trans hd.1, fun q hq => hcoh q (hd.2 q hq)⟩

theorem State.takeBias_cache (s : State) (accs : List (Nat × Nat)) : (s.takeBias accs).cache = s.cache := by
  unfold State.takeBias
  split <;> rfl

theorem State.touchPref_spec (s : State) (agent core pc hint : Nat) (accs : List (Nat × Nat)) :
    s.OnlyMem (s.touchPref agent core pc hint accs) ∧ (s.touchPref agent core pc hint accs).mem = s.mem ∧ s.cache.OnlyAsks (s.touchPref agent core pc hint accs).cache := by
  obtain ⟨hbias, hmem⟩ := s.takeBias_onlyMem accs
  refine ⟨hbias.trans (State.onCaches_onlyMem _ _).1, hmem, ?_⟩
  rw [State.touchPref, State.onCaches]
  have hasks := Caches.byFrame_onlyAsks (fun (c : Caches) frame secs => c.ask_onlyAsks agent frame (predIdxOf pc frame) (agent == core && (s.readOnlyGlobal core frame).isSome) (c.wanted core frame pc hint secs))
    (s.takeBias accs).cache accs
  dsimp only
  rw [Caches.follow_of_same_quires hasks.1, ← s.takeBias_cache accs]
  exact hasks

/-- A pref that has read its offset asks for its sectors and passes. -/
theorem pref_passes {s u : State} (h : s.Here) (pops : SMap Nat) (hu : (s.popped pops).OnlyMem u) (hmem : u.mem = s.mem) (i : Instr) :
    s.OthersSame (u.retire i) ∧ (u.retire i).mem = s.mem ∧ (u.retire i).groups = s.groups ∧ s.Passed (u.retire i) i ∧
      (u.retire i).w.still = (s.w.freePops pops).still ∧ (u.retire i).w.pend = s.w.pend ∧ (u.retire i).cache = u.cache := by
  have hpopped := State.popped_onlyWarp h pops
  have hcur : u.cur = s.cur := (hu.field State.cur).trans (hpopped.field State.cur)
  have hwarps : u.warps = (s.popped pops).warps := hu.field State.warps
  have hw : u.w = s.w.freePops pops := (hu.field State.w).trans (State.popped_w h pops)
  have hhere : u.Here := by
    rw [State.Here, hwarps, hcur, ← hpopped.field State.cur]
    exact State.popped_here h pops
  obtain ⟨honly, ⟨hpc, hspec⟩, hstill, hpend⟩ := State.retire_spec hhere i
  rw [hw] at hpc hspec hstill hpend
  refine ⟨⟨(honly.field State.cur).trans hcur, fun k hk => ?_⟩, (honly.field State.mem).trans hmem,
    (honly.field State.groups).trans ((hu.field State.groups).trans (hpopped.field State.groups)), ⟨hpc, hspec⟩, hstill, hpend, honly.field State.cache⟩
  rw [honly.2 k (by rwa [hcur]), hwarps, hpopped.2 k hk]

end Sys2Proof.Machine
end

section
/-! SUPPORT. Requests for pages, and the completion of a preq (R198). -/

namespace Sys2Proof.Machine

/-- Asking for pages changes what is asked for alone, and every page is asked for. -/
theorem State.requestPages_spec (ctx : Nat) (pages : List Nat) (s : State) :
    let t := pages.foldl (fun s va => s.requestPage ctx va) s
    { t with resReqs := s.resReqs } = s ∧ (∀ r ∈ s.resReqs, r ∈ t.resReqs) ∧ ∀ va ∈ pages, (ctx, va / 4096 * 4096) ∈ t.resReqs := by
  induction pages generalizing s with
  | nil => exact ⟨rfl, fun r hr => hr, by simp⟩
  | cons va t ih =>
    have hone : { s.requestPage ctx va with resReqs := s.resReqs } = s ∧ (∀ r ∈ s.resReqs, r ∈ (s.requestPage ctx va).resReqs) ∧
        (ctx, va / 4096 * 4096) ∈ (s.requestPage ctx va).resReqs := by
      unfold State.requestPage
      split
      · next hasked => exact ⟨rfl, fun r hr => hr, by simpa using hasked⟩
      · exact ⟨rfl, fun r hr => List.mem_append_left _ hr, List.mem_append_right _ List.mem_cons_self⟩
    obtain ⟨honly, hold, hnew⟩ := hone
    obtain ⟨ihonly, ihold, ihnew⟩ := ih (s.requestPage ctx va)
    refine ⟨?_, fun r hr => ihold r (hold r hr), fun x hx => ?_⟩
    · exact (congrArg (fun u : State => { u with resReqs := s.resReqs }) ihonly).trans honly
    · rcases List.mem_cons.1 hx with rfl | hx
      · exact ihold _ hnew
      · exact ihnew x hx

theorem State.get_semAdd (s : State) (grp : Nat) (twin : Bool) (n : Nat) (v : Word) :
    SMap.get 0 (((s.semAdd grp twin n v).groupAt grp).semsOf twin) n = SMap.get 0 ((s.groupAt grp).semsOf twin) n + v := by
  rw [State.semAdd, State.groupAt, State.setGroup, SMap.get_put_same]
  cases twin <;> simp [Group.semsOf, SMap.get_put_same]

theorem State.semAdd_onlyGroups (s : State) (grp : Nat) (twin : Bool) (n : Nat) (v : Word) : { s.semAdd grp twin n v with groups := s.groups } = s := rfl

/-- A preq that is done completes its instruction and adds 1 to its semaphore. -/
theorem State.preqDone_spec {s : State} {w : Warp} (q : Preq) (hw : SMap.find s.warps q.warp = some w) :
    let t := s.preqDone q
    { t with groups := s.groups } = s.setWarp q.warp (w.complete q.seq []) ∧ (q.sem = none → t.groups = s.groups) ∧
      ∀ n, q.sem = some n → SMap.get 0 ((t.groupAt q.grp).semsOf w.twin) n = SMap.get 0 ((s.groupAt q.grp).semsOf w.twin) n + 1 := by
  intro t
  have ht : t = s.preqDone q := rfl
  rw [State.preqDone, State.modWarp_eq hw, State.warpAt_of_find hw] at ht
  rw [ht]
  cases hsem : q.sem with
  | none => exact ⟨rfl, fun _ => rfl, by simp⟩
  | some n =>
    refine ⟨rfl, by simp, fun m hm => ?_⟩
    obtain rfl : n = m := Option.some.inj hm
    exact State.get_semAdd _ _ _ _ _

theorem Warp.mem_complete {w : Warp} {f : Inflight} (hf : f ∈ w.inflight) : { f with done := true } ∈ (w.complete f.seq []).inflight := by
  refine List.mem_map.2 ⟨f, hf, ?_⟩
  simp

theorem preqComplete_spec {core idx : Nat} {q : Preq} {s : State} (hq : (s.coreAt core).preqs[idx]? = some q) (hready : s.preqReady q = true) (hw : (SMap.find s.warps q.warp).isSome = true) :
    ∃ t, exec (.preqComplete core idx) s = .next t ∧ (t.coreAt core).preqs = (s.coreAt core).preqs.eraseIdx idx ∧ t.mem = s.mem ∧
      (∀ f ∈ (s.warpAt q.warp).inflight, f.seq = q.seq → { f with done := true } ∈ (t.warpAt q.warp).inflight) ∧
      ∀ n, q.sem = some n → SMap.get 0 ((t.groupAt q.grp).semsOf (s.warpAt q.warp).twin) n = SMap.get 0 ((s.groupAt q.grp).semsOf (s.warpAt q.warp).twin) n + 1 := by
  obtain ⟨w, hw⟩ := Option.isSome_iff_exists.1 hw
  have hexec : exec (.preqComplete core idx) s = .next ((s.modCore core fun c => { c with preqs := c.preqs.eraseIdx idx }).preqDone q) := by
    show execPreqComplete core idx s = _
    rw [execPreqComplete, hq]
    simp only [hready, if_true]
  obtain ⟨honly, -, hsem⟩ := (s.modCore core fun c => { c with preqs := c.preqs.eraseIdx idx }).preqDone_spec q hw
  rw [State.warpAt_of_find hw]
  generalize (s.modCore core fun c => { c with preqs := c.preqs.eraseIdx idx }).preqDone q = t at honly hsem hexec
  refine ⟨t, hexec, ?_, (congrArg State.mem honly).trans rfl, fun f hf hseq => ?_, hsem⟩
  · have hcore := congrArg (fun u : State => (u.coreAt core).preqs) honly
    exact hcore.trans (congrArg Core.preqs (s.coreAt_modCore_same core fun c => { c with preqs := c.preqs.eraseIdx idx }))
  · have hwarp := congrArg (fun u : State => u.warpAt q.warp) honly
    have hto : t.warpAt q.warp = w.complete q.seq [] := by
      refine hwarp.trans ?_
      rw [State.warpAt, State.setWarp_warps, SMap.get_put_same]
    rw [hto, ← hseq]
    exact Warp.mem_complete hf

/-! ### preq -/

theorem preq_counter (h : Hdr) (klen kbase : Kr) (sem : BitVec 6) (useSem : Bool) (imm : BitVec 16) {dc : Dc} (hdc : dc ≠ 7) : (Instr.preq h klen kbase sem useSem imm dc).counter = some dc.toNat :=
  if_neg hdc

/-- A preq with an empty range: it counts, is done at once, and passes. -/
theorem preq_empty {s : State} (h : s.Here) (i : Instr) {c : Nat} (hc : i.counter = some c) (q : Preq) (hwarp : q.warp = s.cur) (hseq : q.seq = s.w.seqNo) (hqgrp : q.grp = s.w.grp) :
    let t := ((s.modW fun w => w.count i.counter [] false []).preqDone q).retire i
    t.mem = s.mem ∧ t.w.runPc = s.w.runPc + BitVec.ofNat 64 (4 * i.words) ∧ (t.w.uncounted s.w).still = s.w.still ∧ t.w.pend = s.w.pend ∧ s.w.Counted t.w c [] [] ∧
      (q.sem = none → t.grp = s.grp) ∧ ∀ n, q.sem = some n → SMap.get 0 (t.grp.semsOf s.w.twin) n = SMap.get 0 (s.grp.semsOf s.w.twin) n + 1 := by
  intro t
  have ht : t = ((s.modW fun w => w.count i.counter [] false []).preqDone q).retire i := rfl
  let w' := (s.w.count i.counter [] false []).complete s.w.seqNo []
  have hv : (s.modW fun w => w.count i.counter [] false []) = s.setW (s.w.count i.counter [] false []) := State.modW_eq h _
  rw [hv] at ht
  obtain ⟨honly, hnone, hsome⟩ := (s.setW (s.w.count i.counter [] false [])).preqDone_spec q (by rw [hwarp]; exact SMap.find_put_same _ _ _)
  generalize (s.setW (s.w.count i.counter [] false [])).preqDone q = u at honly hnone hsome ht
  let s1 : State := { s with groups := u.groups }
  have hu : u = s1.setW w' := by
    have hback := congrArg (fun x : State => { x with groups := u.groups }) honly
    refine hback.trans ?_
    rw [hwarp, hseq]
    show { s with groups := u.groups, warps := SMap.put (SMap.put s.warps s.cur _) s.cur w' } = { s with groups := u.groups, warps := SMap.put s.warps s.cur w' }
    rw [SMap.put_put]
  have hun : w'.uncounted s.w = s.w := by rw [Warp.complete_uncounted, Warp.count_uncounted]
  obtain ⟨hothers, ⟨hpc, -⟩, hstill, hpend, -, hin, hsn, hmarks, hdc⟩ := State.counted_retire_spec (s := s1) h i hun rfl rfl rfl
  rw [← hu, ← ht] at hothers hpc hstill hpend hin hsn hmarks hdc
  have hgrp : t.w.grp = s.w.grp := (congrArg Warp.grp hstill :)
  have hgroups : t.groups = u.groups := hothers.field State.groups
  have hgroup : t.grp = u.groupAt s.w.grp := by rw [State.grp, hgrp, State.groupAt, hgroups, State.groupAt]
  refine ⟨hothers.field State.mem, hpc, hstill, hpend, ?_, fun hnosem => ?_, fun n hsem => ?_⟩
  · rw [Warp.Counted, hin, hsn, hmarks, hdc]
    have hcounted := s.w.count_complete_counted c [] []
    rwa [← hc] at hcounted
  · rw [hgroup, State.groupAt, hnone hnosem]
    rfl
  · have htwin : (s.w.count i.counter [] false []).twin = s.w.twin := Warp.count_same _ _ _ _ _ Warp.twin fun _ => rfl
    rw [htwin, hqgrp] at hsome
    rw [hgroup]
    exact hsome n hsem

/-- A preq that is held counts, incomplete, and passes. -/
theorem preq_held {s b : State} (h : s.Here) (hb : { b with cores := s.cores, resReqs := s.resReqs } = s) (i : Instr) {c : Nat} (hc : i.counter = some c) :
    let t := (b.modW fun w => w.count i.counter [] false []).retire i
    t.mem = s.mem ∧ t.w.runPc = s.w.runPc + BitVec.ofNat 64 (4 * i.words) ∧ (t.w.uncounted s.w).still = s.w.still ∧ t.w.pend = s.w.pend ∧ t.groups = s.groups ∧
      ⟨s.w.seqNo, c, false, [], s.w.sched, []⟩ ∈ t.w.inflight ∧ t.cores = b.cores ∧ t.resReqs = b.resReqs := by
  intro t
  have same {α : Type} (f : State → α) : f { b with cores := s.cores, resReqs := s.resReqs } = f s := congrArg f hb
  have hw : b.w = s.w := same State.w
  have hhere : b.Here := by
    rw [State.Here, same State.warps, same State.cur]
    exact h
  have ht : t = (b.setW (s.w.count i.counter [] false [])).retire i := by rw [← hw, ← State.modW_eq hhere fun w => w.count i.counter [] false []]
  obtain ⟨hothers, ⟨hpc, -⟩, hstill, hpend, -, hin, -, -, -⟩ := State.counted_retire_spec hhere i (Warp.count_uncounted s.w i.counter [] false []) (by rw [hw]) (by rw [hw]) (by rw [hw])
  rw [← ht] at hothers hpc hstill hpend hin
  refine ⟨(hothers.field State.mem).trans (same State.mem), by rw [hpc, hw], hstill, hpend, (hothers.field State.groups).trans (same State.groups), ?_, hothers.field State.cores, hothers.field State.resReqs⟩
  rw [hin, hc]
  exact List.mem_append_right _ List.mem_cons_self

theorem uniAddr_eq_place (w : Warp) (kbase : Kr) (imm : BitVec 16) : uniAddr (w.rdK kbase.toNat) imm = w.place kbase imm := rfl

/-- The pages of a range that a preq asks for. -/
def State.absentPages (s : State) (ctx ea len : Nat) : List Nat :=
  (s.pagesOf ctx ea len).filterMap fun p => match p.2 with
    | .ok x => if pteP x.pte || s.pageLost x then none else some p.1
    | .error _ => none

theorem State.mem_absentPages (s : State) (ctx ea len va : Nat) :
    va ∈ s.absentPages ctx ea len ↔ ∃ x, (va, .ok x) ∈ s.pagesOf ctx ea len ∧ pteP x.pte = false ∧ s.pageLost x = false := by
  rw [State.absentPages, List.mem_filterMap]
  constructor
  · rintro ⟨⟨v, r⟩, hp, heq⟩
    cases r with
    | error d => simp at heq
    | ok x =>
      simp only [Option.ite_none_left_eq_some, Bool.or_eq_true, not_or, Bool.not_eq_true, Option.some.injEq] at heq
      obtain ⟨⟨hP, hlost⟩, rfl⟩ := heq
      exact ⟨x, hp, hP, hlost⟩
  · rintro ⟨x, hp, hP, hlost⟩
    exact ⟨_, hp, by simp [hP, hlost]⟩


theorem preq_spec (h : Hdr) (klen kbase : Kr) (sem : BitVec 6) (useSem : Bool) (imm : BitVec 16) (dc : Dc) {s : State} (hhere : s.Here) (hdc : dc ≠ 7)
    (hlen : (s.w.rdK klen.toNat).toNat = 0 ∨ s.w.place kbase imm + (s.w.rdK klen.toNat).toNat ≤ 2 ^ 57 ∧ (s.coreAt s.w.core).preqs.length < 16) :
    let i := Instr.preq h klen kbase sem useSem imm dc
    let len := (s.w.rdK klen.toNat).toNat
    let ea := s.w.place kbase imm
    ∃ t, exec i s = .next t ∧ t.mem = s.mem ∧ t.w.runPc = s.w.runPc + BitVec.ofNat 64 (4 * i.words) ∧ (t.w.uncounted s.w).still = s.w.still ∧ t.w.pend = s.w.pend ∧
      (len = 0 → s.w.Counted t.w dc.toNat [] [] ∧
        SMap.get 0 (t.grp.semsOf s.w.twin) sem.toNat = SMap.get 0 (s.grp.semsOf s.w.twin) sem.toNat + (if useSem then 1 else 0)) ∧
      (len ≠ 0 → ⟨s.w.seqNo, dc.toNat, false, [], s.w.sched, []⟩ ∈ t.w.inflight ∧ t.groups = s.groups ∧
        ∃ pages, (t.coreAt s.w.core).preqs = (s.coreAt s.w.core).preqs ++ [⟨s.cur, s.w.grp, s.w.seqNo, s.ctxNo, pages, if useSem then some sem.toNat else none⟩] ∧
          (∀ va, va ∈ pages ↔ ∃ x, (va, .ok x) ∈ s.pagesOf s.ctxNo ea len ∧ pteP x.pte = false ∧ s.pageLost x = false) ∧
          ∀ va ∈ pages, (s.ctxNo, va / 4096 * 4096) ∈ t.resReqs) := by
  intro i len ea
  have hc : i.counter = some dc.toNat := preq_counter h klen kbase sem useSem imm hdc
  let q : Preq := ⟨s.cur, s.w.grp, s.w.seqNo, s.ctxNo, s.absentPages s.ctxNo ea len, if useSem then some sem.toNat else none⟩
  let u := q.pages.foldl (fun s va => s.requestPage q.ctx va) s
  let b := u.modCore u.w.core fun c => { c with preqs := c.preqs ++ [q] }
  by_cases hzero : len = 0
  · refine ⟨((s.modW fun w => w.count i.counter [] false []).preqDone q).retire i, ?_, ?_⟩
    · show execPreq h klen kbase sem useSem imm dc s = _
      exact congrArg Host.Outcome.next (if_pos hzero)
    obtain ⟨hmem, hpc, hstill, hpend, hcounted, hnone, hsome⟩ := preq_empty hhere i hc q rfl rfl rfl
    refine ⟨hmem, hpc, hstill, hpend, fun _ => ⟨hcounted, ?_⟩, fun hne => absurd hzero hne⟩
    cases useSem with
    | true => exact hsome _ rfl
    | false =>
      rw [hnone rfl]
      simp
  · obtain ⟨hrange, hroom⟩ := hlen.resolve_left hzero
    obtain ⟨honly, -, hasked⟩ := State.requestPages_spec q.ctx q.pages s
    have hb : { b with cores := s.cores, resReqs := s.resReqs } = s := congrArg (fun u : State => { u with cores := s.cores }) honly
    refine ⟨(b.modW fun w => w.count i.counter [] false []).retire i, ?_, ?_⟩
    · show execPreq h klen kbase sem useSem imm dc s = _
      have hfits : ¬ 2 ^ 57 < ea + len := by omega
      have hfree : ¬ 16 ≤ (s.coreAt s.w.core).preqs.length := by omega
      refine congrArg Host.Outcome.next ((if_neg hzero).trans ((if_neg hfits).trans (if_neg hfree)))
    obtain ⟨hmem, hpc, hstill, hpend, hgroups, hin, htcores, hreqs⟩ := preq_held hhere hb i hc
    refine ⟨hmem, hpc, hstill, hpend, fun hz => absurd hz hzero, fun _ => ⟨hin, hgroups, q.pages, ?_, fun va => s.mem_absentPages _ _ _ va, fun va hva => ?_⟩⟩
    · have hcore : u.w.core = s.w.core := (congrArg (fun u : State => u.w.core) honly :)
      have hsame : (u.coreAt s.w.core).preqs = (s.coreAt s.w.core).preqs := (congrArg (fun u : State => (u.coreAt s.w.core).preqs) honly :)
      rw [State.coreAt, htcores, ← State.coreAt, ← hcore, State.coreAt_modCore_same, hcore, hsame]
    · rw [hreqs]
      exact hasked va hva

end Sys2Proof.Machine
end

section
/-! SUPPORT. Page table entries that become resident (R198, R199 to R202). -/

namespace Sys2Proof.Machine

/-! ### An entry with P = 1 in place of P = 0 -/

theorem bitAt_false_iff {p i : Nat} : bitAt p i = false ↔ p / 2 ^ i % 2 = 0 := by
  rw [bitAt, beq_eq_false_iff_ne]
  omega

theorem div_add_two {p m : Nat} (h : pteP p = false) : (p + 2) / 2 ^ (m + 2) = p / 2 ^ (m + 2) := by
  have hbit := bitAt_false_iff.1 h
  have hfour : (p + 2) / 4 = p / 4 := by omega
  rw [Nat.pow_add', ← Nat.div_div_eq_div_mul, ← Nat.div_div_eq_div_mul, show 2 ^ 2 = 4 from rfl, hfour]

theorem fld_add_two {p : Nat} (h : pteP p = false) (m n : Nat) : fld (p + 2) (m + 2) n = fld p (m + 2) n := by rw [fld, fld, div_add_two h]

theorem bitAt_add_two {p : Nat} (h : pteP p = false) (m : Nat) : bitAt (p + 2) (m + 2) = bitAt p (m + 2) := by rw [bitAt, bitAt, div_add_two h]

theorem pteV_add_two (p : Nat) : pteV (p + 2) = pteV p := by simp [pteV, bitAt]

theorem pteP_add_two {p : Nat} (h : pteP p = false) : pteP (p + 2) = true := by
  have hbit := bitAt_false_iff.1 h
  rw [pteP, bitAt, beq_iff_eq]
  omega

theorem pteL_add_two {p : Nat} (h : pteP p = false) : pteL (p + 2) = pteL p := bitAt_add_two h 2
theorem pteW_add_two {p : Nat} (h : pteP p = false) : pteW (p + 2) = pteW p := bitAt_add_two h 0
theorem pteTier_add_two {p : Nat} (h : pteP p = false) : pteTier (p + 2) = pteTier p := fld_add_two h 3 3
theorem pteCc_add_two {p : Nat} (h : pteP p = false) : pteCc (p + 2) = pteCc p := fld_add_two h 6 2
theorem pteAc_add_two {p : Nat} (h : pteP p = false) : pteAc (p + 2) = pteAc p := fld_add_two h 8 2
theorem ptePfn_add_two {p : Nat} (h : pteP p = false) : ptePfn (p + 2) = ptePfn p := fld_add_two h 10 40

theorem flags_add_two {p : Nat} (h : pteP p = false) : fld (p + 2) 0 12 = fld p 0 12 + 2 := by
  have hbit := bitAt_false_iff.1 h
  simp only [fld]
  omega

/-- A leaf stays well formed. -/
theorem malformed_add_two {p : Nat} (h : pteP p = false) (hl : pteL p = true) (level : Nat) : malformed level (p + 2) = malformed level p := by
  rw [malformed, malformed, pteL_add_two h, pteTier_add_two h, pteW_add_two h, pteCc_add_two h, pteAc_add_two h, fld_add_two h 50 12, if_pos hl, if_pos hl]

theorem pteP_of_flags {p q : Nat} (h : fld p 0 12 = fld q 0 12) : pteP p = pteP q := by
  simp only [fld] at h
  exact congrArg (· == 1) (show p / 2 ^ 1 % 2 = q / 2 ^ 1 % 2 by omega)

theorem pteL_of_flags {p q : Nat} (h : fld p 0 12 = fld q 0 12) : pteL p = pteL q := by
  simp only [fld] at h
  exact congrArg (· == 1) (show p / 2 ^ 4 % 2 = q / 2 ^ 4 % 2 by omega)

theorem groupOk_iff (f : Nat → Nat) :
    groupOk ((List.range 16).map f) = true ↔
      ptePfn (f 0) % 16 = 0 ∧ ∀ j, j < 16 → ptePfn (f j) = ptePfn (f 0) + j ∧ fld (f j) 0 12 = fld (f 0) 0 12 ∧ fld (f j) 52 12 = fld (f 0) 52 12 := by
  have hcons : (List.range 16).map f = f 0 :: (List.range' 1 15).map f := rfl
  have hlen : (f 0 :: (List.range' 1 15).map f).length = 16 := by simp
  have hget (j : Nat) (hj : j < 16) : (f 0 :: (List.range' 1 15).map f).getD j 0 = f j := by
    rw [← hcons, List.getD_eq_getElem?_getD, List.getElem?_map, List.getElem?_range hj]
    rfl
  rw [hcons, groupOk, hlen, Bool.and_eq_true, beq_iff_eq, List.all_eq_true]
  refine and_congr_right fun _ => forall_congr' fun j => ?_
  rw [List.mem_range]
  refine imp_congr_right fun hj => ?_
  dsimp only
  rw [hget j hj]
  simp only [Bool.and_eq_true, beq_iff_eq, and_assoc]

/-- A group of leaves keeps its shape as all of them become resident. -/
theorem groupOk_add_two {f : Nat → Nat} (h : groupOk ((List.range 16).map f) = true) (hP : ∀ j, j < 16 → pteP (f j) = false) :
    groupOk ((List.range 16).map fun j => f j + 2) = true := by
  obtain ⟨hfirst, hall⟩ := (groupOk_iff f).1 h
  have hP0 := hP 0 (by omega)
  refine (groupOk_iff _).2 ⟨by rw [ptePfn_add_two hP0, hfirst], fun j hj => ?_⟩
  obtain ⟨hpfn, hflags, hhigh⟩ := hall j hj
  have hPj := hP j hj
  exact ⟨by rw [ptePfn_add_two hPj, ptePfn_add_two hP0, hpfn], by rw [flags_add_two hPj, flags_add_two hP0, hflags], by rw [fld_add_two hPj 50, fld_add_two hP0 50, hhigh]⟩

/-! ### Entries in memory -/

theorem ofBytes_lt (bs : List Byte) : ofBytes bs < 256 ^ bs.length := by
  induction bs with
  | nil => simp [ofBytes]
  | cons b t ih =>
    have hb := b.isLt
    rw [ofBytes, List.length_cons, Nat.pow_succ]
    omega

theorem State.entryAt_lt (s : State) (a : Nat) : s.entryAt a < 2 ^ 64 := by
  have h := ofBytes_lt (s.mem.readN a 8)
  rwa [Memory.readN_length] at h

theorem State.entryAt_writeThrough (s : State) {a b x : Nat} (ha : a % 8 = 0) (hb : b % 8 = 0) (hx : x < 2 ^ 64) :
    (s.writeThrough a (toBytes 8 x)).entryAt b = if b = a then x else s.entryAt b := by
  rw [State.entryAt, (s.writeThrough_onlyMem a (toBytes 8 x)).2]
  split_ifs with heq
  · have hback := Memory.number_writeN (n := 8) s.mem a (xs := [x]) (i := 0) rfl
    rw [List.flatMap_singleton, Nat.zero_mul, Nat.add_zero] at hback
    rw [heq, hback]
    omega
  · rw [State.entryAt]
    refine congrArg ofBytes (Memory.readN_congr fun j hj => Memory.read_writeN_outside _ _ _ _ ?_)
    rw [toBytes_length]
    omega

/-- P of an entry becomes 1. -/
def State.makeResident (s : State) (a : Nat) : State := if pteP (s.entryAt a) then s else s.writeThrough a (toBytes 8 (s.entryAt a + 2))

theorem State.makeResident_spec (s : State) {a : Nat} (ha : a % 8 = 0) :
    s.OnlyMem (s.makeResident a) ∧ ∀ b, b % 8 = 0 → (s.makeResident a).entryAt b = if b = a ∧ pteP (s.entryAt b) = false then s.entryAt b + 2 else s.entryAt b := by
  unfold State.makeResident
  split
  · next hP => exact ⟨State.OnlyMem.refl s, fun b _ => (if_neg fun hb => by rw [hb.1, hP] at hb; exact Bool.false_ne_true hb.2.symm).symm⟩
  · next hP =>
    have hP := Bool.eq_false_iff.2 hP
    have hbit := bitAt_false_iff.1 hP
    have hlt := s.entryAt_lt a
    refine ⟨(s.writeThrough_onlyMem a _).1, fun b hb => ?_⟩
    rw [State.entryAt_writeThrough s ha hb (by omega)]
    by_cases heq : b = a
    · rw [if_pos heq, if_pos ⟨heq, heq ▸ hP⟩, heq]
    · rw [if_neg heq, if_neg fun h => heq h.1]

/-- The entries at some addresses become resident, and nothing else of the machine changes. -/
theorem State.makeAllResident_spec {as : List Nat} (has : ∀ a ∈ as, a % 8 = 0) (s : State) :
    let t := as.foldl State.makeResident s
    s.OnlyMem t ∧ ∀ b, b % 8 = 0 → t.entryAt b = if b ∈ as ∧ pteP (s.entryAt b) = false then s.entryAt b + 2 else s.entryAt b := by
  induction as generalizing s with
  | nil => exact ⟨State.OnlyMem.refl s, fun b _ => by simp⟩
  | cons a t ih =>
    obtain ⟨honly, hentry⟩ := s.makeResident_spec (has a List.mem_cons_self)
    obtain ⟨ihonly, ihentry⟩ := ih (fun x hx => has x (List.mem_cons_of_mem _ hx)) (s.makeResident a)
    refine ⟨honly.trans ihonly, fun b hb => (ihentry b hb).trans ?_⟩
    rw [hentry b hb]
    cases hP : pteP (s.entryAt b) with
    | true => simp [hP]
    | false =>
      by_cases hba : b = a
      · simp [hba, pteP_add_two (hba ▸ hP)]
      · simp [hba, hP]

/-! ### The walk of a page that becomes resident -/

theorem State.setResident_eq (s : State) (ctx va : Nat) : s.setResident ctx va = (State.setResident.table s va 5 (s.ctxAt ctx).troot).foldl State.makeResident s := rfl

/-- The address of the entry of a table that a walk reads. -/
def slotOf (va level table : Nat) : Nat := table + 8 * vaIndex va level

/-- The addresses of the 16 entries of a 64 KiB group. -/
def groupSlots (va table : Nat) : List Nat := (List.range 16).map fun j => table + 8 * (vaIndex va 1 / 16 * 16) + 8 * j

theorem groupSlots_eq (va table : Nat) : (List.range 16).map (fun j => table + 8 * (vaIndex va 1 / 16 * 16 + j)) = groupSlots va table :=
  List.map_congr_left fun j _ => by omega

theorem slotOf_mem_groupSlots (va table : Nat) : slotOf va 1 table ∈ groupSlots va table :=
  List.mem_map.2 ⟨vaIndex va 1 % 16, List.mem_range.2 (by omega), by rw [slotOf]; omega⟩

/-- What a walk that finds a leaf has met in a table: the entry of a lower table, or the leaf, alone or in a group of 16. -/
theorem State.walkFrom_ok {s : State} {va level table : Nat} {x : Leaf} (h : s.walkFrom va (level + 1) table = .ok x) :
    let e := s.entryAt (slotOf va (level + 1) table)
    let slots := State.setResident.table s va (level + 1) table
    pteV e = true ∧ malformed (level + 1) e = false ∧
      (pteL e = false ∧ slots = State.setResident.table s va level (fld e 12 40 * 4096) ∧ s.walkFrom va level (fld e 12 40 * 4096) = .ok x ∨
       pteL e = true ∧ x.pte = e ∧ slots = [slotOf va (level + 1) table] ∧ (level + 1 = 2 ∨ pteTier e = 0) ∨
       pteL e = true ∧ x.pte = e ∧ slots = groupSlots va table ∧ level = 0 ∧ pteTier e ≠ 0 ∧ groupOk ((groupSlots va table).map s.entryAt) = true) := by
  intro e slots
  have hslots : slots = State.setResident.table s va (level + 1) table := rfl
  rw [State.setResident.table] at hslots
  rw [State.walkFrom] at h
  dsimp only at hslots h
  rw [← slotOf] at hslots h
  rw [groupSlots_eq] at hslots
  have hgroup : ((List.range 16).map fun j => s.entryAt (table + 8 * (vaIndex va 1 / 16 * 16) + 8 * j)) = (groupSlots va table).map s.entryAt := by
    rw [groupSlots, List.map_map]
    rfl
  rw [hgroup] at h
  have he : s.entryAt (slotOf va (level + 1) table) = e := rfl
  rw [he] at hslots h
  cases hV : pteV e with
  | false => simp [hV] at h
  | true =>
  cases hM : malformed (level + 1) e with
  | true => simp [hV, hM] at h
  | false =>
  rw [hV, hM] at h hslots
  refine ⟨rfl, rfl, ?_⟩
  cases hL : pteL e with
  | false =>
    rw [hL] at h hslots
    exact Or.inl ⟨rfl, hslots, h⟩
  | true =>
    rw [hL] at h hslots
    have hlow : level < 2 := by
      rw [malformed, if_pos hL] at hM
      simp only [Bool.or_eq_false_iff, decide_eq_false_iff_not] at hM
      omega
    have hleaf : (if level + 1 = 2 then
        if (pteTier e == 3 || pteTier e == 4) && fld e 12 9 == 0 then .ok ⟨va / 2 ^ 21 * 2 ^ 21, 2 ^ 21, e⟩ else .error 0x06
      else if pteTier e = 0 then .ok ⟨va / 4096 * 4096, 4096, e⟩
      else if pteTier e = 1 ∨ pteTier e = 2 then
        if groupOk ((groupSlots va table).map s.entryAt) then .ok ⟨va / 4096 * 4096, 4096, e⟩ else .error 0x06
      else .error 0x06 : Except Nat Leaf) = .ok x := h
    have hlist : slots = if level = 0 ∧ (pteTier e = 1 ∨ pteTier e = 2) then groupSlots va table else [slotOf va (level + 1) table] := hslots
    by_cases htwo : level + 1 = 2
    · rw [if_pos htwo] at hleaf
      split_ifs at hleaf
      cases hleaf
      exact Or.inr (Or.inl ⟨rfl, rfl, hlist.trans (if_neg (by omega)), Or.inl htwo⟩)
    · rw [if_neg htwo] at hleaf
      have hzero : level = 0 := by omega
      by_cases htier : pteTier e = 0
      · rw [if_pos htier] at hleaf
        refine Or.inr (Or.inl ⟨rfl, ?_, ?_, Or.inr htier⟩)
        · cases hleaf
          rfl
        · rw [hlist, if_neg (by omega)]
      · rw [if_neg htier] at hleaf
        split_ifs at hleaf with hgroups hok
        cases hleaf
        exact Or.inr (Or.inr ⟨rfl, rfl, hlist.trans (if_pos ⟨hzero, hgroups⟩), hzero, htier, hok⟩)

theorem slotOf_aligned (va level : Nat) {table : Nat} (ht : table % 4096 = 0) : slotOf va level table % 8 = 0 := by
  rw [slotOf]
  omega

theorem groupSlots_aligned {va table : Nat} (ht : table % 4096 = 0) : ∀ a ∈ groupSlots va table, a % 8 = 0 := by
  intro a ha
  obtain ⟨j, -, rfl⟩ := List.mem_map.1 ha
  omega

/-- The entries of a group have the flags of any one of them. -/
theorem flags_of_groupOk {va table : Nat} {f : Nat → Nat} (h : groupOk ((groupSlots va table).map f) = true) {a b : Nat} (ha : a ∈ groupSlots va table) (hb : b ∈ groupSlots va table) :
    fld (f a) 0 12 = fld (f b) 0 12 := by
  rw [groupSlots, List.map_map] at h
  obtain ⟨-, hall⟩ := (groupOk_iff _).1 h
  obtain ⟨i, hi, rfl⟩ := List.mem_map.1 ha
  obtain ⟨j, hj, rfl⟩ := List.mem_map.1 hb
  exact (hall i (List.mem_range.1 hi)).2.1.trans (hall j (List.mem_range.1 hj)).2.1.symm

/-- The entries that become resident with a page whose walk finds a leaf: they are leaves. -/
theorem State.table_leaves {s : State} {va : Nat} {x : Leaf} : ∀ {level table : Nat}, table % 4096 = 0 → s.walkFrom va level table = .ok x →
    ∀ a ∈ State.setResident.table s va level table, a % 8 = 0 ∧ pteL (s.entryAt a) = true := by
  intro level
  induction level with
  | zero => intro table _ _ a ha; simp [State.setResident.table] at ha
  | succ level ih =>
    intro table ht hw a ha
    obtain ⟨-, -, ⟨-, hslots, hdown⟩ | ⟨hL, -, hslots, -⟩ | ⟨hL, -, hslots, rfl, -, hok⟩⟩ := State.walkFrom_ok hw
    · exact ih (Nat.mul_mod_left _ _) hdown a (hslots ▸ ha)
    · obtain rfl := List.mem_singleton.1 (hslots ▸ ha)
      exact ⟨slotOf_aligned _ _ ht, hL⟩
    · have ha := hslots ▸ ha
      exact ⟨groupSlots_aligned ht a ha, (pteL_of_flags (flags_of_groupOk hok ha (slotOf_mem_groupSlots va table))).trans hL⟩

/-- Where the entries `slots` of `s`, leaves all, have become resident in `u`, the walk of their page finds the leaf with P = 1. -/
theorem State.walkFrom_resident {s u : State} {va : Nat} {x : Leaf} (hP : pteP x.pte = false) {slots : List Nat} (hleaves : ∀ a ∈ slots, pteL (s.entryAt a) = true)
    (hu : ∀ a, a % 8 = 0 → u.entryAt a = if a ∈ slots ∧ pteP (s.entryAt a) = false then s.entryAt a + 2 else s.entryAt a) :
    ∀ {level table : Nat}, table % 4096 = 0 → State.setResident.table s va level table = slots → s.walkFrom va level table = .ok x →
      u.walkFrom va level table = .ok { x with pte := x.pte + 2 } := by
  intro level
  induction level with
  | zero => intro table _ _ hw; exact absurd hw (by simp [State.walkFrom])
  | succ level ih =>
    intro table ht hslots hw
    obtain ⟨hV, hM, ⟨hL, hsame, hdown⟩ | ⟨hL, hx, hsame, hone⟩ | ⟨hL, hx, hsame, rfl, htier, hok⟩⟩ := State.walkFrom_ok hw
    · have hkeep : u.entryAt (slotOf va (level + 1) table) = s.entryAt (slotOf va (level + 1) table) :=
        (hu _ (slotOf_aligned _ _ ht)).trans (if_neg fun hin => by rw [hleaves _ hin.1] at hL; exact Bool.false_ne_true hL.symm)
      rw [State.walkFrom]
      dsimp only
      rw [← slotOf, hkeep, hV, hM, hL]
      exact ih (Nat.mul_mod_left _ _) (hsame.symm.trans hslots) hdown
    · rw [hx] at hP
      have hin : slotOf va (level + 1) table ∈ slots := by rw [← hslots, hsame]; exact List.mem_singleton_self _
      have hset : u.entryAt (slotOf va (level + 1) table) = s.entryAt (slotOf va (level + 1) table) + 2 := (hu _ (slotOf_aligned _ _ ht)).trans (if_pos ⟨hin, hP⟩)
      rw [State.walkFrom] at hw ⊢
      dsimp only at hw ⊢
      rw [← slotOf] at hw ⊢
      rw [hset, pteV_add_two, malformed_add_two hP hL, pteL_add_two hP, pteTier_add_two hP, fld_add_two hP 10 9]
      simp only [hV, hM, hL, Bool.not_true, Bool.false_eq_true, if_false, if_true] at hw ⊢
      rcases hone with htwo | hzero
      · rw [if_pos htwo] at hw ⊢
        split_ifs at hw ⊢
        cases hw
        rfl
      · rw [hzero] at hw ⊢
        simp only [if_true] at hw ⊢
        split_ifs at hw ⊢ <;> (cases hw; rfl)
    · rw [hx] at hP
      have hall (a : Nat) (ha : a ∈ groupSlots va table) : pteP (s.entryAt a) = false ∧ u.entryAt a = s.entryAt a + 2 := by
        have hPa := (pteP_of_flags (flags_of_groupOk hok ha (slotOf_mem_groupSlots va table))).trans hP
        exact ⟨hPa, (hu a (groupSlots_aligned ht a ha)).trans (if_pos ⟨by rw [← hslots, hsame]; exact ha, hPa⟩)⟩
      have hset := (hall _ (slotOf_mem_groupSlots va table)).2
      have hgroup (v : State) : ((List.range 16).map fun j => v.entryAt (table + 8 * (vaIndex va 1 / 16 * 16) + 8 * j)) = (groupSlots va table).map v.entryAt := by
        rw [groupSlots, List.map_map]
        rfl
      have hok' : groupOk ((groupSlots va table).map u.entryAt) = true := by
        rw [← hgroup] at hok ⊢
        have hto : ((List.range 16).map fun j => u.entryAt (table + 8 * (vaIndex va 1 / 16 * 16) + 8 * j)) = (List.range 16).map fun j => s.entryAt (table + 8 * (vaIndex va 1 / 16 * 16) + 8 * j) + 2 :=
          List.map_congr_left fun j hj => (hall _ (List.mem_map_of_mem hj)).2
        rw [hto]
        exact groupOk_add_two hok fun j hj => (hall _ (List.mem_map_of_mem (List.mem_range.2 hj))).1
      rw [State.walkFrom] at hw ⊢
      dsimp only at hw ⊢
      rw [← slotOf] at hw ⊢
      rw [hgroup] at hw ⊢
      rw [Nat.zero_add] at hV hM hL hw ⊢
      rw [hset, pteV_add_two, malformed_add_two hP hL, pteL_add_two hP, pteTier_add_two hP]
      simp only [hV, hM, hL, hok, hok', Bool.not_true, Bool.false_eq_true, if_false, if_true] at hw ⊢
      rw [if_neg (by omega), if_neg htier] at hw ⊢
      split_ifs at hw ⊢
      cases hw
      rfl

theorem pageResident_spec {ctx va : Nat} {s : State} {x : Leaf} (hreq : (ctx, va / 4096 * 4096) ∈ s.resReqs) (hroot : (s.ctxAt ctx).troot % 4096 = 0) (hw : s.walk ctx va = .ok x)
    (hP : pteP x.pte = false) :
    ∃ t, exec (.pageResident ctx va) s = .next t ∧ t.walk ctx va = .ok { x with pte := x.pte + 2 } ∧ (ctx, va / 4096 * 4096) ∉ t.resReqs ∧ t.warps = s.warps := by
  let b : State := { s with resReqs := s.resReqs.filter (· != (ctx, va / 4096 * 4096)) }
  let slots := State.setResident.table b va 5 (b.ctxAt ctx).troot
  have hwalk : b.walkFrom va 5 (b.ctxAt ctx).troot = .ok x := (State.walk_congr (s := s) (t := b) rfl rfl va).trans hw
  have hleaves := State.table_leaves (s := b) hroot hwalk
  obtain ⟨honly, hentry⟩ := State.makeAllResident_spec (fun a ha => (hleaves a ha).1) b
  refine ⟨slots.foldl State.makeResident b, ?_, ?_, ?_, honly.field State.warps⟩
  · show execPageResident ctx va s = _
    exact congrArg Host.Outcome.next (if_pos (List.contains_iff_mem.2 hreq))
  · have hctx : ((slots.foldl State.makeResident b).ctxAt ctx).troot = (b.ctxAt ctx).troot := (honly.field (fun u : State => (u.ctxAt ctx).troot) :)
    rw [State.walk, hctx]
    exact State.walkFrom_resident hP (fun a ha => (hleaves a ha).2) hentry hroot rfl hwalk
  · have hreqs : (slots.foldl State.makeResident b).resReqs = s.resReqs.filter (· != (ctx, va / 4096 * 4096)) := honly.field State.resReqs
    rw [hreqs]
    simp

theorem pref_spec (h : Hdr) (l2 : Bool) (kbase : Kr) (voff : Vr) (size : ESize) (imm : BitVec 16) (hint : BitVec 3) (scale : Scale) {s : State} {fs : Reads} {pops : SMap Nat} (hhere : s.Here)
    (hreads : s.w.readRegs (if scaleTimes scale size.bytes = 0 then [] else [voff.toNat]) [] = .ok (fs, pops)) :
    let i := Instr.pref h l2 kbase voff size imm hint scale
    ∃ t, exec i s = .next t ∧ s.OthersSame t ∧ t.mem = s.mem ∧ t.groups = s.groups ∧ s.Passed t i ∧ t.w.still = (s.w.freePops pops).still ∧ t.w.pend = s.w.pend ∧
      t.cache.quires = s.cache.quires ∧ ∀ q ∈ s.cache.coh, q ∈ t.cache.coh := by
  intro i
  have hpopped := State.popped_onlyWarp hhere pops
  have hcache : (s.popped pops).cache = s.cache := hpopped.field State.cache
  have hexec : ∃ agent accs, exec i s = .next (((s.popped pops).touchPref agent s.w.core s.w.runPc.toNat hint.toNat accs).retire i) :=
    ⟨_, _, congrArg Host.Outcome.next (State.withSrcs_ok i hreads _)⟩
  obtain ⟨agent, accs, hexec⟩ := hexec
  obtain ⟨honly, hmem, hquires, hcoh⟩ := (s.popped pops).touchPref_spec agent s.w.core s.w.runPc.toNat hint.toNat accs
  obtain ⟨hothers, htmem, hgroups, hpassed, hstill, hpend, htcache⟩ := pref_passes hhere pops honly (hmem.trans hpopped.mem_eq) i
  rw [← htcache, hcache] at hquires hcoh
  exact ⟨_, hexec, hothers, htmem, hgroups, hpassed, hstill, hpend, hquires, hcoh⟩

end Sys2Proof.Machine
end

section
/-! OBLIGATION. Prefetches and residency requests (R193, R198). -/

namespace Sys2Proof.Machine

/-- Settles O22: a pref changes no quire and withdraws no request, so its directories stay; a preq counts and is held or done; the walk of a page made resident meets the same entries, the leaf's with P = 1. -/
theorem prefetches : Obligations.Prefetches := by
  refine ⟨?_, ?_, fun core idx q s => preqComplete_spec, fun ctx va s x => pageResident_spec⟩
  · intro h l2 kbase voff size imm hint scale s fs pops i hhere hreads
    exact pref_spec h l2 kbase voff size imm hint scale hhere hreads
  · intro h klen kbase sem useSem imm dc s i len ea hhere hdc hlen
    exact preq_spec h klen kbase sem useSem imm dc hhere hdc hlen

end Sys2Proof.Machine
end

section
/-! OBLIGATION. Contexts: the failure of an agent whose number is no core's (R221, R229). -/

namespace Sys2Proof.Machine

/-- A quire of the first sector of frame 0. -/
def firstSector (st : QState) (dirty : List Nat) : Quire := { frame := 0, first := 0, last := 0, st := st, dirty := dirty, age := 0, lowAcc := 64, highAcc := 0, predIdx := 0, fwd := none }

/-- Core 0 owns a sector, dirty, of which agent 4096, the L2 slices of its die, hold a copy; the die's directory has room for no entry. -/
def fullDirState : State :=
  { State.reset with cache := { Caches.reset with quires := [(0, [firstSector .m [0]]), (4096, [firstSector .s []])], homeCap := 0 } }

/-- As agent 4096 loses its quires, the directory recalls the copy of core 0, whose write-back puts a quire there again. -/
theorem fullDirState_fails : ∃ t, exec (.agentFailure (.core 4096)) fullDirState = .next t ∧ t.quires 4096 ≠ [] :=
  ⟨_, rfl, by decide⟩

/-- Refutes O52: its clause on the failure of a core speaks of every number `n`, and 4096 is the number of the L2 slices of die 0, which the write-back of a recalled copy fills again at once. -/
theorem not_contexts : ¬ Obligations.Contexts := by
  intro h
  obtain ⟨-, -, -, -, -, -, -, -, -, hfailure, -⟩ := h
  obtain ⟨t, hexec, hempty, -⟩ := hfailure 4096 fullDirState
  obtain ⟨u, hexec', hfull⟩ := fullDirState_fails
  obtain rfl : t = u := Host.Outcome.next.inj (hexec.symm.trans hexec')
  exact hfull hempty

end Sys2Proof.Machine
end

section
/-! OBLIGATION. Coherence traffic: the page of a peer that changes its bias (R204). -/

namespace Sys2Proof.Machine

/-- The leaf of a resident 2 MiB page of a peer (tier 4), at frame 0, with a bias. -/
def peerBiasLeaf : Nat := 0x193

/-- A context whose four levels of tables, at 4096 to 16384, map virtual address 0 to that page; no cache holds anything. -/
def peerBiasState : State :=
  { State.reset with
    ctxs := [(0, { Ctx.reset with troot := 4096 })]
    mem := [(4096, 0x2001), (8192, 0x3001), (12288, 0x4001), (16384, peerBiasLeaf)].foldl (fun m e => m.writeN e.1 (toBytes 8 e.2)) [] }

/-- The page is one that a walk reaches: its leaf is well formed and resident (R199 to R201). -/
theorem peerBiasState_walk : peerBiasState.walk 0 0 = .ok ⟨0, 2 ^ 21, peerBiasLeaf⟩ := by decide

theorem peerBiasState_pageLeaf : peerBiasState.pageLeaf 0 = some peerBiasLeaf := by decide

/-- The flip covers the page of 2 MiB. -/
theorem peerBiasState_flips : ∃ t, exec (.biasFlip 0 true) peerBiasState = .next t ∧ t.bias = [(0, 2 ^ 21)] := by
  have hspan : peerBiasState.pageSpan 0 = (0, 2 ^ 21) := by
    rw [State.pageSpan, peerBiasState_pageLeaf]
    rfl
  have hbiased : (peerBiasState.pageLeaf (0 * 4096)).any biased = true := by
    rw [Nat.zero_mul, peerBiasState_pageLeaf]
    rfl
  have hexec : exec (.biasFlip 0 true) peerBiasState = .next (peerBiasState.flipBias 0 true) := congrArg Host.Outcome.next (if_pos hbiased)
  refine ⟨_, hexec, ?_⟩
  rw [State.flipBias, hspan]
  rfl

/-- Refutes O54: a flip of a 2 MiB page of a peer to the host, here of a state with empty caches, covers the whole page, and not the 64 KiB that the statement's clause on flips gives every page outside tier 3. -/
theorem not_coherenceTraffic : ¬ Obligations.CoherenceTraffic := by
  intro h
  obtain ⟨-, -, -, -, -, -, -, -, hpages, -, -⟩ := h
  have hfit : peerBiasState.cache.DirsFit := by
    refine ⟨?_, ?_, ?_⟩ <;> decide
  obtain ⟨-, hflips, -⟩ := hpages 0 0 0 0 peerBiasState le_rfl (Nat.zero_le _) hfit
  obtain ⟨hto, -⟩ := hflips peerBiasLeaf peerBiasState_pageLeaf (by decide)
  obtain ⟨t, hexec, hbias, -⟩ := hto fun a q hq => absurd hq List.not_mem_nil
  obtain ⟨u, hexec', hbias'⟩ := peerBiasState_flips
  obtain rfl : t = u := Host.Outcome.next.inj (hexec.symm.trans hexec')
  rw [hbias'] at hbias
  exact absurd hbias (by decide)

end Sys2Proof.Machine
end
